-- ==== Sys2Proof/Word.lean ====
section
/-! DEFINITION. The machine's word types: 64-bit scalars, 32-bit instruction words, bytes (R4, R61). -/

namespace Sys2Proof

/-- A 64-bit value: scalar registers, tagged pointers, CSRs (R61). -/
abbrev Word := BitVec 64

/-- A 32-bit word of a code line (R50). -/
abbrev Word32 := BitVec 32

/-- The smallest addressable unit (R4). -/
abbrev Byte := BitVec 8

end Sys2Proof
end

