-- ==== Sys2Proof/Syntax.lean ====
section
/-! DEFINITION. The operations of the part: every row of the opcode table is one constructor of `Instr`.
The first 203 are instructions with an encoding (R65 to R78); the others are steps of the part, of the host or
of another processor, which have no encoding. -/

namespace Sys2Proof

/-- Scalar register s0 to s63 (R61); s56 to s63 are queue ports (R62). -/
abbrev SReg := Fin 64
/-- Vector register v0 to v2047 (R61). -/
abbrev VReg := Fin 2048
/-- Compact predicate k0 to k7 (R61). -/
abbrev KReg := Fin 8
/-- Generator g0 to g31 (R61). -/
abbrev GReg := Fin 32
/-- Tile handle h0 to h63 (R61). -/
abbrev HReg := Fin 64
/-- Core id 0 to 127 (R12). -/
abbrev CoreId := Fin 128
/-- Group slot 0 to 3 (R13). -/
abbrev SlotId := Fin 4
/-- Context number 0 to 15 (R234). -/
abbrev CtxId := Fin 16
/-- Copy-engine channel 0 to 3 (R13). -/
abbrev ChId := Fin 4
/-- Lattice 0 to 39 (R368). -/
abbrev LatId := Fin 40
/-- Pseudo-channel 0 to 511 (R15). -/
abbrev PcId := Fin 512
/-- Ralkor link or CXL port 0 to 7 (R17). -/
abbrev PortId := Fin 8

/-- A group's three hardware contexts (R10). -/
inductive RoleKind where
  | fetch | compute | drain
  deriving DecidableEq, Repr

/-- One role context of the device. -/
structure RoleId where
  core : CoreId
  slot : SlotId
  role : RoleKind
  deriving DecidableEq, Repr

/-- Who drives a control register: the host or a role of a privileged group (R234). -/
inductive Agent where
  | host
  | role (r : RoleId)
  deriving DecidableEq, Repr

/-- Scope codes 0b000 to 0b100 (R68, R217). -/
inductive Scope where
  | core | cluster | die | device | enclosure
  deriving DecidableEq, Repr

/-- FENCE kinds (R67). -/
inductive FenceKind where
  | acquire | release | full
  deriving DecidableEq, Repr

/-- Order codes of atomics (R68). -/
inductive MemOrder where
  | relaxed | acquire | release | acqRel
  deriving DecidableEq, Repr

/-- Access sizes (R66). -/
inductive Size where
  | b | h | w | d
  deriving DecidableEq, Repr

/-- Element types, ty 0 to 12 (R25). -/
inductive ElemTy where
  | f32 | bf16 | f16 | e4m3 | e5m2 | e2m1 | i32 | i16 | i8 | n32 | n16 | n8 | e8m0
  deriving DecidableEq, Repr

/-- Rounding modes (R32). -/
inductive RM where
  | rne | rtz | rup | rdn
  deriving DecidableEq, Repr

/-- Element width operand of KSET and KCNT (R129). -/
inductive PWidth where
  | w8 | w16 | w32
  deriving DecidableEq, Repr

/-- Address space operand of MKPTR (R68). -/
inductive Space where
  | virt | scratch | acc | weight | queue
  deriving DecidableEq, Repr

/-- Direct target of format B (R58). -/
structure TargetB where
  delta : BitVec 10
  word : Fin 16
  deriving DecidableEq, Repr

/-- Direct target of format J (R58). -/
structure TargetJ where
  delta : BitVec 16
  word : Fin 16
  deriving DecidableEq, Repr

/-- A port named by QLEN, QPEEK, QTRY and QPUSHT: p0 to p3, then q0 to q3 (R296). -/
abbrev PortName := Fin 8

/-- The b operand of format V, as bs selects it (R69). -/
inductive BSrc where
  | reg (v : VReg)
  | scalar (r : SReg)
  | imm (i : BitVec 11)
  deriving DecidableEq, Repr

/-- Operands of format V (R69). -/
structure VOp where
  k : KReg
  len : Fin 8
  rm : RM
  z : Bool
  d : VReg
  a : VReg
  ty : ElemTy
  ty2 : ElemTy
  b : BSrc
  deriving DecidableEq, Repr

/-- Operands of format VM (R70). -/
structure VMOp where
  k : KReg
  len : Fin 8
  g : GReg
  ty : ElemTy
  d : VReg
  a : SReg
  imm : BitVec 15
  deriving DecidableEq, Repr

/-- Operands of format X (R71). -/
structure XOp where
  ga : GReg
  gb : GReg
  slab : Fin 16
  i32acc : Bool
  rm : RM
  ma : Bool
  mb : Bool
  d : VReg
  e : VReg
  s : SReg
  ty : ElemTy
  deriving DecidableEq, Repr

/-- A tile source: a handle or a generator (R72). -/
inductive TSrc where
  | handle (h : HReg)
  | gen (g : GReg)
  deriving DecidableEq, Repr

/-- Operands of format T (R72). -/
structure TOp where
  h : HReg
  x : TSrc
  y : TSrc
  z : TSrc
  fn : BitVec 6
  ty : ElemTy
  rm : RM
  s : SReg
  t : SReg
  deriving DecidableEq, Repr

/-- Operands of format E (R73). -/
structure EOp where
  gs : GReg
  gd : GReg
  ch : ChId
  fl : BitVec 8
  d : SReg
  a : SReg
  b : SReg
  c : SReg
  imm : BitVec 8
  deriving DecidableEq, Repr

/-- A queue that QUEUE_STALL may report (R307). -/
inductive QueueName where
  | role (core : CoreId) (slot : SlotId) (q : Fin 4)
  | bindable (ctx : CtxId) (va : Nat)
  deriving DecidableEq, Repr

/-- What a message data flit stream carries once reassembled (R411, R415, R417, R418): the sender's contribution
to a collective, the data of a CSEND, its acknowledgement, or the notice that the CRECV that matches it is enqueued. -/
inductive MsgKind where
  | contribution (op : Fin 3)
  | send
  | ack
  | ready
  deriving DecidableEq, Repr

/-- A pool line as it travels between a processor and its proxy (R398, R409): 64 bytes, poison state, size code. -/
structure LineData where
  data : List Byte
  poisoned : Bool
  code : BitVec 2
  deriving DecidableEq, Repr

/-- What a power window has measured (R447): power over the limit, and a junction at up to 105 °C (0), above that (1), or one that has
reached 115 °C (2). -/
structure PowerReading where
  power : Bool
  junction : Fin 3
  deriving DecidableEq, Repr

/-- A message between ranks (R415 to R418). `rank` is the sender's rank, `num` the match number n, `group` the group index of
the sender of a collective. -/
structure Message where
  kind : MsgKind
  srcProc : Fin 16
  dstProc : Fin 16
  dstCtx : CtxId
  setId : BitVec 16
  ranks : Nat
  procs : List Nat
  ctxs : List Nat
  tag : BitVec 32
  rank : Nat
  num : Nat
  group : Nat
  fmt : Nat
  data : List Nat
  poisoned : List Nat
  deriving DecidableEq, Repr

/-- The operations of the part. -/
inductive Instr where
  -- SYS (R67, R115)
  | nop
  | endGroup
  | tfence
  | trap (code : BitVec 20)
  | brk (code : BitVec 20)
  | fence (scope : Scope) (kind : FenceKind)
  | cyc (d : SReg)
  | csrr (d : SReg) (csr : BitVec 14)
  | csrw (a : SReg) (csr : BitVec 14)
  | csrs (a : SReg) (csr : BitVec 14)
  | csrc (a : SReg) (csr : BitVec 14)
  -- ALU3 (R98)
  | add (d a b : SReg)
  | sub (d a b : SReg)
  | mul (d a b : SReg)
  | mulh (d a b : SReg)
  | mulhn (d a b : SReg)
  | div (d a b : SReg)
  | divn (d a b : SReg)
  | rem (d a b : SReg)
  | remn (d a b : SReg)
  | and (d a b : SReg)
  | or (d a b : SReg)
  | xor (d a b : SReg)
  | andn (d a b : SReg)
  | shl (d a b : SReg)
  | shr (d a b : SReg)
  | sar (d a b : SReg)
  | rol (d a b : SReg)
  | min (d a b : SReg)
  | max (d a b : SReg)
  | minn (d a b : SReg)
  | maxn (d a b : SReg)
  | seq (d a b : SReg)
  | sne (d a b : SReg)
  | slt (d a b : SReg)
  | sltn (d a b : SReg)
  | sle (d a b : SReg)
  | slen (d a b : SReg)
  | clz (d a : SReg)
  | ctz (d a : SReg)
  | popc (d a : SReg)
  | sel (d a b : SReg)
  | addsh1 (d a b : SReg)
  | addsh2 (d a b : SReg)
  | addsh3 (d a b : SReg)
  -- immediates (R100 to R103)
  | addi (d a : SReg) (imm : BitVec 14)
  | andi (d a : SReg) (imm : BitVec 14)
  | ori (d a : SReg) (imm : BitVec 14)
  | xori (d a : SReg) (imm : BitVec 14)
  | slti (d a : SReg) (imm : BitVec 14)
  | shli (d a : SReg) (n : BitVec 6)
  | shri (d a : SReg) (n : BitVec 6)
  | sari (d a : SReg) (n : BitVec 6)
  | ldi (d : SReg) (imm : BitVec 20)
  | ldih (d : SReg) (imm : BitVec 20)
  | bfx (d a : SReg) (pos wm1 : BitVec 6)
  | bfi (d a : SReg) (pos wm1 : BitVec 6)
  -- pointers (R104, R105)
  | mkptr (d a b : SReg) (space : Space)
  | ptrx (d a : SReg) (field : Fin 4)
  -- predicates (R129)
  | kset (d : KReg) (a : SReg) (w : PWidth)
  | kcnt (d : SReg) (a : KReg) (w : PWidth)
  | kmin (d a b : KReg)
  | kget (d : SReg) (a : KReg)
  -- scalar memory (R106 to R109)
  | ld (sz : Size) (d a : SReg) (off : BitVec 10)
  | ldz (sz : Size) (d a : SReg) (off : BitVec 10)
  | st (sz : Size) (d a : SReg) (off : BitVec 10)
  | ldaq (sz : Size) (scope : Scope) (d a : SReg)
  | strl (sz : Size) (scope : Scope) (a b : SReg)
  | aadd (scope : Scope) (ord : MemOrder) (d a b : SReg)
  | aand (scope : Scope) (ord : MemOrder) (d a b : SReg)
  | aor (scope : Scope) (ord : MemOrder) (d a b : SReg)
  | axor (scope : Scope) (ord : MemOrder) (d a b : SReg)
  | amin (scope : Scope) (ord : MemOrder) (d a b : SReg)
  | amax (scope : Scope) (ord : MemOrder) (d a b : SReg)
  | aminn (scope : Scope) (ord : MemOrder) (d a b : SReg)
  | amaxn (scope : Scope) (ord : MemOrder) (d a b : SReg)
  | axchg (scope : Scope) (ord : MemOrder) (d a b : SReg)
  | acas (scope : Scope) (ord : MemOrder) (d a b : SReg)
  -- control flow (R111 to R114)
  | beq (a b : SReg) (t : TargetB)
  | bne (a b : SReg) (t : TargetB)
  | blt (a b : SReg) (t : TargetB)
  | bge (a b : SReg) (t : TargetB)
  | bltn (a b : SReg) (t : TargetB)
  | bgen (a b : SReg) (t : TargetB)
  | bz (a : SReg) (t : TargetB)
  | bnz (a : SReg) (t : TargetB)
  | jl (d : SReg) (t : TargetJ)
  | jr (d a : SReg)
  | loop (c : SReg) (t : TargetJ)
  -- queues (R296)
  | qbind (d a : SReg) (p : Fin 4) (push unbind : Bool)
  | qlen (d : SReg) (p : PortName)
  | qpeek (d : SReg) (p : PortName)
  | qtry (d a : SReg) (p : PortName)
  | qpusht (d a : SReg) (p : PortName)
  | qcreate (d a : SReg)
  | qdel (d a : SReg)
  -- generators (R158)
  | gld (g : GReg) (a : SReg)
  | gst (g : GReg) (a : SReg)
  | gadv (g : GReg) (a : SReg) (ax : Fin 4)
  | gset (g : GReg) (a : SReg) (f : Fin 12)
  -- barriers (R312)
  | binit (d a b : SReg)
  | barr (d a : SReg)
  | bwait (d a b : SReg)
  | bsync (d a : SReg)
  | btest (d a b : SReg)
  -- tasks (R257, R258, R275)
  | spawn (d a : SReg)
  | park (a : SReg)
  | cancel (a : SReg)
  | waitl (d a b : SReg)
  | prog (a : SReg)
  -- pool (R302, R405)
  | pflush (a b : SReg)
  | pinv (a b : SReg)
  | nqpost (d a b : SReg)
  | nqpop (d a b : SReg)
  | nqwait (d a b : SReg)
  -- pages (R364, R365)
  | tlbi (a b : SReg)
  | pgmig (d a b : SReg)
  -- vector (R132)
  | vadd (o : VOp) | vsub (o : VOp) | vmul (o : VOp) | vfma (o : VOp) | vfms (o : VOp) | vmax (o : VOp)
  | vmin (o : VOp) | vabs (o : VOp) | vneg (o : VOp) | vscl (o : VOp) | vand (o : VOp) | vor (o : VOp)
  | vxor (o : VOp) | vshl (o : VOp) | vshr (o : VOp) | vsar (o : VOp) | vcmpeq (o : VOp) | vcmplt (o : VOp)
  | vcmple (o : VOp) | vsel (o : VOp) | vcvt (o : VOp) | vmov (o : VOp) | vsplat (o : VOp) | viota (o : VOp)
  | vexp2 (o : VOp) | vlog2 (o : VOp) | vrcp (o : VOp) | vrsq (o : VOp) | vsqrt (o : VOp) | vtanh (o : VOp)
  | vsigm (o : VOp) | vredsum (o : VOp) | vredmax (o : VOp) | vredmin (o : VOp) | vscan (o : VOp) | vperm (o : VOp)
  | vbcast (o : VOp) | vclamp (o : VOp)
  -- vector memory (R147)
  | vld (o : VMOp) | vst (o : VMOp) | vlds (o : VMOp) | vsts (o : VMOp) | vgath (o : VMOp) | vscat (o : VMOp)
  | vpack (o : VMOp) | vunpk (o : VMOp)
  -- matrix (R162)
  | mma (o : XOp) | mmas (o : XOp) | mmac (o : XOp) | bld (o : XOp) | zacc (o : XOp) | acvt (o : XOp)
  -- tile (R199)
  | tload (o : TOp) | tmul (o : TOp) | tew (o : TOp) | tred (o : TOp) | tcvt (o : TOp) | tview (o : TOp)
  | tgath (o : TOp) | tsel (o : TOp) | force (o : TOp) | tst (o : TOp) | tdrop (o : TOp) | tstat (o : TOp)
  | tpol (o : TOp)
  -- transfer (R332)
  | cpy (o : EOp) | cpyt (o : EOp) | cpym (o : EOp) | enq (o : EOp) | waitid (o : EOp) | tidr (o : EOp)
  | publish (o : EOp)
  -- stream (R388)
  | lfload (o : EOp) | lbind (o : EOp) | lstart (o : EOp) | lbar (o : EOp) | lstat (o : EOp) | lstop (o : EOp)
  -- link (R416)
  | cred (o : EOp) | csend (o : EOp) | crecv (o : EOp) | mcst (o : EOp)
  -- kernel (R74)
  | fork (x y : BitVec 20)
  | yield (x y : BitVec 20)
  | launch (d a : SReg)
  -- steps of the part
  | matrixResultStage (core : CoreId)
  | timedCommandDue (core : CoreId) (ch : ChId)
  | copyStart (core : CoreId) (ch : ChId)
  | chunkRetire (core : CoreId) (ch : ChId)
  | copyRetire (core : CoreId) (ch : ChId)
  | copyDrainTimeout (core : CoreId) (ch : ChId)
  | burstStart (lat : LatId) (slot : Fin 4) (port : Fin 8)
  | burstEnd (pc : PcId)
  | rowCompute (lat : LatId) (slot : Fin 4)
  | rowComplete (lat : LatId) (slot : Fin 4)
  | streamResumeFromHold (lat : LatId) (slot : Fin 4)
  | streamPark (lat : LatId) (slot : Fin 4)
  | streamUnpark (lat : LatId) (slot : Fin 4)
  | streamRelease (lat : LatId) (slot : Fin 4)
  | saveSequenceEnd (core : CoreId) (slot : SlotId)
  | restoreSequenceEnd (core : CoreId) (slot : SlotId)
  | groupStart (core : CoreId) (slot : SlotId)
  | groupRestore (core : CoreId) (slot : SlotId)
  | groupKill (core : CoreId) (slot : SlotId)
  | checkpointTimeout (core : CoreId) (slot : SlotId)
  | graphLaunchNode (ctx : CtxId) (graph : Fin 4096)
  | graphConditionNode (ctx : CtxId) (graph : Fin 4096)
  | graphLoopNode (ctx : CtxId) (graph : Fin 4096)
  | graphSwitchNode (ctx : CtxId) (graph : Fin 4096)
  | graphEndNode (ctx : CtxId) (graph : Fin 4096)
  | hostLaunch (ctx : CtxId) (desc : Option Word)
  | hostBar2Access (ctx : CtxId) (off : Fin (2 ^ 30)) (len : Nat) (store : Option (List Byte))
  | suspendComplete (ctx : CtxId)
  | drainComplete (ctx : CtxId)
  | scrubComplete (ctx : CtxId)
  | rotationBoundary (pc : PcId)
  | calendarSlot (pc : PcId) (slot : Fin 129)
  | atomLanding (i : Nat)
  | writeAck (i : Nat)
  | pageWalk (i : Nat)
  | fpqPageZeroed (ctx : CtxId)
  | latownChangeApply (lat : LatId) (slot : Fin 4)
  | faultQueueRetry (ctx : CtxId)
  | queueStall (q : QueueName)
  | dcZeroingComplete (id : Nat)
  | linkReplayRetrain (link : PortId)
  | bringUp (fail : Option (Fin 7))
  -- commands, and what comes from outside; a compiled program can hold only 244 kinds of records with fields, and the
  -- model itself builds none of those from here on that has fields; MEET (R74) has none
  | meet
  | dispatchDecision
  | create (by' : Agent)
  | load (by' : Agent)
  | run (by' : Agent)
  | suspend (by' : Agent)
  | resume (by' : Agent)
  | drain (by' : Agent)
  | rekey (by' : Agent)
  | calApply
  | calendarReset
  | fpqcmd (by' : Agent) (v : Word)
  | hbmsplitWrite (v : Word)
  | encnumWrite (v : Word)
  | latownWrite (v : Word)
  | lwinWrite (by' : Agent) (v : Word)
  | roleResume (by' : Agent)
  | skip (by' : Agent)
  | resumeat (by' : Agent)
  | abort (by' : Agent)
  | registerWrite (by' : Agent) (off : Nat) (v : Word)
  | deviceLevelFault (cls : Fin 16) (unit : BitVec 8)
  | powerWindow (reading : PowerReading)
  | fullThrottleTimeout
  | tamper
  | diag
  | reset
  | keyload
  | keyzero
  | fwstage
  | fwapply
  | dbgunlock
  | dbglock
  | dbglog
  | coresvcOut
  | coresvcIn
  | pccal
  | regdecl
  | regdrop
  | regstate
  | dcaccept
  | dcrelease
  | headdown
  | headup
  | proxy
  | linkrt
  | mbCommandComplete
  | headRetrainFailure (port : PortId)
  | poolResponse (line : Nat) (data : List Byte) (poisoned : Bool) (code : BitVec 2)
  | backInvalidationSnoop (line : Nat) (forWrite : Bool)
  | dcOffer (id base size : Nat)
  | dcRevokeRequest (id : Nat)
  | flitMessageData (link : PortId) (m : Message)
  | flitCredit (link : PortId) (vc : Fin 4) (n : Nat)
  | flitProxyRequest (link : PortId) (src : Fin 16) (line : Nat) (store : Option LineData)
  | flitProxyResponse (link : PortId) (line : Nat) (data : Option LineData)
  | flitSnoop (link : PortId) (line : Nat) (forWrite : Bool)
  | flitTime (link : PortId) (peerTime : Word)
  | timeFlitExchange
  | illegalInstruction
  | illegalLine
  | illegalFlow
  | powerDown
  | flitCrcFailure (link : PortId)
  | flitReservedType (link : PortId) (ty : Byte)
  deriving DecidableEq, Repr

end Sys2Proof
end

