-- ==== Sys2Proof/WellFormed.lean ====
section
/-! DEFINITION. Which operand combinations of a row are an instruction: the checks of R79, R75 and of each
family's encoding table. A word whose fields fail them is no instruction and raises illegal instruction. -/

namespace Sys2Proof

/-- Registers s56 to s63 are queue ports (R62). -/
def SReg.isPort (r : SReg) : Bool := 56 ≤ r.val

/-- Floating-point types ty 0 to 5 (the set F of R132). -/
def ElemTy.isF : ElemTy → Bool
  | .f32 | .bf16 | .f16 | .e4m3 | .e5m2 | .e2m1 => true
  | .i32 | .i16 | .i8 | .n32 | .n16 | .n8 | .e8m0 => false

/-- Signed integer types ty 6 to 8 (the set I of R132). -/
def ElemTy.isI : ElemTy → Bool
  | .i32 | .i16 | .i8 => true
  | .f32 | .bf16 | .f16 | .e4m3 | .e5m2 | .e2m1 | .n32 | .n16 | .n8 | .e8m0 => false

/-- Unsigned integer types ty 9 to 11 (the set U of R132). -/
def ElemTy.isU : ElemTy → Bool
  | .n32 | .n16 | .n8 => true
  | .f32 | .bf16 | .f16 | .e4m3 | .e5m2 | .e2m1 | .i32 | .i16 | .i8 | .e8m0 => false

/-- Integer types of either sign. -/
def ElemTy.isInt (t : ElemTy) : Bool := t.isI || t.isU

/-- The sets F, I and U of R132 together. -/
def ElemTy.isFIU (t : ElemTy) : Bool := t.isF || t.isInt

/-- The CSR numbers that R120 and the chapters Context, Transfer, Page, Stream, Link and Faults assign. -/
def csrAssigned (n : Nat) : Bool :=
  n ≤ 2 || (0x10 ≤ n && n ≤ 0x13) || (0x20 ≤ n && n ≤ 0x24) || (0x30 ≤ n && n ≤ 0x33)
    || (0x1000 ≤ n && n ≤ 0x1005) || (0x1010 ≤ n && n ≤ 0x1014) || (0x1018 ≤ n && n ≤ 0x101B)
    || (0x1020 ≤ n && n ≤ 0x1022) || (0x1030 ≤ n && n ≤ 0x1035) || n == 0x1040 || n == 0x1050

/-- Group length 1 to 6 (R69, R70). -/
def lenWf (n : Fin 8) : Bool := 1 ≤ n.val && n.val ≤ 6

/-- The rounding mode field of an instruction that uses it with floating types only (R132). -/
def rmForF (t : ElemTy) (rm : RM) : Bool := t.isF || rm == .rne

/-- The parts of a format V word that no rule of R132 varies: length, ty2, and rm, which is used with F types only. So rm is 0b00 with
e8m0, also in VSPLAT (DEDUCED, log 86). -/
def VOp.base (o : VOp) (tyOk : Bool) : Bool := lenWf o.len && tyOk && o.ty2 == .f32 && rmForF o.ty o.rm

/-- b is unused: bs is 0b00 and b is 0 (R132). -/
def VOp.noB (o : VOp) : Bool := o.b == .reg 0

/-- bs is 0b01 or 0b10 (R132). -/
def VOp.bScalarOrImm (o : VOp) : Bool :=
  match o.b with
  | .reg _ => false
  | .scalar _ | .imm _ => true

/-- bs is 0b00 (R132). -/
def VOp.bReg (o : VOp) : Bool :=
  match o.b with
  | .reg _ => true
  | .scalar _ | .imm _ => false

/-- Fields of format X that MMA, MMAS and MMAC leave zero (R162, R173). -/
def XOp.mmaWf (o : XOp) : Bool :=
  o.e == 0 && o.ty == .f32 && (o.ma || o.gb == 0) && (!o.i32acc || o.rm == .rne)

/-- A source operand field left unused (R72, R75). -/
def TSrc.unused (x : TSrc) : Bool := x == .handle 0

/-- A source that must be a handle. -/
def TSrc.isHandle : TSrc → Bool
  | .handle _ => true
  | .gen _ => false

/-- A source that must be a generator. -/
def TSrc.isGen : TSrc → Bool
  | .handle _ => false
  | .gen _ => true

/-- Operation codes of TEW (R199). -/
def tewFn (n : Nat) : Bool := n ≤ 9 || (0x18 ≤ n && n ≤ 0x1E) || n == 0x25

/-- TEW operations with a second source (R133, R183). -/
def tewBinary (n : Nat) : Bool := n ≤ 6 || n == 9 || n == 0x25

/-- TEW operations with a third source (R199). -/
def tewTernary (n : Nat) : Bool := n == 3 || n == 4

/-- A Lattice number in imm[5:0] (R332, R388). -/
def latImm (imm : BitVec 8) : Bool := imm.toNat % 64 ≤ 39

/-- Fields a, b, c of format E left zero. -/
def EOp.noAbc (o : EOp) : Bool := o.a == 0 && o.b == 0 && o.c == 0

/-- Flags and Lattice operand of a copy: fl[7:3] zero, imm zero unless LS (R332). -/
def EOp.copyFl (o : EOp) : Bool :=
  o.fl.toNat < 8 && (if o.fl.toNat / 4 % 2 = 1 then latImm o.imm else o.imm == 0)

/-- A word of a direct target names word 1 to 15 (R58). -/
def TargetB.wf (t : TargetB) : Bool := t.word != 0
/-- A word of a direct target names word 1 to 15 (R58). -/
def TargetJ.wf (t : TargetJ) : Bool := t.word != 0

/-- Is the operand combination an instruction of the spec (R79)? -/
def Instr.wf : Instr → Bool
  | .nop | .endGroup | .tfence | .trap _ | .brk _ | .fence _ _ | .cyc _ => true
  | .csrr _ n | .csrw _ n | .csrs _ n | .csrc _ n => csrAssigned n.toNat
  | .add _ _ _ | .sub _ _ _ | .mul _ _ _ | .mulh _ _ _ | .mulhn _ _ _ | .div _ _ _ | .divn _ _ _
  | .rem _ _ _ | .remn _ _ _ | .and _ _ _ | .or _ _ _ | .xor _ _ _ | .andn _ _ _ | .shl _ _ _
  | .shr _ _ _ | .sar _ _ _ | .rol _ _ _ | .min _ _ _ | .max _ _ _ | .minn _ _ _ | .maxn _ _ _
  | .seq _ _ _ | .sne _ _ _ | .slt _ _ _ | .sltn _ _ _ | .sle _ _ _ | .slen _ _ _
  | .clz _ _ | .ctz _ _ | .popc _ _ | .sel _ _ _ | .addsh1 _ _ _ | .addsh2 _ _ _ | .addsh3 _ _ _
  | .addi _ _ _ | .andi _ _ _ | .ori _ _ _ | .xori _ _ _ | .slti _ _ _
  | .shli _ _ _ | .shri _ _ _ | .sari _ _ _ | .ldi _ _ | .ldih _ _ => true
  | .bfx _ _ p w | .bfi _ _ p w => p.toNat + w.toNat < 64
  | .mkptr _ _ b sp => (sp != .virt && sp != .queue) || b == 0
  | .ptrx _ _ _ | .kset _ _ _ | .kcnt _ _ _ | .kmin _ _ _ | .kget _ _ => true
  | .ld _ _ _ _ | .ldz _ _ _ _ | .st _ _ _ _ | .ldaq _ _ _ _ | .strl _ _ _ _ => true
  | .aadd _ _ _ _ _ | .aand _ _ _ _ _ | .aor _ _ _ _ _ | .axor _ _ _ _ _ | .amin _ _ _ _ _
  | .amax _ _ _ _ _ | .aminn _ _ _ _ _ | .amaxn _ _ _ _ _ | .axchg _ _ _ _ _ | .acas _ _ _ _ _ => true
  | .beq _ _ t | .bne _ _ t | .blt _ _ t | .bge _ _ t | .bltn _ _ t | .bgen _ _ t | .bz _ t | .bnz _ t => t.wf
  | .jl _ t | .loop _ t => t.wf
  | .jr _ _ => true
  | .qbind d a _ push unbind => !d.isPort && !a.isPort && (!unbind || (a == 0 && !push))
  | .qlen d _ | .qpeek d _ => !d.isPort
  | .qtry d a _ => !d.isPort && !a.isPort && d != a
  | .qpusht d a _ | .qcreate d a | .qdel d a => !d.isPort && !a.isPort
  | .gld _ _ | .gst _ _ | .gadv _ _ _ | .gset _ _ _ => true
  | .binit d a b | .bwait d a b | .btest d a b => !d.isPort && !a.isPort && !b.isPort
  | .barr d a | .bsync d a => !d.isPort && !a.isPort
  | .spawn _ _ | .park _ | .cancel _ | .waitl _ _ _ | .prog _ | .meet => true
  | .pflush a b | .pinv a b | .tlbi a b => !a.isPort && !b.isPort
  | .nqpost d a b | .nqpop d a b | .nqwait d a b | .pgmig d a b => !d.isPort && !a.isPort && !b.isPort
  | .vadd o | .vsub o | .vmul o | .vfma o | .vfms o => o.base o.ty.isFIU
  | .vmax o | .vmin o | .vclamp o | .vcmpeq o | .vcmplt o | .vcmple o => o.base o.ty.isFIU && o.rm == .rne
  | .vabs o | .vneg o => o.base o.ty.isFIU && o.rm == .rne && o.noB
  | .vscl o => o.base o.ty.isF
  | .vand o | .vor o | .vxor o | .vsel o => o.base true && o.rm == .rne
  | .vshl o | .vshr o | .vsar o => o.base o.ty.isInt
  | .vcvt o => lenWf o.len && o.noB && (!(o.ty.isInt && o.ty2.isInt) || o.rm == .rne)
  | .vmov o => o.base true && o.rm == .rne && o.noB
  | .vsplat o => o.base true && o.bScalarOrImm && o.a == 0
  | .viota o => o.base o.ty.isFIU && o.bScalarOrImm && o.a == 0
  | .vexp2 o | .vlog2 o | .vrcp o | .vrsq o | .vsqrt o | .vtanh o | .vsigm o =>
    o.base (o.ty.isF && o.ty != .e2m1) && o.noB
  | .vredsum o => o.base o.ty.isFIU && o.noB && !o.z
  | .vredmax o | .vredmin o => o.base o.ty.isFIU && o.rm == .rne && o.noB && !o.z
  | .vscan o => o.base o.ty.isFIU && o.noB
  | .vperm o => o.base true && o.rm == .rne && o.bReg
  | .vbcast o => o.base true && o.rm == .rne && o.bScalarOrImm
  | .vld o | .vst o => lenWf o.len
  | .vlds o | .vsts o => lenWf o.len && (o.ty == .f32 || o.ty == .bf16 || o.ty == .f16)
  | .vgath o | .vscat o => lenWf o.len && o.imm.toNat < 2048
  | .vpack o | .vunpk o => lenWf o.len && 0 < o.imm.toInt
  | .mma o | .mmas o | .mmac o => o.mmaWf
  | .bld o => o.gb == 0 && !o.i32acc && o.rm == .rne && !o.ma && o.d == 0 && o.e == 0 && o.ty == .f32
  | .zacc o =>
    o.ga == 0 && o.gb == 0 && o.slab == 0 && !o.i32acc && o.rm == .rne && !o.ma && !o.mb && o.s == 0
      && o.ty == .f32 && o.d ≤ o.e
  | .acvt o => o.ga == 0 && o.gb == 0 && o.slab == 0 && !o.ma && !o.mb
  | .tload o => o.x.isGen && o.y.unused && o.z.unused && o.fn == 0 && o.t == 0
  | .tmul o => o.z.unused && o.fn == 0 && o.t == 0
  | .tew o =>
    o.x.isHandle && tewFn o.fn.toNat && o.t == 0
      && (if tewBinary o.fn.toNat then o.y.isHandle else o.y.unused)
      && (if tewTernary o.fn.toNat then o.z.isHandle else o.z.unused)
  | .tred o => o.x.isHandle && o.y.unused && o.z.unused && 0x1F ≤ o.fn.toNat && o.fn.toNat ≤ 0x21 && o.t == 0
  | .tcvt o => o.x.isHandle && o.y.unused && o.z.unused && o.fn == 0 && o.t == 0
  | .tview o => o.x.isHandle && o.y.unused && o.z.unused && o.fn == 0 && o.ty == .f32 && o.rm == .rne && o.t == 0
  | .tgath o => o.z.unused && o.fn == 0 && o.s != 0 && o.t == 0
  | .tsel o => o.x.isHandle && o.y.isHandle && o.z.isHandle && o.fn == 0 && o.rm == .rne && o.t == 0
  | .force o => o.x.unused && o.y.unused && o.z.unused && o.fn == 0 && o.ty == .f32 && o.rm == .rne
  | .tst o => o.x.isGen && o.y.unused && o.z.unused && o.fn == 0 && o.ty == .f32 && o.t == 0
  | .tdrop o =>
    o.x.unused && o.y.unused && o.z.unused && o.fn == 0 && o.ty == .f32 && o.rm == .rne && o.s == 0 && o.t == 0
  | .tstat o =>
    o.x.unused && o.y.unused && o.z.unused && o.fn.toNat ≤ 6 && (o.fn == 0 || o.h == 0) && o.ty == .f32
      && o.rm == .rne && o.s == 0
  | .tpol o => o.h == 0 && o.x.unused && o.y.unused && o.z.unused && o.fn == 0 && o.ty == .f32 && o.rm == .rne
  | .cpy o => o.copyFl && o.noAbc
  | .cpyt o => o.copyFl && o.b == 0 && o.c == 0
  | .cpym o => o.copyFl && o.a == 0
  | .enq o => o.gs == 0 && o.gd == 0 && o.ch == 0 && o.fl == 0 && o.b == 0 && o.c == 0 && o.imm == 0
  | .waitid o => o.gs == 0 && o.gd == 0 && o.fl == 0 && o.b == 0 && o.c == 0 && o.imm == 0
  | .tidr o => o.gs == 0 && o.gd == 0 && o.fl == 0 && o.noAbc && o.imm.toNat ≤ 3
  | .publish o =>
    o.gs == 0 && o.gd == 0 && o.ch == 0 && o.fl == 0 && o.d == 0 && o.b == 0 && o.c == 0 && o.imm.toNat ≤ 3
  | .lfload o => o.gs == 0 && o.gd == 0 && o.ch == 0 && o.fl == 0 && o.b == 0 && o.c == 0 && latImm o.imm
  | .lbind o =>
    o.ch == 0 && o.fl.toNat < 16 && o.d == 0 && o.noAbc && latImm o.imm
      && (if o.fl.toNat / 8 % 2 = 1 then o.gs == 0 && o.gd == 0
          else if o.fl.toNat / 4 % 2 = 1 then o.gs == 0 else o.gd == 0)
  | .lstart o | .lbar o => o.gs == 0 && o.gd == 0 && o.ch == 0 && o.fl == 0 && o.noAbc && latImm o.imm
  | .lstat o => o.gs == 0 && o.gd == 0 && o.ch == 0 && o.fl.toNat ≤ 5 && o.noAbc && latImm o.imm
  | .lstop o => o.gs == 0 && o.gd == 0 && o.ch == 0 && o.fl.toNat ≤ 1 && o.noAbc && latImm o.imm
  | .cred o => o.fl == 0 && o.c == 0 && o.imm.toNat ≤ 2
  | .csend o => o.fl == 0 && o.gd == 0 && o.imm == 0
  | .crecv o => o.fl == 0 && o.gs == 0 && o.imm == 0
  | .mcst o => o.fl == 0 && o.noAbc && o.imm == 0
  | .fork x y => x != 0 || y != 0
  | .yield x y => x != 0 && y != 0
  | .launch _ _ => true
  -- the rows below have no encoding; only operands that are sequences of bytes can be ill-formed
  | .matrixResultStage _ | .timedCommandDue _ _ | .copyStart _ _ | .chunkRetire _ _ | .copyRetire _ _
  | .copyDrainTimeout _ _ | .burstStart _ _ _ | .burstEnd _ | .rowCompute _ _ | .rowComplete _ _
  | .streamResumeFromHold _ _ | .streamPark _ _ | .streamUnpark _ _ | .streamRelease _ _
  | .saveSequenceEnd _ _ | .restoreSequenceEnd _ _ | .dispatchDecision | .groupStart _ _ | .groupRestore _ _
  | .groupKill _ _ | .checkpointTimeout _ _ | .graphLaunchNode _ _ | .graphConditionNode _ _
  | .graphLoopNode _ _ | .graphSwitchNode _ _ | .graphEndNode _ _ | .hostLaunch _ _ => true
  | .hostBar2Access _ _ len store =>
    1 ≤ len && len ≤ 512 && (match store with | none => true | some bs => bs.length == len)
  | .create _ | .load _ | .run _ | .suspend _ | .resume _ | .drain _ | .rekey _ | .suspendComplete _
  | .drainComplete _ | .scrubComplete _ | .calApply | .calendarReset | .rotationBoundary _ | .calendarSlot _ _
  | .atomLanding _ | .writeAck _ | .pageWalk _ | .fpqcmd _ _ | .fpqPageZeroed _ | .hbmsplitWrite _
  | .encnumWrite _ | .latownWrite _ | .latownChangeApply _ _ | .lwinWrite _ _ | .roleResume _ | .skip _
  | .resumeat _ | .abort _ | .registerWrite _ _ _ | .faultQueueRetry _ | .queueStall _
  | .deviceLevelFault _ _ | .powerWindow _ | .fullThrottleTimeout | .tamper | .bringUp _ | .diag | .reset
  | .keyload | .keyzero | .fwstage | .fwapply | .dbgunlock | .dbglock | .dbglog | .coresvcOut | .coresvcIn
  | .pccal | .regdecl | .regdrop | .regstate | .dcaccept | .dcrelease | .headdown | .headup | .proxy | .linkrt
  | .mbCommandComplete | .headRetrainFailure _ => true
  | .poolResponse _ data _ _ => data.length == 64
  | .backInvalidationSnoop _ _ | .dcOffer _ _ _ | .dcZeroingComplete _ | .dcRevokeRequest _
  | .flitMessageData _ _ | .flitCredit _ _ _ => true
  | .flitProxyRequest _ _ _ store => (match store with | none => true | some bs => bs.data.length == 64)
  | .flitProxyResponse _ _ data => (match data with | none => true | some bs => bs.data.isEmpty || bs.data.length == 64)
  | .flitSnoop _ _ _ | .flitTime _ _ | .timeFlitExchange | .linkReplayRetrain _ | .illegalInstruction
  | .illegalLine | .illegalFlow | .powerDown | .flitCrcFailure _ => true
  | .flitReservedType _ ty => 7 ≤ ty.toNat

end Sys2Proof
end

