-- ==== Sys2Proof/Decode.lean ====
section
/-! DEFINITION. Decoding: a total function from the words of a line to an instruction, or a named refusal
(R65 to R81), and after it the encoder, written from the same tables. Words are natural numbers here, so a
field is a quotient and a remainder. -/

namespace Sys2Proof

/-- Why a word is no instruction (R79). -/
inductive DecodeError where
  /-- No word at all, or the second word of a long instruction is missing (R54). -/
  | truncated
  /-- A major opcode that R79 lists. -/
  | unassignedMajor
  /-- A function or sub-op code beyond the tables of R67, R77 and R78. -/
  | unassignedFunction
  /-- A selector or code that R67 to R74 mark reserved, element types 13 to 15 among them. -/
  | reservedCode
  /-- A non-zero bit in a field marked zero, reserved or unused. -/
  | reservedField
  /-- The fields are legal one by one, but R79 or the family's encoding table refuses the combination. -/
  | operands
  deriving DecidableEq, Repr

/-- The field of n bits whose lowest bit is bit lo. -/
def fld (w lo n : Nat) : Nat := w / 2 ^ lo % 2 ^ n

/-- A scalar field, 6 bits (R61). -/
def sregAt (w lo : Nat) : SReg := Fin.ofNat 64 (w / 2 ^ lo)
/-- A vector field, 11 bits (R61). -/
def vregAt (w lo : Nat) : VReg := Fin.ofNat 2048 (w / 2 ^ lo)
/-- A predicate field, 3 bits (R61). -/
def kregAt (w lo : Nat) : KReg := Fin.ofNat 8 (w / 2 ^ lo)
/-- A generator field, 5 bits (R61). -/
def gregAt (w lo : Nat) : GReg := Fin.ofNat 32 (w / 2 ^ lo)
/-- A tile handle field, 6 bits (R61). -/
def hregAt (w lo : Nat) : HReg := Fin.ofNat 64 (w / 2 ^ lo)

/-- Refuse a field that must be zero (R63, R75). -/
def mustBeZero (x : Nat) (i : Except DecodeError Instr) : Except DecodeError Instr :=
  if x = 0 then i else .error .reservedField

/-- Refuse a reserved code, else go on with its meaning. -/
def coded {α : Type} (x : Option α) (f : α → Except DecodeError Instr) : Except DecodeError Instr :=
  match x with
  | none => .error .reservedCode
  | some v => f v

/-- Scope codes; 0b101 to 0b111 are reserved (R68). -/
def Scope.ofCode : Nat → Option Scope
  | 0 => some .core | 1 => some .cluster | 2 => some .die | 3 => some .device | 4 => some .enclosure
  | _ => none
/-- The code of a scope (R68). -/
def Scope.code : Scope → Nat
  | .core => 0 | .cluster => 1 | .die => 2 | .device => 3 | .enclosure => 4

/-- FENCE kinds; 0b11 is reserved (R67). -/
def FenceKind.ofCode : Nat → Option FenceKind
  | 0 => some .acquire | 1 => some .release | 2 => some .full | _ => none
/-- The code of a fence kind (R67). -/
def FenceKind.code : FenceKind → Nat
  | .acquire => 0 | .release => 1 | .full => 2

/-- Order codes (R68); the argument is a 2-bit field. -/
def MemOrder.ofCode : Nat → Option MemOrder
  | 0 => some .relaxed | 1 => some .acquire | 2 => some .release | 3 => some .acqRel | _ => none
/-- The code of an order (R68). -/
def MemOrder.code : MemOrder → Nat
  | .relaxed => 0 | .acquire => 1 | .release => 2 | .acqRel => 3

/-- Size codes (R66); the argument is a 2-bit field. -/
def Size.ofCode : Nat → Option Size
  | 0 => some .b | 1 => some .h | 2 => some .w | 3 => some .d | _ => none
/-- The code of a size (R66). -/
def Size.code : Size → Nat
  | .b => 0 | .h => 1 | .w => 2 | .d => 3

/-- Element type codes (R25); 13 to 15 are reserved (R79). -/
def ElemTy.ofCode : Nat → Option ElemTy
  | 0 => some .f32 | 1 => some .bf16 | 2 => some .f16 | 3 => some .e4m3 | 4 => some .e5m2 | 5 => some .e2m1
  | 6 => some .i32 | 7 => some .i16 | 8 => some .i8 | 9 => some .n32 | 10 => some .n16 | 11 => some .n8
  | 12 => some .e8m0 | _ => none
/-- The code of an element type (R25). -/
def ElemTy.code : ElemTy → Nat
  | .f32 => 0 | .bf16 => 1 | .f16 => 2 | .e4m3 => 3 | .e5m2 => 4 | .e2m1 => 5
  | .i32 => 6 | .i16 => 7 | .i8 => 8 | .n32 => 9 | .n16 => 10 | .n8 => 11 | .e8m0 => 12

/-- Rounding modes (R32); the argument is a 2-bit field. -/
def RM.ofCode : Nat → Option RM
  | 0 => some .rne | 1 => some .rtz | 2 => some .rup | 3 => some .rdn | _ => none
/-- The code of a rounding mode (R32). -/
def RM.code : RM → Nat
  | .rne => 0 | .rtz => 1 | .rup => 2 | .rdn => 3

/-- Element widths of KSET and KCNT (R129). -/
def PWidth.ofCode : Nat → Option PWidth
  | 0 => some .w8 | 1 => some .w16 | 2 => some .w32 | _ => none
/-- The code of an element width (R129). -/
def PWidth.code : PWidth → Nat
  | .w8 => 0 | .w16 => 1 | .w32 => 2

/-- Spaces of MKPTR; 0x5 to 0xF are reserved (R68). -/
def Space.ofCode : Nat → Option Space
  | 0 => some .virt | 1 => some .scratch | 2 => some .acc | 3 => some .weight | 4 => some .queue | _ => none
/-- The code of a space (R68). -/
def Space.code : Space → Nat
  | .virt => 0 | .scratch => 1 | .acc => 2 | .weight => 3 | .queue => 4

/-- The b operand of format V by bs (R69). -/
def BSrc.ofCode (bs b : Nat) : Option BSrc :=
  match bs with
  | 0 => some (.reg (Fin.ofNat 2048 b))
  | 1 => if b < 64 then some (.scalar (Fin.ofNat 64 b)) else none
  | 2 => some (.imm (BitVec.ofNat 11 b))
  | _ => none
/-- The bs field (R69). -/
def BSrc.bs : BSrc → Nat
  | .reg _ => 0 | .scalar _ => 1 | .imm _ => 2
/-- The b field (R69). -/
def BSrc.field : BSrc → Nat
  | .reg v => v.val | .scalar r => r.val | .imm i => i.toNat

/-- A tile source from its kind bit and its 6-bit field (R63, R72). -/
def TSrc.ofCode (kind x : Nat) : Option TSrc :=
  if kind = 0 then some (.handle (Fin.ofNat 64 x))
  else if x < 32 then some (.gen (Fin.ofNat 32 x)) else none
/-- The kind bit (R72). -/
def TSrc.kind : TSrc → Nat
  | .handle _ => 0 | .gen _ => 1
/-- The 6-bit field (R72). -/
def TSrc.field : TSrc → Nat
  | .handle h => h.val | .gen g => g.val

/-- Format B's target (R58, R65). -/
def targetBAt (w : Nat) : TargetB := ⟨BitVec.ofNat 10 (w / 16), Fin.ofNat 16 w⟩
/-- Format J's target (R58, R65). -/
def targetJAt (w : Nat) : TargetJ := ⟨BitVec.ofNat 16 (w / 16), Fin.ofNat 16 w⟩

/-! ### Short instructions -/

/-- Major 0x00 (R67). -/
def decodeSys (w : Nat) : Except DecodeError Instr :=
  match fld w 20 6 with
  | 0x00 => mustBeZero (fld w 0 20) (.ok .nop)
  | 0x01 => mustBeZero (fld w 0 20) (.ok .endGroup)
  | 0x02 => mustBeZero (fld w 0 20) (.ok .tfence)
  | 0x03 => .ok (.trap (BitVec.ofNat 20 w))
  | 0x04 => .ok (.brk (BitVec.ofNat 20 w))
  | 0x05 => coded (Scope.ofCode (fld w 17 3)) fun sc => coded (FenceKind.ofCode (fld w 15 2)) fun k =>
      mustBeZero (fld w 0 15) (.ok (.fence sc k))
  | 0x06 => mustBeZero (fld w 0 14) (.ok (.cyc (sregAt w 14)))
  | 0x07 => .ok (.csrr (sregAt w 14) (BitVec.ofNat 14 w))
  | 0x08 => .ok (.csrw (sregAt w 14) (BitVec.ofNat 14 w))
  | 0x09 => .ok (.csrs (sregAt w 14) (BitVec.ofNat 14 w))
  | 0x0A => .ok (.csrc (sregAt w 14) (BitVec.ofNat 14 w))
  | _ => .error .unassignedFunction

/-- Major 0x01, function in fn (R77, R98). -/
def decodeAlu3 (w : Nat) : Except DecodeError Instr :=
  let d := sregAt w 20
  let a := sregAt w 14
  let b := sregAt w 8
  match fld w 0 8 with
  | 0x00 => .ok (.add d a b)
  | 0x01 => .ok (.sub d a b)
  | 0x02 => .ok (.mul d a b)
  | 0x03 => .ok (.mulh d a b)
  | 0x04 => .ok (.mulhn d a b)
  | 0x05 => .ok (.div d a b)
  | 0x06 => .ok (.divn d a b)
  | 0x07 => .ok (.rem d a b)
  | 0x08 => .ok (.remn d a b)
  | 0x09 => .ok (.and d a b)
  | 0x0A => .ok (.or d a b)
  | 0x0B => .ok (.xor d a b)
  | 0x0C => .ok (.andn d a b)
  | 0x0D => .ok (.shl d a b)
  | 0x0E => .ok (.shr d a b)
  | 0x0F => .ok (.sar d a b)
  | 0x10 => .ok (.rol d a b)
  | 0x11 => .ok (.min d a b)
  | 0x12 => .ok (.max d a b)
  | 0x13 => .ok (.minn d a b)
  | 0x14 => .ok (.maxn d a b)
  | 0x15 => .ok (.seq d a b)
  | 0x16 => .ok (.sne d a b)
  | 0x17 => .ok (.slt d a b)
  | 0x18 => .ok (.sltn d a b)
  | 0x19 => .ok (.sle d a b)
  | 0x1A => .ok (.slen d a b)
  | 0x1B => mustBeZero (fld w 8 6) (.ok (.clz d a))
  | 0x1C => mustBeZero (fld w 8 6) (.ok (.ctz d a))
  | 0x1D => mustBeZero (fld w 8 6) (.ok (.popc d a))
  | 0x1E => .ok (.sel d a b)
  | 0x21 => .ok (.addsh1 d a b)
  | 0x22 => .ok (.addsh2 d a b)
  | 0x23 => .ok (.addsh3 d a b)
  | _ => .error .unassignedFunction

/-- Major 0x07 SHIFTI (R68). -/
def decodeShifti (w : Nat) : Except DecodeError Instr :=
  let d := sregAt w 20
  let a := sregAt w 14
  let n := BitVec.ofNat 6 w
  match fld w 12 2 with
  | 0 => mustBeZero (fld w 6 6) (.ok (.shli d a n))
  | 1 => mustBeZero (fld w 6 6) (.ok (.shri d a n))
  | 2 => mustBeZero (fld w 6 6) (.ok (.sari d a n))
  | _ => .error .reservedCode

/-- Major 0x0A BITF (R68). -/
def decodeBitf (w : Nat) : Except DecodeError Instr :=
  let d := sregAt w 20
  let a := sregAt w 14
  match fld w 12 2 with
  | 0 => .ok (.bfx d a (BitVec.ofNat 6 (w / 64)) (BitVec.ofNat 6 w))
  | 1 => .ok (.bfi d a (BitVec.ofNat 6 (w / 64)) (BitVec.ofNat 6 w))
  | _ => .error .reservedCode

/-- Major 0x0B PTR (R68, R104, R105). -/
def decodePtr (w : Nat) : Except DecodeError Instr :=
  let d := sregAt w 20
  let a := sregAt w 14
  if fld w 7 1 = 0 then
    mustBeZero (fld w 4 3) (coded (Space.ofCode (fld w 0 4)) fun sp => .ok (.mkptr d a (sregAt w 8) sp))
  else mustBeZero (fld w 8 6) (mustBeZero (fld w 2 5) (.ok (.ptrx d a (Fin.ofNat 4 w))))

/-- Major 0x0C PRED (R129). -/
def decodePred (w : Nat) : Except DecodeError Instr :=
  match fld w 0 8 with
  | 0 => mustBeZero (fld w 23 3) (coded (PWidth.ofCode (fld w 8 6)) fun p =>
      .ok (.kset (kregAt w 20) (sregAt w 14) p))
  | 1 => mustBeZero (fld w 17 3) (coded (PWidth.ofCode (fld w 8 6)) fun p =>
      .ok (.kcnt (sregAt w 20) (kregAt w 14) p))
  | 2 => mustBeZero (fld w 23 3) (mustBeZero (fld w 17 3) (mustBeZero (fld w 11 3)
      (.ok (.kmin (kregAt w 20) (kregAt w 14) (kregAt w 8)))))
  | 3 => mustBeZero (fld w 17 3) (mustBeZero (fld w 8 6) (.ok (.kget (sregAt w 20) (kregAt w 14))))
  | _ => .error .unassignedFunction

/-- The size and the zero bits of format M (R65, R66). -/
def decodeM (w : Nat) (f : Size → SReg → SReg → BitVec 10 → Instr) : Except DecodeError Instr :=
  coded (Size.ofCode (fld w 2 2)) fun sz =>
    mustBeZero (fld w 0 2) (.ok (f sz (sregAt w 20) (sregAt w 14) (BitVec.ofNat 10 (w / 16))))

/-- Majors 0x13 and 0x14 (R68): LDAQ d, a with b zero; STRL a, b with d zero (R107, R108). -/
def decodeAcqRel (w : Nat) (f : Size → Scope → Except DecodeError Instr) : Except DecodeError Instr :=
  coded (Scope.ofCode (fld w 5 3)) fun sc => coded (Size.ofCode (fld w 0 2)) fun sz =>
    mustBeZero (fld w 2 3) (f sz sc)

/-- Majors 0x15 and 0x16 (R68). -/
def decodeAtom (w : Nat) (f : Nat → Option (Scope → MemOrder → SReg → SReg → SReg → Instr)) :
    Except DecodeError Instr :=
  match f (fld w 0 3) with
  | none => .error .unassignedFunction
  | some g => coded (Scope.ofCode (fld w 5 3)) fun sc => coded (MemOrder.ofCode (fld w 3 2)) fun o =>
      .ok (g sc o (sregAt w 20) (sregAt w 14) (sregAt w 8))

/-- ATOM1 functions (R68). -/
def atom1Fn : Nat → Option (Scope → MemOrder → SReg → SReg → SReg → Instr)
  | 0 => some .aadd | 1 => some .aand | 2 => some .aor | 3 => some .axor
  | 4 => some .amin | 5 => some .amax | 6 => some .aminn | 7 => some .amaxn
  | _ => none

/-- ATOM2 functions (R68). -/
def atom2Fn : Nat → Option (Scope → MemOrder → SReg → SReg → SReg → Instr)
  | 0 => some .axchg | 1 => some .acas | _ => none

/-- Major 0x1E (R68). -/
def decodeBzBnz (w : Nat) : Except DecodeError Instr :=
  match fld w 14 6 with
  | 0 => .ok (.bz (sregAt w 20) (targetBAt w))
  | 1 => .ok (.bnz (sregAt w 20) (targetBAt w))
  | _ => .error .reservedCode

/-- Major 0x24 QUE (R296). A port operand stands in b[2:0]. -/
def decodeQue (w : Nat) : Except DecodeError Instr :=
  let d := sregAt w 20
  let a := sregAt w 14
  match fld w 0 8 with
  | 0 => mustBeZero (fld w 12 2)
      (.ok (.qbind d a (Fin.ofNat 4 (w / 256)) (fld w 10 1 == 1) (fld w 11 1 == 1)))
  | 1 => mustBeZero (fld w 14 6) (mustBeZero (fld w 11 3) (.ok (.qlen d (Fin.ofNat 8 (w / 256)))))
  | 2 => mustBeZero (fld w 14 6) (mustBeZero (fld w 11 3) (.ok (.qpeek d (Fin.ofNat 8 (w / 256)))))
  | 3 => mustBeZero (fld w 11 3) (.ok (.qtry d a (Fin.ofNat 8 (w / 256))))
  | 4 => mustBeZero (fld w 11 3) (.ok (.qpusht d a (Fin.ofNat 8 (w / 256))))
  | 5 => mustBeZero (fld w 8 6) (.ok (.qcreate d a))
  | 6 => mustBeZero (fld w 8 6) (.ok (.qdel d a))
  | _ => .error .unassignedFunction

/-- Major 0x25 GEN (R158). -/
def decodeGen (w : Nat) : Except DecodeError Instr :=
  let g := gregAt w 20
  let a := sregAt w 14
  mustBeZero (fld w 25 1)
    (match fld w 0 8 with
    | 0 => mustBeZero (fld w 8 6) (.ok (.gld g a))
    | 1 => mustBeZero (fld w 8 6) (.ok (.gst g a))
    | 2 => if fld w 8 6 < 4 then .ok (.gadv g a (Fin.ofNat 4 (fld w 8 6))) else .error .reservedCode
    | 3 => if fld w 8 6 < 12 then .ok (.gset g a (Fin.ofNat 12 (fld w 8 6))) else .error .reservedCode
    | _ => .error .unassignedFunction)

/-- Major 0x27 BAR (R312). -/
def decodeBar (w : Nat) : Except DecodeError Instr :=
  let d := sregAt w 20
  let a := sregAt w 14
  let b := sregAt w 8
  match fld w 0 8 with
  | 0 => .ok (.binit d a b)
  | 1 => mustBeZero (fld w 8 6) (.ok (.barr d a))
  | 2 => .ok (.bwait d a b)
  | 3 => mustBeZero (fld w 8 6) (.ok (.bsync d a))
  | 4 => .ok (.btest d a b)
  | _ => .error .unassignedFunction

/-- Major 0x28 TASK (R257, R258, R275). -/
def decodeTask (w : Nat) : Except DecodeError Instr :=
  let d := sregAt w 20
  let a := sregAt w 14
  match fld w 0 8 with
  | 0 => mustBeZero (fld w 8 6) (.ok (.spawn d a))
  | 1 => mustBeZero (fld w 20 6) (mustBeZero (fld w 8 6) (.ok (.park a)))
  | 2 => mustBeZero (fld w 20 6) (mustBeZero (fld w 8 6) (.ok (.cancel a)))
  | 3 => .ok (.waitl d a (sregAt w 8))
  | 4 => mustBeZero (fld w 20 6) (mustBeZero (fld w 8 6) (.ok (.prog a)))
  | 5 => mustBeZero (fld w 8 18) (.ok .meet)
  | _ => .error .unassignedFunction

/-- Major 0x2C POOL (R302, R405). -/
def decodePool (w : Nat) : Except DecodeError Instr :=
  let d := sregAt w 20
  let a := sregAt w 14
  let b := sregAt w 8
  match fld w 0 8 with
  | 0 => mustBeZero (fld w 20 6) (.ok (.pflush a b))
  | 1 => mustBeZero (fld w 20 6) (.ok (.pinv a b))
  | 2 => .ok (.nqpost d a b)
  | 3 => .ok (.nqpop d a b)
  | 4 => .ok (.nqwait d a b)
  | _ => .error .unassignedFunction

/-- Major 0x2E PAGE (R364, R365). -/
def decodePage (w : Nat) : Except DecodeError Instr :=
  let a := sregAt w 14
  let b := sregAt w 8
  match fld w 0 8 with
  | 0 => mustBeZero (fld w 20 6) (.ok (.tlbi a b))
  | 1 => .ok (.pgmig (sregAt w 20) a b)
  | _ => .error .unassignedFunction

/-- Majors 0x00 to 0x37 (R65, R76, R79). -/
def decodeShort (w : Nat) : Except DecodeError Instr :=
  let d := sregAt w 20
  let a := sregAt w 14
  let imm := BitVec.ofNat 14 w
  match fld w 26 6 with
  | 0x00 => decodeSys w
  | 0x01 => decodeAlu3 w
  | 0x02 => .ok (.addi d a imm)
  | 0x03 => .ok (.andi d a imm)
  | 0x04 => .ok (.ori d a imm)
  | 0x05 => .ok (.xori d a imm)
  | 0x06 => .ok (.slti d a imm)
  | 0x07 => decodeShifti w
  | 0x08 => .ok (.ldi d (BitVec.ofNat 20 w))
  | 0x09 => .ok (.ldih d (BitVec.ofNat 20 w))
  | 0x0A => decodeBitf w
  | 0x0B => decodePtr w
  | 0x0C => decodePred w
  | 0x10 => decodeM w .ld
  | 0x11 => decodeM w .ldz
  | 0x12 => decodeM w .st
  | 0x13 => decodeAcqRel w fun sz sc => mustBeZero (fld w 8 6) (.ok (.ldaq sz sc d a))
  | 0x14 => decodeAcqRel w fun sz sc => mustBeZero (fld w 20 6) (.ok (.strl sz sc a (sregAt w 8)))
  | 0x15 => decodeAtom w atom1Fn
  | 0x16 => decodeAtom w atom2Fn
  | 0x18 => .ok (.beq d a (targetBAt w))
  | 0x19 => .ok (.bne d a (targetBAt w))
  | 0x1A => .ok (.blt d a (targetBAt w))
  | 0x1B => .ok (.bge d a (targetBAt w))
  | 0x1C => .ok (.bltn d a (targetBAt w))
  | 0x1D => .ok (.bgen d a (targetBAt w))
  | 0x1E => decodeBzBnz w
  | 0x20 => .ok (.jl d (targetJAt w))
  | 0x21 => mustBeZero (fld w 0 14) (.ok (.jr d a))
  | 0x22 => .ok (.loop d (targetJAt w))
  | 0x24 => decodeQue w
  | 0x25 => decodeGen w
  | 0x27 => decodeBar w
  | 0x28 => decodeTask w
  | 0x2C => decodePool w
  | 0x2E => decodePage w
  | _ => .error .unassignedMajor

/-! ### Long instructions -/

/-- Format V (R69). -/
def vopAt (w0 w1 : Nat) (f : VOp → Except DecodeError Instr) : Except DecodeError Instr :=
  coded (BSrc.ofCode (fld w1 0 2) (fld w0 3 11)) fun b =>
  coded (RM.ofCode (fld w0 1 2)) fun rm =>
  coded (ElemTy.ofCode (fld w1 6 4)) fun ty =>
  coded (ElemTy.ofCode (fld w1 2 4)) fun ty2 =>
    f { k := kregAt w0 17, len := Fin.ofNat 8 (w0 / 2 ^ 14), rm, z := fld w0 0 1 == 1,
        d := vregAt w1 21, a := vregAt w1 10, ty, ty2, b }

/-- Format VM (R70). -/
def vmopAt (w0 w1 : Nat) (f : VMOp → Except DecodeError Instr) : Except DecodeError Instr :=
  coded (ElemTy.ofCode (fld w0 5 4)) fun ty => mustBeZero (fld w0 0 5)
    (f { k := kregAt w0 17, len := Fin.ofNat 8 (w0 / 2 ^ 14), g := gregAt w0 9, ty,
         d := vregAt w1 21, a := sregAt w1 15, imm := BitVec.ofNat 15 w1 })

/-- Format X (R71). -/
def xopAt (w0 w1 : Nat) (f : XOp → Except DecodeError Instr) : Except DecodeError Instr :=
  coded (RM.ofCode (fld w0 3 2)) fun rm => coded (ElemTy.ofCode (fld w1 0 4)) fun ty =>
    mustBeZero (fld w0 0 1)
      (f { ga := gregAt w0 15, gb := gregAt w0 10, slab := Fin.ofNat 16 (w0 / 2 ^ 6), i32acc := fld w0 5 1 == 1,
           rm, ma := fld w0 2 1 == 1, mb := fld w0 1 1 == 1, d := vregAt w1 21, e := vregAt w1 10,
           s := sregAt w1 4, ty })

/-- Format T (R72). -/
def topAt (w0 w1 : Nat) (f : TOp → Except DecodeError Instr) : Except DecodeError Instr :=
  coded (TSrc.ofCode (fld w0 1 1) (fld w0 8 6)) fun x =>
  coded (TSrc.ofCode (fld w0 0 1) (fld w0 2 6)) fun y =>
  coded (TSrc.ofCode (fld w1 25 1) (fld w1 26 6)) fun z =>
  coded (ElemTy.ofCode (fld w1 15 4)) fun ty =>
  coded (RM.ofCode (fld w1 13 2)) fun rm =>
    mustBeZero (fld w1 0 1)
      (f { h := hregAt w0 14, x, y, z, fn := BitVec.ofNat 6 (w1 / 2 ^ 19), ty, rm,
           s := sregAt w1 7, t := sregAt w1 1 })

/-- Format E (R73). -/
def eopAt (w0 w1 : Nat) : EOp :=
  { gs := gregAt w0 15, gd := gregAt w0 10, ch := Fin.ofNat 4 (w0 / 2 ^ 8), fl := BitVec.ofNat 8 w0,
    d := sregAt w1 26, a := sregAt w1 20, b := sregAt w1 14, c := sregAt w1 8, imm := BitVec.ofNat 8 w1 }

/-- Sub-ops of major 0x38 (R78). -/
def vSub : Nat → Option (VOp → Instr)
  | 0x00 => some .vadd
  | 0x01 => some .vsub
  | 0x02 => some .vmul
  | 0x03 => some .vfma
  | 0x04 => some .vfms
  | 0x05 => some .vmax
  | 0x06 => some .vmin
  | 0x07 => some .vabs
  | 0x08 => some .vneg
  | 0x09 => some .vscl
  | 0x0A => some .vand
  | 0x0B => some .vor
  | 0x0C => some .vxor
  | 0x0D => some .vshl
  | 0x0E => some .vshr
  | 0x0F => some .vsar
  | 0x10 => some .vcmpeq
  | 0x11 => some .vcmplt
  | 0x12 => some .vcmple
  | 0x13 => some .vsel
  | 0x14 => some .vcvt
  | 0x15 => some .vmov
  | 0x16 => some .vsplat
  | 0x17 => some .viota
  | 0x18 => some .vexp2
  | 0x19 => some .vlog2
  | 0x1A => some .vrcp
  | 0x1B => some .vrsq
  | 0x1C => some .vsqrt
  | 0x1D => some .vtanh
  | 0x1E => some .vsigm
  | 0x1F => some .vredsum
  | 0x20 => some .vredmax
  | 0x21 => some .vredmin
  | 0x22 => some .vscan
  | 0x23 => some .vperm
  | 0x24 => some .vbcast
  | 0x25 => some .vclamp
  | _ => none

/-- Sub-ops of major 0x39 (R78). -/
def vmSub : Nat → Option (VMOp → Instr)
  | 0x00 => some .vld
  | 0x01 => some .vst
  | 0x02 => some .vlds
  | 0x03 => some .vsts
  | 0x04 => some .vgath
  | 0x05 => some .vscat
  | 0x06 => some .vpack
  | 0x07 => some .vunpk
  | _ => none

/-- Sub-ops of major 0x3A (R78). -/
def xSub : Nat → Option (XOp → Instr)
  | 0x00 => some .mma
  | 0x01 => some .mmas
  | 0x02 => some .mmac
  | 0x03 => some .bld
  | 0x04 => some .zacc
  | 0x05 => some .acvt
  | _ => none

/-- Sub-ops of major 0x3B (R78). -/
def tSub : Nat → Option (TOp → Instr)
  | 0x00 => some .tload
  | 0x01 => some .tmul
  | 0x02 => some .tew
  | 0x03 => some .tred
  | 0x04 => some .tcvt
  | 0x05 => some .tview
  | 0x06 => some .tgath
  | 0x07 => some .tsel
  | 0x08 => some .force
  | 0x09 => some .tst
  | 0x0A => some .tdrop
  | 0x0B => some .tstat
  | 0x0C => some .tpol
  | _ => none

/-- Sub-ops of major 0x3C (R78). -/
def eSub : Nat → Option (EOp → Instr)
  | 0x00 => some .cpy
  | 0x01 => some .cpyt
  | 0x02 => some .cpym
  | 0x03 => some .enq
  | 0x04 => some .waitid
  | 0x05 => some .tidr
  | 0x06 => some .publish
  | 0x07 => some .lfload
  | 0x08 => some .lbind
  | 0x09 => some .lstart
  | 0x0A => some .lbar
  | 0x0B => some .lstat
  | 0x0C => some .lstop
  | 0x0D => some .cred
  | 0x0E => some .csend
  | 0x0F => some .crecv
  | 0x10 => some .mcst
  | _ => none

/-- An operation found by its sub-op code. -/
def sub {α : Type} (x : Option (α → Instr)) (k : (α → Except DecodeError Instr) → Except DecodeError Instr) :
    Except DecodeError Instr :=
  match x with
  | none => .error .unassignedFunction
  | some g => k fun o => .ok (g o)

/-- Major 0x3D, format K (R74). -/
def decodeK (w0 w1 : Nat) : Except DecodeError Instr :=
  match fld w0 20 6 with
  | 0 => mustBeZero (fld w1 0 12) (.ok (.fork (BitVec.ofNat 20 w0) (BitVec.ofNat 20 (w1 / 2 ^ 12))))
  | 1 => mustBeZero (fld w1 0 12) (.ok (.yield (BitVec.ofNat 20 w0) (BitVec.ofNat 20 (w1 / 2 ^ 12))))
  | 2 => mustBeZero (fld w0 0 20) (mustBeZero (fld w1 12 20) (.ok (.launch (sregAt w1 6) (sregAt w1 0))))
  | _ => .error .unassignedFunction

/-- Majors 0x38 to 0x3F (R69 to R79). -/
def decodeLong (w0 w1 : Nat) : Except DecodeError Instr :=
  match fld w0 26 6 with
  | 0x38 => sub (vSub (fld w0 20 6)) (vopAt w0 w1)
  | 0x39 => sub (vmSub (fld w0 20 6)) (vmopAt w0 w1)
  | 0x3A => sub (xSub (fld w0 20 6)) (xopAt w0 w1)
  | 0x3B => sub (tSub (fld w0 20 6)) (topAt w0 w1)
  | 0x3C => sub (eSub (fld w0 20 6)) fun f => f (eopAt w0 w1)
  | 0x3D => decodeK w0 w1
  | _ => .error .unassignedMajor

/-! ### Whole instructions -/

/-- Majors 0x38 to 0x3D are two words long; an unassigned major is refused at its first word (R65, R79). -/
def isLong (w0 : Nat) : Bool := 0x38 ≤ fld w0 26 6 && fld w0 26 6 ≤ 0x3D

/-- The operand combination must be one that the families allow (R79). -/
def checkWf (r : Except DecodeError Instr) : Except DecodeError Instr :=
  match r with
  | .error e => .error e
  | .ok i => if i.wf then .ok i else .error .operands

/-- The instruction that stands at the head of a list of words, and its size in words (R54). -/
def decodeWords (ws : List Nat) : Except DecodeError Instr :=
  match ws with
  | [] => .error .truncated
  | w0 :: rest =>
    if isLong w0 then
      match rest with
      | [] => .error .truncated
      | w1 :: _ => checkWf (decodeLong w0 w1)
    else checkWf (decodeShort w0)

/-- The size in words of the instruction whose first word is w0 (R54). -/
def wordsOf (w0 : Nat) : Nat := if isLong w0 then 2 else 1

/-- The little-endian 32-bit words of a sequence of bytes; a last piece of fewer than four bytes is no word. -/
def bytesToWords : List Byte → List Nat
  | b0 :: b1 :: b2 :: b3 :: rest =>
    (b0.toNat + 256 * b1.toNat + 65536 * b2.toNat + 16777216 * b3.toNat) :: bytesToWords rest
  | _ => []

/-- Decoding of any bytes: the instruction and the bytes after it (R4, R50, R54). -/
def decode (bs : List Byte) : Except DecodeError (Instr × List Byte) :=
  match decodeWords (bytesToWords bs) with
  | .error e => .error e
  | .ok i => .ok (i, bs.drop (4 * wordsOf ((bytesToWords bs).headD 0)))

/-- The four bytes of a word, least significant first (R4). -/
def wordBytes (w : Nat) : List Byte :=
  [BitVec.ofNat 8 w, BitVec.ofNat 8 (w / 256), BitVec.ofNat 8 (w / 65536), BitVec.ofNat 8 (w / 16777216)]

/-- The instruction that this decoder reads from an instruction whose bits are w, numbered from bit 0 of its first
word; the bits from nbits up are zero. Both words are laid out as the part stores them. -/
def decodeTableWord (nbits w : Nat) : Option Instr :=
  match decode (wordBytes (w % 2 ^ nbits) ++ wordBytes (w % 2 ^ nbits / 2 ^ 32)) with
  | .ok (i, _) => some i
  | .error _ => none

/-! ### The encoder, from the same tables -/

/-- Format A (R65). -/
def encA (op d a b fn : Nat) : List Nat := [op * 2 ^ 26 + d * 2 ^ 20 + a * 2 ^ 14 + b * 2 ^ 8 + fn]
/-- Format I (R65). -/
def encI (op d a imm : Nat) : List Nat := [op * 2 ^ 26 + d * 2 ^ 20 + a * 2 ^ 14 + imm]
/-- Formats L and J, and SYS with its function in the place of d (R65, R67). -/
def encL (op d imm : Nat) : List Nat := [op * 2 ^ 26 + d * 2 ^ 20 + imm]
/-- Format B (R65). -/
def encB (op a b : Nat) (t : TargetB) : List Nat :=
  [op * 2 ^ 26 + a * 2 ^ 20 + b * 2 ^ 14 + t.delta.toNat * 2 ^ 4 + t.word.val]
/-- Format J (R65). -/
def encJ (op d : Nat) (t : TargetJ) : List Nat := [op * 2 ^ 26 + d * 2 ^ 20 + t.delta.toNat * 2 ^ 4 + t.word.val]
/-- Format M (R65). -/
def encM (op : Nat) (sz : Size) (d a : SReg) (off : BitVec 10) : List Nat :=
  [op * 2 ^ 26 + d.val * 2 ^ 20 + a.val * 2 ^ 14 + off.toNat * 2 ^ 4 + sz.code * 2 ^ 2]
/-- ATOM1 and ATOM2 (R68). -/
def encAtom (op fn : Nat) (sc : Scope) (o : MemOrder) (d a b : SReg) : List Nat :=
  encA op d a b (sc.code * 2 ^ 5 + o.code * 2 ^ 3 + fn)
/-- Format V (R69). -/
def encV (s : Nat) (o : VOp) : List Nat :=
  [0x38 * 2 ^ 26 + s * 2 ^ 20 + o.k.val * 2 ^ 17 + o.len.val * 2 ^ 14 + o.b.field * 2 ^ 3 + o.rm.code * 2 + o.z.toNat,
   o.d.val * 2 ^ 21 + o.a.val * 2 ^ 10 + o.ty.code * 2 ^ 6 + o.ty2.code * 2 ^ 2 + o.b.bs]
/-- Format VM (R70). -/
def encVM (s : Nat) (o : VMOp) : List Nat :=
  [0x39 * 2 ^ 26 + s * 2 ^ 20 + o.k.val * 2 ^ 17 + o.len.val * 2 ^ 14 + o.g.val * 2 ^ 9 + o.ty.code * 2 ^ 5,
   o.d.val * 2 ^ 21 + o.a.val * 2 ^ 15 + o.imm.toNat]
/-- Format X (R71). -/
def encX (s : Nat) (o : XOp) : List Nat :=
  [0x3A * 2 ^ 26 + s * 2 ^ 20 + o.ga.val * 2 ^ 15 + o.gb.val * 2 ^ 10 + o.slab.val * 2 ^ 6 + o.i32acc.toNat * 2 ^ 5
     + o.rm.code * 2 ^ 3 + o.ma.toNat * 2 ^ 2 + o.mb.toNat * 2,
   o.d.val * 2 ^ 21 + o.e.val * 2 ^ 10 + o.s.val * 2 ^ 4 + o.ty.code]
/-- Format T (R72). -/
def encT (s : Nat) (o : TOp) : List Nat :=
  [0x3B * 2 ^ 26 + s * 2 ^ 20 + o.h.val * 2 ^ 14 + o.x.field * 2 ^ 8 + o.y.field * 2 ^ 2 + o.x.kind * 2 + o.y.kind,
   o.z.field * 2 ^ 26 + o.z.kind * 2 ^ 25 + o.fn.toNat * 2 ^ 19 + o.ty.code * 2 ^ 15 + o.rm.code * 2 ^ 13
     + o.s.val * 2 ^ 7 + o.t.val * 2]
/-- Format E (R73). -/
def encE (s : Nat) (o : EOp) : List Nat :=
  [0x3C * 2 ^ 26 + s * 2 ^ 20 + o.gs.val * 2 ^ 15 + o.gd.val * 2 ^ 10 + o.ch.val * 2 ^ 8 + o.fl.toNat,
   o.d.val * 2 ^ 26 + o.a.val * 2 ^ 20 + o.b.val * 2 ^ 14 + o.c.val * 2 ^ 8 + o.imm.toNat]
/-- Format K (R74). -/
def encK (s x y d a : Nat) : List Nat := [0x3D * 2 ^ 26 + s * 2 ^ 20 + x, y * 2 ^ 12 + d * 2 ^ 6 + a]

/-- The words of an instruction; the rows without an encoding have none. -/
def encode : Instr → List Nat
  | .nop => encL 0 0x00 0
  | .endGroup => encL 0 0x01 0
  | .tfence => encL 0 0x02 0
  | .trap c => encL 0 0x03 c.toNat
  | .brk c => encL 0 0x04 c.toNat
  | .fence sc k => encL 0 0x05 (sc.code * 2 ^ 17 + k.code * 2 ^ 15)
  | .cyc d => encL 0 0x06 (d.val * 2 ^ 14)
  | .csrr d n => encL 0 0x07 (d.val * 2 ^ 14 + n.toNat)
  | .csrw a n => encL 0 0x08 (a.val * 2 ^ 14 + n.toNat)
  | .csrs a n => encL 0 0x09 (a.val * 2 ^ 14 + n.toNat)
  | .csrc a n => encL 0 0x0A (a.val * 2 ^ 14 + n.toNat)
  | .add d a b => encA 1 d a b 0x00
  | .sub d a b => encA 1 d a b 0x01
  | .mul d a b => encA 1 d a b 0x02
  | .mulh d a b => encA 1 d a b 0x03
  | .mulhn d a b => encA 1 d a b 0x04
  | .div d a b => encA 1 d a b 0x05
  | .divn d a b => encA 1 d a b 0x06
  | .rem d a b => encA 1 d a b 0x07
  | .remn d a b => encA 1 d a b 0x08
  | .and d a b => encA 1 d a b 0x09
  | .or d a b => encA 1 d a b 0x0A
  | .xor d a b => encA 1 d a b 0x0B
  | .andn d a b => encA 1 d a b 0x0C
  | .shl d a b => encA 1 d a b 0x0D
  | .shr d a b => encA 1 d a b 0x0E
  | .sar d a b => encA 1 d a b 0x0F
  | .rol d a b => encA 1 d a b 0x10
  | .min d a b => encA 1 d a b 0x11
  | .max d a b => encA 1 d a b 0x12
  | .minn d a b => encA 1 d a b 0x13
  | .maxn d a b => encA 1 d a b 0x14
  | .seq d a b => encA 1 d a b 0x15
  | .sne d a b => encA 1 d a b 0x16
  | .slt d a b => encA 1 d a b 0x17
  | .sltn d a b => encA 1 d a b 0x18
  | .sle d a b => encA 1 d a b 0x19
  | .slen d a b => encA 1 d a b 0x1A
  | .clz d a => encA 1 d a 0 0x1B
  | .ctz d a => encA 1 d a 0 0x1C
  | .popc d a => encA 1 d a 0 0x1D
  | .sel d a b => encA 1 d a b 0x1E
  | .addsh1 d a b => encA 1 d a b 0x21
  | .addsh2 d a b => encA 1 d a b 0x22
  | .addsh3 d a b => encA 1 d a b 0x23
  | .addi d a i => encI 0x02 d a i.toNat
  | .andi d a i => encI 0x03 d a i.toNat
  | .ori d a i => encI 0x04 d a i.toNat
  | .xori d a i => encI 0x05 d a i.toNat
  | .slti d a i => encI 0x06 d a i.toNat
  | .shli d a n => encI 7 d a (0 * 2 ^ 12 + n.toNat)
  | .shri d a n => encI 7 d a (1 * 2 ^ 12 + n.toNat)
  | .sari d a n => encI 7 d a (2 * 2 ^ 12 + n.toNat)
  | .ldi d i => encL 8 d i.toNat
  | .ldih d i => encL 9 d i.toNat
  | .bfx d a p w => encI 0x0A d a (p.toNat * 2 ^ 6 + w.toNat)
  | .bfi d a p w => encI 0x0A d a (1 * 2 ^ 12 + p.toNat * 2 ^ 6 + w.toNat)
  | .mkptr d a b sp => encA 0x0B d a b sp.code
  | .ptrx d a f => encA 0x0B d a 0 (0x80 + f.val)
  | .kset d a p => encA 0x0C d a p.code 0
  | .kcnt d a p => encA 0x0C d a p.code 1
  | .kmin d a b => encA 0x0C d a b 2
  | .kget d a => encA 0x0C d a 0 3
  | .ld sz d a o => encM 0x10 sz d a o
  | .ldz sz d a o => encM 0x11 sz d a o
  | .st sz d a o => encM 0x12 sz d a o
  | .ldaq sz sc d a => encA 0x13 d a 0 (sc.code * 2 ^ 5 + sz.code)
  | .strl sz sc a b => encA 0x14 0 a b (sc.code * 2 ^ 5 + sz.code)
  | .aadd sc o d a b => encAtom 0x15 0 sc o d a b
  | .aand sc o d a b => encAtom 0x15 1 sc o d a b
  | .aor sc o d a b => encAtom 0x15 2 sc o d a b
  | .axor sc o d a b => encAtom 0x15 3 sc o d a b
  | .amin sc o d a b => encAtom 0x15 4 sc o d a b
  | .amax sc o d a b => encAtom 0x15 5 sc o d a b
  | .aminn sc o d a b => encAtom 0x15 6 sc o d a b
  | .amaxn sc o d a b => encAtom 0x15 7 sc o d a b
  | .axchg sc o d a b => encAtom 0x16 0 sc o d a b
  | .acas sc o d a b => encAtom 0x16 1 sc o d a b
  | .beq a b t => encB 0x18 a b t
  | .bne a b t => encB 0x19 a b t
  | .blt a b t => encB 0x1A a b t
  | .bge a b t => encB 0x1B a b t
  | .bltn a b t => encB 0x1C a b t
  | .bgen a b t => encB 0x1D a b t
  | .bz a t => encB 0x1E a 0 t
  | .bnz a t => encB 0x1E a 1 t
  | .jl d t => encJ 0x20 d t
  | .jr d a => encA 0x21 d a 0 0
  | .loop c t => encJ 0x22 c t
  | .qbind d a p push unbind => encA 0x24 d a (p.val + push.toNat * 2 ^ 2 + unbind.toNat * 2 ^ 3) 0
  | .qlen d p => encA 0x24 d 0 p 1
  | .qpeek d p => encA 0x24 d 0 p 2
  | .qtry d a p => encA 0x24 d a p 3
  | .qpusht d a p => encA 0x24 d a p 4
  | .qcreate d a => encA 0x24 d a 0 5
  | .qdel d a => encA 0x24 d a 0 6
  | .gld g a => encA 0x25 g a 0 0
  | .gst g a => encA 0x25 g a 0 1
  | .gadv g a ax => encA 0x25 g a ax 2
  | .gset g a f => encA 0x25 g a f 3
  | .binit d a b => encA 0x27 d a b 0
  | .barr d a => encA 0x27 d a 0 1
  | .bwait d a b => encA 0x27 d a b 2
  | .bsync d a => encA 0x27 d a 0 3
  | .btest d a b => encA 0x27 d a b 4
  | .spawn d a => encA 0x28 d a 0 0
  | .park a => encA 0x28 0 a 0 1
  | .cancel a => encA 0x28 0 a 0 2
  | .waitl d a b => encA 0x28 d a b 3
  | .prog a => encA 0x28 0 a 0 4
  | .meet => encA 0x28 0 0 0 5
  | .pflush a b => encA 0x2C 0 a b 0
  | .pinv a b => encA 0x2C 0 a b 1
  | .nqpost d a b => encA 0x2C d a b 2
  | .nqpop d a b => encA 0x2C d a b 3
  | .nqwait d a b => encA 0x2C d a b 4
  | .tlbi a b => encA 0x2E 0 a b 0
  | .pgmig d a b => encA 0x2E d a b 1
  | .vadd o => encV 0x00 o
  | .vsub o => encV 0x01 o
  | .vmul o => encV 0x02 o
  | .vfma o => encV 0x03 o
  | .vfms o => encV 0x04 o
  | .vmax o => encV 0x05 o
  | .vmin o => encV 0x06 o
  | .vabs o => encV 0x07 o
  | .vneg o => encV 0x08 o
  | .vscl o => encV 0x09 o
  | .vand o => encV 0x0A o
  | .vor o => encV 0x0B o
  | .vxor o => encV 0x0C o
  | .vshl o => encV 0x0D o
  | .vshr o => encV 0x0E o
  | .vsar o => encV 0x0F o
  | .vcmpeq o => encV 0x10 o
  | .vcmplt o => encV 0x11 o
  | .vcmple o => encV 0x12 o
  | .vsel o => encV 0x13 o
  | .vcvt o => encV 0x14 o
  | .vmov o => encV 0x15 o
  | .vsplat o => encV 0x16 o
  | .viota o => encV 0x17 o
  | .vexp2 o => encV 0x18 o
  | .vlog2 o => encV 0x19 o
  | .vrcp o => encV 0x1A o
  | .vrsq o => encV 0x1B o
  | .vsqrt o => encV 0x1C o
  | .vtanh o => encV 0x1D o
  | .vsigm o => encV 0x1E o
  | .vredsum o => encV 0x1F o
  | .vredmax o => encV 0x20 o
  | .vredmin o => encV 0x21 o
  | .vscan o => encV 0x22 o
  | .vperm o => encV 0x23 o
  | .vbcast o => encV 0x24 o
  | .vclamp o => encV 0x25 o
  | .vld o => encVM 0x00 o
  | .vst o => encVM 0x01 o
  | .vlds o => encVM 0x02 o
  | .vsts o => encVM 0x03 o
  | .vgath o => encVM 0x04 o
  | .vscat o => encVM 0x05 o
  | .vpack o => encVM 0x06 o
  | .vunpk o => encVM 0x07 o
  | .mma o => encX 0x00 o
  | .mmas o => encX 0x01 o
  | .mmac o => encX 0x02 o
  | .bld o => encX 0x03 o
  | .zacc o => encX 0x04 o
  | .acvt o => encX 0x05 o
  | .tload o => encT 0x00 o
  | .tmul o => encT 0x01 o
  | .tew o => encT 0x02 o
  | .tred o => encT 0x03 o
  | .tcvt o => encT 0x04 o
  | .tview o => encT 0x05 o
  | .tgath o => encT 0x06 o
  | .tsel o => encT 0x07 o
  | .force o => encT 0x08 o
  | .tst o => encT 0x09 o
  | .tdrop o => encT 0x0A o
  | .tstat o => encT 0x0B o
  | .tpol o => encT 0x0C o
  | .cpy o => encE 0x00 o
  | .cpyt o => encE 0x01 o
  | .cpym o => encE 0x02 o
  | .enq o => encE 0x03 o
  | .waitid o => encE 0x04 o
  | .tidr o => encE 0x05 o
  | .publish o => encE 0x06 o
  | .lfload o => encE 0x07 o
  | .lbind o => encE 0x08 o
  | .lstart o => encE 0x09 o
  | .lbar o => encE 0x0A o
  | .lstat o => encE 0x0B o
  | .lstop o => encE 0x0C o
  | .cred o => encE 0x0D o
  | .csend o => encE 0x0E o
  | .crecv o => encE 0x0F o
  | .mcst o => encE 0x10 o
  | .fork x y => encK 0 x.toNat y.toNat 0 0
  | .yield x y => encK 1 x.toNat y.toNat 0 0
  | .launch d a => encK 2 0 0 d a
  | .matrixResultStage _ | .timedCommandDue _ _ | .copyStart _ _ | .chunkRetire _ _ | .copyRetire _ _
  | .copyDrainTimeout _ _ | .burstStart _ _ _ | .burstEnd _ | .rowCompute _ _ | .rowComplete _ _
  | .streamResumeFromHold _ _ | .streamPark _ _ | .streamUnpark _ _ | .streamRelease _ _
  | .saveSequenceEnd _ _ | .restoreSequenceEnd _ _ | .dispatchDecision | .groupStart _ _ | .groupRestore _ _
  | .groupKill _ _ | .checkpointTimeout _ _ | .graphLaunchNode _ _ | .graphConditionNode _ _
  | .graphLoopNode _ _ | .graphSwitchNode _ _ | .graphEndNode _ _ | .hostLaunch _ _ | .hostBar2Access _ _ _ _
  | .create _ | .load _ | .run _ | .suspend _ | .resume _ | .drain _ | .rekey _ | .suspendComplete _
  | .drainComplete _ | .scrubComplete _ | .calApply | .calendarReset | .rotationBoundary _
  | .calendarSlot _ _ | .atomLanding _ | .writeAck _ | .pageWalk _ | .fpqcmd _ _ | .fpqPageZeroed _
  | .hbmsplitWrite _ | .encnumWrite _ | .latownWrite _ | .latownChangeApply _ _ | .lwinWrite _ _
  | .roleResume _ | .skip _ | .resumeat _ | .abort _ | .registerWrite _ _ _ | .faultQueueRetry _
  | .queueStall _ | .deviceLevelFault _ _ | .powerWindow _ | .fullThrottleTimeout | .tamper | .bringUp _
  | .diag | .reset | .keyload | .keyzero | .fwstage | .fwapply | .dbgunlock | .dbglock | .dbglog
  | .coresvcOut | .coresvcIn | .pccal | .regdecl | .regdrop | .regstate | .dcaccept | .dcrelease | .headdown
  | .headup | .proxy | .linkrt | .mbCommandComplete | .headRetrainFailure _ | .poolResponse _ _ _ _
  | .backInvalidationSnoop _ _ | .dcOffer _ _ _ | .dcZeroingComplete _ | .dcRevokeRequest _
  | .flitMessageData _ _ | .flitCredit _ _ _ | .flitProxyRequest _ _ _ _ | .flitProxyResponse _ _ _
  | .flitSnoop _ _ _ | .flitTime _ _ | .timeFlitExchange | .linkReplayRetrain _ | .illegalInstruction
  | .illegalLine | .illegalFlow | .powerDown | .flitCrcFailure _ | .flitReservedType _ _ => []

end Sys2Proof
end

