-- ==== Sys2Proof/Machine/Flags.lean ====
section
/-! DEFINITION. The sticky arithmetic flags (R46): one bit each, joined by OR. -/

namespace Sys2Proof

/-- FLAGS[6:0] (R46): NV, DZ, OF, UF, NX, SAT, NAN from bit 0 up. -/
abbrev Flags := BitVec 7

/-- No event. -/
def Flags.none : Flags := 0
/-- Invalid operation. -/
def Flags.nv : Flags := 0x01
/-- Exact infinite result from finite operands. -/
def Flags.dz : Flags := 0x02
/-- Overflow. -/
def Flags.of : Flags := 0x04
/-- Tiny inexact result. -/
def Flags.uf : Flags := 0x08
/-- Inexact. -/
def Flags.nx : Flags := 0x10
/-- Saturation. -/
def Flags.sat : Flags := 0x20
/-- A NaN was written. -/
def Flags.nan : Flags := 0x40

/-- Raise a flag when a condition holds. -/
def Flags.when (c : Bool) (f : Flags) : Flags := if c then f else 0

/-- Is NV raised? A NaN written together with NV was produced, otherwise propagated (R48 KIND). -/
def Flags.hasNv (f : Flags) : Bool := f.getLsbD 0
/-- Is NAN raised? -/
def Flags.hasNan (f : Flags) : Bool := f.getLsbD 6

end Sys2Proof
end

