-- ==== Sys2Proof/Machine/Num.lean ====
section
/-! DEFINITION. Number formats and rounding (R25 to R35). A value is a NaN, an infinity, or a sign, a natural
mantissa and a power of two; rounding is exact integer arithmetic with one rounding at the end. -/

namespace Sys2Proof


/-- A decoded value (R26). `fin neg m e` is (−1)^neg × m × 2^e; m = 0 is a zero with its sign. -/
inductive Num where
  | nan
  | inf (neg : Bool)
  | fin (neg : Bool) (m : Nat) (e : Int)
  deriving DecidableEq, Repr

/-- A floating-point layout (R25, R26): exponent and fraction widths, bias, whether infinities exist, whether
NaNs exist, and the significand and exponent of the last place of the largest finite value. -/
structure FFmt where
  ebits : Nat
  fbits : Nat
  bias : Nat
  hasInf : Bool
  hasNan : Bool
  maxSig : Nat
  maxLsb : Int
  nanCode : Nat
  deriving DecidableEq, Repr

/-- The layouts of the types 0 to 5 (R25); none for the integers and e8m0. -/
def ElemTy.ffmt : ElemTy → Option FFmt
  | .f32 => some ⟨8, 23, 127, true, true, 2 ^ 24 - 1, 104, 0x7FC00000⟩
  | .bf16 => some ⟨8, 7, 127, true, true, 2 ^ 8 - 1, 120, 0x7FC0⟩
  | .f16 => some ⟨5, 10, 15, true, true, 2 ^ 11 - 1, 5, 0x7E00⟩
  | .e4m3 => some ⟨4, 3, 7, false, true, 14, 5, 0x7F⟩
  | .e5m2 => some ⟨5, 2, 15, true, true, 2 ^ 3 - 1, 13, 0x7E⟩
  | .e2m1 => some ⟨2, 1, 1, false, false, 3, 1, 0⟩
  | .i32 | .i16 | .i8 | .n32 | .n16 | .n8 | .e8m0 => none

/-- Bits of an element lane in a vector register: R25's width, except that e2m1 fills 8 bits (R27). -/
def ElemTy.laneBits : ElemTy → Nat
  | .f32 | .i32 | .n32 => 32
  | .bf16 | .f16 | .i16 | .n16 => 16
  | .e4m3 | .e5m2 | .e2m1 | .i8 | .n8 | .e8m0 => 8

/-- Bytes of an element lane. -/
def ElemTy.laneBytes (t : ElemTy) : Nat := t.laneBits / 8

/-- Bits of an element lane that carry its value: four for e2m1 (R27). -/
def ElemTy.valueBits : ElemTy → Nat
  | .e2m1 => 4
  | .f32 => 32 | .i32 => 32 | .n32 => 32 | .bf16 => 16 | .f16 => 16 | .i16 => 16 | .n16 => 16
  | .e4m3 => 8 | .e5m2 => 8 | .i8 => 8 | .n8 => 8 | .e8m0 => 8

/-- An encoding as it is carried as a bit pattern: e2m1 keeps [3:0] only (R27). -/
def ElemTy.pattern (t : ElemTy) (x : Nat) : Nat := x % 2 ^ t.valueBits

/-- The signed value of the low n bits. -/
def signedOf (n x : Nat) : Int := (BitVec.ofNat n x).toInt

/-- An integer as a value. -/
def Num.ofInt (i : Int) : Num := .fin (decide (i < 0)) i.natAbs 0

/-- The value of a floating-point encoding (R26). -/
def decodeFloat (f : FFmt) (x : Nat) : Num :=
  let s := x / 2 ^ (f.ebits + f.fbits) % 2 == 1
  let ex := x / 2 ^ f.fbits % 2 ^ f.ebits
  let m := x % 2 ^ f.fbits
  if ex = 0 then .fin s m (1 - f.bias - f.fbits)
  else if f.hasInf && ex == 2 ^ f.ebits - 1 then (if m = 0 then .inf s else .nan)
  else if !f.hasInf && f.hasNan && ex == 2 ^ f.ebits - 1 && m == 2 ^ f.fbits - 1 then .nan
  else .fin s (2 ^ f.fbits + m) (ex - f.bias - f.fbits)

/-- The value of an element encoding (R25, R26). -/
def ElemTy.decode (t : ElemTy) (x : Nat) : Num :=
  match t with
  | .f32 | .bf16 | .f16 | .e4m3 | .e5m2 | .e2m1 =>
    match t.ffmt with
    | some f => decodeFloat f x
    | none => .nan
  | .i32 => .ofInt (signedOf 32 x)
  | .i16 => .ofInt (signedOf 16 x)
  | .i8 => .ofInt (signedOf 8 x)
  | .n32 => .ofInt (x % 2 ^ 32)
  | .n16 => .ofInt (x % 2 ^ 16)
  | .n8 => .ofInt (x % 2 ^ 8)
  | .e8m0 => if x % 256 = 255 then .nan else .fin false 1 ((x % 256 : Nat) - 127)

/-- Number of bits of a natural number, by structural recursion on a bound. -/
def bitLen (n : Nat) : Nat := if n = 0 then 0 else Nat.log2 n + 1

/-- How the discarded part of a magnitude compares with half a unit in the last place. -/
inductive Tail where
  | exact | below | tie | above
  deriving DecidableEq, Repr

/-- Cut m × 2^e, with a further non-zero part below m's last bit when sticky, at the unit 2^q. -/
def cutAt (m : Nat) (e q : Int) (sticky : Bool) : Nat × Tail :=
  if q ≤ e then (m * 2 ^ (e - q).toNat, if sticky then .below else .exact)
  else
    let k := (q - e).toNat
    let r := m % 2 ^ k
    let half := 2 ^ (k - 1)
    (m / 2 ^ k,
      if r = 0 && !sticky then .exact
      else if r < half then .below
      else if r = half && !sticky then .tie
      else .above)

/-- Does the rounding mode go up in magnitude (R32)? -/
def roundsUp (rm : RM) (neg : Bool) (n : Nat) (t : Tail) : Bool :=
  match rm with
  | .rne => t == .above || (t == .tie && n % 2 == 1)
  | .rtz => false
  | .rup => !neg && t != .exact
  | .rdn => neg && t != .exact

/-- The encoding of the largest finite value of a layout, without sign. -/
def FFmt.maxCode (f : FFmt) : Nat :=
  (f.maxLsb + f.fbits + f.bias - 1).toNat * 2 ^ f.fbits + f.maxSig

/-- The encoding of infinity without sign. -/
def FFmt.infCode (f : FFmt) : Nat := (2 ^ f.ebits - 1) * 2 ^ f.fbits

/-- Put a sign on a magnitude encoding. -/
def FFmt.signed (f : FFmt) (neg : Bool) (x : Nat) : Nat :=
  if neg then 2 ^ (f.ebits + f.fbits) + x else x

/-- The overflow result (R33). -/
def FFmt.overflow (f : FFmt) (rm : RM) (neg : Bool) : Nat :=
  let toInf := f.hasInf && (match rm with | .rne => true | .rtz => false | .rup => !neg | .rdn => neg)
  f.signed neg (if toInf then f.infCode else f.maxCode)

/-- RoundTo of a finite value (R32, R33): the encoding and the flags OF, UF and NX. -/
def roundFloat (f : FFmt) (rm : RM) (neg : Bool) (m : Nat) (e : Int) (sticky : Bool := false) : Nat × Flags :=
  if m = 0 && !sticky then (f.signed neg 0, 0)
  else
    let lead := e + bitLen m - 1
    let q := max lead (1 - f.bias) - f.fbits
    let c := cutAt m e q sticky
    let n := if roundsUp rm neg c.1 c.2 then c.1 + 1 else c.1
    let inexact := c.2 != .exact
    if f.maxLsb < q || (q == f.maxLsb && f.maxSig < n) then (f.overflow rm neg, Flags.of ||| Flags.nx)
    else
      let mag := (q + f.fbits + f.bias - 1).toNat * 2 ^ f.fbits + n
      (f.signed neg mag,
        Flags.when inexact Flags.nx ||| Flags.when (inexact && decide (mag < 2 ^ f.fbits)) Flags.uf)

/-- Largest and smallest value of an integer type. -/
def ElemTy.intRange : ElemTy → Int × Int
  | .i32 => (-(2 ^ 31), 2 ^ 31 - 1)
  | .i16 => (-(2 ^ 15), 2 ^ 15 - 1)
  | .i8 => (-(2 ^ 7), 2 ^ 7 - 1)
  | .n32 => (0, 2 ^ 32 - 1)
  | .n16 => (0, 2 ^ 16 - 1)
  | .n8 => (0, 2 ^ 8 - 1)
  | .f32 | .bf16 | .f16 | .e4m3 | .e5m2 | .e2m1 | .e8m0 => (0, 0)

/-- The two's complement encoding of an integer in a lane of the type. -/
def ElemTy.encInt (t : ElemTy) (i : Int) : Nat := (BitVec.ofInt t.laneBits i).toNat

/-- Sat and SatN (R34, R46): clamp into the type's range, SAT when that changes the value. -/
def satInt (t : ElemTy) (i : Int) : Int × Flags :=
  let r := t.intRange
  if i < r.1 then (r.1, Flags.sat) else if r.2 < i then (r.2, Flags.sat) else (i, 0)

/-- Round a finite value to an integer (R34): the integer and whether the value was an integer. -/
def roundInteger (rm : RM) (neg : Bool) (m : Nat) (e : Int) : Int × Bool :=
  let c := cutAt m e 0 false
  let n : Nat := if roundsUp rm neg c.1 c.2 then c.1 + 1 else c.1
  (if neg then -(n : Int) else (n : Int), c.2 == .exact)

/-- Conversion to an integer type (R34). -/
def toIntTy (t : ElemTy) (rm : RM) (x : Num) : Nat × Flags :=
  match x with
  | .nan => (0, Flags.nv)
  | .inf neg => (t.encInt (if neg then t.intRange.1 else t.intRange.2), Flags.nv)
  | .fin neg m e =>
    let r := roundInteger rm neg m e
    let s := satInt t r.1
    (t.encInt s.1, s.2 ||| Flags.when (!r.2) Flags.nx)

/-- Conversion to e8m0 (R35); rm has no effect. -/
def toE8m0 (x : Num) : Nat × Flags :=
  match x with
  | .nan => (255, Flags.nan)
  | .inf _ => (255, Flags.nv ||| Flags.nan)
  | .fin _ m e =>
    let lead := e + bitLen m - 1
    if m = 0 || lead < -127 then (0, Flags.uf ||| Flags.nx)
    else if 128 ≤ lead then (254, Flags.of ||| Flags.nx)
    else ((lead + 127).toNat, Flags.when (m != 2 ^ (bitLen m - 1)) Flags.nx)

/-- RoundTo for a floating-point destination, NaN and infinity included (R33). -/
def toFloatTy (f : FFmt) (rm : RM) (x : Num) : Nat × Flags :=
  match x with
  | .nan => if f.hasNan then (f.nanCode, Flags.nan) else (0, Flags.nv)
  | .inf neg =>
    if f.hasInf then (f.signed neg f.infCode, 0)
    else if f.hasNan then (f.nanCode, Flags.nv ||| Flags.nan)
    else (f.signed neg f.maxCode, Flags.nv)
  | .fin neg m e => roundFloat f rm neg m e

/-- The encoding of a value in a type, with the flags of the conversion (R33 to R35). -/
def ElemTy.round (t : ElemTy) (rm : RM) (x : Num) : Nat × Flags :=
  match t.ffmt with
  | some f => toFloatTy f rm x
  | none => if t == .e8m0 then toE8m0 x else toIntTy t rm x

/-- The canonical NaN of a type, and what a NaN becomes where the type has none (R28, R33, R34). -/
def ElemTy.canonNan (t : ElemTy) : Nat := (t.round .rne .nan).1

/-! ### Exact arithmetic on values (R36) -/

/-- Negation. -/
def Num.neg : Num → Num
  | .nan => .nan
  | .inf s => .inf (!s)
  | .fin s m e => .fin (!s) m e

/-- Magnitude. -/
def Num.abs : Num → Num
  | .nan => .nan
  | .inf _ => .inf false
  | .fin _ m e => .fin false m e

/-- A signed mantissa brought to the exponent `lo`, which is at most e. -/
def scaledTo (neg : Bool) (m : Nat) (e lo : Int) : Int :=
  let k : Int := (m * 2 ^ (e - lo).toNat : Nat)
  if neg then -k else k

/-- Exact sum. An exact zero from operands of opposite sign is + except under RDN (R33). -/
def Num.add (rm : RM) (a b : Num) : Num × Flags :=
  match a, b with
  | .nan, _ => (.nan, 0)
  | .inf _, .nan => (.nan, 0)
  | .fin _ _ _, .nan => (.nan, 0)
  | .inf s, .inf t => if s == t then (.inf s, 0) else (.nan, Flags.nv)
  | .inf s, .fin _ _ _ => (.inf s, 0)
  | .fin _ _ _, .inf t => (.inf t, 0)
  | .fin s m e, .fin t n f =>
    let lo := min e f
    let k := scaledTo s m e lo + scaledTo t n f lo
    if k = 0 then (.fin (if s == t then s else rm == .rdn) 0 lo, 0)
    else (.fin (decide (k < 0)) k.natAbs lo, 0)

/-- Exact product; 0 × ∞ is a NaN with NV. -/
def Num.mul (a b : Num) : Num × Flags :=
  match a, b with
  | .nan, _ => (.nan, 0)
  | .inf _, .nan => (.nan, 0)
  | .fin _ _ _, .nan => (.nan, 0)
  | .inf s, .inf t => (.inf (s != t), 0)
  | .inf s, .fin t n _ => if n = 0 then (.nan, Flags.nv) else (.inf (s != t), 0)
  | .fin s m _, .inf t => if m = 0 then (.nan, Flags.nv) else (.inf (s != t), 0)
  | .fin s m e, .fin t n f => (.fin (s != t) (m * n) (e + f), 0)

/-- a × b + c, exact. -/
def Num.fma (rm : RM) (a b c : Num) : Num × Flags :=
  match c with
  | .nan => (.nan, 0)
  | .inf _ | .fin _ _ _ =>
    let p := Num.mul a b
    let r := Num.add rm p.1 c
    (r.1, p.2 ||| r.2)

/-- Numeric order of two values that are not NaN: −1, 0 or 1 for less, equal, greater. The zeros are equal. -/
def Num.cmp (a b : Num) : Option Int :=
  match a, b with
  | .nan, _ => none
  | .inf _, .nan => none
  | .fin _ _ _, .nan => none
  | .inf s, .inf t => some (if s == t then 0 else if s then -1 else 1)
  | .inf s, .fin _ _ _ => some (if s then -1 else 1)
  | .fin _ _ _, .inf t => some (if t then 1 else -1)
  | .fin s m e, .fin t n f =>
    let lo := min e f
    let d := scaledTo s m e lo - scaledTo t n f lo
    some (if d < 0 then -1 else if d = 0 then 0 else 1)

/-- Is the value a zero of either sign? -/
def Num.isZero : Num → Bool
  | .fin _ m _ => m == 0
  | .nan => false
  | .inf _ => false

/-- Is the sign bit set? -/
def Num.isNeg : Num → Bool
  | .fin s _ _ => s
  | .inf s => s
  | .nan => false

/-- Is the value a NaN? -/
def Num.isNan : Num → Bool
  | .nan => true
  | .inf _ => false
  | .fin _ _ _ => false

/-- Is a less than b, with −0 below +0 (R39 and the maxima of R133)? False where either is a NaN. -/
def Num.below (a b : Num) : Bool :=
  match Num.cmp a b with
  | some d => decide (d < 0) || (d == 0 && a.isZero && a.isNeg && !b.isNeg)
  | none => false

/-- Multiply by a power of two, exact. -/
def Num.scale (x : Num) (k : Int) : Num :=
  match x with
  | .nan => .nan
  | .inf s => .inf s
  | .fin s m e => .fin s m (e + k)

/-! ### Memory-side formats (R29) -/

/-- The format codes of R29 that are assigned. -/
inductive MemFmt where
  | elem (t : ElemTy)
  | i4 | e2m1x2 | i4s | i8s | e2m1s | e4m3s
  | bmv (w : Fin 3)
  deriving DecidableEq, Repr

/-- The format of a code; none for 15 and 23 to 31 (R29). bmv 0, 1, 2 have values of 32, 16 and 8 bits. -/
def MemFmt.ofCode (n : Nat) : Option MemFmt :=
  match n with
  | 13 => some .i4 | 14 => some .e2m1x2 | 16 => some .i4s | 17 => some .i8s | 18 => some .e2m1s | 19 => some .e4m3s
  | 20 => some (.bmv 0) | 21 => some (.bmv 1) | 22 => some (.bmv 2)
  | _ => (ElemTy.ofCode n).map .elem

/-- The code of a format. -/
def MemFmt.code : MemFmt → Nat
  | .elem t => t.code
  | .i4 => 13 | .e2m1x2 => 14 | .i4s => 16 | .i8s => 17 | .e2m1s => 18 | .e4m3s => 19
  | .bmv w => 20 + w.val

/-- An encoding of a stored element as it is carried as a bit pattern: e2m1 keeps [3:0] only (R27). -/
def MemFmt.pattern (f : MemFmt) (x : Nat) : Nat :=
  match f with
  | .elem t => t.pattern x
  | .i4 | .e2m1x2 | .i4s | .i8s | .e2m1s | .e4m3s | .bmv _ => x

/-- Is the format block-scaled (R30)? -/
def MemFmt.scaled : MemFmt → Bool
  | .i4s | .i8s | .e2m1s | .e4m3s => true
  | .elem _ | .i4 | .e2m1x2 | .bmv _ => false

/-- Bits an element occupies in memory (R29). -/
def MemFmt.bits : MemFmt → Nat
  | .elem t => t.laneBits
  | .i4 | .e2m1x2 | .i4s | .e2m1s => 4
  | .i8s | .e4m3s => 8
  | .bmv w => if w = 0 then 32 else if w = 1 then 16 else 8

/-- The value of a stored element before any block scale (R29, R30). -/
def MemFmt.decode (f : MemFmt) (x : Nat) : Num :=
  match f with
  | .elem t => t.decode x
  | .i4 | .i4s => .ofInt (signedOf 4 x)
  | .e2m1x2 | .e2m1s => ElemTy.e2m1.decode x
  | .i8s => .ofInt (signedOf 8 x)
  | .e4m3s => ElemTy.e4m3.decode x
  | .bmv _ => .nan

/-- A value under a block scale; scale 255 decodes every element as NaN (R30). -/
def applyScale (x : Num) (s : Nat) : Num := if s = 255 then .nan else x.scale ((s : Int) - 127)

/-- The encoding of a value in a memory-side format without its scale, with flags (R33, R34). -/
def MemFmt.round (f : MemFmt) (rm : RM) (x : Num) : Nat × Flags :=
  match f with
  | .elem t => t.round rm x
  | .i4 | .i4s =>
    (match x with
    | .nan => (0, Flags.nv)
    | .inf neg => (if neg then 8 else 7, Flags.nv)
    | .fin neg m e =>
      let r := roundInteger rm neg m e
      let c : Int := max (-8) (min 7 r.1)
      ((BitVec.ofInt 4 c).toNat, Flags.when (c != r.1) Flags.sat ||| Flags.when (!r.2) Flags.nx))
  | .e2m1x2 | .e2m1s => ElemTy.e2m1.round rm x
  | .i8s => ElemTy.i8.round rm x
  | .e4m3s => ElemTy.e4m3.round rm x
  | .bmv _ => (0, 0)

end Sys2Proof
end

