-- ==== Sys2Proof/Machine/Func.lean ====
section
/-! DEFINITION. The seven functions of R37, correctly rounded to f32. Each gives a magnitude m × 2^e cut
below its last bit, with a mark that says whether anything was cut. Rational and square roots are exact integer
arithmetic. Exponential and logarithm are fixed-point sums with `fp` fraction bits, cut after the bits that carry
no error; their exact values are irrational except in the cases listed, so the cut is never exact. UNVERIFIED (log 15):
that the kept bits decide the rounding for every f32 operand. -/

namespace Sys2Proof

/-- Fraction bits of the fixed-point sums. -/
def fp : Nat := 512

/-- Low bits of a fixed-point result that rounding errors of the sum may touch. -/
def guardBits : Nat := 64

/-- A magnitude, cut. -/
structure Cut where
  neg : Bool
  m : Nat
  e : Int
  sticky : Bool
  deriving DecidableEq, Repr

/-- Integer square root, one bit at a time from bit k − 1 down; r is the root so far. -/
def sqrtBits (n : Nat) : Nat → Nat → Nat
  | 0, r => r
  | k + 1, r => if (r + 2 ^ k) * (r + 2 ^ k) ≤ n then sqrtBits n k (r + 2 ^ k) else sqrtBits n k r

/-- Floor of the square root. -/
def isqrt (n : Nat) : Nat := sqrtBits n (bitLen n / 2 + 1) 0

/-- Sum of t × (1/3)^(2k) / (2k + 1) from k on, with fuel. -/
def atanhThird : Nat → Nat → Nat → Nat
  | 0, _, _ => 0
  | fuel + 1, k, t => t / (2 * k + 1) + atanhThird fuel (k + 1) (t / 9)

/-- ln 2 = 2 atanh(1/3), with `fp` fraction bits. -/
def ln2Fix : Nat := atanhThird 180 0 (2 * 2 ^ fp / 3)

/-- e^z for a fixed-point z below 1: the sum of z^k / k! from term t on. -/
def expSeries (z : Nat) : Nat → Nat → Nat → Nat
  | 0, _, _ => 0
  | fuel + 1, k, t => t + expSeries z fuel (k + 1) (t * z / 2 ^ fp / k)

/-- Square a fixed-point number n times. -/
def squareTimes : Nat → Nat → Nat
  | 0, x => x
  | n + 1, x => squareTimes n (x * x / 2 ^ fp)

/-- e^z for a fixed-point z in 0 to 1. -/
def expFix (z : Nat) : Nat := squareTimes 8 (expSeries (z / 2 ^ 8) 70 1 (2 ^ fp))

/-- e^(−y) for a fixed-point y below 2^9. -/
def expNegFix (y : Nat) : Nat := squareTimes 16 (2 ^ (2 * fp) / expSeries (y / 2 ^ 16) 70 1 (2 ^ fp))

/-- m × 2^e as a fixed-point number, cut toward zero. -/
def toFix (m : Nat) (e : Int) : Nat :=
  let k : Int := e + fp
  if 0 ≤ k then m * 2 ^ k.toNat else m / 2 ^ (-k).toNat

/-- A fixed-point number with its unreliable bits cut off. -/
def ofFix (neg : Bool) (x : Nat) (scale : Int) : Cut :=
  ⟨neg, x / 2 ^ guardBits, scale - fp + guardBits, true⟩

/-- 2^x for x = (−1)^neg × m × 2^e. An integer exponent is exact. Beyond the limits the result only overflows or
underflows. -/
def exp2Cut (neg : Bool) (m : Nat) (e : Int) : Cut :=
  if m = 0 then ⟨false, 1, 0, false⟩
  else if 10 ≤ e + bitLen m - 1 then (if neg then ⟨false, 1, -1000, true⟩ else ⟨false, 1, 1000, true⟩)
  else
    -- floor and fraction of x, the fraction with 160 bits, which hold every f32 fraction of magnitude below 2^10
    let mag : Int := if 0 ≤ e + 160 then (m * 2 ^ (e + 160).toNat : Nat) else (m / 2 ^ (-(e + 160)).toNat : Nat)
    let x := if neg then -mag else mag
    let n := x.fdiv (2 ^ 160)
    let f := (x.fmod (2 ^ 160)).toNat
    if f = 0 then ⟨false, 1, n, false⟩ else ofFix false (expFix (f * ln2Fix / 2 ^ 160)) n

/-- n bits of log2 of r / 2^w, 1 ≤ r / 2^w < 2, by repeated squaring. -/
def logBits (w : Nat) : Nat → Nat → Nat → Nat
  | 0, _, acc => acc
  | n + 1, r, acc =>
    let q := r * r / 2 ^ w
    if 2 ^ (w + 1) ≤ q then logBits w n (q / 2) (2 * acc + 1) else logBits w n q (2 * acc)

/-- log2 of m × 2^e, m > 0: exact when m is a power of two. -/
def log2Cut (m : Nat) (e : Int) : Cut :=
  let l := bitLen m
  let n : Int := e + l - 1
  if m = 2 ^ (l - 1) then ⟨decide (n < 0), n.natAbs, 0, false⟩
  else
    let bits : Int := (logBits fp 200 (m * 2 ^ (fp + 1 - l)) 0 : Nat)
    let v := n * 2 ^ 200 + bits
    if 0 ≤ v then ⟨false, v.natAbs, -200, true⟩ else ⟨true, (-v - 1).natAbs, -200, true⟩

/-- 1/x. -/
def rcpCut (neg : Bool) (m : Nat) (e : Int) : Cut := ⟨neg, 2 ^ 96 / m, -96 - e, 2 ^ 96 % m != 0⟩

/-- m × 2^e with an even exponent. -/
def evenExp (m : Nat) (e : Int) : Nat × Int := if e % 2 = 0 then (m, e) else (2 * m, e - 1)

/-- √x for x > 0. -/
def sqrtCut (m : Nat) (e : Int) : Cut :=
  let p := evenExp m e
  let n := p.1 * 2 ^ 128
  let r := isqrt n
  ⟨false, r, p.2 / 2 - 64, r * r != n⟩

/-- 1/√x for x > 0. -/
def rsqCut (m : Nat) (e : Int) : Cut :=
  let p := evenExp m e
  let n := 2 ^ 192 / p.1
  let r := isqrt n
  ⟨false, r, -(p.2 / 2) - 96, r * r * p.1 != 2 ^ 192⟩

/-- tanh x = (1 − q)/(1 + q) with q = e^(−2|x|), x not zero. Near zero it is just below |x|, far out just below 1. -/
def tanhCut (neg : Bool) (m : Nat) (e : Int) : Cut :=
  let lead := e + bitLen m - 1
  if lead < -45 then ⟨neg, m * 2 ^ 60 - 1, e - 60, true⟩
  else if 6 ≤ lead then ⟨neg, 2 ^ 60 - 1, -60, true⟩
  else
    let q := expNegFix (toFix m (e + 1))
    ofFix neg ((2 ^ fp - q) * 2 ^ fp / (2 ^ fp + q)) 0

/-- 1/(1 + e^(−x)), x not zero. -/
def sigmCut (neg : Bool) (m : Nat) (e : Int) : Cut :=
  if 8 ≤ e + bitLen m - 1 then (if neg then ⟨false, 1, -1000, true⟩ else ⟨false, 2 ^ 60 - 1, -60, true⟩)
  else
    let q := expNegFix (toFix m e)
    if neg then ofFix false (q * 2 ^ fp / (2 ^ fp + q)) 0 else ofFix false (2 ^ (2 * fp) / (2 ^ fp + q)) 0

/-- The functions of R37. -/
inductive Fn where
  | exp2 | log2 | rcp | rsq | sqrt | tanh | sigm
  deriving DecidableEq, Repr

/-- Round a cut value. -/
def Cut.round (f : FFmt) (rm : RM) (c : Cut) : Nat × Flags := roundFloat f rm c.neg c.m c.e c.sticky

/-- A function at a value: either a special result of R37 with its flags, or a cut value. A zero from an exact result
(log2 1) is +0. -/
def Fn.special (g : Fn) (x : Num) : Except (Num × Flags) Cut :=
  match x with
  | .nan => .error (.nan, 0)
  | .inf neg =>
    (match g with
    | .rcp => .error (.fin neg 0 0, 0)
    | .rsq => if neg then .error (.nan, Flags.nv) else .error (.fin false 0 0, 0)
    | .sqrt => if neg then .error (.nan, Flags.nv) else .error (.inf false, 0)
    | .exp2 => .error (if neg then .fin false 0 0 else .inf false, 0)
    | .log2 => if neg then .error (.nan, Flags.nv) else .error (.inf false, 0)
    | .tanh => .error (.fin neg 1 0, 0)
    | .sigm => .error (if neg then .fin false 0 0 else .fin false 1 0, 0))
  | .fin neg m e =>
    if m = 0 then
      (match g with
      | .rcp => .error (.inf neg, Flags.dz)
      | .rsq => .error (.inf neg, Flags.dz)
      | .sqrt => .error (.fin neg 0 0, 0)
      | .exp2 => .error (.fin false 1 0, 0)
      | .log2 => .error (.inf true, Flags.dz)
      | .tanh => .error (.fin neg 0 0, 0)
      | .sigm => .error (.fin false 1 (-1), 0))
    else
      match g with
      | .rcp => .ok (rcpCut neg m e)
      | .rsq => if neg then .error (.nan, Flags.nv) else .ok (rsqCut m e)
      | .sqrt => if neg then .error (.nan, Flags.nv) else .ok (sqrtCut m e)
      | .exp2 => .ok (exp2Cut neg m e)
      | .log2 => if neg then .error (.nan, Flags.nv) else .ok (log2Cut m e)
      | .tanh => .ok (tanhCut neg m e)
      | .sigm => .ok (sigmCut neg m e)

/-- The layout of f32, to which every function rounds first (R37). -/
def f32Fmt : FFmt := ⟨8, 23, 127, true, true, 2 ^ 24 - 1, 104, 0x7FC00000⟩

/-- A function of an element of type ty, rounded to f32 and then to ty (R37). -/
def Fn.apply (g : Fn) (ty : ElemTy) (rm : RM) (x : Nat) : Nat × Flags :=
  let first := match g.special (ty.decode x) with
    | .error (v, f) => let r := toFloatTy f32Fmt rm v; (r.1, r.2 ||| f)
    | .ok c => c.round f32Fmt rm
  if ty = .f32 then first
  else
    let second := ty.round rm (decodeFloat f32Fmt first.1)
    (second.1, (if (decodeFloat f32Fmt first.1).isNan then first.2 &&& Flags.nv else first.2) ||| second.2)

end Sys2Proof
end

