-- ==== Sys2Proof/Machine/Elem.lean ====
section
/-! DEFINITION. The per-element effects of the vector unit (R133 to R140), conversions (R138), the fixed reduction
trees (R38, R39, R141, R142). Elements are lane encodings; each effect gives an encoding and the flags it raises. -/

namespace Sys2Proof

/-- The per-element effects with up to three element operands. -/
inductive VFn where
  | add | sub | mul | fma | fms | max | min | abs | neg | scl | clamp
  | and | or | xor | shl | shr | sar | cmpeq | cmplt | cmple | sel
  | fn (g : Fn)
  deriving DecidableEq, Repr

/-- The value of an element of an integer type. -/
def ElemTy.int (t : ElemTy) (x : Nat) : Int :=
  match t.decode x with
  | .fin s m _ => if s then -(m : Int) else m
  | .nan => 0
  | .inf _ => 0

/-- The encoding of an exact integer result, clamped once (R134). -/
def ElemTy.sat (t : ElemTy) (i : Int) : Nat × Flags :=
  let r := satInt t i
  (t.encInt r.1, r.2)

/-- The sign bit of a floating-point lane. -/
def ElemTy.signBit (t : ElemTy) : Nat := 2 ^ (t.valueBits - 1)

/-- A NaN written by an exact operation: canonical, without NV (R133). -/
def ElemTy.quiet (t : ElemTy) : Nat × Flags := t.round .rne .nan

/-- Round an exact result that carries flags of its own. -/
def ElemTy.roundWith (t : ElemTy) (rm : RM) (r : Num × Flags) : Nat × Flags :=
  let q := t.round rm r.1
  (q.1, q.2 ||| r.2)

/-- The floating-point effects of R133; `k` is the exponent of VSCL. -/
def floatOp (g : VFn) (t : ElemTy) (rm : RM) (x y c : Nat) (k : Int) : Nat × Flags :=
  let a := t.decode x
  let b := t.decode y
  let d := t.decode c
  match g with
  | .add => t.roundWith rm (Num.add rm a b)
  | .sub => t.roundWith rm (Num.add rm a b.neg)
  | .mul => t.roundWith rm (Num.mul a b)
  | .fma => t.roundWith rm (Num.fma rm a b d)
  | .fms => t.roundWith rm (Num.fma rm a b d.neg)
  | .max => if a.isNan || b.isNan then t.quiet else (t.pattern (if Num.below a b then y else x), 0)
  | .min => if a.isNan || b.isNan then t.quiet else (t.pattern (if Num.below b a then y else x), 0)
  | .abs => if a.isNan then t.quiet else (t.pattern x % t.signBit, 0)
  | .neg => if a.isNan then t.quiet else (Nat.xor (t.pattern x) t.signBit, 0)
  | .scl => t.round rm (a.scale k)
  | .clamp =>
    if a.isNan || b.isNan then t.quiet
    else
      let m := t.pattern y % t.signBit
      let lo := m + t.signBit
      let v := if Num.below a (t.decode lo) then lo else t.pattern x
      (if Num.below (t.decode m) (t.decode v) then m else v, 0)
  | .fn f => f.apply t rm x
  | .and | .or | .xor | .shl | .shr | .sar | .cmpeq | .cmplt | .cmple | .sel => (t.pattern x, 0)

/-- m of VCLAMP (R134): |y| clamped by Sat(m, W), for U types too. -/
def clampBound (t : ElemTy) (b : Int) : Int × Flags :=
  let top : Int := 2 ^ (t.laneBits - 1) - 1
  if top < b.natAbs then (top, Flags.sat) else (b.natAbs, 0)

/-- The integer effects of R134. -/
def intOp (g : VFn) (t : ElemTy) (x y c : Nat) : Nat × Flags :=
  let a := t.int x
  let b := t.int y
  let d := t.int c
  match g with
  | .add => t.sat (a + b)
  | .sub => t.sat (a - b)
  | .mul => t.sat (a * b)
  | .fma => t.sat (a * b + d)
  | .fms => t.sat (a * b - d)
  | .max => t.sat (max a b)
  | .min => t.sat (min a b)
  | .abs => t.sat a.natAbs
  | .neg => t.sat (-a)
  | .clamp =>
    let m := clampBound t b
    let lo := if t.intRange.1 = 0 then 0 else -m.1
    (t.encInt (min (max a lo) m.1), m.2)
  | .scl | .fn _ | .and | .or | .xor | .shl | .shr | .sar | .cmpeq | .cmplt | .cmple | .sel => (t.pattern x, 0)

/-- A comparison (R137): signed or unsigned by type; false with a NaN. All ones are those of the value's bits: an e2m1 lane
keeps [7:4] zero (R27; DEDUCED, log 76). -/
def compareOp (t : ElemTy) (x y : Nat) (f : Int → Bool) : Nat × Flags :=
  match Num.cmp (t.decode x) (t.decode y) with
  | some d => (if f d then 2 ^ t.valueBits - 1 else 0, 0)
  | none => (0, 0)

/-- Shift right copying the top bit (R136). -/
def sarOp (w x n : Nat) : Nat := ((BitVec.ofNat w x).sshiftRight n).toNat

/-- One element (R133 to R137, R140). `k` is VSCL's exponent or the shift amount. -/
def elemOp (g : VFn) (t : ElemTy) (rm : RM) (x y c : Nat) (k : Int) : Nat × Flags :=
  let w := t.laneBits
  let n := (k % w).toNat
  match g with
  | .and => (t.pattern (Nat.land x y), 0)
  | .or => (t.pattern (Nat.lor x y), 0)
  | .xor => (t.pattern (Nat.xor x y), 0)
  | .shl => (x * 2 ^ n % 2 ^ w, 0)
  | .shr => (x / 2 ^ n, 0)
  | .sar => (sarOp w x n, 0)
  | .cmpeq => compareOp t x y (· == 0)
  | .cmplt => compareOp t x y (fun d => decide (d < 0))
  | .cmple => compareOp t x y (fun d => decide (d ≤ 0))
  | .sel => (t.pattern (if t.pattern c != 0 then x else y), 0)
  | .add | .sub | .mul | .fma | .fms | .max | .min | .abs | .neg | .scl | .clamp | .fn _ =>
    if t.isInt then intOp g t x y c else floatOp g t rm x y c k

/-- Convert (R138): every encoding of the source type rewritten as a value of the destination type. -/
def convertElem (src dst : ElemTy) (rm : RM) (x : Nat) : Nat × Flags := dst.round rm (src.decode x)

/-- A number of the element index family (R139): an exact integer as a value of the type. -/
def ElemTy.ofInt (t : ElemTy) (rm : RM) (i : Int) : Nat × Flags :=
  if t.isInt then t.sat i else t.round rm (.ofInt i)

/-! ### Trees -/

/-- Join two children of a node of R38; an absent child passes the other one up. -/
def joinSum (t : ElemTy) (rm : RM) (a b : Option Nat × Flags) : Option Nat × Flags :=
  match a.1, b.1 with
  | none, _ => (b.1, a.2 ||| b.2)
  | some x, none => (some x, a.2 ||| b.2)
  | some x, some y =>
    let r := t.roundWith rm (Num.add rm (t.decode x) (t.decode y))
    (some r.1, a.2 ||| b.2 ||| r.2)

/-- NodeSum over 2^k elements (R38): the elements given are the present ones, the rest are absent. -/
def nodeSum (t : ElemTy) (rm : RM) : Nat → List Nat → Option Nat × Flags
  | 0, xs => (xs.head?, 0)
  | k + 1, xs => joinSum t rm (nodeSum t rm k (xs.take (2 ^ k))) (nodeSum t rm k (xs.drop (2 ^ k)))

/-- A sum as it is written: an absent one is +0, a NaN is canonical and sets NAN (R38). -/
def writtenSum (t : ElemTy) (r : Option Nat × Flags) : Nat × Flags :=
  match r.1 with
  | none => (0, r.2)
  | some x => if (t.decode x).isNan then (t.canonNan, r.2 ||| Flags.nan) else (t.pattern x, r.2)

/-- The sum of the present elements (R38, R141). -/
def sumOf (t : ElemTy) (rm : RM) (xs : List Nat) : Nat × Flags :=
  if t.isInt then t.sat (xs.foldl (fun a x => a + t.int x) 0)
  else writtenSum t (nodeSum t rm (bitLen xs.length) xs)

/-- The aligned blocks of the first n elements, largest first, added left to right (R38); `k` counts bits down. -/
def scanBlocks (t : ElemTy) (rm : RM) : Nat → Nat → List Nat → Option Nat × Flags → Option Nat × Flags
  | 0, _, _, acc => acc
  | k + 1, n, xs, acc =>
    if n / 2 ^ k % 2 = 1 then
      scanBlocks t rm k n (xs.drop (2 ^ k)) (joinSum t rm acc (nodeSum t rm k (xs.take (2 ^ k))))
    else scanBlocks t rm k n xs acc

/-- The inclusive prefix over elements 0 to i (R38, R142). -/
def scanAt (t : ElemTy) (rm : RM) (xs : List Nat) (i : Nat) : Nat × Flags :=
  if t.isInt then t.sat ((xs.take (i + 1)).foldl (fun a x => a + t.int x) 0)
  else writtenSum t (scanBlocks t rm 16 (i + 1) xs (none, 0))

/-- Maximum or minimum of the present elements (R39, R141): any NaN gives the canonical NaN; none gives 0. -/
def extremeOf (g : VFn) (t : ElemTy) (xs : List Nat) : Nat × Flags :=
  match xs with
  | [] => (0, 0)
  | x :: r => if t.isF && xs.any fun v => (t.decode v).isNan then t.quiet
    else r.foldl (fun a v => let q := elemOp g t .rne a.1 v 0 0; (q.1, a.2 ||| q.2)) (t.pattern x, 0)

end Sys2Proof
end

