-- ==== Sys2Proof/Machine/Aes.lean ====
section
/-! DEFINITION. AES-256-XTS, with which local HBM is encrypted (R241): what an atom written under one key reads as under
another. -/

namespace Sys2Proof.Machine

open Sys2Proof

/-- Doubling in the field of the cipher. -/
def xtime (a : Byte) : Byte := (a <<< 1) ^^^ (if a.msb then 0x1B else 0)

/-- The product in the field, over the low n bits of the first factor. -/
def gmulBits : Nat → Byte → Byte → Byte
  | 0, _, _ => 0
  | n + 1, a, b => (if a.getLsbD 0 then b else 0) ^^^ gmulBits n (a >>> 1) (xtime b)

/-- The product in the field. -/
def gmul (a b : Byte) : Byte := gmulBits 8 a b

/-- The inverse in the field: the 254th power; 0 for 0. -/
def ginv (a : Byte) : Byte :=
  let a2 := gmul a a
  let a4 := gmul a2 a2
  let a8 := gmul a4 a4
  let a16 := gmul a8 a8
  let a32 := gmul a16 a16
  let a64 := gmul a32 a32
  let a128 := gmul a64 a64
  gmul (gmul (gmul a2 a4) (gmul a8 a16)) (gmul (gmul a32 a64) a128)

/-- The substitution of a byte. -/
def subByte (a : Byte) : Byte :=
  let b := ginv a
  b ^^^ b.rotateLeft 1 ^^^ b.rotateLeft 2 ^^^ b.rotateLeft 3 ^^^ b.rotateLeft 4 ^^^ 0x63

/-- Its inverse. -/
def unsubByte (b : Byte) : Byte := ginv (b.rotateLeft 1 ^^^ b.rotateLeft 3 ^^^ b.rotateLeft 6 ^^^ 0x05)

/-- Two lists of bytes, exclusive or. -/
def xorBytes (a b : List Byte) : List Byte := List.zipWith (· ^^^ ·) a b

/-- Key words after the latest ones, newest first, from word number i on: n of them. -/
def keyWords : Nat → Nat → Byte → List (List Byte) → List (List Byte)
  | 0, _, _, ws => ws
  | n + 1, i, rc, ws =>
    let t := ws.headD []
    let r := t.drop 1 ++ t.take 1
    let u := if i % 8 = 0 then xorBytes (r.map subByte) [rc, 0, 0, 0] else if i % 8 = 4 then t.map subByte else t
    keyWords n (i + 1) (if i % 8 = 0 then xtime rc else rc) (xorBytes (ws.getD 7 []) u :: ws)

/-- The fifteen round keys of a 32-byte key. -/
def roundKeys (k : List Byte) : List (List Byte) :=
  let ws := (keyWords 52 8 1 ((List.range 8).reverse.map fun i => (k.drop (4 * i)).take 4)).reverse
  (List.range 15).map fun r => ((ws.drop (4 * r)).take 4).flatten

/-- Rotate row r of a block, held by columns, by r columns; backwards for the inverse. -/
def shiftRows (back : Bool) (b : List Byte) : List Byte :=
  (List.range 16).map fun i =>
    let r := i % 4
    b.getD (4 * ((i / 4 + if back then 4 - r else r) % 4) + r) 0

/-- Multiply each column by a circulant matrix with the given first row. -/
def mixColumns (row : List Byte) (b : List Byte) : List Byte :=
  (List.range 16).map fun i =>
    let r := i % 4
    (List.range 4).foldl (fun a j => a ^^^ gmul (row.getD ((j + 4 - r) % 4) 0) (b.getD (i / 4 * 4 + j) 0)) 0

/-- AES-256 of a 16-byte block. -/
def aesEnc (k b : List Byte) : List Byte :=
  let ks := roundKeys k
  let mid := ((ks.drop 1).take 13).foldl
    (fun b rk => xorBytes rk (mixColumns [2, 3, 1, 1] (shiftRows false (b.map subByte)))) (xorBytes (ks.headD []) b)
  xorBytes (ks.getD 14 []) (shiftRows false (mid.map subByte))

/-- Its inverse. -/
def aesDec (k b : List Byte) : List Byte :=
  let ks := roundKeys k
  let mid := ((ks.drop 1).take 13).reverse.foldl
    (fun b rk => mixColumns [14, 11, 13, 9] (xorBytes rk ((shiftRows true b).map unsubByte))) (xorBytes (ks.getD 14 []) b)
  xorBytes (ks.headD []) ((shiftRows true mid).map unsubByte)

/-- The 16 bytes of a number, lowest first. -/
def bytes16 (v : Nat) : List Byte := (List.range 16).map fun i => BitVec.ofNat 8 (v / 256 ^ i)

/-- The number of 16 bytes, lowest first. -/
def nat16 (bs : List Byte) : Nat := bs.foldr (fun b a => b.toNat + 256 * a) 0

/-- Doubling of a tweak. -/
def doubleTweak (t : Nat) : Nat := (2 * t % 2 ^ 128).xor (if t / 2 ^ 127 % 2 = 1 then 0x87 else 0)

/-- The tweak of 16-byte block j of a data unit. -/
def tweakOf (k2 : List Byte) (unit j : Nat) : List Byte :=
  bytes16 ((List.range j).foldl (fun t _ => doubleTweak t) (nat16 (aesEnc k2 (bytes16 unit))))

/-- The two AES-256 keys of a slot's XTS pair: the first 64 of its 128 bytes, byte 0 lowest (R441). -/
def xtsKeys (k : BitVec 1024) : List Byte × List Byte :=
  let f := fun (lo : Nat) => (List.range 32).map fun i => BitVec.ofNat 8 (k.toNat / 2 ^ (lo + 8 * i))
  (f 0, f 256)

/-- XTS of the 16-byte block at a physical address: the data unit is the 64-byte atom, its tweak PA[51:6] (R241). -/
def xtsBlock (dec : Bool) (k : BitVec 1024) (pa : Nat) (b : List Byte) : List Byte :=
  let ks := xtsKeys k
  let t := tweakOf ks.2 (pa / 64 % 2 ^ 46) (pa % 64 / 16)
  xorBytes t ((if dec then aesDec else aesEnc) ks.1 (xorBytes t b))

/-- One step of the inverse of AES key wrap, at step number t: the check value and the semiblocks (R441). -/
def unwrapStep (k : List Byte) (s : List Byte × List (List Byte)) (t : Nat) : List Byte × List (List Byte) :=
  let i := (t - 1) % s.2.length
  let count := (List.range 8).map fun j => BitVec.ofNat 8 (t / 256 ^ (7 - j))
  let b := aesDec k (xorBytes s.1 count ++ s.2.getD i [])
  (b.take 8, s.2.set i (b.drop 8))

/-- What AES key wrap with the default initial value has wrapped in n + 1 semiblocks, if its check passes (R441). -/
def keyUnwrap (k : List Byte) (n : Nat) (bs : List Byte) : Option (List Byte) :=
  let r := (List.range (6 * n)).reverse.foldl (fun s t => unwrapStep k s (t + 1))
    (bs.take 8, (List.range n).map fun i => (bs.drop (8 + 8 * i)).take 8)
  if r.1 = List.replicate 8 0xA6 then some r.2.flatten else none

/-- A 16-byte block written under one key as it reads under another; none stands for no encryption. -/
def rekeyed (old new : Option (BitVec 1024)) (pa : Nat) (b : List Byte) : List Byte :=
  let c := match old with
    | none => b
    | some k => xtsBlock false k pa b
  match new with
  | none => c
  | some k => xtsBlock true k pa c

end Sys2Proof.Machine
end

