-- ==== Sys2Proof/Config.lean ====
section
/-! DEFINITION. What the spec leaves open, as constants without a body: nothing can be proved about their
values. Each names the rule and the log entry. -/

namespace Sys2Proof

/-- Cycles a step takes beyond the first (R97 and the other latency rules give times that this model leaves out;
log 2). -/
opaque Config.stall : Nat → Nat

/-- The byte at a key of memory that an event leaves open: what discarded work could write, what a changed split moves, an
element that a copy does not deliver. The first argument says which event (R344, R387, R434; log 13). -/
opaque Config.lost : Nat → Nat → Byte

/-- Byte i of the 56-bit MAC of a pool line, from the key, the line's address, the two counters and the line
(R242; log 11). -/
opaque Config.mac : Option (BitVec 1024) → Nat → Nat → Nat → List Byte → Nat → Byte

/-- Byte i of the fused 256-bit provisioning key (R441; log 11). -/
opaque Config.provisioning : Nat → Byte

/-- Place and width in bytes of MAGIC (0), VERSION (1; its width is the rule's) and BODYLEN (2) in a firmware image's header, which
R442 names without places (log 11). -/
opaque Config.fwPlace : Fin 3 → Nat × Nat

/-- Do the two signatures over header and body verify against the public keys whose digests are fused (R442; log 11)? -/
opaque Config.signed : List Byte → List Byte → List Byte → Bool

/-- The scope of an authorization, if it holds this part's serial number and the given audit count under good signatures
(R444; log 11). -/
opaque Config.authorized : List Byte → Nat → Option (BitVec 32)

/-- How many bytes of MBDATA an authorization takes (R444; log 11). -/
opaque Config.authLength : List Byte → Nat

/-- Does fusing the count (step 4) or writing the record (step 5) of DBGUNLOCK fail: is the count fused, and the result (R444;
log 71)? The argument is the time. -/
opaque Config.auditFails : Nat → Option (Bool × BitVec 8)

/-- A byte of a diagnostic page, by what the page reports, page and place (R441; log 26). -/
opaque Config.diag : List Nat → Nat → Nat → Byte

/-- The step of R438 that a test of the part's units fails, if one does (R434, R439; log 27). -/
opaque Config.retest : Nat → Option (Fin 7)

/-- Origin and extents of the pinned box of a Partial node after a restore: the record keeps its offset only (R178, R197; log 23).
The arguments are the time, the offset and an index. -/
opaque Config.savedBox : Nat → Nat → Nat → Nat

/-- The silicon stepping (R122). -/
opaque Config.stepping : BitVec 8

/-- Does a byte that an abandoned write could reach hold the new value (R168, R338; log 13)? -/
opaque Config.mixed : Nat → Bool

/-- Does the part want a pseudo-channel at 16-bit width, for a thermal limit or a lane fault (R325; log 17)? -/
opaque Config.narrow : Nat → Bool

/-- The DRAM row whose row-remap entry is lost in all three copies, if one is (R363; log 18). -/
opaque Config.rowLost : Nat → Option Nat

/-- The atom of local HBM that takes an error which ECC cannot correct, if one does (R361; log 18). -/
opaque Config.decays : Nat → Option Nat

/-- Does the scrub pass over an atom in the slot of this time (R362; log 18)? -/
opaque Config.scrubs : Nat → Nat → Bool

/-- Transfer IDs that a demand's own copies take on a channel (R188; log 10). -/
opaque Config.walkerIds : Nat → Nat

end Sys2Proof
end

