-- ==== Sys2Proof/Machine/Residue.lean ====
section
/-! DEFINITION. The arithmetic of the residue array (R40 to R45): alignment of a line, the three residue channels and
their reconstruction, special values, and the update of an accumulator. -/

namespace Sys2Proof

/-- An A row or a B column as the array holds it: marked NaN, its exponent, its integers, its values with masked
elements as +0, its mask, and whether alignment was inexact (R41, R45). -/
structure Line where
  nan : Bool
  e : Int
  q : List Int
  vals : List Num
  mask : List Bool
  nx : Bool
  deriving DecidableEq, Repr

/-- Exponent of the leading bit of the largest finite magnitude that is not zero (R41). -/
def lineExp (vs : List Num) : Option Int :=
  vs.foldl (fun a v =>
    match v with
    | .fin _ m e =>
      if m = 0 then a
      else
        let l : Int := e + bitLen m - 1
        (match a with
        | none => some l
        | some x => some (max x l))
    | .nan => a
    | .inf _ => a) none

/-- RoundInt(v × 2^(10 − E)) under RNE, and whether it is exact (R41); 0 for what is not finite. -/
def alignElem (e : Int) (v : Num) : Int × Bool :=
  match v with
  | .fin s m x => roundInteger .rne s m (x + 10 - e)
  | .nan => (0, true)
  | .inf _ => (0, true)

/-- Is a memory format one of the integer inputs, which need no alignment (R40)? -/
def intInput (f : MemFmt) : Bool := f == .elem .i8 || f == .elem .n8 || f == .i4

/-- Align one line (R40, R41, R45). -/
def alignLine (f : MemFmt) (vs : List Num) (mask : List Bool) : Line :=
  let ws := (vs.zip mask).map fun p => if p.2 then p.1 else .fin false 0 0
  let e : Int := if intInput f then 10 else (lineExp ws).getD 0
  let qs := ws.map (alignElem e)
  { nan := ws.any Num.isNan, e := e, q := qs.map Prod.fst, vals := ws, mask := mask, nx := qs.any fun p => !p.2 }

/-- One residue channel (R42). -/
def channel (m : Nat) (a b : List Int) : Nat :=
  ((a.zip b).foldl (fun (s : Nat) (p : Int × Int) => s + (p.1 % m).toNat * (p.2 % m).toNat) 0) % m

/-- The product of the moduli (R42). -/
def bigM : Nat := 68719472640

/-- Reconstruction from the three channels (R42). -/
def reconstruct (r5 r6 r7 : Nat) : Int :=
  let s := (r5 * 16781312 * 2048 + r6 * 16777215 * 4095 + r7 * 16773120 * 2049) % bigM
  if bigM / 2 < s then (s : Int) - bigM else s

/-- S of R42, as the array computes it. -/
def residueSum (a b : List Int) : Int := reconstruct (channel 4095 a b) (channel 4096 a b) (channel 4097 a b)

/-- What an output adds to its accumulator: a NaN line, a NaN from infinities, an infinity, or S × 2^e (R42 to R44). -/
inductive OutVal where
  | nanLine
  | nanMade
  | inf (neg : Bool)
  | sum (s : Int) (e : Int)
  deriving DecidableEq, Repr

/-- The products of step 2 of R44 that are not finite: none stands for a NaN. -/
def infProducts (a b : Line) : List (Option Bool) :=
  (((a.vals.zip a.mask).zip (b.vals.zip b.mask)).filterMap fun p =>
    if !(p.1.2 && p.2.2) then none
    else
      match p.1.1, p.2.1 with
      | .inf s, .inf t => some (some (s != t))
      | .inf s, .fin t m _ => some (if m = 0 then none else some (s != t))
      | .fin s m _, .inf t => some (if m = 0 then none else some (s != t))
      | .inf _, .nan => none
      | .fin _ _ _, .fin _ _ _ => none
      | .fin _ _ _, .nan => none
      | .nan, _ => none)

/-- The value of one output position (R44, R42). -/
def outputOf (a b : Line) : OutVal :=
  if a.nan || b.nan then .nanLine
  else
    let ps := infProducts a b
    if ps.contains none || (ps.contains (some true) && ps.contains (some false)) then .nanMade
    else
      match ps with
      | some s :: _ => .inf s
      | none :: _ => .nanMade
      | [] => .sum (residueSum a.q b.q) (a.e + b.e - 20)

/-- Update an FP32 accumulator (R43, R44). DESIGN CHOICE: the term of S = 0 is +0 (log 76). -/
def accF32 (rm : RM) (old : Nat) (o : OutVal) : Nat × Flags :=
  let v := ElemTy.f32.decode old
  let r : Num × Flags := match o with
    | .nanLine => (.nan, 0)
    | .nanMade => (.nan, Flags.nv)
    | .inf s => if v.isNan then (.nan, 0) else if v == .inf (!s) then (.nan, Flags.nv) else (.inf s, 0)
    | .sum s e => Num.add rm v (.fin (decide (s < 0)) s.natAbs e)
  let q := ElemTy.f32.round rm r.1
  (q.1, q.2 ||| r.2)

/-- Update an INT32 accumulator (R43). Its outputs are sums only. -/
def accI32 (old : Nat) (o : OutVal) : Nat × Flags :=
  match o with
  | .sum s _ =>
    let r := satInt .i32 (signedOf 32 old + s)
    (ElemTy.i32.encInt r.1, r.2)
  | .nanLine => (old, 0)
  | .nanMade => (old, 0)
  | .inf _ => (old, 0)

/-- Update an accumulator. -/
def accumulate (i32 : Bool) (rm : RM) (old : Nat) (o : OutVal) : Nat × Flags :=
  if i32 then accI32 old o else accF32 rm old o

/-! ### The layout of a B operand (R161) -/

/-- May the format be a matrix operand (R161)? -/
def matrixFmt (n : Nat) : Bool := n ≤ 5 || n == 8 || n == 11 || n == 13 || n == 14 || (16 ≤ n && n ≤ 19)

/-- A B descriptor's operand: format, K, N, and whether it carries a bitmap. -/
structure BOperand where
  fmt : MemFmt
  k : Nat
  n : Nat
  mb : Bool
  deriving DecidableEq, Repr

/-- EB of R161. -/
def BOperand.eb (b : BOperand) : Nat := (b.k * b.fmt.bits + 7) / 8
/-- SO of R161. -/
def BOperand.so (b : BOperand) : Nat := 8 * ((b.eb + 7) / 8)
/-- SB of R161. -/
def BOperand.sb (b : BOperand) : Nat := if b.fmt.scaled then (b.k + 7) / 8 else 0
/-- MO of R161. -/
def BOperand.mo (b : BOperand) : Nat := 8 * ((b.so + b.sb + 7) / 8)
/-- CB of R161. -/
def BOperand.cb (b : BOperand) : Nat := b.mo + (if b.mb then 8 * ((b.k + 63) / 64) else 0)
/-- m of R161. -/
def BOperand.slabs (b : BOperand) : Nat := (b.cb + 2047) / 2048

/-- Read a B descriptor; none where R164 refuses it. -/
def BOperand.ofWord (d : Nat) (mb : Bool) : Option BOperand :=
  let n := d / 2 ^ 17 % 2 ^ 8
  match MemFmt.ofCode (d % 32) with
  | none => none
  | some f => if d / 2 ^ 25 = 0 && matrixFmt (d % 32) && 1 ≤ n && n ≤ 192 then some ⟨f, d / 32 % 2 ^ 12 + 1, n, mb⟩ else none

/-- Bit k of packed bytes. -/
def bitAt (bs : List (BitVec 8)) (k : Nat) : Bool := (bs.getD (k / 8) 0).toNat / 2 ^ (k % 8) % 2 == 1

/-- Element k of packed bytes of a format (R29). -/
def packedAt (f : MemFmt) (bs : List (BitVec 8)) (k : Nat) : Nat :=
  if f.bits = 4 then (bs.getD (k / 2) 0).toNat / 16 ^ (k % 2) % 16
  else (List.range (f.bits / 8)).foldl (fun a i => a + (bs.getD (k * (f.bits / 8) + i) 0).toNat * 256 ^ i) 0

/-- The values of one column area (R161). -/
def columnVals (b : BOperand) (bs : List (BitVec 8)) : List Num :=
  (List.range b.k).map fun k =>
    let v := b.fmt.decode (packedAt b.fmt bs k)
    if b.fmt.scaled then applyScale v (bs.getD (b.so + k / 8) 0).toNat else v

/-- The mask of one column area; all ones without a bitmap. -/
def columnMask (b : BOperand) (bs : List (BitVec 8)) : List Bool :=
  (List.range b.k).map fun k => !b.mb || bitAt bs (8 * b.mo + k)

end Sys2Proof
end

