-- ==== Sys2Proof/Machine/SMap.lean ====
section
/-! DEFINITION. A sparse map as plain data: pairs of a key and a value, keys strictly rising. -/

namespace Sys2Proof

/-- Pairs of a natural key and a value, keys strictly rising. -/
abbrev SMap (α : Type) := List (Nat × α)

/-- The value at a key. -/
def SMap.get {α : Type} : SMap α → Nat → Option α
  | [], _ => none
  | (a, v) :: m, k => if a = k then some v else SMap.get m k

/-- Set the value at a key. -/
def SMap.set {α : Type} : SMap α → Nat → α → SMap α
  | [], k, v => [(k, v)]
  | (a, w) :: m, k, v =>
    if k < a then (k, v) :: (a, w) :: m
    else if k = a then (k, v) :: m
    else (a, w) :: SMap.set m k v

/-- Remove a key. -/
def SMap.del {α : Type} : SMap α → Nat → SMap α
  | [], _ => []
  | (a, w) :: m, k => if a = k then m else (a, w) :: SMap.del m k

/-- Insert before the first item with a larger key. -/
def insertByKey {α : Type} (key : α → Nat) (x : α) : List α → List α
  | [] => [x]
  | y :: ys => if key x ≤ key y then x :: y :: ys else y :: insertByKey key x ys

/-- Sort by a key; items of one key stay in order. -/
def sortByKey {α : Type} (key : α → Nat) (xs : List α) : List α := xs.foldr (insertByKey key) []

/-- Set or remove. -/
def SMap.put {α : Type} (m : SMap α) (k : Nat) : Option α → SMap α
  | none => m.del k
  | some v => m.set k v

end Sys2Proof
end

