-- ==== Sys2Proof/Machine/State.lean ====
section
/-! DEFINITION. The state of the machine: plain data, holding what the spec gives the part, and the reset state.
INVENTORY.md lists every piece with its rule and its reset value. -/

namespace Sys2Proof.Machine

open Sys2Proof

/-- Why a run of the model stops. Both stand for a machine that does not answer; both are safe. -/
inductive Fault where
  /-- Raised by a physical access outside every window of R343 ("Unbacked"); safe. -/
  | unbackedAddress (pa : Nat)
  /-- Raised by every step after a power loss without a following power-up (R444, R445); safe. -/
  | poweredOff
  deriving DecidableEq, Repr

/-- What the model has no meaning for. -/
inductive Refusal where
  /-- Raised by the dispatch of an instruction not modelled yet; safe. -/
  | notModelled (mnemonic : String)
  deriving DecidableEq, Repr

/-- One action that a step performs: an instruction of a role, or a step of the part or of a party outside it. -/
inductive Turn where
  | role (r : RoleId)
  | event (i : Instr)
  deriving DecidableEq, Repr

/-! ### Roles and groups -/

/-- A loop stack entry (R114). -/
structure LoopEntry where
  start : Word
  stop : Word
  count : SReg
  deriving DecidableEq, Repr

/-- The binding of a port p0 to p3 (R294): a live queue's header address and a direction. -/
inductive PortBinding where
  | unbound
  | bound (va : Nat) (push : Bool)
  deriving DecidableEq, Repr

/-- A queue that a role's next instruction waits for, to push or to pop, and the cycle since when (R306, R307). -/
structure QueueWait where
  queue : QueueName
  push : Bool
  since : Nat
  deriving DecidableEq, Repr

/-- What a role does (R272). -/
inductive RoleStatus where
  | idle | running | arrived
  deriving DecidableEq, Repr

/-- A wait for translation holds: since when, and over which pages of which context; none for every context (R338,
R364, R365). -/
structure Drain where
  since : Nat
  ctx : Option CtxId
  lo : Nat
  hi : Nat
  /-- Commands enqueued before this one are earlier than a PGMIG's copy. -/
  before : Nat
  /-- When it began: a chunk translated afresh since then does not hold up a TLBI, whose leaves have changed before (R338). -/
  tick : Nat
  /-- Of a PGMIG, which changes the leaf only when it moves the page: every hold counts (R338, R365). -/
  moves : Bool
  deriving DecidableEq, Repr

/-- A role context. -/
structure Role where
  status : RoleStatus
  /-- Stalled at a fault (R423). -/
  stalled : Bool
  pc : Word
  /-- The flow ended after the latest retired instruction (R56); pc is the marker. -/
  ended : Bool
  /-- The sixteen words of the line that the role executes (R60, R457); empty before it arrives at one. -/
  line : List Nat
  /-- Flow came by the chain of a common line (R57). -/
  chained : Bool
  regs : Vector Word 64
  /-- Newest entry first (R114). -/
  loops : List LoopEntry
  ports : Vector PortBinding 4
  cause : Word
  faultPc : Word
  faultVa : Word
  appendPc : Word
  nodeId : Word
  /-- The latest fault followed a retired instruction: TRAP, BRK or the end of the chain (R423). -/
  retired : Bool
  /-- The queues that the waiting instruction waits for (R306, R307). -/
  blocked : List QueueWait
  /-- The cycle at which the role arrived, for R307. -/
  restAt : Nat
  /-- The record taken by NQPOP or NQWAIT whose write faulted, and its position + 1 (R304). -/
  heldRec : Option (List Byte × Nat × Bool)
  /-- The phase in which a waiting BSYNC has already arrived (R318). -/
  pendingBar : Option (BitVec 32)
  /-- A TLBI or PGMIG that waits for translation holds (R338). -/
  drainAt : Option Drain
  deriving DecidableEq, Repr

/-- A role context at rest. Registers: log 5. -/
def Role.fresh : Role :=
  { status := .idle, stalled := false, pc := 0, ended := false, line := [], chained := false, regs := Vector.replicate 64 0,
    loops := [], ports := Vector.replicate 4 .unbound, cause := 0, faultPc := 0, faultVa := 0, appendPc := 0,
    nodeId := 0, retired := false, blocked := [], restAt := 0, heldRec := none, pendingBar := none,
    drainAt := none }

/-- A compact predicate (R128). -/
structure Pred where
  count : Nat
  width : PWidth
  deriving DecidableEq, Repr

/-- A continuation record (R263); `flags` is the FLAGS word. -/
structure Record where
  code : Nat
  frame : Nat
  join : Nat
  index : Nat
  launch : Nat
  flags : Nat
  deriving DecidableEq, Repr

/-- A box of a node in the arena (R186, R187): its place in the order of materialization, origin and extents, byte
offset from the arena's lower bound, the handle registers whose latest FORCE pins it, and whether it is held. -/
structure Box where
  seq : Nat
  org : List Nat
  ext : List Nat
  off : Nat
  pins : List HReg
  held : Bool
  deriving DecidableEq, Repr

/-- A source of a node (R178): none, a node of the group, or a copy of a generator register. -/
inductive NodeSrc where
  | none
  | node (n : Nat)
  | gen (g : BitVec 512)
  deriving DecidableEq, Repr

/-- States of a live node (R177). -/
inductive NodeState where
  | pending | partly | full
  deriving DecidableEq, Repr

/-- A deferred node (R178). `maps` are the 64-byte index maps of the sources. -/
structure Node where
  op : Nat
  fn : Nat
  ty : ElemTy
  rm : RM
  state : NodeState
  age : Nat
  apc : Word
  ext : List Nat
  srcs : List NodeSrc
  maps : List (BitVec 512)
  boxes : List Box
  hoff : Nat
  deriving DecidableEq, Repr

/-- The tile state of a group (R174, R175, R189, R204): live nodes by number, handles, the arena of R186, the policy
word and the counters of TSTAT. -/
structure Tile where
  nodes : SMap Node
  handles : Vector (Option Nat) 64
  appends : Nat
  boxSeq : Nat
  policy : Word
  tableForces : BitVec 64
  aliasForces : BitVec 64
  evictions : BitVec 64
  deriving DecidableEq, Repr

/-- The status word and FIRSTID of a channel (R331). -/
structure ChStat where
  fills : BitVec 16
  errs : BitVec 16
  late : BitVec 8
  cause : BitVec 8
  firstId : Nat
  deriving DecidableEq, Repr

/-- What pre-emption has decided for a group that is still in its restore sequence (R283, R288). -/
inductive Mark where
  | none
  | drain
  | checkpoint (since : Nat)
  deriving DecidableEq, Repr

/-- What a group slot does (R288). -/
inductive SlotState where
  /-- Dispatched; the start state is not set yet. -/
  | starting
  | running
  /-- Marked for drain. -/
  | draining
  /-- Marked for checkpoint at this cycle (R283). -/
  | marked (since : Nat)
  /-- In the save sequence; `cont` is the resume PC of the save header, `frame` the frame pointer (R285, R286). -/
  | saving (cont frame : Word)
  /-- In the restore sequence (R287), with what pre-emption has marked the group for meanwhile (R288). -/
  | restoring (cont : Word) (mark : Mark)
  /-- A record with CKPT whose squashed commands run again before its restore sequence, `next` the first of them that is not
  entered yet (R287). -/
  | replaying (next : Nat) (restore cont : Word)
  /-- To be killed: its record goes back to the head of its queue (R283); the launch counts it as ended (R430); its copies
  retire first (R257). -/
  | dying (requeue ended retire : Bool)
  deriving DecidableEq, Repr

/-- A follow-on subcommand (R334): its format X instruction, B descriptor, and generator copies. -/
structure Follow where
  sub : Nat
  op : XOp
  desc : Nat
  ga : BitVec 512
  gb : BitVec 512
  deriving DecidableEq, Repr

/-- One side of a copy (R155, R335): a walk as the command keeps it. -/
structure Walk4 where
  base : Nat
  sizes : List Nat
  strides : List Int
  soff : Int
  sstride : Int
  code : Nat
  baxis : Nat
  zeroOk : Bool
  deriving DecidableEq, Repr

/-- A translation that a chunk holds (R338): on which side, of which 64 KiB page, the page's physical address and leaf, and
when it was made. -/
structure Hold where
  dst : Bool
  page : Nat
  pa : Nat
  leaf : Nat
  tick : Nat
  deriving DecidableEq, Repr

/-- How far a command has come (R328, R329, R337): not started; moving a chunk, with the atoms whose reads have not
landed, the writes not acknowledged, and the translations that the chunk holds (R338); all chunks retired and waiting
for the follow-on; held as faulted at a chunk; waiting for the other ranks, before or after its own data went out (R417,
R418); complete. -/
inductive CmdState where
  | queued
  | reading (chunk left : Nat) (held : List Hold)
  | writing (chunk left : Nat) (held : List Hold)
  | following
  | faulted (chunk : Nat) (code : Nat) (va : Nat)
  | exchanging (sent : Bool) (held : List Hold)
  | done
  deriving DecidableEq, Repr

/-- A peer set as a command keeps it (R415): identifier, processors and contexts by rank, and the issuing rank. -/
structure PeerSet where
  id : BitVec 16
  procs : List Nat
  ctxs : List Nat
  mine : Nat
  deriving DecidableEq, Repr

/-- What a command does: a copy, a collective, a send, a receive, or a multicast (R326, R416). `num` is its place
among the commands that it matches with (R417, R418), `group` the group index of a collective; a multicast names the
declarations that its destination lies in (R402). -/
inductive CmdKind where
  | copy
  | cred (op : Fin 3) (set : PeerSet) (tag : BitVec 32) (num group : Nat)
  | send (set : PeerSet) (peer : Nat) (tag : BitVec 32) (num : Nat)
  | recv (set : PeerSet) (peer : Nat) (tag : BitVec 32) (num : Nat)
  | mcst (regions : List Nat)
  deriving DecidableEq, Repr

/-- A command of a copy engine, from acceptance to retirement (R326 to R337). `seq` is its place in the core's order of
enqueue, `order` the group that enqueued it. -/
structure Cmd where
  kind : CmdKind
  seq : Nat
  ch : ChId
  id : BitVec 48
  slot : SlotId
  order : Nat
  ctx : CtxId
  pc : Word
  timed : Bool
  time : Nat
  /-- The issue time has come; it did not start at it (R333). -/
  due : Bool
  late : Bool
  src : Walk4
  dst : Walk4
  ef : Bool
  cmp : Bool
  ls : Bool
  lat : Nat
  islot : Nat
  follow : Option Follow
  first : Nat
  flags : Flags
  nan : Option Word
  /-- The buffers whose B backing was visible when it started, by VBASE: it reads one backing throughout (R228). -/
  view : Option (List Nat)
  /-- Ports whose head was marked down while its chunk was under way (R408). -/
  down : List Nat
  st : CmdState
  deriving DecidableEq, Repr

/-- A staged or running binding of a Lattice port (R391): its walk, and the leaf of its 2 MiB block; of an LS copy, also which
backing of a shadowed range it reads throughout, B or A (R228). -/
structure Binding where
  gen : BitVec 512
  block : Nat
  side : Option Bool
  deriving DecidableEq, Repr

/-- A group in its slot: identity and record as popped (R263), resources (R268), and group state. -/
structure Group where
  ctx : CtxId
  record : Record
  /-- Placed by cluster-shaped dispatch (R270). -/
  clustered : Bool
  /-- Order of dispatch, one number for each group. -/
  order : Nat
  /-- The dispatch that placed it: one for the four groups of a cluster (R281). -/
  batch : Nat
  rowBase : Nat
  rows : Nat
  unitBase : Nat
  units : Nat
  bars : List Nat
  nodeBlocks : List Nat
  state : SlotState
  estimate : Nat
  estimateSet : Nat
  flags : Flags
  tfctl : Flags
  nanrec : Word
  nanrecPc : Word
  preds : Vector Pred 8
  gens : Vector (BitVec 512) 32
  /-- Oldest entry first (R290). -/
  roleq : Vector (List Word) 4
  /-- The cycle of the latest push or pop of each role queue (R307). -/
  roleqMoved : Vector Nat 4
  /-- fetch, compute, drain. -/
  roles : Vector Role 3
  /-- MMAC instructions issued since the start (R167). -/
  mmacs : Nat
  /-- A partner of its cluster has ended or been killed (R167). -/
  mateGone : Bool
  tile : Tile
  chans : Vector ChStat 4
  /-- Staged bindings (R391): key ((Lattice * 4 + slot) * 8 + port), output ports from 4. -/
  binds : SMap Binding
  /-- Commands of the group that a YIELD has squashed and keeps for replay, by `seq` (R284). -/
  squashed : List Nat
  /-- Cycle at which a YIELD began to wait for copies (R284). -/
  drainAt : Option Nat
  deriving DecidableEq, Repr

/-! ### Cores -/

/-- A TLB entry (R353): context, first 64 KiB page, one page or a block of 32, and the leaf. -/
structure TlbEntry where
  ctx : CtxId
  page : Nat
  block : Bool
  leaf : Nat
  deriving DecidableEq, Repr

/-- An entry of the code line buffer (R457). -/
structure LineEntry where
  ctx : CtxId
  va : Nat
  words : List Nat
  deriving DecidableEq, Repr

/-- A barrier slot (R310). -/
structure Barrier where
  gen : BitVec 16
  count : Nat
  scope : Nat
  arrived : Nat
  phase : BitVec 32
  deriving DecidableEq, Repr

/-- An entry of the range scoreboard (R214): the slot, the lowest and highest byte as tagged pointers, and the
number of the command that holds it. -/
structure BoardEntry where
  slot : SlotId
  lo : Nat
  hi : Nat
  cmd : Nat
  deriving DecidableEq, Repr

/-- A matrix instruction between issue and result (R166): whose, the registers it updates, how, and what each output
position adds, row by row. `row0` and `col0` place a cooperative tile (R167); `copy` is the channel and transfer whose
follow-on it is (R334). -/
structure ArrEntry where
  slot : SlotId
  order : Nat
  role : RoleKind
  pc : Word
  d : Nat
  m : Nat
  n : Nat
  i32 : Bool
  fresh : Bool
  rm : RM
  fmtA : Nat
  fmtB : Nat
  outs : List OutVal
  nx : Bool
  row0 : Nat
  col0 : Nat
  copy : Option (ChId × Nat)
  deriving DecidableEq, Repr

/-- A core. Lists that an unit replaces by age hold the most recent entry first. -/
structure Core where
  slots : Vector (Option Group) 4
  tlb : List TlbEntry
  lines : List LineEntry
  bars : Vector Barrier 16
  board : List BoardEntry
  /-- Matrix instructions between issue and result, oldest first. -/
  array : List ArrEntry
  /-- Commands that have not retired, in the order of enqueue. -/
  cmds : List Cmd
  cmdSeq : Nat
  nextId : Vector (BitVec 48) 4
  deriving DecidableEq, Repr

/-- A page walk in flight for a code line that NEXT names (R354, R457): whose, the line, the level read next (1 to
3) and the table it is read from. -/
structure Walk where
  ctx : CtxId
  core : CoreId
  va : Nat
  level : Nat
  table : Nat
  deriving DecidableEq, Repr

/-! ### Contexts -/

/-- The states of a context (R235). -/
inductive CtxState where
  | free | created | loaded | running | suspended | draining | scrubbing
  deriving DecidableEq, Repr

/-- The context descriptor as the part keeps it (R238). -/
structure Desc where
  ptroot : Nat
  levelt : Nat
  faultq : Word
  logbase : Nat
  logsize : Nat
  tokens : Nat
  thresh : Nat
  cores : BitVec 128
  units : BitVec 48
  sys : Bool
  lend : Bool
  replay : Bool
  key : Fin 16
  keys : BitVec 16
  bufmapn : Nat
  bufmap : Nat
  deriving DecidableEq, Repr

/-- A buffer map entry (R245). -/
structure Buf where
  vbase : Nat
  pages : Nat
  visB : Bool
  backA : Nat
  backB : Nat
  deriving DecidableEq, Repr

/-- A live bindable queue (R292, R293), with the cycles of its latest push or pop and of the latest end of a binding to it
(R307). -/
structure BindQ where
  va : Nat
  home : CoreId
  base : Nat
  cap : Nat
  scope : Nat
  head : Nat
  tail : Nat
  moved : Nat
  left : Nat
  deriving DecidableEq, Repr

/-- A free-page queue (R356). -/
structure Fpq where
  base : Nat
  cap : Nat
  kind : Nat
  valid : Bool
  key : Fin 16
  head : Nat
  tail : Nat
  deriving DecidableEq, Repr

/-- A kernel header as the part keeps it for an active launch (R249, R263). -/
structure Header where
  restartable : Bool
  cluster : Bool
  yields : Bool
  entry : Int
  accu : Nat
  spu : Nat
  bars : Nat
  dttu : Nat
  estimate : Nat
  yieldmax : Nat
  deriving DecidableEq, Repr

/-- A launch descriptor (R253). -/
structure LaunchDesc where
  kind : Nat
  prio : Nat
  last : Bool
  parent : Nat
  target : Nat
  args : Nat
  frames : Nat
  fstride : Nat
  count : Nat
  deriving DecidableEq, Repr

/-- The states of a level (R250). -/
inductive LevelState where
  | free | active | done | cancelled
  deriving DecidableEq, Repr

/-- A level-table entry with what the part keeps beside it (R250, R263). -/
structure Level where
  kind : Nat
  state : LevelState
  isOpen : Bool
  gen : BitVec 20
  parent : Nat
  count : Nat
  done : Nat
  out : Nat
  desc : Option LaunchDesc
  header : Option Header
  /-- A graph's next node, while its evaluation runs (R260). -/
  node : Option Word
  deriving DecidableEq, Repr

/-- An item of a ready queue (R266): a launch cursor with its next group index, or a record. -/
inductive ReadyItem where
  | cursor (launch : Nat) (next : Nat)
  | record (r : Record)
  deriving DecidableEq, Repr

/-- A ready queue, head first, with the ring's head and tail indices (R265). -/
structure ReadyQueue where
  items : List ReadyItem
  head : Nat
  tail : Nat
  deriving DecidableEq, Repr

/-- A pre-emption for a queue head in progress (R281): the newcomer that the slot is reserved for, and the victim. -/
structure Reservation where
  item : ReadyItem
  core : CoreId
  slot : SlotId
  order : Nat
  deriving DecidableEq, Repr

/-- A context. -/
structure Context where
  state : CtxState
  busy : Bool
  rej : Bool
  diverge : Bool
  err : BitVec 8
  drainMark : Bool
  desc : Desc
  logHead : BitVec 32
  logTail : BitVec 32
  /-- Next record of the log read in replay, per kind (R248). -/
  replayAt : Vector Nat 5
  counters : Vector (BitVec 64) 5
  bufs : List Buf
  bindqs : List BindQ
  ready : Vector ReadyQueue 4
  levels : SMap Level
  deficit : Nat
  visits : Nat
  faultHeld : List (List Byte)
  /-- Records that wait for room among the 64 held ones, oldest first (R428). -/
  faultUnheld : List (List Byte)
  faultSeq : Nat
  fpqt : Word
  /-- The table that LOAD read (R356). -/
  fpqBase : Nat
  fpqs : List Fpq
  /-- A page being zeroed for a free-page queue: queue index and page (R357). -/
  zeroing : Option (Nat × Nat)
  /-- COUNT's queue, REJ and ERR of FPQSTAT (R357). -/
  fpqLast : Nat
  fpqRej : Bool
  fpqErr : BitVec 8
  hostResult : Word
  /-- Host launches in progress: the first is being made, the others wait (R255). -/
  hostPending : List Word
  apBase : Word
  reserved : List Reservation
  deriving DecidableEq, Repr

/-! ### Pool and ports -/

/-- A line of a port cache (R398): line number, 64 bytes, Dirty, poisoned, and the size code of its block, which goes with
the block's first line (R360; log 79). -/
structure CacheLine where
  line : Nat
  data : List Byte
  dirty : Bool
  poisoned : Bool
  code : BitVec 2
  deriving DecidableEq, Repr

/-- A pool region declaration (R400) with its state (R402). -/
structure Region where
  pbase : Nat
  size : Nat
  kind : Nat
  ownProc : Nat
  ownCtx : Nat
  rmask : Nat
  metaBase : Nat
  tree : Nat
  update : Bool
  deriving DecidableEq, Repr

/-- The states of a dynamic capacity extent (R407). -/
inductive ExtState where
  | zeroing | offered | granted | revoking
  deriving DecidableEq, Repr

/-- A dynamic capacity extent. -/
structure Extent where
  id : Nat
  base : Nat
  size : Nat
  state : ExtState
  deriving DecidableEq, Repr

/-- A port (R403, R408 to R410). -/
structure Head where
  up : Bool
  /-- The proxy that PROXY has designated; none for the default (R403). -/
  proxy : Option Nat
  cache : List CacheLine
  deriving DecidableEq, Repr

/-! ### Calendars -/

/-- An atom of a copy command that waits for a slot, or is under way (R321, R322). -/
structure AtomReq where
  core : CoreId
  cmd : Nat
  pc : Nat
  write : Bool
  deriving DecidableEq, Repr

/-- A pseudo-channel's width state (R324, R325), its latest slot, the cycles it is late (R379), and the burst in
progress: Lattice, image slot, port, row, number in the row. -/
structure PcStat where
  w16 : Bool
  pend : Bool
  pendw : Bool
  degr : Bool
  epoch : BitVec 32
  /-- The slot that starts next, 129 at the end of a rotation. -/
  slot : Nat
  late : Nat
  burst : Option (Nat × Nat × Nat × Nat × Nat)
  /-- The slot at which the burst ends, and the cores whose slots have fallen inside it (R380). -/
  burstTo : Nat
  waiters : List CoreId
  deriving DecidableEq, Repr

/-- A pseudo-channel at reset. -/
def PcStat.fresh : PcStat := ⟨false, false, false, false, 0, 0, 0, none, 0, []⟩

/-- A stream window (R378). -/
structure Lwin where
  start : Nat
  len : Nat
  hard : Bool
  off : Bool
  deriving DecidableEq, Repr

/-! ### Lattices -/

/-- States of a stream (R377). -/
inductive StreamState where
  | running | done | held | stopped | parked
  deriving DecidableEq, Repr

/-- What the grid has made of a row: the bytes of each output port with their addresses, the accumulators after the row,
flags, the first NaN write, whether an input was poisoned, and the output ports whose burst of the row is acknowledged
(R377, R382, R383). -/
structure RowOut where
  outs : List (Nat × List (Nat × List Byte))
  acc : SMap (Nat × Bool)
  /-- The lanes that O0 of an LS copy delivers (R387). -/
  lanes : List (Nat × Bool)
  flags : Flags
  nan : Option Word
  err : Nat
  acked : List Nat
  deriving DecidableEq, Repr

/-- A row that an LS copy's stream has delivered (R387): its number, the lanes of O0 with their marks (R384), the error code
of its inputs, and the grid's flags. -/
structure KeptRow where
  row : Nat
  lanes : List (Nat × Bool)
  err : Nat
  flags : Flags
  deriving DecidableEq, Repr

/-- A stream (R377, R389, R393). `core`, `gslot`, `order` name the group that holds it; `copy` is the LS copy that owns it
instead (R387), and `kept` the rows that its chunk has not taken yet. -/
structure Stream where
  copy : Option Nat
  kept : List KeptRow
  core : CoreId
  gslot : SlotId
  order : Nat
  ctx : CtxId
  state : StreamState
  phase : Nat
  row : Nat
  rows : Nat
  beats : Nat
  err : Nat
  total : Nat
  reads : Nat
  writes : Nat
  holds : Nat
  poisoned : Nat
  flags : Flags
  nan : Option Word
  pc : Word
  /-- Port (outputs from 4) and binding of the phase. -/
  binds : SMap Binding
  /-- Non-zero half-words, values or elements that a compressed output has written so far, by port (R375, R376). -/
  outCount : SMap Nat
  /-- Port, row and number of the bursts under way, one for each 1 KiB unit of a row, and of those that are done in rows which are
not (R378, R450). A compressed output's header is the row behind the last one. -/
  issued : List (Nat × Nat × Nat)
  parts : List (Nat × Nat × Nat)
  /-- Port and row: input rows that have landed and are not yet in the grid, and headers that are written. -/
  landed : List (Nat × Nat)
  /-- The rows that have entered the grid and are not complete, oldest first (R377). -/
  made : List RowOut
  /-- A row boundary has been met with a request standing: no later row is read or enters the grid (R377, R450). -/
  closing : Bool
  stopReq : Bool
  parkReq : Bool
  relReq : Bool
  holdReq : Bool
  /-- A TLBI covers a bound block: the bindings are to be translated afresh (R385). -/
  rebindReq : Bool
  /-- The launch and group index whose checkpoint has taken the stream (R285); it was stopped before it was parked. -/
  taken : Option (Nat × Nat)
  wasStopped : Bool
  /-- A nominal rotation boundary has passed since no request waits: a held stream may run (R377). -/
  boundary : Bool
  deriving DecidableEq, Repr

/-- An image slot (R368, R369): owner, V, a pending change, the image, and the accumulators of the PEs (key
(PE * 16 + index) * 16 + lane), each with the mark of R384. Local memory is that of the image, which nothing writes. -/
structure LatSlot where
  owner : CtxId
  valid : Bool
  pend : Option (CtxId × Bool)
  image : Option (List Byte)
  acc : SMap (Nat × Bool)
  stream : Option Stream
  deriving DecidableEq, Repr

/-- An image slot at reset. -/
def LatSlot.fresh : LatSlot := ⟨0, false, none, none, [], none⟩

/-! ### Links -/

/-- A Ralkor link (R411, R413): trained, in training, sequence numbers, credits by virtual channel, flits replayed in the
current millisecond and when it began. -/
structure Link where
  trained : Bool
  /-- Being retrained: its traffic goes over the other link of its pair (R411). -/
  training : Bool
  seqIn : BitVec 32
  seqOut : BitVec 32
  credits : Vector Nat 4
  replays : Nat
  since : Nat
  deriving DecidableEq, Repr

/-- A link at reset. -/
def Link.fresh : Link := ⟨false, false, 0, 0, Vector.replicate 4 0, 0, 0⟩

/-- What goes out over a link (R411): a message, a request for a line to the proxy, with the content of a write-back, the answer to
a proxied request or to a forwarded snoop, a snoop for a line that a neighbour holds (R409), the enclosure time (R413). -/
inductive Outgoing where
  | message (m : Message)
  | request (line : Nat) (store : Option LineData)
  | answer (line : Nat) (data : Option LineData)
  | snoop (line : Nat) (forWrite : Bool)
  | time (v : Word)
  deriving DecidableEq, Repr

/-- What waits at a link for credits (R411): link, virtual channel, flits that have not gone out. -/
structure TxWait where
  link : Fin 8
  vc : Fin 4
  left : Nat
  out : Outgoing
  deriving DecidableEq, Repr

/-- A proxied request that waits for the answers of other holders of its line (R409): the link it came by, whose, the line, the
content of a store. One of this processor's own number is an own read that waits so. -/
structure ProxyWait where
  link : Fin 8
  proc : Nat
  line : Nat
  store : Option LineData
  deriving DecidableEq, Repr

/-- A BAR2 access of the host (R421): context, offset, length, the bytes of a store. -/
structure HostAccess where
  ctx : CtxId
  off : Fin (2 ^ 30)
  len : Nat
  store : Option (List Byte)
  deriving DecidableEq, Repr

/-- How the latest BAR2 access completed (R421): with a completer abort, or not; the bytes of a read. -/
structure Completion where
  aborted : Bool
  data : List Byte
  deriving DecidableEq, Repr

/-- What the match counts of R417 and R418 are kept for. `peer` and `dir` are 0 for a collective. -/
structure CollKey where
  ctx : CtxId
  launch : Nat
  index : Nat
  set : BitVec 16
  tag : BitVec 32
  peer : Nat
  dir : Nat
  deriving DecidableEq, Repr

/-- A contribution that is still to come to a collective that has ended with a mismatch (R417): context, set, tag, number and group
index of the collective, processor and context of the rank. -/
structure Owed where
  ctx : CtxId
  set : BitVec 16
  tag : BitVec 32
  num : Nat
  group : Nat
  proc : Nat
  peerCtx : Nat
  deriving DecidableEq, Repr

/-! ### Privileged agents -/

/-- The selector registers that each privileged agent has for itself (R235, R429, R357). -/
structure PrivRegs where
  ctxsel : CtxId
  ctxdesc : Nat
  roleCore : CoreId
  roleSlot : SlotId
  roleNum : Nat
  rolePc : Word
  roleRej : Bool
  roleErr : BitVec 8
  roleReg : SReg
  deriving DecidableEq, Repr

/-- Selectors at reset: all fields 0. -/
def PrivRegs.fresh : PrivRegs := ⟨0, 0, 0, 0, 0, 0, false, 0, 0⟩

/-! ### The security controller -/

/-- The management mailbox (R440): the command in progress, how far it has come (0 not begun, 1 waiting), its result once
its work is done, and the registers. -/
structure Mailbox where
  op : BitVec 16
  tag : BitVec 16
  busy : Bool
  done : Bool
  result : BitVec 8
  begun : Bool
  finished : Option (BitVec 8)
  ops : Vector Word 8
  data : List Byte
  deriving DecidableEq, Repr

/-- The mailbox at reset. -/
def Mailbox.fresh : Mailbox := ⟨0, 0, false, false, 0, false, none, Vector.replicate 8 0, List.replicate 4096 0⟩

/-- What the Phidezin controller holds besides keys (R438 to R447): bring-up state and its history, fuses, firmware, debug port,
audit records, throttle level and since when power has been over its limit at full throttle. -/
structure Control where
  stage : BitVec 4
  code : BitVec 8
  /-- The stages and codes that BRSTAT has shown since power-up, oldest first (R441). -/
  history : List (Nat × Nat)
  /-- CYCLE counts: the calendar load of step 4 has been made (R438). -/
  counting : Bool
  debugLock : Bool
  auditCount : Nat
  minVersion : BitVec 32
  version : BitVec 32
  staged : List Byte
  stagedOk : Bool
  applying : Bool
  /-- Power failed while FWAPPLY replaced the image (R443). -/
  torn : Bool
  debugOpen : Bool
  audits : List (List Byte)
  throttle : Fin 4
  fullSince : Option Nat
  deriving DecidableEq, Repr

/-- The controller after bring-up (R438). Fuses: log 5. -/
def Control.fresh : Control :=
  { stage := 7, code := 0, history := (List.range 7).map fun i => (i + 1, 0), counting := true, debugLock := true, auditCount := 0,
    minVersion := 0, version := 0, staged := [], stagedOk := false, applying := false, torn := false, debugOpen := false,
    audits := [], throttle := 0, fullSince := none }

/-- A range of byte keys whose contents an event has changed as a whole: left open under a tag, or zeroed (log 13). -/
structure Opened where
  lo : Nat
  len : Nat
  tag : Option Nat
  deriving DecidableEq, Repr

/-- The whole machine. -/
structure State where
  power : Bool
  cycle : BitVec 64
  tick : Nat
  agenda : List Turn
  cur : RoleId
  engineTurn : Bool
  mem : List Host.Cell
  /-- What unlisted bytes read as where it is not 0, newest first. -/
  opened : List Opened
  poison : List Nat
  sizeCode : SMap (BitVec 2)
  keyTag : SMap (Option (BitVec 1024))
  badMac : List Nat
  keySlots : Vector (BitVec 1024) 16
  retiredRows : List Nat
  /-- Atoms of local HBM that have an error which ECC cannot correct, and which no read and no scrub has met (R361, R362). -/
  decayed : List Nat
  /-- Stacks lost to a device-level fault (R434). -/
  lostStacks : BitVec 8
  srows : Nat
  cores : Vector Core 128
  ctxs : Vector Context 16
  dieTlb : Vector (List TlbEntry) 4
  walks : List Walk
  regions : Vector (Option Region) 64
  /-- Root versions of the regions' counter trees, by index (R242); none where no tree has been read yet. -/
  roots : SMap Nat
  extents : List Extent
  heads : Vector Head 8
  encProc : BitVec 4
  encSize : BitVec 5
  devDf : Bool
  devClass : BitVec 4
  devUnit : BitVec 8
  devCount : BitVec 32
  msi : List Nat
  hostPriv : PrivRegs
  rolePriv : SMap PrivRegs
  rrPtr : CoreId
  lastCtx : CtxId
  dispatchSeq : Nat
  serviced : BitVec 128
  macEvents : Nat
  lostLines : Nat
  calPc : PcId
  calSlot : Fin 128
  /-- Ownership that differs from the default: key pseudo-channel * 128 + slot, value CORE + 128 * V. -/
  calStaged : SMap Nat
  calForce : SMap Nat
  calApply : BitVec 512
  pcs : SMap PcStat
  reqs : List AtomReq
  inflight : List AtomReq
  latSel : BitVec 8
  /-- Key Lattice * 4 + slot. -/
  lats : SMap LatSlot
  latLast : Vector (Fin 4) 40
  /-- Key context * 32 + Lattice; in force by pseudo-channel: (context * 32 + Lattice) * 16 + pseudo-channel mod 16. -/
  lwin : SMap Lwin
  lwinForce : SMap Lwin
  links : Vector Link 8
  /-- ETOFF of the part (R413), and the time exchanges that have been made. -/
  etoff : Word
  exchanges : Nat
  /-- What has gone out, with its link, oldest first; and what waits for credits (R411, R412). -/
  tx : List (Nat × Outgoing)
  txWait : List TxWait
  rx : List Message
  coll : List (CollKey × Nat)
  collOwed : List Owed
  /-- Lines that a neighbour holds through this processor's heads (R409). -/
  proxied : List (Nat × Nat)
  /-- Snoops that have been sent on to a holder and not answered: processor, line, for writing (R409). -/
  snoopWait : List (Nat × Nat × Bool)
  /-- Proxied requests that wait for such answers, oldest first. -/
  proxyWait : List ProxyWait
  /-- Lines whose request the proxy has refused: the access that asked for it ends with 0x13 (R409). -/
  refusedLines : List Nat
  dropped : Nat
  bar2 : Option Completion
  /-- BAR2 accesses that wait. -/
  bar2Wait : List HostAccess
  mb : Mailbox
  ctl : Control
  deriving DecidableEq, Repr

/-! ### Reset -/

/-- A barrier slot at reset (R310). -/
def Barrier.fresh : Barrier := ⟨0, 0, 0, 0, 0⟩

/-- A core at reset: nothing resident, transfer IDs starting at 1 (R330). -/
def Core.fresh : Core :=
  { slots := Vector.replicate 4 none, tlb := [], lines := [], bars := Vector.replicate 16 Barrier.fresh, board := [], array := [],
    cmds := [], cmdSeq := 0, nextId := Vector.replicate 4 1 }

/-- A descriptor that assigns nothing. -/
def Desc.fresh : Desc := ⟨0, 0, 0, 0, 0, 0, 0, 0, 0, false, false, false, 0, 0, 0, 0⟩

/-- A context that is free. -/
def Context.fresh : Context :=
  { state := .free, busy := false, rej := false, diverge := false, err := 0, drainMark := false,
    desc := Desc.fresh, logHead := 0, logTail := 0, replayAt := Vector.replicate 5 0,
    counters := Vector.replicate 5 0, bufs := [], bindqs := [], ready := Vector.replicate 4 ⟨[], 0, 0⟩, levels := [],
    deficit := 0, visits := 0, faultHeld := [], faultUnheld := [], faultSeq := 0, fpqt := 0, fpqBase := 0, fpqs := [], zeroing := none, fpqLast := 0,
    fpqRej := false, fpqErr := 0, hostResult := 0, hostPending := [], apBase := 0, reserved := [] }

/-- The machine after reset (INVENTORY.md, State). -/
def State.reset : State :=
  { power := true, cycle := 0, tick := 0, agenda := [], cur := ⟨0, 0, .compute⟩, engineTurn := false, mem := [], opened := [],
    poison := [], sizeCode := [], keyTag := [], badMac := [], keySlots := Vector.replicate 16 0, retiredRows := [], decayed := [], lostStacks := 0,
    srows := 0, cores := Vector.replicate 128 Core.fresh, ctxs := Vector.replicate 16 Context.fresh,
    dieTlb := Vector.replicate 4 [], walks := [],
    regions := Vector.replicate 64 none, roots := [], extents := [],
    heads := Vector.replicate 8 ⟨true, none, []⟩, encProc := 0, encSize := 0, devDf := false, devClass := 0,
    devUnit := 0, devCount := 0, msi := [], hostPriv := PrivRegs.fresh, rolePriv := [], rrPtr := 0, lastCtx := 15,
    dispatchSeq := 0, serviced := 0, macEvents := 0, lostLines := 0, calPc := 0, calSlot := 0, calStaged := [], calForce := [], calApply := 0, pcs := [],
    reqs := [], inflight := [], latSel := 0, lats := [], latLast := Vector.replicate 40 3, lwin := [], lwinForce := [],
    links := Vector.replicate 8 Link.fresh, etoff := 0, exchanges := 0, tx := [], txWait := [], rx := [], coll := [], collOwed := [], proxied := [],
    snoopWait := [], proxyWait := [], refusedLines := [], dropped := 0, bar2 := none, bar2Wait := [], mb := Mailbox.fresh,
    ctl := Control.fresh }

end Sys2Proof.Machine
end

