-- ==== Sys2Proof/Machine/Lens.lean ====
section
/-! DEFINITION. Reading and updating the parts of the state, and the monad of a step's body. Every register and
every unit has one home; these are its accessors. -/

namespace Sys2Proof.Machine

open Sys2Proof

/-- The element at an index. -/
def vget {α : Type} {n : Nat} (v : Vector α n) (i : Fin n) : α := v.get i

/-- Replace the element at an index. -/
def vset {α : Type} {n : Nat} (v : Vector α n) (i : Fin n) (x : α) : Vector α n := v.set i.val x i.isLt

/-- Number of a role in a group: 0 fetch, 1 compute, 2 drain (R124). -/
def roleIx : RoleKind → Fin 3
  | .fetch => 0 | .compute => 1 | .drain => 2

/-- The role of a number. -/
def roleOfIx : Fin 3 → RoleKind
  | 0 => .fetch | 1 => .compute | 2 => .drain

/-- A core. -/
def State.core (s : State) (c : CoreId) : Core := vget s.cores c

/-- Update a core. -/
def State.onCore (s : State) (c : CoreId) (f : Core → Core) : State :=
  { s with cores := vset s.cores c (f (s.core c)) }

/-- The group in a slot. -/
def State.group (s : State) (c : CoreId) (g : SlotId) : Option Group := vget (s.core c).slots g

/-- Put a group into a slot, or free it. -/
def State.setGroup (s : State) (c : CoreId) (g : SlotId) (x : Option Group) : State :=
  s.onCore c fun k => { k with slots := vset k.slots g x }

/-- Update the group in a slot, if there is one. -/
def State.onGroup (s : State) (c : CoreId) (g : SlotId) (f : Group → Group) : State :=
  match s.group c g with
  | none => s
  | some x => s.setGroup c g (some (f x))

/-- A role of a group. -/
def Group.role (g : Group) (k : RoleKind) : Role := vget g.roles (roleIx k)

/-- Update a role of a group. -/
def Group.onRole (g : Group) (k : RoleKind) (f : Role → Role) : Group :=
  { g with roles := vset g.roles (roleIx k) (f (g.role k)) }

/-- A role of the device; a slot without a group has none. -/
def State.role (s : State) (r : RoleId) : Option Role := (s.group r.core r.slot).map fun g => g.role r.role

/-- Update a role. -/
def State.onRole (s : State) (r : RoleId) (f : Role → Role) : State :=
  s.onGroup r.core r.slot fun g => g.onRole r.role f

/-- A context. -/
def State.ctx (s : State) (c : CtxId) : Context := vget s.ctxs c

/-- Update a context. -/
def State.onCtx (s : State) (c : CtxId) (f : Context → Context) : State :=
  { s with ctxs := vset s.ctxs c (f (s.ctx c)) }

/-- The die that holds a core (R12). -/
def dieOf (c : CoreId) : Fin 4 := Fin.ofNat 4 (c.val / 32)

/-- Is a context one that holds assigned units: loaded, running, suspended, draining or scrubbing (R236)? -/
def Context.assigned (x : Context) : Bool :=
  match x.state with
  | .loaded | .running | .suspended | .draining | .scrubbing => true
  | .free | .created => false

/-- The context owns a core (R238). -/
def State.owns (s : State) (x : CtxId) (c : CoreId) : Bool :=
  (s.ctx x).assigned && (s.ctx x).desc.cores.getLsbD c.val

/-- Is the part not ready: in the safe state (R439), or in bring-up, which the model gives the same rules (DESIGN CHOICE,
log 71)? -/
def State.safe (s : State) : Bool := s.ctl.stage != 7

/-! ### The body of a step -/

/-- A fault to be raised (R9, R423 to R427). -/
structure Trap where
  code : Nat
  va : Word
  info : BitVec 20 := 0
  appendPc : Word := 0
  nodeId : Word := 0
  deriving DecidableEq, Repr

/-- How the body of a step ends without its result. -/
inductive Stop where
  /-- A fault of the role or command; `keep` is the state with the effects that the instruction's rule names as
  kept. -/
  | trap (t : Trap) (keep : Option State)
  /-- The instruction has not issued, and has no effect (R62). -/
  | wait
  /-- The instruction has not issued; the part has done what it waits for the answer to (R409). -/
  | ask (f : State → State)
  /-- The machine stops. -/
  | halt (f : Fault)

/-- The body of a step. -/
abbrev X (α : Type) := StateT State (Except Stop) α

/-- Fault(code) with FAULTVA (R9). -/
def fault {α : Type} (code : Nat) (va : Nat) : X α :=
  throw (.trap { code := code, va := BitVec.ofNat 64 va } none)

/-- A part of a body whose faults name a given address (R147, R349). -/
def faultsAt {α : Type} (va : Nat) (x : X α) : X α := fun s =>
  match x s with
  | .error (.trap t keep) => .error (.trap { t with va := BitVec.ofNat 64 va } keep)
  | r => r

/-- Fault(code) when a condition holds. -/
def faultIf (c : Bool) (code : Nat) (va : Nat) : X Unit := if c then fault code va else pure ()

/-- Wait while a condition holds. -/
def waitIf (c : Bool) : X Unit := if c then throw .wait else pure ()

/-- Run a body and tell a fault apart from the result, keeping the state of before on a fault. -/
def attempt {α : Type} (x : X α) : X (Except Trap α) := fun s =>
  match x s with
  | .ok (a, t) => .ok (.ok a, t)
  | .error (.trap t keep) => .ok (.error t, keep.getD s)
  | .error .wait => .error .wait
  | .error (.ask f) => .error (.ask f)
  | .error (.halt f) => .error (.halt f)

/-- Who makes an access: the context whose tables translate it, the core it runs on, the slot of its group. -/
structure Who where
  ctx : CtxId
  core : Option CoreId
  slot : Option SlotId
  deriving DecidableEq, Repr

end Sys2Proof.Machine
end

