-- ==== Sys2Proof/Machine/Way.lean ====
section
/-! DEFINITION. The way out of a processor (R411, R412): routes, virtual channels and credits, and the acceptance of a
message. -/

namespace Sys2Proof.Machine

open Sys2Proof

/-! ### The way of a message (R412) -/

/-- Ring distance. -/
def ringDist (p d : Nat) : Nat := min d (p - d)

/-- The lower link of the pair that a message takes first, at processor e of an enclosure of size p. -/
def hopPair (p e d : Nat) : Nat :=
  if p = 2 then 0
  else if p = 4 ∨ p = 8 ∨ p = 12 ∨ p = 16 then
    let dx := (d % 4 + 4 - e % 4) % 4
    let n := p / 4
    let dy := (d / 4 + n - e / 4) % n
    if dx = 1 then 0
    else if dx = 3 then 2
    else if dx = 2 then (if p = 4 then 4 else 0)
    else if p = 8 then 4
    else if 2 * dy ≤ n then 4 else 6
  else
    let delta := (d + p - e) % p
    let h := p / 2
    if p / 4 < ringDist p delta then
      if ringDist p ((d + p + p - e - h) % p) ≤ ringDist p ((d + p + h - e) % p) then 4 else 6
    else if delta ≤ p - delta then 0 else 2

/-- Is a message for a rank of this processor, in the context that the rank names (R415)? -/
def State.accepts (s : State) (m : Message) : Bool :=
  m.dstProc.val == s.encProc.toNat
    && (List.range m.ranks).any fun r => m.procs.getD r 16 == m.dstProc.val && m.ctxs.getD r 16 == m.dstCtx.val

/-- Flits of a message. -/
def flitsOf (m : Message) : Nat := m.data.length * 4 / 240 + 1

/-- The virtual channel of what goes out (R411). -/
def Outgoing.vc : Outgoing → Fin 4
  | .message m => (match m.kind with
    | .contribution _ => 1
    | .send | .ack | .ready => 2)
  | .request _ _ => 0
  | .answer _ _ => 0
  | .snoop _ _ => 0
  | .time _ => 3

/-- Flits of what goes out. -/
def Outgoing.flits : Outgoing → Nat
  | .message m => flitsOf m
  | .request _ _ => 1
  | .answer _ _ => 1
  | .snoop _ _ => 1
  | .time _ => 1

/-- Does a link carry traffic (R411)? -/
def Link.carries (l : Link) : Bool := l.trained && !l.training

/-- The other link of a pair (R412). -/
def otherLink (i : Fin 8) : Fin 8 := Fin.ofNat 8 (if i.val % 2 = 0 then i.val + 1 else i.val - 1)

/-- What goes out, as it leaves: a time flit carries the enclosure time of that moment (R413). -/
def State.stamped (s : State) (o : Outgoing) : Outgoing :=
  match o with
  | .time _ => .time (s.cycle + s.etoff)
  | .message _ | .request _ _ | .answer _ _ | .snoop _ _ => o

/-- Send what waits on a virtual channel of a link, oldest first, a flit for each credit (R411). -/
def State.pump (i : Fin 8) (vc : Fin 4) : Nat → State → State
  | 0, s => s
  | n + 1, s =>
    let l := vget s.links i
    let have_ := vget l.credits vc
    match s.txWait.findIdx? fun w => w.link == i && w.vc == vc with
    | none => s
    | some at_ =>
      match s.txWait[at_]? with
      | none => s
      | some w =>
        if !l.carries || have_ = 0 then s
        else
          let go := min w.left have_
          let s1 := { s with links := vset s.links i { l with credits := vset l.credits vc (have_ - go)
                                                              seqOut := l.seqOut + BitVec.ofNat 32 go } }
          if go < w.left then { s1 with txWait := s1.txWait.set at_ { w with left := w.left - go } }
          else State.pump i vc n { s1 with txWait := s1.txWait.eraseIdx at_, tx := s1.tx ++ [(i.val, s1.stamped w.out)] }

/-- Hand something to a link: it goes out when its virtual channel has the credits (R411, log 84). -/
def State.transmit (s : State) (i : Fin 8) (o : Outgoing) : State :=
  State.pump i o.vc (s.txWait.length + 1) { s with txWait := s.txWait ++ [⟨i, o.vc, o.flits, o⟩] }

/-- The link toward a processor for message number n: the one of the pair that the number names, or the other while that one
does not carry traffic (R411, R412). -/
def State.linkTo (s : State) (proc n : Nat) : Fin 8 :=
  let i : Fin 8 := Fin.ofNat 8 (hopPair s.encSize.toNat s.encProc.toNat proc + n % 2)
  if (vget s.links i).carries || !(vget s.links (otherLink i)).carries then i else otherLink i

/-- Is it a contribution to a collective? -/
def isContribution : MsgKind → Bool
  | .contribution _ => true
  | .send => false
  | .ack => false
  | .ready => false

/-- No format: a contribution that tells of a mismatch. -/
def mismatchFmt : Nat := 31

/-- What tells the sender of a contribution that its collective does not match (R417, log 84). -/
def State.refusalOf (s : State) (m : Message) : Message :=
  { m with srcProc := Fin.ofNat 16 s.encProc.toNat, dstProc := m.srcProc, dstCtx := Fin.ofNat 16 (m.ctxs.getD m.rank 0)
           rank := ((List.range m.ranks).find? fun r =>
             m.procs.getD r 16 == s.encProc.toNat && m.ctxs.getD r 16 == m.dstCtx.val).getD 0
           fmt := mismatchFmt, data := [], poisoned := [] }

/-- Is a message the contribution that a collective which has ended still waits for? -/
def Owed.by_ (o : Owed) (m : Message) : Bool :=
  isContribution m.kind && o.ctx == m.dstCtx && o.set == m.setId && o.tag == m.tag && o.num == m.num && o.group == m.group
    && o.proc == m.srcProc.val && o.peerCtx == m.ctxs.getD m.rank 16

/-- Take in a message, or drop and count it (R415). A contribution to a collective that has ended without it with a mismatch is
answered so (R417, log 84). -/
def State.takeMessage (s : State) (m : Message) : State :=
  if !s.accepts m then { s with dropped := s.dropped + 1 }
  else
    match s.collOwed.find? fun o => o.by_ m with
    | none => { s with rx := s.rx ++ [m] }
    | some o =>
      let s1 := { s with collOwed := s.collOwed.erase o }
      let r := s.refusalOf m
      if m.fmt = mismatchFmt then s1
      else if r.dstProc.val = s.encProc.toNat then { s1 with rx := s1.rx ++ [r] }
      else s1.transmit (s1.linkTo r.dstProc.val r.num) (.message r)

/-- Send a message: to the processor itself, or over a link (R411, R412). -/
def State.post (s : State) (m : Message) : State :=
  if m.dstProc.val = s.encProc.toNat then s.takeMessage m else s.transmit (s.linkTo m.dstProc.val m.num) (.message m)

end Sys2Proof.Machine
end

