-- ==== Sys2Proof/Machine/Memory.lean ====
section
/-! DEFINITION. Physical memory (R343 to R345, R359 to R363, R240 to R243, R398): bytes, poison, encryption, the
pool behind the port caches, and compressed blocks. Bytes of local HBM and the pool are keyed by physical address,
bytes of the on-chip spaces by tagged pointer. -/

namespace Sys2Proof.Machine

open Sys2Proof

/-! ### Bytes -/

/-- Does a range hold a key? -/
def Opened.covers (o : Opened) (k : Nat) : Bool := decide (o.lo ≤ k) && decide (k < o.lo + o.len)

/-- What an unlisted byte reads as: 0 (log 4), or what the newest range that holds its key left there (log 13). -/
def unlisted (os : List Opened) (k : Nat) : Byte :=
  match os.find? (·.covers k) with
  | none => 0
  | some o =>
    match o.tag with
    | none => 0
    | some t => Config.lost t k

/-- The byte at a key. -/
def memGet (os : List Opened) (m : List Host.Cell) (k : Nat) : Byte := (SMap.get m k).getD (unlisted os k)

/-- Write a byte, keeping the canonical form. -/
def memPut (os : List Opened) (m : List Host.Cell) (k : Nat) (v : Byte) : List Host.Cell :=
  if v = unlisted os k then SMap.del m k else SMap.set m k v

/-- n bytes from a key up. -/
def memRead (os : List Opened) (m : List Host.Cell) (k : Nat) : Nat → List Byte
  | 0 => []
  | n + 1 => memGet os m k :: memRead os m (k + 1) n

/-- Write bytes from a key up. -/
def memWrite (os : List Opened) (m : List Host.Cell) (k : Nat) : List Byte → List Host.Cell
  | [] => m
  | b :: bs => memWrite os (memPut os m k b) (k + 1) bs

/-- The byte at a key. -/
def State.byteAt (s : State) (k : Nat) : Byte := memGet s.opened s.mem k

/-- n bytes from a key up. -/
def State.bytesAt (s : State) (k n : Nat) : List Byte := memRead s.opened s.mem k n

/-- Write bytes from a key up. -/
def State.putBytes (s : State) (k : Nat) (bs : List Byte) : State := { s with mem := memWrite s.opened s.mem k bs }

/-- Does a range of keys lie inside another? -/
def Opened.inside (o : Opened) (k n : Nat) : Bool := decide (k ≤ o.lo) && decide (o.lo + o.len ≤ k + n)

/-- Leave the bytes of a range open. -/
def State.openRange (s : State) (k n : Nat) : State :=
  { s with mem := s.mem.filter fun c => !(decide (k ≤ c.1) && decide (c.1 < k + n))
           opened := ⟨k, n, some s.tick⟩ :: s.opened.filter fun o => !o.inside k n }

/-- Zero the bytes of a range. -/
def State.clearRange (s : State) (k n : Nat) : State :=
  let os := s.opened.filter fun o => !o.inside k n
  { s with mem := s.mem.filter fun c => !(decide (k ≤ c.1) && decide (c.1 < k + n))
           opened := if os.any fun o => decide (o.lo < k + n) && decide (k < o.lo + o.len) then ⟨k, n, none⟩ :: os else os }

/-- Keys strictly rising from a bound. -/
def risingFrom (lo : Nat) : List Host.Cell → Bool
  | [] => true
  | (a, _) :: m => lo ≤ a && risingFrom (a + 1) m

/-- The canonical form of memory: keys strictly rising, and no entry that an unlisted key would read as. -/
def Memory.wf (os : List Opened) (m : List Host.Cell) : Bool := risingFrom 0 m && m.all fun c => c.2 != unlisted os c.1

/-- The little-endian value of bytes (R4). -/
def leNat : List Byte → Nat
  | [] => 0
  | b :: bs => b.toNat + 256 * leNat bs

/-- The low n bytes of a value (R4). -/
def leBytes (n : Nat) (v : Nat) : List Byte :=
  match n with
  | 0 => []
  | n + 1 => BitVec.ofNat 8 v :: leBytes n (v / 256)

/-- Replace the bytes from an offset on. -/
def splice (xs : List Byte) (off : Nat) (ys : List Byte) : List Byte :=
  xs.take off ++ ys ++ xs.drop (off + ys.length)

/-! ### Physical addresses -/

/-- What stands behind a physical address (R343). -/
inductive Backing where
  /-- Local HBM: pseudo-channel and DRAM row. -/
  | hbm (pc row : Nat)
  /-- Pool device and offset. -/
  | pool (dev : Fin 8) (off : Nat)
  | unbacked
  deriving DecidableEq, Repr

/-- R343 and R345. -/
def backing (srows pa : Nat) : Backing :=
  if pa < 2 ^ 19 * (2 ^ 20 - srows) then
    .hbm (Nat.xor (pa / 2 ^ 8 % 2 ^ 9) (pa / 2 ^ 17 % 2 ^ 9)) (pa / 2 ^ 19)
  else if 2 ^ 39 ≤ pa && pa < 2 ^ 39 + 2 ^ 19 * srows then
    let b := (pa - 2 ^ 39) / 2 ^ 21
    let u := (pa - 2 ^ 39) % 2 ^ 21 / 1024
    .hbm (16 * (b % 32) + u % 16) (2 ^ 20 - srows + 128 * (b / 32) + u / 16)
  else if 2 ^ 44 ≤ pa && pa < 2 ^ 44 + 8 * 2 ^ 42 then
    .pool (Fin.ofNat 8 ((pa - 2 ^ 44) / 2 ^ 42)) ((pa - 2 ^ 44) % 2 ^ 42)
  else .unbacked

/-- A DRAM row as one number, for the list of retired rows. -/
def rowKey (pc row : Nat) : Nat := pc * 2 ^ 20 + row

/-- The key material that an access decrypts with; none for what is held in plain (R240, R244). -/
abbrev KeyRef := Option (BitVec 1024)

/-- The key in a slot. -/
def State.keyOf (s : State) (slot : Fin 16) : KeyRef := some (vget s.keySlots slot)

/-- Cut a run of bytes at multiples of u: pieces with their start, by fuel. -/
def piecesAux (u : Nat) : Nat → Nat → List Byte → List (Nat × List Byte)
  | 0, _, _ => []
  | f + 1, a, bs =>
    match bs with
    | [] => []
    | _ :: _ =>
      let n := u - a % u
      (a, bs.take n) :: piecesAux u f (a + n) (bs.drop n)

/-- Cut a run of bytes at multiples of u. -/
def pieces (u a : Nat) (bs : List Byte) : List (Nat × List Byte) := piecesAux u (bs.length / u + 2) a bs

/-- The units of u bytes that n bytes from a touch: start of the part inside, and its length. -/
def spansAux (u : Nat) : Nat → Nat → Nat → List (Nat × Nat)
  | 0, _, _ => []
  | f + 1, a, n =>
    if n = 0 then []
    else
      let k := min n (u - a % u)
      (a, k) :: spansAux u f (a + k) (n - k)

/-- The units of u bytes that n bytes from a touch. -/
def spans (u a n : Nat) : List (Nat × Nat) := spansAux u (n / u + 2) a n

/-! ### Poison -/

/-- Is the 64-byte granule with this number poisoned? -/
def State.isPoison (s : State) (g : Nat) : Bool := s.poison.contains g

/-- Mark a granule (R361). -/
def State.addPoison (s : State) (g : Nat) : State := if s.isPoison g then s else { s with poison := g :: s.poison }

/-- Clear a granule. -/
def State.dropPoison (s : State) (g : Nat) : State := { s with poison := s.poison.filter (· != g) }

/-! ### Local HBM -/

/-- Does an address lie in a retired row (R363), or in a stack that is lost (R434)? -/
def State.inRetired (s : State) (pa : Nat) : Bool :=
  match backing s.srows pa with
  | .hbm pc row => s.retiredRows.contains (rowKey pc row) || s.lostStacks.getLsbD (pc / 64)
  | .pool _ _ => false
  | .unbacked => false

/-- A byte of local HBM as it reads under a key: an atom written under another key is enciphered under that one and
deciphered under this one, in its 16-byte block (R241, log 12). -/
def State.hbmByte (s : State) (key : KeyRef) (pa : Nat) : Byte :=
  match SMap.get s.keyTag (pa / 64) with
  | none => s.byteAt pa
  | some t => if t = key then s.byteAt pa else (rekeyed t key pa (s.bytesAt (pa / 16 * 16) 16)).getD (pa % 16) 0

/-- n bytes of local HBM, and whether a lost atom is among them: poisoned, of a retired row, or with an error that this read
meets (R361). -/
def State.hbmRead (s : State) (key : KeyRef) (pa n : Nat) : List Byte × Bool :=
  ((List.range n).map fun i => s.hbmByte key (pa + i),
   (spans 64 pa n).any fun p => s.isPoison (p.1 / 64) || s.inRetired p.1 || s.decayed.contains (p.1 / 64))

/-- A read or the scrub meets the errors in a range of local HBM: their atoms are poisoned (R361, R362). -/
def State.meetErrors (s : State) (pa n : Nat) : State :=
  let hit := s.decayed.filter fun a => (spans 64 pa n).any fun p => p.1 / 64 == a
  hit.foldl State.addPoison { s with decayed := s.decayed.filter fun a => !hit.contains a }

/-- Write bytes inside one atom of local HBM (R361, R363). -/
def State.hbmWriteAtom (s : State) (key : KeyRef) (pa : Nat) (bs : List Byte) : State :=
  if s.inRetired pa then s
  else if bs.length < 64 && (s.isPoison (pa / 64) || s.decayed.contains (pa / 64)) then s
  else
    let s1 := if bs.length < 64 then s
      else { s.dropPoison (pa / 64) with decayed := s.decayed.filter fun a => a != pa / 64 }
    let stale := match SMap.get s1.keyTag (pa / 64) with
      | none => false
      | some t => t != key
    let s2 := if stale && bs.length < 64 then
        s1.putBytes (pa / 64 * 64) ((List.range 64).map fun i => s1.hbmByte key (pa / 64 * 64 + i))
      else s1
    { s2.putBytes pa bs with keyTag := SMap.set s1.keyTag (pa / 64) key }

/-! ### The pool -/

/-- Does an address lie in a region? -/
def Region.holds (r : Region) (pa : Nat) : Bool := r.pbase ≤ pa && decide (pa < r.pbase + r.size)

/-- The declared region of a pool address (R400). -/
def State.regionOf (s : State) (pa : Nat) : Option Region :=
  s.regions.toList.findSome? fun r =>
    match r with
    | none => none
    | some r => if r.holds pa then some r else none

/-- The pool address of an offset on a device (R343). -/
def poolPa (dev off : Nat) : Nat := 2 ^ 44 + dev * 2 ^ 42 + off

/-- The replica of a region on a device: data, metadata and tree at the same offsets there (R400, log 80). -/
def Region.onDevice (r : Region) (c : Nat) : Region :=
  { r with pbase := poolPa c (r.pbase % 2 ^ 42), metaBase := poolPa c (r.metaBase % 2 ^ 42), tree := poolPa c (r.tree % 2 ^ 42) }

/-- The devices that hold a region: its own, or those of RMASK (R400). -/
def Region.devices (r : Region) : List Nat :=
  if r.kind = 2 then (List.range 8).filter fun c => r.rmask / 2 ^ c % 2 == 1 else [(r.pbase - 2 ^ 44) / 2 ^ 42]

/-- The declared region of which a pool address is a copy, with its index; the region as it stands on the address's device. -/
def State.regionAt (s : State) (pa : Nat) : Option (Nat × Region) :=
  let c := (pa - 2 ^ 44) / 2 ^ 42
  s.regions.toList.zipIdx.findSome? fun p =>
    match p.1 with
    | none => none
    | some r => if r.devices.contains c && (r.onDevice c).holds pa then some (p.2, r.onDevice c) else none

/-- Is a pool address in a granted extent (R407)? -/
def State.granted (s : State) (pa : Nat) : Bool :=
  s.extents.any fun e =>
    (e.state == .granted || e.state == .revoking) && e.base ≤ pa && decide (pa < e.base + e.size)

/-- The processor at the other end of a link, at processor e of an enclosure of size p (R412). -/
def linkPeer (p e link : Nat) : Nat :=
  let pair := link / 2
  let x := e % 4
  let y := e / 4
  let n := p / 4
  if p = 2 then 1 - e
  else if p = 4 ∨ p = 8 ∨ p = 12 ∨ p = 16 then
    if pair = 0 then y * 4 + (x + 1) % 4
    else if pair = 1 then y * 4 + (x + 3) % 4
    else if p = 4 then (x + 2) % 4
    else if pair = 2 then (y + 1) % n * 4 + x
    else (y + n - 1) % n * 4 + x
  else
    let h := p / 2
    if pair = 0 then (e + 1) % p
    else if pair = 1 then (e + p - 1) % p
    else if pair = 2 then (e + h) % p
    else (e + p - h) % p

/-- The designated proxy of a port (R403): by default the neighbour on links 0 and 1. -/
def State.proxyOf (s : State) (c : Fin 8) : Nat :=
  ((vget s.heads c).proxy).getD (linkPeer s.encSize.toNat s.encProc.toNat 0)

/-- Is a neighbour reached over a trained link? -/
def State.reaches (s : State) (n : Nat) : Bool :=
  s.encSize != 0 && (List.finRange 8).any fun i =>
    (vget s.links i).trained && linkPeer s.encSize.toNat s.encProc.toNat i.val == n

/-- Does a request reach a pool device, through its head or through the proxy (R408, R409)? -/
def State.headReaches (s : State) (c : Fin 8) : Bool := (vget s.heads c).up || s.reaches (s.proxyOf c)

/-- The device address that a read of a pool address goes to: for a replicated region the lowest device in RMASK
whose head is up (R401). -/
def State.readReplica (s : State) (pa : Nat) : Option Nat :=
  match s.regionOf pa with
  | none => some pa
  | some r =>
    if r.kind != 2 then some pa
    else
      (List.range 8).findSome? fun c =>
        if r.rmask / 2 ^ c % 2 == 1 && (vget s.heads (Fin.ofNat 8 c)).up then some (poolPa c (pa % 2 ^ 42)) else none

/-- Version counter i of the top node of a region's counter tree (R242). -/
def State.treeVersion (s : State) (r : Region) (i : Nat) : Nat := leNat (s.bytesAt (r.tree + 7 * i) 7)

/-- The version of the top node: the sum of its eight counters (log 80). -/
def State.topVersion (s : State) (r : Region) : Nat := ((List.range 8).map (s.treeVersion r)).sum

/-- Does the counter tree of a line's region fail its check: the top node was altered, or is not of the root version (R242)? -/
def State.treeBad (s : State) (pa : Nat) : Bool :=
  match s.regionAt pa with
  | none => false
  | some (i, r) => s.badMac.contains (r.tree / 64) || (SMap.get s.roots i).elim false (· != s.topVersion r)

/-- A line as the pool device holds it: bytes, and whether it reads as poisoned under the key (R242). -/
def State.deviceLine (s : State) (key : KeyRef) (line : Nat) : List Byte × Bool :=
  let badKey := match SMap.get s.keyTag line with
    | none => false
    | some t => t != key
  (s.bytesAt (line * 64) 64, s.isPoison line || s.badMac.contains line || badKey || s.treeBad (line * 64))

/-- The address of the metadata block of a pool page (R242). -/
def metaBlock (r : Region) (pa : Nat) : Nat := r.metaBase + 512 * ((pa - r.pbase) / 4096)

/-- Pages of a region. -/
def Region.pages (r : Region) : Nat := r.size / 4096

/-- The pages under one child of the top node: the least power of eight with which eight children cover the region (R242). -/
def Region.perChild (r : Region) : Nat := grown 15 1
where
  /-- Grow by factors of eight, by fuel. -/
  grown : Nat → Nat → Nat
    | 0, n => n
    | f + 1, n => if r.pages ≤ 8 * n then n else grown f (8 * n)

/-- The child of the top node that a page is under. -/
def Region.child (r : Region) (pa : Nat) : Nat := (pa - r.pbase) / 4096 / r.perChild

/-- The lines of data whose MAC no longer fits where a line of metadata is overwritten (R242): all of the page under its
counters, those whose MAC is touched under the rest; the top node stands for itself. -/
def State.spoiled (s : State) (line : Nat) : List Nat :=
  let pa := line * 64
  s.regions.toList.flatMap fun r =>
    match r with
    | none => []
    | some r => r.devices.flatMap fun c =>
      let r := r.onDevice c
      if r.tree / 64 = line then [line]
      else if r.metaBase ≤ pa ∧ pa < r.metaBase + 512 * r.pages then
        let first := (r.pbase + 4096 * ((pa - r.metaBase) / 512)) / 64
        let o := (pa - r.metaBase) % 512
        if o < 64 then (List.range 64).map (first + ·)
        else ((List.range 64).filter fun l => decide (7 * l < o) && decide (o < 7 * l + 7 + 64)).map (first + ·)
      else []

/-- The counter block of 16-byte block b of a line (R242): the four values with the first in the highest bits, lowest byte first
(R4; DEDUCED, log 11). -/
def ctrBlock (pa major minor b : Nat) : List Byte :=
  bytes16 (((pa / 64 % 2 ^ 46 * 2 ^ 64 + major % 2 ^ 64) * 2 ^ 7 + minor) * 2 ^ 11 + b)

/-- A line of the pool as its device holds it: AES-256 in counter mode under the pool key of the slot, its bytes 64 to 95 (R242,
R441). The model keeps the plain bytes, and forms the enciphered ones where the MAC covers them. -/
def poolCipher (key : KeyRef) (pa major minor : Nat) (data : List Byte) : List Byte :=
  match key with
  | none => data
  | some k =>
    let aes := (List.range 32).map fun i => k.extractLsb' (8 * (64 + i)) 8
    xorBytes data ((List.range 4).flatMap fun b => aesEnc aes (ctrBlock pa major minor b))

/-- The MAC of a line with a content (R242): over the enciphered line, its address and both counters (log 11). -/
def State.lineMac (s : State) (key : KeyRef) (blk l line : Nat) (data : List Byte) : List Byte :=
  let major := leNat (s.bytesAt blk 8)
  let minor := leNat (s.bytesAt (blk + 8) 56) / 2 ^ (7 * l) % 128
  (List.range 7).map (Config.mac key line major minor (poolCipher key (line * 64) major minor data))

/-- Put the MAC of a line into its metadata block (R242). -/
def State.putMac (s : State) (key : KeyRef) (blk l line : Nat) : State :=
  s.putBytes (blk + 64 + 7 * l) (s.lineMac key blk l line (s.bytesAt (line * 64) 64))

/-- Does the stored MAC of a line fit a content that its device gives (R242)? Outside the declared regions there is none. -/
def State.macFits (s : State) (line : Nat) (data : List Byte) : Bool :=
  match s.regionAt (line * 64) with
  | none => true
  | some (_, r) =>
    let blk := metaBlock r (line * 64)
    let l := (line * 64 - r.pbase) % 4096 / 64
    s.bytesAt (blk + 64 + 7 * l) 7 == s.lineMac ((SMap.get s.keyTag line).getD none) blk l line data

/-- The size code of a block on its device or in local HBM; 0b00 is not listed. -/
def State.setCode (s : State) (blk : Nat) (c : BitVec 2) : State :=
  { s with sizeCode := SMap.put s.sizeCode blk (if c = 0 then none else some c) }

/-- A device's content of a line, with its poison state, and with the first line of a block its size code (R398). -/
def State.setDeviceLine (s : State) (l : CacheLine) : State :=
  let bad := if s.bytesAt (l.line * 64) 64 = l.data then [] else s.spoiled l.line
  let s1 := { s.putBytes (l.line * 64) l.data with
                badMac := (s.badMac.filter fun x => x != l.line && !bad.contains x) ++ bad }
  let s2 := if l.line % 4 = 0 then s1.setCode (l.line / 4) l.code else s1
  if l.poisoned then s2.addPoison l.line else s2.dropPoison l.line

/-- The port that caches a line. -/
def portOf (line : Nat) : Fin 8 := Fin.ofNat 8 ((line * 64 - 2 ^ 44) / 2 ^ 42)

/-- Does a request for a line end with pool request error: neither its head nor the proxy reaches the device, or the proxy has
refused it (R408, R409)? -/
def State.refuses (s : State) (line : Nat) : Bool := !s.headReaches (portOf line) || s.refusedLines.contains line

/-- The refusal of a line has ended a request. -/
def State.refused (s : State) (line : Nat) : State := { s with refusedLines := s.refusedLines.erase line }

/-- A request for a line leaves for its device: through the own head, or over the links to the proxy (R409). -/
def State.sendRequest (s : State) (line : Nat) (store : Option LineData) : State :=
  if (vget s.heads (portOf line)).up then s
  else s.transmit (s.linkTo (s.proxyOf (portOf line)) 0) (.request line store)

/-- Write a line back to its device, with its size code and poison state (R398) and, in a declared region, its MAC (R242). One that
cannot be written back is lost and counted, and the device keeps its earlier content (R408; of an eviction, log 79). -/
def State.writeBack (s : State) (l : CacheLine) : State :=
  if s.refuses l.line then { s.refused l.line with lostLines := s.lostLines + 1 }
  else
    let t := (s.sendRequest l.line (some ⟨l.data, l.poisoned, l.code⟩)).setDeviceLine l
    match s.regionAt (l.line * 64) with
    | none => t
    | some (_, r) =>
      let pa := l.line * 64
      t.putMac ((SMap.get s.keyTag l.line).getD none) (metaBlock r pa) ((pa - r.pbase) % 4096 / 64) l.line

/-- The cached copy of a line. -/
def State.cached (s : State) (line : Nat) : Option CacheLine :=
  (vget s.heads (portOf line)).cache.find? fun l => l.line == line

/-- Replace the lines of a port cache. -/
def State.setCache (s : State) (p : Fin 8) (c : List CacheLine) : State :=
  { s with heads := vset s.heads p { vget s.heads p with cache := c } }

/-- Change a cached line where it stands: its place in the order of use stays. -/
def State.editLine (s : State) (line : Nat) (f : CacheLine → CacheLine) : State :=
  let p := portOf line
  s.setCache p ((vget s.heads p).cache.map fun l => if l.line = line then f l else l)

/-- A cached line is written back, and stays in the cache as Clean (R452). -/
def State.clean (s : State) (l : CacheLine) : State := (s.writeBack l).editLine l.line fun x => { x with dirty := false }

/-- Drop a line from its port cache. -/
def State.uncache (s : State) (line : Nat) : State :=
  let p := portOf line
  s.setCache p ((vget s.heads p).cache.filter fun l => l.line != line)

/-- Sets of a port cache (R398: 16 MiB, 64 B lines, 16 ways). -/
def cacheSets : Nat := 16384

/-- Put a line at the front of its port cache, evicting the least recently used line of a full set (R398). -/
def State.cachePut (s : State) (l : CacheLine) : State :=
  let p := portOf l.line
  let rest := (vget s.heads p).cache.filter fun x => x.line != l.line
  let inSet := rest.filter fun x => x.line % cacheSets == l.line % cacheSets
  if inSet.length < 16 then s.setCache p (l :: rest)
  else
    match inSet.getLast? with
    | none => s.setCache p (l :: rest)
    | some v =>
      let s1 := if v.dirty then s.writeBack v else s
      s1.setCache p (l :: rest.filter fun x => x.line != v.line)

/-- Is a line of a region that is never snooped (R404)? -/
def State.unsnooped (s : State) (line : Nat) : Bool := (s.regionAt (line * 64)).elim true fun r => r.2.kind == 3

/-- The neighbours that hold a line through this processor's head, one apart (R409). -/
def State.holders (s : State) (line but : Nat) : List Nat :=
  if s.unsnooped line then [] else (s.proxied.filter fun p => p.2 == line && p.1 != but).map Prod.fst

/-- Send a snoop on to the neighbours that hold a line (R409). -/
def State.forwardSnoop (s : State) (line but : Nat) (forWrite : Bool) : State :=
  (s.holders line but).foldl (fun t e =>
    if t.snoopWait.any fun w => w.1 == e && w.2.1 == line then t
    else { t.transmit (t.linkTo e 0) (.snoop line forWrite) with snoopWait := t.snoopWait ++ [(e, line, forWrite)] }) s

/-- An own access to a line that neighbours hold through this processor's head snoops them, and waits for their answers: a read
for the content, a write until none holds the line (R404, R409). -/
def askHolders (line : Nat) (forWrite : Bool) : X Unit := do
  let s ← get
  if (s.holders line 16).isEmpty then pure ()
  else throw (.ask fun t =>
    let u := t.forwardSnoop line 16 forWrite
    let own : ProxyWait := ⟨0, t.encProc.toNat, line, none⟩
    if forWrite || t.proxyWait.contains own then u else { u with proxyWait := u.proxyWait ++ [own] })

/-- A request for a line goes out, or ends with pool request error (R408, R409). -/
def askDevice (va line : Nat) : X Unit := do
  let s ← get
  if s.refuses line then throw (.trap { code := 0x13, va := BitVec.ofNat 64 va } (some (s.refused line)))
  else set (s.sendRequest line none)

/-- Read a pool line through the port cache (R398 to R409). `va` is the address that a fault names. -/
def poolLine (key : KeyRef) (va line : Nat) : X CacheLine := do
  let s ← get
  match s.readReplica (line * 64) with
  | none => fault 0x13 va
  | some pa =>
    let line := pa / 64
    if !s.granted pa then fault 0x13 va
    else match s.cached line with
    | some l => set (s.cachePut l); pure l
    | none =>
      askDevice va line
      askHolders line false
      let s ← get
      let d := s.deviceLine key line
      let l : CacheLine := ⟨line, d.1, false, d.2, (SMap.get s.sizeCode (line / 4)).getD 0⟩
      let bad := d.2 && !s.isPoison line
      set { s.cachePut l with macEvents := if bad then s.macEvents + 1 else s.macEvents }
      pure l

/-- Count a write in the tree: the counter of the top node above it, its MAC, and the root version (R242, log 80). -/
def State.countTree (s : State) (key : KeyRef) (i : Nat) (r : Region) (pa : Nat) : State :=
  let c := r.child pa
  let s1 := s.putBytes (r.tree + 7 * c) (leBytes 7 (s.treeVersion r c + 1))
  let node := s1.bytesAt r.tree 56
  let s2 := s1.putBytes (r.tree + 56) ((List.range 7).map (Config.mac key (r.tree / 64) (s1.topVersion r) 0 node))
  { s2 with roots := SMap.set s2.roots i (s2.topVersion r) }

/-- Count a write to a pool line (R243): its minor counter, and at 127 the major counter with all minors at zero;
counter exhausted where the major counter or a version of the tree, the root's too, is at its end. -/
def countWrite (key : KeyRef) (va pa : Nat) : X Unit := do
  let s ← get
  match s.regionAt pa with
  | none => pure ()
  | some (i, r) =>
    faultIf (s.treeVersion r (r.child pa) + 1 == 2 ^ 56 || decide (2 ^ 56 ≤ s.topVersion r + 1)) 0x0F va
    modify fun s => s.countTree key i r pa
    let s ← get
    let blk := metaBlock r pa
    let l := (pa - r.pbase) % 4096 / 64
    let major := leNat (s.bytesAt blk 8)
    let minors := leNat (s.bytesAt (blk + 8) 56)
    let minor := minors / 2 ^ (7 * l) % 128
    if minor < 127 then
      set ((s.putBytes (blk + 8) (leBytes 56 (minors + 2 ^ (7 * l)))).putMac key blk l (pa / 64))
    else if major + 1 < 2 ^ 64 then
      let s1 := (s.putBytes blk (leBytes 8 (major + 1))).putBytes (blk + 8) (leBytes 56 (2 ^ (7 * l)))
      set ((List.range 64).foldl (fun t i => t.putMac key blk i (pa / 4096 * 64 + i)) s1)
    else fault 0x0F va

/-- Write bytes inside one pool line through the port cache. A whole line is allocated without a fetch (R399). -/
def poolWriteLine (key : KeyRef) (va pa : Nat) (bs : List Byte) : X Unit := do
  let s ← get
  if !s.granted pa then fault 0x13 va
  else
    countWrite key va pa
    let old ← if bs.length < 64 then poolLine key va (pa / 64)
      else do
        if (s.cached (pa / 64)).isNone && !s.unsnooped (pa / 64) then askDevice va (pa / 64) else pure ()
        pure ⟨pa / 64, [], false, false, (s.cached (pa / 64)).elim ((SMap.get s.sizeCode (pa / 256)).getD 0) CacheLine.code⟩
    askHolders (pa / 64) true
    let s1 ← get
    if !s1.headReaches (portOf (pa / 64)) then fault 0x13 va
    else
      let data := if bs.length < 64 then splice old.data (pa % 64) bs else bs
      let l : CacheLine := ⟨pa / 64, if old.poisoned then old.data else data, true, old.poisoned, old.code⟩
      set { s1.cachePut l with keyTag := SMap.set s1.keyTag (pa / 64) key }

/-! ### Raw and compressed blocks -/

/-- Read raw bytes at a physical address: the bytes and whether poison is among them. -/
def rawRead (key : KeyRef) (va pa n : Nat) : X (List Byte × Bool) := do
  let s ← get
  match backing s.srows pa with
  | .hbm _ _ => do
    set (s.meetErrors pa n)
    pure (s.hbmRead key pa n)
  | .pool _ _ =>
    (spans 64 pa n).foldlM (init := ([], false)) fun acc p => do
      let l ← poolLine key (va + (p.1 - pa)) (p.1 / 64)
      pure (acc.1 ++ (l.data.drop (p.1 % 64)).take p.2, acc.2 || l.poisoned)
  | .unbacked => throw (.halt (.unbackedAddress pa))

/-- Bytes that the part holds at a physical address, and whether they cannot be had. -/
def State.heldBytes (s : State) (key : KeyRef) (pa n : Nat) : List Byte × Bool :=
  match rawRead key pa pa n s with
  | .ok (r, _) => r
  | .error _ => ([], true)

/-- Write raw bytes at a physical address. -/
def rawWrite (key : KeyRef) (va pa : Nat) (bs : List Byte) : X Unit := do
  let s ← get
  match backing s.srows pa with
  | .hbm _ _ => set ((pieces 64 pa bs).foldl (fun t p => t.hbmWriteAtom key p.1 p.2) s)
  | .pool _ _ => (pieces 64 pa bs).forM fun p => poolWriteLine key (va + (p.1 - pa)) p.1 p.2
  | .unbacked => throw (.halt (.unbackedAddress pa))

/-- The half-words of a block. -/
def halfWords : List Byte → List (Byte × Byte)
  | a :: b :: r => (a, b) :: halfWords r
  | _ => []

/-- The stored form of 256 bytes and its size code (R359). -/
def compress (bs : List Byte) : List Byte × BitVec 2 :=
  let hs := halfWords bs
  let nz := hs.filter fun h => h.1 != 0 || h.2 != 0
  let n := (16 + 2 * nz.length + 63) / 64
  if 4 ≤ n then (bs, 0)
  else
    let maskBits := hs.foldr (fun h a => 2 * a + (if h.1 != 0 || h.2 != 0 then 1 else 0)) 0
    let body := leBytes 16 maskBits ++ nz.flatMap fun h => [h.1, h.2]
    (body ++ List.replicate (64 * n - body.length) 0, BitVec.ofNat 2 (4 - n))

/-- Half-words from a mask and the packed non-zero half-words. -/
def expand : Nat → Nat → List (Byte × Byte) → List Byte
  | 0, _, _ => []
  | f + 1, mask, hs =>
    if mask % 2 = 1 then
      match hs with
      | [] => 0 :: 0 :: expand f (mask / 2) []
      | h :: r => h.1 :: h.2 :: expand f (mask / 2) r
    else 0 :: 0 :: expand f (mask / 2) hs

/-- The 256 bytes of a stored form (R359). -/
def decompress (code : BitVec 2) (raw : List Byte) : List Byte :=
  if code = 0 then raw else expand 128 (leNat (raw.take 16)) (halfWords (raw.drop 16))

/-- Atoms of a stored form (R359). -/
def atomsOf (code : BitVec 2) : Nat := 4 - code.toNat

/-- The size code of a block: in local HBM the side-band's, in the pool that of the cached first line, else the device's
(R359, R398). -/
def State.sizeOf (s : State) (blk : Nat) : BitVec 2 :=
  match backing s.srows (blk * 256) with
  | .pool _ _ =>
    let line := (s.readReplica (blk * 256)).getD (blk * 256) / 64
    (s.cached line).elim ((SMap.get s.sizeCode (line / 4)).getD 0) CacheLine.code
  | .hbm _ _ => (SMap.get s.sizeCode blk).getD 0
  | .unbacked => 0

/-- Set the size code of a block that has just been stored: of a pool block, with its cached first line. -/
def State.setSize (s : State) (blk : Nat) (c : BitVec 2) : State :=
  match backing s.srows (blk * 256) with
  | .pool _ _ => (match s.cached (blk * 4) with
    | some _ => s.editLine (blk * 4) fun l => { l with code := c }
    | none => s.setCode blk c)
  | .hbm _ _ => s.setCode blk c
  | .unbacked => s

/-- Mark the atom or line at a physical address lost (R361). -/
def poisonPa (key : KeyRef) (va pa : Nat) : X Unit := do
  let s ← get
  match backing s.srows pa with
  | .hbm _ _ => set (s.addPoison (pa / 64))
  | .pool _ _ => do
    let r ← attempt (poolLine key va (pa / 64))
    match r with
    | .ok l => modify fun s =>
        s.editLine (if (s.cached (pa / 64)).isSome then pa / 64 else l.line) fun l => { l with dirty := true, poisoned := true }
    | .error _ => pure ()
  | .unbacked => throw (.halt (.unbackedAddress pa))

/-- The stored atom that holds a half-word of a compressed block, if the mask names it (R359). -/
def halfAtom (mask h : Nat) : Option Nat :=
  if mask / 2 ^ h % 2 = 1 then
    some ((16 + 2 * ((List.range h).filter fun i => mask / 2 ^ i % 2 == 1).length) / 64)
  else none

/-- How raw bytes are read: the bytes, and the cause where they are lost. The arguments are the virtual address, the physical one
and the length. -/
abbrev Reader := Nat → Nat → Nat → X (List Byte × Option Nat)

/-- A read that faults where a pool request fails. -/
def hardRead (key : KeyRef) : Reader := fun va pa n => do
  let r ← rawRead key va pa n
  pure (r.1, if r.2 then some 0x08 else none)

/-- A read of a copy, which loses what a failed pool request would give (R336). The refusal stands for all that reads the line in
the same chunk. -/
def softRaw (key : KeyRef) : Reader := fun va pa n => do
  let s ← get
  let r ← attempt (rawRead key va pa n)
  match r with
  | .ok x => pure (x.1, if x.2 then some 0x08 else none)
  | .error t =>
    modify fun u => { u with refusedLines := s.refusedLines }
    if t.code = 0x13 then pure (List.replicate n 0, some 0x13) else throw (.trap t none)

/-- Read atoms 0 to k of a stored form: bytes, and the cause where an atom is lost. -/
def readAtoms (rd : Reader) (va base k : Nat) : X (List Byte × List (Option Nat)) :=
  (List.range (k + 1)).foldlM (init := ([], [])) fun acc i => do
    let r ← rd va (base + 64 * i) 64
    pure (acc.1 ++ r.1, acc.2 ++ [r.2])

/-- The half-words that n bytes of a block touch. -/
def halvesOf (pa n : Nat) : List Nat := (List.range ((pa % 256 + n + 1) / 2 - pa % 256 / 2)).map (· + pa % 256 / 2)

/-- The last atom of a stored form that half-words need (R360). -/
def lastAtom (code : BitVec 2) (mask : Nat) (hs : List Nat) : Nat :=
  min ((hs.filterMap (halfAtom mask)).foldl max 0) (atomsOf code - 1)

/-- Read bytes inside one 256-byte block of a C = 1 page (R360): atom 0, then the atoms up to the one that holds the last
byte needed. Lost are bytes of a lost atom, and all of the block with atom 0 (log 40). The list tells for each half-word the lost
atom that takes it along, with its cause. -/
def blockReadWith (rd : Reader) (va pa n : Nat) : X (List Byte × List (Option (Nat × Nat))) := do
  let s ← get
  let base := pa / 256 * 256
  let hs := halvesOf pa n
  let code := s.sizeOf (pa / 256)
  if code = 0 then
    let rs ← (spans 64 pa n).mapM fun p => do
      let r ← rd (va + (p.1 - pa)) p.1 p.2
      pure (p.1 % 256 / 64, r)
    pure (rs.flatMap fun r => r.2.1, hs.map fun h =>
      (rs.find? fun r => r.1 == h / 32).bind fun r => r.2.2.map fun x => (base / 64 + r.1, x))
  else
    let first ← readAtoms rd va base 0
    let mask := leNat (first.1.take 16)
    let all ← readAtoms rd va base (lastAtom code mask hs)
    let lost := fun (a : Nat) => (all.2.getD a none).map fun x => (base / 64 + a, x)
    pure (((decompress code all.1).drop (pa % 256)).take n,
      hs.map fun h => (lost 0).orElse fun _ => (halfAtom mask h).bind lost)

/-- The same for a role or the part itself: which half-words are lost. -/
def blockReadHalves (key : KeyRef) (va pa n : Nat) : X (List Byte × List Bool) := do
  let r ← blockReadWith (hardRead key) va pa n
  pure (r.1, r.2.map Option.isSome)

/-- Read bytes inside one 256-byte block of a C = 1 page, and whether any is lost (R360, R362). -/
def blockRead (key : KeyRef) (va pa n : Nat) : X (List Byte × Bool) := do
  let r ← blockReadHalves key va pa n
  pure (r.1, r.2.any id)

/-- The atoms that a read of bytes inside one atom's span of a page asks for: of a compressed block atom 0, and those up to the one
that holds the last byte needed (R360). -/
def State.formAtoms (s : State) (key : KeyRef) (c : Bool) (pa n : Nat) : List Nat :=
  let code := s.sizeOf (pa / 256)
  if !c || code = 0 then [pa / 64]
  else
    let mask := leNat (s.hbmRead key (pa / 256 * 256) 16).1
    (List.range (lastAtom code mask (halvesOf pa n) + 1)).map (pa / 256 * 4 + ·)

/-- Write a whole block of a C = 1 page in the form that its contents select, or uncompressed. -/
def blockStore (key : KeyRef) (va base : Nat) (bs : List Byte) (cmp : Bool) : X Unit := do
  let c := if cmp then compress bs else (bs, 0)
  (pieces 64 base c.1).forM fun p => rawWrite key va p.1 p.2
  modify fun s => s.setSize (base / 256) c.2

/-- Write bytes inside one block of a C = 1 page: read, merge, write (R360). While an atom of the contents stays lost, the
block is left uncompressed: the write lands as R361 says, atom by atom (log 40). -/
def blockWrite (key : KeyRef) (va pa : Nat) (bs : List Byte) (cmp : Bool) : X Unit := do
  let base := pa / 256 * 256
  if bs.length = 256 then blockStore key va base bs cmp
  else
    let s ← get
    let old ← blockReadHalves key va base 256
    let lost := (List.range 4).filter fun a =>
      ((old.2.drop (32 * a)).take 32).any id && !(decide (pa ≤ base + 64 * a) && decide (base + 64 * a + 64 ≤ pa + bs.length))
    let merged := splice old.1 (pa % 256) bs
    if lost.isEmpty then blockStore key va base merged cmp
    else if s.sizeOf (pa / 256) = 0 then (pieces 64 pa bs).forM fun p => rawWrite key (va + (p.1 - pa)) p.1 p.2
    else
      blockStore key va base merged false
      lost.forM fun a => poisonPa key va (base + 64 * a)

/-- Mark the 64 bytes of a page around a physical address lost (R304, R336, R361): of a compressed block the atom of its
contents, which leaves the block uncompressed (log 40). -/
def losePhys (key : KeyRef) (c : Bool) (va pa : Nat) : X Unit := do
  let s ← get
  let base := pa / 256 * 256
  if !c || s.sizeOf (pa / 256) = 0 then poisonPa key va pa
  else
    let old ← blockReadHalves key va base 256
    blockStore key va base old.1 false
    ((List.range 4).filter fun a => a == pa % 256 / 64 || ((old.2.drop (32 * a)).take 32).any id).forM fun a =>
      poisonPa key va (base + 64 * a)

/-- Read n bytes of a page at a physical address (C as the leaf says). -/
def physRead (key : KeyRef) (c : Bool) (va pa n : Nat) : X (List Byte × Bool) :=
  if !c then rawRead key va pa n
  else
    (spans 256 pa n).foldlM (init := ([], false)) fun acc p => do
      let r ← blockRead key (va + (p.1 - pa)) p.1 p.2
      pure (acc.1 ++ r.1, acc.2 || r.2)

/-- Write bytes of a page at a physical address; on a C = 1 page in the form that the data selects (R360). -/
def physWrite (key : KeyRef) (c : Bool) (va pa : Nat) (bs : List Byte) (cmp : Bool := true) : X Unit :=
  if !c then rawWrite key va pa bs
  else (pieces 256 pa bs).forM fun p => blockWrite key (va + (p.1 - pa)) p.1 p.2 cmp

end Sys2Proof.Machine
end

