-- ==== Sys2Proof/Machine/Xlate.lean ====
section
/-! DEFINITION. Translation (R346 to R358): table walks, TLBs, permissions, pool kinds, grow leaves, shadowed
ranges, and the ownership of scratchpad units (R211). -/

namespace Sys2Proof.Machine

open Sys2Proof

/-- What an access needs (R350). -/
inductive Acc where
  | fetch | read | write | atomic | streamRead | streamWrite | none
  /-- Of a queue's header and ring: by QUE, which stores to them or not, and by the fault queue. -/
  | queue | queueStore
  deriving DecidableEq, Repr

/-- Bit n of a leaf. -/
def lbit (f n : Nat) : Bool := f / 2 ^ n % 2 == 1

/-- KIND of a leaf (R348). -/
def leafKind (f : Nat) : Nat := f / 2 ^ 8 % 4
/-- KEY of a leaf. -/
def leafKey (f : Nat) : Fin 16 := Fin.ofNat 16 (f / 2 ^ 12)
/-- The page address of a leaf, as a byte address. -/
def leafPa (f : Nat) : Nat := f / 2 ^ 16 % 2 ^ 36 * 2 ^ 16
/-- C of a leaf. -/
def leafC (f : Nat) : Bool := lbit f 6

/-- Malformed(f) (R349). -/
def malformed (srows va f : Nat) : Bool :=
  let b := backing srows (leafPa f)
  let inStream := 2 ^ 39 ≤ leafPa f
  lbit f 7
    || (lbit f 4 && !(lbit f 10 && lbit f 5))
    || (lbit f 4 && lbit f 6)
    || (leafKind f == 0 && (match b with
        | .hbm _ _ => inStream != lbit f 4
        | .pool _ _ => true
        | .unbacked => true))
    || (leafKind f != 0 && (match b with
        | .pool _ _ => false
        | .hbm _ _ => true
        | .unbacked => true))
    || (lbit f 10 && decide (f / 2 ^ 16 % 32 ≠ va / 2 ^ 16 % 32))

/-- Does a leaf grant an access (R229, R350)? MCST's writes to a replicated page are made apart. -/
def grants (f : Nat) (a : Acc) : Bool :=
  let k := leafKind f
  match a with
  | .fetch => lbit f 3
  | .read => lbit f 1
  | .write => lbit f 2 && k != 2
  | .atomic => lbit f 1 && lbit f 2 && k != 2 && k != 3
  | .streamRead => lbit f 1 && lbit f 4
  | .streamWrite => lbit f 2 && lbit f 4 && k != 2
  | .none => true
  | .queue => lbit f 1 && lbit f 2
  | .queueStore => lbit f 1 && lbit f 2 && k != 2

/-- Does a TLB entry hold the page of va for the context? -/
def TlbEntry.holds (e : TlbEntry) (x : CtxId) (va : Nat) : Bool :=
  e.ctx == x && (if e.block then e.page / 32 == va / 2 ^ 21 else e.page == va / 2 ^ 16)

/-- Put an entry at the front of a TLB of the given size (R353). -/
def tlbPut (size : Nat) (t : List TlbEntry) (e : TlbEntry) : List TlbEntry :=
  (e :: t.filter fun x => !(x.ctx == e.ctx && x.page == e.page && x.block == e.block)).take size

/-- Fill the TLBs that serve a requester (R353). -/
def State.tlbFill (s : State) (core : Option CoreId) (e : TlbEntry) : State :=
  match core with
  | Option.none => s
  | some c =>
    let s1 := { s with dieTlb := vset s.dieTlb (dieOf c) (tlbPut 16384 (vget s.dieTlb (dieOf c)) e) }
    s1.onCore c fun k => { k with tlb := tlbPut 512 k.tlb e }

/-- Use an entry: it becomes the most recent of the TLB that holds it (R353). -/
def State.tlbUse (s : State) (core : Option CoreId) (e : TlbEntry) : State :=
  match core with
  | Option.none => s
  | some c =>
    if (s.core c).tlb.contains e then s.onCore c fun k => { k with tlb := tlbPut 512 k.tlb e }
    else { s with dieTlb := vset s.dieTlb (dieOf c) (tlbPut 16384 (vget s.dieTlb (dieOf c)) e) }

/-- A translation that the requester's TLBs hold. -/
def State.tlbFind (s : State) (w : Who) (va : Nat) : Option TlbEntry :=
  match w.core with
  | Option.none => Option.none
  | some c =>
    match (s.core c).tlb.find? fun e => e.holds w.ctx va with
    | some e => some e
    | Option.none => (vget s.dieTlb (dieOf c)).find? fun e => e.holds w.ctx va

/-- PhysRead of a table entry (R349): eight bytes under the primary key; poison ends the walk. -/
def tableRead (x : CtxId) (va pa : Nat) : X Nat := do
  let s ← get
  let r ← faultsAt va (rawRead (s.keyOf (s.ctx x).desc.key) va pa 8)
  if r.2 then fault 0x08 va else pure (leNat r.1)

/-- Write a doubleword of the part's own structures under the context's primary key. -/
def tableWrite (x : CtxId) (pa v : Nat) : X Unit := do
  let s ← get
  rawWrite (s.keyOf (s.ctx x).desc.key) pa pa (leBytes 8 v)

/-- Pages that a free-page queue holds (R356). -/
def Fpq.count (q : Fpq) : Nat := (q.tail + 2 ^ 32 - q.head) % 2 ^ 32

/-- Are the zero fields of a grow leaf zero (R355)? -/
def growLeafOk (f : Nat) : Bool := f / 2 ^ 4 % 4 == 0 && f / 2 ^ 8 % 16 == 0 && f / 2 ^ 20 % 2 ^ 32 == 0

/-- Grow(f, va) (R358): take a page from the free-page queue and install it over the grow leaf. One with a reserved field
set is rejected as a malformed leaf is (R5, log 81). -/
def grow (x : CtxId) (va leafAt f : Nat) : X Nat := do
  faultIf (!growLeafOk f) 0x07 va
  let s ← get
  let q := f / 2 ^ 16 % 16
  match (s.ctx x).fpqs[q]? with
  | Option.none => fault 0x07 va
  | some Q =>
    if !Q.valid || Q.kind != 0 || Q.key != leafKey f then fault 0x07 va
    else if Q.tail = Q.head then fault 0x06 va
    else
      let p ← tableRead x va (Q.base + 8 * (Q.head % Q.cap))
      modify fun s => s.onCtx x fun c => { c with fpqs := c.fpqs.set q { Q with head := (Q.head + 1) % 2 ^ 32 } }
      let leaf := 1 + f / 2 % 8 * 2 + f / 2 ^ 6 % 2 * 2 ^ 6 + f / 2 ^ 12 % 16 * 2 ^ 12 + p / 2 ^ 16 % 2 ^ 36 * 2 ^ 16
      tableWrite x leafAt leaf
      pure leaf

/-- A directory entry's checks (R349). -/
def directory (x : CtxId) (va pa : Nat) : X Nat := do
  let d ← tableRead x va pa
  if d % 2 = 0 then fault 0x06 va
  else if d / 2 % 2 ^ 15 ≠ 0 then fault 0x07 va
  else pure (d / 2 ^ 16 % 2 ^ 36 * 2 ^ 16)

/-- The address of the level-3 entry of va. -/
def leafAddress (x : CtxId) (va : Nat) : X Nat := do
  let s ← get
  let d1 ← directory x va ((s.ctx x).desc.ptroot + 8 * (va / 2 ^ 42 % 2 ^ 13))
  let d2 ← directory x va (d1 + 8 * (va / 2 ^ 29 % 2 ^ 13))
  pure (d2 + 8 * (va / 2 ^ 16 % 2 ^ 13))

/-- The physical address of va under a leaf (R351). -/
def leafAddr (f va : Nat) : Nat := if lbit f 10 then leafPa f / 2 ^ 21 * 2 ^ 21 + va % 2 ^ 21 else leafPa f + va % 2 ^ 16

/-- R401: the pool page of va lies in a declared region of the leaf's kind. -/
def State.regionOk (s : State) (f va : Nat) : Bool :=
  leafKind f == 0 || (match s.regionOf (leafAddr f va) with
    | Option.none => false
    | some r => r.kind == leafKind f)

/-- The checks of a leaf that hold before any access may use it (R349, R401). -/
def leafOk (x : CtxId) (va f : Nat) : X Unit := do
  let s ← get
  faultIf (malformed s.srows va f) 0x07 va
  faultIf (!(s.ctx x).desc.keys.getLsbD (leafKey f).val) 0x07 va
  faultIf (!s.regionOk f va) 0x07 va

/-- The leaf that governs va, from a TLB or by a walk; the TLBs are filled when the access is permitted (R349). -/
def leafOf (w : Who) (va : Nat) (a : Acc) : X Nat := do
  let s ← get
  match s.tlbFind w va with
  | some e =>
    faultIf (!s.regionOk e.leaf va) 0x07 va
    faultIf (!grants e.leaf a) 0x07 va
    set (s.tlbUse w.core e)
    pure e.leaf
  | Option.none =>
    let at3 ← leafAddress w.ctx va
    let f ← tableRead w.ctx va at3
    if f % 2 = 0 && !lbit f 7 then fault 0x06 va
    else
      let f ← if f % 2 = 0 then grow w.ctx va at3 f else pure f
      leafOk w.ctx va f
      faultIf (!grants f a) 0x07 va
      modify fun s => s.tlbFill w.core ⟨w.ctx, if lbit f 10 then va / 2 ^ 21 * 32 else va / 2 ^ 16, lbit f 10, f % 2 ^ 52⟩
      pure f

/-- The buffer map entry that holds va (R245). -/
def State.bufOf (s : State) (x : CtxId) (va : Nat) : Option Buf :=
  (s.ctx x).bufs.find? fun b => b.vbase ≤ va && va < b.vbase + b.pages * 2 ^ 16

/-- A translated address: physical address, leaf. -/
structure Xlat where
  pa : Nat
  leaf : Nat
  deriving DecidableEq, Repr

/-- The address of va under a leaf; inside a shadowed range, in the backing that `sideB` chooses (R228). -/
def State.placeIn (s : State) (x : CtxId) (va leaf : Nat) (sideB : Buf → Bool) : Nat :=
  match s.bufOf x va with
  | Option.none => leafAddr leaf va
  | some b => (if sideB b then b.backB else b.backA) + (va - b.vbase)

/-- Translate(va, access) (R349), into the backing of a shadowed range that `sideB` chooses. -/
def translateBy (w : Who) (va : Nat) (a : Acc) (sideB : Buf → Bool) : X Xlat := do
  let f ← leafOf w va a
  let s ← get
  pure ⟨s.placeIn w.ctx va f sideB, f⟩

/-- Translate(va, access) (R349). `hidden` selects the hidden backing of a shadowed range, for the writes of
copies and streams (R228). -/
def translate (w : Who) (va : Nat) (a : Acc) (hidden : Bool := false) : X Xlat := translateBy w va a fun b => b.visB != hidden

/-- The key that a leaf names. -/
def State.leafKeyRef (s : State) (f : Nat) : KeyRef := s.keyOf (leafKey f)

/-- Is the scratchpad unit that holds an offset of a core's slice owned by the context (R211, R238)? -/
def State.ownsUnit (s : State) (x : CtxId) (core : CoreId) (off : Nat) : Bool :=
  s.owns x core && (s.ctx x).desc.units.getLsbD (off / 2 ^ 16)

end Sys2Proof.Machine
end

