-- ==== Sys2Proof/Machine/Ops.lean ====
section
/-! DEFINITION. The named operations over memory, registers and control flow: MemRead and MemWrite of R8, taking a
fault and returning from one (R423 to R430), and the flow of a role (R56, R114). -/

namespace Sys2Proof.Machine

open Sys2Proof

/-! ### MemRead and MemWrite -/

/-- SPACE of a tagged pointer (R208). -/
def ptrSpace (p : Nat) : Nat := p / 2 ^ 60 % 16

/-- The byte limit of an on-chip space (R208). -/
def spaceLimit (sp : Nat) : Nat := if sp = 1 then 3 * 2 ^ 20 else if sp = 2 then 2 ^ 19 else 6 * 2 ^ 20

/-- Core id of an on-chip pointer (R208, R12). -/
def ptrCore (p : Nat) : CoreId := Fin.ofNat 128 (p / 2 ^ 53)

/-- Byte offset of an on-chip pointer. -/
def ptrOff (p : Nat) : Nat := p % 2 ^ 23

/-- Zero fields and limit of an on-chip pointer (R208). -/
def onChipOk (p : Nat) : Bool := p / 2 ^ 23 % 2 ^ 30 == 0 && decide (ptrOff p < spaceLimit (ptrSpace p))

/-- The memory key of a byte of an on-chip space. -/
def onChipKey (sp : Nat) (core : CoreId) (off : Nat) : Nat := sp * 2 ^ 60 + core.val * 2 ^ 53 + off

/-- The group behind an access. -/
def State.whoGroup (s : State) (w : Who) : Option Group :=
  match w.core, w.slot with
  | some c, some g => s.group c g
  | some _, none => none
  | none, _ => none

/-- Does an access by a group overlap a range of one of its copies in flight (R214)? -/
def State.boardHits (s : State) (w : Who) (p n : Nat) : Bool :=
  match w.core, w.slot with
  | some c, some g => (s.core c).board.any fun e => e.slot == g && decide (e.lo < p + n) && decide (p ≤ e.hi)
  | some _, none => false
  | none, _ => false

/-- Read granules of an on-chip space: bytes and poison. -/
def State.chipRead (s : State) (k n : Nat) : List Byte × Bool :=
  (s.bytesAt k n, (spans 64 k n).any fun p => s.isPoison (p.1 / 64))

/-- Write bytes inside one granule of an on-chip space; a part of a poisoned granule stays lost (R361). -/
def State.chipWriteGranule (s : State) (k : Nat) (bs : List Byte) : State :=
  if bs.length < 64 && s.isPoison (k / 64) then s
  else (s.dropPoison (k / 64)).putBytes k bs

/-- Write bytes of an on-chip space. -/
def State.chipWrite (s : State) (k : Nat) (bs : List Byte) : State :=
  (pieces 64 k bs).foldl (fun t p => t.chipWriteGranule p.1 p.2) s

/-- Where a tagged pointer leads: a translated address, or a key of an on-chip space. -/
inductive Place where
  | virt (t : Xlat)
  | chip (key : Nat)
  deriving DecidableEq, Repr

/-- Resolve a tagged pointer for an access of n bytes: the checks of R208 to R211 and R349. The accumulator names a
byte of the accessing group's rows (R210). -/
def resolve (w : Who) (p n : Nat) (a : Acc) (hidden : Bool := false) : X Place := do
  let s ← get
  match ptrSpace p with
  | 0 =>
    faultIf (p / 2 ^ 55 != 0) 0x05 p
    let t ← translate w p a hidden
    pure (.virt t)
  | 1 =>
    faultIf (!onChipOk p) 0x05 p
    faultIf (!(s.ownsUnit w.ctx (ptrCore p) (ptrOff p) && s.ownsUnit w.ctx (ptrCore p) (ptrOff p + n - 1))) 0x07 p
    pure (.chip p)
  | 2 =>
    faultIf (!onChipOk p) 0x05 p
    match w.core, s.whoGroup w with
    | some c, some g =>
      faultIf (ptrCore p != c) 0x05 p
      faultIf (g.rows * 256 ≤ ptrOff p) 0x16 (ptrOff p / 256)
      pure (.chip (onChipKey 2 c (g.rowBase * 256 + ptrOff p)))
    | some _, none => fault 0x05 p
    | none, _ => fault 0x05 p
  | _ => fault 0x05 p

/-- Read at a resolved place: bytes and poison. -/
def readPlace (p n : Nat) (pl : Place) : X (List Byte × Bool) := do
  let s ← get
  match pl with
  | .virt t =>
    let r ← physRead (s.leafKeyRef t.leaf) (leafC t.leaf) p t.pa n
    pure (r.1, r.2 || lbit t.leaf 11)
  | .chip k => pure (s.chipRead k n)

/-- Write at a resolved place. -/
def writePlace (p : Nat) (pl : Place) (bs : List Byte) (cmp : Bool := true) : X Unit := do
  let s ← get
  match pl with
  | .virt t => physWrite (s.leafKeyRef t.leaf) (leafC t.leaf) p t.pa bs cmp
  | .chip k => set (s.chipWrite k bs)

/-- Mark the granule at a resolved place lost. On chip only scratchpad has poison bits (R361). -/
def losePlace (p : Nat) (pl : Place) : X Unit := do
  let s ← get
  match pl with
  | .virt t => losePhys (s.leafKeyRef t.leaf) (leafC t.leaf) p t.pa
  | .chip k => if ptrSpace k = 1 then set (s.addPoison (k / 64)) else pure ()

/-- The place n bytes further. -/
def Place.shift (pl : Place) (n : Nat) : Place :=
  match pl with
  | .virt t => .virt { t with pa := t.pa + n }
  | .chip k => .chip (k + n)

/-- The lowest address of an access in a granule that reads as poisoned (R425). -/
def State.lostAt (s : State) (p n : Nat) (pl : Place) : Nat :=
  ((spans 64 p n).find? fun q => match readPlace q.1 q.2 (pl.shift (q.1 - p)) s with
    | .ok (r, _) => r.2
    | .error _ => true).elim p Prod.fst

/-- The bytes of MemRead (R8), with the scoreboard wait of R214. -/
def memReadBytes (w : Who) (p n : Nat) (a : Acc := .read) : X (List Byte) := do
  let s ← get
  let pl ← resolve w p n a
  waitIf (s.boardHits w p n)
  let r ← readPlace p n pl
  if r.2 then fault 0x08 (s.lostAt p n pl) else pure r.1

/-- MemRead(ptr, n) (R8). -/
def memReadNat (w : Who) (p n : Nat) (a : Acc := .read) : X Nat := do
  let bs ← memReadBytes w p n a
  pure (leNat bs)

/-- MemWrite(ptr, n, bytes) (R8). -/
def memWriteBytes (w : Who) (p : Nat) (bs : List Byte) (a : Acc := .write) : X Unit := do
  let s ← get
  let pl ← resolve w p bs.length a
  waitIf (s.boardHits w p bs.length)
  writePlace p pl bs

/-- MemWrite(ptr, n, v) (R8). -/
def memWriteNat (w : Who) (p n v : Nat) (a : Acc := .write) : X Unit := memWriteBytes w p (leBytes n v) a

/-- Steps 1 to 3 of R208 for a pointer that must lie in spaces 0x0 to `top`. -/
def pointerOk (top p : Nat) : X Unit := do
  faultIf (top < ptrSpace p) 0x05 p
  faultIf (if ptrSpace p = 0 then p / 2 ^ 55 != 0 else !onChipOk p) 0x05 p

/-! ### Taking a fault -/

/-- Are all bytes zero? -/
def allZero (bs : List Byte) : Bool := bs.all (· == 0)

/-- Is n a power of two from lo to hi? -/
def powerOfTwo (lo hi n : Nat) : Bool := lo ≤ n && decide (n ≤ hi) && n != 0 && 2 ^ n.log2 == n

/-- Is a fault queue header valid (R426)? -/
def faultHeaderOk (h : List Byte) : Bool :=
  allZero ((h.drop 13).take 3) && allZero (h.drop 40) && leNat ((h.drop 12).take 1) < 2
    && powerOfTwo 1 65536 (leNat ((h.drop 8).take 4)) && leNat (h.take 8) % 64 == 0 && decide (leNat (h.take 8) < 2 ^ 55)

/-- Write one record into the fault queue of a context; false where the ring is full (R426, R428). -/
def pushFault (x : CtxId) (rcd : List Byte) (stillHeld : Nat) : X Bool := do
  let s ← get
  let w : Who := ⟨x, none, none⟩
  let q := (s.ctx x).desc.faultq.toNat
  faultIf (q / 2 ^ 55 != 0x82 || q % 64 != 0) 0x05 q
  let va := q % 2 ^ 55
  let h ← memReadBytes w va 64 .queue
  faultIf (!faultHeaderOk h) 0x01 va
  let cap := leNat ((h.drop 8).take 4)
  let head := leNat ((h.drop 16).take 8)
  let tail := leNat ((h.drop 24).take 8)
  if cap ≤ (tail + 2 ^ 64 - head) % 2 ^ 64 then pure false
  else
    memWriteBytes w (leNat (h.take 8) + 64 * (tail % cap)) rcd
    memWriteNat w (va + 24) 8 (tail + 1)
    memWriteNat w (va + 32) 8 stillHeld
    pure true

/-- Write held records of a context while there is room (R428). -/
def flushHeld (x : CtxId) : Nat → State → State
  | 0, s => s
  | n + 1, s =>
    match (s.ctx x).faultHeld with
    | [] => s
    | rcd :: rest =>
      match pushFault x rcd rest.length s with
      | .ok (true, s1) => flushHeld x n (s1.onCtx x fun c =>
          { c with faultHeld := rest ++ c.faultUnheld.take 1, faultUnheld := c.faultUnheld.drop 1 })
      | .ok (false, _) => s
      | .error _ => s

/-- Does the fault queue of a context signal MSI-X at a record? It does where SIG cannot be read (R428). -/
def State.faultSignals (s : State) (x : CtxId) : Bool :=
  let va := (s.ctx x).desc.faultq.toNat % 2 ^ 55
  match memReadBytes ⟨x, none, none⟩ va 64 .queue s with
  | .ok (h, _) => !faultHeaderOk h || leNat ((h.drop 12).take 1) % 2 == 1
  | .error _ => true

/-- Hold a record, write what fits, and signal (R428). One that finds 64 records held waits behind them. -/
def State.deliver (s : State) (x : CtxId) (rcd : List Byte) : State :=
  let s1 := s.onCtx x fun c =>
    if c.faultHeld.length < 64 then { c with faultHeld := c.faultHeld ++ [rcd] }
    else { c with faultUnheld := c.faultUnheld ++ [rcd] }
  let s2 := flushHeld x (65 + (s.ctx x).faultUnheld.length) s1
  if s.faultSignals x then { s2 with msi := s2.msi ++ [x.val] } else s2

/-- A fault record (R427). -/
def faultRecord (cause pc va append node launch index src origin seq cycle : Nat) : List Byte :=
  leBytes 8 cause ++ leBytes 8 pc ++ leBytes 8 va ++ leBytes 8 append ++ leBytes 8 node ++ leBytes 4 launch
    ++ leBytes 4 index ++ leBytes 2 src ++ [BitVec.ofNat 8 origin, 0] ++ leBytes 4 seq ++ leBytes 8 cycle

/-- Count a record of a context (R427 SEQ). -/
def State.nextSeq (s : State) (x : CtxId) : Nat × State :=
  let n := (s.ctx x).faultSeq + 1
  (n, s.onCtx x fun c => { c with faultSeq := n })

/-- Deliver a record whose origin is not a role (R427, R261, R421, R434). -/
def State.deliverOther (s : State) (x : CtxId) (origin code va : Nat) : State :=
  let q := s.nextSeq x
  q.2.deliver x (faultRecord code 0 va 0 0 0 0 0 origin q.1 s.cycle.toNat)

/-- CAUSE (R124). -/
def causeWord (code : Nat) (info : BitVec 20) (role : RoleKind) : Word :=
  BitVec.ofNat 64 (code + info.toNat * 2 ^ 8 + (roleIx role).val * 2 ^ 28)

/-- SRC of a record (R427). -/
def srcOf (r : RoleId) : Nat := r.core.val + r.slot.val * 2 ^ 7 + (roleIx r.role).val * 2 ^ 9

/-- Take a fault in a role (R423 to R428): the role's fault registers are written, the role stalls, and a record
goes to the context's fault queue, or is held. `pc` is FAULTPC; `retired` says that the
instruction it names has retired. -/
def State.takeFault (s : State) (r : RoleId) (t : Trap) (pc : Word) (retired : Bool) : State :=
  match s.group r.core r.slot with
  | none => s
  | some g =>
    let cause := causeWord t.code t.info r.role
    let s1 := s.onRole r fun k =>
      { k with stalled := true, cause := cause, faultPc := pc, faultVa := t.va, appendPc := t.appendPc,
               nodeId := t.nodeId, retired := retired, blocked := [], drainAt := none }
    let q := s1.nextSeq g.ctx
    let rcd := faultRecord cause.toNat pc.toNat t.va.toNat t.appendPc.toNat t.nodeId.toNat g.record.launch
      g.record.index (srcOf r) 0 q.1 s.cycle.toNat
    q.2.deliver g.ctx rcd

/-- Return from a fault: the role runs again at pc, with its line fetched afresh unless it stays in it (R430). -/
def State.resumeAt (s : State) (r : RoleId) (pc : Word) : State :=
  s.onRole r fun k =>
    { k with stalled := false, ended := k.ended && pc == k.pc, pc := pc, blocked := [], chained := k.chained && pc == k.pc,
             line := if pc.toNat / 64 = k.pc.toNat / 64 then k.line else [] }

/-! ### The flow of a role -/

/-- COUNT of a link word (R51). -/
def linkCount (w : Nat) : Nat := w / 2 ^ 25 % 16
/-- OWNER of a link word (R51). -/
def linkOwner (w : Nat) : Nat := w / 2 ^ 29 % 8
/-- NEXT of a link word, in lines (R51). -/
def linkNext (w : Nat) : Int := signedOf25 w
where
  /-- SignExt(NEXT, 25). -/
  signedOf25 (w : Nat) : Int := (BitVec.ofNat 25 w).toInt

/-- Next(pc, size) (R56); none is EndOfChain. A successor outside the 55-bit space ends the chain (R51). -/
def nextPc (line : List Nat) (pc : Nat) (size : Nat) : Option Nat :=
  let link := line.headD 0
  let w := pc % 64 / 4
  if w + size ≤ linkCount link then some (pc + 4 * size)
  else if linkNext link = 0 then none
  else
    let a : Int := (pc / 64 * 64 : Nat) + 64 * linkNext link
    if 0 ≤ a && a < 2 ^ 55 then some (a.toNat + 4) else none

/-- Continue at a PC that a transfer of control names; the line is fetched at arrival. -/
def Role.goto (k : Role) (pc : Nat) : Role :=
  { k with pc := BitVec.ofNat 64 pc, ended := false, blocked := [], chained := false,
           line := if pc / 64 = k.pc.toNat / 64 then k.line else [] }

/-- Continue after the instruction at pc, or end the flow at the marker behind it (R56). -/
def Role.follow (k : Role) (pc size : Nat) : Role :=
  match nextPc k.line pc size with
  | some n => { k.goto n with chained := decide (n / 64 ≠ pc / 64) && linkOwner (k.line.headD 0) == 3 }
  | none => { k with pc := BitVec.ofNat 64 (pc + 4 * size), ended := true, blocked := [] }

/-- Scalar register contents without ports: s0 reads zero (R61). -/
def Role.reg (k : Role) (r : SReg) : Word := if r = 0 then 0 else vget k.regs r

/-- Write a scalar register that is no port; s0 ignores writes (R61). -/
def Role.setReg (k : Role) (r : SReg) (v : Word) : Role := if r = 0 then k else { k with regs := vset k.regs r v }

/-- Continue behind the instruction at a PC of a given line. A line that the role was not executing is arrived at anew (R457). -/
def Role.resumeBehind (k : Role) (line : List Nat) (pc size : Nat) : Role :=
  let k1 := ({ k with line := line, pc := BitVec.ofNat 64 pc }).follow pc size
  if pc / 64 = k.pc.toNat / 64 && !k.line.isEmpty then k1 else { k1 with line := [] }

/-- Retire an instruction that does not transfer control: the end of the innermost loop body counts (R114),
otherwise the flow continues (R56). -/
def Role.retire (k : Role) (size : Nat) : Role :=
  let pc := k.pc.toNat
  match k.loops with
  | [] => k.follow pc size
  | top :: rest =>
    if top.stop = k.pc then
      let n := k.reg top.count - 1
      let k1 := k.setReg top.count n
      if n ≠ 0 then k1.goto top.start.toNat else ({ k1 with loops := rest }).follow pc size
    else k.follow pc size

end Sys2Proof.Machine
end

