-- ==== Sys2Proof/Machine/Gen.lean ====
section
/-! DEFINITION. Generators (R155 to R157): the walk, the addresses of its elements and scales, its range; and the
access to single elements in memory (R29, R30, R148). -/

namespace Sys2Proof.Machine

open Sys2Proof

/-- A generator: the walk that a register or a command holds (R155, R335). -/
abbrev Gen := Walk4

/-- Bits [hi:lo] of a generator word, as a number of n bits from lo. -/
def gbits (g : BitVec 512) (lo n : Nat) : Nat := g.toNat / 2 ^ lo % 2 ^ n

/-- The fields of a generator register (R155). -/
def Walk4.ofBits (g : BitVec 512) : Gen :=
  { base := gbits g 0 64
    sizes := [gbits g 64 32, gbits g 96 32, gbits g 128 32, gbits g 160 32]
    strides := [signedOf 32 (gbits g 192 32), signedOf 32 (gbits g 224 32), signedOf 32 (gbits g 256 32),
                signedOf 32 (gbits g 288 32)]
    soff := signedOf 64 (gbits g 320 64)
    sstride := signedOf 32 (gbits g 384 32)
    code := gbits g 416 5
    baxis := gbits g 421 2
    zeroOk := g.toNat / 2 ^ 423 == 0 }

/-- SIZE of an axis. -/
def Walk4.size (g : Gen) (i : Nat) : Nat := g.sizes.getD i 1
/-- STRIDE of an axis. -/
def Walk4.stride (g : Gen) (i : Nat) : Int := g.strides.getD i 0

/-- Validity (R156). -/
def Walk4.valid (g : Gen) : Bool := g.zeroOk && (MemFmt.ofCode g.code).isSome && g.sizes.all fun n => 1 ≤ n

/-- The format; f32 stands in for a reserved code, which no valid generator has. -/
def Walk4.fmt (g : Gen) : MemFmt := (MemFmt.ofCode g.code).getD (.elem .f32)

/-- Wb (R156). -/
def Walk4.wb (g : Gen) : Nat := g.fmt.bits

/-- Is the format one of 16 to 19? -/
def Walk4.scaled (g : Gen) : Bool := g.fmt.scaled

/-- L, the elements of the walk. -/
def Walk4.count (g : Gen) : Nat := g.size 0 * g.size 1 * g.size 2 * g.size 3

/-- The coordinates of element e (R157). -/
def Walk4.coords (g : Gen) (e : Nat) : List Nat :=
  [e % g.size 0, e / g.size 0 % g.size 1, e / (g.size 0 * g.size 1) % g.size 2, e / (g.size 0 * g.size 1 * g.size 2)]

/-- A sum modulo 2^64. -/
def wrap64 (i : Int) : Nat := (i % 2 ^ 64).toNat

/-- Addr(g, e) (R157): byte address and nibble. -/
def Walk4.addr (g : Gen) (e : Nat) : Nat × Nat :=
  let c := g.coords e
  let off : Int := (List.range 4).foldl (fun a i => a + (c.getD i 0 : Nat) * g.stride i) 0
  let bit : Int := off * g.wb
  (wrap64 (g.base + bit.fdiv 8), (bit.fmod 8).toNat / 4)

/-- The line of an element: the mixed-radix index of its coordinates off the block axis (R157). -/
def Walk4.lineOf (g : Gen) (e : Nat) : Nat :=
  let c := g.coords e
  ((List.range 4).foldl (fun (p : Nat × Nat) i =>
    if i = g.baxis then p else (p.1 + p.2 * c.getD i 0, p.2 * g.size i)) (0, 1)).1

/-- ScaleAddr(g, e) (R157). -/
def Walk4.scaleAddr (g : Gen) (e : Nat) : Nat :=
  wrap64 (g.base + g.soff + (g.lineOf e : Nat) * g.sstride + ((g.coords e).getD g.baxis 0 / 8 : Nat))

/-- The block of an element: its line and its position along the block axis. -/
def Walk4.blockOf (g : Gen) (e : Nat) : Nat × Nat := (g.lineOf e, (g.coords e).getD g.baxis 0 / 8)

/-- Lowest and highest byte of the walk, scale bytes included (R191, R214), as an interval of integers. -/
def Walk4.span (g : Gen) : Int × Int :=
  let ends := (List.range 4).foldl (fun (p : Int × Int) i =>
    let d : Int := g.stride i * ((g.size i - 1 : Nat) : Int)
    (p.1 + min d 0, p.2 + max d 0)) (0, 0)
  let lo : Int := g.base + (ends.1 * g.wb).fdiv 8
  let hi : Int := g.base + (ends.2 * g.wb + (g.wb - 1 : Nat)).fdiv 8
  if !g.scaled then (lo, hi)
  else
    let lines : Nat := g.count / g.size g.baxis
    let d : Int := g.sstride * ((lines - 1 : Nat) : Int)
    let s : Int := g.base + g.soff
    (min lo (s + min d 0), max hi (s + max d 0 + ((g.size g.baxis - 1) / 8 : Nat)))

/-- The span as tagged pointers. -/
def Walk4.range (g : Gen) : Nat × Nat := (wrap64 g.span.1, wrap64 g.span.2)

/-- Do two closed intervals of bytes overlap? -/
def meets (a b : Nat × Nat) : Bool := a.1 ≤ b.2 && decide (b.1 ≤ a.2)

/-- The closed interval of n bytes from p. -/
def bytesAt (p n : Nat) : Nat × Nat := (p, p + n - 1)

/-! ### Elements in memory -/

/-- MemRead of n bytes that may cross pages: each page is checked and read in turn. -/
def readRun (w : Who) (p n : Nat) (a : Acc := .read) : X (List Byte) :=
  (spans 65536 p n).foldlM (init := []) fun acc q => do
    let bs ← memReadBytes w q.1 q.2 a
    pure (acc ++ bs)

/-- MemWrite of bytes that may cross pages. -/
def writeRun (w : Who) (p : Nat) (bs : List Byte) (a : Acc := .write) : X Unit :=
  (pieces 65536 p bs).forM fun q => memWriteBytes w q.1 q.2 a

/-- Bytes that an element of a format touches. -/
def fmtBytes (f : MemFmt) : Nat := (f.bits + 7) / 8

/-- The nibble of a byte. -/
def nibbleOf (b n : Nat) : Nat := b / 16 ^ n % 16

/-- A byte with a nibble replaced. -/
def withNibble (b n v : Nat) : Nat := if n = 0 then b / 16 * 16 + v % 16 else b % 16 + 16 * (v % 16)

/-- The stored bits of element e. -/
def Walk4.read (g : Gen) (w : Who) (e : Nat) (a : Acc := .read) : X Nat := do
  let p := g.addr e
  let bs ← readRun w p.1 (fmtBytes g.fmt) a
  pure (if g.wb = 4 then nibbleOf (leNat bs) p.2 else leNat bs)

/-- Store the bits of element e; a nibble leaves the other one of its byte unchanged (R148). -/
def Walk4.write (g : Gen) (w : Who) (e v : Nat) (a : Acc := .write) : X Unit := do
  let p := g.addr e
  if g.wb = 4 then
    let pl ← resolve w p.1 1 a
    waitIf ((← get).boardHits w p.1 1)
    let old ← readPlace p.1 1 pl
    writePlace p.1 pl [BitVec.ofNat 8 (withNibble (leNat old.1) p.2 v)]
  else writeRun w p.1 (leBytes (fmtBytes g.fmt) v) a

/-- Resolve a destination of the copy engine (R209, R210): spaces 0x0 to 0x2, and the core's own weight stack. Virtual
writes reach the hidden backing of a shadowed range (R228). -/
def resolveDest (w : Who) (p n : Nat) : X Place := do
  if ptrSpace p = 3 then
    faultIf (!onChipOk p || w.core != some (ptrCore p)) 0x05 p
    pure (.chip p)
  else resolve w p n .write true

/-- Write bytes through the copy engine, page by page; `cmp` selects the stored form of blocks (R336). -/
def destRun (w : Who) (p : Nat) (bs : List Byte) (cmp : Bool) : X Unit :=
  (pieces 65536 p bs).forM fun q => do
    let pl ← resolveDest w q.1 q.2.length
    writePlace q.1 pl q.2 cmp

/-- Store the bits of element e through the copy engine. -/
def Walk4.put (g : Gen) (w : Who) (e v : Nat) (cmp : Bool) : X Unit := do
  let p := g.addr e
  if g.wb = 4 then
    let pl ← resolveDest w p.1 1
    let old ← readPlace p.1 1 pl
    writePlace p.1 pl [BitVec.ofNat 8 (withNibble (leNat old.1) p.2 v)] cmp
  else destRun w p.1 (leBytes (fmtBytes g.fmt) v) cmp

/-- The scale byte of element e's block. -/
def Walk4.readScale (g : Gen) (w : Who) (e : Nat) (a : Acc := .read) : X Nat := memReadNat w (g.scaleAddr e) 1 a

/-- The value of element e under its scale (R30). -/
def Walk4.value (g : Gen) (w : Who) (e : Nat) (a : Acc := .read) : X Num := do
  let x ← g.read w e a
  if g.scaled then
    let sc ← g.readScale w e a
    pure (applyScale (g.fmt.decode x) sc)
  else pure (g.fmt.decode x)

/-- The space check of R147, R158 and R200: spaces 0x0 and 0x1. -/
def lowSpace (p : Nat) : X Unit := faultIf (1 < ptrSpace p) 0x05 p

/-! ### Block scales (R149) -/

/-- EMAX of an element format of a scaled form (R149). -/
def emax (f : MemFmt) : Nat :=
  match f with
  | .i4s => 2 | .i8s => 6 | .e2m1s => 2 | .e4m3s => 8
  | .elem _ | .i4 | .e2m1x2 | .bmv _ => 0

/-- Is a value NaN or infinite? -/
def notFinite : Num → Bool
  | .nan => true
  | .inf _ => true
  | .fin _ _ _ => false

/-- Floor(Log2 |x|) of a finite value that is not zero. -/
def leadOf : Num → Int
  | .fin _ m e => e + bitLen m - 1
  | .nan => 0
  | .inf _ => 0

/-- The exponent of the largest magnitude of the finite values that are not zero. -/
def maxLead (xs : List Num) : Option Int :=
  xs.foldl (fun a x =>
    match x with
    | .fin _ 0 _ => a
    | .fin _ _ _ => (match a with
      | none => some (leadOf x)
      | some e => some (max e (leadOf x)))
    | .nan => a
    | .inf _ => a) none

/-- The scale, the elements and the flags of one block (R149). A scale of 255 is a NaN write; NV where the block
holds an infinity. -/
def encodeBlock (f : MemFmt) (xs : List Num) : Nat × List (Nat × Flags) × Flags :=
  if xs.any notFinite then
    (255, xs.map fun _ => (0, 0),
      Flags.nan ||| Flags.when (xs.any fun x => notFinite x && !x.isNan) Flags.nv)
  else
    let s : Nat := match maxLead xs with
      | none => 127
      | some e => (max 0 (min 254 (e - emax f + 127))).toNat
    (s, xs.map fun x => f.round .rne (x.scale (127 - (s : Int))), 0)

end Sys2Proof.Machine
end

