-- ==== Sys2Proof/Machine/Operands.lean ====
section
/-! DEFINITION. Operands: scalar registers and queue ports (R61, R62, R290 to R295), and the one frame that every
encoded instruction runs in: checks before issue, operands, body, retirement (R9, R62, R80, R423). -/

namespace Sys2Proof.Machine

open Sys2Proof

/-- The role whose turn it is, with its group. -/
def me : X (RoleId × Group × Role) := do
  let s ← get
  match s.group s.cur.core s.cur.slot with
  | none => throw .wait
  | some g => pure (s.cur, g, g.role s.cur.role)

/-- The identity of the role's accesses. -/
def whoami : X Who := do
  let m ← me
  pure ⟨m.2.1.ctx, some m.1.core, some m.1.slot⟩

/-- The identity under which the part reads and writes queue headers and rings: no scoreboard entry of the group
applies. -/
def Who.part (w : Who) : Who := { w with slot := none }

/-! ### Queues behind the ports -/

/-- Number of a port register: 0 to 3 for p0 to p3, 4 to 7 for q0 to q3 (R62). -/
def portOfReg (r : SReg) : PortName := Fin.ofNat 8 (r.val - 56)

/-- The role that pushes role queue n (R62). -/
def producer (n : Nat) : RoleKind := if n ≤ 1 then .fetch else if n = 2 then .compute else .drain
/-- The role that pops role queue n (R62). -/
def consumer (n : Nat) : RoleKind := if n ≤ 1 then .compute else if n = 2 then .drain else .fetch

/-- May the role use the port in a direction (R62, R294)? -/
def portUsable (k : RoleKind) (r : Role) (p : PortName) (push : Bool) : Bool :=
  if p.val < 4 then
    match vget r.ports (Fin.ofNat 4 p.val) with
    | .unbound => false
    | .bound _ d => d == push
  else if push then producer (p.val - 4) == k else consumer (p.val - 4) == k

/-- A live bindable queue of a context (R293). -/
def Context.bindq (x : Context) (va : Nat) : Option BindQ := x.bindqs.find? fun q => q.va == va

/-- Replace a live bindable queue. -/
def Context.setBindq (x : Context) (q : BindQ) : Context :=
  { x with bindqs := x.bindqs.map fun y => if y.va = q.va then q else y }

/-- The queue behind a port. -/
def portQueue (id : RoleId) (x : CtxId) (r : Role) (p : PortName) : QueueName :=
  if p.val < 4 then
    match vget r.ports (Fin.ofNat 4 p.val) with
    | .unbound => .bindable x 0
    | .bound va _ => .bindable x va
  else .role id.core id.slot (Fin.ofNat 4 p.val)

/-- Entries that a queue holds. -/
def State.queueLen (s : State) (q : QueueName) : Nat :=
  match q with
  | .role c g n => (match s.group c g with
    | none => 0
    | some x => (vget x.roleq n).length)
  | .bindable x va => (match (s.ctx x).bindq va with
    | none => 0
    | some b => b.tail - b.head)

/-- The cycle of a queue's latest push or pop. -/
def State.queueMoved (s : State) (q : QueueName) : Nat :=
  match q with
  | .role c g n => (match s.group c g with
    | none => 0
    | some x => vget x.roleqMoved n)
  | .bindable x va => (match (s.ctx x).bindq va with
    | none => 0
    | some b => b.moved)

/-- Entries that a queue can hold: 16 for a role queue (R290), CAP for a bindable one (R292). -/
def State.queueCap (s : State) (q : QueueName) : Nat :=
  match q with
  | .role _ _ _ => 16
  | .bindable x va => (match (s.ctx x).bindq va with
    | none => 0
    | some b => b.cap)

/-- The head entry of a queue; waits where there is none. -/
def queuePeek (w : Who) (q : QueueName) : X Word := do
  let s ← get
  match q with
  | .role c g n =>
    match s.group c g with
    | none => throw .wait
    | some x =>
      match vget x.roleq n with
      | [] => throw .wait
      | v :: _ => pure v
  | .bindable x va =>
    match (s.ctx x).bindq va with
    | none => throw .wait
    | some b =>
      if b.tail = b.head then throw .wait
      else
        let v ← memReadNat w.part (b.base + 8 * (b.head % b.cap)) 8 .queue
        pure (BitVec.ofNat 64 v)

/-- Remove the head entry. -/
def State.queueDrop (s : State) (q : QueueName) : State :=
  match q with
  | .role c g n => s.onGroup c g fun x =>
      { x with roleq := vset x.roleq n ((vget x.roleq n).drop 1), roleqMoved := vset x.roleqMoved n s.cycle.toNat }
  | .bindable x va => s.onCtx x fun c =>
    match c.bindq va with
    | none => c
    | some b => c.setBindq { b with head := b.head + 1, moved := s.cycle.toNat }

/-- Pop one entry (R290, R295). -/
def queuePop (w : Who) (q : QueueName) : X Word := do
  let v ← queuePeek w q
  modify fun s => s.queueDrop q
  pure v

/-- Push one entry; the caller has made sure that there is room. -/
def queuePush (w : Who) (q : QueueName) (v : Word) : X Unit := do
  let s ← get
  match q with
  | .role c g n => set (s.onGroup c g fun x =>
      { x with roleq := vset x.roleq n (vget x.roleq n ++ [v]), roleqMoved := vset x.roleqMoved n s.cycle.toNat })
  | .bindable x va =>
    match (s.ctx x).bindq va with
    | none => throw .wait
    | some b =>
      memWriteNat w.part (b.base + 8 * (b.tail % b.cap)) 8 v.toNat .queueStore
      modify fun s => s.onCtx x fun c => c.setBindq { b with tail := b.tail + 1, moved := s.cycle.toNat }

/-! ### Register operands -/

/-- Queue misuse (R62): the first register of the fields that names a port wrongly. -/
def misuse (k : RoleKind) (r : Role) (srcs dsts : List SReg) : Option SReg :=
  ((srcs.map fun x => (x, false)) ++ dsts.map fun x => (x, true)).findSome? fun p =>
    if p.1.isPort && (!portUsable k r (portOfReg p.1) p.2 || (srcs.contains p.1 && dsts.contains p.1)) then some p.1
    else none

/-- The check of queue misuse (R62, R80 step 7). -/
def checkMisuse (srcs dsts : List SReg) : X Unit := do
  let m ← me
  match misuse m.1.role m.2.2 srcs dsts with
  | none => pure ()
  | some r => fault 0x0D r.val

/-- Matrix results of the role that are still to be written (R145, R171). -/
def State.resultsPending (s : State) (id : RoleId) : Bool :=
  (s.core id.core).array.any fun e => e.slot == id.slot && e.role == id.role && e.copy.isNone

/-- The release side of an edge (R146, R219): every earlier access of the role has been performed. What a step of a role does
is performed with the step (log 3); its matrix results are what may be outstanding. -/
def performed : X Unit := do
  let m ← me
  waitIf ((← get).resultsPending m.1)

/-- Room for the pushes, each of which is a release (R62, R146, R295). -/
def checkRoom (dsts : List SReg) : X Unit := do
  let m ← me
  let s ← get
  dsts.forM fun d =>
    let q := portQueue m.1 m.2.1.ctx m.2.2 (portOfReg d)
    waitIf (d.isPort && (decide (s.queueCap q ≤ s.queueLen q) || s.resultsPending m.1))

/-- Read a source field: a port pops (R62). -/
def readSrc (r : SReg) : X Word := do
  let m ← me
  if r.isPort then queuePop ⟨m.2.1.ctx, some m.1.core, some m.1.slot⟩ (portQueue m.1 m.2.1.ctx m.2.2 (portOfReg r))
  else pure (m.2.2.reg r)

/-- Read the source fields in order. -/
def readSrcs : List SReg → X (List Word)
  | [] => pure []
  | r :: rs => do
    let v ← readSrc r
    let vs ← readSrcs rs
    pure (v :: vs)

/-- Write a destination field: a port pushes (R62), s0 discards (R96). -/
def writeDst (d : SReg) (v : Word) : X Unit := do
  let m ← me
  if d.isPort then
    queuePush ⟨m.2.1.ctx, some m.1.core, some m.1.slot⟩ (portQueue m.1 m.2.1.ctx m.2.2 (portOfReg d)) v
  else modify fun s => s.onRole m.1 fun k => k.setReg d v

/-- Is a queue empty, where a role waits to pop it, or full, where it waits to push it (R306)? -/
def State.queueStuck (s : State) (q : QueueName) (push : Bool) : Bool :=
  if push then decide (s.queueCap q ≤ s.queueLen q) else s.queueLen q == 0

/-- The queues that an instruction with these operands is blocked on (R306), each since now. -/
def State.blockedOn (s : State) (srcs dsts : List SReg) : List QueueWait :=
  match s.group s.cur.core s.cur.slot with
  | none => []
  | some g =>
    let r := g.role s.cur.role
    (((srcs.map fun x => (x, false)) ++ dsts.map fun x => (x, true)).filterMap fun p =>
      let q := portQueue s.cur g.ctx r (portOfReg p.1)
      if p.1.isPort && s.queueStuck q p.2 then some ⟨q, p.2, s.cycle.toNat⟩ else none)

/-- A role that waits: nothing changes but the notes of the queues it is blocked on, each since when (R306, R307). -/
def State.noteWait (s : State) (srcs dsts : List SReg) : State :=
  s.onRole s.cur fun k =>
    { k with blocked := (s.blockedOn srcs dsts).map fun w =>
        (k.blocked.find? fun v => v.queue == w.queue && v.push == w.push).getD w }

/-- The bindings of a role to bindable queues end (R307); `since` is the cycle from which on the role has been blocked, now if it
is not. -/
def State.leaveQueues (s : State) (x : CtxId) (since : Nat) (bs : List PortBinding) : State :=
  bs.foldl (fun t b =>
    match b with
    | .unbound => t
    | .bound va _ => t.onCtx x fun c =>
      match c.bindq va with
      | none => c
      | some q => c.setBindq { q with left := max q.left since }) s

/-! ### The frame of an instruction -/

/-- Where a role continues after an instruction. -/
inductive Flow where
  /-- In sequence, the loop counting this retirement (R56, R114). -/
  | seq
  /-- At a target; a transfer of control. -/
  | goto (pc : Nat)
  /-- After the instruction of the given size at pc (the skipped body of R114). -/
  | after (line : List Nat) (pc size : Nat)
  /-- Retired, and then the fault is delivered (R118). -/
  | retiredFault (t : Trap)
  /-- A fault at another instruction, to which the flow has come (R114). -/
  | faultAt (t : Trap) (pc : Nat)
  /-- The role or its group has left; nothing more is written to it. -/
  | gone
  deriving DecidableEq, Repr

/-- Continue a role after an instruction of the given size. -/
def State.continue_ (s : State) (size : Nat) (f : Flow) : State :=
  match f with
  | .seq => s.onRole s.cur fun k => { k.retire size with blocked := [] }
  | .goto pc => s.onRole s.cur fun k => k.goto pc
  | .after line pc sz => s.onRole s.cur fun k => k.resumeBehind line pc sz
  | .retiredFault t =>
    (match s.role s.cur with
    | none => s
    | some k => (s.onRole s.cur fun k => k.retire size).takeFault s.cur t k.pc true)
  | .faultAt t pc => (s.onRole s.cur fun k => k.goto pc).takeFault s.cur t (BitVec.ofNat 64 pc) false
  | .gone => s

/-- The PC of the role whose turn it is. -/
def State.curPc (s : State) : Word :=
  match s.role s.cur with
  | none => 0
  | some k => k.pc

/-- The answer of a body: its next state, the fault taken, or the wait. `s0` is the state before the instruction, `s1`
the one a fault keeps: pops stay taken (R423). -/
def finish (s0 s1 : State) (size : Nat) (srcs dsts : List SReg) (x : Except Stop (Flow × State)) :
    Host.Outcome State Fault Refusal :=
  match x with
  | .ok (f, s2) => .next (s2.continue_ size f)
  | .error (.trap t keep) => .next ((keep.getD s1).takeFault s0.cur t s0.curPc false)
  | .error .wait => .next (s0.noteWait srcs dsts)
  | .error (.ask f) => .next ((f s0).noteWait srcs dsts)
  | .error (.halt e) => .fault e

/-- An encoded instruction: its checks before issue, its operands in field order, its body (R62, R80). -/
def instr (size : Nat) (srcs dsts : List SReg) (pre : X Unit) (body : List Word → X Flow) (s : State) :
    Host.Outcome State Fault Refusal :=
  match (do pre; checkMisuse srcs dsts; checkRoom dsts; readSrcs srcs) s with
  | .ok (vs, s1) => finish s s1 size srcs dsts (body vs s1)
  | .error e => finish s s size srcs dsts (.error e)

/-- The value of source i of a body. -/
def arg (vs : List Word) (i : Nat) : Word := vs.getD i 0

/-- An instruction that continues in sequence. -/
def seqBody (b : List Word → X Unit) (vs : List Word) : X Flow := do
  b vs
  pure .seq

/-- No check of its own before issue. -/
def noPre : X Unit := pure ()

/-- An instruction that only the compute role may issue (R81). -/
def computeOnly : X Unit := do
  let m ← me
  faultIf (m.1.role != .compute) 0x01 0

/-- An instruction or CSR that needs system privilege (R80 step 5, R234); FAULTVA is the CSR number, or 0. -/
def needSys (va : Nat) : X Unit := do
  let m ← me
  let s ← get
  faultIf (!(s.ctx m.2.1.ctx).desc.sys) 0x03 va

end Sys2Proof.Machine
end

