-- ==== Sys2Proof/Machine/Rows.lean ====
section
/-! DEFINITION. Accumulator rows as vector registers (R64, R126, R127, R145), the active count of a predicate (R128),
and what arithmetic reports: FLAGS (R46, R47) and the first-NaN record (R48, R49). -/

namespace Sys2Proof.Machine

open Sys2Proof

/-- The tagged pointer of register v of a group on a core (R210). -/
def rowPtr (c : CoreId) (v : Nat) : Nat := 2 * 2 ^ 60 + c.val * 2 ^ 53 + v * 256

/-- The memory key of register v of a group. -/
def rowKeyOf (c : CoreId) (g : Group) (v : Nat) : Nat := onChipKey 2 c ((g.rowBase + v) * 256)

/-- The register check (R64): the lowest register of the fields at or beyond the allocation. A field is a first
register and a number of registers. -/
def needRows (fields : List (Nat × Nat)) : X Unit := do
  let m ← me
  let bad := fields.filterMap fun f => if m.2.1.rows < f.1 + f.2 && f.2 != 0 then some (max f.1 m.2.1.rows) else none
  match bad with
  | [] => pure ()
  | x :: r => fault 0x16 (r.foldl min x)

/-- A row access waits for the role's own matrix results, and for copies in flight over the rows (R145, R214). -/
def rowsReady (fields : List (Nat × Nat)) : X Unit := do
  let m ← me
  let s ← get
  let w : Who := ⟨m.2.1.ctx, some m.1.core, some m.1.slot⟩
  waitIf (s.resultsPending m.1 || fields.any fun f => s.boardHits w (rowPtr m.1.core f.1) (f.2 * 256))

/-- Cut bytes into n little-endian numbers of k bytes. -/
def lanesOf (k : Nat) : Nat → List Byte → List Nat
  | 0, _ => []
  | n + 1, bs => leNat (bs.take k) :: lanesOf k n (bs.drop k)

/-- The first n elements of a type from register v on (R126). -/
def readElems (v n : Nat) (t : ElemTy) : X (List Nat) := do
  let m ← me
  let s ← get
  pure (lanesOf t.laneBytes n (s.bytesAt (rowKeyOf m.1.core m.2.1 v) (n * t.laneBytes)))

/-- Write elements of a type from element i of register v on. -/
def writeElems (v i : Nat) (t : ElemTy) (xs : List Nat) : X Unit := do
  let m ← me
  modify fun s => s.chipWrite (rowKeyOf m.1.core m.2.1 v + i * t.laneBytes) (xs.flatMap (leBytes t.laneBytes))

/-- ActiveCount(k, W, n) (R128). -/
def activeCount (g : Group) (k : KReg) (w n : Nat) : Nat :=
  if k = 0 then n
  else
    let p := vget g.preds k
    let bytes := p.count * (match p.width with | .w8 => 8 | .w16 => 16 | .w32 => 32) / 8
    min n (bytes * 8 / w)

/-- Replace the low n bits of the bytes at a key of an on-chip space; the other bits of the last byte stay. -/
def State.chipBits (s : State) (k n v : Nat) : State :=
  let len := (n + 7) / 8
  let old := leNat (s.bytesAt k len)
  s.chipWrite k (leBytes len (old / 2 ^ n * 2 ^ n + v % 2 ^ n))

/-! ### Flags and NaNs -/

/-- Where a NaN was written (R48). -/
structure NanSite where
  unit : Nat
  pos1 : Nat
  pos2 : Nat
  fmtA : Nat
  fmtB : Nat
  fmtD : Nat
  deferred : Bool
  deriving DecidableEq, Repr

/-- NANREC of a write (R48). -/
def nanWord (c : CoreId) (produced : Bool) (n : NanSite) : Word :=
  BitVec.ofNat 64 (1 + (if produced then 0 else 2) + n.unit * 2 ^ 2 + (if n.deferred then 2 ^ 4 else 0) + c.val * 2 ^ 5
    + n.pos1 % 2 ^ 11 * 2 ^ 12 + n.pos2 % 2 ^ 9 * 2 ^ 23 + n.fmtA * 2 ^ 32 + n.fmtB * 2 ^ 37 + n.fmtD * 2 ^ 42)

/-- Set flags of a group (R46). -/
def Group.raise (g : Group) (f : Flags) : Group := { g with flags := g.flags ||| f }

/-- Report the first NaN write, unless the record holds one (R48). -/
def Group.noteNan (g : Group) (c : CoreId) (pc : Word) (f : Flags) (n : NanSite) : Group :=
  if f.hasNan && !g.nanrec.getLsbD 0 then
    { g with nanrec := nanWord c (f.hasNv) n, nanrecPc := pc &&& BitVec.ofNat 64 (2 ^ 55 - 1) }
  else g

/-- The flags of a list of results. -/
def allFlags (rs : List (Nat × Flags)) : Flags := rs.foldl (fun a r => a ||| r.2) 0

/-- The first result that is a NaN write, with its position (R49). -/
def firstNan : Nat → List (Nat × Flags) → Option (Nat × Flags)
  | _, [] => none
  | i, r :: rs => if r.2.hasNan then some (i, r.2) else firstNan (i + 1) rs

/-- Report the results of a vector instruction of the role: flags, and the first NaN by register and lane. -/
def reportVector (d : Nat) (t : ElemTy) (fmtA fmtB : Nat) (extra : Flags) (rs : List (Nat × Flags)) : X Unit := do
  let m ← me
  let per := 256 / t.laneBytes
  modify fun s => s.onGroup m.1.core m.1.slot fun g =>
    let g1 := g.raise (allFlags rs ||| extra)
    match firstNan 0 rs with
    | none => g1
    | some (i, f) => g1.noteNan m.1.core m.2.2.pc f ⟨0, d + i / per, i % per, fmtA, fmtB, t.code, false⟩

end Sys2Proof.Machine
end

