-- ==== Sys2Proof/Machine/Demand.lean ====
section
/-! DEFINITION. The demand walker (R174 to R196, R455): nodes and their references, index maps, needed boxes, the
arena, what a node computes, forces, and the check of writes against unmaterialized ranges (R191). -/

namespace Sys2Proof.Machine

open Sys2Proof

/-- The group that a demand runs for, and the boxes that the demand in progress uses, latest first (R185, R187). -/
structure Home where
  core : CoreId
  slot : SlotId
  used : List Nat := []
  deriving DecidableEq, Repr

/-- The group of a demand. -/
def homeGroup (h : Home) : X Group := do
  match (← get).group h.core h.slot with
  | none => throw .wait
  | some g => pure g

/-- The walker's accesses are those of the group's role (R215). -/
def homeWho (h : Home) : X Who := do
  let g ← homeGroup h
  pure ⟨g.ctx, some h.core, some h.slot⟩

/-- Update the tile state of a group. -/
def onTile (h : Home) (f : Tile → Tile) : X Unit :=
  modify fun s => s.onGroup h.core h.slot fun g => { g with tile := f g.tile }

/-- Nodes that the group may have (R174). -/
def Group.nodeLimit (g : Group) : Nat := 32 * g.nodeBlocks.length

/-- Tagged pointer to the arena's lower bound (R269). -/
def arenaPtr (h : Home) (g : Group) : Nat := 2 ^ 60 + h.core.val * 2 ^ 53 + g.unitBase * 2 ^ 16

/-- Bytes of the arena. -/
def Group.arenaSize (g : Group) : Nat := g.units * 2 ^ 16

/-! ### Boxes and coordinates -/

/-- Coordinate i of a list. -/
def co (c : List Nat) (i : Nat) : Nat := c.getD i 0

/-- Elements of extents. -/
def volume (ext : List Nat) : Nat := ext.foldl (· * ·) 1

/-- Coordinates of element i of dense extents (R186). -/
def unflat (ext : List Nat) (i : Nat) : List Nat :=
  let a := max 1 (co ext 0)
  let b := max 1 (co ext 1)
  let c := max 1 (co ext 2)
  [i % a, i / a % b, i / (a * b) % c, i / (a * b * c)]

/-- Element offset of coordinates in dense extents (R186). -/
def flat (ext c : List Nat) : Nat :=
  ((co c 3 * co ext 2 + co c 2) * co ext 1 + co c 1) * co ext 0 + co c 0

/-- Coordinates plus an origin. -/
def plus (a b : List Nat) : List Nat := (List.range 4).map fun i => co a i + co b i

/-- Coordinates relative to an origin. -/
def minus (a b : List Nat) : List Nat := (List.range 4).map fun i => co a i - co b i

/-- A box within iteration or output coordinates. -/
structure Span4 where
  org : List Nat
  ext : List Nat
  deriving DecidableEq, Repr

/-- Does a box contain another one? -/
def Span4.contains (a b : Span4) : Bool :=
  (List.range 4).all fun i => co a.org i ≤ co b.org i && decide (co b.org i + co b.ext i ≤ co a.org i + co a.ext i)

/-- The bounding box of two boxes. -/
def Span4.join (a b : Span4) : Span4 :=
  let lo := (List.range 4).map fun i => min (co a.org i) (co b.org i)
  ⟨lo, (List.range 4).map fun i => max (co a.org i + co a.ext i) (co b.org i + co b.ext i) - co lo i⟩

/-- A materialized box as a region. -/
def Box.span (b : Box) : Span4 := ⟨b.org, b.ext⟩

/-- Output extents of a node (R179). -/
def Node.out (n : Node) : List Nat :=
  if n.op = 1 ∨ n.op = 3 then [co n.ext 0, co n.ext 1, 1, co n.ext 3] else n.ext

/-- The full extent of a node. -/
def Node.full (n : Node) : Span4 := ⟨[0, 0, 0, 0], n.out⟩

/-- Bytes of a box of a node in the arena. -/
def boxBytes (t : ElemTy) (ext : List Nat) : Nat := volume ext * t.laneBytes

/-- A source of a node. -/
def Node.src (n : Node) (i : Nat) : NodeSrc := n.srcs.getD i .none

/-! ### Index maps (R180) -/

/-- A signed field of a map. -/
def mapInt (m : BitVec 512) (byte bits : Nat) : Int := signedOf bits (gbits m (8 * byte) bits)

/-- G of a map. -/
def mapGathers (m : BitVec 512) : Bool := gbits m 448 1 == 1
/-- GAXIS of a map. -/
def mapGaxis (m : BitVec 512) : Nat := gbits m 449 2
/-- DIV of a map. -/
def mapDiv (m : BitVec 512) (r : Nat) : Nat := gbits m (8 * (48 + 2 * r)) 16

/-- The source coordinate of axis r that an iteration point reads, before any gather (R180). -/
def mapAxis (m : BitVec 512) (c : List Int) (r : Nat) : Int :=
  let a := (List.range 4).foldl (fun x k => x + mapInt m (2 * (4 * r + k)) 16 * c.getD k 0) (mapInt m (32 + 4 * r) 32)
  a.fdiv (max (mapDiv m r) 1)

/-- The source coordinates of an iteration point. -/
def mapPoint (m : BitVec 512) (c : List Nat) : List Int :=
  (List.range 4).map fun r => mapAxis m (c.map Int.ofNat) r

/-- The corners of a box of iteration points (R182). -/
def corners (b : Span4) : List (List Nat) :=
  (List.range 16).map fun k => (List.range 4).map fun i =>
    if k / 2 ^ i % 2 = 0 then co b.org i else co b.org i + co b.ext i - 1

/-- Smallest and largest source coordinate of each axis that a box of iteration points reads. -/
def mapRange (m : BitVec 512) (b : Span4) : List (Int × Int) :=
  let ps := (corners b).map (mapPoint m)
  (List.range 4).map fun r =>
    let xs := ps.map fun p => p.getD r 0
    (xs.foldl min (xs.headD 0), xs.foldl max (xs.headD 0))

/-- The iteration points of a box of outputs: all of axis 2 where the node sums along it (R179). -/
def Node.points (n : Node) (b : Span4) : Span4 :=
  if n.op = 1 ∨ n.op = 3 then ⟨[co b.org 0, co b.org 1, 0, co b.org 3], [co b.ext 0, co b.ext 1, co n.ext 2, co b.ext 3]⟩
  else b

/-! ### References (R176, R177) -/

/-- Is a node named by a handle or by a live node? -/
def Tile.referenced (t : Tile) (n : Nat) : Bool :=
  t.handles.toList.contains (some n) || t.nodes.any fun p => p.2.srcs.contains (.node n)

/-- Free the unreferenced nodes, oldest first, each freeing what it alone referred to (R176). -/
def Tile.freeDead : Nat → Tile → Tile
  | 0, t => t
  | f + 1, t =>
    let dead := t.nodes.filter fun p => !t.referenced p.1
    match dead with
    | [] => t
    | p :: r =>
      let oldest := r.foldl (fun a b => if b.2.age < a.2.age then b else a) p
      Tile.freeDead f { t with nodes := SMap.del t.nodes oldest.1 }

/-- A handle register's pin goes to a box, or ends (R187, R201): a box of a Full node whose last pin ends is released unless it is
held (R177). -/
def Tile.movePin (t : Tile) (h : HReg) (box : Option (Nat × Nat)) : Tile :=
  { t with nodes := t.nodes.map fun p =>
      let goal := fun (b : Box) => box == some (p.1, b.seq)
      let ends := fun (b : Box) => p.2.state == .full && b.pins.contains h && !goal b && !b.held && b.pins.all (· == h)
      (p.1, { p.2 with boxes := (p.2.boxes.filter fun b => !ends b).map fun b =>
        { b with pins := (if goal b then [h] else []) ++ b.pins.filter (· != h) } }) }

/-- End the pins of a handle register (R187). -/
def Tile.unpin (t : Tile) (h : HReg) : Tile := t.movePin h none

/-- Write a handle register (R175, R176). -/
def Tile.setHandle (t : Tile) (h : HReg) (n : Option Nat) : Tile :=
  let u := t.unpin h
  Tile.freeDead 513 { u with handles := vset u.handles h n }

/-- Make a node Full: its full-extent box is held, its other boxes go unless pinned, its sources are dropped (R177). -/
def Tile.makeFull (t : Tile) (n : Nat) : Tile :=
  match SMap.get t.nodes n with
  | none => t
  | some d =>
    let bs := d.boxes.map fun b => { b with held := b.held || b.span == d.full }
    let kept := bs.filter fun b => b.held || !b.pins.isEmpty
    let off := match kept.find? fun b => b.held with
      | some b => b.off
      | none => d.hoff
    let full := { d with state := .full, boxes := kept, srcs := [.none, .none, .none], hoff := off }
    Tile.freeDead 513 { t with nodes := SMap.set t.nodes n full }

/-! ### The arena (R186, R187) -/

/-- Granules of n bytes. -/
def granules (n : Nat) : Nat := (n + 63) / 64

/-- The boxes that lie in the arena: byte offset and granules. -/
def Tile.placed (t : Tile) : List (Nat × Nat) :=
  t.nodes.flatMap fun p => p.2.boxes.map fun b => (b.off, granules (boxBytes p.2.ty b.ext))

/-- The lowest offset with a free run of the given granules (R186). -/
def Tile.findRun (t : Tile) (size need : Nat) : Option Nat :=
  let used := t.placed
  let fits := fun (o : Nat) => decide (o + 64 * need ≤ size) &&
    used.all fun u => decide (o + 64 * need ≤ u.1) || decide (u.1 + 64 * u.2 ≤ o)
  let cands := (0 :: used.map fun u => u.1 + 64 * u.2).filter fits
  match cands with
  | [] => none
  | c :: r => some (r.foldl min c)

/-- Remove a box; a node without boxes is Pending again (R177). -/
def Tile.dropBox (t : Tile) (n seq : Nat) : Tile :=
  match SMap.get t.nodes n with
  | none => t
  | some d =>
    let bs := d.boxes.filter fun b => b.seq != seq
    let d1 := { d with boxes := bs, state := if bs.isEmpty && d.state == .partly then .pending else d.state }
    { t with nodes := SMap.set t.nodes n d1 }

/-- The oldest box among some: its node and its place in the order of materialization. -/
def oldestBox (bs : List (Nat × Box)) : Option (Nat × Nat) :=
  match bs with
  | [] => none
  | b :: r =>
    let o := r.foldl (fun x y => if y.2.seq < x.2.seq then y else x) b
    some (o.1, o.2.seq)

/-- All boxes with their nodes. -/
def Tile.boxes (t : Tile) : List (Nat × Box) := t.nodes.flatMap fun p => p.2.boxes.map fun b => (p.1, b)

/-- NODEID (R195). -/
def nodeId (n age src : Nat) (gath : Bool) : Word :=
  BitVec.ofNat 64 (n + src * 2 ^ 9 + (if gath then 2 ^ 11 else 0) + age * 2 ^ 12 + 2 ^ 63)

/-- Attribute a fault to a node and one of its sources (R194, R195). -/
def late {α : Type} (n : Nat) (d : Node) (src : Nat) (gath : Bool) (x : X α) : X α := fun s =>
  match x s with
  | .error (.trap t k) => .error (.trap { t with appendPc := d.apc, nodeId := nodeId n d.age src gath } k)
  | r => r

/-- Find room, evicting boxes that are neither pinned, held nor in use, oldest first (R187). -/
def allocate (h : Home) (need : Nat) (inUse : List Nat) : Nat → X Nat
  | 0 => fault 0x0C 0
  | f + 1 => do
    let g ← homeGroup h
    match g.tile.findRun g.arenaSize need with
    | some o => pure o
    | none =>
      match oldestBox (g.tile.boxes.filter fun b => b.2.pins.isEmpty && !b.2.held && !inUse.contains b.2.seq) with
      | none => fault 0x0C 0
      | some v =>
        onTile h fun t => { t.dropBox v.1 v.2 with evictions := t.evictions + 1 }
        allocate h need inUse f

/-- A node of the group; a demand names only live ones. -/
def liveNode (h : Home) (n : Nat) : X Node := do
  match SMap.get (← homeGroup h).tile.nodes n with
  | none => fault 0x01 0
  | some d => pure d

/-- Give a node a new box, releasing its oldest one before a fifth (R186). -/
def newBox (h : Home) (n : Nat) (b : Span4) (inUse : List Nat) : X Box := do
  let d0 ← liveNode h n
  (if 4 ≤ d0.boxes.length then
    match oldestBox ((d0.boxes.filter fun b => b.pins.isEmpty && !b.held).map fun b => (n, b)) with
    | none => late n d0 3 false (fault 0x0C 0)
    | some v => onTile h fun t => t.dropBox v.1 v.2
  else pure ())
  let d ← liveNode h n
  let off ← late n d 3 false (allocate h (granules (boxBytes d.ty b.ext)) inUse 2050)
  let g ← homeGroup h
  pure ⟨g.tile.boxSeq, b.org, b.ext, off, [], false⟩

/-- Enter a box that has been filled. -/
def addBox (h : Home) (n : Nat) (b : Box) : X Unit :=
  onTile h fun t =>
    match SMap.get t.nodes n with
    | none => t
    | some d =>
      let d1 := { d with boxes := d.boxes ++ [b], state := if d.state = .full then .full else .partly }
      { t with boxSeq := t.boxSeq + 1, nodes := SMap.set t.nodes n d1 }

/-- Tagged pointer to an element of a box. -/
def boxElem (h : Home) (g : Group) (t : ElemTy) (b : Box) (c : List Nat) : Nat :=
  arenaPtr h g + b.off + flat b.ext (minus c b.org) * t.laneBytes

/-- The encoding of an element of a box of a node, of an e2m1 element [3:0] (R27). -/
def boxRead (h : Home) (d : Node) (b : Box) (c : List Nat) : X Nat := do
  let v ← memReadNat (← homeWho h) (boxElem h (← homeGroup h) d.ty b c) d.ty.laneBytes
  pure (d.ty.pattern v)

/-- The box that a consumer reads an element from (R185): the held box of a Full node, else the one that the demand uses. -/
def Node.boxFor (d : Node) (used : List Nat) (c : List Nat) : Option Box :=
  let holds := fun (b : Box) => b.span.contains ⟨c, [1, 1, 1, 1]⟩
  if d.state = .full then d.boxes.find? fun b => b.held && holds b
  else used.findSome? fun q => d.boxes.find? fun b => b.seq == q && holds b

/-- The encoding of an element of a node. -/
def nodeElem (h : Home) (n : Nat) (c : List Nat) : X Nat := do
  let d ← liveNode h n
  match d.boxFor h.used c with
  | none => fault 0x05 0
  | some b => boxRead h d b c

/-! ### Sources -/

/-- Extents of a source (R181). -/
def srcExtents (h : Home) (x : NodeSrc) : X (List Nat) := do
  match x with
  | .none => pure [1, 1, 1, 1]
  | .node n => pure (← liveNode h n).out
  | .gen g => pure (Walk4.ofBits g).sizes

/-- The memory format of a source's elements; a node's is its type. -/
def srcFmt (h : Home) (x : NodeSrc) : X MemFmt := do
  match x with
  | .none => pure (.elem .f32)
  | .node n => pure (.elem (← liveNode h n).ty)
  | .gen g => pure (Walk4.ofBits g).fmt

/-- Is the y source of a matmul a generator that names slabs in place (R188)? -/
def inPlace (x : NodeSrc) : Bool :=
  match x with
  | .gen g => ptrSpace (Walk4.ofBits g).base == 3
  | .none => false
  | .node _ => false

/-- The B operand that an in-place generator names (R188). -/
def inPlaceOperand (g : Gen) : BOperand := ⟨g.fmt, g.size 0, g.size 1, false⟩

/-- The encoding of a source element at a coordinate, and its scale byte where the format has one. `slabs` says that the
source is a matmul's y, the only one that may name slabs in place; elsewhere space 0x3 raises space (R209). -/
def srcRaw (h : Home) (slabs : Bool) (x : NodeSrc) (c : List Nat) : X (Nat × Option Nat) := do
  let w ← homeWho h
  match x with
  | .none => pure (0, none)
  | .node n => pure (← nodeElem h n c, none)
  | .gen gb =>
    let g := Walk4.ofBits gb
    if slabs ∧ ptrSpace g.base = 3 then
      let b := inPlaceOperand g
      let area := onChipKey 3 h.core (co c 1 * 2 ^ 15 + ptrOff g.base)
      let at_ := area + co c 0 * b.fmt.bits / 8
      let s ← get
      waitIf (s.boardHits w area b.cb)
      let byte := leNat (s.bytesAt at_ (fmtBytes b.fmt))
      let v := if b.fmt.bits = 4 then nibbleOf byte (co c 0 % 2) else byte
      pure (v, if b.fmt.scaled then some (s.byteAt (area + b.so + co c 0 / 8)).toNat else none)
    else
      let e := flat g.sizes c
      let v ← g.read w e
      if g.scaled then
        let sc ← g.readScale w e
        pure (v, some sc)
      else pure (v, none)

/-- The value of a raw source element (R30). -/
def rawValue (f : MemFmt) (r : Nat × Option Nat) : Num :=
  match r.2 with
  | none => f.decode r.1
  | some sc => applyScale (f.decode r.1) sc

/-- The index that a gather's y element gives: its bits read as a signed integer, whatever its type (R182). -/
def indexValue (f : MemFmt) (x : Nat) : Int := (BitVec.ofNat f.bits x).toInt

/-- The y element of a gather at an iteration point. -/
def gatherIndex (h : Home) (n : Nat) (d : Node) (c : List Nat) : X Int := do
  let f ← srcFmt h (d.src 1)
  let p := (mapPoint (d.maps.getD 1 0) c).map Int.toNat
  let r ← late n d 1 false (srcRaw h false (d.src 1) p)
  pure (indexValue f r.1)

/-- The source coordinate that a point of a node reads, gather included (R180, R182). -/
def srcPoint (h : Home) (n : Nat) (d : Node) (i : Nat) (c : List Nat) : X (List Nat) := do
  let m := d.maps.getD i 0
  let p := (mapPoint m c).map Int.toNat
  if !mapGathers m then pure p
  else
    let t ← gatherIndex h n d c
    let ext ← srcExtents h (d.src i)
    let ax := mapGaxis m
    if 0 ≤ t && decide (t < co ext ax) then pure (p.set ax t.toNat)
    else late n d i true (fault 0x05 (match d.src i with
      | .gen g => (Walk4.ofBits g).base
      | .none => 0
      | .node _ => 0))

/-- A source element at an iteration point. -/
def srcAt (h : Home) (n : Nat) (d : Node) (i : Nat) (c : List Nat) : X (Nat × Option Nat) := do
  let p ← srcPoint h n d i c
  late n d i (mapGathers (d.maps.getD i 0)) (srcRaw h (d.op == 1 && i == 1) (d.src i) p)

/-! ### What a node computes (R183, R184) -/

/-- An element computed: its encoding, its flags, and, where it is a NaN write, the flags of that write and the K chunk
in which it came about. -/
structure Made where
  bits : Nat
  flags : Flags
  nan : Option (Flags × Nat)
  deriving DecidableEq, Repr

/-- An element without chunks. -/
def Made.of (r : Nat × Flags) : Made := ⟨r.1, r.2, if r.2.hasNan then some (r.2, 0) else none⟩

/-- The elementwise effect of an operation code (R183, R199). -/
def tewEffect (n : Nat) : VFn :=
  match n with
  | 0x00 => .add | 0x01 => .sub | 0x02 => .mul | 0x03 => .fma | 0x04 => .fms | 0x05 => .max | 0x06 => .min
  | 0x07 => .abs | 0x08 => .neg | 0x09 => .scl
  | 0x18 => .fn .exp2 | 0x19 => .fn .log2 | 0x1A => .fn .rcp | 0x1B => .fn .rsq | 0x1C => .fn .sqrt
  | 0x1D => .fn .tanh | 0x1E => .fn .sigm
  | _ => .clamp

/-- The line of a matmul source at a chunk of k (R184): the values, aligned. -/
def matLine (h : Home) (n : Nat) (d : Node) (i : Nat) (o : List Nat) (k0 len : Nat) : X Line := do
  let f ← srcFmt h (d.src i)
  let vs ← (List.range len).mapM fun k => do
    let r ← srcAt h n d i [co o 0, co o 1, k0 + k, co o 3]
    pure (rawValue f r)
  pure (alignLine f vs (vs.map fun _ => true))

/-- The chunks of k: start and length (R184). -/
def kChunks (e2 : Nat) : List (Nat × Nat) :=
  (List.range ((e2 + 4095) / 4096)).map fun j => (4096 * j, min 4096 (e2 - 4096 * j))

/-- A matmul output (R184). -/
def matmulElem (h : Home) (n : Nat) (d : Node) (o : List Nat) : X Made := do
  let i32 := d.ty == .i32
  let r ← (kChunks (co d.ext 2)).foldlM (init := ((⟨0, 0, none⟩ : Made))) fun acc ch => do
    let a ← matLine h n d 0 o ch.1 ch.2
    let b ← matLine h n d 1 o ch.1 ch.2
    let v := accumulate i32 d.rm acc.bits (outputOf a b)
    let nan := match acc.nan with
      | some x => some x
      | none => if v.2.hasNan then some (v.2, ch.1 / 4096) else none
    pure ⟨v.1, acc.flags ||| v.2 ||| Flags.when (a.nx || b.nx) Flags.nx, nan⟩
  if d.ty == .f32 || i32 then pure r
  else
    let q := convertElem .f32 d.ty d.rm r.bits
    pure ⟨q.1, r.flags ||| q.2, r.nan⟩

/-- The value of output o of a node (R183). -/
def computeElem (h : Home) (n : Nat) (d : Node) (o : List Nat) : X Made := do
  match d.op with
  | 0 =>
    let x ← srcAt h n d 0 o
    match d.src 0 with
    | .gen g => pure (.of (d.ty.round d.rm (rawValue (Walk4.ofBits g).fmt x)))
    | .node _ => pure (.of (d.ty.pattern x.1, 0))
    | .none => pure (.of (0, 0))
  | 1 => matmulElem h n d o
  | 2 =>
    let x ← srcAt h n d 0 o
    let y ← srcAt h n d 1 o
    let z ← srcAt h n d 2 o
    let f ← srcFmt h (d.src 1)
    pure (.of (elemOp (tewEffect d.fn) d.ty d.rm x.1 y.1 z.1 (indexValue f y.1)))
  | 3 =>
    let xs ← (List.range (co d.ext 2)).mapM fun k => do
      let x ← srcAt h n d 0 [co o 0, co o 1, k, co o 3]
      pure x.1
    pure (.of (if d.fn = 0x1F then sumOf d.ty d.rm xs else extremeOf (if d.fn = 0x20 then .max else .min) d.ty xs))
  | 4 =>
    let x ← srcAt h n d 0 o
    let f ← srcFmt h (d.src 0)
    pure (.of (d.ty.round d.rm (f.decode x.1)))
  | _ =>
    let x ← srcAt h n d 0 o
    let y ← srcAt h n d 1 o
    let z ← srcAt h n d 2 o
    let f ← srcFmt h (d.src 2)
    pure (.of (d.ty.pattern (if f.pattern z.1 != 0 then x.1 else y.1), 0))

/-- Rows of a tile of a matmul box of the given columns (R455). -/
def tileRows (wn cols : Nat) : Nat := max 1 (min 128 (64 * (wn + 1) / ((cols + 63) / 64)))

/-- The place of a NaN write of a matmul box in the order of its tiles (R455, R49): row group, column group, chunk,
row, column. Row groups are counted in each column group by its own M (DESIGN CHOICE, log 82). -/
def tileKey (b : Span4) (wn chunk i : Nat) : List Nat :=
  let c := unflat b.ext i
  let row := co c 1 + co b.ext 1 * co c 3
  let cg := co c 0 / 192
  let m := tileRows wn (min 192 (co b.ext 0 - 192 * cg))
  [row / m, cg, chunk, row % m, co c 0 % 192]

/-- Is a list of numbers before another one of the same length? -/
def listBefore : List Nat → List Nat → Bool
  | a :: as, b :: bs => a < b || (a == b && listBefore as bs)
  | _, _ => false

/-- The first NaN write among the elements of a box: element and flags. -/
def firstMade (key : Nat → Nat → List Nat) (ms : List (Nat × Made)) : Option (Nat × Flags) :=
  (ms.foldl (fun (a : Option (List Nat × Nat × Flags)) p =>
    match p.2.nan with
    | none => a
    | some (f, ch) =>
      let k := key ch p.1
      (match a with
      | none => some (k, p.1, f)
      | some x => if listBefore k x.1 then some (k, p.1, f) else a)) none).map fun x => x.2

/-- UNIT of a node's NaN writes (R196). -/
def nodeUnit (d : Node) : Nat := if d.op = 1 then 1 else if d.op = 0 then 2 else 0

/-- Raise the flags of a box that is complete, and report its first NaN (R47, R196). -/
def reportBox (h : Home) (n : Nat) (d : Node) (b : Span4) (ms : List Made) : X Unit := do
  let fa ← srcFmt h (d.src 0)
  let fb ← (match d.src 1 with
    | .none => pure fa
    | .node _ => srcFmt h (d.src 1)
    | .gen _ => srcFmt h (d.src 1))
  let wn := (← homeGroup h).tile.policy.toNat / 2 ^ 24 % 8
  let ix := (List.range ms.length).zip ms
  let key := fun ch i => if d.op = 1 then tileKey b wn ch i else [i]
  modify fun s => s.onGroup h.core h.slot fun g =>
    let g1 := g.raise (ms.foldl (fun a m => a ||| m.flags) 0)
    match firstMade key ix with
    | none => g1
    | some (i, f) => g1.noteNan h.core d.apc f
        ⟨nodeUnit d, n, co (plus b.org (unflat b.ext i)) 0, fa.code, fb.code,
          if d.op = 1 then (if d.ty = .i32 then 6 else 0) else d.ty.code, true⟩

/-- Fill staging slabs with the y columns of the tiles of a box (R188, R455): each BLD in order. R455 stages one BLD per tile,
whose columns are those of the tile's first point (o1, o3) where y's map reads other points as well (DESIGN CHOICE, log 82). -/
def stage (h : Home) (n : Nat) (d : Node) (b : Span4) : X Unit := do
  let g ← homeGroup h
  let f ← srcFmt h (d.src 1)
  let wn := g.tile.policy.toNat / 2 ^ 24 % 8
  let slab := g.tile.policy.toNat / 2 ^ 4 % 16
  let w ← homeWho h
  let groups := (co b.ext 0 + 191) / 192
  let rows := co b.ext 1 * co b.ext 3
  let maxRg := (List.range groups).foldl (fun a cg =>
    let m := tileRows wn (min 192 (co b.ext 0 - 192 * cg))
    max a ((rows + m - 1) / m)) 0
  (List.range maxRg).forM fun rg => (List.range groups).forM fun cg => do
    let cols := min 192 (co b.ext 0 - 192 * cg)
    let m := tileRows wn cols
    if rows ≤ rg * m then pure ()
    else
      let pt := [0, co b.org 1 + rg * m % co b.ext 1, 0, co b.org 3 + rg * m / co b.ext 1]
      (kChunks (co d.ext 2)).forM fun ch => do
        let op : BOperand := ⟨f, ch.2, cols, false⟩
        (List.range cols).forM fun j => do
          let raws ← (List.range ch.2).mapM fun k =>
            srcAt h n d 1 [co b.org 0 + 192 * cg + j, co pt 1, ch.1 + k, co pt 3]
          let packed := raws.zipIdx.foldl (fun a p => a + f.pattern p.1.1 * 2 ^ (f.bits * p.2)) 0
          let scales := (List.range op.sb).map fun t => BitVec.ofNat 8 (((raws.getD (8 * t) (0, none)).2).getD 0)
          let area := 3 * 2 ^ 60 + h.core.val * 2 ^ 53 + j * 2 ^ 15 + slab * 2 ^ 11
          waitIf ((← get).boardHits w area op.cb)
          modify fun s =>
            let s1 := s.chipBits area (ch.2 * f.bits) packed
            if scales.isEmpty then s1 else s1.chipWrite (area + op.so) scales

/-- A chunk of y that does not fit the staging slabs (R188). -/
def stageFits (h : Home) (d : Node) : X Bool := do
  let g ← homeGroup h
  let f ← srcFmt h (d.src 1)
  let slabN := g.tile.policy.toNat / 2 ^ 8 % 32
  pure ((kChunks (co d.ext 2)).all fun ch => decide ((⟨f, ch.2, 1, false⟩ : BOperand).cb ≤ 2048 * slabN))

/-! ### Checks ahead of a box (R454) -/

/-- The box of a source that iteration points read, without a gathered axis (R185). -/
def plainRange (m : BitVec 512) (pts : Span4) : Span4 :=
  let r := mapRange m pts
  ⟨r.map fun x => x.1.toNat, r.map fun x => (x.2 - x.1).toNat + 1⟩

/-- All iteration points of a box. -/
def allPoints (b : Span4) : List (List Nat) := (List.range (volume b.ext)).map fun i => plus b.org (unflat b.ext i)

/-- The bytes of a generator that a box covers, scale bytes included: the lowest of each pair, ascending. What R454 checks is the same
for both bytes of a pair, also in a compressed block (R358). -/
def boxAddrs (g : Gen) (b : Span4) : List Nat :=
  let bytes := (allPoints b).flatMap fun c =>
    let e := flat g.sizes c
    ((List.range (fmtBytes g.fmt)).map fun k => ((g.addr e).1 + k) % 2 ^ 64) ++ (if g.scaled then [g.scaleAddr e] else [])
  (bytes.foldl (fun (m : SMap Nat) a => SMap.set m (a / 2) (match SMap.get m (a / 2) with
    | none => a
    | some x => min a x)) []).map Prod.snd

/-- Check every address of a generator source's needed box before reading any, in ascending order (R454). Slabs named in
place have no such address. -/
def checkBox (h : Home) (n : Nat) (d : Node) (i : Nat) (gath : Bool) (b : Span4) : X Unit := do
  match d.src i with
  | .none => pure ()
  | .node _ => pure ()
  | .gen gb =>
    let g := Walk4.ofBits gb
    if d.op = 1 ∧ i = 1 ∧ ptrSpace g.base = 3 then pure ()
    else
      let w ← homeWho h
      (boxAddrs g b).forM fun p => late n d i gath (do
        let _ ← memReadBytes w p 1
        pure ())

/-- The box of a source with the gathered axis from smallest to largest index inside the source (R182, R185). -/
def gatherRange (h : Home) (n : Nat) (d : Node) (pts : Span4) : X Span4 := do
  let m := d.maps.getD 0 0
  let ax := mapGaxis m
  checkBox h n d 1 false (plainRange (d.maps.getD 1 0) pts)
  let ext ← srcExtents h (d.src 0)
  let is : List Int ← (allPoints pts).mapM (gatherIndex h n d)
  let ok := is.filter fun (i : Int) => decide (0 ≤ i) && decide (i < (co ext ax : Int))
  let lo := (ok.foldl min (ok.headD 0)).toNat
  let hi := (ok.foldl max (ok.headD 0)).toNat
  let b := plainRange m pts
  pure ⟨b.org.set ax lo, b.ext.set ax (hi - lo + 1)⟩

/-- The checks of R454 for a box of a node: its generator sources in the order x, y, z. A gathered source's box follows from
the indices, and an index outside the source is raised before it. -/
def checkSources (h : Home) (n : Nat) (d : Node) (b : Span4) : X Unit :=
  let pts := d.points b
  [0, 1, 2].forM fun i =>
    match d.src i with
    | .none => pure ()
    | .node _ => pure ()
    | .gen _ =>
      let m := d.maps.getD i 0
      if mapGathers m then do
        let r ← gatherRange h n d pts
        (allPoints pts).forM fun c => do
          let _ ← srcPoint h n d i c
          pure ()
        checkBox h n d i true r
      else checkBox h n d i false (plainRange m pts)

/-- Compute a new box of a node (R185), after the checks of its sources (R454). -/
def computeBox (h : Home) (n : Nat) (b : Span4) (inUse : List Nat) : X Box := do
  let d ← liveNode h n
  let staged := d.op == 1 && !inPlace (d.src 1)
  checkSources h n d b
  (if staged then do
    let fits ← stageFits h d
    late n d 1 false (faultIf (!fits) 0x0C 0)
  else pure ())
  let nb ← newBox h n b inUse
  let d ← liveNode h n
  (if staged then stage h n d b else pure ())
  let ms ← (List.range (volume b.ext)).mapM fun i => computeElem h n d (plus b.org (unflat b.ext i))
  let g ← homeGroup h
  late n d 3 false (writeRun (← homeWho h) (arenaPtr h g + nb.off) (ms.flatMap fun m => leBytes d.ty.laneBytes m.bits))
  reportBox h n d b ms
  addBox h n nb
  pure nb

/-- Copy the needed part of a box that contains it into a new one (R185). -/
def copyBox (h : Home) (n : Nat) (x : Box) (b : Span4) (inUse : List Nat) : X Box := do
  let d ← liveNode h n
  let xs ← (List.range (volume b.ext)).mapM fun i => late n d 3 false (boxRead h d x (plus b.org (unflat b.ext i)))
  let nb ← newBox h n b (x.seq :: inUse)
  let g ← homeGroup h
  late n d 3 false (writeRun (← homeWho h) (arenaPtr h g + nb.off) (xs.flatMap (leBytes d.ty.laneBytes)))
  addBox h n nb
  pure nb

/-- What a demand has gone through so far: boxes in use, and whether it issued a copy. -/
structure Progress where
  inUse : List Nat
  copied : Bool
  deriving DecidableEq, Repr

/-- Keep the state of before the node on a fault: boxes completed before stay, the incomplete one goes (R177, R194). -/
def keepBefore {α : Type} (x : X α) : X α := fun s =>
  match x s with
  | .error (.trap t _) => .error (.trap t (some s))
  | r => r

/-- Room for a command: an entry of its queue, and two scoreboard entries (R300, R327). The walker's copies and a TST's
writes wait for it too; they retire before the step ends (R188, log 10). -/
def commandRoom (c : CoreId) (timed : Bool) : X Unit := do
  let k := (← get).core c
  let n := (k.cmds.filter fun x => x.st == .queued && x.timed == timed).length
  waitIf ((if timed then 64 else 32) ≤ n || decide (62 < k.board.length))

/-- The turn of a command of the walker or of a TST on the policy's channel (R188, R202): it needs room as every command does, and goes
behind the commands of the channel that would start before it (R300, R328). -/
def walkerTurn (h : Home) : X Unit := do
  commandRoom h.core false
  let g ← homeGroup h
  let s ← get
  let ch : ChId := Fin.ofNat 4 (g.tile.policy.toNat / 2)
  waitIf ((s.core h.core).cmds.any fun k =>
    k.ch == ch && (k.st != .queued || !k.timed || k.due || decide (k.time ≤ s.cycle.toNat)))

/-- Materialize the needed box of one node (R185, pass 2). -/
def matNode (h : Home) (need : SMap Span4) (p : Progress) (n : Nat) : X Progress := keepBefore do
  let d ← liveNode h n
  match SMap.get need n with
  | none => pure p
  | some b =>
    match d.boxes.find? fun x => x.span == b with
    | some x => pure { p with inUse := x.seq :: p.inUse }
    | none =>
      match d.boxes.find? fun x => x.span.contains b with
      | some big =>
        walkerTurn h
        let x ← copyBox h n big b p.inUse
        pure ⟨x.seq :: p.inUse, true⟩
      | none =>
        (if d.op = 0 then walkerTurn h else pure ())
        let x ← computeBox { h with used := p.inUse } n b p.inUse
        pure ⟨x.seq :: p.inUse, p.copied || d.op == 0⟩

/-- The nodes of a need in ascending age. -/
def byAge (t : Tile) (ns : List Nat) : List Nat :=
  let aged := ns.filterMap fun n => (SMap.get t.nodes n).map fun d => (d.age, n)
  (sortByKey Prod.fst aged).map Prod.snd

/-- Materialize everything needed, in ascending age. -/
def matAll (h : Home) (need : SMap Span4) (p : Progress) : X Progress := do
  let g ← homeGroup h
  (byAge g.tile (need.map Prod.fst)).foldlM (matNode h need) p

/-- Pass 1 of R185 below node n, whose needed box is entered already: depth first, sources in order x, y, z, again where
a needed box grows. A gather materializes its y first, whatever its x is (DEDUCED, log 87). -/
def needs (h : Home) : Nat → SMap Span4 × Progress → Nat → X (SMap Span4 × Progress)
  | 0, a, _ => pure a
  | f + 1, a, n => do
    let d ← liveNode h n
    match SMap.get a.1 n with
    | none => pure a
    | some b =>
      let pts := d.points b
      let grow := fun (a : SMap Span4 × Progress) (s : Nat) (r : Span4) => do
        let sd ← liveNode h s
        if sd.state = .full then pure a
        else
          match SMap.get a.1 s with
          | none => needs h f (SMap.set a.1 s r, a.2) s
          | some old =>
            let j := old.join r
            if j = old then pure a else needs h f (SMap.set a.1 s j, a.2) s
      [0, 1, 2].foldlM (init := a) fun a i => do
        let m := d.maps.getD i 0
        if mapGathers m then
          let a2 ← (match d.src 1 with
            | .node y => do
              let sub ← grow ([], a.2) y (plainRange (d.maps.getD 1 0) pts)
              let p ← matAll h sub.1 sub.2
              pure (a.1, p)
            | .gen _ => pure a
            | .none => pure a)
          match d.src i with
          | .node s => do
            let r ← keepBefore (gatherRange { h with used := a2.2.inUse } n d pts)
            grow a2 s r
          | .gen _ => pure a2
          | .none => pure a2
        else
          match d.src i with
          | .node s => grow a s (plainRange m pts)
          | .gen _ => pure a
          | .none => pure a

/-- Zero the walker rows (R188), as far as the group has them: at the end of a demand that completes (DESIGN CHOICE, log 82). -/
def zeroWalkerRows (h : Home) : X Unit := do
  let g ← homeGroup h
  let p := g.tile.policy.toNat
  let lo := p / 2 ^ 13 % 2 ^ 11
  let n := 64 * (p / 2 ^ 24 % 8 + 1)
  let hi := min g.rows (lo + n)
  modify fun s => s.chipWrite (rowKeyOf h.core g lo) (List.replicate ((hi - lo) * 256) 0)

/-- The walker's own copies take transfer IDs on the policy's channel; how many is left open (log 10). -/
def takeIds (h : Home) : X Unit := do
  let g ← homeGroup h
  let ch : ChId := Fin.ofNat 4 (g.tile.policy.toNat / 2)
  modify fun s =>
    { s.onCore h.core fun k => { k with nextId := vset k.nextId ch (vget k.nextId ch + BitVec.ofNat 48 (Config.walkerIds s.tick)) }
      with tick := s.tick + 1 }

/-- A demand (R185): the box of node n, materialized. -/
def demand (h : Home) (n : Nat) (b : Span4) : X Box := do
  let a ← needs h 2000 (SMap.set [] n b, ⟨[], false⟩) n
  let p ← matAll h a.1 a.2
  zeroWalkerRows h
  (if p.copied then takeIds h else pure ())
  let d ← liveNode h n
  match d.boxes.find? fun x => x.span == b with
  | some x => pure x
  | none => fault 0x0C 0

/-- Demand a node over its full extent and hold the box (R190, R191). -/
def forceFull (h : Home) (n : Nat) : X Unit := do
  let d ← liveNode h n
  let _ ← demand h n d.full
  onTile h fun t => t.makeFull n

/-! ### Aliasing forces (R191, R192) -/

/-- The source ranges of a generator source: the walk, or the column areas in place. -/
def srcRanges (core : CoreId) (x : NodeSrc) : List (Nat × Nat) :=
  match x with
  | .none => []
  | .node _ => []
  | .gen gb =>
    let g := Walk4.ofBits gb
    if ptrSpace g.base = 3 then
      (List.range (g.size 1)).map fun j =>
        bytesAt (3 * 2 ^ 60 + core.val * 2 ^ 53 + j * 2 ^ 15 + ptrOff g.base) (inPlaceOperand g).cb
    else [g.range]

/-- The nodes whose unmaterialized source ranges a write meets, in ascending age. -/
def Tile.aliased (t : Tile) (core : CoreId) (ws : List (Nat × Nat)) : List Nat :=
  byAge t ((t.nodes.filter fun p => p.2.state != .full &&
    p.2.srcs.any fun x => (srcRanges core x).any fun r => ws.any (meets r)).map Prod.fst)

/-- The check of a group's write (R191): every node that it would change is made Full first. -/
def aliasCheck (h : Home) (ws : List (Nat × Nat)) : X Unit := do
  let g ← homeGroup h
  (g.tile.aliased h.core ws).forM fun n => do
    let t := (← homeGroup h).tile
    match SMap.get t.nodes n with
    | none => pure ()
    | some d =>
      if d.state = .full then pure ()
      else
        forceFull h n
        onTile h fun t => { t with aliasForces := t.aliasForces + 1 }

/-- Run a write of the role: its own checks first, then the aliasing check, then the write (R191), one that fails with part
of it done too. -/
def storing (ws : List (Nat × Nat)) (write : X Unit) : X Unit := do
  let m ← me
  match (m.2.1.tile.aliased m.1.core ws) with
  | [] => write
  | _ :: _ =>
    let s ← get
    match write s with
    | .error (.trap t none) => throw (.trap t none)
    | .error .wait => throw .wait
    | .error (.ask f) => throw (.ask f)
    | .error (.halt f) => throw (.halt f)
    | .error (.trap _ (some _)) | .ok _ =>
      aliasCheck { core := m.1.core, slot := m.1.slot } ws
      write

end Sys2Proof.Machine
end

