-- ==== Sys2Proof/Machine/Scalar.lean ====
section
/-! DEFINITION. Scalar arithmetic, logic, immediates, bit fields and pointers (R96 to R105), scalar memory (R106 to
R110), and control flow (R111 to R114). -/

namespace Sys2Proof.Machine

open Sys2Proof

/-! ### Values -/

/-- 1 or 0. -/
def ofBool (b : Bool) : Word := if b then 1 else 0

/-- DIV (R99): truncated toward zero; all ones for a zero divisor. The most negative number by −1 wraps to itself. -/
def divS (a b : Word) : Word := if b = 0 then BitVec.allOnes 64 else BitVec.ofInt 64 (a.toInt.tdiv b.toInt)
/-- REM (R99): the sign of a; a for a zero divisor. -/
def remS (a b : Word) : Word := if b = 0 then a else BitVec.ofInt 64 (a.toInt.tmod b.toInt)
/-- DIVN (R99). -/
def divU (a b : Word) : Word := if b = 0 then BitVec.allOnes 64 else a.udiv b
/-- REMN (R99). -/
def remU (a b : Word) : Word := if b = 0 then a else a.umod b
/-- MULH (R98). -/
def mulHigh (a b : Word) : Word := BitVec.ofInt 64 ((a.toInt * b.toInt).fdiv (2 ^ 64))
/-- MULHN (R98). -/
def mulHighU (a b : Word) : Word := BitVec.ofNat 64 (a.toNat * b.toNat / 2 ^ 64)
/-- The shift amount b[5:0] (R98). -/
def shamt (b : Word) : Nat := b.toNat % 64
/-- Signed minimum. -/
def minS (a b : Word) : Word := if b.slt a then b else a
/-- Signed maximum. -/
def maxS (a b : Word) : Word := if a.slt b then b else a
/-- Unsigned minimum. -/
def minU (a b : Word) : Word := if b.ult a then b else a
/-- Unsigned maximum. -/
def maxU (a b : Word) : Word := if a.ult b then b else a
/-- Trailing zero bits from bit i on. -/
def ctzFrom (a : Word) : Nat → Nat → Nat
  | 0, i => i
  | f + 1, i => if a.getLsbD i then i else ctzFrom a f (i + 1)
/-- Leading zero bits (R98): 64 for zero. -/
def clzW (a : Word) : Word := BitVec.ofNat 64 (64 - bitsIn a.toNat)
where
  /-- Bits of a natural number. -/
  bitsIn (n : Nat) : Nat := if n = 0 then 0 else n.log2 + 1
/-- Trailing zero bits (R98): 64 for zero. -/
def ctzW (a : Word) : Word := BitVec.ofNat 64 (ctzFrom a 64 0)
/-- One bits (R98). -/
def popcW (a : Word) : Word := BitVec.ofNat 64 ((List.range 64).filter fun i => a.getLsbD i).length

/-! ### The frames of scalar instructions -/

/-- d := f(a, b). -/
def alu2 (f : Word → Word → Word) (d a b : SReg) : State → Host.Outcome State Fault Refusal :=
  instr 1 [a, b] [d] noPre (seqBody fun vs => writeDst d (f (arg vs 0) (arg vs 1)))

/-- d := f(a). -/
def alu1 (f : Word → Word) (d a : SReg) : State → Host.Outcome State Fault Refusal :=
  instr 1 [a] [d] noPre (seqBody fun vs => writeDst d (f (arg vs 0)))

/-- d := f(old d, a): an instruction that reads its destination (R96). -/
def aluD (f : Word → Word → Word) (d a : SReg) : State → Host.Outcome State Fault Refusal :=
  instr 1 [a, d] [d] noPre (seqBody fun vs => writeDst d (f (arg vs 1) (arg vs 0)))

/-- SignExt(imm, 14) (R66). -/
def imm14 (i : BitVec 14) : Word := i.signExtend 64

/-- ADD (R98). -/
def execAdd (d a b : SReg) (s : State) : Host.Outcome State Fault Refusal := alu2 (fun a b => a + b) d a b s
/-- SUB (R98). -/
def execSub (d a b : SReg) (s : State) : Host.Outcome State Fault Refusal := alu2 (fun a b => a - b) d a b s
/-- MUL (R98). -/
def execMul (d a b : SReg) (s : State) : Host.Outcome State Fault Refusal := alu2 (fun a b => a * b) d a b s
/-- MULH (R98). -/
def execMulh (d a b : SReg) (s : State) : Host.Outcome State Fault Refusal := alu2 (mulHigh) d a b s
/-- MULHN (R98). -/
def execMulhn (d a b : SReg) (s : State) : Host.Outcome State Fault Refusal := alu2 (mulHighU) d a b s
/-- DIV (R99). -/
def execDiv (d a b : SReg) (s : State) : Host.Outcome State Fault Refusal := alu2 (divS) d a b s
/-- DIVN (R99). -/
def execDivn (d a b : SReg) (s : State) : Host.Outcome State Fault Refusal := alu2 (divU) d a b s
/-- REM (R99). -/
def execRem (d a b : SReg) (s : State) : Host.Outcome State Fault Refusal := alu2 (remS) d a b s
/-- REMN (R99). -/
def execRemn (d a b : SReg) (s : State) : Host.Outcome State Fault Refusal := alu2 (remU) d a b s
/-- AND (R98). -/
def execAnd (d a b : SReg) (s : State) : Host.Outcome State Fault Refusal := alu2 (fun a b => a &&& b) d a b s
/-- OR (R98). -/
def execOr (d a b : SReg) (s : State) : Host.Outcome State Fault Refusal := alu2 (fun a b => a ||| b) d a b s
/-- XOR (R98). -/
def execXor (d a b : SReg) (s : State) : Host.Outcome State Fault Refusal := alu2 (fun a b => a ^^^ b) d a b s
/-- ANDN (R98). -/
def execAndn (d a b : SReg) (s : State) : Host.Outcome State Fault Refusal := alu2 (fun a b => a &&& ~~~b) d a b s
/-- SHL (R98). -/
def execShl (d a b : SReg) (s : State) : Host.Outcome State Fault Refusal := alu2 (fun a b => a <<< shamt b) d a b s
/-- SHR (R98). -/
def execShr (d a b : SReg) (s : State) : Host.Outcome State Fault Refusal := alu2 (fun a b => a >>> shamt b) d a b s
/-- SAR (R98). -/
def execSar (d a b : SReg) (s : State) : Host.Outcome State Fault Refusal := alu2 (fun a b => a.sshiftRight (shamt b)) d a b s
/-- ROL (R98). -/
def execRol (d a b : SReg) (s : State) : Host.Outcome State Fault Refusal := alu2 (fun a b => a.rotateLeft (shamt b)) d a b s
/-- MIN (R98). -/
def execMin (d a b : SReg) (s : State) : Host.Outcome State Fault Refusal := alu2 (minS) d a b s
/-- MAX (R98). -/
def execMax (d a b : SReg) (s : State) : Host.Outcome State Fault Refusal := alu2 (maxS) d a b s
/-- MINN (R98). -/
def execMinn (d a b : SReg) (s : State) : Host.Outcome State Fault Refusal := alu2 (minU) d a b s
/-- MAXN (R98). -/
def execMaxn (d a b : SReg) (s : State) : Host.Outcome State Fault Refusal := alu2 (maxU) d a b s
/-- SEQ (R98). -/
def execSeq (d a b : SReg) (s : State) : Host.Outcome State Fault Refusal := alu2 (fun a b => ofBool (a == b)) d a b s
/-- SNE (R98). -/
def execSne (d a b : SReg) (s : State) : Host.Outcome State Fault Refusal := alu2 (fun a b => ofBool (a != b)) d a b s
/-- SLT (R98). -/
def execSlt (d a b : SReg) (s : State) : Host.Outcome State Fault Refusal := alu2 (fun a b => ofBool (a.slt b)) d a b s
/-- SLTN (R98). -/
def execSltn (d a b : SReg) (s : State) : Host.Outcome State Fault Refusal := alu2 (fun a b => ofBool (a.ult b)) d a b s
/-- SLE (R98). -/
def execSle (d a b : SReg) (s : State) : Host.Outcome State Fault Refusal := alu2 (fun a b => ofBool (!b.slt a)) d a b s
/-- SLEN (R98). -/
def execSlen (d a b : SReg) (s : State) : Host.Outcome State Fault Refusal := alu2 (fun a b => ofBool (!b.ult a)) d a b s
/-- ADDSH1 (R98). -/
def execAddsh1 (d a b : SReg) (s : State) : Host.Outcome State Fault Refusal := alu2 (fun a b => a + (b <<< 1)) d a b s
/-- ADDSH2 (R98). -/
def execAddsh2 (d a b : SReg) (s : State) : Host.Outcome State Fault Refusal := alu2 (fun a b => a + (b <<< 2)) d a b s
/-- ADDSH3 (R98). -/
def execAddsh3 (d a b : SReg) (s : State) : Host.Outcome State Fault Refusal := alu2 (fun a b => a + (b <<< 3)) d a b s
/-- CLZ (R98). -/
def execClz (d a : SReg) (s : State) : Host.Outcome State Fault Refusal := alu1 clzW d a s
/-- CTZ (R98). -/
def execCtz (d a : SReg) (s : State) : Host.Outcome State Fault Refusal := alu1 ctzW d a s
/-- POPC (R98). -/
def execPopc (d a : SReg) (s : State) : Host.Outcome State Fault Refusal := alu1 popcW d a s
/-- SEL (R98): a where the old d is not zero, else b; d is read last. -/
def execSel (d a b : SReg) (s : State) : Host.Outcome State Fault Refusal :=
  instr 1 [a, b, d] [d] noPre (seqBody fun vs => writeDst d (if arg vs 2 ≠ 0 then arg vs 0 else arg vs 1)) s

/-- ADDI (R100). -/
def execAddi (d a : SReg) (i : BitVec 14) (s : State) : Host.Outcome State Fault Refusal := alu1 (fun x => x + imm14 i) d a s
/-- ANDI (R100). -/
def execAndi (d a : SReg) (i : BitVec 14) (s : State) : Host.Outcome State Fault Refusal := alu1 (fun x => x &&& imm14 i) d a s
/-- ORI (R100). -/
def execOri (d a : SReg) (i : BitVec 14) (s : State) : Host.Outcome State Fault Refusal := alu1 (fun x => x ||| imm14 i) d a s
/-- XORI (R100). -/
def execXori (d a : SReg) (i : BitVec 14) (s : State) : Host.Outcome State Fault Refusal := alu1 (fun x => x ^^^ imm14 i) d a s
/-- SLTI (R100). -/
def execSlti (d a : SReg) (i : BitVec 14) (s : State) : Host.Outcome State Fault Refusal := alu1 (fun x => ofBool (x.slt (imm14 i))) d a s
/-- SHLI (R101). -/
def execShli (d a : SReg) (n : BitVec 6) (s : State) : Host.Outcome State Fault Refusal := alu1 (fun x => x <<< n.toNat) d a s
/-- SHRI (R101). -/
def execShri (d a : SReg) (n : BitVec 6) (s : State) : Host.Outcome State Fault Refusal := alu1 (fun x => x >>> n.toNat) d a s
/-- SARI (R101). -/
def execSari (d a : SReg) (n : BitVec 6) (s : State) : Host.Outcome State Fault Refusal := alu1 (fun x => x.sshiftRight n.toNat) d a s

/-- LDI (R102). -/
def execLdi (d : SReg) (i : BitVec 20) (s : State) : Host.Outcome State Fault Refusal :=
  instr 1 [] [d] noPre (seqBody fun _ => writeDst d (i.signExtend 64)) s

/-- LDIH (R102). -/
def execLdih (d : SReg) (i : BitVec 20) (s : State) : Host.Outcome State Fault Refusal :=
  instr 1 [d] [d] noPre (seqBody fun vs => writeDst d ((arg vs 0 <<< 20) ||| i.zeroExtend 64)) s

/-- The w low bits of x from bit p up (R103). -/
def bitField (x : Word) (p w : Nat) : Word := BitVec.ofNat 64 (x.toNat / 2 ^ p % 2 ^ w)

/-- Bits p + w − 1 down to p of d replaced by the low w bits of a (R103). -/
def insertField (d a : Word) (p w : Nat) : Word :=
  let mask : Word := BitVec.ofNat 64 ((2 ^ w - 1) * 2 ^ p)
  (d &&& ~~~mask) ||| ((a <<< p) &&& mask)

/-- BFX (R103). -/
def execBfx (d a : SReg) (p wm1 : BitVec 6) (s : State) : Host.Outcome State Fault Refusal :=
  alu1 (fun x => bitField x p.toNat (wm1.toNat + 1)) d a s

/-- BFI (R103). -/
def execBfi (d a : SReg) (p wm1 : BitVec 6) (s : State) : Host.Outcome State Fault Refusal :=
  aluD (fun old x => insertField old x p.toNat (wm1.toNat + 1)) d a s

/-! ### Pointers -/

/-- MKPTR's result, or the space fault (R104). FAULTVA is the offset. -/
def makePtr (sp : Space) (off c : Nat) : X Word :=
  match sp with
  | .virt => if off / 2 ^ 55 ≠ 0 then fault 0x05 off else pure (BitVec.ofNat 64 off)
  | .queue => if off / 2 ^ 60 ≠ 0 then fault 0x05 off else pure (BitVec.ofNat 64 (4 * 2 ^ 60 + off))
  | .scratch | .acc | .weight =>
    if 127 < c || spaceLimit sp.code ≤ off then fault 0x05 off
    else pure (BitVec.ofNat 64 (sp.code * 2 ^ 60 + c * 2 ^ 53 + off))

/-- MKPTR (R104). The b field is read only for the on-chip spaces. -/
def execMkptr (d a b : SReg) (sp : Space) (s : State) : Host.Outcome State Fault Refusal :=
  let srcs := if sp = .virt ∨ sp = .queue then [a] else [a, b]
  instr 1 srcs [d] noPre (seqBody fun vs => do
    let v ← makePtr sp (arg vs 0).toNat (arg vs 1).toNat
    writeDst d v) s

/-- Is a pointer well-formed under R208 and, for a queue designator, R291 (R105 f = 3)? -/
def ptrWellFormed (p : Nat) : Bool :=
  match ptrSpace p with
  | 0 => p / 2 ^ 55 == 0
  | 1 | 2 | 3 => onChipOk p
  | 4 => p % 64 == 0 && decide (p / 2 ^ 55 % 32 < 3)
  | _ => false

/-- PTRX's result (R105). -/
def ptrField (p : Nat) (f : Fin 4) : Nat :=
  let sp := ptrSpace p
  match f with
  | 0 => sp
  | 1 => if 1 ≤ sp ∧ sp ≤ 3 then p / 2 ^ 53 % 128 else 0
  | 2 => if sp = 0 then p % 2 ^ 55 else if sp = 4 then p % 2 ^ 60 else if sp ≤ 3 then p % 2 ^ 23 else 0
  | 3 => if ptrWellFormed p then 1 else 0

/-- PTRX (R105). -/
def execPtrx (d a : SReg) (f : Fin 4) (s : State) : Host.Outcome State Fault Refusal :=
  alu1 (fun x => BitVec.ofNat 64 (ptrField x.toNat f)) d a s

/-! ### Scalar memory -/

/-- Bytes of a size (R66). -/
def sizeBytes : Size → Nat
  | .b => 1 | .h => 2 | .w => 4 | .d => 8

/-- The effective address of format M (R106). -/
def effAddr (a : Word) (off : BitVec 10) (n : Nat) : Nat :=
  (a + BitVec.ofInt 64 (off.toInt * n)).toNat

/-- The checks of a scalar access: its spaces, then its alignment (R106, R108); an access to accumulator rows waits
for the role's own matrix results (R145). -/
def scalarChecks (ea n maxSpace : Nat) : X Unit := do
  faultIf (maxSpace < ptrSpace ea) 0x05 ea
  faultIf (ea % n != 0) 0x04 ea
  let m ← me
  waitIf (ptrSpace ea == 2 && (← get).resultsPending m.1)

/-- A store of n bytes by the role, with the aliasing check (R191). -/
def storeNat (ea n v : Nat) (a : Acc := .write) : X Unit := do
  let w ← whoami
  storing [bytesAt ea n] (memWriteNat w ea n v a)

/-- SignExt of n bytes to a word. -/
def signExtBytes (n v : Nat) : Word := (BitVec.ofNat (8 * n) v).signExtend 64

/-- LD (R106). -/
def execLd (sz : Size) (d a : SReg) (off : BitVec 10) (s : State) : Host.Outcome State Fault Refusal :=
  instr 1 [a] [d] noPre (seqBody fun vs => do
    let ea := effAddr (arg vs 0) off (sizeBytes sz)
    scalarChecks ea (sizeBytes sz) 2
    let v ← memReadNat (← whoami) ea (sizeBytes sz)
    writeDst d (signExtBytes (sizeBytes sz) v)) s

/-- LDZ (R106). -/
def execLdz (sz : Size) (d a : SReg) (off : BitVec 10) (s : State) : Host.Outcome State Fault Refusal :=
  instr 1 [a] [d] noPre (seqBody fun vs => do
    let ea := effAddr (arg vs 0) off (sizeBytes sz)
    scalarChecks ea (sizeBytes sz) 2
    let v ← memReadNat (← whoami) ea (sizeBytes sz)
    writeDst d (BitVec.ofNat 64 v)) s

/-- ST (R106). Operands pop a, then d. -/
def execSt (sz : Size) (d a : SReg) (off : BitVec 10) (s : State) : Host.Outcome State Fault Refusal :=
  instr 1 [a, d] [] noPre (seqBody fun vs => do
    let ea := effAddr (arg vs 0) off (sizeBytes sz)
    scalarChecks ea (sizeBytes sz) 2
    storeNat ea (sizeBytes sz) (arg vs 1).toNat) s

/-- An acquire at enclosure scope on a pool region refreshes the root version of its counter tree (R242, log 80). -/
def acquireRoot (scope : Scope) (ea : Nat) : X Unit := do
  if scope = .enclosure ∧ ptrSpace ea = 0 then
    let t ← translate (← whoami) ea .none
    modify fun s => match s.regionAt t.pa with
      | none => s
      | some (i, r) => { s with roots := SMap.set s.roots i (s.topVersion r) }
  else pure ()

/-- LDAQ (R108): zero-extends. The order it adds holds of every interleaving of steps (log 3). -/
def execLdaq (sz : Size) (scope : Scope) (d a : SReg) (s : State) : Host.Outcome State Fault Refusal :=
  instr 1 [a] [d] noPre (seqBody fun vs => do
    let ea := (arg vs 0).toNat
    scalarChecks ea (sizeBytes sz) 1
    acquireRoot scope ea
    let v ← memReadNat (← whoami) ea (sizeBytes sz)
    writeDst d (BitVec.ofNat 64 v)) s

/-- STRL (R108): a release. -/
def execStrl (sz : Size) (_scope : Scope) (a b : SReg) (s : State) : Host.Outcome State Fault Refusal :=
  instr 1 [a, b] [] noPre (seqBody fun vs => do
    let ea := (arg vs 0).toNat
    scalarChecks ea (sizeBytes sz) 1
    performed
    storeNat ea (sizeBytes sz) (arg vs 1).toNat) s

/-- An atomic (R109): the old value to d, and the new one to memory where there is one. `f` gets the old value and
the operand values. With .rel or .ar it is a release, with .acq or .ar an acquire (R219). -/
def atomic (scope : Scope) (ord : MemOrder) (srcs : List SReg) (f : Word → List Word → Option Word) (d : SReg) :
    State → Host.Outcome State Fault Refusal :=
  instr 1 srcs [d] noPre (seqBody fun vs => do
    let ea := (arg vs 0).toNat
    scalarChecks ea 8 1
    if ord = .release ∨ ord = .acqRel then performed else pure ()
    if ord = .acquire ∨ ord = .acqRel then acquireRoot scope ea else pure ()
    let w ← whoami
    let old ← memReadNat w ea 8 .atomic
    match f (BitVec.ofNat 64 old) vs with
    | none => pure ()
    | some v => storeNat ea 8 v.toNat .atomic
    writeDst d (BitVec.ofNat 64 old))

/-- ATOM1: new := f(old, b). -/
def atom1 (f : Word → Word → Word) (scope : Scope) (ord : MemOrder) (d a b : SReg) : State → Host.Outcome State Fault Refusal :=
  atomic scope ord [a, b] (fun old vs => some (f old (arg vs 1))) d

/-- AADD (R109). -/
def execAadd (scope : Scope) (ord : MemOrder) (d a b : SReg) (s : State) : Host.Outcome State Fault Refusal :=
  atom1 (fun x y => x + y) scope ord d a b s
/-- AAND (R109). -/
def execAand (scope : Scope) (ord : MemOrder) (d a b : SReg) (s : State) : Host.Outcome State Fault Refusal :=
  atom1 (fun x y => x &&& y) scope ord d a b s
/-- AOR (R109). -/
def execAor (scope : Scope) (ord : MemOrder) (d a b : SReg) (s : State) : Host.Outcome State Fault Refusal :=
  atom1 (fun x y => x ||| y) scope ord d a b s
/-- AXOR (R109). -/
def execAxor (scope : Scope) (ord : MemOrder) (d a b : SReg) (s : State) : Host.Outcome State Fault Refusal :=
  atom1 (fun x y => x ^^^ y) scope ord d a b s
/-- AMIN (R109). -/
def execAmin (scope : Scope) (ord : MemOrder) (d a b : SReg) (s : State) : Host.Outcome State Fault Refusal :=
  atom1 (minS) scope ord d a b s
/-- AMAX (R109). -/
def execAmax (scope : Scope) (ord : MemOrder) (d a b : SReg) (s : State) : Host.Outcome State Fault Refusal :=
  atom1 (maxS) scope ord d a b s
/-- AMINN (R109). -/
def execAminn (scope : Scope) (ord : MemOrder) (d a b : SReg) (s : State) : Host.Outcome State Fault Refusal :=
  atom1 (minU) scope ord d a b s
/-- AMAXN (R109). -/
def execAmaxn (scope : Scope) (ord : MemOrder) (d a b : SReg) (s : State) : Host.Outcome State Fault Refusal :=
  atom1 (maxU) scope ord d a b s
/-- AXCHG (R109). -/
def execAxchg (scope : Scope) (ord : MemOrder) (d a b : SReg) (s : State) : Host.Outcome State Fault Refusal :=
  atom1 (fun _ y => y) scope ord d a b s
/-- ACAS (R109): d is the comparand; it writes where that changes the word. -/
def execAcas (scope : Scope) (ord : MemOrder) (d a b : SReg) (s : State) : Host.Outcome State Fault Refusal :=
  atomic scope ord [a, b, d] (fun old vs => if old = arg vs 2 ∧ arg vs 1 ≠ old then some (arg vs 1) else none) d s

/-! ### Control flow -/

/-- A transfer to a direct target (R58). A target outside the 55-bit virtual space ends the chain (R51, log 16). -/
def jumpTo (pc : Word) (delta : Int) (word : Fin 16) : Flow :=
  let t : Int := (pc.toNat / 64 * 64 : Nat) + 64 * delta + 4 * word.val
  if 0 ≤ t ∧ t < 2 ^ 55 then .goto t.toNat else .after [] pc.toNat 1

/-- A compare branch (R111). -/
def branch (taken : Word → Word → Bool) (a b : SReg) (t : TargetB) (s : State) : Host.Outcome State Fault Refusal :=
  instr 1 [a, b] [] noPre (fun vs => pure
    (if taken (arg vs 0) (arg vs 1) then jumpTo s.curPc t.delta.toInt t.word else .seq)) s

/-- BEQ (R111). -/
def execBeq (a b : SReg) (t : TargetB) (s : State) : Host.Outcome State Fault Refusal := branch (fun x y => x == y) a b t s
/-- BNE (R111). -/
def execBne (a b : SReg) (t : TargetB) (s : State) : Host.Outcome State Fault Refusal := branch (fun x y => x != y) a b t s
/-- BLT (R111). -/
def execBlt (a b : SReg) (t : TargetB) (s : State) : Host.Outcome State Fault Refusal := branch (fun x y => x.slt y) a b t s
/-- BGE (R111). -/
def execBge (a b : SReg) (t : TargetB) (s : State) : Host.Outcome State Fault Refusal := branch (fun x y => !x.slt y) a b t s
/-- BLTN (R111). -/
def execBltn (a b : SReg) (t : TargetB) (s : State) : Host.Outcome State Fault Refusal := branch (fun x y => x.ult y) a b t s
/-- BGEN (R111). -/
def execBgen (a b : SReg) (t : TargetB) (s : State) : Host.Outcome State Fault Refusal := branch (fun x y => !x.ult y) a b t s

/-- BZ (R111). -/
def execBz (a : SReg) (t : TargetB) (s : State) : Host.Outcome State Fault Refusal :=
  instr 1 [a] [] noPre (fun vs => pure
    (if arg vs 0 = 0 then jumpTo s.curPc t.delta.toInt t.word else .seq)) s

/-- BNZ (R111). -/
def execBnz (a : SReg) (t : TargetB) (s : State) : Host.Outcome State Fault Refusal :=
  instr 1 [a] [] noPre (fun vs => pure
    (if arg vs 0 ≠ 0 then jumpTo s.curPc t.delta.toInt t.word else .seq)) s

/-- The link value (R112): Next(pc, 1), or the marker pc + 4. -/
def linkValue (s : State) : Word :=
  match s.role s.cur with
  | none => 0
  | some k => BitVec.ofNat 64 ((nextPc k.line k.pc.toNat 1).getD (k.pc.toNat + 4))

/-- JL (R112). -/
def execJl (d : SReg) (t : TargetJ) (s : State) : Host.Outcome State Fault Refusal :=
  instr 1 [] [d] noPre (fun _ => do
    writeDst d (linkValue s)
    pure (jumpTo s.curPc t.delta.toInt t.word)) s

/-- JR (R113): the checks of R58, then the link, then the target. -/
def execJr (d a : SReg) (s : State) : Host.Outcome State Fault Refusal :=
  instr 1 [a] [d] noPre (fun vs => do
    let t := (arg vs 0).toNat
    faultIf (t / 2 ^ 55 != 0) 0x05 t
    faultIf (t % 4 != 0) 0x04 t
    writeDst d (linkValue s)
    pure (.goto t)) s


end Sys2Proof.Machine
end

