-- ==== Sys2Proof/Machine/Fetch.lean ====
section
/-! DEFINITION. Fetching code (R50 to R58, R457): the code line buffer, the checks of a line and of an arrival, the
word at the PC; and the instructions that look at another line: LOOP (R114), and system traps (R115 to R119). -/

namespace Sys2Proof.Machine

open Sys2Proof

/-- The sixteen words of a line. -/
def lineWords (bs : List Byte) : List Nat := bytesToWords bs

/-- Put a line at the front of a core's buffer of 64 (R457). -/
def linePut (t : List LineEntry) (e : LineEntry) : List LineEntry :=
  (e :: t.filter fun x => !(x.ctx == e.ctx && x.va == e.va)).take 64

/-- A line that the core's buffer holds. -/
def State.lineHeld (s : State) (w : Who) (va : Nat) : Option (List Nat) :=
  match w.core with
  | none => none
  | some c => ((s.core c).lines.find? fun e => e.ctx == w.ctx && e.va == va).map LineEntry.words

/-- Enter a line into the buffer. -/
def State.lineFill (s : State) (w : Who) (va : Nat) (ws : List Nat) : State :=
  match w.core with
  | none => s
  | some c => s.onCore c fun k => { k with lines := linePut k.lines ⟨w.ctx, va, ws⟩ }

/-- Fetch a line (R50, R457): from the buffer, or through translation with X, poison checked. -/
def fetchLine (w : Who) (va : Nat) : X (List Nat) := do
  let s ← get
  match s.lineHeld w va with
  | some ws => set (s.lineFill w va ws); pure ws
  | none =>
    faultIf (va / 2 ^ 55 != 0) 0x05 va
    let t ← translate w va .fetch
    let s1 ← get
    let r ← physRead (s1.leafKeyRef t.leaf) (leafC t.leaf) va t.pa 64
    faultIf (r.2 || lbit t.leaf 11) 0x08 va
    modify fun s2 => s2.lineFill w va (lineWords r.1)
    pure (lineWords r.1)

/-- Is a line illegal (R53)? -/
def lineIllegal (ws : List Nat) : Bool :=
  let link := ws.headD 0
  linkOwner link == 5 || linkOwner link == 6 || linkOwner link == 7 || linkCount link == 0
    || (ws.drop (linkCount link + 1)).any (· != 0)

/-- Which owners a role may execute (R57). `seq` says that the part runs a save or restore sequence. -/
def ownerOk (k : RoleKind) (seq : Bool) (owner : Nat) : Bool :=
  match k with
  | .fetch => owner == 0 || owner == 3
  | .compute => if seq then owner == 4 else owner == 1 || owner == 3
  | .drain => owner == 2 || owner == 3

/-- Is word w an instruction boundary, decoding from word i on (R54)? -/
def boundaryFrom (ws : List Nat) (w : Nat) : Nat → Nat → Bool
  | 0, _ => false
  | f + 1, i => if w ≤ i then i == w else boundaryFrom ws w f (i + wordsOf (ws.getD i 0))

/-- Is word w an instruction boundary of the line at or below COUNT (R55)? -/
def wordLegal (ws : List Nat) (w : Nat) : Bool :=
  1 ≤ w && decide (w ≤ linkCount (ws.headD 0)) && boundaryFrom ws w 16 1

/-- Does the part run a save or restore sequence for the group (R286, R287)? -/
def Group.inSequence (g : Group) : Bool :=
  match g.state with
  | .saving _ _ | .restoring _ _ => true
  | .starting | .running | .draining | .marked _ | .replaying _ _ _ | .dying _ _ _ => false

/-- Start reading the line that NEXT names, without faults (R457). -/
def State.prefetch (s : State) (w : Who) (line : List Nat) (va : Nat) : State :=
  let link := line.headD 0
  let a : Int := (va : Int) + 64 * linkNext link
  if linkNext link = 0 ∨ a < 0 ∨ 2 ^ 55 ≤ a then s
  else
    let n := a.toNat
    match s.lineHeld w n, w.core with
    | some _, _ => s
    | none, none => s
    | none, some c =>
      if (s.tlbFind w n).isSome then
        match fetchLine w n s with
        | .ok (_, s1) => s1
        | .error _ => s
      else { s with walks := s.walks ++ [⟨w.ctx, c, n, 1, (s.ctx w.ctx).desc.ptroot⟩] }

/-- A role's arrival at its PC: the checks of R80 steps 1 to 3, with the line fetched where the role does not
execute it already. -/
def arrive : X (List Nat) := do
  let m ← me
  let pc := m.2.2.pc.toNat
  let va := pc / 64 * 64
  let w : Who := ⟨m.2.1.ctx, some m.1.core, some m.1.slot⟩
  faultIf (pc / 2 ^ 55 != 0) 0x15 0
  let ws ← if m.2.2.line.isEmpty then fetchLine w va else pure m.2.2.line
  faultIf (lineIllegal ws) 0x02 va
  faultIf (!ownerOk m.1.role m.2.1.inSequence (linkOwner (ws.headD 0))) 0x15 0
  faultIf (m.2.2.chained && linkOwner (ws.headD 0) != 3) 0x15 0
  faultIf (pc % 4 != 0 || !wordLegal ws (pc % 64 / 4)) 0x15 0
  modify fun s =>
    let s1 := s.onRole m.1 fun k => { k with line := ws, chained := false }
    if m.2.2.line.isEmpty then s1.prefetch w ws va else s1
  pure ws

/-- The instruction at a word of a line (R54, R79): the words up to COUNT are decoded. -/
def decodeAt (ws : List Nat) (pc : Nat) : Except DecodeError Instr :=
  decodeWords ((ws.take (linkCount (ws.headD 0) + 1)).drop (pc % 64 / 4))

/-- Size of the instruction at a PC of a line. -/
def sizeAt (ws : List Nat) (pc : Nat) : Nat := wordsOf (ws.getD (pc % 64 / 4) 0)

/-! ### LOOP -/

/-- The way past a skipped body (R114): a fault met there is raised with FAULTPC = end. DEDUCED (log 77): the body's last
line is fetched, where it is not the line that the role executes (R60), and its form checked, its owner is not; the flow has then come
to end. -/
def loopSkip (w : Who) (k : Role) (stop : Nat) : X Flow := do
  let r ← attempt (do
    faultIf (stop / 2 ^ 55 != 0) 0x15 0
    let ws ← if stop / 64 = k.pc.toNat / 64 then pure k.line else fetchLine w (stop / 64 * 64)
    faultIf (lineIllegal ws) 0x02 (stop / 64 * 64)
    faultIf (!wordLegal ws (stop % 64 / 4)) 0x15 0
    pure ws)
  match r with
  | .error t => pure (.faultAt t stop)
  | .ok ws => pure (.after ws stop (sizeAt ws stop))

/-- The PC of the last instruction of a loop's body, modulo 2^64. -/
def loopStop (pc : Word) (t : TargetJ) : Nat :=
  (((pc.toNat / 64 * 64 : Nat) + 64 * t.delta.toInt + 4 * t.word.val) % 2 ^ 64).toNat

/-- LOOP (R114). It transfers control itself, so one that stands at the end of the enclosing entry, or that names itself, is not
counted there (DEDUCED, log 77). The body may lie behind the chain of a common line (R57). -/
def execLoop (c : SReg) (t : TargetJ) (s : State) : Host.Outcome State Fault Refusal :=
  instr 1 [] [] (faultIf c.isPort 0x01 0) (fun _ => do
    let m ← me
    let pc := m.2.2.pc.toNat
    let stop := loopStop m.2.2.pc t
    if m.2.2.reg c = 0 then loopSkip (← whoami) m.2.2 stop
    else
      let start := (nextPc m.2.2.line pc 1).getD (pc + 4)
      modify fun s1 => s1.onRole m.1 fun k =>
        { k with loops := (⟨BitVec.ofNat 64 start, BitVec.ofNat 64 stop, c⟩ :: k.loops).take 4 }
      pure (.after m.2.2.line pc 1)) s

/-! ### SYS -/

/-- NOP (R115). -/
def execNop (s : State) : Host.Outcome State Fault Refusal := instr 1 [] [] noPre (seqBody fun _ => pure ()) s

/-- TFENCE (R117): every earlier instruction of the role has completed, matrix results included. -/
def execTfence (s : State) : Host.Outcome State Fault Refusal :=
  instr 1 [] [] noPre (seqBody fun _ => do
    let m ← me
    performed
    let f := m.2.1.flags &&& m.2.1.tfctl
    faultIf (f != 0) 0x10 f.toNat) s

/-- TRAP and BRK retire, and then the fault is delivered with the code in INFO (R118). -/
def trapWith (cause : Nat) (code : BitVec 20) : State → Host.Outcome State Fault Refusal :=
  instr 1 [] [] noPre (fun _ => pure (.retiredFault { code := cause, va := 0, info := code }))

/-- TRAP (R118). -/
def execTrap (code : BitVec 20) (s : State) : Host.Outcome State Fault Refusal := trapWith 0x11 code s

/-- BRK (R118). -/
def execBrk (code : BitVec 20) (s : State) : Host.Outcome State Fault Refusal := trapWith 0x12 code s

/-- FENCE (R119): in one interleaving of whole steps its order holds already (log 3); one that releases waits for the role's
matrix results. -/
def execFence (_scope : Scope) (kind : FenceKind) (s : State) : Host.Outcome State Fault Refusal :=
  instr 1 [] [] noPre (seqBody fun _ => if kind = .acquire then pure () else performed) s

/-- CYC (R115). -/
def execCyc (d : SReg) (s : State) : Host.Outcome State Fault Refusal :=
  instr 1 [] [d] noPre (seqBody fun _ => writeDst d s.cycle) s

end Sys2Proof.Machine
end

