-- ==== Sys2Proof/Machine/Park.lean ====
section
/-! DEFINITION. The image slots of the Lattices and the requests on their streams, which suspension and replay make as
stream instructions do (R239, R377, R380, R395). -/

namespace Sys2Proof.Machine

open Sys2Proof

/-- The stream of an image slot. -/
def State.latSlot (s : State) (lat slot : Nat) : LatSlot := (SMap.get s.lats (lat * 4 + slot)).getD LatSlot.fresh

/-- Update an image slot. -/
def State.onLat (s : State) (lat slot : Nat) (f : LatSlot → LatSlot) : State :=
  { s with lats := SMap.set s.lats (lat * 4 + slot) (f (s.latSlot lat slot)) }

/-- Update the stream of an image slot. -/
def State.onStream (s : State) (lat slot : Nat) (f : Stream → Stream) : State :=
  s.onLat lat slot fun l => { l with stream := l.stream.map f }

/-- Is a stream held by a group? That of an LS copy is the copy's (R387). -/
def Stream.heldBy (t : Stream) (id : RoleId) (g : Group) : Bool :=
  t.core == id.core && t.gslot == id.slot && t.order == g.order && t.taken.isNone && t.copy.isNone

/-- No row of the stream is in the grid: it stands at a row boundary (R377). -/
def Stream.atEdge (t : Stream) : Bool := t.made.isEmpty || t.state != .running

/-- What a row boundary makes of a stream that is asked to leave, stop, park or hold (R377, R380); none frees the slot.
Bursts of later rows are discarded. -/
def Stream.edge (t : Stream) : Option Stream :=
  let u := { t with issued := [], parts := [], landed := [], closing := false }
  if t.relReq then none
  else if t.state == .done || t.state == .parked then some t
  else if t.stopReq then some { u with state := .stopped, stopReq := false, holdReq := false }
  else if t.parkReq || t.rebindReq then some { u with state := .parked, holdReq := false, wasStopped := t.state == .stopped }
  else if t.holdReq && t.state == .running then some { u with state := .held, holds := t.holds + 1, boundary := false }
  else some { t with closing := false }

/-- Apply the requests on a stream that stands at a row boundary. -/
def State.atEdge (s : State) (lat slot : Nat) : State :=
  s.onLat lat slot fun l =>
    match l.stream with
    | none => l
    | some t => if t.atEdge then { l with stream := t.edge } else l

/-- Ask something of every stream that a condition names, and apply it where it stands at a row boundary. The stream of an LS
copy goes with its copy (R338, log 83). -/
def State.askStreams (s : State) (which : Stream → Bool) (f : Stream → Stream) : State :=
  s.lats.foldl (fun t p =>
    match p.2.stream with
    | none => t
    | some st => if which st && st.copy.isNone then (t.onStream (p.1 / 4) (p.1 % 4) f).atEdge (p.1 / 4) (p.1 % 4) else t) s

/-- Park the streams of a context at their next row boundaries (R239, R395). -/
def State.parkStreams (s : State) (x : CtxId) : State := s.askStreams (fun t => t.ctx == x) fun t => { t with parkReq := true }

end Sys2Proof.Machine
end

