-- ==== Sys2Proof/Machine/Log.lean ====
section
/-! DEFINITION. The replay log (R247, R248), and the removal of a context's groups that a divergence, SUSPEND and
DRAIN share (R236, R239). -/

namespace Sys2Proof.Machine

open Sys2Proof

/-- The level that a handle names, unless it is stale (R250). -/
def Context.level (x : Context) (handle : Nat) : Option Level :=
  match SMap.get x.levels (handle % 4096) with
  | none => none
  | some l => if l.state != .free && l.gen.toNat == handle / 4096 && handle < 2 ^ 32 then some l else none

/-- The kernel header of a group's launch, which the part keeps on chip (R263). -/
def State.headerOf (s : State) (g : Group) : Option Header :=
  match (s.ctx g.ctx).level g.record.launch with
  | none => none
  | some l => l.header

/-- Every slot of the device. -/
def allSlots : List (CoreId × SlotId) :=
  (List.finRange 128).flatMap fun c => (List.finRange 4).map fun g => (c, g)

/-- Update every group of a context. -/
def State.onGroupsOf (s : State) (x : CtxId) (f : Group → Group) : State :=
  { s with cores := s.cores.map fun k =>
      { k with slots := k.slots.map fun o => o.map fun g => if g.ctx = x then f g else g } }

/-- The groups of a context with their slots. -/
def State.groupsOf (s : State) (x : CtxId) : List (CoreId × SlotId × Group) :=
  allSlots.filterMap fun p =>
    match s.group p.1 p.2 with
    | none => none
    | some g => if g.ctx = x then some (p.1, p.2, g) else none

/-- Is a group already on its way out of its slot, or before its restore sequence, which it reaches first (R287, R288)? -/
def Group.leaving (g : Group) : Bool :=
  match g.state with
  | .dying _ _ _ | .draining | .marked _ | .saving _ _ | .replaying _ _ _ | .restoring _ .drain
  | .restoring _ (.checkpoint _) => true
  | .starting | .running | .restoring _ .none => false

/-- Mark a group for checkpoint or for drain; one in its restore sequence ends that first (R288). -/
def Group.mark (g : Group) (m : Mark) : Group :=
  { g with state := match g.state, m with
      | .restoring cont _, _ => .restoring cont m
      | _, .none => g.state
      | _, .drain => .draining
      | _, .checkpoint since => .marked since }

/-- SUSPEND's treatment of a group (R239): checkpoint where yield points are declared, else kill where restartable,
else drain. -/
def State.suspendGroup (s : State) (g : Group) : Group :=
  if g.leaving then g
  else if g.state = .starting then { g with state := .dying true false false }
  else
    match s.headerOf g with
    | none => { g with state := .dying false false false }
    | some h =>
      if h.yields then g.mark (.checkpoint s.cycle.toNat)
      else if h.restartable then { g with state := .dying true false false }
      else g.mark .drain

/-- Suspend a context (R236, R239): dispatch stops, every group leaves, BUSY until the last has left. -/
def State.suspendCtx (s : State) (x : CtxId) : State :=
  (s.onGroupsOf x fun g => s.suspendGroup g).onCtx x fun c => { c with state := .suspended, busy := true }

/-- An event of a replaying context can never match its record (R248): DIVERGE, and a context that runs is suspended as
SUSPEND does it (R236, R239). -/
def State.diverge (s : State) (x : CtxId) : State :=
  let s1 := s.onCtx x fun c => { c with diverge := true }
  if (s.ctx x).state == .running then (s1.suspendCtx x).parkStreams x else s1

/-- Records that the log can hold (R247). -/
def Context.logCap (x : Context) : Nat := 128 * x.desc.logsize

/-- The log has no free record (R247). -/
def Context.logFull (x : Context) : Bool := x.logCap ≤ (x.logHead - x.logTail).toNat

/-- A log record (R247). -/
def logBytes (kind : Nat) (core : Option CoreId) (seq id data : Nat) : List Byte :=
  [BitVec.ofNat 8 kind, 0, BitVec.ofNat 8 ((core.map Fin.val).getD 255), 0, 0, 0, 0, 0] ++ leBytes 8 seq
    ++ leBytes 8 id ++ leBytes 8 data

/-- Append a record to the log; waits while the log is full (R247). -/
def logAppend (x : CtxId) (kind : Fin 5) (core : Option CoreId) (id data : Nat) : X Unit := do
  let s ← get
  let c := s.ctx x
  waitIf c.logFull
  let seq := vget c.counters kind + 1
  let at_ := c.desc.logbase + 32 * (c.logHead.toNat % c.logCap)
  rawWrite (s.keyOf c.desc.key) at_ at_ (logBytes (kind.val + 1) core seq.toNat id data)
  modify fun s => s.onCtx x fun c => { c with counters := vset c.counters kind seq, logHead := c.logHead + 1 }

/-- A record read back in replay: its index, ID and DATA. -/
structure LogRec where
  ix : Nat
  id : Nat
  data : Nat
  deriving DecidableEq, Repr

/-- Is a record of the log well formed: are its bytes 1 and 3 to 7 zero (R5, R247)? -/
def logRecordOk (b : List Byte) : Bool := leNat ((b.drop 1).take 1) == 0 && leNat ((b.drop 3).take 5) == 0

/-- The ID of a record that no event matches: it is no 64-bit number. -/
def logNever : Nat := 2 ^ 64

/-- The next record of a kind from an index on; the log ends at a record of kind 0. One that is not well formed matches no event
(R5, R248). -/
def logFind (s : State) (c : Context) (kind : Nat) : Nat → Nat → Option LogRec
  | 0, _ => none
  | f + 1, i =>
    let at_ := c.desc.logbase + 32 * (i % c.logCap)
    let b := (s.heldBytes (s.keyOf c.desc.key) at_ 32).1
    let k := leNat (b.take 1)
    if k = 0 then none
    else if k = kind then some ⟨i, if logRecordOk b then leNat ((b.drop 16).take 8) else logNever, leNat ((b.drop 24).take 8)⟩
    else logFind s c kind f (i + 1)

/-- Does some record of a kind from an index on satisfy a test? -/
def logAny (s : State) (c : Context) (kind : Nat) (p : LogRec → Bool) : Nat → Nat → Bool
  | 0, _ => false
  | f + 1, i =>
    match logFind s c kind (f + 1) i with
    | none => false
    | some r => p r || logAny s c kind p f (r.ix + 1)

/-- The next record of a kind in replay (R248); kinds count from 0 here. -/
def State.logNext (s : State) (x : CtxId) (kind : Fin 5) : Option LogRec :=
  let c := s.ctx x
  logFind s c (kind.val + 1) c.logCap (c.logTail.toNat + vget c.replayAt kind)

/-- Take a record in replay. -/
def State.logTake (s : State) (x : CtxId) (kind : Fin 5) (r : LogRec) : State :=
  s.onCtx x fun c =>
    { c with replayAt := vset c.replayAt kind (r.ix + 1 - c.logTail.toNat),
             counters := vset c.counters kind (vget c.counters kind + 1) }

/-- An event that is compared with its record (kinds 1 and 2 of R248): logged live; in replay the next record must
match, else DIVERGE and suspension. -/
def logEvent (x : CtxId) (kind : Fin 5) (core : Option CoreId) (id data : Nat) : X Unit := do
  let s ← get
  if !(s.ctx x).desc.replay then logAppend x kind core id data
  else
    match s.logNext x kind with
    | none => set (s.diverge x)
    | some r => set (if r.id = id ∧ r.data = data then s.logTake x kind r else s.diverge x)

end Sys2Proof.Machine
end

