-- ==== Sys2Proof/Machine/Queue.lean ====
section
/-! DEFINITION. Queues (R290 to R308): the QUE instructions, notify queues, queue stall. -/

namespace Sys2Proof.Machine

open Sys2Proof

/-- Does a scope instance around `home` contain a core (R217)? -/
def inInstance (scope : Nat) (home core : CoreId) : Bool :=
  match scope with
  | 0 => home == core
  | 1 => home.val / 4 == core.val / 4
  | 2 => home.val / 32 == core.val / 32
  | _ => true

/-- The designator checks of QBIND, QCREATE and QDEL (R297, R299). -/
def checkDesignator (q kind : Nat) : X Unit :=
  faultIf (q / 2 ^ 55 != 4 * 2 ^ 5 + kind || q % 64 != 0) 0x05 q

/-- Misuse of a port named by a QUE instruction (R298); `push` none accepts either direction. -/
def needPort (p : PortName) (push : Option Bool) : X Unit := do
  let m ← me
  let ok := match push with
    | some d => portUsable m.1.role m.2.2 p d
    | none => portUsable m.1.role m.2.2 p false || portUsable m.1.role m.2.2 p true
  faultIf (!ok) 0x0D (56 + p.val)

/-- The queue behind a port of the role. -/
def myQueue (p : PortName) : X QueueName := do
  let m ← me
  pure (portQueue m.1 m.2.1.ctx m.2.2 p)

/-- Set a port binding of the role; the earlier one ends. -/
def bindPort (p : Fin 4) (b : PortBinding) : X Unit := do
  let m ← me
  modify fun s => (s.leaveQueues m.2.1.ctx s.cycle.toNat [vget m.2.2.ports p]).onRole m.1 fun k => { k with ports := vset k.ports p b }

/-- QBIND (R297). -/
def execQbind (d a : SReg) (p : Fin 4) (push unbind : Bool) (s : State) : Host.Outcome State Fault Refusal :=
  instr 1 [a] [d] noPre (seqBody fun vs => do
    if unbind then
      bindPort p .unbound
      writeDst d 1
    else
      let m ← me
      let s ← get
      let q := (arg vs 0).toNat
      checkDesignator q 0
      match (s.ctx m.2.1.ctx).bindq (q % 2 ^ 55) with
      | none => writeDst d 0
      | some b =>
        if !inInstance b.scope b.home m.1.core then writeDst d 2
        else
          bindPort p (.bound b.va push)
          writeDst d 1) s

/-- QLEN (R298). -/
def execQlen (d : SReg) (p : PortName) (s : State) : Host.Outcome State Fault Refusal :=
  instr 1 [] [d] (needPort p none) (seqBody fun _ => do
    let q ← myQueue p
    let s ← get
    writeDst d (BitVec.ofNat 64 (s.queueLen q))) s

/-- QPEEK (R298): waits while there is no head entry. -/
def execQpeek (d : SReg) (p : PortName) (s : State) : Host.Outcome State Fault Refusal :=
  instr 1 [] [d] (needPort p (some false)) (seqBody fun _ => do
    let v ← queuePeek (← whoami) (← myQueue p)
    writeDst d v) s

/-- QTRY (R298): d keeps its value where nothing is popped; the flag goes to a. -/
def execQtry (d a : SReg) (p : PortName) (s : State) : Host.Outcome State Fault Refusal :=
  instr 1 [] [d] (needPort p (some false)) (seqBody fun _ => do
    let q ← myQueue p
    let s ← get
    if s.queueLen q = 0 then writeDst a 0
    else
      let v ← queuePop (← whoami) q
      writeDst d v
      writeDst a 1) s

/-- QPUSHT (R298): a release, where it pushes. -/
def execQpusht (d a : SReg) (p : PortName) (s : State) : Host.Outcome State Fault Refusal :=
  instr 1 [a] [d] (needPort p (some true)) (seqBody fun vs => do
    let q ← myQueue p
    let s ← get
    if s.queueCap q ≤ s.queueLen q then writeDst d 0
    else
      performed
      queuePush (← whoami) q (arg vs 0)
      writeDst d 1) s

/-- A bindable queue's header, where it is valid (R292, R299). -/
def parseBindq (va : Nat) (home : CoreId) (h : List Byte) : Option BindQ :=
  let base := leNat (h.take 8)
  let cap := leNat ((h.drop 8).take 4)
  let scope := leNat ((h.drop 12).take 1)
  let head := leNat ((h.drop 16).take 8)
  let tail := leNat ((h.drop 24).take 8)
  if allZero ((h.drop 13).take 3) && allZero (h.drop 32) && powerOfTwo 2 65536 cap && decide (scope ≤ 3)
      && decide (ptrSpace base ≤ 1) && ptrWellFormed base && base % 64 == 0 && decide (head ≤ tail)
      && decide (tail - head ≤ cap)
  then some ⟨va, home, base, cap, scope, head, tail, 0, 0⟩ else none

/-- QCREATE (R299): already live before invalid before table full. -/
def execQcreate (d a : SReg) (s : State) : Host.Outcome State Fault Refusal :=
  instr 1 [a] [d] noPre (seqBody fun vs => do
    let m ← me
    let w ← whoami
    let q := (arg vs 0).toNat
    checkDesignator q 0
    let va := q % 2 ^ 55
    let h ← memReadBytes w.part va 64 .queue
    let s ← get
    let c := s.ctx m.2.1.ctx
    match c.bindq va with
    | some _ => writeDst d 2
    | none =>
      match parseBindq va m.1.core h with
      | none => writeDst d 3
      | some b =>
        if 64 ≤ c.bindqs.length then writeDst d 0
        else
          modify fun s => s.onCtx m.2.1.ctx fun c => { c with bindqs := c.bindqs ++ [b] }
          writeDst d 1) s

/-- Does a role hold a binding to a queue? -/
def Role.boundTo (k : Role) (va : Nat) (push : Option Bool) : Bool :=
  k.ports.toList.any fun b =>
    match b with
    | .unbound => false
    | .bound v p => v == va && (match push with
      | none => true
      | some d => d == p)

/-- Write HEAD and TAIL of a live queue back to its header (R292). -/
def bindqBack (w : Who) (b : BindQ) : X Unit := do
  memWriteNat w.part (b.va + 16) 8 b.head .queueStore
  memWriteNat w.part (b.va + 24) 8 b.tail .queueStore

/-- QDEL (R299). -/
def execQdel (d a : SReg) (s : State) : Host.Outcome State Fault Refusal :=
  instr 1 [a] [d] noPre (seqBody fun vs => do
    let m ← me
    let w ← whoami
    let q := (arg vs 0).toNat
    checkDesignator q 0
    let va := q % 2 ^ 55
    let _ ← memReadBytes w.part va 64 .queue
    let s ← get
    match (s.ctx m.2.1.ctx).bindq va with
    | none => writeDst d 0
    | some b =>
      if (s.groupsOf m.2.1.ctx).any fun g => g.2.2.roles.toList.any fun k => k.boundTo va none then writeDst d 2
      else
        bindqBack w b
        modify fun s => s.onCtx m.2.1.ctx fun c => { c with bindqs := c.bindqs.filter fun y => y.va != va }
        writeDst d 1) s

/-! ### Notify queues -/

/-- A notify queue as its header describes it (R301). -/
structure NotifyQ where
  va : Nat
  lock : Nat
  head : Nat
  tail : Nat
  base : Nat
  cap : Nat
  deriving DecidableEq, Repr

/-- The operand checks of R302 and the header. -/
def openNotify (w : Who) (q r : Nat) : X NotifyQ := do
  checkDesignator q 1
  faultIf (1 < ptrSpace r) 0x05 r
  faultIf (r % 64 != 0) 0x04 r
  let va := q % 2 ^ 55
  let t ← translate w va .atomic
  faultIf (leafKind t.leaf != 1) 0x07 va
  let h ← memReadBytes w.part va 64 .atomic
  let base := leNat ((h.drop 24).take 8)
  let cap := leNat ((h.drop 32).take 4)
  faultIf (base / 2 ^ 55 != 0) 0x07 va
  let tr ← translate w base .atomic
  faultIf (leafKind tr.leaf != 1) 0x07 base
  faultIf (!(allZero (h.drop 36) && powerOfTwo 1 65536 cap && base % 64 == 0)) 0x01 va
  pure ⟨va, leNat (h.take 8), leNat ((h.drop 8).take 8), leNat ((h.drop 16).take 8), base, cap⟩

/-- The address of the poster's number of a position (R301). -/
def NotifyQ.posterAt (n : NotifyQ) (i : Nat) : Nat := n.base + 64 * n.cap + 2 * (i % n.cap)

/-- The pages of a record and of its poster's number are of kind 0b01 (R302). -/
def checkRing (w : Who) (n : NotifyQ) (i : Nat) : X Unit :=
  [n.base + 64 * (i % n.cap), n.posterAt i].forM fun a => do
    faultIf (a / 2 ^ 55 != 0) 0x05 a
    let t ← translate w a .atomic
    faultIf (leafKind t.leaf != 1) 0x07 a

/-- The indivisible step of a notify operation (R301): it waits while another processor holds LOCK, and takes and releases
LOCK around its accesses. -/
def lockedStep {α : Type} (w : Who) (n : NotifyQ) (x : X α) : X α := do
  let s ← get
  waitIf (n.lock != 0 && n.lock != s.encProc.toNat + 1)
  memWriteNat w.part n.va 8 (s.encProc.toNat + 1) .atomic
  let a ← x
  memWriteNat w.part n.va 8 0 .atomic
  pure a

/-- NQPOST (R303): the record is read before the queue step; waits while the queue is full. -/
def execNqpost (d a b : SReg) (s : State) : Host.Outcome State Fault Refusal :=
  instr 1 [a, b] [d] noPre (seqBody fun vs => do
    let w ← whoami
    let n ← openNotify w (arg vs 0).toNat (arg vs 1).toNat
    checkRing w n n.tail
    let bytes ← memReadBytes w (arg vs 1).toNat 64
    waitIf (n.cap ≤ n.tail - n.head)
    performed
    let s ← get
    lockedStep w n (do
      memWriteBytes w.part (n.base + 64 * (n.tail % n.cap)) bytes .atomic
      memWriteNat w.part (n.posterAt n.tail) 2 s.encProc.toNat .atomic
      memWriteNat w.part (n.va + 16) 8 (n.tail + 1) .atomic)
    writeDst d (BitVec.ofNat 64 (n.tail + 1))) s

/-- Deliver a taken record at r, a write of the group as any (R191); a fault keeps it in the role (R304). -/
def putRecord (d : SReg) (r : Nat) (bytes : List Byte) (res : Nat) (bad : Bool) : X Unit := do
  let m ← me
  let w ← whoami
  let s0 ← get
  let out ← attempt (storing [(r, r + 63)] (do
    let pl ← resolve w r 64 .write
    waitIf (s0.boardHits w r 64)
    writePlace r pl bytes
    if bad then losePlace r pl else pure ()))
  match out with
  | .error t => throw (.trap t (some (s0.onRole m.1 fun k => { k with heldRec := some (bytes, res, bad) })))
  | .ok _ =>
    modify fun s => s.onRole m.1 fun k => { k with heldRec := none }
    writeDst d (BitVec.ofNat 64 res)

/-- What a notify queue has for a pop. -/
inductive NotifyNext where
  | empty
  | record (i : Nat)
  /-- In replay the next record of the log can never match (R248). -/
  | never
  deriving DecidableEq, Repr

/-- The position that the step takes: HEAD, or in replay the next logged one, once it has been posted (R304, R248). A logged
position of this queue whose place a later record has taken, or that another processor posted, can never match (log 57). -/
def takePosition (w : Who) (q : Nat) (n : NotifyQ) : X NotifyNext := do
  let s ← get
  if !(s.ctx w.ctx).desc.replay then pure (if n.head = n.tail then .empty else .record n.head)
  else
    match s.logNext w.ctx 2 with
    | none => pure .empty
    | some r =>
      let i := r.data / 2 ^ 16
      if r.id = logNever then return .never
      waitIf (r.id != q || decide (n.tail ≤ i))
      checkRing w n i
      let p ← memReadNat w.part (n.posterAt i) 2 .atomic
      if i + n.cap < n.tail ∨ p ≠ r.data % 2 ^ 16 then pure .never
      else
        modify fun s => s.logTake w.ctx 2 r
        pure (.record i)

/-- The taking of the record at position i (R304): its bytes, its poster, and whether a line of it is lost. HEAD advances. -/
def takeRecord (w : Who) (n : NotifyQ) (i : Nat) : X (List Byte × Nat × Bool) := do
  checkRing w n i
  let t ← lockedStep w n (do
    let pl ← resolve w.part (n.base + 64 * (i % n.cap)) 64 .atomic
    let rcd ← readPlace (n.base + 64 * (i % n.cap)) 64 pl
    let p ← memReadNat w.part (n.posterAt i) 2 .atomic
    memWriteNat w.part (n.va + 8) 8 (n.head + 1) .atomic
    pure (rcd.1, p, rcd.2))
  acquireRoot .enclosure n.va
  pure t

/-- NQPOP and NQWAIT (R304). -/
def notifyTake (waits : Bool) (d a b : SReg) : State → Host.Outcome State Fault Refusal :=
  instr 1 [a, b] [d] noPre (fun vs => do
    let m ← me
    let w ← whoami
    let q := (arg vs 0).toNat
    let r := (arg vs 1).toNat
    match m.2.2.heldRec with
    | some (bytes, res, bad) =>
      putRecord d r bytes res bad
      pure .seq
    | none =>
      let n ← openNotify w q r
      match ← takePosition w q n with
      | .empty =>
        waitIf waits
        writeDst d 0
        pure .seq
      | .never =>
        modify fun s => s.diverge m.2.1.ctx
        pure .gone
      | .record i =>
        let rcd ← takeRecord w n i
        let s ← get
        if (s.ctx m.2.1.ctx).desc.replay then pure ()
        else logAppend m.2.1.ctx 2 (some m.1.core) q (rcd.2.1 + i * 2 ^ 16)
        putRecord d r rcd.1 (i + 1) rcd.2.2
        pure .seq)

/-- NQPOP (R304). -/
def execNqpop (d a b : SReg) (s : State) : Host.Outcome State Fault Refusal := notifyTake false d a b s

/-- NQWAIT (R304). -/
def execNqwait (d a b : SReg) (s : State) : Host.Outcome State Fault Refusal := notifyTake true d a b s

/-! ### Queue stall -/

/-- QSTALL_LIMIT in cycles (R307). -/
def qstallLimit : Nat := 120000

/-- Every role of the device with a group. -/
def State.allRoles (s : State) : List (RoleId × Group × Role) :=
  allSlots.flatMap fun p =>
    match s.group p.1 p.2 with
    | none => []
    | some g => [RoleKind.fetch, .compute, .drain].map fun k => (⟨p.1, p.2, k⟩, g, g.role k)

/-- A queue's producers and consumers (R307): role queues have the roles of R62, bindable ones the bound roles. -/
def State.usersOf (s : State) (q : QueueName) : List (RoleId × Group × Role) × List (RoleId × Group × Role) :=
  match q with
  | .role c g n =>
    let mine := s.allRoles.filter fun r => r.1.core == c && r.1.slot == g
    (mine.filter fun r => r.1.role == producer n.val, mine.filter fun r => r.1.role == consumer n.val)
  | .bindable x va =>
    let mine := s.allRoles.filter fun r => r.2.1.ctx == x
    (mine.filter fun r => r.2.2.boundTo va (some true), mine.filter fun r => r.2.2.boundTo va (some false))

/-- The cycle since when a wait for a queue has lasted without a break; none where the queue no longer holds it up. -/
def State.waitSince (s : State) (w : QueueWait) : Option Nat :=
  if s.queueStuck w.queue w.push then some (max w.since (s.queueMoved w.queue)) else none

/-- Has a role been blocked on some queue for QSTALL_LIMIT cycles, or for a role queue idle or arrived (R307)? A role at a
fault is not blocked (R306). -/
def State.countsBlocked (s : State) (q : QueueName) (r : Role) : Bool :=
  let long := fun (t : Nat) => decide (t + qstallLimit ≤ s.cycle.toNat)
  if r.status == .running then !r.stalled && r.blocked.any fun w => (s.waitSince w).any long
  else
    match q with
    | .role _ _ _ => long r.restAt
    | .bindable _ _ => false

/-- The latest cycle at which a role was not blocked on a queue, as far as it has noted. -/
def State.notBlockedAt (s : State) (r : Role) : Nat :=
  if r.status == .running && !r.stalled then (r.blocked.filterMap s.waitSince).foldl min s.cycle.toNat else s.cycle.toNat

/-- Since when a role is blocked on this queue. -/
def State.blockedSince (s : State) (q : QueueName) (r : Role) : Option Nat :=
  if r.status == .running && !r.stalled then (r.blocked.find? fun w => w.queue == q).bind s.waitSince else none

/-- The cycle of the latest end of a binding to a queue. -/
def State.queueLeft (s : State) (q : QueueName) : Nat :=
  match q with
  | .role _ _ _ => 0
  | .bindable x va => (match (s.ctx x).bindq va with
    | none => 0
    | some b => b.left)

/-- The condition of R307 has held for QSTALL_LIMIT cycles. -/
def State.stalledQueue (s : State) (q : QueueName) : Bool :=
  let u := s.usersOf q
  let all := u.1 ++ u.2
  !u.1.isEmpty && !u.2.isEmpty && decide (s.queueLeft q + qstallLimit ≤ s.cycle.toNat)
    && (all.all fun r => s.countsBlocked q r.2.2)
    && all.any fun r => (s.blockedSince q r.2.2).any fun t => decide (t + qstallLimit ≤ s.cycle.toNat)

/-- FAULTVA of a queue stall (R307). -/
def stallVa (q : QueueName) : Word :=
  match q with
  | .role _ _ n => BitVec.ofNat 64 (4 * 2 ^ 60 + n.val)
  | .bindable _ va => BitVec.ofNat 64 (4 * 2 ^ 60 + va)

/-- The roles that raise queue stall, each with the queue that it reports, in the order of R424: core by core, slot by slot,
fetch before compute before drain. One that is blocked on several queues that are due has one fault, at the first of them in the
order of its operands (R424; log 36). -/
def State.stallHits (s : State) : List (QueueName × RoleId × Word) :=
  s.allRoles.filterMap fun r =>
    (r.2.2.blocked.find? fun w => (s.blockedSince w.queue r.2.2).isSome && s.stalledQueue w.queue).map fun w => (w.queue, r.1, r.2.2.pc)

/-- QUEUE_STALL (R307): every role blocked on the queue raises queue stall at its waiting instruction, and so do those at
every other queue that is due at the same time. Nothing happens where the condition does not hold. -/
def execQueueStall (q : QueueName) (s : State) : Host.Outcome State Fault Refusal :=
  if s.stalledQueue q then
    .next (s.stallHits.foldl (fun t h => t.takeFault h.2.1 { code := 0x0E, va := stallVa h.1 } h.2.2 false) s)
  else .next s

end Sys2Proof.Machine
end

