-- ==== Sys2Proof/Machine/Barrier.lean ====
section
/-! DEFINITION. Barriers (R310 to R319). -/

namespace Sys2Proof.Machine

open Sys2Proof

/-- A barrier slot of a core. -/
def State.bar (s : State) (c : CoreId) (p : Fin 16) : Barrier := vget (s.core c).bars p

/-- Update a barrier slot. -/
def State.setBar (s : State) (c : CoreId) (p : Fin 16) (b : Barrier) : State :=
  s.onCore c fun k => { k with bars := vset k.bars p b }

/-- The identifier of a barrier (R311). -/
def barId (c : CoreId) (p : Fin 16) (x : CtxId) (b : Barrier) : Nat :=
  p.val + c.val * 2 ^ 4 + b.scope * 2 ^ 11 + x.val * 2 ^ 14 + b.gen.toNat * 2 ^ 18

/-- Fields of an identifier (R311). -/
def barSlot (id : Nat) : Fin 16 := Fin.ofNat 16 id
/-- HOME. -/
def barHome (id : Nat) : CoreId := Fin.ofNat 128 (id / 2 ^ 4)
/-- SCOPE. -/
def barScope (id : Nat) : Nat := id / 2 ^ 11 % 8
/-- CTX. -/
def barCtx (id : Nat) : CtxId := Fin.ofNat 16 (id / 2 ^ 14)
/-- GEN. -/
def barGen (id : Nat) : BitVec 16 := BitVec.ofNat 16 (id / 2 ^ 18)

/-- Done(t) (R314). -/
def phaseDone (phase t : BitVec 32) : Bool := 1 ≤ (phase - t).toNat && decide ((phase - t).toNat ≤ 2 ^ 31 - 1)

/-- The identifier checks of R314. -/
def checkBar (id : Nat) : X Barrier := do
  let m ← me
  let s ← get
  faultIf (id / 2 ^ 34 != 0 || decide (3 < barScope id)) 0x05 id
  faultIf (barCtx id != m.2.1.ctx || !s.owns m.2.1.ctx (barHome id)) 0x07 id
  faultIf (!inInstance (barScope id) (barHome id) m.1.core) 0x07 id
  let b := s.bar (barHome id) (barSlot id)
  faultIf (b.count == 0 || b.gen != barGen id) 0x05 id
  pure b

/-- One arrival (R315). -/
def Barrier.arrive (b : Barrier) : Barrier :=
  if b.arrived + 1 = b.count then { b with arrived := 0, phase := b.phase + 1 } else { b with arrived := b.arrived + 1 }

/-- BINIT (R313). -/
def execBinit (d a b : SReg) (s : State) : Host.Outcome State Fault Refusal :=
  instr 1 [a, b] [d] noPre (seqBody fun vs => do
    let m ← me
    let i := (arg vs 0).toNat
    let c := (arg vs 1).toNat
    match m.2.1.bars[i]? with
    | none => fault 0x05 i
    | some p =>
      faultIf (c / 2 ^ 19 != 0 || c % 2 ^ 16 == 0 || decide (3 < c / 2 ^ 16 % 8)) 0x01 0
      let s ← get
      let p := Fin.ofNat 16 p
      let nb : Barrier := ⟨(s.bar m.1.core p).gen + 1, c % 2 ^ 16, c / 2 ^ 16 % 8, 0, 0⟩
      set (s.setBar m.1.core p nb)
      writeDst d (BitVec.ofNat 64 (barId m.1.core p m.2.1.ctx nb))) s

/-- BARR (R315): a release (R317). -/
def execBarr (d a : SReg) (s : State) : Host.Outcome State Fault Refusal :=
  instr 1 [a] [d] noPre (seqBody fun vs => do
    let id := (arg vs 0).toNat
    let b ← checkBar id
    performed
    modify fun s => s.setBar (barHome id) (barSlot id) b.arrive
    writeDst d (b.phase.zeroExtend 64)) s

/-- BWAIT (R315): waits until the phase has completed. -/
def execBwait (d a b : SReg) (s : State) : Host.Outcome State Fault Refusal :=
  instr 1 [a, b] [d] noPre (seqBody fun vs => do
    let bar ← checkBar (arg vs 0).toNat
    waitIf (!phaseDone bar.phase ((arg vs 1).truncate 32))
    writeDst d (bar.phase.zeroExtend 64)) s

/-- BTEST (R315). -/
def execBtest (d a b : SReg) (s : State) : Host.Outcome State Fault Refusal :=
  instr 1 [a, b] [d] noPre (seqBody fun vs => do
    let bar ← checkBar (arg vs 0).toNat
    writeDst d (ofBool (phaseDone bar.phase ((arg vs 1).truncate 32)))) s

/-- BSYNC's arrival, once per execution of the instruction (R315, R318). -/
def bsyncArrive (d a : SReg) : State → Host.Outcome State Fault Refusal :=
  instr 1 [a] [d] noPre (fun vs => do
    let m ← me
    let id := (arg vs 0).toNat
    let b ← checkBar id
    performed
    let nb := b.arrive
    modify fun s => s.setBar (barHome id) (barSlot id) nb
    if phaseDone nb.phase b.phase then
      writeDst d (b.phase.zeroExtend 64)
      pure .seq
    else
      modify fun s => s.onRole m.1 fun k => { k with pendingBar := some b.phase }
      pure .gone)

/-- BSYNC's wait for the phase that it has arrived in. -/
def bsyncWait (t : BitVec 32) (d a : SReg) (s : State) : Host.Outcome State Fault Refusal :=
  instr 1 [a] [d] noPre (seqBody fun vs => do
    let m ← me
    let r ← attempt (checkBar (arg vs 0).toNat)
    match r with
    | .error f =>
      let s ← get
      throw (.trap f (some (s.onRole m.1 fun k => { k with pendingBar := none })))
    | .ok b =>
      waitIf (!phaseDone b.phase t)
      modify fun s => s.onRole m.1 fun k => { k with pendingBar := none }
      writeDst d (t.zeroExtend 64)) s

/-- BSYNC (R315): arrives, then waits for that phase; its arrival counts though it has not issued (R318). -/
def execBsync (d a : SReg) (s : State) : Host.Outcome State Fault Refusal :=
  match (s.role s.cur).bind Role.pendingBar with
  | none => bsyncArrive d a s
  | some t => bsyncWait t d a s

/-- Release the barrier slots of a group (R310). -/
def State.releaseBars (s : State) (c : CoreId) (bars : List Nat) : State :=
  bars.foldl (fun t p =>
    let b := t.bar c (Fin.ofNat 16 p)
    t.setBar c (Fin.ofNat 16 p) { b with count := 0, gen := b.gen + 1 }) s

end Sys2Proof.Machine
end

