-- ==== Sys2Proof/Machine/Vector.lean ====
section
/-! DEFINITION. Vector and special-function instructions, major 0x38 (R131 to R143). -/

namespace Sys2Proof.Machine

open Sys2Proof

/-- Elements of a group of len registers (R126). -/
def vecLen (o : VOp) : Nat := o.len.val * (256 / o.ty.laneBytes)

/-- The scalar that the b operand reads (R131). -/
def vecScalars (o : VOp) : List SReg :=
  match o.b with
  | .reg _ => []
  | .scalar r => [r]
  | .imm _ => []

/-- The register group of the b operand. -/
def vecBRows (o : VOp) : List (Nat × Nat) :=
  match o.b with
  | .reg v => [(v.val, o.len.val)]
  | .scalar _ => []
  | .imm _ => []

/-- The b operand of every element: encodings, the flags of its immediate, and VSCL's exponent or the shift amount
(R131, R133, R136). `signed` reads y as a signed exponent. -/
def vecBVals (o : VOp) (vs : List Word) (signed : Bool) : X (List Nat × Flags × List Int) := do
  let w := o.ty.laneBits
  let num := fun (x : Nat) => if signed then signedOf w x else (x : Int)
  match o.b with
  | .reg v =>
    let ys ← readElems v.val (vecLen o) o.ty
    pure (ys, 0, ys.map num)
  | .scalar _ =>
    let y := (arg vs 0).toNat % 2 ^ w
    pure (List.replicate (vecLen o) y, 0, List.replicate (vecLen o) (num y))
  | .imm i =>
    let r := if o.ty.isInt then o.ty.sat i.toInt else o.ty.round o.rm (.ofInt i.toInt)
    pure (List.replicate (vecLen o) r.1, r.2, List.replicate (vecLen o) i.toInt)

/-- Per-element effect over four lists. -/
def zipOp (f : Nat → Nat → Nat → Int → Nat × Flags) : List Nat → List Nat → List Nat → List Int → List (Nat × Flags)
  | x :: xs, y :: ys, c :: cs, k :: ks => f x y c k :: zipOp f xs ys cs ks
  | _, _, _, _ => []

/-- Write the results of the active elements, and zero or keep the others (R131). -/
def vecWriteBack (o : VOp) (rs : List (Nat × Flags)) : X Unit := do
  writeElems o.d.val 0 o.ty (rs.map Prod.fst)
  if o.z then writeElems o.d.val rs.length o.ty (List.replicate ((vecLen o) - rs.length) 0) else pure ()

/-- The sequence of R131 for an effect on elements. `immFlags` says that the conversion of an immediate raises its
flags: the bit-pattern instructions raise none (R135). -/
def vecElem (g : VFn) (signed immFlags : Bool) (o : VOp) : State → Host.Outcome State Fault Refusal :=
  let rows := (o.d.val, o.len.val) :: (o.a.val, o.len.val) :: vecBRows o
  instr 2 (vecScalars o) [] (needRows rows) (seqBody fun vs => do
    rowsReady rows
    let m ← me
    let n := (vecLen o)
    let a := activeCount m.2.1 o.k o.ty.laneBits n
    let xs ← readElems o.a.val n o.ty
    let cs ← readElems o.d.val n o.ty
    let ys ← vecBVals o vs signed
    let rs := zipOp (elemOp g o.ty o.rm) (xs.take a) ys.1 cs ys.2.2
    vecWriteBack o rs
    reportVector o.d.val o.ty o.ty.code o.ty.code (if immFlags && a != 0 then ys.2.1 else 0) rs)

/-- VADD (R133, R134). -/
def execVadd (o : VOp) (s : State) : Host.Outcome State Fault Refusal := vecElem .add false true o s
/-- VSUB (R133, R134). -/
def execVsub (o : VOp) (s : State) : Host.Outcome State Fault Refusal := vecElem .sub false true o s
/-- VMUL (R133, R134). -/
def execVmul (o : VOp) (s : State) : Host.Outcome State Fault Refusal := vecElem .mul false true o s
/-- VFMA (R133, R134). -/
def execVfma (o : VOp) (s : State) : Host.Outcome State Fault Refusal := vecElem .fma false true o s
/-- VFMS (R133, R134). -/
def execVfms (o : VOp) (s : State) : Host.Outcome State Fault Refusal := vecElem .fms false true o s
/-- VMAX (R133, R134). -/
def execVmax (o : VOp) (s : State) : Host.Outcome State Fault Refusal := vecElem .max false true o s
/-- VMIN (R133, R134). -/
def execVmin (o : VOp) (s : State) : Host.Outcome State Fault Refusal := vecElem .min false true o s
/-- VSCL (R133): a signed exponent or the raw immediate. With ty e2m1 the exponent is read from all 8 bits of the lane (DEDUCED, log 86). -/
def execVscl (o : VOp) (s : State) : Host.Outcome State Fault Refusal := vecElem .scl true false o s
/-- VAND (R135). -/
def execVand (o : VOp) (s : State) : Host.Outcome State Fault Refusal := vecElem .and false false o s
/-- VOR (R135). -/
def execVor (o : VOp) (s : State) : Host.Outcome State Fault Refusal := vecElem .or false false o s
/-- VXOR (R135). -/
def execVxor (o : VOp) (s : State) : Host.Outcome State Fault Refusal := vecElem .xor false false o s
/-- VSHL (R136). -/
def execVshl (o : VOp) (s : State) : Host.Outcome State Fault Refusal := vecElem .shl false false o s
/-- VSHR (R136). -/
def execVshr (o : VOp) (s : State) : Host.Outcome State Fault Refusal := vecElem .shr false false o s
/-- VSAR (R136). -/
def execVsar (o : VOp) (s : State) : Host.Outcome State Fault Refusal := vecElem .sar false false o s
/-- VCMPEQ (R137). -/
def execVcmpeq (o : VOp) (s : State) : Host.Outcome State Fault Refusal := vecElem .cmpeq false true o s
/-- VCMPLT (R137). -/
def execVcmplt (o : VOp) (s : State) : Host.Outcome State Fault Refusal := vecElem .cmplt false true o s
/-- VCMPLE (R137). -/
def execVcmple (o : VOp) (s : State) : Host.Outcome State Fault Refusal := vecElem .cmple false true o s
/-- VSEL (R137). -/
def execVsel (o : VOp) (s : State) : Host.Outcome State Fault Refusal := vecElem .sel false false o s
/-- VCLAMP (R133, R134). -/
def execVclamp (o : VOp) (s : State) : Host.Outcome State Fault Refusal := vecElem .clamp false true o s

/-- An effect of the a operand alone: b is unused, and its field is not checked (R132). -/
def vecUnary (f : Nat → Nat × Flags) (o : VOp) : State → Host.Outcome State Fault Refusal :=
  let rows := [(o.d.val, o.len.val), (o.a.val, o.len.val)]
  instr 2 [] [] (needRows rows) (seqBody fun _ => do
    rowsReady rows
    let m ← me
    let n := (vecLen o)
    let xs ← readElems o.a.val n o.ty
    let rs := (xs.take (activeCount m.2.1 o.k o.ty.laneBits n)).map f
    vecWriteBack o rs
    reportVector o.d.val o.ty o.ty.code o.ty.code 0 rs)

/-- VABS (R133, R134). -/
def execVabs (o : VOp) (s : State) : Host.Outcome State Fault Refusal :=
  vecUnary (fun x => elemOp .abs o.ty o.rm x 0 0 0) o s
/-- VNEG (R133, R134). -/
def execVneg (o : VOp) (s : State) : Host.Outcome State Fault Refusal :=
  vecUnary (fun x => elemOp .neg o.ty o.rm x 0 0 0) o s
/-- VMOV (R139), a bit pattern (R135). -/
def execVmov (o : VOp) (s : State) : Host.Outcome State Fault Refusal := vecUnary (fun x => (o.ty.pattern x, 0)) o s
/-- VEXP2 (R140). -/
def execVexp2 (o : VOp) (s : State) : Host.Outcome State Fault Refusal := vecUnary (Fn.exp2.apply o.ty o.rm) o s
/-- VLOG2 (R140). -/
def execVlog2 (o : VOp) (s : State) : Host.Outcome State Fault Refusal := vecUnary (Fn.log2.apply o.ty o.rm) o s
/-- VRCP (R140). -/
def execVrcp (o : VOp) (s : State) : Host.Outcome State Fault Refusal := vecUnary (Fn.rcp.apply o.ty o.rm) o s
/-- VRSQ (R140). -/
def execVrsq (o : VOp) (s : State) : Host.Outcome State Fault Refusal := vecUnary (Fn.rsq.apply o.ty o.rm) o s
/-- VSQRT (R140). -/
def execVsqrt (o : VOp) (s : State) : Host.Outcome State Fault Refusal := vecUnary (Fn.sqrt.apply o.ty o.rm) o s
/-- VTANH (R140). -/
def execVtanh (o : VOp) (s : State) : Host.Outcome State Fault Refusal := vecUnary (Fn.tanh.apply o.ty o.rm) o s
/-- VSIGM (R140). -/
def execVsigm (o : VOp) (s : State) : Host.Outcome State Fault Refusal := vecUnary (Fn.sigm.apply o.ty o.rm) o s

/-- VCVT (R138): len counts registers of the wider side. -/
def execVcvt (o : VOp) (s : State) : Host.Outcome State Fault Refusal :=
  let n := o.len.val * (256 / max o.ty.laneBytes o.ty2.laneBytes)
  let rows := [(o.d.val, (n * o.ty.laneBytes + 255) / 256), (o.a.val, (n * o.ty2.laneBytes + 255) / 256)]
  instr 2 [] [] (needRows rows) (seqBody fun _ => do
    rowsReady rows
    let m ← me
    let xs ← readElems o.a.val n o.ty2
    let rs := (xs.take (activeCount m.2.1 o.k o.ty.laneBits n)).map (convertElem o.ty2 o.ty o.rm)
    writeElems o.d.val 0 o.ty (rs.map Prod.fst)
    if o.z then writeElems o.d.val rs.length o.ty (List.replicate (n - rs.length) 0) else pure ()
    reportVector o.d.val o.ty o.ty2.code o.ty2.code 0 rs) s

/-- Write a sequence that reads no register group (R139). -/
def vecFill (o : VOp) (f : List Word → Nat → Nat × Flags) : State → Host.Outcome State Fault Refusal :=
  let rows := [(o.d.val, o.len.val)]
  instr 2 (vecScalars o) [] (needRows rows) (seqBody fun vs => do
    rowsReady rows
    let m ← me
    let rs := (List.range (activeCount m.2.1 o.k o.ty.laneBits (vecLen o))).map (f vs)
    vecWriteBack o rs
    reportVector o.d.val o.ty o.ty.code o.ty.code 0 rs)

/-- VSPLAT (R139): the low bits of the scalar, or Imm(v). -/
def execVsplat (o : VOp) (s : State) : Host.Outcome State Fault Refusal :=
  vecFill o (fun vs _ =>
    match o.b with
    | .reg _ => (0, 0)
    | .scalar _ => (o.ty.pattern ((arg vs 0).toNat % 2 ^ o.ty.laneBits), 0)
    | .imm i => o.ty.ofInt o.rm i.toInt) s

/-- VIOTA (R139). -/
def execViota (o : VOp) (s : State) : Host.Outcome State Fault Refusal :=
  vecFill o (fun vs i =>
    let t : Int := match o.b with
      | .reg _ => 0
      | .scalar _ => (arg vs 0).toInt
      | .imm v => v.toInt
    o.ty.ofInt o.rm (t + i)) s

/-- A reduction into element 0 of one register (R141). DEDUCED: with no active element it writes the 0 of R38 and R141, not
the nothing of R154's row A = 0 (log 76). -/
def vecReduce (f : List Nat → Nat × Flags) (o : VOp) : State → Host.Outcome State Fault Refusal :=
  let rows := [(o.d.val, 1), (o.a.val, o.len.val)]
  instr 2 [] [] (needRows rows) (seqBody fun _ => do
    rowsReady rows
    let m ← me
    let xs ← readElems o.a.val (vecLen o) o.ty
    let r := f (xs.take (activeCount m.2.1 o.k o.ty.laneBits (vecLen o)))
    writeElems o.d.val 0 o.ty [r.1]
    reportVector o.d.val o.ty o.ty.code o.ty.code 0 [r])

/-- VREDSUM (R141). -/
def execVredsum (o : VOp) (s : State) : Host.Outcome State Fault Refusal := vecReduce (sumOf o.ty o.rm) o s
/-- VREDMAX (R141). -/
def execVredmax (o : VOp) (s : State) : Host.Outcome State Fault Refusal := vecReduce (extremeOf .max o.ty) o s
/-- VREDMIN (R141). -/
def execVredmin (o : VOp) (s : State) : Host.Outcome State Fault Refusal := vecReduce (extremeOf .min o.ty) o s

/-- VSCAN (R142). -/
def execVscan (o : VOp) (s : State) : Host.Outcome State Fault Refusal :=
  let rows := [(o.d.val, o.len.val), (o.a.val, o.len.val)]
  instr 2 [] [] (needRows rows) (seqBody fun _ => do
    rowsReady rows
    let m ← me
    let xs ← readElems o.a.val (vecLen o) o.ty
    let a := activeCount m.2.1 o.k o.ty.laneBits (vecLen o)
    let rs := (List.range a).map (scanAt o.ty o.rm (xs.take a))
    vecWriteBack o rs
    reportVector o.d.val o.ty o.ty.code o.ty.code 0 rs) s

/-- VPERM (R143). With ty e2m1 the index is read from all 8 bits of the lane (DEDUCED, log 86). -/
def execVperm (o : VOp) (s : State) : Host.Outcome State Fault Refusal :=
  let rows := (o.d.val, o.len.val) :: (o.a.val, o.len.val) :: vecBRows o
  instr 2 (vecScalars o) [] (needRows rows) (seqBody fun vs => do
    rowsReady rows
    let m ← me
    let xs ← readElems o.a.val (vecLen o) o.ty
    let ys ← vecBVals o vs false
    let rs := (ys.1.take (activeCount m.2.1 o.k o.ty.laneBits (vecLen o))).map fun j => (o.ty.pattern (xs.getD j 0), (0 : Flags))
    vecWriteBack o rs) s

/-- VBCAST (R143): one element for all; an index outside the group gives zero bits. -/
def execVbcast (o : VOp) (s : State) : Host.Outcome State Fault Refusal :=
  let rows := [(o.d.val, o.len.val), (o.a.val, o.len.val)]
  instr 2 (vecScalars o) [] (needRows rows) (seqBody fun vs => do
    rowsReady rows
    let m ← me
    let xs ← readElems o.a.val (vecLen o) o.ty
    let j : Int := match o.b with
      | .reg _ => -1
      | .scalar _ => (arg vs 0).toNat
      | .imm i => i.toInt
    let v := if 0 ≤ j then o.ty.pattern (xs.getD j.toNat 0) else 0
    vecWriteBack o (List.replicate (activeCount m.2.1 o.k o.ty.laneBits (vecLen o)) (v, 0))) s

end Sys2Proof.Machine
end

