-- ==== Sys2Proof/Machine/VMem.lean ====
section
/-! DEFINITION. Vector memory instructions, major 0x39 (R147 to R152), and the GEN instructions (R158, R159). -/

namespace Sys2Proof.Machine

open Sys2Proof

/-! ### Generators in registers -/

/-- Write a generator register of the role's group. -/
def setGen (i : GReg) (v : BitVec 512) : X Unit :=
  onGroupOf fun g => { g with gens := vset g.gens i v }
where
  /-- Update the group of the role. -/
  onGroupOf (f : Group → Group) : X Unit := do
    let m ← me
    modify fun s => s.onGroup m.1.core m.1.slot f

/-- The checks of GLD and GST (R158). -/
def genAccess (p : Nat) : X Unit := do
  lowSpace p
  faultIf (p % 64 != 0) 0x04 p

/-- GLD (R158). -/
def execGld (g : GReg) (a : SReg) (s : State) : Host.Outcome State Fault Refusal :=
  instr 1 [a] [] noPre (seqBody fun vs => do
    let p := (arg vs 0).toNat
    genAccess p
    let bs ← memReadBytes (← whoami) p 64
    setGen g (BitVec.ofNat 512 (leNat bs))) s

/-- GST (R158). -/
def execGst (g : GReg) (a : SReg) (s : State) : Host.Outcome State Fault Refusal :=
  instr 1 [a] [] noPre (seqBody fun vs => do
    let p := (arg vs 0).toNat
    genAccess p
    let m ← me
    storing [bytesAt p 64] (memWriteBytes (← whoami) p (leBytes 64 (vget m.2.1.gens g).toNat))) s

/-- Replace bits [lo + n − 1 : lo] of a generator word. -/
def putBits (g : BitVec 512) (lo n v : Nat) : BitVec 512 :=
  BitVec.ofNat 512 (g.toNat - gbits g lo n * 2 ^ lo + v % 2 ^ n * 2 ^ lo)

/-- Product of the sizes of the axes below ax other than the block axis (R159). -/
def sizesBelow (g : Gen) (ax : Nat) : Nat :=
  (List.range ax).foldl (fun p i => if i = g.baxis then p else p * g.size i) 1

/-- The scale step of GADV (R159); none where the walk would leave a block. -/
def gadvScale (g : Gen) (ax : Nat) (n : Int) : Option Int :=
  if ax = g.baxis then (if n.fmod 8 ≠ 0 then none else some (n.fdiv 8)) else some (n * sizesBelow g ax * g.sstride)

/-- GADV (R159). -/
def execGadv (g : GReg) (a : SReg) (ax : Fin 4) (s : State) : Host.Outcome State Fault Refusal :=
  instr 1 [a] [] noPre (seqBody fun vs => do
    let m ← me
    let b := vget m.2.1.gens g
    let k := Walk4.ofBits b
    faultIf (!k.valid) 0x01 0
    let n := (arg vs 0).toInt
    let bits : Int := n * k.stride ax.val * k.wb
    faultIf (bits.fmod 8 != 0) 0x04 k.base
    let b1 := putBits b 0 64 (wrap64 (k.base + bits.fdiv 8))
    if !k.scaled then setGen g b1
    else
      match gadvScale k ax.val n with
      | none => fault 0x04 k.base
      | some sc => setGen g (putBits b1 320 64 (wrap64 (k.soff + sc - bits.fdiv 8)))) s

/-- Place and width of the fields of GSET (R158). -/
def gsetField (f : Fin 12) : Nat × Nat :=
  match f.val with
  | 0 => (0, 64)
  | 9 => (320, 64)
  | 10 => (384, 32)
  | 11 => (416, 96)
  | n => (64 + 32 * (n - 1), 32)

/-- GSET (R158): f = 11 writes bits [511:416]; DEDUCED: of the field's 96 bits the upper 32 are zero (log 78). -/
def execGset (g : GReg) (a : SReg) (f : Fin 12) (s : State) : Host.Outcome State Fault Refusal :=
  instr 1 [a] [] noPre (seqBody fun vs => do
    let m ← me
    let p := gsetField f
    setGen g (putBits (vget m.2.1.gens g) p.1 p.2 (arg vs 0).toNat)) s

/-! ### The frame of R147 -/

/-- Elements of a group of len registers. -/
def vmLen (o : VMOp) : Nat := o.len.val * (256 / o.ty.laneBytes)

/-- Active elements (R128). -/
def vmActive (g : Group) (o : VMOp) : Nat := activeCount g o.k o.ty.laneBits (vmLen o)

/-- Checks 3 and 4 of R147 over the active elements, given by their element numbers. -/
def checkElems (g : Gen) (es : List Int) : X Unit := do
  faultIf (es.any fun e => decide (e < 0) || decide ((g.count : Int) ≤ e)) 0x05 g.base
  es.forM fun e => do
    lowSpace (g.addr e.toNat).1
    if g.scaled then lowSpace (g.scaleAddr e.toNat) else pure ()

/-- The element numbers from e0 on. -/
def run (e0 : Int) (n : Nat) : List Int := (List.range n).map fun (i : Nat) => e0 + Int.ofNat i

/-- e0 of R148, and s[a] + idx of R150: DEDUCED (log 78), the sum is taken modulo 2^64 and read as a signed number. -/
def firstElem (o : VMOp) (a : Word) : Int := (a + o.imm.signExtend 64).toInt

/-- The generator of the instruction, checked for validity and against the formats accepted (R147 check 2). -/
def vmGen (o : VMOp) (accept : Nat → Bool) : X Gen := do
  let m ← me
  let g := Walk4.ofBits (vget m.2.1.gens o.g)
  faultIf (!g.valid || !accept g.code) 0x01 0
  pure g

/-- Formats that VLD and VST accept (R148). -/
def plainFmt (t : ElemTy) (c : Nat) : Bool := c == t.code || (t == .i8 && c == 13) || (t == .e2m1 && c == 14)

/-- The lane that VLD writes from a stored element (R148). -/
def loadLane (t : ElemTy) (c x : Nat) : Nat := if c = 13 then t.encInt (signedOf 4 x) else t.pattern x

/-- The stored element that VST writes from a lane (R148), with SAT. -/
def storeLane (t : ElemTy) (c x : Nat) : Nat × Flags :=
  if c = 13 then
    let i := t.int x
    let k : Int := max (-8) (min 7 i)
    ((BitVec.ofInt 4 k).toNat, Flags.when (k != i) Flags.sat)
  else (t.pattern x, 0)

/-- The rows of a vector memory instruction. -/
def vmRows (o : VMOp) : List (Nat × Nat) := [(o.d.val, o.len.val)]

/-- VLD (R148). -/
def execVld (o : VMOp) (s : State) : Host.Outcome State Fault Refusal :=
  instr 2 [o.a] [] (needRows (vmRows o)) (seqBody fun vs => do
    let g ← vmGen o (plainFmt o.ty)
    let m ← me
    let e0 := firstElem o (arg vs 0)
    let es := run e0 (vmActive m.2.1 o)
    checkElems g es
    faultIf (g.wb == 4 && e0 % 2 != 0) 0x04 (g.addr e0.toNat).1
    rowsReady (vmRows o)
    let w ← whoami
    let xs ← es.mapM fun e => faultsAt (g.addr e.toNat).1 (g.read w e.toNat)
    writeElems o.d.val 0 o.ty (xs.map (loadLane o.ty g.code))) s

/-- The bytes that stores to elements touch, scale bytes included. -/
def elemBytes (g : Gen) (es : List Int) : List (Nat × Nat) :=
  es.flatMap fun e =>
    bytesAt (g.addr e.toNat).1 (fmtBytes g.fmt) :: (if g.scaled then [bytesAt (g.scaleAddr e.toNat) 1] else [])

/-- VST (R148). -/
def execVst (o : VMOp) (s : State) : Host.Outcome State Fault Refusal :=
  instr 2 [o.a] [] (needRows (vmRows o)) (seqBody fun vs => do
    let g ← vmGen o (plainFmt o.ty)
    let m ← me
    let e0 := firstElem o (arg vs 0)
    let es := run e0 (vmActive m.2.1 o)
    checkElems g es
    faultIf (g.wb == 4 && e0 % 2 != 0) 0x04 (g.addr e0.toNat).1
    rowsReady (vmRows o)
    let w ← whoami
    let xs ← readElems o.d.val es.length o.ty
    let rs := xs.map (storeLane o.ty g.code)
    storing (elemBytes g es) ((es.zip rs).forM fun p => faultsAt (g.addr p.1.toNat).1 (g.write w p.1.toNat p.2.1))
    reportVector o.d.val o.ty o.ty.code o.ty.code 0 rs) s

/-- The value of an element under its scale, for VLDS; a fault names the element, or its scale byte. -/
def Walk4.valueOf (g : Gen) (w : Who) (e : Nat) : X Num := do
  let x ← faultsAt (g.addr e).1 (g.read w e)
  let sc ← g.readScale w e
  pure (applyScale (g.fmt.decode x) sc)

/-- VLDS (R149). -/
def execVlds (o : VMOp) (s : State) : Host.Outcome State Fault Refusal :=
  instr 2 [o.a] [] (needRows (vmRows o)) (seqBody fun vs => do
    let g ← vmGen o fun c => 16 ≤ c && decide (c ≤ 19)
    let m ← me
    let e0 := firstElem o (arg vs 0)
    let es := run e0 (vmActive m.2.1 o)
    checkElems g es
    faultIf (e0 % 8 != 0) 0x04 (g.addr e0.toNat).1
    rowsReady (vmRows o)
    let w ← whoami
    let xs ← es.mapM fun e => g.valueOf w e.toNat
    let rs := xs.map (o.ty.round .rne)
    writeElems o.d.val 0 o.ty (rs.map Prod.fst)
    reportVector o.d.val o.ty g.code g.code 0 rs) s

/-- Group elements by block, blocks in the order of their first element. -/
def byBlock (g : Gen) (es : List (Nat × Nat × Num)) : List (List (Nat × Nat × Num)) :=
  let keys := es.foldl (fun ks e => if ks.contains (g.blockOf e.1) then ks else ks ++ [g.blockOf e.1]) []
  keys.map fun k => es.filter fun e => g.blockOf e.1 == k

/-- What the store of one element writes: its number and position, its encoding, flags, and behind a block's first element
the scale byte, whose flags stand there too. -/
structure ScaledElem where
  elem : Nat
  pos : Nat
  code : Nat
  flags : Flags
  scale : Option Nat
  deriving DecidableEq, Repr

/-- The blocks of R149 encoded, in the order of positions. The flags of a block's scale stand at the block's first element, whose lane
NANREC names for a NaN scale (DESIGN CHOICE, log 86). -/
def scaledElems (g : Gen) (items : List (Nat × Nat × Num)) : List ScaledElem :=
  sortByKey ScaledElem.pos ((byBlock g items).flatMap fun b =>
    let r := encodeBlock g.fmt (b.map fun e => e.2.2)
    (b.zip r.2.1).zipIdx.map fun p =>
      ⟨p.1.1.1, p.1.1.2.1, p.1.2.1, if p.2 = 0 then p.1.2.2 ||| r.2.2 else p.1.2.2, if p.2 = 0 then some r.1 else none⟩)

/-- Write blocks in the order of their first elements: of each its elements in ascending order, then its scale (R149, R157). -/
def writeBlocks (g : Gen) (w : Who) (a : Acc) (xs : List ScaledElem) : X Unit :=
  xs.forM fun x =>
    match x.scale with
    | none => pure ()
    | some sc => do
      (xs.filter fun y => g.blockOf y.elem == g.blockOf x.elem).forM fun y => g.write w y.elem y.code a
      memWriteNat w (g.scaleAddr x.elem) 1 sc a

/-- The store of encoded blocks. A fault names the element of the lowest index, or its scale byte (R147; log 78): whether there is one is
seen first, element by element, each block's scale behind its first one. -/
def storeScaled (g : Gen) (w : Who) (a : Acc) (xs : List ScaledElem) : X Unit := fun s =>
  match (xs.forM fun x => do
    faultsAt (g.addr x.elem).1 (g.write w x.elem x.code a)
    match x.scale with
    | none => pure ()
    | some sc => memWriteNat w (g.scaleAddr x.elem) 1 sc a) s with
  | .error e => .error e
  | .ok _ => writeBlocks g w a xs s

/-- VSTS (R149). -/
def execVsts (o : VMOp) (s : State) : Host.Outcome State Fault Refusal :=
  instr 2 [o.a] [] (needRows (vmRows o)) (seqBody fun vs => do
    let g ← vmGen o fun c => 16 ≤ c && decide (c ≤ 19)
    let m ← me
    let e0 := firstElem o (arg vs 0)
    let es := run e0 (vmActive m.2.1 o)
    checkElems g es
    faultIf (e0 % 8 != 0) 0x04 (g.addr e0.toNat).1
    rowsReady (vmRows o)
    let w ← whoami
    let xs ← readElems o.d.val es.length o.ty
    let items := (es.zip xs).zipIdx.map fun p => (p.1.1.toNat, p.2, o.ty.decode p.1.2)
    let rs := scaledElems g items
    storing (elemBytes g es) (storeScaled g w .write rs)
    reportStored o.d.val o.ty g.code (rs.map fun x => (x.code, x.flags))) s
where
  /-- Report stores: the destination format is the generator's. -/
  reportStored (d : Nat) (t : ElemTy) (fmtD : Nat) (rs : List (Nat × Flags)) : X Unit := do
    let m ← me
    let per := 256 / t.laneBytes
    modify fun s => s.onGroup m.1.core m.1.slot fun g =>
      let g1 := g.raise (allFlags rs)
      match firstNan 0 rs with
      | none => g1
      | some (i, f) => g1.noteNan m.1.core m.2.2.pc f ⟨0, d + i / per, i % per, t.code, t.code, fmtD, false⟩

/-! ### Gather and scatter -/

/-- The rows of VGATH and VSCAT: the data and the i32 index group (R150). -/
def gathRows (o : VMOp) : List (Nat × Nat) :=
  [(o.d.val, o.len.val), (o.imm.toNat % 2048, (vmLen o * 4 + 255) / 256)]

/-- The element numbers of R150. -/
def gathElems (o : VMOp) (a : Word) (n : Nat) : X (List Int) := do
  let is ← readElems (o.imm.toNat % 2048) n .i32
  pure (is.map fun x => (a + (BitVec.ofNat 32 x).signExtend 64).toInt)

/-- VGATH (R150). -/
def execVgath (o : VMOp) (s : State) : Host.Outcome State Fault Refusal :=
  instr 2 [o.a] [] (needRows (gathRows o)) (seqBody fun vs => do
    let g ← vmGen o fun c => c == o.ty.code
    rowsReady (gathRows o)
    let m ← me
    let es ← gathElems o (arg vs 0) (vmActive m.2.1 o)
    checkElems g es
    let w ← whoami
    let xs ← es.mapM fun e => faultsAt (g.addr e.toNat).1 (g.read w e.toNat)
    writeElems o.d.val 0 o.ty (xs.map o.ty.pattern)) s

/-- VSCAT (R150): the element with the highest i stands. -/
def execVscat (o : VMOp) (s : State) : Host.Outcome State Fault Refusal :=
  instr 2 [o.a] [] (needRows (gathRows o)) (seqBody fun vs => do
    let g ← vmGen o fun c => c == o.ty.code
    rowsReady (gathRows o)
    let m ← me
    let es ← gathElems o (arg vs 0) (vmActive m.2.1 o)
    checkElems g es
    let w ← whoami
    let xs ← readElems o.d.val es.length o.ty
    storing (elemBytes g es) ((es.zip xs).forM fun p =>
      faultsAt (g.addr p.1.toNat).1 (g.write w p.1.toNat (o.ty.pattern p.2)))) s

/-! ### Bitmask and values -/

/-- P of R151, with the checks that VPACK and VUNPK share. -/
def packAddr (o : VMOp) (a : Word) : X Nat := do
  let m ← me
  let g := Walk4.ofBits (vget m.2.1.gens o.g)
  faultIf (!g.valid) 0x01 0
  let p := (g.base + a.toNat) % 2 ^ 64
  lowSpace p
  faultIf (p % 8 != 0) 0x04 p
  pure p

/-- Bytes before the values of a form of n elements (R31). -/
def packHead (n : Nat) : Nat := 8 + 8 * ((n + 63) / 64)

/-- The bitmask of elements, as a number. -/
def maskOf (xs : List Nat) : Nat := xs.foldr (fun x a => 2 * a + (if x = 0 then 0 else 1)) 0

/-- VPACK (R151). -/
def execVpack (o : VMOp) (s : State) : Host.Outcome State Fault Refusal :=
  instr 2 [o.a] [] (needRows (vmRows o)) (seqBody fun vs => do
    let p ← packAddr o (arg vs 0)
    rowsReady (vmRows o)
    let m ← me
    let n := vmActive m.2.1 o
    if n = 0 then pure ()
    else
      let xs := (← readElems o.d.val n o.ty).map o.ty.pattern
      let nz := xs.filter (· != 0)
      let total := packHead n + nz.length * o.ty.laneBytes
      faultIf (o.imm.toNat < total) 0x0A p
      let bs := leBytes 2 n ++ leBytes 2 nz.length ++ leBytes 4 total ++ leBytes (packHead n - 8) (maskOf xs)
        ++ nz.flatMap (leBytes o.ty.laneBytes)
      let w ← whoami
      storing [bytesAt p total] (writeRun w p bs)) s

/-- Expand a mask of n bits over the stored values; a cleared bit gives 0 (R31). -/
def unpack : Nat → Nat → List Nat → List Nat
  | 0, _, _ => []
  | n + 1, mask, vs =>
    if mask % 2 = 1 then vs.headD 0 :: unpack n (mask / 2) (vs.drop 1) else 0 :: unpack n (mask / 2) vs

/-- One bits of a number, n bits deep. -/
def onesOf : Nat → Nat → Nat
  | 0, _ => 0
  | n + 1, x => x % 2 + onesOf n (x / 2)

/-- VUNPK (R152). -/
def execVunpk (o : VMOp) (s : State) : Host.Outcome State Fault Refusal :=
  instr 2 [o.a] [] (needRows (vmRows o)) (seqBody fun vs => do
    let p ← packAddr o (arg vs 0)
    let w ← whoami
    let h ← readRun w p 8
    let n := leNat (h.take 2)
    let zc := leNat ((h.drop 2).take 2)
    let total := leNat (h.drop 4)
    let lb := o.ty.laneBytes
    faultIf (n == 0 || decide (vmLen o < n)) 0x0A p
    faultIf (total != packHead n + zc * lb) 0x0A p
    faultIf (o.imm.toNat < total) 0x0A p
    let body ← readRun w (p + 8) (total - 8)
    let mask := leNat (body.take (packHead n - 8))
    faultIf (onesOf n mask != zc || mask / 2 ^ n != 0) 0x0A p
    rowsReady (vmRows o)
    let m ← me
    let xs := unpack n mask (lanesOf lb zc (body.drop (packHead n - 8)))
    let a := vmActive m.2.1 o
    writeElems o.d.val 0 o.ty (((xs ++ List.replicate (vmLen o - n) 0).take a).map o.ty.pattern)) s

end Sys2Proof.Machine
end

