-- ==== Sys2Proof/Machine/Matrix.lean ====
section
/-! DEFINITION. The matrix instructions, major 0x3A (R160 to R173), and the result stage of the array (R166). -/

namespace Sys2Proof.Machine

open Sys2Proof

/-! ### Operands -/

/-- Registers per row of a tile of n columns (R163). -/
def tileStride (n : Nat) : Nat := (n + 63) / 64

/-- Whose operands an array instruction reads: the group's slot, its context, and copies of its generators. -/
structure ArrSource where
  core : CoreId
  slot : SlotId
  ctx : CtxId
  rows : Nat
  ga : BitVec 512
  gb : BitVec 512
  deriving DecidableEq, Repr

/-- The identity of the operand reads. -/
def ArrSource.who (a : ArrSource) : Who := ⟨a.ctx, some a.core, some a.slot⟩

/-- The operands of MMA that have passed the descriptor and generator checks of R164. -/
structure MmaShape where
  g : Gen
  b : BOperand
  m : Nat
  deriving DecidableEq, Repr

/-- The register check of R165, on a group's allocation. -/
def rowsWithin (rows first count : Nat) : X Unit :=
  faultIf (count != 0 && decide (rows < first + count)) 0x16 (max first rows)

/-- The descriptor and generator checks of R164. `maxM` is 128, or 256 for MMAC. -/
def mmaShape (a : ArrSource) (o : XOp) (desc maxM : Nat) : X MmaShape := do
  let g := Walk4.ofBits a.ga
  faultIf (!g.valid || !matrixFmt g.code) 0x01 0
  match BOperand.ofWord desc o.mb with
  | none => fault 0x01 0
  | some b =>
    faultIf (g.size 0 != b.k || decide (maxM < g.size 1) || g.size 2 != 1 || g.size 3 != 1) 0x01 0
    faultIf (g.scaled && g.baxis != 0) 0x01 0
    faultIf (o.i32acc && !(intInput g.fmt && intInput b.fmt)) 0x01 0
    faultIf (16 < o.slab.val + b.slabs) 0x05 (3 * 2 ^ 60 + a.core.val * 2 ^ 53 + o.slab.val * 2 ^ 11)
    pure ⟨g, b, g.size 1⟩

/-- Bytes of a bitmap row (R164). -/
def maskStride (k : Nat) : Nat := 8 * ((k + 63) / 64)

/-- The accesses of A rows: elements, scales, bitmap rows. -/
def aAccesses (sh : MmaShape) (o : XOp) (gbBase row0 rows : Nat) : List (Nat × Nat) :=
  let es := (List.range (rows * sh.b.k)).map (· + row0 * sh.b.k)
  let elems := es.flatMap fun e =>
    ((sh.g.addr e).1, fmtBytes sh.g.fmt) :: (if sh.g.scaled && (e % sh.b.k) % 8 == 0 then [(sh.g.scaleAddr e, 1)] else [])
  elems ++ (if o.ma then (List.range rows).map fun i =>
    ((gbBase + (row0 + i) * maskStride sh.b.k) % 2 ^ 64, (sh.b.k + 7) / 8) else [])

/-- Check accesses that must lie in scratchpad: the space, then MemRead's checks, with FAULTVA at the lowest-addressed
failing granule (R164). Where granules fail with different causes, the one at FAULTVA is raised (DESIGN CHOICE, log 82: the rule
names FAULTVA only). -/
def checkScratch (w : Who) (xs : List (Nat × Nat)) : X Unit := do
  let bad ← xs.filterMapM fun p => do
    let r ← attempt (do
      faultIf (ptrSpace p.1 != 1) 0x05 p.1
      readRun w p.1 p.2)
    match r with
    | .ok _ => pure none
    | .error t => pure (some (t.va.toNat / 64 * 64, t.code))
  match bad with
  | [] => pure ()
  | b :: r =>
    let m := r.foldl (fun x y => if y.1 < x.1 then y else x) b
    fault m.2 m.1

/-- The lowest granule of accesses that lie outside scratchpad (R164). -/
def outsideScratch (xs : List (Nat × Nat)) : Option Nat :=
  ((xs.filter fun p => ptrSpace p.1 != 1).map fun p => p.1 / 64 * 64).min?

/-- One A row as the array holds it (R41, R45). -/
def aLine (w : Who) (sh : MmaShape) (o : XOp) (gbBase i : Nat) : X Line := do
  let vs ← (List.range sh.b.k).mapM fun k => sh.g.value w (i * sh.b.k + k)
  if o.ma then
    let bs ← readRun w ((gbBase + i * maskStride sh.b.k) % 2 ^ 64) ((sh.b.k + 7) / 8)
    pure (alignLine sh.g.fmt vs ((List.range sh.b.k).map (bitAt bs)))
  else pure (alignLine sh.g.fmt vs (vs.map fun _ => true))

/-- The pointer of a column area (R160, R161). -/
def columnPtr (core : CoreId) (slab j : Nat) : Nat := 3 * 2 ^ 60 + core.val * 2 ^ 53 + j * 2 ^ 15 + slab * 2 ^ 11

/-- One B column as the array holds it (R161). -/
def bLine (s : State) (core : CoreId) (slab : Nat) (b : BOperand) (j : Nat) : Line :=
  let bs := s.bytesAt (columnPtr core slab j) b.cb
  alignLine b.fmt (columnVals b bs) (columnMask b bs)

/-- Slab reads and writes wait for copies in flight over them (R214). -/
def slabsReady (w : Who) (core : CoreId) (slab : Nat) (b : BOperand) : X Unit := do
  let s ← get
  waitIf ((List.range b.n).any fun j => s.boardHits w (columnPtr core slab j) b.cb)

/-- What the outputs of a range of A rows add (R164), and NX from aligning the operands' lines (R41): the B columns are
aligned where there is no A row, too (log 82). -/
def mmaOuts (a : ArrSource) (sh : MmaShape) (o : XOp) (row0 rows : Nat) : X (List OutVal × Bool) := do
  let w := a.who
  let gbBase := (Walk4.ofBits a.gb).base
  faultIf (o.ma && rows == 0 && ptrSpace gbBase != 1) 0x05 gbBase
  checkScratch w (aAccesses sh o gbBase row0 rows)
  slabsReady w a.core o.slab.val sh.b
  let as ← (List.range rows).mapM fun i => aLine w sh o gbBase (row0 + i)
  let s ← get
  let bs := (List.range sh.b.n).map (bLine s a.core o.slab.val sh.b)
  pure (as.flatMap fun x => bs.map (outputOf x), as.any (·.nx) || bs.any (·.nx))

/-- The operands of the role's own array instruction. -/
def ownSource (o : XOp) : X ArrSource := do
  let m ← me
  pure ⟨m.1.core, m.1.slot, m.2.1.ctx, m.2.1.rows, vget m.2.1.gens o.ga, vget m.2.1.gens o.gb⟩

/-- An instruction between issue and result. -/
def arrEntry (id : RoleId) (g : Group) (pc : Word) (o : XOp) (fresh : Bool) (sh : MmaShape) (rows : Nat)
    (outs : List OutVal × Bool) : ArrEntry :=
  { slot := id.slot, order := g.order, role := id.role, pc := pc, d := o.d.val, m := rows, n := sh.b.n,
    i32 := o.i32acc, fresh := fresh, rm := o.rm, fmtA := sh.g.code, fmtB := sh.b.fmt.code, outs := outs.1,
    nx := outs.2, row0 := 0, col0 := 0, copy := none }

/-- The array holds four instructions between issue and result (R166). -/
def arrayRoom (c : CoreId) : X Unit := do
  waitIf (4 ≤ ((← get).core c).array.length)

/-- Issue to the array. -/
def arrayIssue (c : CoreId) (e : ArrEntry) : X Unit :=
  modify fun s => s.onCore c fun k => { k with array := k.array ++ [e] }

/-- MMA and MMAS (R164). -/
def mma (fresh : Bool) (o : XOp) : State → Host.Outcome State Fault Refusal :=
  instr 2 [o.s] [] noPre (seqBody fun vs => do
    let m ← me
    let a ← ownSource o
    let sh ← mmaShape a o (arg vs 0).toNat 128
    rowsWithin a.rows o.d.val (sh.m * tileStride sh.b.n)
    let outs ← mmaOuts a sh o 0 sh.m
    arrayRoom m.1.core
    arrayIssue m.1.core (arrEntry m.1 m.2.1 m.2.2.pc o fresh sh sh.m outs))

/-- MMA (R164): adds into the tile. -/
def execMma (o : XOp) (s : State) : Host.Outcome State Fault Refusal := mma false o s

/-- MMAS (R164): the old values count as +0. -/
def execMmas (o : XOp) (s : State) : Host.Outcome State Fault Refusal := mma true o s

/-! ### The result stage -/

/-- Update one row of a tile: lanes, flags and the first NaN. -/
def resultRow (e : ArrEntry) (old : List Nat) (outs : List OutVal) : List (Nat × Flags) :=
  (old.zip outs).map fun p => accumulate e.i32 e.rm (if e.fresh then 0 else p.1) p.2

/-- Write the rows of an instruction whose result stage ends (R163, R164, R166), row by row. -/
def applyRows (c : CoreId) (e : ArrEntry) : Nat → Nat → List OutVal → State → State
  | 0, _, _, s => s
  | f + 1, i, outs, s =>
    match s.group c e.slot with
    | none => s
    | some g =>
      let key := rowKeyOf c g (e.d + i * tileStride e.n)
      let rs := resultRow e (lanesOf 4 e.n (s.bytesAt key (4 * e.n))) (outs.take e.n)
      let s1 := s.chipWrite key (rs.flatMap fun r => leBytes 4 r.1)
      let s2 := s1.onGroup c e.slot fun g =>
        let g1 := g.raise (allFlags rs)
        match firstNan 0 rs with
        | none => g1
        | some (j, fl) => g1.noteNan c e.pc fl
            ⟨1, e.row0 + i, e.col0 + j, e.fmtA, e.fmtB, if e.i32 then 6 else 0, false⟩
      applyRows c e f (i + 1) (outs.drop e.n) s2

/-- Update a command. -/
def State.onCmd (s : State) (c : CoreId) (seq : Nat) (f : Cmd → Cmd) : State :=
  s.onCore c fun x => { x with cmds := x.cmds.map fun k => if k.seq = seq then f k else k }

/-- Retire a copy command (R329, R330): its scoreboard entries go, and its flags and NaN record reach the group that
enqueued it, if that group is still in its slot (R47, R432). -/
def State.retireCmd (s : State) (c : CoreId) (seq : Nat) : State :=
  match (s.core c).cmds.find? fun k => k.seq == seq with
  | none => s
  | some k =>
    let s1 := s.onGroup c k.slot fun g =>
      if g.order != k.order then g
      else
        let g1 := g.raise k.flags
        match k.nan with
        | none => g1
        | some w => if g1.nanrec.getLsbD 0 then g1
            else { g1 with nanrec := w, nanrecPc := k.pc &&& BitVec.ofNat 64 (2 ^ 55 - 1) }
    s1.onCore c fun x =>
      { x with cmds := x.cmds.filter fun y => y.seq != seq, board := x.board.filter fun b => b.cmd != seq }

/-- MATRIX_RESULT_STAGE (R166, R172): the oldest instruction in the array writes its rows and flags; the results of a
group that has left are discarded. -/
def execMatrixResultStage (c : CoreId) (s : State) : Host.Outcome State Fault Refusal :=
  match (s.core c).array with
  | [] => .next s
  | e :: rest =>
    let s1 := s.onCore c fun k => { k with array := rest }
    let s2 := match s.group c e.slot with
      | none => s1
      | some g => if g.order != e.order then s1
          else applyRows c e e.m 0 e.outs (s1.onGroup c e.slot fun g => g.raise (Flags.when e.nx Flags.nx))
    .next (match e.copy with
      | none => s2
      | some p => s2.onCmd c p.2 fun k => { k with st := .done })

/-! ### MMAC -/

/-- Core q of the cluster of a core (R12). -/
def clusterCore (c : CoreId) (q : Nat) : CoreId := Fin.ofNat 128 (c.val / 4 * 4 + q)

/-- The group of a cooperative operation on core q, by the place of its record (R270). -/
def partner (s : State) (c : CoreId) (g : Group) (q : Nat) : Option (SlotId × Group) :=
  (List.finRange 4).findSome? fun k =>
    match s.group (clusterCore c q) k with
    | none => none
    | some h => if h.ctx = g.ctx && h.clustered && h.record.launch == g.record.launch
        && h.record.index / 4 == g.record.index / 4 then some (k, h) else none

/-- The end or the kill of a group is seen by the groups of its cooperative operations that still run (R167). -/
def State.partMates (s : State) (g : Group) : State :=
  { s with cores := s.cores.map fun (k : Core) => { k with slots := k.slots.map fun x => x.map fun h =>
      if h.ctx = g.ctx && h.clustered && h.record.launch == g.record.launch && h.record.index != g.record.index
        && h.record.index / 4 == g.record.index / 4 then { h with mateGone := true } else h } }

/-- A group that is being killed issues nothing more. -/
def Group.isDying (g : Group) : Bool :=
  match g.state with
  | .dying _ _ _ => true
  | _ => false

/-- The role of a group that waits at an MMAC, and the instruction. -/
def atMmac (g : Group) : Option (RoleKind × XOp) :=
  [RoleKind.fetch, .compute, .drain].findSome? fun k =>
    let r := g.role k
    if g.isDying || r.status != .running || r.stalled || r.ended then none
    else
      match decodeAt r.line r.pc.toNat with
      | .ok (.mmac o) => some (k, o)
      | .ok _ => none
      | .error _ => none

/-- One core's part of a cooperative operation. -/
structure MmacSide where
  id : RoleId
  op : XOp
  src : ArrSource
  desc : Nat
  gbBase : Nat
  shape : MmaShape
  rows : Nat
  deriving DecidableEq, Repr

/-- Rows of A that row half h computes (R167). -/
def halfRows (m h : Nat) : Nat := min (m - 128 * h) 128

/-- The checks of R167 on a core's own operands, for the role whose turn it is. -/
def mmacSide (o : XOp) (desc : Nat) : X MmacSide := do
  let m ← me
  faultIf (!m.2.1.clustered) 0x01 0
  let a ← ownSource o
  let sh ← mmaShape a o desc 256
  let rows := halfRows sh.m (m.1.core.val % 4 / 2)
  rowsWithin a.rows o.d.val (rows * tileStride sh.b.n)
  pure ⟨m.1, o, a, desc, (Walk4.ofBits a.gb).base, sh, rows⟩

/-- A partner that has ended or been killed with fewer MMACs is illegal flow; one that has parked or been saved makes the others
wait (R167). -/
def mmacGone (g : Group) : X Unit := faultIf g.mateGone 0x15 0

/-- The part of core q: the partner's operands are read in its own name. A partner that faults, has left, or has not come to its
MMAC, makes the operation wait (R167, R173). -/
def mmacPartner (me_ : RoleId) (g : Group) (q : Nat) : X MmacSide := do
  let s ← get
  match partner s me_.core g q with
  | none => throw .wait
  | some (k, h) =>
    match atMmac h with
    | none => throw .wait
    | some (r, o) => fun s =>
      match (do
        checkMisuse [o.s] []
        let vs ← readSrcs [o.s]
        mmacSide o (arg vs 0).toNat) { s with cur := ⟨clusterCore me_.core q, k, r⟩ } with
      | .ok (x, t) => .ok (x, { t with cur := me_ })
      | .error (.trap _ _) => .error .wait
      | .error e => .error e

/-- Do the four parts agree (R167)? Bitmap bases are compared between the parts that have ma = 1 (log 82). -/
def mmacAgree (xs : List MmacSide) : Bool :=
  xs.all fun x => xs.all fun y =>
    x.src.ga == y.src.ga && x.desc % 2 ^ 17 == y.desc % 2 ^ 17
      && (x.id.core.val % 2 != y.id.core.val % 2 || x.desc / 2 ^ 17 % 2 ^ 8 == y.desc / 2 ^ 17 % 2 ^ 8)
      && (!x.op.ma || !y.op.ma || x.gbBase == y.gbBase)

/-- All four roles take the same fault, in the order of their cores (R167, R424). -/
def faultAll (xs : List MmacSide) (t : Trap) : X Flow := do
  xs.forM fun x => modify fun s => s.takeFault x.id t (match s.role x.id with
    | none => 0
    | some r => r.pc) false
  pure .gone

/-- Issue one core's part to its array, and let a partner's role go on (R167). -/
def mmacIssue (self : RoleId) (p : MmacSide × List OutVal × Bool) : X Unit := do
  let s ← get
  match s.group p.1.id.core p.1.id.slot with
  | none => pure ()
  | some g =>
    let q := p.1.id.core.val % 4
    let e := arrEntry p.1.id g (g.role p.1.id.role).pc p.1.op false p.1.shape p.1.rows p.2
    arrayIssue p.1.id.core { e with row0 := 128 * (q / 2), col0 := 192 * (q % 2) }
    modify fun s => s.onGroup p.1.id.core p.1.id.slot fun g => { g with mmacs := g.mmacs + 1 }
    if p.1.id = self then pure ()
    else modify fun s => s.onRole p.1.id fun r => { r.retire 2 with blocked := [] }

/-- Of the parts' faults, the one that all four take: poison in a shared stream, the lowest-addressed granule (R164,
R167). -/
def sharedPoison (rs : List (Except Trap (List OutVal × Bool))) : Option Trap :=
  let bad := rs.filterMap fun r => match r with
    | .error t => if t.code = 0x08 then some t else none
    | .ok _ => none
  bad.foldl (fun a t => match a with
    | none => some t
    | some u => if t.va.toNat < u.va.toNat then some t else some u) none

/-- The parts' results, if all four have one. A part's own fault is its own role's to take: the others wait until it
issues after restart (R173). -/
def mmacResults (self : RoleId) (xs : List (MmacSide × Except Trap (List OutVal × Bool))) :
    X (List (MmacSide × List OutVal × Bool)) := do
  xs.forM fun p => match p.2 with
    | .error t => if p.1.id = self then throw (.trap t none) else pure ()
    | .ok _ => pure ()
  xs.mapM fun p => match p.2 with
    | .error _ => throw .wait
    | .ok v => pure (p.1, v)

/-- MMAC (R167): the last of the four to arrive issues for all four. -/
def execMmac (o : XOp) (s : State) : Host.Outcome State Fault Refusal :=
  instr 2 [o.s] [] noPre (fun vs => do
    let own ← mmacSide o (arg vs 0).toNat
    let m ← me
    mmacGone m.2.1
    let sides ← (List.range 4).mapM fun q =>
      if q = m.1.core.val % 4 then pure own else mmacPartner m.1 m.2.1 q
    sides.forM fun x => arrayRoom x.id.core
    if !mmacAgree sides then faultAll sides { code := 0x01, va := 0 }
    else
      let outs ← sides.mapM fun x => attempt (mmaOuts x.src x.shape x.op (128 * (x.id.core.val % 4 / 2)) x.rows)
      match sharedPoison outs with
      | some t => faultAll sides t
      | none =>
        let vs ← mmacResults m.1 (sides.zip outs)
        vs.forM (mmacIssue m.1)
        pure .seq) s

/-! ### BLD -/

/-- The checks of R168 before memory access. -/
def bldShape (core : CoreId) (ga : BitVec 512) (o : XOp) (desc : Nat) : X (Gen × BOperand) := do
  let g := Walk4.ofBits ga
  faultIf (!g.valid || !matrixFmt g.code) 0x01 0
  match BOperand.ofWord desc o.mb with
  | none => fault 0x01 0
  | some b =>
    faultIf (g.code != b.fmt.code || g.size 0 != b.k || g.size 1 != b.n || g.size 2 != 1 || g.size 3 != 1) 0x01 0
    faultIf (g.scaled && g.baxis != 0) 0x01 0
    faultIf (16 < o.slab.val + b.slabs) 0x05 (columnPtr core o.slab.val 0)
    pure (g, b)

/-- Read column j of a BLD source: elements and scales (R168). An e2m1 byte carries [3:0] only (R27). -/
def bldColumn (w : Who) (g : Gen) (b : BOperand) (j : Nat) : X (List Nat × List Nat) := do
  let xs ← (List.range b.k).mapM fun k => do pure (b.fmt.pattern (← g.read w (j * b.k + k)))
  let sc ← (List.range b.sb).mapM fun t => g.readScale w (j * b.k + 8 * t)
  pure (xs, sc)

/-- The value of a read, or another one where it does not complete. -/
def readOr (s : State) (r : X Nat) (old : Nat) : Nat :=
  match r s with
  | .ok (x, _) => x
  | .error _ => old

/-- Column j with everything that can be read of it: what cannot keeps its old value. -/
def bldPart (s : State) (w : Who) (core : CoreId) (slab : Nat) (g : Gen) (b : BOperand) (j : Nat) : List Nat × List Nat :=
  let at_ := columnPtr core slab j
  let n := b.fmt.bits
  let old := leNat (s.bytesAt at_ ((b.k * n + 7) / 8))
  ((List.range b.k).map fun k => readOr s (do pure (b.fmt.pattern (← g.read w (j * b.k + k)))) (old / 2 ^ (n * k) % 2 ^ n),
    (List.range b.sb).map fun t => readOr s (g.readScale w (j * b.k + 8 * t)) (s.byteAt (at_ + b.so + t)).toNat)

/-- Write one column area, or the part of it that has been read (R161, R168). -/
def State.putColumn (s : State) (core : CoreId) (slab : Nat) (b : BOperand) (j : Nat) (c : List Nat × List Nat) :
    State :=
  let at_ := columnPtr core slab j
  let w := b.fmt.bits
  let packed := c.1.foldr (fun x a => x % 2 ^ w + a * 2 ^ w) 0
  let s1 := s.chipBits at_ (c.1.length * w) packed
  let s2 := s1.chipWrite (at_ + b.so) (c.2.map (BitVec.ofNat 8))
  if b.mb then s2.chipBits (at_ + b.mo) c.1.length (maskOf c.1) else s2

/-- After a fault the column areas may hold any mix of old and new bytes (R168; log 13). -/
def mixColumn (old new : State) (core : CoreId) (slab : Nat) (b : BOperand) (j : Nat) : State :=
  let at_ := columnPtr core slab j
  (List.range b.cb).foldl (fun t i =>
    if Config.mixed (t.tick + 2 ^ 20 * i + j) then t.chipWrite (at_ + i) [new.byteAt (at_ + i)] else t) old

/-- BLD's columns in order: read and written. -/
def bldColumns (w : Who) (core : CoreId) (slab : Nat) (g : Gen) (b : BOperand) : X Unit := do
  (List.range g.count).forM fun e => do
    lowSpace (g.addr e).1
    if g.scaled then lowSpace (g.scaleAddr e) else pure ()
  (List.range b.n).forM fun j => do
    let c ← bldColumn w g b j
    modify fun s => s.putColumn core slab b j c

/-- What BLD does (R168). Any fault leaves every column area mixed, with all that could be read new. -/
def bldRun (w : Who) (core : CoreId) (slab : Nat) (g : Gen) (b : BOperand) : X Unit := fun s =>
  match bldColumns w core slab g b s with
  | .error (.trap t _) =>
    let new := (List.range b.n).foldl (fun u j => u.putColumn core slab b j (bldPart s w core slab g b j)) s
    .error (.trap t (some ((List.range b.n).foldl (fun u j => mixColumn u new core slab b j) s)))
  | r => r

/-- The slab bytes that a BLD writes, for the aliasing check (R191). -/
def bldRanges (core : CoreId) (slab : Nat) (b : BOperand) : List (Nat × Nat) :=
  (List.range b.n).map fun j => bytesAt (columnPtr core slab j) b.cb

/-- BLD (R168). -/
def execBld (o : XOp) (s : State) : Host.Outcome State Fault Refusal :=
  instr 2 [o.s] [] noPre (seqBody fun vs => do
    let m ← me
    let gb ← bldShape m.1.core (vget m.2.1.gens o.ga) o (arg vs 0).toNat
    let w ← whoami
    slabsReady w m.1.core o.slab.val gb.2
    storing (bldRanges m.1.core o.slab.val gb.2) (bldRun w m.1.core o.slab.val gb.1 gb.2)) s

/-! ### ZACC and ACVT -/

/-- ZACC (R169): waits for the role's own results. -/
def execZacc (o : XOp) (s : State) : Host.Outcome State Fault Refusal :=
  let rows := [(o.d.val, o.e.val + 1 - o.d.val)]
  instr 2 [] [] (do faultIf (o.e.val < o.d.val) 0x01 0; needRows rows) (seqBody fun _ => do
    rowsReady rows
    let m ← me
    modify fun s => s.chipWrite (rowKeyOf m.1.core m.2.1 o.d.val)
      (List.replicate ((o.e.val + 1 - o.d.val) * 256) 0)) s

/-- ACVT (R170): waits for the role's own results; all reads come first. -/
def execAcvt (o : XOp) (s : State) : Host.Outcome State Fault Refusal :=
  instr 2 [o.s] [] noPre (seqBody fun vs => do
    let sh := (arg vs 0).toNat
    let mm := sh % 2 ^ 8
    let n := sh / 2 ^ 8 % 2 ^ 8
    faultIf (sh / 2 ^ 16 != 0 || mm == 0 || decide (128 < mm) || n == 0 || decide (192 < n)) 0x01 0
    let r := tileStride n
    let r2 := (n * o.ty.laneBits + 2047) / 2048
    let rows := [(o.e.val, mm * r), (o.d.val, mm * r2)]
    needRows rows
    rowsReady rows
    let m ← me
    let srcTy : ElemTy := if o.i32acc then .i32 else .f32
    let xs ← (List.range mm).mapM fun i => readElems (o.e.val + i * r) n srcTy
    let rs := xs.map fun row => row.map (convertElem srcTy o.ty o.rm)
    (List.range mm).zip rs |>.forM fun p => writeElems (o.d.val + p.1 * r2) 0 o.ty (p.2.map Prod.fst)
    modify fun s => s.onGroup m.1.core m.1.slot fun g =>
      let g1 := g.raise (allFlags rs.flatten)
      match firstNan 0 rs.flatten with
      | none => g1
      | some (i, f) => g1.noteNan m.1.core m.2.2.pc f ⟨1, i / n, i % n, srcTy.code, srcTy.code, o.ty.code, false⟩) s

end Sys2Proof.Machine
end

