-- ==== Sys2Proof/Machine/Lattice.lean ====
section
/-! DEFINITION. What a Lattice computes (R368 to R376): the fabric image and its checks, the grid on one beat, ports,
and one whole row. -/

namespace Sys2Proof.Machine

open Sys2Proof

/-! ### The fabric image (R370 to R374) -/

/-- n bytes of an image as a number. -/
def imgNat (img : List Byte) (off n : Nat) : Nat := leNat ((img.drop off).take n)

/-- Bits [lo + n − 1 : lo] of a number. -/
def nbits (v lo n : Nat) : Nat := v / 2 ^ lo % 2 ^ n

/-- The configuration word of a PE (R371). -/
def peWord (img : List Byte) (i : Nat) : Nat := imgNat img (64 + 32 * i) 32

/-- The routing word of a port, output ports from 4 (R374). -/
def routeWord (img : List Byte) (p : Nat) : Nat := imgNat img (2112 + 8 * p) 8

/-- Is a port used? -/
def portOn (img : List Byte) (p : Nat) : Bool := routeWord img p % 2 == 1

/-- Is a port raw? -/
def portRaw (img : List Byte) (p : Nat) : Bool := nbits (routeWord img p) 1 1 == 1

/-- The PE that feeds an output port. -/
def portPe (img : List Byte) (p : Nat) : Nat := nbits (routeWord img p) 2 6

/-- Lane types (R371). -/
def laneTy (n : Nat) : ElemTy := if n = 1 then .i32 else if n = 2 then .n32 else .f32

/-- Rounding modes by code (R32). -/
def rmOf (n : Nat) : RM := match n with
  | 0 => .rne
  | 1 => .rtz
  | 2 => .rup
  | _ => .rdn

/-- Can a lane type hold every value of an element type (R373, CVT)? -/
def holdsAll (lane : Nat) (t : ElemTy) : Bool :=
  match t with
  | .f32 | .bf16 | .f16 | .e4m3 | .e5m2 | .e2m1 | .e8m0 => lane == 0
  | .i32 => lane == 1
  | .n32 => lane == 2
  | .i16 | .i8 => lane == 0 || lane == 1
  | .n16 | .n8 => true

/-- Is a configuration word one that LFLOAD accepts (R371 to R373)? -/
def peOk (w : Nat) : Bool :=
  let op := nbits w 0 4
  let lt := nbits w 4 2
  let oty := nbits w 30 2
  w / 2 ^ 70 == 0 && decide (op ≤ 11) && lt != 3 && decide (nbits w 8 4 ≤ 11) && decide (nbits w 12 4 ≤ 11)
    && decide (nbits w 16 4 ≤ 11) && oty != 3 && (op != 9 || lt == 0)
    && (match ElemTy.ofCode (nbits w 24 4) with
      | none => false
      | some t => if op = 6 then holdsAll oty t else oty == 0)

/-- The first word of an image that fails the checks of R370 to R374, as an offset. The header has been checked. -/
def imageBad (img : List Byte) (len : Nat) : Option Nat :=
  match (List.range 64).find? fun i => !peOk (peWord img i) with
  | some i => some (64 + 32 * i)
  | none =>
    match (List.range 8).find? fun p => routeWord img p / 2 ^ (if p < 4 then 2 else 10) != 0 with
    | some p => some (2112 + 8 * p)
    | none =>
      ((List.range 64).find? fun i =>
        let e := imgNat img (2176 + 4 * i) 4
        let n := e % 2 ^ 16
        let off := 64 * (e / 2 ^ 16)
        decide (64 < n) || (n != 0 && (decide (off < 2432) || decide (len < off + 64 * n)))).map fun i => 2176 + 4 * i

/-- Is an image header valid (R370)? -/
def imageHeaderOk (h : List Byte) : Bool :=
  let len := leNat ((h.drop 4).take 4)
  leNat (h.take 2) == 0x4C46 && leNat ((h.drop 2).take 1) == 1 && leNat ((h.drop 3).take 1) == 0 && allZero (h.drop 8)
    && len % 64 == 0 && decide (2432 ≤ len) && decide (len ≤ 65536)

/-- Local memory of a PE as the image fills it (R374): 32-bit lane j of 64-byte unit u. -/
def localLane (img : List Byte) (pe u j : Nat) : Nat :=
  let e := imgNat img (2176 + 4 * pe) 4
  if u < e % 2 ^ 16 then imgNat img (64 * (e / 2 ^ 16) + 64 * u + 4 * j) 4 else 0

/-! ### The grid on one beat -/

/-- A lane, of a beat or of an accumulator: its bits, and whether NV was raised on its path (R384). -/
abbrev Lane := Nat × Bool

/-- A beat on a link: sixteen lanes and the mask (R373). -/
structure Beat where
  lanes : List Lane
  mask : Nat
  deriving DecidableEq, Repr

/-- All lanes zero. -/
def Beat.zero : Beat := ⟨List.replicate 16 (0, false), 0xFFFF⟩

/-- A beat of given lanes. -/
def Beat.of (xs : List Nat) : Beat := ⟨xs.map fun x => (x, false), 0xFFFF⟩

/-- Lane j. -/
def Beat.lane (b : Beat) (j : Nat) : Lane := b.lanes.getD j (0, false)

/-- What the grid holds while a beat passes: results of the PEs in order, accumulators, flags. -/
structure GridRun where
  results : List Beat
  acc : SMap Lane
  flags : Flags

/-- Key of a lane of an accumulator. -/
def accKey (pe a j : Nat) : Nat := (pe * 16 + a) * 16 + j

/-- A lane of an accumulator. -/
def GridRun.accLane (r : GridRun) (pe a j : Nat) : Lane := (SMap.get r.acc (accKey pe a j)).getD (0, false)

/-- The operand that a selector names (R372). -/
def selBeat (img : List Byte) (w pe sel t row : Nat) (ins : List Beat) (r : GridRun) : Beat :=
  match sel with
  | 1 | 2 | 3 | 4 => ins.getD (sel - 1) Beat.zero
  | 5 => if pe % 8 = 0 then Beat.zero else r.results.getD (pe - 1) Beat.zero
  | 6 => if pe < 8 then Beat.zero else r.results.getD (pe - 8) Beat.zero
  | 7 => ⟨(List.range 16).map fun j => r.accLane pe (nbits w 20 4) j, 0xFFFF⟩
  | 8 => Beat.of (List.replicate 16 (nbits w 32 32))
  | 9 => Beat.of ((List.range 16).map fun j => localLane img pe (t % (nbits w 64 6 + 1)) j)
  | 10 => Beat.of (List.replicate 16 (row % 2 ^ 32))
  | 11 => Beat.of ((List.range 16).map fun j => 16 * t + j)
  | _ => Beat.zero

/-- A result that a lane takes: no NAN flag arises, since a lane is no destination (R375). -/
def laneResult (r : Nat × Flags) (path : Bool) : Lane × Flags :=
  ((r.1, path || r.2.hasNv), r.2 &&& ~~~Flags.nan)

/-- The per-lane operations of R373, ACC, EXPM and PACKM apart. -/
def peLane (w : Nat) (x y z : Lane) : Lane × Flags :=
  let t := laneTy (nbits w 4 2)
  let rm := rmOf (nbits w 6 2)
  let path := x.2 || y.2 || z.2
  let c := compareOp t x.1 y.1
  match nbits w 0 4 with
  | 1 => laneResult (elemOp .add t rm x.1 y.1 0 0) (x.2 || y.2)
  | 2 => laneResult (elemOp .mul t rm x.1 y.1 0 0) (x.2 || y.2)
  | 3 => laneResult (elemOp .fma t rm x.1 y.1 z.1 0) path
  | 4 => laneResult (elemOp .max t rm x.1 y.1 0 0) (x.2 || y.2)
  | 5 => laneResult (elemOp .min t rm x.1 y.1 0 0) (x.2 || y.2)
  | 6 =>
    let d := (ElemTy.ofCode (nbits w 24 4)).getD .f32
    let r := convertElem t d rm x.1
    laneResult (((laneTy (nbits w 30 2)).round .rne (d.decode r.1)).1, r.2) x.2
  | 7 =>
    let hit := match nbits w 28 2 with
      | 0 => (c fun d => decide (d < 0)).1
      | 1 => (c fun d => decide (d ≤ 0)).1
      | 2 => (c (· == 0)).1
      | _ => (c (· != 0)).1
    (if hit != 0 then z else x, 0)
  | 9 => laneResult (elemOp .scl t rm x.1 0 0 (signedOf 32 y.1)) (x.2 || y.2)
  | _ => (x, 0)

/-- EXPM (R373). -/
def expandLanes (x : Beat) : List Lane :=
  (List.range 16).map fun j =>
    if x.mask / 2 ^ j % 2 = 1 then x.lane (onesOf j x.mask) else (0, false)

/-- PACKM (R373): the lanes that are not all zero, and the mask. -/
def packLanes (x : Beat) : Beat :=
  let on := (List.range 16).filter fun j => (x.lane j).1 != 0
  ⟨(List.range 16).map fun j => match on[j]? with
    | some k => x.lane k
    | none => (0, false), on.foldl (fun m j => m + 2 ^ j) 0⟩

/-- One PE on one beat (R372, R373). -/
def peStep (img : List Byte) (t row : Nat) (ins : List Beat) (r : GridRun) (pe : Nat) : GridRun :=
  let w := peWord img pe
  let x := selBeat img w pe (nbits w 8 4) t row ins r
  let y := selBeat img w pe (nbits w 12 4) t row ins r
  let z := selBeat img w pe (nbits w 16 4) t row ins r
  let op := nbits w 0 4
  if op = 11 then { r with results := r.results ++ [packLanes x] }
  else if op = 10 then { r with results := r.results ++ [⟨expandLanes x, 0xFFFF⟩] }
  else if op = 8 then
    let a := nbits w 20 4
    let ty := laneTy (nbits w 4 2)
    let rs := (List.range 16).map fun j =>
      let old := r.accLane pe a j
      laneResult (elemOp .add ty (rmOf (nbits w 6 2)) old.1 (x.lane j).1 0 0) (old.2 || (x.lane j).2)
    { results := r.results ++ [⟨rs.map Prod.fst, 0xFFFF⟩]
      acc := rs.zipIdx.foldl (fun m p => SMap.set m (accKey pe a p.2) p.1.1) r.acc
      flags := rs.foldl (fun f p => f ||| p.2) r.flags }
  else
    let rs := (List.range 16).map fun j => peLane w (x.lane j) (y.lane j) (z.lane j)
    { r with results := r.results ++ [⟨rs.map Prod.fst, 0xFFFF⟩], flags := rs.foldl (fun f p => f ||| p.2) r.flags }

/-- One beat through the grid. -/
def gridBeat (img : List Byte) (t row : Nat) (ins : List Beat) (acc : SMap Lane) (f : Flags) : GridRun :=
  (List.range 64).foldl (peStep img t row ins) ⟨[], acc, f⟩

/-- A row through the grid: the results of each beat. -/
def gridRow (img : List Byte) (row : Nat) : Nat → List (List Beat) → SMap Lane → Flags → List (List Beat) × SMap Lane × Flags
  | _, [], acc, f => ([], acc, f)
  | t, ins :: rest, acc, f =>
    let r := gridBeat img t row ins acc f
    let more := gridRow img row (t + 1) rest r.acc r.flags
    (r.results :: more.1, more.2)

/-! ### Ports (R375, R376) -/

/-- The lane type of a format's elements on a port. -/
def portLane : MemFmt → ElemTy
  | .elem .i32 | .elem .i16 | .elem .i8 | .i4 | .i4s | .i8s => .i32
  | .elem .n32 | .elem .n16 | .elem .n8 => .n32
  | .elem .f32 | .elem .bf16 | .elem .f16 | .elem .e4m3 | .elem .e5m2 | .elem .e2m1 | .elem .e8m0 => .f32
  | .e2m1x2 | .e2m1s | .e4m3s => .f32
  | .bmv _ => .n32

/-- The lane type that an input element of a format is held in: scaled formats as f32 (R375). -/
def inLane (f : MemFmt) : ElemTy := if f.scaled then .f32 else portLane f

/-- Is the format a bitmask form? -/
def isForm (code : Nat) : Bool := 20 ≤ code && decide (code ≤ 22)

/-- Elements per row of a port (R376). -/
def rowElems (g : Gen) (raw : Bool) : Nat := if raw then 256 else 8192 / g.wb

/-- Beats per row of a port (R376). -/
def portBeats (g : Gen) (raw : Bool) : Nat := rowElems g raw / 16

/-- Rows of a port (R376). -/
def portRows (g : Gen) : Nat :=
  if isForm g.code then (g.size 0 + rowElems g false - 1) / rowElems g false else g.size 1 * g.size 2 * g.size 3

/-- The geometry of R376. -/
def geometryOk (g : Gen) : Bool :=
  if isForm g.code then
    g.size 2 == 1 && g.size 3 == 1 && g.strides.all fun x => x == 0 || x == 1
  else
    g.stride 0 == 1 && g.size 0 * g.wb == 8192
      && [1, 2, 3].all fun i => (g.stride i * (g.wb : Int)) % 8192 == 0

/-- The physical address of a virtual one for a stream: the visible backing of a shadowed range for reads, the
hidden one for writes (R228, R385). -/
def streamPa (s : State) (x : CtxId) (b : Binding) (va : Nat) (out : Bool) : Nat :=
  s.placeIn x va b.block fun y => b.side.getD (y.visB != out)

/-- Read bytes of a bound operand: bytes, and the error code of R383 or 0; a page with PZ reads as poisoned (R362). -/
def streamRead (x : CtxId) (b : Binding) (va n : Nat) : X (List Byte × Nat) := do
  let s ← get
  let r ← attempt (rawRead (s.leafKeyRef b.block) va (streamPa s x b va false) n)
  match r with
  | .ok (bs, bad) => pure (bs, if bad || lbit b.block 11 then 0x08 else 0)
  | .error t => pure (List.replicate n 0, t.code)

/-- The first error code of two. -/
def firstErr (a b : Nat) : Nat := if a != 0 then a else b

/-- The range of a bound walk. -/
def Binding.range (b : Binding) : Nat × Nat :=
  let g := Walk4.ofBits b.gen
  if isForm g.code then bytesAt g.base (1024 * g.size 1) else g.range

/-! ### Binding a walk (R387, R391) -/

/-- The Lattice that a stream-capable block belongs to (R345, R391); none for a page that is not. -/
def latticeOf (leaf : Nat) : Option Nat :=
  if !lbit leaf 4 then none
  else if leafKind leaf = 0 then some ((leafPa leaf - 2 ^ 39) / 2 ^ 21 % 32)
  else some (32 + (leafPa leaf - 2 ^ 44) / 2 ^ 42)

/-- Lowest and highest byte of a bound walk and of its scales. -/
def boundEnds (g : Gen) : List Nat :=
  if isForm g.code then [g.base, g.base + 1024 * g.size 1 - 1]
  else
    let ends := (List.range 4).foldl (fun (p : Int × Int) i =>
      let d : Int := g.stride i * ((g.size i - 1 : Nat) : Int)
      (p.1 + min d 0, p.2 + max d 0)) (0, 0)
    let lo := wrap64 (g.base + (ends.1 * g.wb).fdiv 8)
    let hi := wrap64 (g.base + (ends.2 * g.wb + (g.wb - 1 : Nat)).fdiv 8)
    if !g.scaled then [lo, hi]
    else
      let lines : Nat := g.count / g.size g.baxis
      let d : Int := g.sstride * ((lines - 1 : Nat) : Int)
      let s : Int := g.base + g.soff
      [lo, hi, wrap64 (s + min d 0), wrap64 (s + max d 0 + ((g.size g.baxis - 1) / 8 : Nat))]

/-- The checks of LBIND on a generator (R391), for an input or an output of a Lattice. FAULTVA of cause 0x09 is the first
byte outside the block that holds the lowest byte. -/
def bindCheck (w : Who) (lat : Nat) (bits : BitVec 512) (out : Bool) (side : Option Bool := none) : X Binding := do
  let g := Walk4.ofBits bits
  faultIf (!g.valid) 0x01 0
  faultIf (out && g.scaled) 0x01 0
  faultIf (ptrSpace g.base != 0) 0x05 g.base
  faultIf (g.base % 1024 != 0) 0x04 g.base
  faultIf (!geometryOk g) 0x01 0
  let lo := (boundEnds g).headD 0
  let leaves ← (boundEnds g).mapM fun p => do
    faultIf (p / 2 ^ 55 != 0) 0x05 p
    let t ← translate w p (if out then .write else .read)
    faultIf (lo / 2 ^ 21 < p / 2 ^ 21) 0x09 ((lo / 2 ^ 21 + 1) * 2 ^ 21)
    faultIf (latticeOf t.leaf != some lat || p / 2 ^ 21 != lo / 2 ^ 21) 0x09 p
    pure t.leaf
  pure ⟨bits, leaves.headD 0, side⟩

/-- Elements of a row that share a scale byte, one after the other: those of a block along axis 0 (R30, R157). -/
def scaleRun (g : Gen) : Nat := if g.baxis = 0 then 8 else 1

/-- The addresses of the scale bytes of a row, in element order, one for each run. -/
def rowScales (g : Gen) (row : Nat) : List Nat :=
  let n := rowElems g false
  let k := scaleRun g
  if g.scaled then (List.range ((n + k - 1) / k)).map fun i => g.scaleAddr (row * n + k * i) else []

/-- The lanes of a row of a dense or scaled port. -/
def denseRow (x : CtxId) (b : Binding) (row : Nat) : X (List Beat × Nat) := do
  let g := Walk4.ofBits b.gen
  let n := rowElems g false
  let r ← streamRead x b (g.addr (row * n)).1 1024
  let scales ← (rowScales g row).mapM fun p => streamRead x b p 1
  let all := leNat r.1
  let xs := (List.range n).map fun i =>
    let v := g.fmt.decode (nbits all (g.wb * i) g.wb)
    let v := if g.scaled then applyScale v (leNat ((scales.getD (i / scaleRun g) ([], 0)).1)) else v
    ((inLane g.fmt).round .rne v).1
  let err := scales.foldl (fun e p => firstErr e p.2) r.2
  pure ((List.range (n / 16)).map fun t => Beat.of ((xs.drop (16 * t)).take 16), err)

/-- A raw row. -/
def rawRow (x : CtxId) (b : Binding) (row : Nat) : X (List Beat × Nat) := do
  let g := Walk4.ofBits b.gen
  let r ← streamRead x b (g.addr (row * g.size 0)).1 1024
  pure ((List.range 16).map fun t => Beat.of (lanesOf 4 16 (r.1.drop (64 * t))), r.2)

/-- The checks of R152 steps 2 to 5 on a bitmask form (R383). -/
def formOk (n zc total cap w : Nat) (mask : Nat) (dense : Nat) : Bool :=
  n != 0 && n == dense && total == packHead n + zc * w && decide (total ≤ cap) && onesOf n mask == zc && mask / 2 ^ n == 0

/-- A row of a bitmask port (R375, R376). -/
def formRow (x : CtxId) (b : Binding) (row : Nat) : X (List Beat × Nat) := do
  let g := Walk4.ofBits b.gen
  let w := g.wb / 8
  let e := rowElems g false
  let h ← streamRead x b g.base 8
  let n := leNat (h.1.take 2)
  let zc := leNat ((h.1.drop 2).take 2)
  let total := leNat (h.1.drop 4)
  let m ← streamRead x b (g.base + 8) (packHead n - 8)
  let mask := leNat m.1
  if firstErr h.2 m.2 = 0 && !formOk n zc total (1024 * g.size 1) w mask (g.size 0) then
    pure (List.replicate (e / 16) Beat.zero, 0x0A)
  else
    let before := onesOf (row * e) mask
    let v ← streamRead x b (g.base + packHead n + before * w) (onesOf e (mask / 2 ^ (row * e)) * w)
    let vs := lanesOf w (v.1.length / w) v.1
    let beats := (List.range (e / 16)).map fun t =>
      let mk := nbits mask (row * e + 16 * t) 16
      let skip := onesOf (row * e + 16 * t) mask - before
      let on := onesOf 16 mk
      ⟨(List.range 16).map fun j => (if j < on then vs.getD (skip + j) 0 else 0, false), mk⟩
    pure (beats, firstErr (firstErr h.2 m.2) v.2)

/-- The beats of a row at an input port. -/
def portRow (img : List Byte) (x : CtxId) (p : Nat) (b : Binding) (row : Nat) : X (List Beat × Nat) :=
  if portRaw img p then rawRow x b row
  else if isForm (Walk4.ofBits b.gen).code then formRow x b row
  else denseRow x b row

/-- The lane type of a PE's result. -/
def resultTy (img : List Byte) (pe : Nat) : ElemTy :=
  let w := peWord img pe
  if nbits w 0 4 = 6 then laneTy (nbits w 30 2) else laneTy (nbits w 4 2)

/-- The error of a row by those of its ports in order: a failed form ends the phase, whatever other ports have met; else the first
(R383). -/
def rowErr (es : List Nat) : Nat := if es.contains 0x0A then 0x0A else es.foldl firstErr 0

/-- The inputs of a row, ports in order: beats by time, and the error. -/
def rowInputs (img : List Byte) (x : CtxId) (binds : SMap Binding) (row beats : Nat) : X (List (List Beat) × Nat) := do
  let ins ← (List.range 4).mapM fun p =>
    match SMap.get binds p with
    | none => pure (List.replicate beats Beat.zero, 0)
    | some b => portRow img x p b row
  pure ((List.range beats).map fun t => ins.map fun i => i.1.getD t Beat.zero, rowErr (ins.map Prod.snd))

/-- The NaN record of a stream row (R384). -/
def streamNan (c : CoreId) (produced : Bool) (ix fmtI fmtO : Nat) : Word :=
  nanWord c produced ⟨2, ix, 0, fmtI, fmtI, fmtO, false⟩

/-- An output port's elements of a row: encodings with flags, and the path mark of each (R375). -/
def outElems (img : List Byte) (p : Nat) (f : MemFmt) (rows : List (List Beat)) : List (Nat × Flags × Bool) :=
  let pe := portPe img p
  rows.flatMap fun r =>
    (r.getD pe Beat.zero).lanes.map fun l =>
      let q := f.round (rmOf (nbits (routeWord img p) 8 2)) ((resultTy img pe).decode l.1)
      (q.1, q.2, l.2 || q.2.hasNv)

/-- Pack encodings of w bits into bytes. -/
def packBits (w : Nat) (xs : List Nat) : List Byte :=
  leBytes (xs.length * w / 8) (xs.foldr (fun x a => x % 2 ^ w + a * 2 ^ w) 0)

/-- A beat of a compressed output without the lanes at and past element n (R31, R376). -/
def cutBeat (b : Beat) (room : Nat) : Beat := if 16 ≤ room then b else { b with mask := b.mask % 2 ^ room }

/-- A compressed output's bytes of a row: its part of the bitmask, and the values behind those written before. -/
def formOut (g : Gen) (img : List Byte) (p row count : Nat) (rows : List (List Beat)) : List (Nat × List Byte) × Nat :=
  let pe := portPe img p
  let w := g.wb / 8
  let e := rowElems g false
  let left := g.size 0 - row * e
  let bs := rows.zipIdx.map fun r => cutBeat (r.1.getD pe Beat.zero) (left - 16 * r.2)
  let vals := bs.flatMap fun b => (b.lanes.take (onesOf 16 b.mask)).map Prod.fst
  let maskBytes := ((bs.flatMap fun b => leBytes 2 b.mask).take ((min e left + 63) / 64 * 8))
  ([(g.base + 8 + row * e / 8, maskBytes), (g.base + packHead (g.size 0) + count * w, vals.flatMap (leBytes w))],
    count + vals.length)

end Sys2Proof.Machine
end

