-- ==== Sys2Proof/Machine/Calendar.lean ====
section
/-! DEFINITION. Calendars (R320 to R325, R456): ownership of slots, widths, rotation boundaries, the slots that issue
the atoms of copy commands, and the windows of R378. -/

namespace Sys2Proof.Machine

open Sys2Proof

/-! ### Ownership and widths -/

/-- A pseudo-channel's state. -/
def State.pcStat (s : State) (p : Nat) : PcStat := (SMap.get s.pcs p).getD PcStat.fresh

/-- Update a pseudo-channel. -/
def State.onPc (s : State) (p : Nat) (f : PcStat → PcStat) : State := { s with pcs := SMap.set s.pcs p (f (s.pcStat p)) }

/-- CALOWN of a slot: CORE + 128 × V; the default of R16. -/
def calEntry (t : SMap Nat) (pc slot : Nat) : Nat := (SMap.get t (pc * 128 + slot)).getD ((slot + pc) % 128 + 128)

/-- Set CALOWN; the default is not listed. -/
def calSet (t : SMap Nat) (pc slot v : Nat) : SMap Nat :=
  SMap.put t (pc * 128 + slot) (if v = (slot + pc) % 128 + 128 then none else some v)

/-- The core that owns a slot in force; none where it is idle (R324). -/
def State.slotOwner (s : State) (pc slot : Nat) : Option CoreId :=
  let e := calEntry s.calForce pc slot
  if 128 ≤ e ∧ slot < 128 then some (Fin.ofNat 128 e) else none

/-- The context that owns a core. -/
def State.coreCtx (s : State) (c : CoreId) : Option CtxId := (List.finRange 16).find? fun x => s.owns x c

/-- The window in force of a context on a pseudo-channel (R378). -/
def State.window (s : State) (x : CtxId) (pc : Nat) : Lwin :=
  (SMap.get s.lwinForce ((x.val * 32 + pc / 16) * 16 + pc % 16)).getD ⟨0, 0, false, false⟩

/-- Does a window hold a slot? -/
def Lwin.holds (w : Lwin) (k : Nat) : Bool := !w.off && w.start ≤ k && decide (k < w.start + w.len)

/-- Is a slot a window slot of any context, and is it in a hard one (R379)? -/
def State.windowSlot (s : State) (pc k : Nat) : Bool × Bool :=
  let ws := ((List.finRange 16).map fun x => s.window x pc).filter fun w => w.holds k
  (!ws.isEmpty, ws.any (·.hard))

/-- The LWIN register of a context and Lattice. -/
def State.lwinOf (s : State) (x : CtxId) (lat : Nat) : Lwin := (SMap.get s.lwin (x.val * 32 + lat)).getD ⟨0, 0, false, false⟩

/-- The ownership check of R378 on all 16 pseudo-channels of a Lattice. -/
def State.windowPasses (s : State) (x : CtxId) (lat : Nat) (w : Lwin) : Bool :=
  (List.range 16).all fun j => (List.range w.len).all fun k =>
    match s.slotOwner (16 * lat + j) (w.start + k) with
    | none => true
    | some c => !w.hard && s.owns x c

/-- Set a window, with its OFF from the ownership check (R378). -/
def State.setLwin (s : State) (x : CtxId) (lat : Nat) (w : Lwin) : State :=
  { s with lwin := SMap.set s.lwin (x.val * 32 + lat) { w with off := !s.windowPasses x lat w } }

/-- Make the ownership check again on every window of a Lattice (R378); windows of length 0 pass. -/
def State.recheckWindows (s : State) (lat : Nat) : State :=
  (List.finRange 16).foldl (fun t x =>
    let w := t.lwinOf x lat
    if w.len = 0 then t
    else
      let off := !t.windowPasses x lat w
      let t1 := { t with lwin := SMap.set t.lwin (x.val * 32 + lat) { w with off := off } }
      { t1 with lwinForce := (List.range 16).foldl (fun m j =>
          let k := (x.val * 32 + lat) * 16 + j
          match SMap.get m k with
          | none => m
          | some v => SMap.set m k { v with off := off }) t1.lwinForce }) s

/-! ### Atoms -/

/-- The pseudo-channel of a physical address, where local HBM is behind it. -/
def State.pcOf (s : State) (pa : Nat) : Option Nat :=
  match backing s.srows pa with
  | .hbm pc _ => some pc
  | .pool _ _ => none
  | .unbacked => none

/-- Issue the request of a core on a pseudo-channel that became ready first (R321). -/
def State.issueAtom (s : State) (c : CoreId) (pc : Nat) : Option State :=
  match s.reqs.findIdx? fun r => r.core == c && r.pc == pc with
  | none => none
  | some i =>
    match s.reqs[i]? with
    | none => none
    | some r => some { s with reqs := s.reqs.eraseIdx i, inflight := s.inflight ++ [r] }

/-- Has a core a ready request on a pseudo-channel? -/
def State.wants (s : State) (c : CoreId) (pc : Nat) : Bool := s.reqs.any fun r => r.core == c && r.pc == pc

/-- The core that a slot is lent to (R323): ascending after the owner, of the same context, with a ready request. -/
def State.lendTo (s : State) (c : CoreId) (pc : Nat) : Option CoreId :=
  match s.coreCtx c with
  | none => none
  | some x =>
    if !(s.ctx x).desc.lend || (s.ctx x).state == .suspended then none
    else
      ((List.range 127).map fun i => (Fin.ofNat 128 (c.val + 1 + i) : CoreId)).find? fun d => s.owns x d && s.wants d pc

/-! ### Rotations -/

/-- Copy the staged ownership of a pseudo-channel to the table in force (R324). -/
def State.applyCalendar (s : State) (pc : Nat) : State :=
  let keep := s.calForce.filter fun e => e.1 / 128 != pc
  { s with calForce := (s.calStaged.filter fun e => e.1 / 128 == pc).foldl (fun m e => SMap.set m e.1 e.2) keep
           calApply := s.calApply &&& ~~~(BitVec.ofNat 512 (2 ^ pc)) }

/-- The width change of a boundary (R325): a pending one takes effect, and a wanted one is announced. -/
def PcStat.boundary (p : PcStat) (narrow : Bool) : PcStat :=
  let q := if p.pend then { p with w16 := p.pendw, pend := false, epoch := p.epoch + 1 } else p
  let r := if q.w16 != narrow then { q with pend := true, pendw := narrow } else q
  { r with slot := 0 }

/-- Has every waiting request on a Lattice's pseudo-channels issued (R377, R380)? -/
def State.noneWaits (s : State) (lat : Nat) : Bool := (List.range 16).all fun j => (s.pcStat (16 * lat + j)).waiters.isEmpty

/-- Update the streams on a Lattice. -/
def State.onStreamsOf (s : State) (lat : Nat) (f : Stream → Stream) : State :=
  { s with lats := s.lats.map fun p => if p.1 / 4 = lat then (p.1, { p.2 with stream := p.2.stream.map f }) else p }

/-- A nominal rotation boundary lets the held streams of a Lattice run again once no request waits (R377). -/
def State.releaseHolds (s : State) (lat : Nat) : State :=
  if !s.noneWaits lat then s else s.onStreamsOf lat fun u => { u with boundary := u.boundary || u.state == .held }

/-- ROTATION_BOUNDARY (R320, R324, R325, R377, R378, R447): staged ownership, windows and widths take effect; full throttle narrows. It comes when the
rotation's slots have passed. -/
def execRotationBoundary (pc : PcId) (s : State) : Host.Outcome State Fault Refusal :=
  if (s.pcStat pc.val).slot != 129 then .next s
  else
    let s1 := (s.releaseHolds (pc.val / 16)).onPc pc.val fun p => p.boundary (s.ctl.throttle == 3 || Config.narrow (s.tick * 512 + pc.val))
    let s2 := if s1.calApply.getLsbD pc.val then
        let t := s1.applyCalendar pc.val
        t.recheckWindows (pc.val / 16)
      else s1
    .next { s2 with lwinForce := (List.finRange 16).foldl (fun m x =>
      match SMap.get s2.lwin (x.val * 32 + pc.val / 16) with
      | none => m
      | some w => SMap.set m ((x.val * 32 + pc.val / 16) * 16 + pc.val % 16) w) s2.lwinForce }

/-- APPLY (R324): every pseudo-channel takes the staged table at its next boundary. -/
def execCalApply (s : State) : Host.Outcome State Fault Refusal := .next { s with calApply := BitVec.allOnes 512 }

/-- CALENDAR_RESET (R324): the staged table becomes the default of R16. -/
def execCalendarReset (s : State) : Host.Outcome State Fault Refusal := .next { s with calStaged := [] }

/-! ### Slots -/

/-- The maintenance of slot 128 (R321, R362, R363): an atom may take an error, the scrub meets the errors that it passes over, and
a row-remap entry may be lost, which retires its row (log 18). -/
def State.maintain (s : State) (pc : Nat) : State :=
  let s0 := match Config.decays s.tick with
    | none => s
    | some a => if (s.pcOf (a % 2 ^ 34 * 64)).isSome then { s with decayed := a % 2 ^ 34 :: s.decayed.erase (a % 2 ^ 34) } else s
  let s1 := (s0.decayed.filter (Config.scrubs s.tick)).foldl (fun t a => t.meetErrors (a * 64) 64) s0
  match Config.rowLost s.tick with
  | none => s1
  | some r =>
    if s1.retiredRows.contains (rowKey pc (r % 2 ^ 20)) then s1
    else { s1.onPc pc fun p => { p with degr := true } with retiredRows := rowKey pc (r % 2 ^ 20) :: s1.retiredRows }

/-- A slot inside a burst: its owner waits where it has a ready request, and the stream holds at its next row
boundary (R380). -/
def State.slotInBurst (s : State) (pc k lat slot : Nat) : State :=
  match s.slotOwner pc k with
  | none => s
  | some c =>
    if !s.wants c pc then s
    else
      ((s.onPc pc fun p => { p with waiters := p.waiters ++ [c] }).onStreamsOf lat fun t => { t with boundary := false }).onStream
        lat slot fun t => { t with holdReq := true }

/-- A slot that may carry a core's atom (R321, R323). -/
def State.slotIssue (s : State) (pc k : Nat) : Option State :=
  match s.slotOwner pc k with
  | none => none
  | some c =>
    match s.issueAtom c pc with
    | some t => some t
    | none => if (s.windowSlot pc k).1 then none else (s.lendTo c pc).bind fun d => s.issueAtom d pc

/-- CALENDAR_SLOT (R321, R323, R379): the pseudo-channel's next slot starts. One that is late recovers in a slot without
a request, except slot 128. -/
def execCalendarSlot (pc : PcId) (slot : Fin 129) (s : State) : Host.Outcome State Fault Refusal :=
  let p := s.pcStat pc.val
  if p.slot != slot.val then .next s
  else
    let s1 := s.onPc pc.val fun p => { p with slot := p.slot + 1 }
    if slot.val = 128 then .next (s1.maintain pc.val)
    else
      match p.burst with
      | some b => .next (if slot.val < p.burstTo then s1.slotInBurst pc.val slot.val b.1 b.2.1 else s1)
      | none =>
        .next (match s1.slotIssue pc.val slot.val with
          | some t => t
          | none => s1.onPc pc.val fun q => { q with late := q.late - (if q.w16 then 4 else 2) })

end Sys2Proof.Machine
end

