-- ==== Sys2Proof/Machine/Engine.lean ====
section
/-! DEFINITION. What a copy command does (R326, R328, R329, R334, R336, R337): its chunks, the elements of a chunk, their
conversion, the writes, poison, the follow-on subcommand, and the range checker. -/

namespace Sys2Proof.Machine

open Sys2Proof

/-! ### Commands -/

/-- A command of a core. -/
def State.cmd (s : State) (c : CoreId) (seq : Nat) : Option Cmd := (s.core c).cmds.find? fun k => k.seq == seq

/-- The identity of a command's accesses. -/
def Cmd.who (k : Cmd) (c : CoreId) : Who := ⟨k.ctx, some c, some k.slot⟩

/-- Has the command started and not completed? -/
def Cmd.active (k : Cmd) : Bool :=
  match k.st with
  | .reading _ _ _ | .writing _ _ _ | .following | .faulted _ _ _ | .exchanging _ _ => true
  | .queued | .done => false

/-- Is the command of the group in a slot? -/
def Cmd.of (k : Cmd) (slot : SlotId) (g : Group) : Bool := k.slot == slot && k.order == g.order

/-- The command that its channel has started and not retired (R328). -/
def State.started (s : State) (c : CoreId) (ch : ChId) : Option Cmd :=
  (s.core c).cmds.find? fun k => k.ch == ch && k.st != .queued

/-- Set how far a command has come. -/
def setCmd (c : CoreId) (seq : Nat) (st : CmdState) : X Unit :=
  modify fun s => s.onCmd c seq fun k => { k with st := st }

/-- Do two ranges overlap in one space (R214, R328)? -/
def sameSpace (a b : Nat × Nat) : Bool := ptrSpace a.1 == ptrSpace b.1 && meets a b

/-- The ranges that a command reads (R328, R416). -/
def Cmd.reads (k : Cmd) : List (Nat × Nat) :=
  match k.kind with
  | .copy | .cred _ _ _ _ _ | .send _ _ _ _ | .mcst _ => [k.src.range]
  | .recv _ _ _ _ => []

/-- The ranges that a command writes. -/
def Cmd.writes (k : Cmd) : List (Nat × Nat) :=
  match k.kind with
  | .copy | .cred _ _ _ _ _ | .recv _ _ _ _ | .mcst _ => [k.dst.range]
  | .send _ _ _ _ => []

/-- Do the ranges of two commands conflict (R328)? -/
def conflicts (a b : Cmd) : Bool :=
  a.writes.any (fun w => (b.writes ++ b.reads).any (sameSpace w)) || b.writes.any fun w => a.reads.any (sameSpace w)

/-- Does the range checker hold a command back (R328)? -/
def State.rangeHeld (s : State) (c : CoreId) (k : Cmd) : Bool :=
  (s.core c).cmds.any fun j => decide (j.seq < k.seq) && conflicts j k

/-- DONEID of a channel (R330). -/
def State.doneId (s : State) (c : CoreId) (ch : ChId) : BitVec 48 :=
  match (s.core c).cmds.filter fun k => k.ch == ch with
  | [] => vget (s.core c).nextId ch
  | k :: r => r.foldl (fun a j => if (a - j.id).toNat < 2 ^ 47 then j.id else a) k.id

/-- Done(t) of a channel (R330). -/
def State.transferDone (s : State) (c : CoreId) (ch : ChId) (t : BitVec 48) : Bool :=
  let d := (s.doneId c ch - t).toNat
  1 ≤ d && decide (d ≤ 2 ^ 47 - 1)

/-! ### Status (R331, R336) -/

/-- A saturating 16-bit sum. -/
def satAdd16 (a : BitVec 16) (n : Nat) : BitVec 16 := BitVec.ofNat 16 (min (a.toNat + n) 65535)

/-- Count fills and errors of a transfer. -/
def ChStat.count (t : ChStat) (fills errs cause id : Nat) : ChStat :=
  { t with fills := satAdd16 t.fills fills
           errs := satAdd16 t.errs errs
           cause := if t.cause = 0 && errs != 0 then BitVec.ofNat 8 cause else t.cause
           firstId := if t.firstId = 0 && errs != 0 then id else t.firstId }

/-- Report to the group that enqueued a command, if it is still in its slot (R432). -/
def Cmd.report (k : Cmd) (c : CoreId) (fills errs cause : Nat) : X Unit :=
  modify fun s => s.onGroup c k.slot fun g =>
    if g.order != k.order then g
    else { g with chans := vset g.chans k.ch ((vget g.chans k.ch).count fills errs cause k.id.toNat) }

/-- Each value once. -/
def dedup (xs : List Nat) : List Nat := xs.foldl (fun a x => if a.contains x then a else a ++ [x]) []

/-! ### Places (R208 to R211, R228, R338) -/

/-- A source place of a command: one backing of a shadowed range throughout, that which was visible when it started (R228,
log 83). -/
def srcPlace (k : Cmd) (c : CoreId) (p n : Nat) : X Place := do
  if ptrSpace p = 0 then
    faultIf (p / 2 ^ 55 != 0) 0x05 p
    let t ← translateBy (k.who c) p .read fun b => (k.view.getD []).contains b.vbase
    pure (.virt t)
  else resolve (k.who c) p n .read

/-- May a context write a replicated region by MCST: is it the owner, and the region in update state (R402, R420)? -/
def State.updates (s : State) (x : CtxId) (r : Region) : Bool :=
  r.ownProc == s.encProc.toNat && r.ownCtx == x.val && r.update

/-- A destination place of a command. -/
def destPlace (k : Cmd) (c : CoreId) (p n : Nat) : X Place :=
  match k.kind with
  | .mcst _ => do
    let t ← translate (k.who c) p .none true
    let s ← get
    faultIf (!lbit t.leaf 2 || leafKind t.leaf != 2 || !(s.regionOf t.pa).elim false (s.updates k.ctx)) 0x07 p
    pure (.virt t)
  | .copy | .cred _ _ _ _ _ | .send _ _ _ _ | .recv _ _ _ _ => resolveDest (k.who c) p n

/-- A place of either side. -/
def sidePlace (k : Cmd) (c : CoreId) (dst : Bool) : Nat → Nat → X Place := if dst then destPlace k c else srcPlace k c

/-- Translate and check the accesses of one side of a chunk in their order, each page once, and hold what is found (R338). -/
def holdAll (k : Cmd) (c : CoreId) (dst : Bool) (xs : List (Nat × Nat)) (hs : List Hold) : X (List Hold) :=
  (xs.flatMap fun x => spans 65536 x.1 x.2).foldlM (init := hs) fun hs q => do
    if ptrSpace q.1 = 0 && hs.any fun h => h.dst == dst && h.page == q.1 / 65536 then pure hs
    else
      let pl ← sidePlace k c dst q.1 q.2
      let s ← get
      pure (match pl with
      | .virt t => hs ++ [⟨dst, q.1 / 65536, t.pa - q.1 % 65536, t.leaf, s.tick⟩]
      | .chip _ => hs)

/-- The place that a chunk's translations lead to. -/
def heldPlace (k : Cmd) (c : CoreId) (dst : Bool) (held : List Hold) (p n : Nat) : X Place :=
  match (if ptrSpace p = 0 then held.find? fun h => h.dst == dst && h.page == p / 65536 else none) with
  | some h => pure (.virt ⟨h.pa + p % 65536, h.leaf⟩)
  | none => sidePlace k c dst p n

/-- The pieces of accesses to local HBM that stand inside one atom's span, in their order: physical address, length, leaf. -/
def localSpans (dst : Bool) (held : List Hold) (xs : List (Nat × Nat)) (s : State) : List (Nat × Nat × Nat) :=
  (xs.flatMap fun x => spans 64 x.1 x.2).filterMap fun q =>
    (held.find? fun h => ptrSpace q.1 == 0 && h.dst == dst && h.page == q.1 / 65536).bind fun h =>
      (s.pcOf (h.pa + q.1 % 65536)).map fun _ => (h.pa + q.1 % 65536, q.2, h.leaf)

/-- The local-HBM atoms that reads ask for, in their order (R328, R360). -/
def atomsBehind (held : List Hold) (xs : List (Nat × Nat)) (s : State) : List Nat :=
  dedup ((localSpans false held xs s).flatMap fun q => s.formAtoms (s.leafKeyRef q.2.2) (leafC q.2.2) q.1 q.2.1)

/-- The compressed-form blocks that writes touch, each with whether they cover it whole. -/
def touchedBlocks (held : List Hold) (xs : List (Nat × Nat)) (s : State) : List (Nat × Bool) :=
  let qs := (localSpans true held xs s).filter fun q => leafC q.2.2
  (dedup (qs.map fun q => q.1 / 256)).map fun b =>
    (b, (List.range 256).all fun i => qs.any fun q => decide (q.1 ≤ b * 256 + i) && decide (b * 256 + i < q.1 + q.2.1))

/-- The atoms of blocks that a write in part reads and merges first (R336, R360). -/
def mergeReads (held : List Hold) (xs : List (Nat × Nat)) (s : State) : List Nat :=
  ((touchedBlocks held xs s).filter fun b => !b.2).flatMap fun b => (List.range (atomsOf (s.sizeOf b.1))).map (b.1 * 4 + ·)

/-- The local-HBM atoms that writes go to, in their order: of a block on a C = 1 page those of the form that it then has, which
`after` holds (R336, R360). -/
def atomsWritten (held : List Hold) (xs : List (Nat × Nat)) (s after : State) : List Nat :=
  dedup ((localSpans true held xs s).flatMap fun q =>
    if leafC q.2.2 then (List.range (atomsOf (after.sizeOf (q.1 / 256)))).map (q.1 / 256 * 4 + ·) else [q.1 / 64])

/-- Requests for atoms of local HBM, in the order of the walk (R328). -/
def State.request (s : State) (c : CoreId) (seq : Nat) (write : Bool) (atoms : List Nat) : State :=
  { s with reqs := s.reqs ++ atoms.filterMap fun a => (s.pcOf (a * 64)).map fun pc => ⟨c, seq, pc, write⟩ }

/-- Is a place behind one of these ports? -/
def Place.behind (pl : Place) (ports : List Nat) : Bool :=
  match pl with
  | .virt t => decide (2 ^ 44 ≤ t.pa) && ports.contains (portOf (t.pa / 64)).val
  | .chip _ => false

/-! ### Source elements (R336) -/

/-- The cause that a command reports for a lost source atom: 0x08, or 0x13 where its pool request failed; of a link command always
0x13 (R336, R416). -/
def Cmd.lostCause (k : Cmd) (code : Nat) : Nat :=
  match k.kind with
  | .copy => code
  | .cred _ _ _ _ _ | .send _ _ _ _ | .recv _ _ _ _ | .mcst _ => 0x13

/-- Bytes of a source inside one atom's span, and the lost atoms that supply them, each with its cause (R336). A request that
was outstanding on a head as it went down has failed. -/
def softPlace (k : Cmd) (p n : Nat) (pl : Place) : X (List Byte × List (Nat × Nat)) := do
  let s ← get
  match pl with
  | .chip a =>
    let r := s.chipRead a n
    pure (r.1, if r.2 then [(a / 64, 0x08)] else [])
  | .virt t =>
    let key := s.leafKeyRef t.leaf
    if pl.behind k.down then pure (List.replicate n 0, [(t.pa / 64, 0x13)])
    else
      let r ← (if leafC t.leaf then blockReadWith (softRaw key) p t.pa n
        else do
          let x ← softRaw key p t.pa n
          pure (x.1, [x.2.map fun code => (t.pa / 64, code)]))
      let lost := r.2.filterMap id
      pure (r.1, if lbit t.leaf 11 && lost.isEmpty then [(t.pa / 64, 0x08)] else lost)

/-- Bytes of a chunk's source and the atoms of them that are lost, each with its cause. -/
def softRead (k : Cmd) (c : CoreId) (held : List Hold) (p n : Nat) : X (List Byte × List (Nat × Nat)) :=
  (spans 64 p n).foldlM (init := ([], [])) fun acc q => do
    let pl ← heldPlace k c false held q.1 q.2
    let r ← softPlace k q.1 q.2 pl
    pure (acc.1 ++ r.1, acc.2 ++ r.2.map fun x => (x.1, k.lostCause x.2))

/-- The refusals that a chunk's reads have met have ended their requests (R409). -/
def endRefusals (held : List Hold) (xs : List (Nat × Nat)) : X Unit :=
  modify fun s =>
    if s.refusedLines.isEmpty then s
    else
      let met := (xs.flatMap fun x => spans 64 x.1 x.2).filterMap fun q =>
        (held.find? fun h => ptrSpace q.1 == 0 && !h.dst && h.page == q.1 / 65536).map fun h =>
          let pa := h.pa + q.1 % 65536
          (((s.readReplica pa).getD pa) / 64, leafC h.leaf)
      { s with refusedLines := s.refusedLines.filter fun l => !met.any fun a => a.1 == l || (a.2 && a.1 / 4 == l / 4) }

/-- A source element of a command: encoding, scale byte, value, the lost granules that supply it, whether its scale byte is
lost, and whether NV was raised on its way through a Lattice (R384). -/
structure SrcElem where
  raw : Nat
  scale : Nat
  num : Num
  bad : List (Nat × Nat)
  scaleLost : Bool := false
  nv : Bool := false
  deriving DecidableEq, Repr

/-- Element e of a source walk, read by `rd`. -/
def plainElem (rd : Nat → Nat → X (List Byte × List (Nat × Nat))) (g : Gen) (e : Nat) : X SrcElem := do
  let p := g.addr e
  let b ← rd p.1 (fmtBytes g.fmt)
  let x := if g.wb = 4 then nibbleOf (leNat b.1) p.2 else leNat b.1
  if g.scaled then
    let sc ← rd (g.scaleAddr e) 1
    pure { raw := x, scale := leNat sc.1, num := applyScale (g.fmt.decode x) (leNat sc.1), bad := b.2 ++ sc.2
           scaleLost := !sc.2.isEmpty }
  else pure { raw := x, scale := 0, num := g.fmt.decode x, bad := b.2 }

/-- A walk as the words of a generator register (R155); the inverse of `Walk4.ofBits`. -/
def Walk4.toBits (g : Gen) : BitVec 512 :=
  let f := fun (lo n : Nat) (v : Int) => (v % 2 ^ n).toNat * 2 ^ lo
  BitVec.ofNat 512 (f 0 64 g.base + f 64 32 (g.size 0) + f 96 32 (g.size 1) + f 128 32 (g.size 2) + f 160 32 (g.size 3)
    + f 192 32 (g.stride 0) + f 224 32 (g.stride 1) + f 256 32 (g.stride 2) + f 288 32 (g.stride 3)
    + f 320 64 g.soff + f 384 32 g.sstride + f 416 5 g.code + f 421 2 g.baxis)

/-- The rows that the stream of an LS copy has delivered. -/
def State.lsKept (s : State) (k : Cmd) : List KeptRow := (s.latSlot k.lat k.islot).stream.elim [] Stream.kept

/-- Element e that an LS copy's O0 delivers (R387). An input row with an error is lost with its code (R383); a value where
the grid delivers none is left open (log 19). -/
def lsElem (k : Cmd) (e : Nat) : X SrcElem := do
  let s ← get
  let n := rowElems k.src false
  let l := s.latSlot k.lat k.islot
  let row := (s.lsKept k).find? fun r => r.row == e / n
  match l.image, row, row.bind fun r => r.lanes[e % n]? with
  | some img, some r, some x =>
    pure { raw := x.1, scale := 0, num := (resultTy img (portPe img 4)).decode x.1
           bad := if r.err = 0 then [] else [(e / n, r.err)], nv := x.2 }
  | _, _, _ =>
    let v := (Config.lost s.tick e).toNat
    pure { raw := v, scale := 0, num := .ofInt v, bad := [] }

/-- Element e of a command's source. -/
def srcElem (k : Cmd) (c : CoreId) (held : List Hold) (e : Nat) : X SrcElem :=
  if k.ls then lsElem k e else plainElem (softRead k c held) k.src e

/-! ### Chunks (R329) -/

/-- Elements per chunk, in dense destination order. -/
def Cmd.perChunk (k : Cmd) : Nat :=
  match k.kind with
  | .copy | .mcst _ => 4096 * 8 / k.dst.wb
  | .cred _ _ _ _ _ | .send _ _ _ _ | .recv _ _ _ _ => max k.src.count 1

/-- Elements that a command moves. -/
def Cmd.elements (k : Cmd) : Nat :=
  match k.kind with
  | .copy | .mcst _ | .cred _ _ _ _ _ | .recv _ _ _ _ => k.dst.count
  | .send _ _ _ _ => k.src.count

/-- Chunks of a command. -/
def Cmd.chunks (k : Cmd) : Nat := (k.elements + k.perChunk - 1) / k.perChunk

/-- The elements of a chunk. -/
def Cmd.chunkElems (k : Cmd) (c : Nat) : List Nat :=
  (List.range (min k.perChunk (k.elements - c * k.perChunk))).map (· + c * k.perChunk)

/-- The bytes of an element of a walk, with its scale byte. -/
def Walk4.bytesOf (g : Gen) (e : Nat) : List (Nat × Nat) :=
  ((g.addr e).1, fmtBytes g.fmt) :: (if g.scaled then [(g.scaleAddr e, 1)] else [])

/-- The elements of e's block along the block axis (R30). -/
def Walk4.blockMates (g : Gen) (e : Nat) : List Nat :=
  let cs := g.coords e
  let a := cs.getD g.baxis 0
  (List.range 8).filterMap fun i =>
    if a / 8 * 8 + i < g.size g.baxis then some (flat g.sizes (cs.set g.baxis (a / 8 * 8 + i))) else none

/-- The rows of its source that a chunk of an LS copy takes: from the first up to before the second (R376, R387). A
bitmask+values destination takes them all. -/
def Cmd.rowsOf (k : Cmd) (chunk : Nat) : Nat × Nat :=
  let n := rowElems k.src false
  (if isForm k.dst.code then 0 else chunk * k.perChunk / n, (min ((chunk + 1) * k.perChunk) k.elements + n - 1) / n)

/-- The accesses of one row of an LS copy's source (R376). -/
def Cmd.rowAccesses (k : Cmd) (row : Nat) : List (Nat × Nat) :=
  ((k.src.addr (row * k.src.size 0)).1, 1024) :: (rowScales k.src row).map fun p => (p, 1)

/-- The accesses of a chunk on its source side: its elements, and those that share a block of the destination with them
(R149). -/
def Cmd.srcAccesses (k : Cmd) (chunk : Nat) : List (Nat × Nat) :=
  match k.kind with
  | .recv _ _ _ _ => []
  | .copy | .mcst _ | .cred _ _ _ _ _ | .send _ _ _ _ =>
    if !k.ls then
      let es := k.chunkElems chunk
      (if k.dst.scaled then es.flatMap fun e => e :: k.dst.blockMates e else es).flatMap k.src.bytesOf
    else if isForm k.src.code then [(k.src.base, 1024 * k.src.size 1)]
    else ((List.range ((k.rowsOf chunk).2 - (k.rowsOf chunk).1)).map (· + (k.rowsOf chunk).1)).flatMap k.rowAccesses

/-- The accesses of a chunk on its destination side. -/
def Cmd.dstAccesses (k : Cmd) (chunk : Nat) : List (Nat × Nat) :=
  match k.kind with
  | .send _ _ _ _ => []
  | .copy | .mcst _ | .cred _ _ _ _ _ | .recv _ _ _ _ =>
    if isForm k.dst.code then [(k.dst.base, 1024 * k.dst.size 1)] else (k.chunkElems chunk).flatMap k.dst.bytesOf

/-! ### What a chunk writes -/

/-- A piece of a destination: whole bytes, or one nibble. -/
inductive Piece where
  | bytes (p : Nat) (bs : List Byte)
  | nibble (p n v : Nat)
  deriving DecidableEq, Repr

/-- Join a piece to the ones before it (newest first): two nibbles of a byte, and bytes that follow on. -/
def joinPiece (acc : List Piece) (x : Piece) : List Piece :=
  match x, acc with
  | .nibble p 1 v, .nibble q 0 u :: r =>
    if p = q then joinBytes r p [BitVec.ofNat 8 (u % 16 + 16 * (v % 16))] else x :: acc
  | .bytes p bs, r => joinBytes r p bs
  | _, _ => x :: acc
where
  /-- Bytes after the ones before them. -/
  joinBytes (r : List Piece) (p : Nat) (bs : List Byte) : List Piece :=
    match r with
    | .bytes q cs :: r2 => if q + cs.length = p then .bytes q (cs ++ bs) :: r2 else .bytes p bs :: r
    | _ => .bytes p bs :: r

/-- The piece of an element of a walk. -/
def Walk4.piece (g : Gen) (e v : Nat) : Piece :=
  let p := g.addr e
  if g.wb = 4 then .nibble p.1 p.2 v else .bytes p.1 (leBytes (fmtBytes g.fmt) v)

/-- What is written for an element: encoding, the scale byte of its block, flags, whether a NaN write is of KIND 0 (R48), lost
source granules. -/
structure DstElem where
  e : Nat
  raw : Nat
  scale : Nat
  flags : Flags
  nv : Bool
  bad : List (Nat × Nat)
  deriving DecidableEq, Repr

/-- A source value: zero where its atom is lost, whose elements are filled or poisoned (R336). -/
def SrcElem.filled (x : SrcElem) : Num := if x.bad.isEmpty then x.num else .ofInt 0

/-- The conversion of one element (R326): `src` gives source elements, `same` says that the formats are equal. Equal scaled
formats carry the scale byte too: that of a destination block is the one of its first element (DEDUCED where the block axes
differ, log 76). -/
def convertWith (k : Cmd) (src : Nat → X SrcElem) (same : Bool) (e : Nat) : X DstElem := do
  let x ← src e
  let lost := !x.bad.isEmpty
  if same then
    let first ← if k.dst.scaled then src ((k.dst.blockMates e).headD e) else pure x
    pure ⟨e, if k.ef && lost then 0 else k.dst.fmt.pattern x.raw, if k.ef && first.scaleLost then 0 else first.scale, 0, false, x.bad⟩
  else if k.dst.scaled then
    let mates := k.dst.blockMates e
    let xs ← mates.mapM src
    let r := encodeBlock k.dst.fmt (xs.map SrcElem.filled)
    let i := mates.findIdx (· == e)
    let own := r.2.1.getD i (0, 0)
    let whole := if i = 0 then r.2.2 else 0
    pure ⟨e, own.1, r.1, own.2 ||| whole, (own.2 ||| whole).hasNv || (i == 0 && xs.any SrcElem.nv), x.bad⟩
  else
    let q := k.dst.fmt.round .rne x.filled
    pure ⟨e, if lost then 0 else q.1, 0, if lost then 0 else q.2, x.nv || q.2.hasNv, x.bad⟩

/-- Does a command carry its elements as bit patterns (R28, R326)? Its formats are equal, whatever the block axes. The elements
of an LS copy come in the lane type of O0, and unchanged where the port is raw (DEDUCED, log 83). -/
def carriesBits (k : Cmd) (s : State) : Bool :=
  if !k.ls then k.src.code == k.dst.code
  else match (s.latSlot k.lat k.islot).image with
    | none => false
    | some img => portRaw img 4 && k.dst.code == (resultTy img (portPe img 4)).code

/-- What a chunk writes: pieces in order, the bytes that become poisoned, what is counted (R336), flags and the first NaN. -/
structure Moved where
  pieces : List Piece
  lose : List (Nat × Nat)
  fills : Nat
  errs : Nat
  cause : Nat
  flags : Flags
  nan : Option Word
  deriving DecidableEq, Repr

/-- The first NaN that a chunk writes (R48). -/
def chunkNan (k : Cmd) (c : CoreId) (xs : List DstElem) : Option Word :=
  (xs.find? fun x => x.flags.hasNan).map fun x =>
    nanWord c x.nv ⟨2, x.e, 0, k.src.code, k.src.code, k.dst.code, false⟩

/-- Bytes that the spec leaves open (log 13). -/
def openBytes (tick p n : Nat) : List Byte := (List.range n).map fun i => Config.lost tick (p + i)

/-- Put a block's scale, with the block's first element, at its place in the order of first elements, once. -/
def putScale (x : Nat × Nat × Nat) : List (Nat × Nat × Nat) → List (Nat × Nat × Nat)
  | [] => [x]
  | y :: r => if x.1 < y.1 then x :: y :: r else if x.1 = y.1 then y :: r else y :: putScale x r

/-- The scale bytes of elements, one for each block in the order of the blocks' first elements in the whole walk: where addresses
coincide, the last block's stands (R157), within a chunk and from chunk to chunk. -/
def scaleBytes (g : Gen) (xs : List DstElem) : List (Nat × Nat) :=
  if !g.scaled then []
  else (xs.foldl (fun a x => putScale ((g.blockMates x.e).headD x.e, g.scaleAddr x.e, x.scale) a) []).map Prod.snd

/-- What converted elements write (R329, R336). Of elements whose source is lost without error fill, the destination becomes
poisoned; in an accumulator or the weight stack, which have no poison, it is left open (log 85). -/
def movedElems (k : Cmd) (c : CoreId) (tick : Nat) (xs : List DstElem) : Moved :=
  let lost := if k.ef then [] else (xs.filter fun x => !x.bad.isEmpty).flatMap fun x => k.dst.bytesOf x.e
  let body := xs.map fun x => k.dst.piece x.e x.raw
  let scales := (scaleBytes k.dst xs).map fun q => Piece.bytes q.1 [BitVec.ofNat 8 q.2]
  let opened := if ptrSpace k.dst.base < 2 then [] else lost.map fun q => Piece.bytes q.1 (openBytes tick q.1 q.2)
  let atoms := xs.foldl (fun (a : List (Nat × Nat)) x =>
    x.bad.foldl (fun b g => if b.any fun h => h.1 == g.1 then b else b ++ [g]) a) []
  { pieces := ((body ++ scales).foldl joinPiece []).reverse ++ opened
    lose := if ptrSpace k.dst.base < 2 then lost else []
    fills := if k.ef then atoms.length else 0
    errs := if k.ef then 0 else atoms.length
    cause := (atoms.head?.elim 0 Prod.snd)
    flags := xs.foldl (fun f x => f ||| x.flags) 0
    nan := chunkNan k c xs }

/-- The bitmask form of a whole transfer (R31, R387), written with the last chunk. -/
def movedForm (k : Cmd) (es : List SrcElem) : X Moved := do
  let w := k.dst.wb / 8
  let xs := es.map fun x => if x.bad.isEmpty then x.raw % 256 ^ w else 0
  let nz := xs.filter (· != 0)
  let total := packHead k.elements + nz.length * w
  faultIf (decide (1024 * k.dst.size 1 < total)) 0x0A k.dst.base
  let bad := es.flatMap SrcElem.bad
  let atoms := (dedup (bad.map Prod.fst)).length
  let lost := !bad.isEmpty && !k.ef
  pure { pieces := [.bytes k.dst.base (leBytes 2 k.elements ++ leBytes 2 nz.length ++ leBytes 4 total
           ++ leBytes (packHead k.elements - 8) (maskOf xs) ++ nz.flatMap (leBytes w))]
         lose := if lost then [(k.dst.base, total)] else []
         fills := if k.ef then atoms else 0
         errs := if k.ef then 0 else atoms
         cause := (bad.head?.elim 0 Prod.snd)
         flags := 0, nan := none }

/-- The flags of the grid in the rows that a chunk takes (R47, R384). -/
def rowFlags (k : Cmd) (chunk : Nat) (s : State) : Flags :=
  if !k.ls then 0
  else ((s.lsKept k).filter fun r => decide ((k.rowsOf chunk).1 ≤ r.row) && decide (r.row < (k.rowsOf chunk).2)).foldl
    (fun f r => f ||| r.flags) 0

/-- What a chunk of a copy writes. -/
def chunkMoved (k : Cmd) (c : CoreId) (chunk : Nat) (held : List Hold) : X Moved := do
  let s ← get
  let m ← (if isForm k.dst.code then
      (if chunk + 1 = k.chunks then do movedForm k (← (List.range k.elements).mapM (srcElem k c held))
       else pure ⟨[], [], 0, 0, 0, 0, none⟩)
    else do
      pure (movedElems k c s.tick (← (k.chunkElems chunk).mapM (convertWith k (srcElem k c held) (carriesBits k s)))))
  if k.ls then pure () else endRefusals held (k.srcAccesses chunk)
  pure { m with flags := m.flags ||| rowFlags k chunk s }

/-! ### Writing a chunk -/

/-- Change pool lines on their device: the port cache keeps them Clean. On a C = 1 page the write takes whole blocks along
(R360, R420). -/
def writeThrough (c : Bool) (pa n : Nat) (put : X Unit) : X Unit := do
  put
  let lo := if c then pa / 256 * 4 else pa / 64
  let hi := if c then (pa + n + 255) / 256 * 4 else (pa + n + 63) / 64
  modify fun s => ((List.range (hi - lo)).map (lo + ·)).foldl (fun t l =>
    match t.cached l with
    | none => t
    | some x => if x.dirty then t.clean x else t) s

/-- The lines of a write that was under way on a head when it went down keep the old content or take the new one (R408). -/
def oldOrNew (p : Nat) (bs : List Byte) (put : Nat → List Byte → X Unit) : X Unit :=
  (pieces 64 p bs).forM fun q => do
    let s ← get
    if Config.mixed (s.tick + q.1 / 64) then do let _ ← attempt (put q.1 q.2); pure () else pure ()

/-- Do something at every replica of a place in a replicated region, by device and address. -/
def onReplicas (p : Nat) (pl : Place) (act : Xlat → Nat → Nat → X Unit) : X Unit := do
  let s ← get
  match pl with
  | .chip _ => fault 0x07 p
  | .virt t =>
    match s.regionOf t.pa with
    | none => fault 0x07 p
    | some r => r.devices.forM fun d => act t d (poolPa d (t.pa % 2 ^ 42))

/-- Write to every replica of a replicated region (R420). The first write that fails ends the command, with what is written
so far. -/
def mcstWrite (k : Cmd) (p : Nat) (bs : List Byte) (pl : Place) : X Unit := do
  let s ← get
  onReplicas p pl fun t d pa => do
        let put := fun (q : Nat) (cs : List Byte) => writeThrough (leafC t.leaf) (pa + (q - p)) cs.length
          (physWrite (s.leafKeyRef t.leaf) (leafC t.leaf) q (pa + (q - p)) cs k.cmp)
        let x ← attempt (if k.down.contains d then do oldOrNew p bs put; fault 0x13 p else put p bs)
        match x with
        | .ok _ => pure ()
        | .error e => do
          if k.down.contains d then oldOrNew p bs put else pure ()
          let s1 ← get
          throw (.trap e (some s1))

/-- Write bytes of a command's destination; a pool request error ends the writes of one page only, and counts
(R336). -/
def putBytes (k : Cmd) (c : CoreId) (held : List Hold) (p : Nat) (bs : List Byte) : X Unit :=
  (pieces 65536 p bs).forM fun q => do
    let pl ← heldPlace k c true held q.1 q.2.length
    match k.kind with
    | .mcst _ => mcstWrite k q.1 q.2 pl
    | .copy | .cred _ _ _ _ _ | .send _ _ _ _ | .recv _ _ _ _ =>
      let put := fun (a : Nat) (cs : List Byte) => writePlace a (pl.shift (a - q.1)) cs k.cmp
      if pl.behind k.down then
        oldOrNew q.1 q.2 put
        k.report c 0 1 0x13
      else
        let r ← attempt (put q.1 q.2)
        match r with
        | .ok _ => pure ()
        | .error t => if t.code = 0x13 then k.report c 0 1 0x13 else throw (.trap t none)

/-- Write a piece. -/
def putPiece (k : Cmd) (c : CoreId) (held : List Hold) (x : Piece) : X Unit :=
  match x with
  | .bytes p bs => putBytes k c held p bs
  | .nibble p n v => do
    let pl ← heldPlace k c true held p 1
    let old ← readPlace p 1 pl
    putBytes k c held p [BitVec.ofNat 8 (withNibble (leNat old.1) n v)]

/-- Mark the granules of a destination lost (R336, R361). -/
def losePieces (k : Cmd) (c : CoreId) (held : List Hold) (xs : List (Nat × Nat)) : X Unit :=
  (xs.flatMap fun x => spans 64 x.1 x.2).forM fun q => do
    let pl ← heldPlace k c true held q.1 q.2
    match k.kind with
    | .mcst _ => do
      let s ← get
      onReplicas q.1 pl fun t _ pa =>
        writeThrough (leafC t.leaf) pa q.2 (losePhys (s.leafKeyRef t.leaf) (leafC t.leaf) q.1 pa)
    | .copy | .cred _ _ _ _ _ | .send _ _ _ _ | .recv _ _ _ _ => losePlace q.1 pl

/-- Write what a chunk moves, and count. -/
def applyMoved (k : Cmd) (c : CoreId) (held : List Hold) (m : Moved) : X Unit := do
  m.pieces.forM (putPiece k c held)
  losePieces k c held m.lose
  (if m.fills + m.errs = 0 then pure () else k.report c m.fills m.errs m.cause)
  modify fun s => s.onCmd c k.seq fun j =>
    { j with flags := j.flags ||| m.flags, nan := (match j.nan with
      | some w => some w
      | none => m.nan) }

/-! ### The course of a command (R328, R329, R337, R338) -/

/-- The stream of an LS copy leaves its slot (R387). -/
def releaseLs (k : Cmd) (c : CoreId) : X Unit :=
  modify fun s => if !k.ls then s else s.onLat k.lat k.islot fun l =>
    { l with stream := l.stream.bind fun t => if t.copy == some k.seq && t.core == c then none else some t }

/-- A command retires, or waits no more. -/
def endCmd (k : Cmd) (c : CoreId) (st : CmdState) : X Unit := do
  releaseLs k c
  setCmd c k.seq st

/-- Hold a command as faulted at a chunk where an access fails (R337). -/
def holding (k : Cmd) (c : CoreId) (chunk : Nat) (x : X Unit) : X Unit := do
  let r ← attempt x
  match r with
  | .ok _ => pure ()
  | .error t => endCmd k c (.faulted chunk t.code t.va.toNat)

/-- The state that the writes of a chunk of a compressing copy will leave, for the forms that they take; of another command, whose
blocks are stored uncompressed, the size codes are gone. -/
def State.afterWrites (s : State) (k : Cmd) (c : CoreId) (chunk : Nat) (held : List Hold) : State :=
  if !k.cmp then { s with sizeCode := [] }
  else
    match (do applyMoved k c held (← chunkMoved k c chunk held)) s with
    | .ok (_, t) => t
    | .error _ => s

/-- Ask for the writes of a chunk, behind the reads of the blocks that they merge with; its data moves when the last of them is
acknowledged (R336, R360, log 9). -/
def startWrites (k : Cmd) (c : CoreId) (chunk : Nat) (held : List Hold) : X Unit := do
  let s ← get
  let xs := k.dstAccesses chunk
  let reads := mergeReads held xs s
  let writes := atomsWritten held xs s (if (touchedBlocks held xs s).isEmpty then s else s.afterWrites k c chunk held)
  set ((s.request c k.seq false reads).request c k.seq true writes)
  setCmd c k.seq (.writing chunk (reads.length + writes.length) held)

/-- What happens when the source of a chunk is there: its writes go out, or a link command's contribution, which the chapter
Link states. -/
def landed (send : Cmd → CoreId → List Hold → X Unit) (k : Cmd) (c : CoreId) (chunk : Nat) (held : List Hold) : X Unit :=
  match k.kind with
  | .copy | .mcst _ => startWrites k c chunk held
  | .cred _ _ _ _ _ | .send _ _ _ _ | .recv _ _ _ _ => send k c held

/-- The stream of an LS copy, as it starts (R387). -/
def lsStream (k : Cmd) (c : CoreId) (row beats : Nat) : Stream :=
  { copy := some k.seq, kept := [], core := c, gslot := k.slot, order := k.order, ctx := k.ctx, state := .running, phase := 0
    row := row, rows := row, beats := beats, err := 0, total := 0, reads := 0, writes := 0, holds := 0, poisoned := 0, flags := 0
    nan := none, pc := k.pc, binds := [], outCount := [], issued := [], parts := [], landed := [], made := [], closing := false
    stopReq := false, parkReq := false, relReq := false, holdReq := false, rebindReq := false, taken := none
    wasStopped := false, boundary := false }

/-- Does the chunk of an LS copy still wait for a row? -/
def State.lsMissing (s : State) (k : Cmd) (chunk : Nat) : Nat :=
  let rs := k.rowsOf chunk
  ((List.range (rs.2 - rs.1)).filter fun i => (s.lsKept k).all fun r => r.row != rs.1 + i).length

/-- Let the stream of an LS copy run over the rows of a chunk: the source bound afresh to I0, its rows up to the last one of
the chunk (R338, R387). Rows that no later chunk takes go. -/
def lsRun (k : Cmd) (c : CoreId) (chunk : Nat) : X Unit := do
  let s ← get
  match (s.latSlot k.lat k.islot).image with
  | none => fault 0x01 0
  | some img =>
    let side := (s.bufOf k.ctx k.src.base).map fun b => (k.view.getD []).contains b.vbase
    let b ← bindCheck (k.who c) k.lat k.src.toBits false side
    let rs := k.rowsOf chunk
    modify fun s => s.onLat k.lat k.islot fun l =>
      let t := l.stream.getD (lsStream k c rs.1 (portBeats k.src (portRaw img 0)))
      { l with stream := some { t with binds := [(0, b)], rows := rs.2, kept := t.kept.filter fun r => decide (rs.1 ≤ r.row) } }

/-- Begin a chunk: translate what it touches, and request its source atoms; an LS copy's rows come through its Lattice (R328,
R338, R387). -/
def startChunk (send : Cmd → CoreId → List Hold → X Unit) (k0 : Cmd) (c : CoreId) (chunk : Nat) : X Unit := do
  let s0 ← get
  let view := k0.view.getD (((s0.ctx k0.ctx).bufs.filter Buf.visB).map Buf.vbase)
  let k : Cmd := { k0 with view := some view, down := [] }
  modify fun s => s.onCmd c k.seq fun j => { j with view := some view, down := [] }
  holding k c chunk (do
    let h1 ← holdAll k c false (k.srcAccesses chunk) []
    let held ← holdAll k c true (k.dstAccesses chunk) h1
    if k.ls then
      lsRun k c chunk
      let s ← get
      let n := s.lsMissing k chunk
      if n = 0 then landed send k c chunk held else setCmd c k.seq (.reading chunk n held)
    else
      let s ← get
      let atoms := atomsBehind held (k.srcAccesses chunk) s
      set (s.request c k.seq false atoms)
      if atoms.isEmpty then landed send k c chunk held else setCmd c k.seq (.reading chunk atoms.length held))

/-- A row of an LS copy has come through: with the last one of its chunk the writes go out (R387). -/
def lsArrived (c : CoreId) (seq : Nat) : X Unit := do
  let s ← get
  match s.cmd c seq with
  | none => pure ()
  | some k =>
    match k.st with
    | .reading chunk _ held =>
      let n := s.lsMissing k chunk
      if n = 0 then startWrites k c chunk held else setCmd c seq (.reading chunk n held)
    | .queued | .writing _ _ _ | .following | .faulted _ _ _ | .exchanging _ _ | .done => pure ()

/-! ### Squash (R283, R284, R338) -/

/-- Write a piece in part: bytes that an abandoned write could reach hold any mix of old and new content (log 13). -/
def mixPiece (k : Cmd) (c : CoreId) (held : List Hold) (x : Piece) : X Unit :=
  match x with
  | .bytes p bs => (pieces 65536 p bs).forM fun q => do
    let pl ← heldPlace k c true held q.1 q.2.length
    let old ← readPlace q.1 q.2.length pl
    let s ← get
    putBytes k c held q.1 ((old.1.zip q.2).zipIdx.map fun b => if Config.mixed (s.tick + q.1 + b.2) then b.1.2 else b.1.1)
  | .nibble p _ _ => do
    let s ← get
    if Config.mixed (s.tick + p) then putPiece k c held x else pure ()

/-- Write in part what an abandoned chunk moves. -/
def mixMoved (k : Cmd) (c : CoreId) (held : List Hold) (m : Moved) : X Unit := do
  m.pieces.forM fun x => do let _ ← attempt (mixPiece k c held x); pure ()
  let s ← get
  let _ ← attempt (losePieces k c held (m.lose.filter fun q => Config.mixed (s.tick + q.1)))
  pure ()

/-- The unretired chunk that a command is moving; of a link command 1 where its own data has gone out. -/
def Cmd.chunkNow (k : Cmd) : Nat :=
  match k.st with
  | .reading c _ _ | .faulted c _ _ => c
  | .writing c _ _ => (match k.kind with
    | .copy | .mcst _ => c
    | .cred _ _ _ _ _ | .send _ _ _ _ | .recv _ _ _ _ => 1)
  | .exchanging sent _ => if sent then 1 else 0
  | .following | .done => k.chunks
  | .queued => k.first

/-- Remove a command without retirement. -/
def State.dropCmd (s : State) (c : CoreId) (k : Cmd) : State :=
  let s1 := match releaseLs k c s with
    | .ok (_, t) => t
    | .error _ => s
  s1.onCore c fun x =>
    { x with cmds := x.cmds.filter fun y => y.seq != k.seq, board := x.board.filter fun b => b.cmd != k.seq
             array := x.array.filter fun e => (match e.copy with
               | none => true
               | some p => p.2 != k.seq) }

/-- Abandon what a command has under way: its requests go, the bytes of its chunk are mixed as `moved` says what it writes. -/
def State.abandon (moved : Cmd → CoreId → Nat → List Hold → X Moved) (s : State) (c : CoreId) (k : Cmd) : State :=
  let s1 := { s with reqs := s.reqs.filter fun r => !(r.core == c && r.cmd == k.seq)
                     inflight := s.inflight.filter fun r => !(r.core == c && r.cmd == k.seq) }
  let mix := fun (chunk : Nat) (held : List Hold) => do
    let r ← attempt (do mixMoved k c held (← moved k c chunk held))
    match r with
    | .ok _ => releaseLs k c
    | .error _ => releaseLs k c
  let body := match k.st with
    | .reading chunk _ held | .writing chunk _ held => mix chunk held
    | .queued | .following | .faulted _ _ _ | .exchanging _ _ | .done => pure ()
  match body s1 with
  | .ok (_, t) => t
  | .error _ => s1

/-! ### The follow-on subcommand (R334) -/

/-- Run without the scoreboard entries of a command: its follow-on reads what it has written. -/
def unboarded {α : Type} (c : CoreId) (seq : Nat) (x : X α) : X α := do
  let b := ((← get).core c).board
  modify fun s => s.onCore c fun k => { k with board := k.board.filter fun e => e.cmd != seq }
  let a ← x
  modify fun s => s.onCore c fun k => { k with board := b }
  pure a

/-- Issue the follow-on: BLD runs at once, MMA and MMAS enter the array. -/
def issueFollow (k : Cmd) (c : CoreId) (f : Follow) : X Unit := do
  let s ← get
  match s.group c k.slot with
  | none => setCmd c k.seq .done
  | some g =>
    let src : ArrSource := ⟨c, k.slot, k.ctx, g.rows, f.ga, f.gb⟩
    unboarded c k.seq (do
      if f.sub = 3 then
        let gb ← bldShape c f.ga f.op f.desc
        bldRun (k.who c) c f.op.slab.val gb.1 gb.2
        setCmd c k.seq .done
      else
        let sh ← mmaShape src f.op f.desc 128
        let outs ← mmaOuts src sh f.op 0 sh.m
        let e := arrEntry ⟨c, k.slot, .compute⟩ g k.pc f.op (f.sub == 1) sh sh.m outs
        arrayIssue c { e with copy := some (k.ch, k.seq) }
        setCmd c k.seq .following)

/-- After a command's last chunk: its follow-on, once the array has room. A poisoned granule ends the follow-on with nothing written (R334). -/
def finishCopy (k : Cmd) (c : CoreId) : X Unit := do
  match k.follow with
  | none => endCmd k c .done
  | some f =>
    releaseLs k c
    let s ← get
    if 4 ≤ (s.core c).array.length then setCmd c k.seq (.writing k.chunks 0 [])
    else
      let r ← attempt (issueFollow k c f)
      match r with
      | .ok _ => pure ()
      | .error t =>
        set s
        if t.code = 0x08 then
          k.report c 0 1 0x08
          setCmd c k.seq .done
        else setCmd c k.seq (.faulted k.chunks t.code t.va.toNat)

end Sys2Proof.Machine
end

