-- ==== Sys2Proof/Machine/Peer.lean ====
section
/-! DEFINITION. Messages between ranks (R411, R412, R415, R417, R418): what a
collective, a send and a receive do when their partners' messages are there. -/

namespace Sys2Proof.Machine

open Sys2Proof

/-! ### What goes out -/

/-- A message of a command to a rank. -/
def setMessage (s : State) (kind : MsgKind) (set : PeerSet) (r : Nat) (tag : BitVec 32) (num fmt : Nat)
    (data poisoned : List Nat) (group : Nat := 0) : Message :=
  { kind := kind, srcProc := Fin.ofNat 16 s.encProc.toNat, dstProc := Fin.ofNat 16 (set.procs.getD r 0)
    dstCtx := Fin.ofNat 16 (set.ctxs.getD r 0), setId := set.id, ranks := set.procs.length, procs := set.procs
    ctxs := set.ctxs, tag := tag, rank := set.mine, num := num, group := group, fmt := fmt, data := data, poisoned := poisoned }

/-- The elements of a command's source as a message carries them: encoding with the scale byte above it, and the places
of the lost ones. -/
def outgoing (k : Cmd) (c : CoreId) (held : List Hold) : X (List Nat × List Nat) := do
  let xs ← (List.range k.src.count).mapM (plainElem (softRead k c held) k.src)
  endRefusals held (k.srcAccesses 0)
  pure (xs.map fun x => x.raw + x.scale * 2 ^ 32,
    (xs.zipIdx.filter fun p => !p.1.bad.isEmpty).map Prod.snd)

/-- A message of a rank that matches a send or a receive (R418). -/
def State.findMessage (s : State) (x : CtxId) (set : PeerSet) (r : Nat) (tag : BitVec 32) (num : Nat)
    (kind : MsgKind) : Option Message :=
  s.rx.find? fun m => m.dstCtx == x && m.setId == set.id && m.tag == tag && m.num == num && m.rank == r && m.kind == kind

/-- Remove messages. -/
def State.dropMessages (s : State) (ms : List Message) : State := { s with rx := ms.foldl List.erase s.rx }

/-- A link command whose source has been read sends what it has, and waits for its partners (R417, R418). A receive whose
element count differs, as its readiness tells, gets no data. -/
def sendOut (k : Cmd) (c : CoreId) (held : List Hold) : X Unit := do
  match k.kind with
  | .cred op set tag num group =>
    let d ← outgoing k c held
    (List.range set.procs.length).forM fun r =>
      modify fun s => s.post (setMessage s (.contribution op) set r tag num k.src.code d.1 d.2 group)
  | .send set peer tag num =>
    let s ← get
    let same := (s.findMessage k.ctx set peer tag num .ready).elim false fun m => m.data == [k.src.count]
    let d ← if same then outgoing k c held else pure ([], [])
    modify fun s => s.post (setMessage s .send set peer tag num k.src.code d.1 d.2)
  | .recv _ _ _ _ => pure ()
  | .copy => pure ()
  | .mcst _ => pure ()
  setCmd c k.seq (.exchanging true held)

/-- A receive that has been enqueued tells its sender so, with its element count: no data moves before (R418, log 84). -/
def announce (k : Cmd) : X Unit :=
  match k.kind with
  | .recv set peer tag num => modify fun s => s.post (setMessage s .ready set peer tag num 0 [k.dst.count] [])
  | .copy => pure ()
  | .mcst _ => pure ()
  | .cred _ _ _ _ _ => pure ()
  | .send _ _ _ _ => pure ()

/-- Request the source of a link command (R328). -/
def readOwn (k : Cmd) (c : CoreId) (held : List Hold) : X Unit := do
  let s ← get
  let atoms := atomsBehind held (k.srcAccesses 0) s
  set (s.request c k.seq false atoms)
  if atoms.isEmpty then sendOut k c held else setCmd c k.seq (.reading 0 atoms.length held)

/-- Start a link command, or start it again: `sent` says that its own data has gone out. A send waits for its receive
(R418). -/
def startLink (k0 : Cmd) (c : CoreId) (sent : Bool) : X Unit := do
  let s0 ← get
  let view := k0.view.getD (((s0.ctx k0.ctx).bufs.filter Buf.visB).map Buf.vbase)
  let k : Cmd := { k0 with view := some view, down := [] }
  modify fun s => s.onCmd c k.seq fun j => { j with view := some view, down := [] }
  holding k c (if sent then 1 else 0) (do
    let h1 ← holdAll k c false (if sent then [] else k.srcAccesses 0) []
    let held ← holdAll k c true (k.dstAccesses 0) h1
    match k.kind with
    | .cred _ _ _ _ _ => if sent then setCmd c k.seq (.exchanging true held) else readOwn k c held
    | .send _ _ _ _ => setCmd c k.seq (.exchanging sent held)
    | .recv _ _ _ _ => setCmd c k.seq (.exchanging true held)
    | .copy => pure ()
    | .mcst _ => pure ())

/-- Start a command at a chunk, or start a held one again from where it stopped (R328, R337). -/
def startAt (k : Cmd) (c : CoreId) (chunk : Nat) : X Unit :=
  match k.kind with
  | .copy => if k.chunks ≤ chunk then finishCopy k c else startChunk sendOut k c chunk
  | .mcst _ => if k.chunks ≤ chunk then endCmd k c .done else startChunk sendOut k c chunk
  | .cred _ _ _ _ _ | .send _ _ _ _ | .recv _ _ _ _ => startLink k c (chunk != 0)

/-! ### What comes in -/

/-- The contributions to a collective that have arrived, of whatever set they speak (R417, log 84). -/
def State.contributions (s : State) (x : CtxId) (id : BitVec 16) (tag : BitVec 32) (num group : Nat) : List Message :=
  s.rx.filter fun m => m.dstCtx == x && m.setId == id && m.tag == tag && m.num == num && m.group == group && isContribution m.kind

/-- Does a contribution agree with a member's own on set, element count, format and operation (R417)? -/
def agrees (k : Cmd) (op : Fin 3) (set : PeerSet) (m : Message) : Bool :=
  m.procs == set.procs && m.ctxs == set.ctxs && m.ranks == set.procs.length && m.data.length == k.src.count
    && m.fmt == k.src.code && m.kind == .contribution op

/-- A member has found a mismatch: it tells its ranks and the senders that disagree, and ends (R417). -/
def refuse (k : Cmd) (c : CoreId) (op : Fin 3) (set : PeerSet) (tag : BitVec 32) (num group : Nat) (ms : List Message) : X Unit := do
  ((List.range set.procs.length).filter (· != set.mine)).forM fun r =>
    modify fun s => s.post (setMessage s (.contribution op) set r tag num mismatchFmt [] [] group)
  (ms.filter fun m => m.fmt != mismatchFmt && !agrees k op set m).forM fun m => modify fun s => s.post (s.refusalOf m)
  let owed := (List.range set.procs.length).filterMap fun r =>
    let o : Owed := ⟨k.ctx, set.id, tag, num, group, set.procs.getD r 16, set.ctxs.getD r 16⟩
    if r == set.mine || ms.any o.by_ then none else some o
  modify fun s => { s.dropMessages ms with collOwed := s.collOwed ++ owed }
  k.report c 0 1 0x13
  setCmd c k.seq .done

/-- The combination of one element over the ranks (R417, R38, R39). -/
def combine (t : ElemTy) (op : Fin 3) (xs : List Nat) : Nat × Flags :=
  match op with
  | 0 => if t.isInt then sumOf t .rne xs else writtenSum t (nodeSum t .rne 4 xs)
  | 1 => extremeOf .max t xs
  | 2 => extremeOf .min t xs

/-- The result of a collective with every contribution there (R417). -/
def combined (k : Cmd) (op : Fin 3) (ms : List Message) : List DstElem :=
  match k.dst.fmt with
  | .elem t => (List.range k.dst.count).map fun i =>
      let r := combine t op (ms.map fun m => m.data.getD i 0)
      ⟨i, r.1, 0, r.2, r.2.hasNv, if ms.any fun m => m.poisoned.contains i then [(i, 0x13)] else []⟩
  | .i4 | .e2m1x2 | .i4s | .i8s | .e2m1s | .e4m3s | .bmv _ => []

/-- An element that a receive has got; a lost one counts as an error of the link (R416, log 84). -/
def gotElem (m : Message) (e : Nat) : X SrcElem := do
  let f := (MemFmt.ofCode m.fmt).getD (.elem .f32)
  let v := m.data.getD e 0
  let x := f.decode (v % 2 ^ 32)
  pure { raw := v % 2 ^ 32, scale := v / 2 ^ 32, num := if f.scaled then applyScale x (v / 2 ^ 32) else x
         bad := if m.poisoned.contains e then [(e, 0x13)] else [] }

/-- What a link command's partners have for it: the messages, once they are all there. -/
def State.partnersOf (s : State) (k : Cmd) : List Message :=
  match k.kind with
  | .cred _ set tag num group =>
    let all := s.contributions k.ctx set.id tag num group
    (List.range set.procs.length).filterMap fun r => all.find? fun m => m.rank == r
  | .recv set peer tag num => (s.findMessage k.ctx set peer tag num .send).toList
  | .send set peer tag num => (s.findMessage k.ctx set peer tag num .ack).toList
  | .copy => []
  | .mcst _ => []

/-- Is there at its partners what a link command in exchange waits for, or a mismatch (R417, R418)? `sent` tells that its own
data has gone out. -/
def State.partnersCame (s : State) (k : Cmd) (sent : Bool) : Bool :=
  match k.kind with
  | .cred op set tag num group =>
    (s.contributions k.ctx set.id tag num group).any (fun m => !agrees k op set m) || (s.partnersOf k).length == set.procs.length
  | .send set peer tag num =>
    if sent then !(s.partnersOf k).isEmpty else (s.findMessage k.ctx set peer tag num .ready).isSome
  | .recv _ _ _ _ => !(s.partnersOf k).isEmpty
  | .copy | .mcst _ => true

/-- What a link command writes (R417, R418). -/
def linkMoved (k : Cmd) (c : CoreId) : X Moved := do
  let s ← get
  let ms := s.partnersOf k
  match k.kind, ms with
  | .cred op _ _ _ _, _ => pure (movedElems { k with ef := false } c s.tick (combined k op ms))
  | .recv _ _ _ _, m :: _ => do
    let xs ← (List.range k.dst.count).mapM (convertWith k (gotElem m) (m.fmt == k.dst.code))
    pure (movedElems k c s.tick xs)
  | _, _ => pure ⟨[], [], 0, 0, 0, 0, none⟩

/-- What a chunk of a command writes. -/
def movedOf (k : Cmd) (c : CoreId) (chunk : Nat) (held : List Hold) : X Moved :=
  match k.kind with
  | .copy | .mcst _ => chunkMoved k c chunk held
  | .cred _ _ _ _ _ | .send _ _ _ _ | .recv _ _ _ _ => linkMoved k c

/-- What the chunk that a command has under way could write: of a link command nothing before its partners' data is there. -/
def reachOf (k : Cmd) (c : CoreId) (chunk : Nat) (held : List Hold) : X Moved :=
  match k.kind, k.st with
  | .copy, _ => chunkMoved k c chunk held
  | .mcst _, _ => chunkMoved k c chunk held
  | _, .writing _ _ _ => linkMoved k c
  | _, _ => pure ⟨[], [], 0, 0, 0, 0, none⟩

/-- Abandon what a command has under way (R338). -/
def State.abandonCmd (s : State) (c : CoreId) (k : Cmd) : State := s.abandon reachOf c k

/-- The acknowledgement of a receive; its one element is 1 where the element counts differ (R418). -/
def acknowledge (k : Cmd) (wrong : Bool) : X Unit :=
  match k.kind with
  | .recv set peer tag num =>
    modify fun s => s.post (setMessage s .ack set peer tag num 0 [if wrong then 1 else 0] [])
  | .copy => pure ()
  | .mcst _ => pure ()
  | .cred _ _ _ _ _ => pure ()
  | .send _ _ _ _ => pure ()

/-- A link command that waits for its partners: it goes on once their messages are there. -/
def exchange (k : Cmd) (c : CoreId) (sent : Bool) (held : List Hold) : X Unit := do
  let s ← get
  match k.kind with
  | .cred op set tag num group =>
    let all := s.contributions k.ctx set.id tag num group
    if all.any fun m => !agrees k op set m then refuse k c op set tag num group all
    else if (s.partnersOf k).length = set.procs.length then startWrites k c 0 held
    else pure ()
  | .recv _ _ _ _ =>
    match s.partnersOf k with
    | [] => pure ()
    | m :: _ =>
      if m.data.length = k.dst.count then startWrites k c 0 held
      else
        modify fun s => s.dropMessages [m]
        k.report c 0 1 0x13
        acknowledge k true
        setCmd c k.seq .done
  | .send set peer tag num =>
    if !sent then
      (if (s.findMessage k.ctx set peer tag num .ready).isSome then readOwn k c held else pure ())
    else
      match s.partnersOf k with
      | [] => pure ()
      | m :: _ =>
        modify fun s => s.dropMessages (m :: (s.findMessage k.ctx set peer tag num .ready).toList)
        (if m.data.getD 0 0 = 1 then k.report c 0 1 0x13 else pure ())
        setCmd c k.seq .done
  | .copy => pure ()
  | .mcst _ => pure ()

end Sys2Proof.Machine
end

