-- ==== Sys2Proof/Machine/Tile.lean ====
section
/-! DEFINITION. The tile instructions, major 0x3B (R199 to R205), and a full table (R190). -/

namespace Sys2Proof.Machine

open Sys2Proof

/-- The group of the role whose turn it is, as the home of a demand. -/
def myHome : X Home := do
  let m ← me
  pure { core := m.1.core, slot := m.1.slot }

/-! ### Sources and specs -/

/-- A source operand as a source of a node: a handle must be valid (R199). -/
def tileSrc (x : TSrc) : X NodeSrc := do
  let m ← me
  match x with
  | .gen g => pure (.gen (vget m.2.1.gens g))
  | .handle h =>
    match vget m.2.1.tile.handles h with
    | none => fault 0x01 0
    | some n => pure (.node n)

/-- A generator source's format code is one that a copy node decodes (R183). -/
def copyFmt (n : Nat) : Bool := n ≤ 14 || (16 ≤ n && n ≤ 19)

/-- The generator checks of R200 step 3: validity, and no overlap with the arena. -/
def genSource (x : NodeSrc) : X Unit := do
  match x with
  | .none => pure ()
  | .node _ => pure ()
  | .gen b =>
    let g := Walk4.ofBits b
    faultIf (!g.valid) 0x01 0
    let h ← myHome
    let gr ← homeGroup h
    faultIf (gr.units != 0 && meets g.range (bytesAt (arenaPtr h gr) gr.arenaSize)) 0x05 g.base

/-- A map with the given source coordinate for each axis: the iteration axis it takes, or none for 0 (R181). -/
def simpleMap (rows : List (Option Nat)) : BitVec 512 :=
  BitVec.ofNat 512 (rows.zipIdx.foldl (fun a p =>
    match p.1 with
    | none => a
    | some c => a + 2 ^ (16 * (4 * p.2 + c))) 0)

/-- The identity map. -/
def idMap : BitVec 512 := simpleMap [some 0, some 1, some 2, some 3]

/-- The map of an A operand, and of a reduction (R181). -/
def aMap : BitVec 512 := simpleMap [some 2, some 1, none, some 3]

/-- The map of a B operand (R181). -/
def bMap : BitVec 512 := simpleMap [some 2, some 0, none, some 3]

/-- Extents and maps of a node to be appended, and the address that a failing structure has. -/
structure Spec where
  ext : List Nat
  maps : List (BitVec 512)
  at_ : Nat
  deriving DecidableEq, Repr

/-- The spec at a pointer (R180, R200 step 4). -/
def readSpec (p : Nat) : X Spec := do
  lowSpace p
  faultIf (p % 64 != 0) 0x04 p
  let w ← whoami
  let bs := (← (spans 65536 p 256).mapM fun q => memReadBytes w q.1 q.2).flatten
  let part := fun (o n : Nat) => (bs.drop o).take n
  faultIf (!allZero (part 16 16) || !allZero (part 224 32)) 0x01 p
  pure ⟨(List.range 4).map fun i => leNat (part (4 * i) 4),
    (List.range 3).map fun i => BitVec.ofNat 512 (leNat (part (32 + 64 * i) 64)), p⟩

/-- The spec operand: the default for s0 (R181). -/
def specOf (s : SReg) (vs : List Word) (dflt : X Spec) : X Spec :=
  if s = 0 then dflt else readSpec (arg vs 0).toNat

/-- The rules of a map (R180): reserved bits, and GATH only where it is allowed. -/
def mapOk (m : BitVec 512) (gather : Bool) : Bool :=
  gbits m 456 56 == 0 && gbits m 451 5 == 0 && (gather || gbits m 448 8 == 0)

/-- Extents and maps (R179, R180): a node of the given operation. `gather` says that x's map must gather. -/
def specChecks (sp : Spec) (op : Nat) (srcs : List NodeSrc) (gather : Bool) : X Unit := do
  let bad := sp.ext.any (fun e => e == 0 || decide (2 ^ 24 < e))
  faultIf bad 0x01 sp.at_
  let out := (if op = 1 ∨ op = 3 then [co sp.ext 0, co sp.ext 1, 1, co sp.ext 3] else sp.ext)
  faultIf (2 ^ 28 < volume out) 0x01 sp.at_
  (sp.maps.zip srcs).zipIdx.forM fun p => do
    let g := gather && p.2 == 0
    faultIf (!mapOk p.1.1 g || (p.1.2 == .none && p.1.1 != 0)) 0x01 sp.at_
  faultIf (gather && !mapGathers (sp.maps.getD 0 0)) 0x01 sp.at_

/-- The bounds of R182: every source coordinate over the iteration space lies in the source. -/
def boundsOk (h : Home) (sp : Spec) (srcs : List NodeSrc) : X Unit :=
  (sp.maps.zip srcs).forM fun p => do
    let ext ← srcExtents h p.2
    let r := mapRange p.1 ⟨[0, 0, 0, 0], sp.ext⟩
    let inside := (List.range 4).all fun i =>
      (mapGathers p.1 && mapGaxis p.1 == i) ||
        (decide (0 ≤ (r.getD i (0, 0)).1) && decide ((r.getD i (0, 0)).2 < (co ext i : Int)))
    faultIf (p.2 != .none && !inside) 0x05 (match p.2 with
      | .gen g => (Walk4.ofBits g).base
      | .node _ => 0
      | .none => 0)

/-! ### Appending -/

/-- The lowest free node number (R174). -/
def Group.freeNode (g : Group) : Option Nat :=
  (List.range g.nodeLimit).find? fun n => (SMap.get g.tile.nodes n).isNone

/-- The roots that are not Full, oldest first (R190). -/
def Tile.roots (t : Tile) : List Nat :=
  byAge t ((t.nodes.filter fun p => p.2.state != .full && !t.nodes.any fun q => q.2.srcs.contains (.node p.1)).map Prod.fst)

/-- A fault that keeps nothing by itself keeps the state that the body began in: roots already made Full stay so (R190). -/
def keepHere {α : Type} (x : X α) : X α := fun s =>
  match x s with
  | .error (.trap t none) => .error (.trap t (some s))
  | r => r

/-- A free node, forcing roots where the policy says so (R190). -/
def freeNode (h : Home) : Nat → X Nat
  | 0 => fault 0x0B 0
  | f + 1 => do
    let g ← homeGroup h
    match g.freeNode with
    | some n => pure n
    | none =>
      if g.tile.policy.getLsbD 0 then fault 0x0B 0
      else
        match g.tile.roots with
        | [] => keepHere (fault 0x0B 0)
        | r :: _ =>
          keepHere (forceFull h r)
          onTile h fun t => { t with tableForces := t.tableForces + 1 }
          freeNode h f

/-- Renumber the ages before the counter would wrap (R174). -/
def Tile.renumber (t : Tile) : Tile :=
  if t.appends < 2 ^ 32 - 1 then t
  else
    let order := byAge t (t.nodes.map Prod.fst)
    { t with appends := t.nodes.length,
             nodes := t.nodes.map fun p => (p.1, { p.2 with age := order.findIdx (· == p.1) }) }

/-- Enter a node and set its handle (R200). -/
def enterNode (h : Home) (n : Nat) (hd : HReg) (d : Node) : X Unit :=
  onTile h fun t =>
    let u := t.renumber
    let v := { u with nodes := SMap.set u.nodes n { d with age := u.appends }, appends := u.appends + 1 }
    v.setHandle hd (some n)

/-- Append a node: steps 3 to 6 of R200. A fault met while forcing is late attributed to this instruction and keeps the
roots made Full (R190). -/
def appendNode (o : TOp) (op fn : Nat) (ty : ElemTy) (rm : RM) (srcs : List NodeSrc) (gather : Bool) (vs : List Word)
    (dflt : X Spec) (more : Spec → X Unit) : X Unit := do
  srcs.forM genSource
  let sp ← specOf o.s vs dflt
  specChecks sp op srcs gather
  more sp
  let h ← myHome
  boundsOk h sp srcs
  let m ← me
  let n ← freeNode h 513
  enterNode h n o.h
    { op := op, fn := fn, ty := ty, rm := rm, state := .pending, age := 0, apc := m.2.2.pc, ext := sp.ext,
      srcs := srcs, maps := sp.maps, boxes := [], hoff := 2 ^ 32 - 1 }

/-- The frame of an appending instruction: the spec pointer is its one scalar operand. -/
def appending (o : TOp) (body : List Word → X Unit) : State → Host.Outcome State Fault Refusal :=
  instr 2 (if o.s = 0 then [] else [o.s]) [] noPre (seqBody body)

/-- rm is used with floating types and e8m0 only (R199). -/
def rmOk (t : ElemTy) (rm : RM) : Bool := !t.isInt || rm == .rne

/-- Type of a node. -/
def nodeTy (n : NodeSrc) : X ElemTy := do
  match n with
  | .node k => pure (← liveNode (← myHome) k).ty
  | .gen _ => fault 0x01 0
  | .none => fault 0x01 0

/-- The default spec of a node that keeps x's extents (R181). -/
def sameSpec (x : NodeSrc) (maps : List (BitVec 512)) : X Spec := do
  let ext ← srcExtents (← myHome) x
  pure ⟨ext, maps, 0⟩

/-- TLOAD (R200): a copy node over a generator. -/
def execTload (o : TOp) (s : State) : Host.Outcome State Fault Refusal :=
  appending o (fun vs => do
    let x ← tileSrc o.x
    faultIf (!rmOk o.ty o.rm) 0x01 0
    (match x with
    | .gen b => faultIf (!copyFmt (Walk4.ofBits b).code) 0x01 0
    | .node _ => fault 0x01 0
    | .none => fault 0x01 0)
    appendNode o 0 0 o.ty o.rm [x, .none, .none] false vs (sameSpec x [idMap, 0, 0]) fun _ => pure ()) s

/-- Formats that a node of a type or a generator offers to the array (R184). -/
def matSource (x : NodeSrc) : X Bool := do
  match x with
  | .node n =>
    let t := (← liveNode (← myHome) n).ty
    pure (matrixFmt t.code)
  | .gen b => pure (matrixFmt (Walk4.ofBits b).code)
  | .none => pure false

/-- The rules of R184 and R188 on a source of a matmul. Slabs in place that name another core raise space, as such a pointer does
elsewhere (R209, R210; DEDUCED, log 87). -/
def matRules (sp : Spec) (x : NodeSrc) (i : Nat) : X Unit := do
  let m := sp.maps.getD i 0
  faultIf ((List.range 4).any fun r => decide (1 < mapDiv m r)) 0x01 sp.at_
  match x with
  | .none => pure ()
  | .node _ => pure ()
  | .gen b =>
    let g := Walk4.ofBits b
    let dflt := if i = 0 then aMap else bMap
    faultIf (i == 0 && ptrSpace g.base != 1) 0x01 0
    faultIf (g.scaled && (m != dflt || g.baxis != 0)) 0x01 0
    if ptrSpace g.base = 3 then
      let c ← me
      let off := ptrOff g.base
      let op := inPlaceOperand g
      let pol := c.2.1.tile.policy.toNat
      let lo := pol / 2 ^ 4 % 16
      let slab := off / 2048
      faultIf (ptrCore g.base != c.1.core) 0x05 g.base
      faultIf (off % 2048 != 0 || decide (16 ≤ slab) || decide (192 < g.size 1) || m != dflt
        || decide (16 < slab + op.slabs) || (decide (slab < lo + pol / 2 ^ 8 % 32) && decide (lo < slab + op.slabs))) 0x01 0
    else pure ()

/-- TMUL (R184, R200). -/
def execTmul (o : TOp) (s : State) : Host.Outcome State Fault Refusal :=
  appending o (fun vs => do
    let x ← tileSrc o.x
    let y ← tileSrc o.y
    let h ← myHome
    let okx ← matSource x
    let oky ← matSource y
    let fx ← srcFmt h x
    let fy ← srcFmt h y
    let tyOk := o.ty == .f32 || o.ty == .bf16 || o.ty == .f16 || (o.ty == .i32 && intInput fx && intInput fy)
    faultIf (!okx || !oky || !tyOk || !rmOk o.ty o.rm) 0x01 0
    appendNode o 1 0 o.ty o.rm [x, y, .none] false vs
      (do
        let sx ← srcExtents h x
        let sy ← srcExtents h y
        pure ⟨[co sy 1, co sx 1, co sx 0, co sx 3], [aMap, bMap, 0], 0⟩)
      (fun sp => do matRules sp x 0; matRules sp y 1)) s

/-- Types of an elementwise operation (R132, R183). -/
def tewTyOk (fn : Nat) (t : ElemTy) : Bool :=
  if fn = 9 then t.isF else if 0x18 ≤ fn && fn ≤ 0x1E then t.isF && t != .e2m1 else t.isFIU

/-- TEW (R183, R200). -/
def execTew (o : TOp) (s : State) : Host.Outcome State Fault Refusal :=
  appending o (fun vs => do
    let fn := o.fn.toNat
    let x ← tileSrc o.x
    let y ← (if tewBinary fn then tileSrc o.y else pure .none)
    let z ← (if tewTernary fn then tileSrc o.z else pure .none)
    let tx ← nodeTy x
    faultIf (tx != o.ty || !tewTyOk fn o.ty || !rmOk o.ty o.rm) 0x01 0
    (if tewBinary fn then do
      let t ← nodeTy y
      faultIf (if fn = 9 then !t.isI else t != o.ty) 0x01 0
    else pure ())
    (if tewTernary fn then do
      let t ← nodeTy z
      faultIf (t != o.ty) 0x01 0
    else pure ())
    let ym := if tewBinary fn then idMap else 0
    let zm := if tewTernary fn then idMap else 0
    appendNode o 2 fn o.ty o.rm [x, y, z] false vs (sameSpec x [idMap, ym, zm]) fun _ => pure ()) s

/-- TRED (R183, R200). -/
def execTred (o : TOp) (s : State) : Host.Outcome State Fault Refusal :=
  appending o (fun vs => do
    let fn := o.fn.toNat
    let x ← tileSrc o.x
    let tx ← nodeTy x
    faultIf (tx != o.ty || !o.ty.isFIU || (o.rm != .rne && !(fn == 0x1F && o.ty.isF))) 0x01 0
    appendNode o 3 fn o.ty o.rm [x, .none, .none] false vs
      (do
        let sx ← srcExtents (← myHome) x
        pure ⟨[1, co sx 1, co sx 0, co sx 3], [aMap, 0, 0], 0⟩)
      fun _ => pure ()) s

/-- TCVT (R183, R200). -/
def execTcvt (o : TOp) (s : State) : Host.Outcome State Fault Refusal :=
  appending o (fun vs => do
    let x ← tileSrc o.x
    faultIf (!rmOk o.ty o.rm) 0x01 0
    appendNode o 4 0 o.ty o.rm [x, .none, .none] false vs (sameSpec x [idMap, 0, 0]) fun _ => pure ()) s

/-- TVIEW (R183, R200): a copy node of x's own type. -/
def execTview (o : TOp) (s : State) : Host.Outcome State Fault Refusal :=
  appending o (fun vs => do
    let x ← tileSrc o.x
    let tx ← nodeTy x
    appendNode o 0 0 tx .rne [x, .none, .none] false vs (sameSpec x [idMap, 0, 0]) fun _ => pure ()) s

/-- Types of the index values of a gather (R200). -/
def indexSource (x : NodeSrc) : X Bool := do
  match x with
  | .node n =>
    let t := (← liveNode (← myHome) n).ty
    pure t.isInt
  | .gen b =>
    let c := (Walk4.ofBits b).code
    pure (6 ≤ c && decide (c ≤ 11))
  | .none => pure false

/-- TGATH (R182, R200). -/
def execTgath (o : TOp) (s : State) : Host.Outcome State Fault Refusal :=
  appending o (fun vs => do
    let x ← tileSrc o.x
    let y ← tileSrc o.y
    let oky ← indexSource y
    let okx ← (match x with
      | .node _ => do
        let t ← nodeTy x
        pure (t == o.ty)
      | .gen b => pure (copyFmt (Walk4.ofBits b).code)
      | .none => pure false)
    faultIf (!okx || !oky || !rmOk o.ty o.rm) 0x01 0
    appendNode o 0 0 o.ty o.rm [x, y, .none] true vs (fault 0x01 0) fun _ => pure ()) s

/-- TSEL (R183, R200): the condition comes from z. -/
def execTsel (o : TOp) (s : State) : Host.Outcome State Fault Refusal :=
  appending o (fun vs => do
    let x ← tileSrc o.x
    let y ← tileSrc o.y
    let z ← tileSrc o.z
    let tx ← nodeTy x
    let ty ← nodeTy y
    faultIf (tx != o.ty || ty != o.ty) 0x01 0
    appendNode o 5 0 o.ty .rne [x, y, z] false vs (sameSpec x [idMap, idMap, idMap]) fun _ => pure ()) s

/-! ### Demands -/

/-- The node that a handle operand names (R201). -/
def handleNode (h : HReg) : X Nat := do
  let m ← me
  match vget m.2.1.tile.handles h with
  | none => fault 0x01 0
  | some n => pure n

/-- The box of a FORCE or TST (R201). -/
def boxOperand (o : TOp) (vs : List Word) (d : Node) : X Span4 := do
  if o.s = 0 then pure d.full
  else
    let p := (arg vs 0).toNat
    lowSpace p
    faultIf (p % 32 != 0) 0x04 p
    let bs ← memReadBytes (← whoami) p 32
    let f := fun (i : Nat) => leNat ((bs.drop (4 * i)).take 4)
    let b : Span4 := ⟨[f 0, f 1, f 2, f 3], [f 4, f 5, f 6, f 7]⟩
    faultIf ((List.range 4).any fun i => co b.ext i == 0 || decide (co d.out i < co b.org i + co b.ext i)) 0x05 p
    pure b

/-- Pin a box of a node for a handle register (R187, R201). -/
def Tile.pin (t : Tile) (h : HReg) (n : Nat) (seq : Nat) : Tile :=
  let u := t.movePin h (some (n, seq))
  { u with nodes := u.nodes.map fun p =>
      if p.1 = n then
        (p.1, { p.2 with
          hoff := match p.2.boxes.find? fun b => b.seq == seq with
            | some b => b.off
            | none => p.2.hoff })
      else p }

/-- FORCE (R201). -/
def execForce (o : TOp) (s : State) : Host.Outcome State Fault Refusal :=
  instr 2 (if o.s = 0 then [] else [o.s]) [o.t] noPre (seqBody fun vs => do
    let n ← handleNode o.h
    let h ← myHome
    let d ← liveNode h n
    let b ← boxOperand o vs d
    let x ← (match d.boxes.find? fun x => x.held && x.span == b with
      | some x => pure x
      | none => demand h n b)
    onTile h fun t => t.pin o.h n x.seq
    (if b = d.full && d.state != .full then onTile h fun t => t.makeFull n else pure ())
    let g ← homeGroup h
    writeDst o.t (BitVec.ofNat 64 (arenaPtr h g + x.off))) s

/-- The results of a conversion into a generator's format, with flags, in element order (R202, R326). -/
def convertFlags (g : Gen) (rm : RM) (xs : List (Nat × Num)) : List (Nat × Flags) :=
  if g.scaled then
    let items := xs.map fun p => (p.1, p.1, p.2)
    let rs := (byBlock g items).flatMap fun b =>
      let r := encodeBlock g.fmt (b.map fun e => e.2.2)
      (b.zip r.2.1).zipIdx.map fun p => (p.1.1.1, if p.2 = 0 then p.1.2.2 ||| r.2.2 else p.1.2.2)
    sortByKey Prod.fst rs
  else xs.map fun p => (p.1, (g.fmt.round rm p.2).2)

/-- Write elements one after the other; a fault keeps the writes before it (R202). -/
def writesInOrder : List (X Unit) → X Unit
  | [] => pure ()
  | x :: xs => fun s =>
    match x s with
    | .ok (_, t) => writesInOrder xs t
    | .error (.trap t _) => .error (.trap t (some s))
    | .error e => .error e

/-- The writes of a TST one by one. -/
def tstSteps (w : Who) (g : Gen) (ty : ElemTy) (rm : RM) (xs : List Nat) : List (X Unit) :=
  if g.scaled then
    let items := xs.zipIdx.map fun p => (p.2, p.2, ty.decode p.1)
    (byBlock g items).flatMap fun b =>
      let r := encodeBlock g.fmt (b.map fun e => e.2.2)
      ((b.zip r.2.1).map fun p => g.put w p.1.1 p.2.1 false) ++
        (match b with
        | [] => []
        | e :: _ => [destRun w (g.scaleAddr e.1) [BitVec.ofNat 8 r.1] false])
  else xs.zipIdx.map fun p =>
    g.put w p.2 (if g.code = ty.code then ty.pattern p.1 else (g.fmt.round rm (ty.decode p.1)).1) false

/-- TST (R202). -/
def execTst (o : TOp) (s : State) : Host.Outcome State Fault Refusal :=
  instr 2 (if o.s = 0 then [] else [o.s]) [] noPre (seqBody fun vs => do
    let n ← handleNode o.h
    let h ← myHome
    let d ← liveNode h n
    let b ← boxOperand o vs d
    let m ← me
    match o.x with
    | .handle _ => fault 0x01 0
    | .gen gr =>
      let g := Walk4.ofBits (vget m.2.1.gens gr)
      faultIf (!g.valid || !copyFmt g.code || g.count != volume b.ext) 0x01 0
      let x ← demand h n b
      let dn ← liveNode h n
      let xs ← (List.range (volume b.ext)).mapM fun i => boxRead h dn x (plus b.org (unflat b.ext i))
      let w ← whoami
      walkerTurn h
      aliasCheck h [g.range]
      waitIf ((← get).boardHits w g.range.1 (g.range.2 + 1 - g.range.1))
      writesInOrder (tstSteps w g d.ty o.rm xs)
      takeIds h
      (if g.code = d.ty.code then pure ()
      else
        let fs := convertFlags g o.rm (xs.zipIdx.map fun p => (p.2, d.ty.decode p.1))
        modify fun s => s.onGroup m.1.core m.1.slot fun gp =>
          let g1 := gp.raise (fs.foldl (fun a r => a ||| r.2) 0)
          match fs.find? fun r => r.2.hasNan with
          | none => g1
          | some r => g1.noteNan m.1.core m.2.2.pc r.2 ⟨2, r.1, 0, d.ty.code, d.ty.code, g.code, false⟩)) s

/-! ### TDROP, TSTAT, TPOL -/

/-- TDROP (R203). -/
def execTdrop (o : TOp) (s : State) : Host.Outcome State Fault Refusal :=
  instr 2 [] [] noPre (seqBody fun _ => do
    let h ← myHome
    onTile h fun t => t.setHandle o.h none) s

/-- TSTAT with f = 0 (R204). -/
def nodeWord (t : Tile) (h : HReg) : Nat :=
  match vget t.handles h with
  | none => 0
  | some n =>
    match SMap.get t.nodes n with
    | none => 0
    | some d =>
      (match d.state with | .pending => 1 | .partly => 2 | .full => 3) + n * 2 ^ 2 + d.boxes.length * 2 ^ 11
        + (if d.boxes.any fun b => !b.pins.isEmpty then 2 ^ 14 else 0) + (if d.boxes.any Box.held then 2 ^ 15 else 0)
        + d.age * 2 ^ 16

/-- Free granules of the arena, as bytes (R204). -/
def freeArena (g : Group) : Nat := g.arenaSize - 64 * (g.tile.placed.foldl (fun a p => a + p.2) 0)

/-- TSTAT (R204). -/
def execTstat (o : TOp) (s : State) : Host.Outcome State Fault Refusal :=
  instr 2 [] [o.t] noPre (seqBody fun _ => do
    let m ← me
    let t := m.2.1.tile
    let v : Word := match o.fn.toNat with
      | 0 => BitVec.ofNat 64 (nodeWord t o.h)
      | 1 => BitVec.ofNat 64 (m.2.1.nodeLimit - t.nodes.length)
      | 2 => BitVec.ofNat 64 (freeArena m.2.1)
      | 3 => t.tableForces
      | 4 => t.aliasForces
      | 5 => t.evictions
      | _ => t.policy
    writeDst o.t v) s

/-- The slabs of a policy word, in every column, as ranges (R191). -/
def policySlabs (c : CoreId) (p : Nat) : List (Nat × Nat) :=
  let n := p / 2 ^ 8 % 32
  if n = 0 then []
  else (List.range 192).map fun j => bytesAt (columnPtr c (p / 2 ^ 4 % 16) j) (2048 * n)

/-- TPOL (R205): the old word to t, the new one installed. -/
def execTpol (o : TOp) (s : State) : Host.Outcome State Fault Refusal :=
  instr 2 [o.s] [o.t] noPre (seqBody fun vs => do
    let m ← me
    let p := (arg vs 0).toNat
    let n := p / 2 ^ 8 % 32
    faultIf (p / 2 ^ 27 != 0 || p / 2 ^ 3 % 2 == 1 || decide (16 < p / 2 ^ 4 % 16 + n)) 0x01 0
    let wb := p / 2 ^ 13 % 2 ^ 11
    let wn := 64 * (p / 2 ^ 24 % 8 + 1)
    faultIf (m.2.1.rows < wb + wn) 0x16 (max wb m.2.1.rows)
    let h ← myHome
    aliasCheck h (policySlabs m.1.core p)
    onTile h fun t => { t with policy := arg vs 0 }
    writeDst o.t m.2.1.tile.policy) s

end Sys2Proof.Machine
end

