-- ==== Sys2Proof/Machine/Transfer.lean ====
section
/-! DEFINITION. The transfer instructions (R332 to R341) and the steps of the copy engines (R321, R322, R328, R329,
R333, R338). -/

namespace Sys2Proof.Machine

open Sys2Proof

/-! ### LS copies (R387) -/

/-- Is an image one that an LS copy may use (R387)? -/
def lsImageOk (img : List Byte) : Bool :=
  ((List.range 8).all fun p => portOn img p == (p == 0 || p == 4))
    && (List.range 64).all fun i =>
      let w := peWord img i
      nbits w 0 4 != 8 && nbits w 8 4 != 7 && nbits w 12 4 != 7 && nbits w 16 4 != 7

/-- Does an LS copy use an image slot (R387, R390)? -/
def State.lsBusy (s : State) (lat slot : Nat) : Bool :=
  s.cores.toList.any fun k => k.cmds.any fun c => c.ls && c.active && c.lat == lat && c.islot == slot

/-- The checks of R387 at enqueue. -/
def lsChecks (w : Who) (lat slot : Nat) (src : Gen) : X Unit := do
  let s ← get
  let l := s.latSlot lat slot
  faultIf (!l.valid || l.owner != w.ctx) 0x07 0
  match l.image with
  | none => fault 0x01 0
  | some img =>
    faultIf (!lsImageOk img) 0x01 0
    let _ ← bindCheck w lat src.toBits false

/-! ### Enqueue (R327, R333, R334) -/

/-- A command as an instruction gives it; `at_` is the address of the 128-byte form, or 0. -/
structure CopyReq where
  kind : Nat
  ch : ChId
  time : Nat
  src : Gen
  dst : Gen
  ef : Bool
  cmp : Bool
  ls : Bool
  lat : Nat
  islot : Nat
  w14 : Nat
  w15 : Nat
  first : Nat
  at_ : Nat
  deriving DecidableEq, Repr

/-- The space and allocation checks of one end of a walk (R327, checks 2 and 3). -/
def sideSpace (c : CoreId) (maxSpace : Nat) (g : Gen) : X Unit := do
  let r := g.range
  let sp := ptrSpace g.base
  faultIf (maxSpace < sp) 0x05 g.base
  faultIf (ptrSpace r.1 != sp || ptrSpace r.2 != sp) 0x05 g.base
  if sp = 0 then faultIf (r.1 / 2 ^ 55 != 0 || r.2 / 2 ^ 55 != 0) 0x05 g.base
  else
    faultIf (!onChipOk r.1 || !onChipOk r.2) 0x05 g.base
    faultIf (2 ≤ sp && (ptrCore r.1 != c || ptrCore r.2 != c)) 0x05 g.base

/-- Check 3 of R327: the lowest register of the walk at or beyond the allocation (R425). -/
def sideRows (rows : Nat) (g : Gen) : X Unit :=
  if ptrSpace g.base == 2 && decide (rows * 256 ≤ ptrOff g.range.2) then
    let beyond := (List.range g.count).flatMap fun e => (g.bytesOf e).filterMap fun q =>
      if rows * 256 < ptrOff q.1 + q.2 then some (max rows (ptrOff q.1 / 256)) else none
    fault 0x16 (beyond.foldl min (ptrOff g.range.2 / 256))
  else pure ()

/-- The follow-on of a command (R334), with its checks before memory access and the slab bytes that it writes. -/
def followOf (o : CopyReq) : X (Option (Follow × List (Nat × Nat))) := do
  let m ← me
  if o.kind != 2 then pure none
  else if o.w14 = 0 then
    faultIf (o.w15 != 0) 0x01 0
    pure none
  else
    let issue := fun (sub : Nat) (x : XOp) => do
      faultIf (x.s != 0) 0x01 0
      let ga := vget m.2.1.gens x.ga
      let gb := vget m.2.1.gens x.gb
      let ws ← (if sub = 3 then do
        let b ← bldShape m.1.core ga x o.w15
        (List.range b.1.count).forM fun e => do
          lowSpace (b.1.addr e).1
          if b.1.scaled then lowSpace (b.1.scaleAddr e) else pure ()
        pure (bldRanges m.1.core x.slab.val b.2)
      else do
        let sh ← mmaShape ⟨m.1.core, m.1.slot, m.2.1.ctx, m.2.1.rows, ga, gb⟩ x o.w15 128
        rowsWithin m.2.1.rows x.d.val (sh.m * tileStride sh.b.n)
        let base := (Walk4.ofBits gb).base
        (match outsideScratch (aAccesses sh x base 0 sh.m ++ (if x.ma then [(base, 1)] else [])) with
        | none => pure []
        | some p => fault 0x05 p))
      pure (some (⟨sub, x, o.w15, ga, gb⟩, ws))
    match decodeWords [o.w14 % 2 ^ 32, o.w14 / 2 ^ 32] with
    | .ok (.mma x) => issue 0 x
    | .ok (.mmas x) => issue 1 x
    | .ok (.bld x) => issue 3 x
    | .ok _ => fault 0x01 0
    | .error _ => fault 0x01 0

/-- A fault of a command in memory names the command (R327). -/
def namedAt {α : Type} (at_ : Nat) (x : X α) : X α := fun s =>
  match x s with
  | .error (.trap t k) => .error (.trap (if at_ = 0 then t else { t with va := BitVec.ofNat 64 at_ }) k)
  | r => r

/-- The checks of R327 and R387; the follow-on comes with the slab bytes that it writes. -/
def copyChecks (o : CopyReq) : X (Option (Follow × List (Nat × Nat))) := do
  let m ← me
  namedAt o.at_ (faultIf (!o.src.valid || !o.dst.valid || (!o.ls && (isForm o.src.code || isForm o.dst.code))) 0x01 0)
  sideSpace m.1.core 2 o.src
  sideSpace m.1.core 3 o.dst
  sideRows m.2.1.rows o.src
  sideRows m.2.1.rows o.dst
  faultIf (sameSpace o.src.range o.dst.range) 0x01 0
  faultIf (o.src.count != o.dst.count || decide (2 ^ 39 < o.dst.count * o.dst.wb)) 0x01 0
  let f ← namedAt o.at_ (followOf o)
  if o.ls then lsChecks (← whoami) o.lat o.islot o.src else pure ()
  pure f

/-- Accept a command: it takes its transfer ID and its scoreboard entries (R214, R330). -/
def accept (kind : CmdKind) (o : CopyReq) (f : Option Follow) (reads writes : List (Nat × Nat)) : X Word := do
  let m ← me
  let s ← get
  let core := s.core m.1.core
  let id := vget core.nextId o.ch
  let late := o.kind == 1 && decide (o.time < s.cycle.toNat)
  let k : Cmd :=
    { kind := kind, seq := core.cmdSeq, ch := o.ch, id := id, slot := m.1.slot, order := m.2.1.order, ctx := m.2.1.ctx
      pc := m.2.2.pc, timed := o.kind == 1, time := o.time, due := late, late := late, src := o.src, dst := o.dst
      ef := o.ef, cmp := o.cmp, ls := o.ls, lat := o.lat, islot := o.islot, follow := f, first := o.first
      flags := 0, nan := none, view := none, down := [], st := .queued }
  set (s.onCore m.1.core fun x =>
    { x with cmds := x.cmds ++ [k], cmdSeq := x.cmdSeq + 1, nextId := vset x.nextId o.ch (id + 1)
             board := x.board ++ (reads ++ writes).map fun r => ⟨m.1.slot, r.1, r.2, core.cmdSeq⟩ })
  pure (id.zeroExtend 64)

/-- Check and enqueue a copy (R327, R333): a release toward its accesses (R219). The slabs of a follow-on BLD are written too
(R191). -/
def enqueueCopy (o : CopyReq) : X Word := do
  let m ← me
  let f ← copyChecks o
  performed
  commandRoom m.1.core (o.kind == 1)
  aliasCheck { core := m.1.core, slot := m.1.slot } (o.dst.range :: f.elim [] Prod.snd)
  accept .copy o (f.map Prod.fst) [o.src.range] [o.dst.range]

/-- The command of CPY, CPYT and CPYM (R333). -/
def regCopy (o : EOp) (kind time w14 w15 : Nat) : X CopyReq := do
  let m ← me
  pure { kind := kind, ch := o.ch, time := time, src := Walk4.ofBits (vget m.2.1.gens o.gs)
         dst := Walk4.ofBits (vget m.2.1.gens o.gd), ef := o.fl.getLsbD 0, cmp := o.fl.getLsbD 1, ls := o.fl.getLsbD 2
         lat := o.imm.toNat % 64, islot := o.imm.toNat / 64, w14 := w14, w15 := w15, first := 0, at_ := 0 }

/-- CPY (R333). -/
def execCpy (o : EOp) (s : State) : Host.Outcome State Fault Refusal :=
  instr 2 [] [o.d] noPre (seqBody fun _ => do
    let id ← enqueueCopy (← regCopy o 0 0 0 0)
    writeDst o.d id) s

/-- CPYT (R333). -/
def execCpyt (o : EOp) (s : State) : Host.Outcome State Fault Refusal :=
  instr 2 [o.a] [o.d] noPre (seqBody fun vs => do
    let id ← enqueueCopy (← regCopy o 1 (arg vs 0).toNat 0 0)
    writeDst o.d id) s

/-- CPYM (R333, R334). -/
def execCpym (o : EOp) (s : State) : Host.Outcome State Fault Refusal :=
  instr 2 [o.b, o.c] [o.d] noPre (seqBody fun vs => do
    let id ← enqueueCopy (← regCopy o 2 0 (arg vs 0).toNat (arg vs 1).toNat)
    writeDst o.d id) s

/-- Signed doubleword halves as strides. -/
def stridesOf (a b : Nat) : List Int :=
  [signedOf 32 (nbits a 0 32), signedOf 32 (nbits a 32 32), signedOf 32 (nbits b 0 32), signedOf 32 (nbits b 32 32)]

/-- The element-size code of a format (R335). -/
def eszOf (f : MemFmt) : Nat := if f.bits = 4 then 0 else if f.bits = 8 then 1 else if f.bits = 16 then 2 else 3

/-- The 128-byte form (R335); none where a reserved field, a code or a size is wrong. -/
def parseCommand (at_ : Nat) (bs : List Byte) : Option CopyReq :=
  let w := fun (i : Nat) => leNat ((bs.drop (8 * i)).take 8)
  let kind := nbits (w 0) 0 2
  let ls := nbits (w 0) 4 1 == 1
  let lat := nbits (w 0) 8 6
  let islot := nbits (w 0) 14 2
  let sizes := [nbits (w 5) 0 32, nbits (w 5) 32 32, nbits (w 6) 0 32, nbits (w 6) 32 32]
  let sfmt := nbits (w 4) 0 5
  let src : Gen := ⟨w 2, sizes, stridesOf (w 7) (w 8), signedOf 32 (nbits (w 13) 0 32), signedOf 32 (nbits (w 9) 0 32), sfmt,
    nbits (w 4) 10 2, true⟩
  let dst : Gen := ⟨w 3, sizes, stridesOf (w 10) (w 11), signedOf 32 (nbits (w 13) 32 32), signedOf 32 (nbits (w 12) 0 32),
    nbits (w 4) 5 5, nbits (w 4) 12 2, true⟩
  let ok := kind != 3 && nbits (w 0) 7 1 == 0 && nbits (w 0) 16 8 == 0 && nbits (w 0) 48 16 == 0
    && (kind == 1 || w 1 == 0) && (kind == 2 || (w 14 == 0 && w 15 == 0)) && (if ls then decide (lat ≤ 39) else lat == 0 && islot == 0)
    && nbits (w 4) 16 48 == 0 && nbits (w 9) 32 32 == 0 && nbits (w 12) 32 32 == 0
    && (match MemFmt.ofCode sfmt with
      | none => false
      | some f => eszOf f == nbits (w 4) 14 2)
  if ok then
    some { kind := kind, ch := Fin.ofNat 4 (nbits (w 0) 5 2), time := w 1, src := src, dst := dst
           ef := nbits (w 0) 2 1 == 1, cmp := nbits (w 0) 3 1 == 1, ls := ls, lat := lat, islot := islot, w14 := w 14
           w15 := w 15, first := nbits (w 0) 24 24, at_ := at_ }
  else none

/-- ENQ (R335). -/
def execEnq (o : EOp) (s : State) : Host.Outcome State Fault Refusal :=
  instr 2 [o.a] [o.d] noPre (seqBody fun vs => do
    let p := (arg vs 0).toNat
    lowSpace p
    faultIf (p % 128 != 0) 0x04 p
    let bs ← memReadBytes (← whoami) p 128
    match parseCommand p bs with
    | none => fault 0x01 p
    | some c => do
      let id ← enqueueCopy c
      writeDst o.d id) s

/-! ### Waiting for commands -/

/-- The fault of a held command that a waiting instruction covers (R337). -/
def heldFault (c : CoreId) (covers : Cmd → Bool) : X Unit := do
  let s ← get
  let hit := (s.core c).cmds.findSome? fun k =>
    match k.st with
    | .faulted _ code va => if covers k then some (code, va) else none
    | .queued | .reading _ _ _ | .writing _ _ _ | .following | .exchanging _ _ | .done => none
  match hit with
  | none => pure ()
  | some p => fault p.1 p.2

/-- Wait for every command of the role's group that a condition names (R339, R116, R277). -/
def awaitCopies (which : Cmd → Bool) : X Unit := do
  let m ← me
  let mine := fun (k : Cmd) => k.of m.1.slot m.2.1 && which k
  heldFault m.1.core mine
  waitIf (((← get).core m.1.core).cmds.any mine)

/-- WAITID (R339). -/
def execWaitid (o : EOp) (s : State) : Host.Outcome State Fault Refusal :=
  let srcs := if o.a = 0 then [] else [o.a]
  instr 2 srcs [o.d] noPre (seqBody fun vs => do
    let m ← me
    let t : BitVec 48 := (arg vs 0).truncate 48
    (if o.a = 0 then awaitCopies fun k => k.ch == o.ch
    else do
      heldFault m.1.core fun k =>
        k.of m.1.slot m.2.1 && k.ch == o.ch && decide ((t - k.id).toNat < 2 ^ 47)
      waitIf (!(← get).transferDone m.1.core o.ch t))
    let s ← get
    writeDst o.d ((s.doneId m.1.core o.ch).zeroExtend 64)) s

/-- The status word of a channel (R331). -/
def ChStat.word (t : ChStat) : Word :=
  BitVec.ofNat 64 (t.fills.toNat + t.errs.toNat * 2 ^ 16 + t.late.toNat * 2 ^ 32 + t.cause.toNat * 2 ^ 40)

/-- TIDR (R340). -/
def execTidr (o : EOp) (s : State) : Host.Outcome State Fault Refusal :=
  instr 2 [] [o.d] noPre (seqBody fun _ => do
    let m ← me
    let s ← get
    let t := vget m.2.1.chans o.ch
    match o.imm.toNat with
    | 0 => writeDst o.d ((s.doneId m.1.core o.ch).zeroExtend 64)
    | 1 => writeDst o.d ((vget (s.core m.1.core).nextId o.ch - 1).zeroExtend 64)
    | 2 =>
      set (s.onGroup m.1.core m.1.slot fun g => { g with chans := vset g.chans o.ch ⟨0, 0, 0, 0, 0⟩ })
      writeDst o.d t.word
    | 3 => writeDst o.d (BitVec.ofNat 64 t.firstId)
    | _ => fault 0x01 0) s

/-- Drop the translations of a range of pages of a context from every TLB of the device. -/
def State.dropTlb (s : State) (x : Option CtxId) (lo hi : Nat) : State :=
  let gone := fun (e : TlbEntry) =>
    (match x with
    | none => true
    | some c => e.ctx == c) && decide (e.page < hi) && decide (lo < e.page + (if e.block then 32 else 1))
  { s with dieTlb := s.dieTlb.map fun t => t.filter fun e => !gone e
           cores := s.cores.map fun k => { k with tlb := k.tlb.filter fun e => !gone e } }

/-- Does a stream of a group write into a virtual range, and run on (R341, R386)? -/
def State.streamsInto (s : State) (id : RoleId) (g : Group) (r : Nat × Nat) : Bool :=
  s.lats.any fun p =>
    match p.2.stream with
    | none => false
    | some t => t.heldBy id g && t.state != .done && t.binds.any fun b => decide (4 ≤ b.1) && meets b.2.range r

/-- PUBLISH (R341). -/
def execPublish (o : EOp) (s : State) : Host.Outcome State Fault Refusal :=
  instr 2 [o.a] [] (faultIf (3 < o.imm.toNat) 0x01 0) (seqBody fun vs => do
    let m ← me
    let va := (arg vs 0).toNat
    faultIf (va / 2 ^ 55 != 0) 0x05 va
    let s ← get
    match s.bufOf m.2.1.ctx va with
    | none => fault 0x05 va
    | some b =>
      let r := bytesAt b.vbase (b.pages * 2 ^ 16)
      awaitCopies fun k => k.writes.any (sameSpace r)
      waitIf ((← get).streamsInto m.1 m.2.1 r)
      performed
      modify fun s =>
        let s1 := s.onCtx m.2.1.ctx fun c =>
          { c with bufs := c.bufs.map fun y => if y.vbase = b.vbase then { y with visB := !y.visB } else y }
        s1.dropTlb (some m.2.1.ctx) (b.vbase / 2 ^ 16) (b.vbase / 2 ^ 16 + b.pages)) s

/-! ### The steps of the engines -/

/-- Run a step of the part; a fault or wait of its body leaves the state as it was. -/
def partStep (x : X Unit) (s : State) : Host.Outcome State Fault Refusal :=
  match x s with
  | .ok (_, t) => .next t
  | .error (.trap _ keep) => .next (keep.getD s)
  | .error .wait => .next s
  | .error (.ask f) => .next (f s)
  | .error (.halt f) => .fault f

/-- Is a command held for replay by a YIELD that has not saved yet (R284)? -/
def State.keptBack (s : State) (c : CoreId) (k : Cmd) : Bool :=
  (s.group c k.slot).elim false fun g => g.order == k.order && g.squashed.contains k.seq

/-- The command that a channel may start next (R328): the head of the queue, or the first due timed command, whichever was
enqueued earlier. -/
def State.candidate (s : State) (c : CoreId) (ch : ChId) : Option Cmd :=
  let q := (s.core c).cmds.filter fun k => k.ch == ch && k.st == .queued && !s.keptBack c k
  let head := q.find? fun k => !k.timed
  let due := (q.filter fun k => k.timed && (k.due || decide (k.time ≤ s.cycle.toNat))).foldl (fun (a : Option Cmd) k =>
    match a with
    | none => some k
    | some j => if k.time < j.time then some k else some j) none
  match head, due with
  | some a, some b => if a.seq < b.seq then some a else some b
  | some a, none => some a
  | none, b => b

/-- May a command start (R328, R387)? -/
def State.mayStart (s : State) (c : CoreId) (k : Cmd) : Bool :=
  (s.started c k.ch).isNone && !s.rangeHeld c k
    && !(k.ls && ((s.latSlot k.lat k.islot).stream.isSome || s.lsBusy k.lat k.islot))

/-- Start a command; LATE counts one that did not start at its time (R331, R333). -/
def beginCmd (k : Cmd) (c : CoreId) : X Unit := do
  let s ← get
  (if k.late || (k.timed && !k.due && decide (k.time < s.cycle.toNat)) then modify fun s => s.onGroup c k.slot fun g =>
      if g.order != k.order then g
      else
        let t := vget g.chans k.ch
        { g with chans := vset g.chans k.ch { t with late := if t.late = 255 then 255 else t.late + 1 } }
  else pure ())
  startAt k c k.first

/-- COPY_START (R328). -/
def execCopyStart (c : CoreId) (ch : ChId) (s : State) : Host.Outcome State Fault Refusal :=
  match s.candidate c ch with
  | none => .next s
  | some k => if s.mayStart c k then partStep (beginCmd k c) s else .next s

/-- TIMED_COMMAND_DUE (R333): the first timed command whose time has come starts, or counts as late when it does. -/
def execTimedCommandDue (c : CoreId) (ch : ChId) (s : State) : Host.Outcome State Fault Refusal :=
  let hit := ((s.core c).cmds.filter fun k =>
      k.ch == ch && k.timed && k.st == .queued && !k.due && decide (k.time ≤ s.cycle.toNat)).foldl
    (fun (a : Option Cmd) k => match a with
      | none => some k
      | some j => if k.time < j.time then some k else some j) none
  match hit with
  | none => .next s
  | some k =>
    let s1 := s.onCmd c k.seq fun j => { j with due := true }
    if s1.mayStart c k && (s1.candidate c ch).map Cmd.seq == some k.seq then partStep (beginCmd k c) s1
    else .next (s1.onCmd c k.seq fun j => { j with late := true })

/-- One atom of a command is done: reads count toward the landing of its chunk, writes toward its retirement. -/
def atomDone (r : AtomReq) : X Unit := do
  let s ← get
  match s.cmd r.core r.cmd with
  | none => pure ()
  | some k =>
    match k.st with
    | .reading chunk n held =>
      if n ≤ 1 then holding k r.core chunk (landed sendOut k r.core chunk held)
      else setCmd r.core k.seq (.reading chunk (n - 1) held)
    | .writing chunk n held => setCmd r.core k.seq (.writing chunk (n - 1) held)
    | .queued => pure ()
    | .following => pure ()
    | .faulted _ _ _ => pure ()
    | .exchanging _ _ => pure ()
    | .done => pure ()

/-- An atom under way arrives. -/
def arriveAtom (write : Bool) (i : Nat) (s : State) : Host.Outcome State Fault Refusal :=
  match s.inflight[i]? with
  | none => .next s
  | some r => if r.write != write then .next s
      else partStep (atomDone r) { s with inflight := s.inflight.eraseIdx i }

/-- ATOM_LANDING (R322): a read atom lands; with the last of its chunk the
chunk's writes go out (log 9). -/
def execAtomLanding (i : Nat) (s : State) : Host.Outcome State Fault Refusal := arriveAtom false i s

/-- WRITE_ACK (R322). -/
def execWriteAck (i : Nat) (s : State) : Host.Outcome State Fault Refusal := arriveAtom true i s

/-- What follows a chunk that has retired (R329). -/
def afterChunk (k : Cmd) (c : CoreId) (chunk : Nat) : X Unit := do
  let s ← get
  match k.kind with
  | .copy => startAt k c (chunk + 1)
  | .mcst _ => startAt k c (chunk + 1)
  | .cred _ set tag num group => do
    set_ (s.dropMessages (s.contributions k.ctx set.id tag num group))
    setCmd c k.seq .done
  | .send _ _ _ _ => setCmd c k.seq .done
  | .recv _ _ _ _ => do
    set_ (s.dropMessages (s.partnersOf k))
    acknowledge k false
    setCmd c k.seq .done
where
  /-- Replace the state. -/
  set_ (s : State) : X Unit := set s

/-- A chunk whose writes are all acknowledged: its data is written, and it retires (R329, log 9). A write that fails on a
replica ends a multicast (R420). -/
def chunkDone (k : Cmd) (c : CoreId) (chunk : Nat) (held : List Hold) : X Unit := do
  if k.chunks ≤ chunk then startAt k c chunk
  else
    let r ← attempt (do applyMoved k c held (← movedOf k c chunk held))
    match r, k.kind with
    | .ok _, _ => afterChunk k c chunk
    | .error t, .mcst _ =>
      if t.code = 0x13 then
        k.report c 0 1 0x13
        setCmd c k.seq .done
      else setCmd c k.seq (.faulted chunk t.code t.va.toNat)
    | .error t, .copy => endCmd k c (.faulted chunk t.code t.va.toNat)
    | .error t, _ => setCmd c k.seq (.faulted 1 t.code t.va.toNat)

/-- CHUNK_RETIRE (R329): the started command of a channel goes on to its next chunk, its follow-on, or its end; a
command of a collective goes on when its partners' messages are there. -/
def execChunkRetire (c : CoreId) (ch : ChId) (s : State) : Host.Outcome State Fault Refusal :=
  match s.started c ch with
  | none => .next s
  | some k =>
    match k.st with
    | .writing chunk n held => if n = 0 then partStep (chunkDone k c chunk held) s else .next s
    | .exchanging sent held => partStep (exchange k c sent held) s
    | .queued | .reading _ _ _ | .following | .faulted _ _ _ | .done => .next s

/-- COPY_RETIRE (R329, R330). -/
def execCopyRetire (c : CoreId) (ch : ChId) (s : State) : Host.Outcome State Fault Refusal :=
  match s.started c ch with
  | none => .next s
  | some k => if k.st = .done then .next (s.retireCmd c k.seq) else .next s

/-- COPY_DRAIN_LIMIT (R338). -/
def copyDrainLimit : Nat := 6000

/-- The translations that a command holds (R338). -/
def Cmd.holds (k : Cmd) : List Hold :=
  match k.st with
  | .reading _ _ hs | .writing _ _ hs | .exchanging _ hs => hs
  | .queued | .following | .faulted _ _ _ | .done => []

/-- Does a command hold a translation that a drain covers, made before a time? -/
def Drain.heldBefore (d : Drain) (tick : Nat) (k : Cmd) : Bool :=
  (match d.ctx with
  | none => true
  | some x => k.ctx == x) && k.holds.any fun h => decide (d.lo ≤ h.page) && decide (h.page < d.hi) && decide (h.tick < tick)

/-- Does a command hold a translation that a drain waits for at a time: for a TLBI one made before it began, for a PGMIG any? -/
def Drain.waitsFor (d : Drain) (now : Nat) (k : Cmd) : Bool := d.heldBefore (if d.moves then now + 1 else d.tick) k

/-- Has a drain waited for COPY_DRAIN_LIMIT (R338)? -/
def State.drainLate (s : State) (d : Drain) : Bool := decide (d.since + copyDrainLimit ≤ s.cycle.toNat)

/-- Squash a command for replay: it starts again from its first unretired chunk, with its ID and its place (R338). What LATE
counts has been counted. -/
def State.squash (s : State) (c : CoreId) (k : Cmd) : State :=
  (s.abandonCmd c k).onCmd c k.seq fun j => { j with st := .queued, first := k.chunkNow, due := true, late := false }

/-- COPY_DRAIN_TIMEOUT (R338): a command that has kept a TLBI or PGMIG waiting for the limit is squashed. -/
def execCopyDrainTimeout (c : CoreId) (ch : ChId) (s : State) : Host.Outcome State Fault Refusal :=
  match s.started c ch with
  | none => .next s
  | some k =>
    let late := s.allRoles.any fun r =>
      match r.2.2.drainAt with
      | none => false
      | some d => d.heldBefore d.tick k && s.drainLate d
    if late then .next (s.squash c k) else .next s

end Sys2Proof.Machine
end

