-- ==== Sys2Proof/Machine/Stream.lean ====
section
/-! DEFINITION. Lattice streams (R377 to R395): the stream instructions, bursts, rows, holds, parking and release; the
registers that assign image slots and windows (R369, R378). -/

namespace Sys2Proof.Machine

open Sys2Proof

/-! ### Streams -/

/-- STATE of the status word (R389). -/
def streamCode : StreamState → Nat
  | .running => 0 | .done => 1 | .held => 2 | .stopped => 3 | .parked => 4

/-- The status word (R389). -/
def Stream.word (t : Stream) : Word :=
  BitVec.ofNat 64 (1 + streamCode t.state * 2 + t.phase * 2 ^ 12 + t.row % 2 ^ 24 * 2 ^ 16 + t.err % 256 * 2 ^ 40)

/-- Lattice and slot of a stream instruction (R388). -/
def latOf (o : EOp) : Nat × Nat := (o.imm.toNat % 64, o.imm.toNat / 64)

/-- The ownership check of R388. -/
def ownLat (o : EOp) : X Unit := do
  let m ← me
  let l := (← get).latSlot (latOf o).1 (latOf o).2
  faultIf (!l.valid || l.owner != m.2.1.ctx) 0x07 0

/-- The role's group's stream on the slot. -/
def myStream (o : EOp) : X (Option Stream) := do
  let m ← me
  let l := (← get).latSlot (latOf o).1 (latOf o).2
  pure (match l.stream with
    | none => none
    | some t => if t.heldBy m.1 m.2.1 then some t else none)

/-- Update the stream on the slot. -/
def onMine (o : EOp) (f : Stream → Stream) : X Unit := modify fun s => s.onStream (latOf o).1 (latOf o).2 f

/-- Is a stream waiting, in progress or in between, that LBAR and LSTART wait for (R392, R393)? -/
def Stream.busy (t : Stream) : Bool :=
  match t.state with
  | .running | .held | .parked => true
  | .done | .stopped => false

/-- Is the stream asked to leave, stop, park or hold? -/
def Stream.asked (t : Stream) : Bool := t.relReq || t.stopReq || t.parkReq || t.rebindReq || t.holdReq

/-- Rows of the phase that have entered the grid. -/
def Stream.computed (t : Stream) : Nat := t.row + t.made.length

/-- The streams of a group: Lattice and slot. -/
def State.streamsOf (s : State) (id : RoleId) (g : Group) : List (Nat × Stream) :=
  s.lats.filterMap fun p =>
    match p.2.stream with
    | none => none
    | some t => if t.heldBy id g then some (p.1, t) else none

/-- Release every stream of a group at its next row boundary (R395). -/
def State.releaseStreams (s : State) (id : RoleId) (g : Group) : State :=
  s.askStreams (fun t => t.heldBy id g) fun t => { t with relReq := true }

/-! ### LFLOAD, LBIND -/

/-- LFLOAD (R390). -/
def execLfload (o : EOp) (s : State) : Host.Outcome State Fault Refusal :=
  instr 2 [o.a] [o.d] noPre (seqBody fun vs => do
    ownLat o
    let p := (arg vs 0).toNat
    lowSpace p
    faultIf (p % 64 != 0) 0x04 p
    let s ← get
    let l := s.latSlot (latOf o).1 (latOf o).2
    if l.stream.isSome || s.lsBusy (latOf o).1 (latOf o).2 then writeDst o.d 2
    else
      let w ← whoami
      let h ← readRun w p 64
      let len := leNat ((h.drop 4).take 4)
      let img ← readRun w p len
      faultIf (!imageHeaderOk h) 0x01 p
      match imageBad img len with
      | some off => fault 0x01 (p + off)
      | none =>
        modify fun s => s.onLat (latOf o).1 (latOf o).2 fun l => { l with image := some img, acc := [] }
        writeDst o.d 1) s

/-- Key of a staged binding. -/
def bindKey (o : EOp) (port : Nat) : Nat := ((latOf o).1 * 4 + (latOf o).2) * 8 + port

/-- LBIND (R391). -/
def execLbind (o : EOp) (s : State) : Host.Outcome State Fault Refusal :=
  instr 2 [] [] noPre (seqBody fun _ => do
    let m ← me
    ownLat o
    let out := o.fl.getLsbD 2
    let clr := o.fl.getLsbD 3
    let port := o.fl.toNat % 4 + (if out then 4 else 0)
    faultIf (o.fl.toNat / 16 != 0 || (clr && (o.gs != 0 || o.gd != 0)) || (out && o.gs != 0) || (!out && o.gd != 0)) 0x01 0
    if clr then
      modify fun s => s.onGroup m.1.core m.1.slot fun g => { g with binds := g.binds.del (bindKey o port) }
    else
      let b ← bindCheck (← whoami) (latOf o).1 (vget m.2.1.gens (if out then o.gd else o.gs)) out
      modify fun s => s.onGroup m.1.core m.1.slot fun g => { g with binds := g.binds.set (bindKey o port) b }) s

/-! ### LSTART -/

/-- The bindings that a group has staged on a slot, by port. -/
def Group.staged (g : Group) (lat slot : Nat) : SMap Binding :=
  g.binds.filterMap fun p => if p.1 / 8 = lat * 4 + slot then some (p.1 % 8, p.2) else none

/-- Rows and beats of a binding. -/
def Binding.shape (img : List Byte) (p : Nat) (b : Binding) : Nat × Nat :=
  let g := Walk4.ofBits b.gen
  (portRows g, portBeats g (portRaw img p))

/-- The range of the scale bytes of a scaled walk. -/
def Binding.scaleRange (b : Binding) : Option (Nat × Nat) :=
  let g := Walk4.ofBits b.gen
  if !g.scaled then none
  else
    let d : Int := g.sstride * ((g.count / g.size g.baxis - 1 : Nat) : Int)
    let at_ : Int := g.base + g.soff
    some (wrap64 (at_ + min d 0), wrap64 (at_ + max d 0 + ((g.size g.baxis - 1) / 8 : Nat)))

/-- Are two walks identical, address by address (R157, R392; DEDUCED, log 83)? Formats of one width, SOFF and BAXIS may differ;
scale bytes are no part of an output's walk. -/
def Binding.sameWalk (out b : Binding) : Bool :=
  let g := Walk4.ofBits out.gen
  let h := Walk4.ofBits b.gen
  g.base == h.base && g.sizes == h.sizes && g.strides == h.strides && g.wb == h.wb && isForm g.code == isForm h.code
    && b.scaleRange.elim true fun r => !meets out.range r

/-- The checks of R392 on a phase. -/
def phaseOk (img : List Byte) (bs : SMap Binding) : Bool :=
  ((List.range 8).all fun p => portOn img p == (SMap.get bs p).isSome)
    && (bs.all fun a => bs.all fun b => Binding.shape img a.1 a.2 == Binding.shape img b.1 b.2)
    && (bs.all fun a => decide (a.1 < 4) || !isForm (Walk4.ofBits a.2.gen).code || nbits (peWord img (portPe img a.1)) 0 4 == 11)
    && bs.all fun a => decide (a.1 < 4) || bs.all fun b =>
        a.1 == b.1 || !meets a.2.range b.2.range || a.2.sameWalk b.2

/-- Start a phase (R377). -/
def startPhase (o : EOp) (img : List Byte) (bs : SMap Binding) (old : Option Stream) : X Stream := do
  let m ← me
  let shape := match bs with
    | [] => (0, 0)
    | b :: _ => Binding.shape img b.1 b.2
  let base : Stream := match old with
    | some t => { t with phase := t.phase + 1 }
    | none =>
      { copy := none, kept := [], core := m.1.core, gslot := m.1.slot, order := m.2.1.order, ctx := m.2.1.ctx, state := .running, phase := 0, row := 0
        rows := 0, beats := 0, err := 0, total := 0, reads := 0, writes := 0, holds := 0, poisoned := 0, flags := 0
        nan := none, pc := 0, binds := [], outCount := [], issued := [], parts := [], landed := [], made := [], closing := false, stopReq := false
        parkReq := false, relReq := false, holdReq := false, rebindReq := false, taken := none, wasStopped := false, boundary := false }
  let t := { base with state := if shape.1 = 0 then .done else .running, row := 0, rows := shape.1, beats := shape.2
                       err := 0, flags := 0, nan := none, pc := m.2.2.pc, binds := bs, outCount := [], issued := []
                       parts := [], landed := [], made := [], closing := false }
  modify fun s => s.onLat (latOf o).1 (latOf o).2 fun l =>
    { l with stream := some t, acc := if old.isSome then l.acc else [] }
  pure t

/-- The output ranges of a phase. -/
def outRanges (bs : SMap Binding) : List (Nat × Nat) := (bs.filter fun b => 4 ≤ b.1).map fun b => b.2.range

/-- LSTART (R392). The output ranges are checked before a stopped stream goes on, too (R191; DEDUCED, log 83). -/
def execLstart (o : EOp) (s : State) : Host.Outcome State Fault Refusal :=
  instr 2 [] [o.d] noPre (seqBody fun _ => do
    ownLat o
    let m ← me
    let s ← get
    let l := s.latSlot (latOf o).1 (latOf o).2
    let t ← myStream o
    if t.isNone && l.stream.elim false fun u => u.copy.isNone then writeDst o.d 0
    else
      waitIf (t.elim false Stream.busy || l.stream.elim false (fun u => u.copy.isSome) || s.lsBusy (latOf o).1 (latOf o).2)
      performed
      if (t.map Stream.state) == some .stopped then
        aliasCheck { core := m.1.core, slot := m.1.slot } (outRanges (t.elim [] Stream.binds))
        onMine o fun t => { t with state := .running, stopReq := false }
        writeDst o.d ((t.map fun t => ({ t with state := .running } : Stream).word).getD 0)
      else
        match l.image with
        | none => fault 0x01 0
        | some img =>
          let bs := m.2.1.staged (latOf o).1 (latOf o).2
          faultIf (!phaseOk img bs) 0x01 0
          let open_ := (s.streamsOf m.1 m.2.1).filter fun p => p.2.state != .done
          if (t.isNone && decide (4 ≤ open_.length)) || (t.map Stream.phase) == some 15 then writeDst o.d 0
          else
            aliasCheck { core := m.1.core, slot := m.1.slot } (outRanges bs)
            let u ← startPhase o img bs t
            writeDst o.d u.word) s

/-! ### LBAR, LSTAT, LSTOP -/

/-- LBAR (R393). -/
def execLbar (o : EOp) (s : State) : Host.Outcome State Fault Refusal :=
  instr 2 [] [o.d] noPre (seqBody fun _ => do
    ownLat o
    match ← myStream o with
    | none => writeDst o.d 0
    | some t =>
      waitIf t.busy
      writeDst o.d t.word) s

/-- LSTAT (R393). -/
def execLstat (o : EOp) (s : State) : Host.Outcome State Fault Refusal :=
  instr 2 [] [o.d] noPre (seqBody fun _ => do
    ownLat o
    match ← myStream o with
    | none => writeDst o.d 0
    | some t => writeDst o.d (match o.fl.toNat with
      | 0 => t.word
      | 1 => BitVec.ofNat 64 t.total
      | 2 => BitVec.ofNat 64 t.reads
      | 3 => BitVec.ofNat 64 t.writes
      | 4 => BitVec.ofNat 64 t.holds
      | _ => BitVec.ofNat 64 t.poisoned)) s

/-- The request of an LSTOP that is its role's next instruction, whose ownership check passes (R394): it stands from then on, also
while the instruction waits. -/
def State.askStop (s : State) (o : EOp) : State :=
  match (do checkMisuse [] [o.d]; ownLat o; myStream o) s with
  | .ok (some t, u) =>
    if t.state == .done || t.state == .stopped then s
    else (u.onStream (latOf o).1 (latOf o).2 fun t => { t with stopReq := true }).atEdge (latOf o).1 (latOf o).2
  | .ok (none, _) => s
  | .error _ => s

/-- LSTOP (R394): the stop is requested, and the instruction waits for the row boundary. -/
def execLstop (o : EOp) (s : State) : Host.Outcome State Fault Refusal :=
  instr 2 [] [o.d] noPre (fun _ => do
    ownLat o
    let rel := o.fl.getLsbD 0
    match ← myStream o with
    | none =>
      writeDst o.d 0
      pure .seq
    | some u =>
      if u.state == .done || u.state == .stopped then
        writeDst o.d u.word
        (if rel then onMine o (fun t => { t with relReq := true }) else pure ())
        (if rel then modify fun s => s.atEdge (latOf o).1 (latOf o).2 else pure ())
        pure .seq
      else pure .gone) (s.askStop o)

/-! ### The end of a phase (R383, R384) -/

/-- Give a stream's flags and NaN to its group, if it is in its slot (R384, R432). -/
def State.streamFlags (s : State) (t : Stream) : State :=
  s.onGroup t.core t.gslot fun g =>
    if g.order != t.order || t.taken.isSome || t.copy.isSome then g
    else
      let g1 := g.raise t.flags
      match t.nan with
      | none => g1
      | some w => if g1.nanrec.getLsbD 0 then g1
          else { g1 with nanrec := w, nanrecPc := t.pc &&& BitVec.ofNat 64 (2 ^ 55 - 1) }

/-- End a phase (R377, R383). -/
def State.endPhase (s : State) (lat slot : Nat) (err : Nat) : State :=
  match (s.latSlot lat slot).stream with
  | none => s
  | some t =>
    let u := { t with state := .done, err := firstErr t.err err, made := [], issued := [], parts := [], landed := [], closing := false, stopReq := false
                      parkReq := false, rebindReq := false, holdReq := false, flags := 0, nan := none }
    ((s.streamFlags t).onStream lat slot fun _ => u).atEdge lat slot

/-! ### Rows -/

/-- Write bytes of a bound output; poison instead where the row had a lost input (R383). -/
def streamWrite (x : CtxId) (b : Binding) (bad : Bool) (q : Nat × List Byte) : X Unit :=
  (pieces 64 q.1 q.2).forM fun r => do
    let s ← get
    let pa := streamPa s x b r.1 true
    if bad then losePlace r.1 (.virt ⟨pa, b.block⟩) else rawWrite (s.leafKeyRef b.block) r.1 pa r.2

/-- The bytes of an output port's row, and how many elements a compressed one has written (R375). -/
def portOut (img : List Byte) (t : Stream) (row : Nat) (rows : List (List Beat)) (p : Nat) (b : Binding) :
    List (Nat × List Byte) × Nat :=
  let g := Walk4.ofBits b.gen
  if portRaw img p then
    ([((g.addr (row * g.size 0)).1,
      rows.flatMap fun r => (r.getD (portPe img p) Beat.zero).lanes.flatMap fun l => leBytes 4 l.1)], 0)
  else if isForm g.code then formOut g img p row ((SMap.get t.outCount p).getD 0) rows
  else ([((g.addr (row * g.size 0)).1, packBits g.wb ((outElems img p g.fmt rows).map Prod.fst))], 0)

/-- Flags of an output port's conversion, and its first NaN (R384). A raw output and a bitmask+values output, whose lanes PACKM has
moved as bits, write encodings as they are: they set no NAN and fill no NANREC (R28, R31; DEDUCED, log 44). -/
def portFlags (img : List Byte) (t : Stream) (rows : List (List Beat)) (p : Nat) (b : Binding) : Flags × Option Word :=
  let g := Walk4.ofBits b.gen
  if portRaw img p || isForm g.code then (0, none)
  else
    let xs := outElems img p g.fmt rows
    let fmtI := match SMap.get t.binds 0 with
      | none => 0
      | some i => (Walk4.ofBits i.gen).code
    (xs.foldl (fun f x => f ||| x.2.1) 0,
      (xs.zipIdx.find? fun x => x.1.2.1.hasNan).map fun x => streamNan t.core x.1.2.2 x.2 fmtI g.code)

/-- Does a compressed output exceed its capacity (R383)? -/
def overCapacity (b : Binding) (count : Nat) : Bool :=
  let g := Walk4.ofBits b.gen
  isForm g.code && decide (1024 * g.size 1 < packHead (g.size 0) + count * (g.wb / 8))

/-- Compute the next row (R382): outputs, accumulators, flags. The error 0x0A ends the phase after the last complete row, so
it waits for the rows before. In an LS copy the elements of such a row are lost, with that cause (log 83). -/
def computeRow (lat slot : Nat) (t : Stream) (img : List Byte) : X Unit := do
  let s ← get
  let row := t.computed
  let acc := match t.made.getLast? with
    | none => (s.latSlot lat slot).acc
    | some r => r.acc
  let fails := modify fun s => if t.made.isEmpty then s.endPhase lat slot 0x0A else s
  let ins ← rowInputs img t.ctx t.binds row t.beats
  if ins.2 = 0x0A && t.copy.isNone then fails
  else
    let r := gridRow img row 0 ins.1 acc 0
    let outs := (t.binds.filter fun b => 4 ≤ b.1).map fun b => (b.1, portOut img t row r.1 b.1 b.2, b.2)
    if outs.any fun x => overCapacity x.2.2 x.2.1.2 then fails
    else
      let fs := (t.binds.filter fun b => 4 ≤ b.1).map fun b => portFlags img t r.1 b.1 b.2
      let made : RowOut :=
        { outs := outs.map fun x => (x.1, x.2.1.1), acc := r.2.1
          lanes := if t.copy.isNone then [] else r.1.flatMap fun bs => (bs.getD (portPe img 4) Beat.zero).lanes
          flags := fs.foldl (fun f x => f ||| x.1) r.2.2
          nan := fs.findSome? Prod.snd, err := ins.2, acked := [] }
      modify fun s =>
        { s.onStream lat slot fun t =>
            { t with made := t.made ++ [made], landed := t.landed.filter fun b => b.2 != row
                     outCount := outs.foldl (fun m x => if isForm (Walk4.ofBits x.2.2.gen).code then SMap.set m x.1 x.2.1.2
                       else m) t.outCount }
          with latLast := if h : lat < 40 then vset s.latLast ⟨lat, h⟩ (Fin.ofNat 4 slot) else s.latLast }

/-- Is a stream's next row ready for the grid (R382)? -/
def Stream.rowReady (t : Stream) : Bool :=
  t.state == .running && !t.closing && decide (t.computed < t.rows)
    && t.binds.all fun b => decide (4 ≤ b.1) || t.landed.contains (b.1, t.computed)

/-- Slots of a Lattice in the order after the one last served (R368). -/
def State.slotOrder (s : State) (lat : LatId) : List Nat :=
  let l := (vget s.latLast lat).val
  [(l + 1) % 4, (l + 2) % 4, (l + 3) % 4, l]

/-- ROW_COMPUTE (R368, R382): the grid takes the first ready slot after the one last served. -/
def execRowCompute (lat : LatId) (slot : Fin 4) (s : State) : Host.Outcome State Fault Refusal :=
  let ready := fun (k : Nat) => (s.latSlot lat.val k).stream.elim false Stream.rowReady
  if (s.slotOrder lat).find? ready != some slot.val then .next s
  else
    match (s.latSlot lat.val slot.val).stream, (s.latSlot lat.val slot.val).image with
    | some t, some img => partStep (computeRow lat.val slot.val t img) s
    | some _, none => .next s
    | none, _ => .next s

/-- The header of a compressed output, which is written at the end of its phase (R31, R375). -/
def Stream.header (t : Stream) (port : Nat) (b : Binding) : Nat × List Byte :=
  let g := Walk4.ofBits b.gen
  let z := (SMap.get t.outCount port).getD 0
  (g.base, leBytes 2 (g.size 0) ++ leBytes 2 z ++ leBytes 4 (packHead (g.size 0) + z * (g.wb / 8)))

/-- The ports of a phase's compressed outputs. -/
def Stream.forms (t : Stream) : List Nat :=
  (t.binds.filter fun b => 4 ≤ b.1 && isForm (Walk4.ofBits b.2.gen).code).map Prod.fst

/-- Commit the oldest row in the grid, its output bursts acknowledged (R377): accumulators, ROW, flags. At the last row the
phase is done, once the headers of its compressed outputs are written; otherwise this is a row boundary: where something is asked of the stream, the rows behind
it that have entered the grid finish, and input bursts of later rows are discarded. The row of an LS copy goes to its copy. -/
def completeRow (lat slot : Nat) (t : Stream) (r : RowOut) (rest : List RowOut) : X Unit := do
  let closing := t.closing || t.asked
  let u := { t with row := t.row + 1, total := t.total + 1, err := firstErr t.err r.err
                    poisoned := if r.err = 0 then t.poisoned else t.poisoned + 1, flags := t.flags ||| r.flags
                    nan := (match t.nan with
                      | some w => some w
                      | none => r.nan)
                    kept := if t.copy.isNone then t.kept else t.kept ++ [⟨t.row, r.lanes, r.err, r.flags⟩]
                    made := rest, closing := closing, landed := if closing then [] else t.landed
                    parts := if closing then t.parts.filter fun b => 4 ≤ b.1 else t.parts
                    issued := if closing then t.issued.filter fun b => 4 ≤ b.1 else t.issued }
  modify fun s => s.onLat lat slot fun l => { l with stream := some u, acc := r.acc }
  match t.copy with
  | some seq =>
    (if rest.isEmpty then modify fun s => s.atEdge lat slot else pure ())
    lsArrived t.core seq
  | none =>
    if u.row = u.rows then
      if u.forms.isEmpty then modify fun s => s.endPhase lat slot 0 else pure ()
    else if rest.isEmpty then modify fun s => s.atEdge lat slot
    else pure ()

/-- ROW_COMPLETE (R377). -/
def execRowComplete (lat : LatId) (slot : Fin 4) (s : State) : Host.Outcome State Fault Refusal :=
  match (s.latSlot lat.val slot.val).stream with
  | none => .next s
  | some t =>
    match t.made with
    | [] => .next s
    | r :: rest =>
      if t.binds.all fun b => decide (b.1 < 4) || r.acked.contains b.1 then
        partStep (completeRow lat.val slot.val t r rest) s
      else .next s

/-! ### Bursts (R379 to R382) -/

/-- The rows of a port that have bursts due (R450), lowest first: of an input, those that are at most two rows ahead of the
row in the grid and have not been read; of an output, those that are computed and not written, and behind the last one the header of
a compressed output. -/
def Stream.rowsDue (t : Stream) (port : Nat) : List Nat :=
  if t.state != .running || (SMap.get t.binds port).isNone then []
  else if port < 4 then
    if t.closing then [] else ((List.range 3).map fun i => t.computed + i).filter fun r =>
      decide (r < t.rows) && !t.landed.contains (port, r)
  else if t.row = t.rows then (if t.forms.contains port && !t.landed.contains (port, t.rows) then [t.rows] else [])
  else (t.made.zipIdx.filter fun m => !m.1.acked.contains port).map fun m => t.row + m.2

/-- The address of a row of a port: of a form's its base. -/
def Stream.rowVa (t : Stream) (port row : Nat) : Nat :=
  match SMap.get t.binds port with
  | none => 0
  | some b =>
    let g := Walk4.ofBits b.gen
    if isForm g.code then g.base else (g.addr (row * g.size 0)).1

/-- The 1 KiB units of accesses. -/
def unitsOf (xs : List (Nat × Nat)) : List Nat := dedup (xs.flatMap fun x => (spans 1024 x.1 x.2).map fun q => q.1 / 1024)

/-- The accesses of a row of a bitmask input (R31, R376): the header with row 0, its part of the bitmask, its values. -/
def formAccesses (x : CtxId) (b : Binding) (row : Nat) : X (List (Nat × Nat)) := do
  let g := Walk4.ofBits b.gen
  let w := g.wb / 8
  let e := rowElems g false
  let n := g.size 0
  let m ← streamRead x b (g.base + 8) (packHead n - 8)
  let mask := leNat m.1
  pure ((if row = 0 then [(g.base, 8)] else []) ++ [(g.base + 8 + row * e / 8, (min e (n - row * e) + 7) / 8),
    (g.base + packHead n + onesOf (row * e) mask * w, onesOf e (mask / 2 ^ (row * e)) * w)])

/-- The 1 KiB units that a row of an input port reads: of a dense or raw one its unit and those of its scales (R375). -/
def inputUnits (img : List Byte) (x : CtxId) (p : Nat) (b : Binding) (row : Nat) : X (List Nat) := do
  let g := Walk4.ofBits b.gen
  if !portRaw img p && isForm g.code then
    let xs ← formAccesses x b row
    pure (unitsOf xs)
  else pure (unitsOf (((g.addr (row * g.size 0)).1, 1024) :: (if portRaw img p then [] else (rowScales g row).map fun a => (a, 1))))

/-- The bytes of an output port's row behind the rows in the grid; of the row behind the last one its header. -/
def Stream.outBytes (t : Stream) (port row : Nat) : List (Nat × List Byte) :=
  match SMap.get t.binds port with
  | none => []
  | some b =>
    if t.row = t.rows then [t.header port b]
    else ((t.made[row - t.row]?).bind fun r => r.outs.find? fun o => o.1 == port).elim [] Prod.snd

/-- The 1 KiB units of a port's row, a burst for each (R378): of an input its data, and those units of scales that the row before did
not read (R375); of an output those that it writes (log 75). There is always one. -/
def State.rowUnits (s : State) (lat slot : Nat) (t : Stream) (port row : Nat) : List Nat :=
  match SMap.get t.binds port, (s.latSlot lat slot).image with
  | some b, some img =>
    let us := if port < 4 then
        let scales := fun (r : Nat) => if portRaw img port then [] else unitsOf ((rowScales (Walk4.ofBits b.gen) r).map fun a => (a, 1))
        let before := if row = 0 then [] else scales (row - 1)
        match inputUnits img t.ctx port b row s with
        | .ok (us, _) => us.filter fun u => !(before.contains u && (scales row).contains u)
        | .error _ => []
      else unitsOf ((t.outBytes port row).map fun q => (q.1, q.2.length))
    if us.isEmpty then [t.rowVa port row / 1024] else us
  | _, _ => [t.rowVa port row / 1024]

/-- The bursts of a port that are due, by row and number in the row (R450): of an input the next one of each row, once its earlier ones
have landed; of an output each that has not been issued. -/
def State.unitsDue (s : State) (lat slot : Nat) (t : Stream) (port : Nat) : List (Nat × Nat) :=
  (t.rowsDue port).flatMap fun row =>
    let js := (List.range (s.rowUnits lat slot t port row).length).filter fun j => !t.parts.contains (port, row, j)
    ((if port < 4 then js.take 1 else js).filter fun j => !t.issued.contains (port, row, j)).map fun j => (row, j)

/-- A burst is issued, and counts (R393, R451). -/
def Stream.issue (t : Stream) (port row j : Nat) : Stream :=
  let u := { t with issued := t.issued ++ [(port, row, j)] }
  if port < 4 then { u with reads := t.reads + 1 } else { u with writes := t.writes + 1 }

/-- The pseudo-channel of a burst. -/
def State.burstPc (s : State) (lat slot : Nat) (t : Stream) (port row j : Nat) : Option Nat :=
  match SMap.get t.binds port with
  | none => none
  | some b => s.pcOf (streamPa s t.ctx b ((s.rowUnits lat slot t port row).getD j 0 * 1024) (4 ≤ port))

/-- The first burst of a port that is due on a pseudo-channel. -/
def State.dueOn (s : State) (lat slot : Nat) (t : Stream) (port pc : Nat) : Option (Nat × Nat) :=
  (s.unitsDue lat slot t port).find? fun u => s.burstPc lat slot t port u.1 u.2 == some pc

/-- Ports before a port, of its kind. -/
def portsBefore (port : Nat) : List Nat := if port < 4 then List.range port else (List.range port).drop 4

/-- May a burst of a stream start at the pseudo-channel's next slot (R379, R380, R450)? It is the first slot of the window,
and ports go in ascending order. -/
def State.mayBurst (s : State) (lat slot : Nat) (t : Stream) (port pc : Nat) : Bool :=
  let p := s.pcStat pc
  let w := s.window t.ctx pc
  (s.dueOn lat slot t port pc).isSome && p.burst.isNone && p.late == 0 && w.holds p.slot && p.slot == w.start && decide (p.slot ≤ 112)
    && (portsBefore port).all (fun q => (s.dueOn lat slot t q pc).isNone)
    && (w.hard || (match s.slotOwner pc p.slot with
      | none => true
      | some c => !s.wants c pc))

/-- A burst is done: with the last one of its row an input row has landed, and an output row is acknowledged, or its header
written. -/
def Stream.done (t : Stream) (port row j n : Nat) : Stream :=
  let parts := t.parts ++ [(port, row, j)]
  let u := { t with issued := t.issued.filter fun b => b != (port, row, j), parts := parts }
  if (List.range n).any fun i => !parts.contains (port, row, i) then u
  else
    let v := { u with parts := parts.filter fun b => !(b.1 == port && b.2.1 == row) }
    if port < 4 || t.row = t.rows then { v with landed := v.landed ++ [(port, row)] }
    else { v with made := v.made.modify (row - t.row) fun r => { r with acked := r.acked ++ [port] } }

/-- A row in the grid has met a failed request: its later bursts carry poison, and it counts as poisoned (R383). -/
def Stream.failRow (t : Stream) (row code : Nat) : Stream :=
  { t with made := t.made.modify (row - t.row) fun r => { r with err := firstErr r.err code }
           err := if t.row = t.rows then firstErr t.err code else t.err }

/-- Every output atom of a row is written poisoned, as far as it can be written (R383). -/
def spoilRow (t : Stream) (row : Nat) : X Unit :=
  t.binds.forM fun b => if b.1 < 4 then pure () else
    (t.outBytes b.1 row).forM fun q => (pieces 64 q.1 q.2).forM fun r => do
      let _ ← attempt (streamWrite t.ctx b.2 true r)
      pure ()

/-- Write an output burst: the bytes of its row in its unit, poisoned where the row has an error; a failed pool request poisons the row
(R383), and the answer is the error that ends the phase, 0 where none does. -/
def putBurst (t : Stream) (lat slot : Nat) (port row unit : Nat) (b : Binding) : X Nat := do
  let err := ((t.made[row - t.row]?).map RowOut.err).getD 0
  let mine := (t.outBytes port row).flatMap fun q => (pieces 1024 q.1 q.2).filter fun r => r.1 / 1024 == unit
  let w ← attempt (mine.forM (streamWrite t.ctx b (err != 0)))
  match w with
  | .ok _ => pure 0
  | .error e =>
    if e.code = 0x0F then pure 0x0F
    else
      modify fun s => s.onStream lat slot fun t => t.failRow row e.code
      spoilRow t row
      pure 0

/-- The data of a burst is there, or is acknowledged (R377, R383); with its last header the phase is done. One that a row boundary has
discarded is no more. -/
def landBurst (lat slot port row j : Nat) : X Unit := do
  let s ← get
  match (s.latSlot lat slot).stream with
  | none => pure ()
  | some t =>
    let us := s.rowUnits lat slot t port row
    if !t.issued.contains (port, row, j) then pure ()
    else
      let e ← (match SMap.get t.binds port with
        | none => pure 0
        | some b => if port < 4 then pure 0 else putBurst t lat slot port row (us.getD j 0) b)
      if e != 0 then modify fun s => s.endPhase lat slot e
      else
        modify fun s => s.onStream lat slot fun t => t.done port row j us.length
        modify fun s =>
          let last := (s.latSlot lat slot).stream.elim false fun t =>
            decide (4 ≤ port) && t.row == t.rows && t.forms.all fun p => t.landed.contains (p, t.rows)
          if last then s.endPhase lat slot 0 else s

/-- BURST_START (R379, R380, R382, R450): the first burst of the port that may start. On a CXL Lattice the burst's lines
move at once, in no window. -/
def execBurstStart (lat : LatId) (slot : Fin 4) (port : Fin 8) (s : State) : Host.Outcome State Fault Refusal :=
  match (s.latSlot lat.val slot.val).stream with
  | none => .next s
  | some t =>
    let issue := fun (u : Nat × Nat) => s.onStream lat.val slot.val fun v => v.issue port.val u.1 u.2
    if 32 ≤ lat.val then
      match s.unitsDue lat.val slot.val t port.val with
      | [] => .next s
      | u :: _ => partStep (landBurst lat.val slot.val port.val u.1 u.2) (issue u)
    else
      let mine := fun (u : Nat × Nat) => match s.burstPc lat.val slot.val t port.val u.1 u.2 with
        | none => false
        | some pc =>
          let eligible := fun (k : Nat) => match (s.latSlot lat.val k).stream with
            | none => false
            | some v => (List.range 8).any fun p => s.mayBurst lat.val k v p pc
          s.mayBurst lat.val slot.val t port.val pc && (s.slotOrder lat).find? eligible == some slot.val
      match (s.unitsDue lat.val slot.val t port.val).find? mine with
      | none => .next s
      | some u =>
        .next ((issue u).onPc ((s.burstPc lat.val slot.val t port.val u.1 u.2).getD 0) fun p =>
          { p with burst := some (lat.val, slot.val, port.val, u.1, u.2), burstTo := p.slot + 16, waiters := [] })

/-- BURST_END (R379, R380): the waiting owners' requests issue in slot order, and the pseudo-channel is late. -/
def execBurstEnd (pc : PcId) (s : State) : Host.Outcome State Fault Refusal :=
  let p := s.pcStat pc.val
  match p.burst with
  | none => .next s
  | some b =>
    if p.slot < p.burstTo then .next s
    else
      let per := if p.w16 then 4 else 2
      let s1 := p.waiters.foldl (fun t c => (t.issueAtom c pc.val).getD t) s
      let s2 := s1.onPc pc.val fun q => { q with burst := none, waiters := [], late := 8 + per * p.waiters.length }
      partStep (landBurst b.1 b.2.1 b.2.2.1 b.2.2.2.1 b.2.2.2.2) s2

/-! ### Holds, parking, release -/

/-- STREAM_RESUME_FROM_HOLD (R377): every waiting request on the Lattice's pseudo-channels has issued, and a nominal rotation
boundary has passed since. -/
def execStreamResumeFromHold (lat : LatId) (slot : Fin 4) (s : State) : Host.Outcome State Fault Refusal :=
  match (s.latSlot lat.val slot.val).stream with
  | none => .next s
  | some t =>
    if t.state == .held && t.boundary && s.noneWaits lat.val then
      .next (s.onStream lat.val slot.val fun t => { t with state := .running, holdReq := false, boundary := false })
    else .next s

/-- STREAM_PARK (R377, R385): a stream that is to park does so at its row boundary. -/
def execStreamPark (lat : LatId) (slot : Fin 4) (s : State) : Host.Outcome State Fault Refusal :=
  match (s.latSlot lat.val slot.val).stream with
  | none => .next s
  | some t => if (t.parkReq || t.rebindReq) && t.state != .parked then .next (s.atEdge lat.val slot.val) else .next s

/-- Translate a stream's bindings afresh (R385); none where one is no longer stream-capable for the Lattice. -/
def rebind (lat : Nat) (t : Stream) (s : State) : Option (SMap Binding) :=
  let w : Who := ⟨t.ctx, some t.core, none⟩
  t.binds.mapM fun b =>
    match bindCheck w lat b.2.gen (4 ≤ b.1) none s with
    | .ok (x, _) => some (b.1, x)
    | .error _ => none

/-- Does a TLBI that has not retired cover a bound block of a stream (R385)? -/
def Drain.covers (d : Drain) (t : Stream) : Bool :=
  (match d.ctx with
  | none => true
  | some x => t.ctx == x) && t.binds.any fun b =>
    let blk := (Walk4.ofBits b.2.gen).base / 2 ^ 21 * 32
    decide (d.lo < blk + 32) && decide (blk < d.hi)

/-- Does any TLBI that has not retired cover a bound block of a stream? -/
def State.drainCovers (s : State) (t : Stream) : Bool :=
  s.allRoles.any fun r => match r.2.2.drainAt with
    | none => false
    | some d => d.covers t

/-- STREAM_UNPARK (R385): nothing keeps it parked any more. -/
def execStreamUnpark (lat : LatId) (slot : Fin 4) (s : State) : Host.Outcome State Fault Refusal :=
  match (s.latSlot lat.val slot.val).stream with
  | none => .next s
  | some t =>
    if t.state != .parked || t.parkReq || t.taken.isSome || s.drainCovers t then .next s
    else
      match rebind lat.val t s with
      | none => .next (s.endPhase lat.val slot.val 0x09)
      | some bs =>
        let s1 := s.onStream lat.val slot.val fun t =>
          { t with binds := bs, state := if t.wasStopped then .stopped else .running, wasStopped := false, rebindReq := false }
        .next (s1.atEdge lat.val slot.val)

/-- STREAM_RELEASE (R395): a stream that is to be released is, at its row boundary. -/
def execStreamRelease (lat : LatId) (slot : Fin 4) (s : State) : Host.Outcome State Fault Refusal :=
  match (s.latSlot lat.val slot.val).stream with
  | none => .next s
  | some t => if t.relReq then .next (s.atEdge lat.val slot.val) else .next s

/-! ### Assignment of image slots and windows (R369, R378) -/

/-- Give an image slot its new owner and zero it. -/
def State.changeOwner (s : State) (lat slot : Nat) (o : CtxId × Bool) : State :=
  s.onLat lat slot fun l => { l with owner := o.1, valid := o.2, pend := none, image := none, acc := [] }

/-- LATOWN_WRITE (R369). -/
def execLatownWrite (v : Word) (s : State) : Host.Outcome State Fault Refusal :=
  let lat := s.latSel.toNat % 64
  let slot := s.latSel.toNat / 64
  if 40 ≤ lat then .next s
  else
    let o : CtxId × Bool := (Fin.ofNat 16 v.toNat, v.getLsbD 4)
    let l := s.latSlot lat slot
    if o = (l.owner, l.valid) then .next (s.onLat lat slot fun l => { l with pend := none })
    else if l.stream.isSome || s.lsBusy lat slot then .next (s.onLat lat slot fun l => { l with pend := some o })
    else .next (s.changeOwner lat slot o)

/-- LATOWN_CHANGE_APPLY (R369). -/
def execLatownChangeApply (lat : LatId) (slot : Fin 4) (s : State) : Host.Outcome State Fault Refusal :=
  let l := s.latSlot lat.val slot.val
  match l.pend with
  | none => .next s
  | some o => if l.stream.isSome || s.lsBusy lat.val slot.val then .next s else .next (s.changeOwner lat.val slot.val o)

/-- The selectors of a privileged agent: the host's, or those of the role, for each role is an agent of its own (R215, R235). They
start at 0 with the group and go with it (DEDUCED, log 7). -/
def State.priv (s : State) (a : Agent) : PrivRegs :=
  match a with
  | .host => s.hostPriv
  | .role r => (SMap.get s.rolePriv (roleKey r)).getD PrivRegs.fresh
where
  /-- A role as a number. -/
  roleKey (r : RoleId) : Nat := (r.core.val * 4 + r.slot.val) * 3 + (roleIx r.role).val

/-- Does an agent hold system privilege: the host, or a role of a group whose context has SYS (R234)? -/
def State.privileged (s : State) (a : Agent) : Bool :=
  match a with
  | .host => true
  | .role r => (s.group r.core r.slot).elim false fun g => (s.ctx g.ctx).desc.sys

/-- Update the selectors of a privileged agent. -/
def State.onPriv (s : State) (a : Agent) (f : PrivRegs → PrivRegs) : State :=
  match a with
  | .host => { s with hostPriv := f s.hostPriv }
  | .role r => { s with rolePriv := SMap.set s.rolePriv (State.priv.roleKey r) (f (s.priv a)) }

/-- LWIN_WRITE (R378). -/
def execLwinWrite (by_ : Agent) (v : Word) (s : State) : Host.Outcome State Fault Refusal :=
  let lat := s.latSel.toNat % 64
  let start := v.toNat % 128
  let len := v.toNat / 128 % 32
  if !s.privileged by_ ∨ 32 ≤ lat ∨ 16 < len ∨ 128 < start + len then .next s
  else .next (s.setLwin (s.priv by_).ctxsel lat ⟨start, len, v.getLsbD 12, false⟩)

end Sys2Proof.Machine
end

