-- ==== Sys2Proof/Machine/Link.lean ====
section
/-! DEFINITION. Collectives, sends and multicast (R415 to R420), PFLUSH and PINV (R405), and the steps of CXL ports and
Ralkor links (R398, R404, R407 to R413). -/

namespace Sys2Proof.Machine

open Sys2Proof

/-! ### Peer sets -/

/-- A peer set, with the issuing rank (R415); none where the descriptor is refused. -/
def parsePeers (proc : Nat) (ctx : CtxId) (bs : List Byte) : Option PeerSet :=
  let n := leNat ((bs.drop 2).take 1)
  let procs := (bs.drop 8).take 16 |>.map BitVec.toNat
  let ctxs := (bs.drop 24).take 16 |>.map BitVec.toNat
  let pairs := (procs.zip ctxs).take n
  let mine := (List.range n).filter fun r => pairs.getD r (99, 99) == (proc, ctx.val)
  let distinct := (List.range n).all fun i => (List.range n).all fun j => i == j || pairs.getD i (0, 0) != pairs.getD j (0, 0)
  match mine with
  | [r] =>
    if 1 ≤ n ∧ n ≤ 16 ∧ allZero ((bs.drop 3).take 5) ∧ allZero (bs.drop 40) ∧ (procs.drop n).all (· == 0)
        ∧ (ctxs.drop n).all (· == 0) ∧ procs.all (fun p => decide (p < 16)) ∧ ctxs.all (fun c => decide (c < 16)) ∧ distinct then
      some ⟨BitVec.ofNat 16 (leNat (bs.take 2)), procs.take n, ctxs.take n, r⟩
    else none
  | _ => none

/-- Read and check a peer set (R415). -/
def readPeers (p : Nat) : X PeerSet := do
  pointerOk 1 p
  faultIf (p % 64 != 0) 0x04 p
  let m ← me
  let bs ← memReadBytes (← whoami) p 64
  let s ← get
  match parsePeers s.encProc.toNat m.2.1.ctx bs with
  | none => fault 0x01 p
  | some q => pure q

/-- Count a command among those that it matches with; the first is number 0. A CRED (dir 0) counts for its group (R417), a
CSEND or CRECV for its set, ranks and tag (R418). -/
def matchNumber (set_ : PeerSet) (tag : BitVec 32) (peer dir : Nat) : X Nat := do
  let m ← me
  let r := m.2.1.record
  let k : CollKey := ⟨m.2.1.ctx, if dir = 0 then r.launch else 0, if dir = 0 then r.index else 0, set_.id, tag, peer, dir⟩
  let s ← get
  let n := ((s.coll.find? fun e => e.1 == k).map Prod.snd).getD 0
  set { s with coll := (k, n + 1) :: s.coll.filter fun e => e.1 != k }
  pure n

/-- A link command as a copy request. -/
def linkReq (o : EOp) (src dst : Gen) : CopyReq :=
  { kind := 0, ch := o.ch, time := 0, src := src, dst := dst, ef := false, cmp := false, ls := false, lat := 0, islot := 0
    w14 := 0, w15 := 0, first := 0, at_ := 0 }

/-- A generator of the role's group. -/
def genOf (g : GReg) : X Gen := do
  let m ← me
  pure (Walk4.ofBits (vget m.2.1.gens g))

/-- The formats of a collective (R417). -/
def credFmt (c : Nat) : Bool := c == 0 || c == 1 || c == 2 || c == 6 || c == 9

/-- CRED (R417). -/
def execCred (o : EOp) (s : State) : Host.Outcome State Fault Refusal :=
  instr 2 [o.a, o.b] [o.d] (faultIf (2 < o.imm.toNat) 0x01 0) (seqBody fun vs => do
    let m ← me
    let set_ ← readPeers (arg vs 0).toNat
    let g ← genOf o.gs
    let h ← genOf o.gd
    faultIf (!g.valid || !h.valid || g.code != h.code || !credFmt g.code || g.count != h.count || decide (2 ^ 26 < g.count))
      0x01 0
    faultIf (1 < ptrSpace g.base) 0x05 g.base
    faultIf (1 < ptrSpace h.base) 0x05 h.base
    sideSpace m.1.core 1 g
    sideSpace m.1.core 1 h
    faultIf (sameSpace g.range h.range) 0x01 0
    performed
    commandRoom m.1.core false
    aliasCheck { core := m.1.core, slot := m.1.slot } [h.range]
    let tag : BitVec 32 := (arg vs 1).truncate 32
    let n ← matchNumber set_ tag 0 0
    let id ← accept (.cred (Fin.ofNat 3 o.imm.toNat) set_ tag n m.2.1.record.index) (linkReq o g h) none [g.range] [h.range]
    writeDst o.d id) s

/-- The checks that CSEND and CRECV share (R418). -/
def pairChecks (g : Gen) (setAt peer maxSpace : Nat) : X PeerSet := do
  let m ← me
  let set_ ← readPeers setAt
  faultIf (!g.valid || isForm g.code) 0x01 0
  faultIf (set_.procs.length ≤ peer || peer == set_.mine) 0x01 0
  sideSpace m.1.core maxSpace g
  sideRows m.2.1.rows g
  performed
  commandRoom m.1.core false
  pure set_

/-- CSEND (R418). -/
def execCsend (o : EOp) (s : State) : Host.Outcome State Fault Refusal :=
  instr 2 [o.a, o.b, o.c] [o.d] noPre (seqBody fun vs => do
    let g ← genOf o.gs
    let peer := (arg vs 1).toNat
    let set_ ← pairChecks g (arg vs 0).toNat peer 2
    let tag : BitVec 32 := (arg vs 2).truncate 32
    let n ← matchNumber set_ tag peer 1
    let id ← accept (.send set_ peer tag n) (linkReq o g g) none [g.range] []
    writeDst o.d id) s

/-- CRECV (R418). -/
def execCrecv (o : EOp) (s : State) : Host.Outcome State Fault Refusal :=
  instr 2 [o.a, o.b, o.c] [o.d] noPre (seqBody fun vs => do
    let m ← me
    let h ← genOf o.gd
    let peer := (arg vs 1).toNat
    let set_ ← pairChecks h (arg vs 0).toNat peer 3
    aliasCheck { core := m.1.core, slot := m.1.slot } [h.range]
    let tag : BitVec 32 := (arg vs 2).truncate 32
    let n ← matchNumber set_ tag peer 2
    let id ← accept (.recv set_ peer tag n) (linkReq o h h) none [] [h.range]
    (match ((← get).core m.1.core).cmds.getLast? with
    | none => pure ()
    | some k => announce k)
    writeDst o.d id) s

/-- Does a page fail for want of a declared region of its leaf's kind (R401)? -/
def undeclared (w : Who) (p : Nat) : X Bool := do
  let s ← get
  match s.tlbFind w p with
  | some e => pure (!s.regionOk e.leaf p)
  | none => do
    let r ← attempt (do tableRead w.ctx p (← leafAddress w.ctx p))
    match r with
    | .ok f => pure (f % 2 == 1 && !malformed s.srows p f && (s.ctx w.ctx).desc.keys.getLsbD (leafKey f).val && !s.regionOk f p)
    | .error _ => pure false

/-- An address in each page of a range from a first to a last byte. -/
def pagesOf (r : Nat × Nat) : List Nat := (List.range (r.2 / 65536 + 1 - r.1 / 65536)).map fun i => max r.1 ((r.1 / 65536 + i) * 65536)

/-- The declared regions of the pages of a range, each of kind 0b10 in a declared region (R420). A page whose translation or
permission fails otherwise counts for nothing here: the fault is held with the command (R416, R337). -/
def replicatedRange (w : Who) (r : Nat × Nat) : X (List (Nat × Region)) := do
  let rs ← (pagesOf r).mapM fun p => do
    let x ← attempt (translate w p .none)
    let s ← get
    match x with
    | .error _ => do
      faultIf (← undeclared w p) 0x07 p
      pure none
    | .ok t =>
      faultIf (leafKind t.leaf != 2) 0x07 p
      pure (((s.regions.toList.zipIdx.find? fun y => y.1.elim false fun d => d.holds t.pa)).bind fun y =>
        y.1.map fun d => (y.2, d))
  pure (rs.filterMap id)

/-- MCST (R420). -/
def execMcst (o : EOp) (s : State) : Host.Outcome State Fault Refusal :=
  instr 2 [] [o.d] noPre (seqBody fun _ => do
    let m ← me
    let g ← genOf o.gs
    let h ← genOf o.gd
    let q := linkReq o g h
    let _ ← copyChecks q
    faultIf (ptrSpace h.base != 0) 0x05 h.base
    let rs ← replicatedRange (← whoami) h.range
    let s ← get
    faultIf (rs.any fun r => rs.any fun q => r.1 != q.1) 0x07 h.base
    faultIf (rs.any fun r => !s.updates m.2.1.ctx r.2) 0x07 h.base
    performed
    commandRoom m.1.core false
    aliasCheck { core := m.1.core, slot := m.1.slot } [h.range]
    let id ← accept (.mcst (dedup (rs.map Prod.fst))) q none [g.range] [h.range]
    writeDst o.d id) s

/-! ### PFLUSH and PINV (R405) -/

/-- The pages of a range: start of the part inside, and its length. -/
def rangePages (va n : Nat) : List (Nat × Nat) := spans 65536 va n

/-- The physical lines of kind 0b11 pages that a range covers, with their virtual addresses. -/
def flushedLines (w : Who) (va n : Nat) (a : Acc) : X (List (Nat × Nat)) := do
  let lo := va / 64 * 64
  let hi := (va + n + 63) / 64 * 64
  let xs ← (rangePages lo (hi - lo)).mapM fun p => do
    faultIf (p.1 / 2 ^ 55 != 0) 0x05 p.1
    let t ← translate w p.1 a
    pure (if leafKind t.leaf = 3 then (List.range (p.2 / 64)).map fun i => (p.1 + 64 * i, t.pa / 64 + i) else [])
  pure xs.flatten

/-- The checks of R405. -/
def flushChecks (va n : Nat) : X Unit := do
  faultIf (va / 2 ^ 55 != 0) 0x05 va
  faultIf (2 ^ 24 < n) 0x01 0

/-- Write back one line if it is Dirty; one that cannot be written ends the PFLUSH, with the lines before it kept. -/
def flushLine (p : Nat × Nat) : X Unit := do
  let s ← get
  match s.cached p.2 with
  | none => pure ()
  | some l =>
    if !l.dirty then pure ()
    else if s.refuses p.2 || !s.granted (p.2 * 64) then
      throw (.trap { code := 0x13, va := BitVec.ofNat 64 p.1 } (some (s.refused p.2)))
    else set (s.clean l)

/-- PFLUSH (R405): as a release at device scope it waits for the role's earlier accesses. -/
def execPflush (a b : SReg) (s : State) : Host.Outcome State Fault Refusal :=
  instr 1 [a, b] [] noPre (seqBody fun vs => do
    let va := (arg vs 0).toNat
    let n := (arg vs 1).toNat
    flushChecks va n
    if n = 0 then pure ()
    else
      let ls ← flushedLines (← whoami) va n .read
      performed
      ls.forM flushLine) s

/-- PINV (R405): Dirty bytes are lost. -/
def execPinv (a b : SReg) (s : State) : Host.Outcome State Fault Refusal :=
  instr 1 [a, b] [] noPre (seqBody fun vs => do
    let va := (arg vs 0).toNat
    let n := (arg vs 1).toNat
    flushChecks va n
    if n = 0 then pure ()
    else
      let ls ← flushedLines (← whoami) va n .none
      modify fun s => ls.foldl (fun t p => t.uncache p.2) s) s

/-! ### Ports and pool devices -/

/-- Is a line number one of the pool's? -/
def poolLineNo (line : Nat) : Bool := 2 ^ 44 ≤ line * 64 && decide (line * 64 < 2 ^ 44 + 8 * 2 ^ 42)

/-- What a device gives as the content of a line, which its MAC has to fit where it is new (R242). -/
def State.deviceGives (s : State) (l : CacheLine) : State :=
  let t := s.setDeviceLine l
  if s.bytesAt (l.line * 64) 64 = l.data then { t with badMac := s.badMac }
  else if s.macFits l.line l.data then t
  else { t with badMac := l.line :: t.badMac }

/-- A device's content of a line, as it answers (R399): the port caches it Clean, unless it holds newer bytes; one that its MAC does
not fit reads as poisoned (R242). -/
def State.poolFill (s : State) (line : Nat) (d : LineData) : State :=
  let l : CacheLine := ⟨line, (List.range 64).map fun i => d.data.getD i 0, false, d.poisoned, d.code⟩
  if (s.cached line).elim false CacheLine.dirty then s
  else
    let t := s.deviceGives l
    let bad := t.badMac.contains line
    { t.cachePut { l with poisoned := l.poisoned || bad } with macEvents := if bad then t.macEvents + 1 else t.macEvents }

/-- POOL_RESPONSE (R399): what the device holds comes from outside the processor (log 14). -/
def execPoolResponse (line : Nat) (data : List Byte) (poisoned : Bool) (code : BitVec 2) (s : State) :
    Host.Outcome State Fault Refusal :=
  if !poolLineNo line || !s.granted (line * 64) then .next s else .next (s.poolFill line ⟨data, poisoned, code⟩)

/-- A snoop of this processor's copy of a line (R404, R420): a Dirty copy is written back, and dropped where the line is wanted
for writing. -/
def State.snoop (s : State) (line : Nat) (forWrite : Bool) : State :=
  if s.unsnooped line then s
  else
    match s.cached line with
    | none => s
    | some l =>
      let s1 := if l.dirty then s.writeBack l else s
      if forWrite then s1.uncache line else s1.editLine line fun x => { x with dirty := false }

/-- BACK_INVALIDATION_SNOOP (R404, R409): of the own copy, and sent on to the neighbours that hold the line. -/
def execBackInvalidationSnoop (line : Nat) (forWrite : Bool) (s : State) : Host.Outcome State Fault Refusal :=
  if poolLineNo line then .next ((s.snoop line forWrite).forwardSnoop line 16 forWrite) else .next s

/-- The chunks of copies that have requests outstanding on a port (R408): what they read there is lost, what they write there is
old or new. -/
def State.cutRequests (s : State) (p : Fin 8) : State :=
  { s with cores := s.cores.map fun k => { k with cmds := k.cmds.map fun c =>
      match c.st with
      | .reading _ _ _ | .writing _ _ _ => { c with down := p.val :: c.down }
      | .queued | .following | .faulted _ _ _ | .exchanging _ _ | .done => c } }

/-- Mark a head down (R408): requests outstanding on it end; Dirty lines go through the proxy, or are dropped and counted. -/
def State.markDown (s : State) (p : Fin 8) : State :=
  let s1 := { s.cutRequests p with heads := vset s.heads p { vget s.heads p with up := false } }
  (vget s.heads p).cache.foldl (fun t l =>
    if !l.dirty then t
    else if t.refuses l.line then (t.writeBack l).uncache l.line
    else t.clean l) s1

/-- HEAD_RETRAIN_FAILURE (R408): the port has failed to retrain in three successive attempts. -/
def execHeadRetrainFailure (port : PortId) (s : State) : Host.Outcome State Fault Refusal :=
  .next (if (vget s.heads port).up then s.markDown port else s)

/-! ### Dynamic capacity (R407) -/

/-- Update an extent. -/
def State.onExtent (s : State) (id : Nat) (f : Extent → Extent) : State :=
  { s with extents := s.extents.map fun e => if e.id = id then f e else e }

/-- An extent by its id. -/
def State.extent (s : State) (id : Nat) : Option Extent := s.extents.find? fun e => e.id == id

/-- DC_OFFER (R407): the controller starts zeroing. -/
def execDcOffer (id base size : Nat) (s : State) : Host.Outcome State Fault Refusal :=
  if (s.extent id).isSome || !poolLineNo (base / 64) || (size != 0 && !poolLineNo ((base + size - 1) / 64)) then .next s
  else .next { s with extents := s.extents ++ [⟨id, base, size, .zeroing⟩] }

/-- Write zeros over a physical range, with poison, side-band codes and key marks cleared. -/
def State.zeroRange (s : State) (pa n : Nat) : State :=
  let out := fun (k : Nat) => decide (k < pa) || decide (pa + n ≤ k)
  { s.clearRange pa n with
           poison := s.poison.filter fun g => out (g * 64)
           decayed := s.decayed.filter fun g => out (g * 64)
           badMac := s.badMac.filter fun g => out (g * 64)
           keyTag := s.keyTag.filter fun e => out (e.1 * 64)
           sizeCode := s.sizeCode.filter fun e => out (e.1 * 256) }

/-- Fresh metadata for the pages of an extent that lie in a declared region (R242, R407, log 11). -/
def State.freshMeta (s : State) (base size : Nat) : State :=
  (List.range (size / 4096)).foldl (fun t i =>
    let pa := base + 4096 * i
    match t.regionAt pa with
    | none => t
    | some (_, r) =>
      let blk := metaBlock r pa
      (List.range 64).foldl (fun u l => u.putMac none blk l (pa / 64 + l)) (t.zeroRange blk 512)) s

/-- DC_ZEROING_COMPLETE (R407): the extent is offered. -/
def execDcZeroingComplete (id : Nat) (s : State) : Host.Outcome State Fault Refusal :=
  match s.extent id with
  | none => .next s
  | some e =>
    if e.state != .zeroing then .next s
    else .next (((s.zeroRange e.base e.size).freshMeta e.base e.size).onExtent id fun e => { e with state := .offered })

/-- DC_REVOKE_REQUEST (R407). -/
def execDcRevokeRequest (id : Nat) (s : State) : Host.Outcome State Fault Refusal :=
  .next (s.onExtent id fun e => if e.state == .granted then { e with state := .revoking } else e)

/-! ### Links (R411, R413) -/

/-- Update a link. -/
def State.onLink (s : State) (i : PortId) (f : Link → Link) : State := { s with links := vset s.links i (f (vget s.links i)) }

/-- Count a flit that a link has accepted. -/
def Link.took (l : Link) : Link := { l with seqIn := l.seqIn + 1 }

/-- FLIT_MESSAGE_DATA (R411, R412, R415): a message for another processor goes on over this one's links. -/
def execFlitMessageData (link : PortId) (m : Message) (s : State) : Host.Outcome State Fault Refusal :=
  if !(vget s.links link).carries then .next s else .next ((s.onLink link Link.took).post m)

/-- FLIT_CREDIT (R411): what has waited for it goes out. -/
def execFlitCredit (link : PortId) (vc : Fin 4) (n : Nat) (s : State) : Host.Outcome State Fault Refusal :=
  if !(vget s.links link).carries then .next s
  else
    let s1 := s.onLink link fun l => { l.took with credits := vset l.credits vc (vget l.credits vc + n) }
    .next (s1.pump link vc (s1.txWait.length + 1))

/-- The line that an own read has asked other holders about is fetched into the port cache (R398, R404). -/
def State.ownFill (s : State) (line : Nat) : State :=
  if (s.cached line).isSome then s
  else
    let d := s.deviceLine ((SMap.get s.keyTag line).getD none) line
    s.cachePut ⟨line, d.1, false, d.2, (SMap.get s.sizeCode (line / 4)).getD 0⟩

/-- What a proxied request does once no other neighbour is asked about its line: it is issued through this processor's head and
answered, and the line is not cached here (R409); an own read that has waited so is served. -/
def State.proxyIssue (s : State) (w : ProxyWait) : State :=
  if w.proc = s.encProc.toNat then s.ownFill w.line
  else
  let s1 := s.snoop w.line w.store.isSome
  let s2 := { s1 with proxied := (w.proc, w.line) :: s1.proxied.filter fun p => p != (w.proc, w.line) }
  match w.store with
  | none =>
    let code : BitVec 2 := (SMap.get s2.sizeCode (w.line / 4)).getD 0
    s2.transmit w.link (.answer w.line (some ⟨s2.bytesAt (w.line * 64) 64, s2.isPoison w.line, code⟩))
  | some d =>
    (s2.setDeviceLine ⟨w.line, (List.range 64).map fun i => d.data.getD i 0, false, d.poisoned, d.code⟩).transmit w.link
      (.answer w.line (some ⟨[], false, 0⟩))

/-- Issue the proxied requests of a line, oldest first, once no answer about it is awaited; the next one asks the neighbours
that hold the line then (R409). -/
def State.proxyGo (s : State) (line : Nat) : Nat → State
  | 0 => s
  | f + 1 =>
    if s.snoopWait.any fun w => w.2.1 == line then s
    else
      match s.proxyWait.find? fun w => w.line == line with
      | none => s
      | some w =>
        let s1 := ({ s with proxyWait := s.proxyWait.erase w } : State).proxyIssue w
        match s1.proxyWait.find? fun w => w.line == line with
        | none => s1
        | some v => (s1.forwardSnoop line v.proc v.store.isSome).proxyGo line f

/-- FLIT_PROXY_REQUEST (R409): other neighbours that hold the line are asked first; a head that is down refuses. -/
def execFlitProxyRequest (link : PortId) (src : Fin 16) (line : Nat) (store : Option LineData) (s : State) :
    Host.Outcome State Fault Refusal :=
  if !(vget s.links link).carries || !poolLineNo line then .next s
  else
    let s1 := s.onLink link Link.took
    if !(vget s.heads (portOf line)).up then .next (s1.transmit link (.answer line none))
    else
      let w : ProxyWait := ⟨link, src.val, line, store⟩
      let s2 := if s1.proxyWait.any fun w => w.line == line then s1 else s1.forwardSnoop line src.val store.isSome
      let s3 := { s2 with proxyWait := s2.proxyWait ++ [w] }
      .next (s3.proxyGo line s3.proxyWait.length)

/-- The answer of a neighbour to a snoop that was sent on to it: its newer content goes to the device, and a line wanted for
writing is no longer its own (R409). -/
def State.snoopAnswered (s : State) (w : Nat × Nat × Bool) (data : Option LineData) : State :=
  let s1 := { s with snoopWait := s.snoopWait.erase w
                     proxied := if w.2.2 then s.proxied.filter fun p => p != (w.1, w.2.1) else s.proxied }
  let s2 := match data with
    | some d => if d.data.isEmpty then s1
        else s1.setDeviceLine ⟨w.2.1, (List.range 64).map fun i => d.data.getD i 0, false, d.poisoned, d.code⟩
    | none => s1
  s2.proxyGo w.2.1 s2.proxyWait.length

/-- FLIT_PROXY_RESPONSE (R409): the answer to a snoop that was sent on, or to an own request over the proxy. That fills the port
cache; a refusal ends the request with 0x13. -/
def execFlitProxyResponse (link : PortId) (line : Nat) (data : Option LineData) (s : State) :
    Host.Outcome State Fault Refusal :=
  if !(vget s.links link).carries || !poolLineNo line then .next s
  else
    let s1 := s.onLink link Link.took
    match s.snoopWait.find? fun w => w.2.1 == line && (s.linkTo w.1 0).val / 2 == link.val / 2 with
    | some w => .next (s1.snoopAnswered w data)
    | none =>
      if (vget s.heads (portOf line)).up then .next s1
      else
        match data with
        | none => .next (if s1.refusedLines.contains line then s1 else { s1 with refusedLines := line :: s1.refusedLines })
        | some d => .next (if d.data.isEmpty || !s1.granted (line * 64) then s1 else s1.poolFill line d)

/-- FLIT_SNOOP (R409): a snoop that the proxy has sent on; the answer carries a Dirty line. -/
def execFlitSnoop (link : PortId) (line : Nat) (forWrite : Bool) (s : State) : Host.Outcome State Fault Refusal :=
  if !(vget s.links link).carries || !poolLineNo line then .next s
  else
    let newer := if s.unsnooped line then none else (s.cached line).filter CacheLine.dirty
    .next (((s.onLink link Link.took).snoop line forWrite).transmit link
      (.answer line (some (newer.elim ⟨[], false, 0⟩ fun l => ⟨l.data, l.poisoned, l.code⟩))))

/-- Cycles that a hop adds to a flit's way (R412). -/
def hopCycles : Nat := 180

/-- ETOFF by the time flit of a neighbour: its enclosure time now is the one that it sent and the hop's cycles (R412, R413). -/
def State.etoffBy (s : State) (peerTime : Word) : Word := peerTime + BitVec.ofNat 64 hopCycles - s.cycle

/-- Do two enclosure times agree: do they differ by at most 2 (R413)? -/
def sameTime (a b : Word) : Bool := decide ((a - b).toNat ≤ 2) || decide ((b - a).toNat ≤ 2)

/-- FLIT_TIME (R413): a part takes the enclosure time of a neighbour with a lower number, where its own differs from it, so that two
parts which train at once come to one time (DESIGN CHOICE, log 51). Once all agree ETOFF stays until a retraining. -/
def execFlitTime (link : PortId) (peerTime : Word) (s : State) : Host.Outcome State Fault Refusal :=
  if !(vget s.links link).carries then .next s
  else
    let lower := decide (linkPeer s.encSize.toNat s.encProc.toNat link.val < s.encProc.toNat)
    let agree := sameTime (s.etoffBy peerTime) s.etoff
    let s1 := s.onLink link Link.took
    .next (if lower && !agree then { s1 with etoff := s.etoffBy peerTime } else s1)

/-- Cycles between two exchanges of time flits (R413). -/
def timePeriod : Nat := 2 ^ 20

/-- Is an exchange of time flits due? -/
def State.timeDue (s : State) : Bool := decide (s.exchanges < s.cycle.toNat / timePeriod)

/-- TIME_FLIT_EXCHANGE (R413): every 2^20 cycles each link that carries traffic sends its enclosure time. -/
def execTimeFlitExchange (s : State) : Host.Outcome State Fault Refusal :=
  if !s.timeDue then .next s
  else .next ((List.finRange 8).foldl (fun t i =>
    if (vget t.links i).carries then t.transmit i (.time (t.cycle + t.etoff)) else t)
      { s with exchanges := s.cycle.toNat / timePeriod })

/-- A link trained afresh (R411, R413). -/
def Link.retrain (l : Link) (now : Nat) : Link :=
  { l with trained := true, training := false, seqIn := 0, seqOut := 0, replays := 0, since := now }

/-- Send what waits on every virtual channel of a link. -/
def State.pumpAll (s : State) (i : Fin 8) : State :=
  (List.finRange 4).foldl (fun t vc => t.pump i vc (t.txWait.length + 1)) s

/-- Begin to retrain a link: its traffic moves to the other link of its pair (R411). -/
def State.beginTraining (s : State) (i : Fin 8) : State :=
  let s1 := s.onLink i fun l => { l with training := true }
  if !(vget s1.links (otherLink i)).carries then s1
  else
    let moved := s1.txWait.map fun (w : TxWait) => if w.link = i then { w with link := otherLink i } else w
    ({ s1 with txWait := moved } : State).pumpAll (otherLink i)

/-- End the training of a link. -/
def State.endTraining (s : State) (i : Fin 8) : State := (s.onLink i fun l => l.retrain s.cycle.toNat).pumpAll i

/-- Cycles in a millisecond. -/
def millisecond : Nat := 1200000

/-- FLIT_CRC_FAILURE (R411): the flit is replayed from the sender's buffer. -/
def execFlitCrcFailure (link : PortId) (s : State) : Host.Outcome State Fault Refusal :=
  .next (s.onLink link fun l =>
    if l.since + millisecond ≤ s.cycle.toNat then { l with replays := 1, since := s.cycle.toNat }
    else { l with replays := l.replays + 1 })

/-- LINK_REPLAY_RETRAIN (R411): a link with more than 1,024 replays in a millisecond is retrained; then its training ends. -/
def execLinkReplayRetrain (link : PortId) (s : State) : Host.Outcome State Fault Refusal :=
  let l := vget s.links link
  if l.training then .next (s.endTraining link)
  else if 1024 < l.replays && decide (s.cycle.toNat < l.since + millisecond) then .next (s.beginTraining link)
  else .next s

/-- FLIT_RESERVED_TYPE (R411): dropped and counted. -/
def execFlitReservedType (link : PortId) (ty : Byte) (s : State) : Host.Outcome State Fault Refusal :=
  if ty.toNat < 7 then .next s
  else .next { s.onLink link Link.took with dropped := s.dropped + 1 }

end Sys2Proof.Machine
end

