-- ==== Sys2Proof/Machine/Levels.lean ====
section
/-! DEFINITION. The level table (R250, R251), continuation records and ready queues (R263 to R266), and what CANCEL does
to a level (R257). The part writes its structures under the primary key (R456). -/

namespace Sys2Proof.Machine

open Sys2Proof

/-! ### The level table -/

/-- STATE of an entry (R250). -/
def LevelState.code : LevelState → Nat
  | .free => 0 | .active => 1 | .done => 2 | .cancelled => 3

/-- The 32 bytes of an entry (R250). -/
def Level.bytes (l : Level) : List Byte :=
  [BitVec.ofNat 8 l.kind, BitVec.ofNat 8 l.state.code, if l.isOpen then 1 else 0, 0] ++ leBytes 4 l.gen.toNat
    ++ leBytes 4 l.parent ++ leBytes 4 l.count ++ leBytes 8 l.done ++ leBytes 4 l.out ++ leBytes 4 0

/-- The handle of an entry (R250). -/
def levelHandle (i : Nat) (l : Level) : Nat := i + 4096 * l.gen.toNat

/-- Change an entry on chip and in memory (R250). -/
def putLevel (x : CtxId) (i : Nat) (l : Level) : X Unit := do
  modify fun s => s.onCtx x fun c => { c with levels := c.levels.set i l }
  let s ← get
  let c := s.ctx x
  rawWrite (s.keyOf c.desc.key) (c.desc.levelt + 32 * i) (c.desc.levelt + 32 * i) l.bytes

/-- An entry that is free, of a generation. -/
def Level.freed (gen : BitVec 20) : Level :=
  { kind := 0, state := .free, isOpen := false, gen := gen, parent := 0, count := 0, done := 0, out := 0, desc := none
    header := none, node := none }

/-- The entries whose parent is a handle, in ascending index. -/
def Context.childrenOf (c : Context) (h : Nat) : List (Nat × Level) :=
  c.levels.filter fun p => h != 0 && p.2.state != .free && p.2.parent == h

/-- Free the entries below a handle, each with a new generation (R251). Levels nest four deep at most. -/
def freeBelow (x : CtxId) : Nat → Nat → X Unit
  | 0, _ => pure ()
  | f + 1, h => do
    (((← get).ctx x).childrenOf h).forM fun p => do
      freeBelow x f (levelHandle p.1 p.2)
      putLevel x p.1 (Level.freed (p.2.gen + 1))

/-- A level is complete when nothing is active below it and nothing more may be added (R251). -/
def Level.complete (l : Level) : Bool := l.state == .active && !l.isOpen && l.out == 0

/-- Complete a level where it is due; `up` counts it at its parent. -/
def settleWith (up : Nat → X Unit) (x : CtxId) (i : Nat) : X Unit := do
  match SMap.get ((← get).ctx x).levels i with
  | none => pure ()
  | some l =>
    if l.complete then
      putLevel x i { l with state := .done, node := none }
      freeBelow x 4 (levelHandle i l)
      if l.parent = 0 then pure () else up l.parent
    else pure ()

/-- A child of an active level has completed (R251, R252); a level that is not active does not count. -/
def childDone (x : CtxId) : Nat → Nat → X Unit
  | 0, _ => pure ()
  | f + 1, h => do
    match ((← get).ctx x).level h with
    | none => pure ()
    | some l =>
      if l.state != .active then pure ()
      else
        putLevel x (h % 4096) { l with out := l.out - 1, done := l.done + 1 }
        settleWith (childDone x f) x (h % 4096)

/-- Complete a level where it is due (R251). -/
def settle (x : CtxId) (i : Nat) : X Unit := settleWith (childDone x 5) x i

/-- A group of a launch, or a record that one spawned, has ended (R251). -/
def groupDone (x : CtxId) (launch : Nat) : X Unit := childDone x 5 launch

/-- Is the launch that a handle names over, or can there be none: its entry has gone on to a later generation, or holds under this one
something that is no active launch (R250, R251)? One that has not begun yet is not over. -/
def Context.launchOver (c : Context) (h : Nat) : Bool :=
  h % 4096 == 0 || 2 ^ 32 ≤ h || (SMap.get c.levels (h % 4096)).any fun l =>
    decide (h / 4096 < l.gen.toNat) || (l.gen.toNat == h / 4096 && l.state != .free && !(l.state == .active && l.kind == 1))

/-- The active launch that a handle names. -/
def Context.activeLaunch (c : Context) (h : Nat) : Option Level :=
  match c.level h with
  | none => none
  | some l => if l.state == .active && l.kind == 1 then some l else none

/-! ### Records -/

/-- Fields of FLAGS (R263). -/
def Record.prio (r : Record) : Fin 4 := Fin.ofNat 4 r.flags
/-- PJ. -/
def Record.pj (r : Record) : Bool := r.flags / 4 % 2 == 1
/-- CKPT. -/
def Record.ckpt (r : Record) : Bool := r.flags / 8 % 2 == 1
/-- CLU. -/
def Record.clu (r : Record) : Bool := r.flags / 16 % 2 == 1

/-- FLAGS from its fields. -/
def recordFlags (prio : Nat) (pj ckpt clu : Bool) : Nat :=
  prio % 4 + (if pj then 4 else 0) + (if ckpt then 8 else 0) + (if clu then 16 else 0)

/-- The 32 bytes of a record (R263). -/
def Record.bytes (r : Record) : List Byte :=
  leBytes 8 r.code ++ leBytes 8 r.frame ++ leBytes 4 r.join ++ leBytes 4 r.index ++ leBytes 4 r.launch ++ leBytes 4 r.flags

/-- The record in 32 bytes. -/
def Record.ofBytes (b : List Byte) : Record :=
  { code := leNat (b.take 8), frame := leNat ((b.drop 8).take 8), join := leNat ((b.drop 16).take 4)
    index := leNat ((b.drop 20).take 4), launch := leNat ((b.drop 24).take 4), flags := leNat ((b.drop 28).take 4) }

/-! ### Ready queues -/

/-- Places of a ring (R265). -/
def ringSize : Nat := 8192

/-- Write a record into a ring (R265); a cursor writes nothing. -/
def ringWrite (x : CtxId) (prio : Fin 4) (at_ : Nat) (it : ReadyItem) : X Unit :=
  match it with
  | .cursor _ _ => pure ()
  | .record r => do
    let s ← get
    let c := s.ctx x
    let pa := c.desc.levelt + 0x20000 + 0x40000 * prio.val + 32 * (at_ % ringSize)
    rawWrite (s.keyOf c.desc.key) pa pa r.bytes

/-- A ready queue. -/
def State.readyQ (s : State) (x : CtxId) (prio : Fin 4) : ReadyQueue := vget (s.ctx x).ready prio

/-- Replace a ready queue. -/
def State.setReady (s : State) (x : CtxId) (prio : Fin 4) (q : ReadyQueue) : State :=
  s.onCtx x fun c => { c with ready := vset c.ready prio q }

/-- Push at the tail; waits while the ring is full (R265, R266). -/
def pushTail (x : CtxId) (prio : Fin 4) (it : ReadyItem) : X Unit := do
  let q := (← get).readyQ x prio
  waitIf (ringSize ≤ q.items.length)
  ringWrite x prio q.tail it
  modify fun s => s.setReady x prio { q with items := q.items ++ [it], tail := (q.tail + 1) % ringSize }

/-- Push at the head; waits while the ring is full (R265, R266). -/
def pushHead (x : CtxId) (prio : Fin 4) (it : ReadyItem) : X Unit := do
  let q := (← get).readyQ x prio
  waitIf (ringSize ≤ q.items.length)
  let h := (q.head + ringSize - 1) % ringSize
  ringWrite x prio h it
  modify fun s => s.setReady x prio { q with items := it :: q.items, head := h }

/-- Push a record. While the context drains nothing is pushed (R236); a record of a launch that is no longer active has
no kernel header, and is not pushed either (log 20). -/
def pushRecord (x : CtxId) (r : Record) (atHead : Bool) : X Unit := do
  let c := (← get).ctx x
  if c.state == .draining || (c.activeLaunch r.launch).isNone then pure ()
  else if atHead then pushHead x r.prio (.record r)
  else pushTail x r.prio (.record r)

/-- The launch of an item. -/
def ReadyItem.launch : ReadyItem → Nat
  | .cursor l _ => l
  | .record r => r.launch

/-- Keep some items of every ready queue, the ring rewritten from its head. -/
def keepReady (x : CtxId) (keep : ReadyItem → Bool) : X Unit :=
  (List.finRange 4).forM fun p => do
    let q := (← get).readyQ x p
    let items := q.items.filter keep
    if items.length = q.items.length then pure ()
    else
      items.zipIdx.forM fun it => ringWrite x p (q.head + it.2) it.1
      modify fun s => (s.setReady x p { q with items := items, tail := (q.head + items.length) % ringSize }).onCtx x fun c =>
        { c with reserved := c.reserved.filter fun r => !(q.items.contains r.item && !items.contains r.item) }

/-! ### CANCEL -/

/-- Kill the groups of a launch (R257): a kill that would have re-queued its record does not. -/
def State.killLaunch (s : State) (x : CtxId) (launch : Nat) : State :=
  s.onGroupsOf x fun g =>
    if g.record.launch != launch then g
    else
      match g.state with
      | .dying _ e _ => { g with state := .dying false e true }
      | .starting | .running | .draining | .marked _ | .saving _ _ | .restoring _ _ | .replaying _ _ _ =>
        { g with state := .dying false false true }

/-- Cancel an entry that is active, with its active descendants before it (R257). The entry's own parent is not told. -/
def cancelTree (x : CtxId) : Nat → Nat → X Unit
  | 0, _ => pure ()
  | f + 1, i => do
    match SMap.get ((← get).ctx x).levels i with
    | none => pure ()
    | some l =>
      if l.state != .active then pure ()
      else
        (((← get).ctx x).childrenOf (levelHandle i l)).forM fun p =>
          if p.2.state != .active then pure ()
          else do
            cancelTree x f p.1
            match SMap.get ((← get).ctx x).levels i with
            | none => pure ()
            | some k => putLevel x i { k with out := k.out - 1, done := k.done + 1 }
        match SMap.get ((← get).ctx x).levels i with
        | none => pure ()
        | some k => putLevel x i { k with state := .cancelled, isOpen := false, node := none }
        if l.kind = 1 then
          keepReady x fun it => it.launch != levelHandle i l
          modify fun s => s.killLaunch x (levelHandle i l)
        else pure ()

/-- CANCEL of a handle (R257). -/
def cancelLevel (x : CtxId) (h : Nat) : X Unit := do
  match ((← get).ctx x).level h with
  | none => pure ()
  | some l =>
    if l.state == .active then
      cancelTree x 5 (h % 4096)
      if l.parent = 0 then pure () else childDone x 5 l.parent
    else if l.parent = 0 then
      freeBelow x 4 h
      putLevel x (h % 4096) (Level.freed (l.gen + 1))
    else pure ()

/-- Cancel every active level of a context, children before parents (R236, R434). -/
def cancelAll (x : CtxId) : X Unit := do
  (((← get).ctx x).levels.filter fun p => p.2.state == .active && p.2.parent == 0).forM fun p => cancelTree x 5 p.1

end Sys2Proof.Machine
end

