-- ==== Sys2Proof/Machine/Kernel.lean ====
section
/-! DEFINITION. Launches (R249, R253 to R256), CANCEL and WAITL (R257, R258), SPAWN (R276), and the graph evaluator (R259
to R261). -/

namespace Sys2Proof.Machine

open Sys2Proof

/-! ### Descriptors and headers -/

/-- A field of n bytes at an offset. -/
def fieldAt (b : List Byte) (off n : Nat) : Nat := leNat ((b.drop off).take n)

/-- A launch descriptor (R253); none where a reserved field, or one that its kind gives as zero, is not zero. -/
def parseDesc (b : List Byte) : Option LaunchDesc :=
  let f := fieldAt b
  let kind := f 0 1
  let ok := f 0 1 < 4 && decide (f 1 1 < 4) && decide (f 2 1 < 2) && f 3 1 == 0 && allZero (b.drop 40)
    && (kind < 2 || f 8 8 == 0) && (kind == 0 || allZero ((b.drop 16).take 24))
  if ok then some ⟨kind, f 1 1, f 2 1 == 1, f 4 4, f 8 8, f 16 8, f 24 8, f 32 4, f 36 4⟩ else none

/-- A kernel header (R249); none where MAGIC, LEVEL, a reserved field, or YIELDS against YIELDMAX is wrong. -/
def parseHeader (b : List Byte) : Option Header :=
  let f := fieldAt b
  let flags := f 4 4
  let ok := f 0 2 == 0x4B44 && f 2 1 == 1 && f 3 1 == 0 && decide (flags < 8) && allZero (b.drop 28)
    && (nbits flags 2 1 == 1) == (f 20 4 != 0)
  if ok then
    some { restartable := nbits flags 0 1 == 1, cluster := nbits flags 1 1 == 1, yields := nbits flags 2 1 == 1
           entry := signedOf 32 (f 8 4), accu := f 12 1, spu := f 13 1, bars := f 14 1, dttu := f 15 1
           estimate := f 16 4, yieldmax := f 20 4 }
  else none

/-- Units per slice that a context owns (R238). -/
def Desc.unitCount (d : Desc) : Nat := ((List.range 48).filter d.units.getLsbD).length

/-- Has a cluster all four cores owned (R254)? -/
def Desc.hasCluster (d : Desc) : Bool :=
  (List.range 32).any fun k => (List.range 4).all fun q => d.cores.getLsbD (4 * k + q)

/-- Can the groups of a header ever be dispatched (R254)? -/
def headerFits (d : Desc) (h : Header) : Bool :=
  h.accu != 0 && decide (h.accu ≤ 32) && decide (h.spu ≤ d.unitCount) && decide (h.bars ≤ 16) && decide (h.dttu ≤ 16)
    && (!h.cluster || d.hasCluster)

/-- The header of a kernel launch, checked (R254). -/
def launchHeader (w : Who) (p : Nat) (d : LaunchDesc) : X Header := do
  faultIf (ptrSpace d.target != 0) 0x05 d.target
  faultIf (d.target % 64 != 0) 0x04 d.target
  let b ← memReadBytes w d.target 64
  match parseHeader b with
  | none => fault 0x01 d.target
  | some h =>
    faultIf (d.count == 0 || (h.cluster && d.count % 4 != 0)) 0x01 p
    let s ← get
    faultIf (!headerFits (s.ctx w.ctx).desc h) 0x14 d.target
    pure h

/-- The first free entry of the level table, and its next generation (R250). -/
def Context.freeEntry (c : Context) : Option (Nat × BitVec 20) :=
  (List.range 4095).findSome? fun j =>
    match SMap.get c.levels (j + 1) with
    | none => some (j + 1, 0)
    | some l => if l.state == .free then some (j + 1, l.gen) else none

/-- May a level be added below a parent (R253, R254)? -/
def Context.parentOk (c : Context) (parent kind : Nat) : Bool :=
  parent == 0 || (match c.level parent with
    | none => false
    | some l => l.state == .active && l.isOpen && decide (kind < l.kind))

/-- Does the launch unit refuse everything (R254, R255)? -/
def Context.refuses (c : Context) : Bool :=
  match c.state with
  | .draining | .scrubbing | .free | .created => true
  | .loaded | .running | .suspended => false

/-- Add a child to a parent; LAST closes it (R251, R262). -/
def addChild (x : CtxId) (parent : Nat) (last : Bool) : X Unit := do
  if parent = 0 then pure ()
  else
    match SMap.get ((← get).ctx x).levels (parent % 4096) with
    | none => pure ()
    | some l => putLevel x (parent % 4096) { l with out := l.out + 1, isOpen := l.isOpen && !last }

/-- A launch becomes eligible (R256): every core's line buffer drops the context's entries (R60, R457). -/
def State.dropLines (s : State) (x : CtxId) : State :=
  { s with cores := s.cores.map fun k => { k with lines := k.lines.filter fun e => e.ctx != x } }

/-- Enter a level (R254): its handle, or 0 where it is refused. -/
def enterLevel (x : CtxId) (core : Option CoreId) (d : LaunchDesc) (h : Option Header) : X Nat := do
  let c := (← get).ctx x
  if c.refuses || !c.parentOk d.parent (d.kind + 1) then pure 0
  else
    match c.freeEntry with
    | none => throw .wait
    | some (i, gen) =>
      let l : Level :=
        { kind := d.kind + 1, state := .active, isOpen := d.kind != 0, gen := gen, parent := d.parent, count := d.count
          done := 0, out := if d.kind = 0 then d.count else 0, desc := some d, header := h
          node := if d.kind = 1 then some (BitVec.ofNat 64 d.target) else none }
      putLevel x i l
      addChild x d.parent d.last
      (if d.kind = 0 then do
        logEvent x 0 core (levelHandle i l) d.count
        pushTail x (Fin.ofNat 4 d.prio) (.cursor (levelHandle i l) 0)
        modify fun s => s.dropLines x
      else pure ())
      pure (levelHandle i l)

/-- The descriptor at a pointer, checked (R254). -/
def readDesc (w : Who) (p : Nat) : X LaunchDesc := do
  lowSpace p
  faultIf (p % 64 != 0) 0x04 p
  let b ← memReadBytes w p 64
  match parseDesc b with
  | none => fault 0x01 p
  | some d => pure d

/-- LAUNCH of the descriptor at a pointer (R254). -/
def launchAt (w : Who) (p : Nat) : X Nat := do
  let d ← readDesc w p
  let h ← if d.kind = 0 then (do let h ← launchHeader w p d; pure (some h)) else pure none
  faultIf (d.kind == 1 && (ptrSpace d.target != 0 || d.target % 32 != 0)) 0x05 d.target
  enterLevel w.ctx w.core d h

/-- LAUNCH (R254). -/
def execLaunch (d a : SReg) (s : State) : Host.Outcome State Fault Refusal :=
  instr 2 [a] [d] noPre (seqBody fun vs => do
    let h ← launchAt (← whoami) (arg vs 0).toNat
    writeDst d (BitVec.ofNat 64 h)) s

/-- Run the host launch of a context that is in progress; one that waits for an entry stays in progress (R255). -/
def State.hostLaunchStep (s : State) (x : CtxId) : Host.Outcome State Fault Refusal :=
  let answer := fun (t : State) (v : Word) => t.onCtx x fun c => { c with hostResult := v, hostPending := c.hostPending.drop 1 }
  match (s.ctx x).hostPending with
  | [] => .next s
  | desc :: _ =>
    if (s.ctx x).state == .free || (s.ctx x).state == .created then .next (answer s 0)
    else
      match launchAt ⟨x, none, none⟩ desc.toNat s with
      | .ok (h, t) => .next (answer t (BitVec.ofNat 64 h))
      | .error (.trap t keep) => .next (answer (keep.getD s) (BitVec.ofNat 64 (2 ^ 63 + t.code)))
      | .error .wait => .next s
      | .error (.ask f) => .next (f s)
      | .error (.halt f) => .fault f

/-- HOST_LAUNCH (R255): a write of the host to +0 of the launch window, or the part's next try at the launch in progress. A write
that arrives while one is in progress waits behind it. -/
def execHostLaunch (x : CtxId) (desc : Option Word) (s : State) : Host.Outcome State Fault Refusal :=
  match desc with
  | none => s.hostLaunchStep x
  | some d =>
    let s1 := s.onCtx x fun c => { c with hostPending := c.hostPending ++ [d] }
    if (s.ctx x).hostPending.isEmpty then s1.hostLaunchStep x else .next s1

/-- What the host reads in the launch window of a context (R255). -/
def State.launchWindow (s : State) (x : CtxId) (off : Nat) : Word :=
  if off = 8 then (s.ctx x).hostResult else if off = 16 then (s.ctx x).apBase else 0

/-! ### CANCEL, WAITL, SPAWN -/

/-- A handle operand: bits [63:32] are zero (R257). -/
def handleArg (v : Word) : X Nat := do
  faultIf (2 ^ 32 ≤ v.toNat) 0x01 0
  pure v.toNat

/-- CANCEL (R257). -/
def execCancel (a : SReg) (s : State) : Host.Outcome State Fault Refusal :=
  instr 1 [a] [] noPre (seqBody fun vs => do
    let m ← me
    let h ← handleArg (arg vs 0)
    cancelLevel m.2.1.ctx h) s

/-- WAITL (R258): a b field of 0 waits for completion. -/
def execWaitl (d a b : SReg) (s : State) : Host.Outcome State Fault Refusal :=
  instr 1 [a, b] [d] noPre (seqBody fun vs => do
    let m ← me
    let h ← handleArg (arg vs 0)
    match ((← get).ctx m.2.1.ctx).level h with
    | none => writeDst d (BitVec.ofNat 64 (2 ^ 63))
    | some l =>
      waitIf (l.state == .active && (b == 0 || decide (l.done < (arg vs 1).toNat)))
      writeDst d (BitVec.ofNat 64 (l.state.code * 2 ^ 62 + l.done % 2 ^ 62))) s

/-- SPAWN (R276). -/
def execSpawn (d a : SReg) (s : State) : Host.Outcome State Fault Refusal :=
  instr 1 [a] [d] noPre (seqBody fun vs => do
    let m ← me
    let p := (arg vs 0).toNat
    lowSpace p
    faultIf (p % 32 != 0) 0x04 p
    let b ← memReadBytes (← whoami) p 32
    let r := Record.ofBytes b
    faultIf (r.flags / 32 != 0 || r.ckpt) 0x01 p
    let c := (← get).ctx m.2.1.ctx
    if c.state == .draining then writeDst d 0
    else
      match c.activeLaunch r.launch with
      | none => writeDst d 0
      | some l =>
        performed
        putLevel m.2.1.ctx (r.launch % 4096) { l with out := l.out + 1 }
        pushTail m.2.1.ctx r.prio (.record r)
        writeDst d 1) s

/-! ### Graphs -/

/-- A graph node (R259). -/
structure GNode where
  type : Nat
  wait : Bool
  cmp : Nat
  n : Nat
  a : Nat
  b : Nat
  next : Int
  alt : Int
  deriving DecidableEq, Repr

/-- A node in 32 bytes; none for a bad TYPE or a reserved byte or code (R259, R261). -/
def parseNode (b : List Byte) : Option GNode :=
  let f := fieldAt b
  let t := f 0 1
  let cmp := nbits (f 1 1) 1 3
  if 1 ≤ t && decide (t ≤ 5) && decide (f 1 1 < 16) && f 4 4 == 0 && (t != 2 || decide (cmp < 6)) && (t != 4 || f 2 2 != 0) then
    some ⟨t, nbits (f 1 1) 0 1 == 1, cmp, f 2 2, f 8 8, f 16 8, signedOf 32 (f 24 4), signedOf 32 (f 28 4)⟩
  else none

/-- The node at an address. -/
def readNode (w : Who) (p : Nat) : X GNode := do
  faultIf (ptrSpace p != 0) 0x05 p
  faultIf (p % 32 != 0) 0x04 p
  let b ← memReadBytes w p 32
  match parseNode b with
  | none => fault 0x01 p
  | some n => pure n

/-- The word W of a decision, with the pointer's checks before its alignment (R208). -/
def readW (w : Who) (n : GNode) : X Word := do
  pointerOk 1 n.a
  faultIf (n.a % 8 != 0) 0x04 n.a
  let v ← memReadNat w n.a 8
  pure (BitVec.ofNat 64 v)

/-- The comparison of a condition node (R259). -/
def nodeTest (cmp : Nat) (a b : Word) : Bool :=
  match cmp with
  | 0 => a == b
  | 1 => a != b
  | 2 => a.slt b
  | 3 => !a.slt b
  | 4 => a.ult b
  | _ => !a.ult b

/-- The value of a decision: logged live, taken from the log in replay (R248, R260); none on a divergence. -/
def decideNode (x : CtxId) (node : Word) (v : Nat) : X (Option Nat) := do
  let s ← get
  if !(s.ctx x).desc.replay then
    logAppend x 1 none node.toNat v
    pure (some v)
  else
    match s.logNext x 1 with
    | some r =>
      if r.id = node.toNat then
        set (s.logTake x 1 r)
        pure (some r.data)
      else diverged s
    | none => diverged s
where
  /-- The event finds no record that it matches: DIVERGE is set, and the evaluation stays at its node. -/
  diverged (s : State) : X (Option Nat) := do
    set (s.diverge x)
    pure none

/-- Go on to the successor of a node (R259). -/
def graphGoto (x : CtxId) (g : Nat) (node : Word) (f : Int) : X Unit := do
  match SMap.get ((← get).ctx x).levels g with
  | none => pure ()
  | some l => putLevel x g { l with node := some (BitVec.ofInt 64 (node.toNat + 32 * f)) }

/-- Go on after a decision, if there was one. -/
def graphBranch (x : CtxId) (g : Nat) (node : Word) (r : Option Nat) (f : Nat → X Int) : X Unit :=
  match r with
  | none => pure ()
  | some v => do
    let i ← f v
    graphGoto x g node i

/-- The launch of a launch node (R260): the descriptor's KIND and PARENT are 0, the graph is the parent. -/
def graphLaunch (w : Who) (g : Nat) (l : Level) (n : GNode) : X Unit := do
  let d ← readDesc w n.a
  faultIf (d.kind != 0 || d.parent != 0) 0x01 n.a
  let h ← launchHeader w n.a d
  let r ← enterLevel w.ctx none { d with parent := levelHandle g l, last := false } (some h)
  faultIf (r == 0) 0x14 n.a

/-- The action of a node (R260). -/
def graphAct (w : Who) (g : Nat) (l : Level) (node : Word) (n : GNode) : X Unit := do
  let x := w.ctx
  waitIf (l.out != 0 && ((n.type == 1 && n.wait) || n.type == 2 || n.type == 3 || n.type == 4))
  match n.type with
  | 1 =>
    graphLaunch w g l n
    graphGoto x g node n.next
  | 2 =>
    let v ← readW w n
    let r ← decideNode x node (if nodeTest n.cmp v (BitVec.ofNat 64 n.b) then 1 else 0)
    graphBranch x g node r fun t => pure (if t = 1 then n.next else n.alt)
  | 3 =>
    let v ← readW w n
    let r ← decideNode x node (if v = 0 then 0 else 1)
    graphBranch x g node r fun t => do
      if t = 1 then
        memWriteNat w n.a 8 (v - 1).toNat .atomic
        pure n.next
      else pure n.alt
  | 4 =>
    let v ← readW w n
    let r ← decideNode x node (min v.toNat (n.n - 1))
    graphBranch x g node r fun i => do
      let e ← memReadNat w (n.b + 4 * i) 4
      pure (signedOf 32 e)
  | _ =>
    match SMap.get ((← get).ctx x).levels g with
    | none => pure ()
    | some k =>
      putLevel x g { k with isOpen := false, node := none }
      settle x g

/-- A failed node cancels its graph and is recorded (R261). -/
def graphFail (x : CtxId) (g : Nat) (l : Level) (node : Word) (code : Nat) : X Unit := do
  cancelLevel x (levelHandle g l)
  modify fun s => s.deliverOther x 1 code node.toNat

/-- Does the evaluator work for a context? DRAIN stops it (R236). -/
def Context.evaluates (c : Context) : Bool :=
  match c.state with
  | .loaded | .running | .suspended => true
  | .free | .created | .draining | .scrubbing => false

/-- One step of the evaluator on a graph whose next node has the given TYPE (R260, R261). -/
def graphStep (type : Nat) (x : CtxId) (g : Fin 4096) (s : State) : Host.Outcome State Fault Refusal :=
  match SMap.get (s.ctx x).levels g.val with
  | none => .next s
  | some l =>
    match l.node with
    | none => .next s
    | some node =>
      if l.state != .active || !(s.ctx x).evaluates then .next s
      else
        let w : Who := ⟨x, none, none⟩
        partStep (do
          let r ← attempt (do
            let n ← readNode w node.toNat
            if n.type = type then graphAct w g.val l node n else pure ())
          match r with
          | .ok _ => pure ()
          | .error t =>
            set s
            graphFail x g.val l node t.code) s

/-- GRAPH_LAUNCH_NODE (R260). -/
def execGraphLaunchNode (x : CtxId) (g : Fin 4096) (s : State) : Host.Outcome State Fault Refusal := graphStep 1 x g s
/-- GRAPH_CONDITION_NODE (R260). -/
def execGraphConditionNode (x : CtxId) (g : Fin 4096) (s : State) : Host.Outcome State Fault Refusal := graphStep 2 x g s
/-- GRAPH_LOOP_NODE (R260). -/
def execGraphLoopNode (x : CtxId) (g : Fin 4096) (s : State) : Host.Outcome State Fault Refusal := graphStep 3 x g s
/-- GRAPH_SWITCH_NODE (R260). -/
def execGraphSwitchNode (x : CtxId) (g : Fin 4096) (s : State) : Host.Outcome State Fault Refusal := graphStep 4 x g s
/-- GRAPH_END_NODE (R260). -/
def execGraphEndNode (x : CtxId) (g : Fin 4096) (s : State) : Host.Outcome State Fault Refusal := graphStep 5 x g s

end Sys2Proof.Machine
end

