-- ==== Sys2Proof/Machine/Sched.lean ====
section
/-! DEFINITION. The device scheduler (R267 to R271, R281, R282): where a record fits, the dispatch decision, the start of a
group, and the choice of a victim. -/

namespace Sys2Proof.Machine

open Sys2Proof

/-! ### Fit (R268) -/

/-- Resources for a group on a core. -/
structure Placement where
  core : CoreId
  slot : SlotId
  rowBase : Nat
  unitBase : Nat
  bars : List Nat
  blocks : List Nat
  deriving DecidableEq, Repr

/-- The lowest start of a run of `need` free places among n. -/
def firstRun (n need : Nat) (free : Nat → Bool) : Option Nat :=
  if need = 0 then some 0
  else (List.range n).find? fun i => decide (i + need ≤ n) && (List.range need).all fun j => free (i + j)

/-- The lowest `need` free places among n. -/
def firstFree (n need : Nat) (free : Nat → Bool) : Option (List Nat) :=
  let xs := ((List.range n).filter free).take need
  if xs.length = need then some xs else none

/-- The groups resident on a core, one of them left out. -/
def State.residents (s : State) (c : CoreId) (without : Option SlotId) : List Group :=
  (List.finRange 4).filterMap fun i => if without = some i then none else s.group c i

/-- Is a slot held for another newcomer than an item of a context's queues (R281, R282)? -/
def State.reservedFor (s : State) (c : CoreId) (i : SlotId) (x : CtxId) (it : ReadyItem) : Bool :=
  (List.finRange 16).any fun y => (s.ctx y).reserved.any fun r => r.core == c && r.slot == i && !(y == x && r.item == it)

/-- The free slot that a record would take. -/
def State.freeSlot (s : State) (c : CoreId) (x : CtxId) (it : ReadyItem) (without : Option SlotId) : Option SlotId :=
  (List.finRange 4).find? fun i =>
    ((s.group c i).isNone || decide (without = some i)) && !s.reservedFor c i x it

/-- Where on a core a record fits (R268), as if the group in `without` had left. -/
def State.fitOn (s : State) (x : CtxId) (it : ReadyItem) (h : Header) (c : CoreId) (without : Option SlotId) :
    Option Placement :=
  if !s.owns x c || s.serviced.getLsbD c.val then none
  else
    let gs := s.residents c without
    let row := firstRun 32 h.accu fun i => gs.all fun g => !(decide (g.rowBase / 64 ≤ i) && decide (i < (g.rowBase + g.rows) / 64))
    let unit := firstRun 48 h.spu fun i =>
      (s.ctx x).desc.units.getLsbD i && gs.all fun g => !(decide (g.unitBase ≤ i) && decide (i < g.unitBase + g.units))
    let bars := firstFree 16 h.bars fun i => gs.all fun g => !g.bars.contains i
    let blocks := firstFree 16 h.dttu fun i => gs.all fun g => !g.nodeBlocks.contains i
    match s.freeSlot c x it without, row, unit, bars, blocks with
    | some i, some r, some u, some b, some n => some ⟨c, i, 64 * r, u, b, n⟩
    | _, _, _, _, _ => none

/-- Cores in the order in which the scheduler tries them. -/
def State.coreOrder (s : State) : List CoreId := (List.range 128).map fun i => Fin.ofNat 128 (s.rrPtr.val + i)

/-- Clusters in the order in which the scheduler tries them (R270). -/
def State.clusterOrder (s : State) : List Nat := (List.range 32).map fun i => (s.rrPtr.val / 4 + i) % 32

/-- Where one record fits. -/
def State.fitOne (s : State) (x : CtxId) (it : ReadyItem) (h : Header) : Option Placement :=
  s.coreOrder.findSome? fun c => s.fitOn x it h c none

/-- The four cores of a cluster. -/
def clusterCores (k : Nat) : List CoreId := (List.range 4).map fun q => Fin.ofNat 128 (4 * k + q)

/-- All of them, or none. -/
def allSome {α : Type} : List (Option α) → Option (List α)
  | [] => some []
  | none :: _ => none
  | some a :: r => (allSome r).map (a :: ·)

/-- Where four groups of a cluster-shaped launch fit (R270). -/
def State.fitCluster (s : State) (x : CtxId) (it : ReadyItem) (h : Header) : Option (List Placement) :=
  s.clusterOrder.findSome? fun k => allSome ((clusterCores k).map fun c => s.fitOn x it h c none)

/-! ### Heads -/

/-- A queue head with the header of its launch, and whether it leaves cluster-shaped (R270). -/
structure QHead where
  item : ReadyItem
  level : Level
  header : Header
  cluster : Bool
  deriving DecidableEq, Repr

/-- The head of a ready queue. -/
def State.headOf (s : State) (x : CtxId) (prio : Fin 4) : Option QHead :=
  match (s.readyQ x prio).items with
  | [] => none
  | it :: _ =>
    match (s.ctx x).activeLaunch it.launch with
    | none => none
    | some l => l.header.map fun h =>
        ⟨it, l, h, h.cluster && (match it with
          | .cursor _ _ => true
          | .record _ => false)⟩

/-- Where a head fits: one placement, or the four of a cluster. -/
def State.fitHead (s : State) (x : CtxId) (q : QHead) : Option (List Placement) :=
  if q.cluster then s.fitCluster x q.item q.header else (s.fitOne x q.item q.header).map fun p => [p]

/-- Priorities, highest first. -/
def prios : List (Fin 4) := [3, 2, 1, 0]

/-- What the scheduler would dispatch for a context: the highest priority whose head fits (R267). -/
def State.fitting (s : State) (x : CtxId) : Option (Fin 4 × QHead × List Placement) :=
  if (s.ctx x).state != .running then none
  else
    prios.findSome? fun p =>
      match s.headOf x p with
      | none => none
      | some q => (s.fitHead x q).map fun ps => (p, q, ps)

/-! ### Dispatch -/

/-- The record of the next group of a cursor (R266). -/
def cursorRecord (l : Level) (launch next : Nat) : Record :=
  match l.desc with
  | none => ⟨0, 0, 0, next, launch, 0⟩
  | some d =>
    { code := 0, frame := (d.frames + next * d.fstride) % 2 ^ 64, join := 0, index := next, launch := launch
      flags := recordFlags d.prio false false (l.header.elim false Header.cluster) }

/-- The reset of the tile policy (R189). -/
def policyReset (rows : Nat) : Word := BitVec.ofNat 64 (3 * 2 + 12 * 2 ^ 4 + 4 * 2 ^ 8 + (rows - 64) % 2048 * 2 ^ 13)

/-- The tile state of a new group (R174, R175, R189). -/
def Tile.fresh (rows : Nat) : Tile :=
  { nodes := [], handles := Vector.replicate 64 none, appends := 0, boxSeq := 0, policy := policyReset rows
    tableForces := 0, aliasForces := 0, evictions := 0 }

/-- A group as dispatch puts it into its slot (R268, R288): group state as R47, R127, R155, R174, R175 and R189. -/
def Group.fresh (x : CtxId) (r : Record) (h : Header) (p : Placement) (clustered : Bool) (order batch now : Nat) : Group :=
  { ctx := x, record := r, clustered := clustered, order := order, batch := batch, rowBase := p.rowBase, rows := 64 * h.accu
    unitBase := p.unitBase, units := h.spu, bars := p.bars, nodeBlocks := p.blocks, state := .starting
    estimate := h.estimate, estimateSet := now, flags := 0, tfctl := 0, nanrec := 0, nanrecPc := 0
    preds := Vector.replicate 8 ⟨0, .w8⟩, gens := Vector.replicate 32 0, roleq := Vector.replicate 4 []
    roleqMoved := Vector.replicate 4 now
    roles := Vector.replicate 3 Role.fresh, mmacs := 0, mateGone := false, tile := Tile.fresh (64 * h.accu)
    chans := Vector.replicate 4 ⟨0, 0, 0, 0, 0⟩, binds := [], squashed := [], drainAt := none }

/-- Zero a range of bytes of an on-chip space, poison included. -/
def State.zeroChip (s : State) (k n : Nat) : State :=
  { s.clearRange k n with
           poison := s.poison.filter fun g => !(decide (k / 64 ≤ g) && decide (g * 64 < k + n)) }

/-- Put a group into its slot, by the dispatch of a number; its registers are zero (R127). -/
def State.placeGroup (s : State) (x : CtxId) (r : Record) (h : Header) (clustered : Bool) (batch : Nat) (p : Placement) : State :=
  let g := Group.fresh x r h p clustered s.dispatchSeq batch s.cycle.toNat
  let s1 := s.zeroChip (onChipKey 2 p.core (p.rowBase * 256)) (h.accu * 64 * 256)
  { s1.setGroup p.core p.slot (some g) with dispatchSeq := s.dispatchSeq + 1 }

/-- The queue after its head has given n groups, or its record. -/
def ReadyQueue.take (q : ReadyQueue) (n count : Nat) : ReadyQueue :=
  match q.items with
  | [] => q
  | .cursor l i :: rest =>
    if i + n < count then { q with items := .cursor l (i + n) :: rest }
    else { q with items := rest, head := (q.head + 1) % ringSize }
  | .record _ :: rest => { q with items := rest, head := (q.head + 1) % ringSize }

/-- Dispatch a head (R266, R268, R270). -/
def State.dispatch (s : State) (x : CtxId) (prio : Fin 4) (q : QHead) (ps : List Placement) : State :=
  let recs := ps.zipIdx.map fun p => (p.1, match q.item with
    | .cursor l i => cursorRecord q.level l (i + p.2)
    | .record r => r)
  let s1 := recs.foldl (fun t p => t.placeGroup x p.2 q.header q.cluster s.dispatchSeq p.1) s
  let last := (ps.getLast?.map Placement.core).getD s.rrPtr
  let s2 := s1.setReady x prio ((s.readyQ x prio).take ps.length q.level.count)
  { s2.onCtx x fun c => { c with reserved := c.reserved.filter fun r => r.item != q.item }
    with rrPtr := Fin.ofNat 128 (last.val + 1) }

/-- Serve the contexts in turn (R267): `n` is the context visited next; a visit adds TOKENS, and the context is served
when its deficit reaches C or at its 16th visit. -/
def serve (c : Nat) : Nat → Nat → State → State
  | 0, _, s => s
  | f + 1, n, s =>
    let x : CtxId := Fin.ofNat 16 n
    match s.fitting x with
    | none => serve c f (n + 1) s
    | some (prio, q, ps) =>
      let d := (s.ctx x).deficit + (s.ctx x).desc.tokens
      let v := (s.ctx x).visits + 1
      if c ≤ d || 16 ≤ v then
        let s1 := s.onCtx x fun k => { k with deficit := d - c, visits := 0 }
        { s1.dispatch x prio q ps with lastCtx := x }
      else serve c f (n + 1) (s.onCtx x fun k => { k with deficit := d, visits := v })

/-- The largest TOKENS among the contexts with a fitting head. -/
def State.largestTokens (s : State) : Option Nat :=
  (List.finRange 16).foldl (fun a x =>
    match s.fitting x with
    | none => a
    | some _ => some (max (a.getD 0) (s.ctx x).desc.tokens)) none

/-! ### Pre-emption (R281, R282) -/

/-- The remaining-time estimate (R279). -/
def State.remaining (s : State) (g : Group) : Nat := g.estimate - (s.cycle.toNat - g.estimateSet)

/-- DRAIN_LIMIT (R282). -/
def drainLimit : Nat := 12000

/-- The treatment of a victim (R282): 0 drain, 1 checkpoint, 2 kill. -/
def State.treatment (s : State) (g : Group) : Nat :=
  match s.headerOf g with
  | none => 2
  | some h =>
    if s.remaining g ≤ drainLimit then 0 else if h.yields then 1 else if h.restartable then 2 else 0

/-- Apply a treatment. -/
def State.treat (s : State) (c : CoreId) (i : SlotId) (t : Nat) : State :=
  s.onGroup c i fun g =>
    if t = 0 then g.mark .drain else if t = 1 then g.mark (.checkpoint s.cycle.toNat) else { g with state := .dying true false false }

/-- Is a group one that pre-emption may choose: running, from its restore sequence on (R288), and not chosen yet? -/
def Group.preemptible (g : Group) : Bool :=
  match g.state with
  | .running | .restoring _ .none => true
  | .starting | .draining | .marked _ | .saving _ _ | .replaying _ _ _ | .dying _ _ _ | .restoring _ .drain
  | .restoring _ (.checkpoint _) => false

/-- The victims on a core that would make room for a head (R281). -/
def State.victimsOn (s : State) (x : CtxId) (prio : Fin 4) (it : ReadyItem) (h : Header) (c : CoreId) : List (CoreId × SlotId × Group) :=
  let d := (s.ctx x).desc
  (List.finRange 4).filterMap fun i =>
    match s.group c i with
    | none => none
    | some g =>
      let wn := d.tokens * (prio.val + 1)
      let wv := d.tokens * (g.record.prio.val + 1)
      if g.ctx == x && g.preemptible && decide (wv < wn) && decide (d.thresh ≤ wn - wv)
          && (s.fitOn x it h c (some i)).isSome then some (c, i, g) else none

/-- Is one victim taken before another: lower weight, then the later dispatch, then the lower core (R281)? -/
def victimBefore (a b : CoreId × SlotId × Group) : Bool :=
  let pa := a.2.2.record.prio.val
  let pb := b.2.2.record.prio.val
  decide (pa < pb) || (pa == pb && (decide (b.2.2.batch < a.2.2.batch)
    || (a.2.2.batch == b.2.2.batch && decide (a.1.val < b.1.val))))

/-- The victim of a list. -/
def bestVictim (vs : List (CoreId × SlotId × Group)) : Option (CoreId × SlotId × Group) :=
  vs.foldl (fun a v => match a with
    | none => some v
    | some b => if victimBefore v b then some v else some b) none

/-- The victims for a head that fits nowhere: one, or up to one per core of the first cluster that works out (R281). -/
def State.victims (s : State) (x : CtxId) (prio : Fin 4) (q : QHead) : List (CoreId × SlotId × Group) :=
  if !q.cluster then
    (bestVictim ((List.finRange 128).flatMap fun c => s.victimsOn x prio q.item q.header c)).toList
  else
    (s.clusterOrder.findSome? fun k =>
      allSome ((clusterCores k).map fun c =>
        if (s.fitOn x q.item q.header c none).isSome then some none
        else (bestVictim (s.victimsOn x prio q.item q.header c)).map some)).elim [] fun r => r.filterMap id

/-- ID of a kind-5 record (R247). -/
def preemptId (g : Group) : Nat := g.record.launch + g.record.index * 2 ^ 32

/-- The logged treatment of a group's next pre-emption record in replay (R248, R282). -/
def replayTreatment (x : CtxId) (g : Group) : X Nat := do
  let s ← get
  match s.logNext x 4 with
  | none => throw .wait
  | some r =>
    waitIf (r.id != preemptId g)
    set (s.logTake x 4 r)
    pure (r.data % 4)

/-- Decide the treatment of a group: logged live, taken from the log in replay (R247, R248, R282). -/
def decideTreatment (x : CtxId) (core : CoreId) (g : Group) (t : Nat) : X Nat := do
  let s ← get
  if (s.ctx x).desc.replay then replayTreatment x g
  else
    logAppend x 4 (some core) (preemptId g) (t + s.cycle.toNat / 4 * 4)
    pure t

/-- Pre-empt a victim for the head of a queue. -/
def preempt (x : CtxId) (it : ReadyItem) (v : CoreId × SlotId × Group) : X Unit := do
  let s ← get
  let t ← decideTreatment x v.1 v.2.2 (s.treatment v.2.2)
  modify fun s => (s.treat v.1 v.2.1 t).onCtx x fun c =>
    { c with reserved := c.reserved ++ [⟨it, v.1, v.2.1, v.2.2.order⟩] }

/-- In replay the victim is the one that the next record names, among groups that pass a test (R248). -/
def State.replayVictim (s : State) (x : CtxId) (ok : CoreId × SlotId × Group → Bool) : Option (CoreId × SlotId × Group) :=
  (s.logNext x 4).bind fun r => (s.groupsOf x).find? fun v => v.2.2.preemptible && preemptId v.2.2 == r.id && ok v

/-- Can the next pre-emption record never match: is it not well formed, or its launch over (R248)? While its launch is active, or has
not begun, its group may still come, for SPAWN pushes records of any index (R276, log 31). -/
def State.preemptLost (s : State) (x : CtxId) : Bool :=
  (s.logNext x 4).any fun r => r.id == logNever || (s.ctx x).launchOver (r.id % 2 ^ 32)

/-- The further records of a cluster-shaped newcomer's decision: one for each core of the cluster that it still does not fit
(R248, R281). -/
def replayCluster (x : CtxId) (prio : Fin 4) (q : QHead) (cluster : Nat) : Nat → X Unit
  | 0 => pure ()
  | n + 1 => do
    let s ← get
    match s.replayVictim x fun v => v.1.val / 4 == cluster && (s.victimsOn x prio q.item q.header v.1).contains v
        && (s.fitOn x q.item q.header v.1 none).isNone && (s.ctx x).reserved.all fun r => r.core != v.1 with
    | none => pure ()
    | some v =>
      preempt x q.item v
      replayCluster x prio q cluster n

/-- The pre-emptions of a newcomer in replay (R248). -/
def replayPreempt (x : CtxId) (prio : Fin 4) (q : QHead) : X Unit := do
  let s ← get
  if s.preemptLost x then set (s.diverge x)
  else
    match s.replayVictim x fun v => (s.victimsOn x prio q.item q.header v.1).contains v with
    | none => pure ()
    | some v =>
      preempt x q.item v
      if q.cluster then replayCluster x prio q (v.1.val / 4) 3 else pure ()

/-- The pre-emptions that a context's heads start (R281). -/
def preemptFor (x : CtxId) (prio : Fin 4) : X Unit := do
  let s ← get
  let c := s.ctx x
  if c.state != .running then pure ()
  else
    match s.headOf x prio with
    | none => pure ()
    | some q =>
      if (s.fitHead x q).isSome || c.reserved.any fun r => r.item == q.item then pure ()
      else if c.desc.replay then replayPreempt x prio q
      else (s.victims x prio q).forM (preempt x q.item)

/-- Try a part of a step; one that has to wait, or fails, changes nothing. -/
def State.tryDo (s : State) (x : X Unit) : State :=
  match x s with
  | .ok (_, t) => t
  | .error _ => s

/-- DISPATCH_DECISION (R267, R281): one dispatch, and the pre-emptions for heads that fit nowhere; none in
the safe state (R439). -/
def execDispatchDecision (s : State) : Host.Outcome State Fault Refusal :=
  if s.safe then .next s else
  let s1 := match s.largestTokens with
    | none => s
    | some c => serve c 272 (s.lastCtx.val + 1) s
  .next ((List.finRange 16).foldl (fun t x => prios.foldl (fun u p => u.tryDo (preemptFor x p)) t) s1)

/-! ### The start of a group (R269) -/

/-- PLACE (R123). -/
def State.placeWord (s : State) (c : CoreId) (i : SlotId) (x : CtxId) : Word :=
  BitVec.ofNat 64 (c.val + dieOf c * 2 ^ 7 + c.val / 4 % 8 * 2 ^ 9 + s.encProc.toNat * 2 ^ 12 + i.val * 2 ^ 16
    + x.val * 2 ^ 18)

/-- The first byte of a group's arena (R269). -/
def arenaStart (c : CoreId) (g : Group) : Nat := 2 ^ 60 + c.val * 2 ^ 53 + g.unitBase * 2 ^ 16

/-- The compute role's registers at group start (R269). -/
def startRegs (s : State) (c : CoreId) (i : SlotId) (g : Group) (args : Nat) : Vector Word 64 :=
  let put := fun (v : Vector Word 64) (p : Fin 64 × Nat) => vset v p.1 (BitVec.ofNat 64 p.2)
  ([(2, g.record.index), (3, g.record.frame), (4, args), (5, (s.placeWord c i g.ctx).toNat), (6, arenaStart c g),
    (7, arenaStart c g + g.units * 2 ^ 16)] : List (Fin 64 × Nat)).foldl put (Vector.replicate 64 0)

/-- The entry PC of a launch (R249). -/
def entryPc (d : LaunchDesc) (h : Header) : Nat := wrap64 (d.target + h.entry + 4)

/-- The descriptor of a group's launch, which the part keeps on chip (R263). -/
def State.descOf (s : State) (g : Group) : Option LaunchDesc :=
  match (s.ctx g.ctx).level g.record.launch with
  | none => none
  | some l => l.desc

/-- The state of a group that is drained to its end: in a restore once that has ended. -/
def Group.drained (g : Group) : SlotState :=
  match g.state with
  | .starting => .starting
  | .restoring cont _ => .restoring cont .drain
  | .replaying n pc cont => .replaying n pc cont
  | .running | .draining | .marked _ | .saving _ _ | .dying _ _ _ => .draining

/-- DRAIN's treatment of a group (R236): drained to its end where it is neither checkpointable nor restartable, one that has not
started or that is being restored once it has; else killed. -/
def State.drainGroup (s : State) (g : Group) : Group :=
  match g.state with
  | .dying _ e r => { g with state := .dying false e r }
  | .starting | .running | .draining | .marked _ | .saving _ _ | .restoring _ _ | .replaying _ _ _ =>
    match s.headerOf g with
    | none => { g with state := .dying false false false }
    | some h => { g with state := if h.yields || h.restartable then .dying false false false else g.drained }

/-- GROUP_START (R269, R271, R288): the compute role of a dispatched group starts; a record with CKPT passes through
the restore first. -/
def execGroupStart (c : CoreId) (i : SlotId) (s : State) : Host.Outcome State Fault Refusal :=
  match s.group c i with
  | none => .next s
  | some g =>
    match s.descOf g, s.headerOf g with
    | some d, some h =>
      if g.state != .starting || g.record.ckpt then .next s
      else
        let pc := if g.record.code = 0 then entryPc d h else g.record.code
        let g1 : Group :=
          { g.onRole .compute fun k =>
              { k with status := .running, pc := BitVec.ofNat 64 pc, regs := startRegs s c i g d.args }
            with state := .running, estimate := h.estimate, estimateSet := s.cycle.toNat }
        .next (s.setGroup c i (some (if (s.ctx g.ctx).state == .draining then s.drainGroup g1 else g1)))
    | _, _ => .next s

end Sys2Proof.Machine
end

