-- ==== Sys2Proof/Machine/Group.lean ====
section
/-! DEFINITION. Groups in their slots (R116, R272 to R288): roles with FORK and MEET, END, PARK, PROG, YIELD with its save
area, restore, kill, and the steps of the scheduler on a slot. -/

namespace Sys2Proof.Machine

open Sys2Proof

/-! ### Leaving a slot -/

/-- Free a slot (R268, R288, R310): its barrier slots, its bindings, its results still in the array and the selectors of its
roles go with it (R235; log 7). -/
def State.vacate (s : State) (c : CoreId) (i : SlotId) : State :=
  match s.group c i with
  | none => s
  | some g =>
    let s1 := g.roles.toList.foldl (fun t k => t.leaveQueues g.ctx (s.notBlockedAt k) k.ports.toList) (s.releaseBars c g.bars)
    let s2 := { s1 with rolePriv := s1.rolePriv.filter fun p => p.1 / 3 != c.val * 4 + i.val }
    s2.onCore c fun k =>
      { k with slots := vset k.slots i none
               array := k.array.filter fun e => !(e.slot == i && e.order == g.order)
               board := k.board.filter fun e => e.slot != i }

/-- One arrival at a join counter (R277, R278): the counter after it. -/
def joinArrive (w : Who) (p : Nat) : X Nat := do
  let j ← memReadNat w (p + 16) 4 .atomic
  let k := (j + 2 ^ 32 - 1) % 2 ^ 32
  memWriteNat w (p + 16) 4 k .atomic
  pure k

/-- Push a copy of the record at an address at the tail of its queue (R277, R278). One with a reserved bit set is rejected (R5,
R263), with illegal instruction at the record (DEDUCED, log 54). -/
def pushFrom (w : Who) (p : Nat) : X Unit := do
  let b ← memReadBytes w p 32
  faultIf ((Record.ofBytes b).flags / 32 != 0) 0x01 p
  pushRecord w.ctx (Record.ofBytes b) false

/-- The arrival of an ending group at its parent (R278). -/
def joinParent (w : Who) (r : Record) : X Unit := do
  if !r.pj then pure ()
  else
    pointerOk 2 r.frame
    faultIf (r.frame % 8 != 0) 0x04 r.frame
    let p ← memReadNat w r.frame 8
    pointerOk 1 p
    faultIf (p % 32 != 0) 0x04 p
    let j ← joinArrive w p
    if j = 0 then pushFrom w p else pure ()

/-- Leave the slot once no stream of the group is left (R395): `last` is what happens then. A fault in it leaves the
streams alone; while streams are left, only their release is asked for. -/
def leaveWith (last : X Unit) : X Flow := do
  let m ← me
  let s ← get
  last
  modify fun t => t.vacate m.1.core m.1.slot
  let t ← get
  let s1 := s.releaseStreams m.1 m.2.1
  if (s1.streamsOf m.1 m.2.1).isEmpty then
    set (t.releaseStreams m.1 m.2.1)
    pure .gone
  else
    set s1
    pure .gone

/-- Is a role neither running nor arrived? -/
def Role.isIdle (k : Role) : Bool := k.status == .idle

/-- Fetch and drain are idle. -/
def Group.soleCompute (g : Group) : Bool := (g.role .fetch).isIdle && (g.role .drain).isIdle

/-- END (R116, R278). -/
def execEndGroup (s : State) : Host.Outcome State Fault Refusal :=
  instr 1 [] [] computeOnly (fun _ => do
    let m ← me
    faultIf m.2.1.inSequence 0x15 0
    faultIf ((m.2.1.role .fetch).status == .running || (m.2.1.role .drain).status == .running) 0x15 0
    awaitCopies fun _ => true
    let w ← whoami
    leaveWith do
      joinParent w m.2.1.record
      groupDone m.2.1.ctx m.2.1.record.launch
      modify fun s => s.partMates m.2.1) s

/-- PARK (R277). -/
def execPark (a : SReg) (s : State) : Host.Outcome State Fault Refusal :=
  instr 1 [a] [] computeOnly (fun vs => do
    let m ← me
    let w ← whoami
    let r := (arg vs 0).toNat
    faultIf (m.2.1.inSequence || !m.2.1.soleCompute) 0x15 0
    lowSpace r
    faultIf (r % 32 != 0) 0x04 r
    match nextPc m.2.2.line m.2.2.pc.toNat 1 with
    | none => fault 0x15 0
    | some c => do
      awaitCopies fun _ => true
      let old := m.2.1.record
      let rcd : Record := ⟨c, (m.2.2.reg 3).toNat, 0, old.index, old.launch, recordFlags old.prio.val old.pj false old.clu⟩
      leaveWith do
        memWriteBytes w r (rcd.bytes.take 16)
        memWriteBytes w (r + 20) (rcd.bytes.drop 20)
        let j ← joinArrive w r
        if j = 0 then pushFrom w r else pure ()) s

/-- PROG (R279). -/
def execProg (a : SReg) (s : State) : Host.Outcome State Fault Refusal :=
  instr 1 [a] [] noPre (seqBody fun vs => do
    let m ← me
    modify fun s => s.onGroup m.1.core m.1.slot fun g =>
      { g with estimate := (arg vs 0).toNat % 2 ^ 32, estimateSet := s.cycle.toNat }) s

/-! ### FORK and MEET -/

/-- The state of a role that FORK starts at a line (R272): s2 to s7 from compute, everything else zero. -/
def Role.forked (old compute : Role) (pc : Nat) : Role :=
  let regs := ([2, 3, 4, 5, 6, 7] : List SReg).foldl (fun v r => vset v r (compute.reg r)) (Vector.replicate 64 (0 : Word))
  { Role.fresh with status := .running, pc := BitVec.ofNat 64 pc, regs := regs, cause := old.cause, faultPc := old.faultPc
                    faultVa := old.faultVa, appendPc := old.appendPc, nodeId := old.nodeId, retired := old.retired }

/-- Start a role at word 1 of a line that a delta names (R59); outside the 55-bit space the chain has ended (R51), with FAULTPC at the
FORK's pc + 4, for which the spec names no marker (DESIGN CHOICE, log 77). -/
def startRole (k : RoleKind) (delta : BitVec 20) : X Unit := do
  let m ← me
  if delta = 0 then pure ()
  else
    match jumpTo m.2.2.pc delta.toInt 1 with
    | .goto t => modify fun s => s.onGroup m.1.core m.1.slot fun g => g.onRole k fun r => r.forked m.2.2 t
    | _ => modify fun s => s.onGroup m.1.core m.1.slot fun g => g.onRole k fun r =>
        { r.forked m.2.2 0 with pc := m.2.2.pc + 4, ended := true }

/-- FORK (R273). -/
def execFork (x y : BitVec 20) (s : State) : Host.Outcome State Fault Refusal :=
  instr 2 [] [] computeOnly (seqBody fun _ => do
    let m ← me
    faultIf m.2.1.inSequence 0x15 0
    faultIf ((x != 0 && !(m.2.1.role .fetch).isIdle) || (y != 0 && !(m.2.1.role .drain).isIdle)) 0x15 0
    performed
    startRole .fetch x
    startRole .drain y) s

/-- MEET in a fetch or drain role: the role has arrived; its scalars and bindings are gone (R272, R294). -/
def meetArrive : State → Host.Outcome State Fault Refusal :=
  instr 1 [] [] noPre (fun _ => do
    let m ← me
    performed
    let now := (← get).cycle.toNat
    modify fun s => (s.leaveQueues m.2.1.ctx s.cycle.toNat m.2.2.ports.toList).onRole m.1 fun k =>
      { k with status := .arrived, regs := Vector.replicate 64 0, ports := Vector.replicate 4 .unbound, loops := []
               blocked := [], restAt := now }
    pure .gone)

/-- MEET in the compute role (R274). -/
def meetCompute : State → Host.Outcome State Fault Refusal :=
  instr 1 [] [] noPre (seqBody fun _ => do
    let m ← me
    let f := m.2.1.role .fetch
    let d := m.2.1.role .drain
    waitIf (f.status == .running || d.status == .running)
    if f.isIdle && d.isIdle then pure ()
    else
      match (List.finRange 4).find? fun q => !(vget m.2.1.roleq q).isEmpty with
      | some q => fault 0x0D (60 + q.val)
      | none => modify fun s => s.onGroup m.1.core m.1.slot fun g =>
          (g.onRole .fetch fun k => { k with status := .idle }).onRole .drain fun k => { k with status := .idle })

/-- MEET (R274). -/
def execMeet (s : State) : Host.Outcome State Fault Refusal :=
  match s.cur.role with
  | .compute => meetCompute s
  | .fetch => meetArrive s
  | .drain => meetArrive s

/-! ### The save area (R285) -/

/-- The loop stack, oldest entry first, 64 bytes. -/
def loopBytes (ls : List LoopEntry) : List Byte :=
  let one := fun (e : LoopEntry) =>
    leBytes 8 (e.start.toNat % 2 ^ 55 + e.count.val * 2 ^ 55 + 2 ^ 63) ++ leBytes 8 e.stop.toNat
  let body := (ls.take 4).reverse.flatMap one
  body ++ List.replicate (64 - body.length) 0

/-- The loop stack in 64 bytes, newest entry first. -/
def loopsOf (b : List Byte) : List LoopEntry :=
  ((List.range 4).filterMap fun i =>
    let w := fieldAt b (16 * i) 8
    if w / 2 ^ 63 = 1 then
      some ⟨BitVec.ofNat 64 (w % 2 ^ 55), BitVec.ofNat 64 (fieldAt b (16 * i + 8) 8), Fin.ofNat 64 (w / 2 ^ 55)⟩
    else none).reverse

/-- A signed number in 32 bits. -/
def low32 (i : Int) : Nat := (i % 2 ^ 32).toNat

/-- Two walks of one element count over one set of sizes, axis 0 first: each size with both strides. None where one set does not
describe both. -/
def commonWalk : Nat → List (Nat × Int) → List (Nat × Int) → Option (List (Nat × Int × Int))
  | _, [], [] => some []
  | 0, _, _ => none
  | f + 1, xs, ys =>
    match xs, ys with
    | (1, _) :: xs, ys => commonWalk f xs ys
    | xs, (1, _) :: ys => commonWalk f xs ys
    | (n, a) :: xs, (m, b) :: ys =>
      if m % n = 0 then (commonWalk f xs ((m / n, b * n) :: ys)).map ((n, a, b) :: ·)
      else if n % m = 0 then (commonWalk f ((n / m, a * m) :: xs) ys).map ((m, a, b) :: ·)
      else none
    | _, _ => none

/-- The sizes with the strides of both sides, as the 128-byte form lays them out (R335). Sides with sizes of their own share the
form where one set of four sizes describes both; the lines of a block-scaled side leave no such choice. -/
def Cmd.form (k : Cmd) : Option (List (Nat × Int × Int)) :=
  let axes := fun (g : Gen) => (List.range 4).map fun i => (g.size i, g.stride i)
  if k.src.sizes = k.dst.sizes then some ((List.range 4).map fun i => (k.src.size i, k.src.stride i, k.dst.stride i))
  else if k.src.fmt.scaled || k.dst.fmt.scaled then none
  else
    match commonWalk 12 (axes k.src) (axes k.dst) with
    | none => none
    | some w => if w.length ≤ 4 then some (w ++ List.replicate (4 - w.length) (1, 0, 0)) else none

/-- Does an integer stand in 32 bits, signed? -/
def fits32 (x : Int) : Bool := decide (-(2 ^ 31 : Int) ≤ x) && decide (x < 2 ^ 31)

/-- Can the 128-byte form hold a command: a copy, with sizes, strides and scale offsets that it has room for (log 21)? -/
def Cmd.savable (k : Cmd) : Bool :=
  k.kind == .copy && (!k.src.fmt.scaled || fits32 k.src.soff) && (!k.dst.fmt.scaled || fits32 k.dst.soff)
    && k.form.any fun w => w.all fun p => fits32 p.2.1 && fits32 p.2.2

/-- A squashed command in the 128-byte form (R285, R335). -/
def Cmd.bytes (k : Cmd) : List Byte :=
  let axes := k.form.getD []
  let size := fun (i : Nat) => (axes.getD i (1, 0, 0)).1
  let strides := fun (f : Int × Int → Int) => (List.range 4).flatMap fun i => leBytes 4 (low32 (f (axes.getD i (1, 0, 0)).2))
  let two := fun (a b : Nat) => leBytes 4 a ++ leBytes 4 b
  let kind := if k.timed then 1 else if k.follow.isSome then 2 else 0
  let w0 := kind + (if k.ef then 4 else 0) + (if k.cmp then 8 else 0) + (if k.ls then 16 else 0) + k.ch.val * 2 ^ 5
    + (if k.ls then k.lat * 2 ^ 8 + k.islot * 2 ^ 14 else 0) + k.chunkNow % 2 ^ 24 * 2 ^ 24
  let w4 := k.src.code + k.dst.code * 2 ^ 5 + k.src.baxis * 2 ^ 10 + k.dst.baxis * 2 ^ 12 + eszOf k.src.fmt * 2 ^ 14
  let tail := match k.follow with
    | none => leBytes 16 0
    | some f =>
      let i : Instr := if f.sub = 0 then .mma f.op else if f.sub = 1 then .mmas f.op else .bld f.op
      (encode i).flatMap (leBytes 4) ++ leBytes 8 f.desc
  leBytes 8 w0 ++ leBytes 8 (if k.timed then k.time else 0) ++ leBytes 8 k.src.base ++ leBytes 8 k.dst.base ++ leBytes 8 w4
    ++ two (size 0) (size 1) ++ two (size 2) (size 3) ++ strides Prod.fst
    ++ leBytes 8 (low32 k.src.sstride) ++ strides Prod.snd ++ leBytes 8 (low32 k.dst.sstride)
    ++ two (low32 k.src.soff) (low32 k.dst.soff) ++ tail

/-- HOFF (R178): the held box of a Full node, else the box that the last FORCE pinned. -/
def Node.savedOff (d : Node) : Nat :=
  match d.boxes.find? Box.held with
  | some b => b.off
  | none => if d.boxes.any fun b => !b.pins.isEmpty && b.off == d.hoff then d.hoff else 2 ^ 32 - 1

/-- STATE of a record (R178). -/
def NodeState.code : NodeState → Nat
  | .pending => 1 | .partly => 2 | .full => 3

/-- The 16 bits of a source in a record (R178). -/
def NodeSrc.bits : NodeSrc → Nat
  | .none => 0
  | .node n => 1 + n * 4
  | .gen _ => 2

/-- The generator copy of a source, in 64 bytes. -/
def NodeSrc.genBytes : NodeSrc → List Byte
  | .gen g => leBytes 64 g.toNat
  | .none => leBytes 64 0
  | .node _ => leBytes 64 0

/-- A node's record (R178). -/
def Node.bytes (d : Node) : List Byte :=
  [BitVec.ofNat 8 d.op, BitVec.ofNat 8 d.fn, BitVec.ofNat 8 (d.ty.code + d.rm.code * 16), BitVec.ofNat 8 d.state.code]
    ++ leBytes 4 d.age ++ leBytes 8 d.apc.toNat ++ (List.range 4).flatMap (fun i => leBytes 4 (co d.ext i))
    ++ (List.range 3).flatMap (fun i => leBytes 2 (d.src i).bits) ++ leBytes 2 0 ++ leBytes 4 d.savedOff ++ leBytes 20 0
    ++ (List.range 3).flatMap (fun i => (d.src i).genBytes ++ leBytes 64 (d.maps.getD i 0).toNat) ++ leBytes 64 0

/-- A handle register (R175). -/
def handleWord (h : Option Nat) : Nat :=
  match h with
  | none => 0
  | some n => n + 2 ^ 9

/-- A parked stream of the group in the save header (R285). -/
def strmWord (p : Nat × Stream) : Nat :=
  1 + p.1 / 4 * 2 + p.1 % 4 * 2 ^ 7 + p.2.phase % 2 ^ 4 * 2 ^ 12 + p.2.row % 2 ^ 24 * 2 ^ 16

/-- The commands that a YIELD has squashed, in the order of enqueue (R285). -/
def State.squashedCmds (s : State) (c : CoreId) (g : Group) : List Cmd :=
  (s.core c).cmds.filter fun k => g.squashed.contains k.seq

/-- The save area (R285). SFLAGS takes in the flags of the squashed commands' retired chunks (R432). -/
def saveArea (s : State) (id : RoleId) (g : Group) (restore code : Nat) : List Byte :=
  let parked := ((s.streamsOf id g).filter fun p => p.2.state == .parked).take 4
  let nodes := g.tile.nodes
  let cmds := s.squashedCmds id.core g
  leBytes 2 0x4753 ++ [1, 0] ++ leBytes 2 cmds.length ++ leBytes 2 nodes.length ++ leBytes 8 restore ++ leBytes 8 code
    ++ leBytes 4 (s.remaining g) ++ leBytes 4 (cmds.foldl (fun f k => f ||| k.flags) g.flags).toNat
    ++ (List.range 4).flatMap (fun i => leBytes 8 ((parked.map strmWord).getD i 0))
    ++ loopBytes (g.role .compute).loops ++ cmds.flatMap Cmd.bytes ++ nodes.flatMap (fun p => p.2.bytes)
    ++ g.tile.handles.toList.flatMap fun h => leBytes 4 (handleWord h)

/-! ### YIELD (R284) -/

/-- The group's commands that a checkpoint waits for, and squashes when they are late. Link commands stay with the engine
(log 21). -/
def State.ownCopies (s : State) (c : CoreId) (i : SlotId) (g : Group) : List Cmd :=
  (s.core c).cmds.filter fun k => k.of i g && k.savable

/-- Does a checkpoint wait for a command however late it is: one that has done its work, or one that the 128-byte form cannot
hold (log 21)? -/
def Cmd.awaited (k : Cmd) : Bool := k.st == .done || (k.kind == .copy && !k.savable)

/-- Squash the group's commands and keep them for replay (R284): they do not start while the YIELD has not ended. -/
def State.squashAll (s : State) (c : CoreId) (i : SlotId) (g : Group) : State :=
  (s.ownCopies c i g).foldl (fun t k =>
    if g.squashed.contains k.seq then t
    else (t.squash c k).onGroup c i fun x => { x with squashed := x.squashed ++ [k.seq] }) s

/-- A YIELD that has begun to save is given up: its fallback has come, or the role goes on past it. Its commands run again, and
its streams run on. -/
def State.leaveYield (s : State) (c : CoreId) (i : SlotId) : State :=
  match s.group c i with
  | none => s
  | some g =>
    (s.onGroup c i fun x => { x with squashed := [], drainAt := none }).askStreams (fun t => t.heldBy ⟨c, i, .compute⟩ g) fun t =>
      { t with parkReq := (s.ctx g.ctx).state == .suspended }

/-- Are results of any of the group's matrix instructions, follow-ons among them, still to be written (R172, R334)? -/
def State.groupResults (s : State) (c : CoreId) (i : SlotId) (g : Group) : Bool :=
  (s.core c).array.any fun e => e.slot == i && e.order == g.order

/-- Do streams of the group still have to reach a row boundary? -/
def State.streamsMoving (s : State) (id : RoleId) (g : Group) : Bool :=
  (s.streamsOf id g).any fun p => p.2.state != .parked && p.2.state != .done

/-- The line that a delta of YIELD names (R59). -/
def lineAt (pc : Word) (delta : BitVec 20) : Option Nat :=
  match jumpTo pc delta.toInt 1 with
  | .goto t => some t
  | _ => none

/-- The end of a YIELD that saves: the save area is written, and the save sequence begins. -/
def saveGroup (frame save restore cont : Nat) : X Flow := do
  let m ← me
  let w ← whoami
  let s ← get
  match s.group m.1.core m.1.slot with
  | none => pure .gone
  | some g =>
    let area := saveArea s m.1 g (restore - 4) cont
    let r ← attempt (writeRun w (frame + 64) area)
    match r with
    | .error t => throw (.trap t (some (s.onGroup m.1.core m.1.slot fun g => { g with drainAt := none })))
    | .ok _ =>
      modify fun t => ((s.squashedCmds m.1.core g).foldl (fun t k => t.dropCmd m.1.core k) t).onGroup m.1.core m.1.slot fun g =>
        { g.onRole .compute fun k => k.setReg 8 (BitVec.ofNat 64 (frame + 64 + area.length)) with
            state := .saving (BitVec.ofNat 64 cont) (BitVec.ofNat 64 frame), drainAt := none, squashed := [] }
      pure (.goto save)

/-- YIELD in a marked group: it waits for the group's work, raises the fault of a held command (R337), squashes the copies that
are late, parks the streams, saves. -/
def yieldMarked (x y : BitVec 20) : X Flow := do
  let m ← me
  let frame := (m.2.2.reg 3).toNat
  match nextPc m.2.2.line m.2.2.pc.toNat 2, lineAt m.2.2.pc x, lineAt m.2.2.pc y with
  | some cont, some save, some restore => do
    let s ← get
    waitIf (s.groupResults m.1.core m.1.slot m.2.1)
    let r ← attempt (heldFault m.1.core fun k => k.of m.1.slot m.2.1)
    (match r with
    | .error t => throw (.trap t (some (s.onGroup m.1.core m.1.slot fun g => { g with drainAt := none })))
    | .ok _ => pure ())
    let since := m.2.1.drainAt.getD s.cycle.toNat
    let s1 := s.onGroup m.1.core m.1.slot fun g => { g with drainAt := some since }
    if (((s1.ownCopies m.1.core m.1.slot m.2.1).any fun k => !m.2.1.squashed.contains k.seq)
          && decide (s.cycle.toNat < since + copyDrainLimit))
        || (s1.core m.1.core).cmds.any fun k => k.of m.1.slot m.2.1 && k.awaited then
      set s1
      pure .gone
    else
      let s2 := (s1.squashAll m.1.core m.1.slot m.2.1).askStreams (fun t => t.heldBy m.1 m.2.1) fun t => { t with parkReq := true }
      set s2
      if s2.streamsMoving m.1 m.2.1 then pure .gone else saveGroup frame save restore cont
  | _, _, _ => fault 0x15 0

/-- YIELD (R284, R289). -/
def execYield (x y : BitVec 20) (s : State) : Host.Outcome State Fault Refusal :=
  instr 2 [] [] computeOnly (fun _ => do
    let m ← me
    faultIf (m.2.1.inSequence || !m.2.1.soleCompute) 0x15 0
    let p := (m.2.2.reg 3).toNat
    lowSpace p
    faultIf (p % 64 != 0) 0x04 p
    match m.2.1.state with
    | .marked _ => yieldMarked x y
    | _ => pure .seq) s

/-- Update every stream of the device. -/
def State.onStreams (s : State) (f : Nat → Stream → Stream) : State :=
  { s with lats := s.lats.map fun p => (p.1, { p.2 with stream := p.2.stream.map (f p.1) }) }

/-- Mark the streams of a group as taken by its checkpoint. What their rows have written so far does not update NANREC any
more (R432). -/
def State.takeStreams (s : State) (id : RoleId) (g : Group) : State :=
  s.onStreams fun _ t =>
    if t.heldBy id g then { t with taken := some (g.record.launch, g.record.index), nan := none } else t

/-- SAVE_SEQUENCE_END (R286): the record goes to the head of its queue, and the slot is free. It comes when the save
sequence's last instruction has retired. -/
def execSaveSequenceEnd (c : CoreId) (i : SlotId) (s : State) : Host.Outcome State Fault Refusal :=
  match s.group c i with
  | none => .next s
  | some g =>
    match g.state with
    | .saving cont frame =>
      if !(g.role .compute).ended || (g.role .compute).stalled then .next s
      else
        let old := g.record
        let r : Record := ⟨cont.toNat, frame.toNat, old.join, old.index, old.launch,
          recordFlags old.prio.val old.pj true old.clu⟩
        let id : RoleId := ⟨c, i, .compute⟩
        partStep (do
          pushRecord g.ctx r true
          modify fun t => (t.takeStreams id g).vacate c i) s
    | _ => .next s

/-! ### Restore (R287) -/

/-- A source in a record. -/
def srcOfBits (v : Nat) (g : Nat) : NodeSrc :=
  if v % 4 = 1 then .node (v / 4 % 512) else if v % 4 = 2 then .gen (BitVec.ofNat 512 g) else .none

/-- Are the reserved bits and bytes of a node record zero (R5, R155, R178, R180)? -/
def nodeRecordOk (b : List Byte) : Bool :=
  let f := fieldAt b
  decide (f 0 1 ≤ 5) && (f 0 1 == 2 || f 0 1 == 3 || f 1 1 == 0) && decide (f 2 1 < 64) && 1 ≤ f 3 1 && decide (f 3 1 ≤ 3)
    && decide (f 8 8 < 2 ^ 55) && f 38 2 == 0 && f 44 20 == 0 && f 448 64 == 0
    && (List.range 3).all fun i =>
      let src := f (32 + 2 * i) 2
      src % 4 != 3 && decide (src < 2 ^ 11) && (src % 4 == 2 || f (64 + 128 * i) 64 == 0) && f (64 + 128 * i) 64 / 2 ^ 423 == 0
        && decide (f (184 + 128 * i) 1 < 2 ^ 3) && f (185 + 128 * i) 7 == 0

/-- The box that a record's HOFF names (R178, R197): the held one of a Full node, over its full extent; the pinned one of a
Partial node, whose origin and extents the record does not hold and are left open within the node's (log 23). -/
def savedBox (tick seq : Nat) (d : Node) : List Box :=
  if d.hoff = 2 ^ 32 - 1 then []
  else
    match d.state with
    | .full => [⟨seq, [0, 0, 0, 0], d.out, d.hoff, [], true⟩]
    | .partly =>
      let org := (List.range 4).map fun i => Config.savedBox tick d.hoff i % max 1 (co d.out i)
      [⟨seq, org, (List.range 4).map fun i => 1 + Config.savedBox tick d.hoff (4 + i) % max 1 (co d.out i - co org i), d.hoff, [], false⟩]
    | .pending => []

/-- A node from its record, with the box that it names. -/
def nodeOfBytes (tick seq : Nat) (b : List Byte) : Node :=
  let f := fieldAt b
  let st : NodeState := if f 3 1 = 3 then .full else if f 3 1 = 2 then .partly else .pending
  let d : Node :=
    { op := f 0 1, fn := f 1 1, ty := (ElemTy.ofCode (f 2 1 % 16)).getD .f32, rm := (RM.ofCode (f 2 1 / 16 % 4)).getD .rne
      state := st, age := f 4 4, apc := BitVec.ofNat 64 (f 8 8), ext := (List.range 4).map fun i => f (16 + 4 * i) 4
      srcs := (List.range 3).map fun i => srcOfBits (f (32 + 2 * i) 2) (f (64 + 128 * i) 64)
      maps := (List.range 3).map fun i => BitVec.ofNat 512 (f (128 + 128 * i) 64), boxes := [], hoff := f 40 4 }
  { d with boxes := savedBox tick seq d }

/-- Pin the box of a restored Partial node by the lowest handle register that names the node (log 23). -/
def pinSaved (handles : List (Option Nat)) (p : Nat × Node) : Nat × Node :=
  match handles.findIdx? fun h => h == some p.1 with
  | none => p
  | some i => (p.1, { p.2 with boxes := p.2.boxes.map fun b => if b.held then b else { b with pins := [Fin.ofNat 64 i] } })

/-- A handle register from its word (R175); its reserved bits have been checked. -/
def handleOfWord (w : Nat) : Option Nat := if w / 2 ^ 9 % 2 = 1 then some (w % 2 ^ 9) else none

/-- Insert a number into a rising list. -/
def insertNat (x : Nat) : List Nat → List Nat
  | [] => [x]
  | y :: r => if x < y then x :: y :: r else if x = y then y :: r else y :: insertNat x r

/-- The numbers of saved nodes: the live nodes are those that a handle or another node names, and the records stand in
ascending number (R176, R285). -/
def savedNumbers (handles : List (Option Nat)) (nodes : List Node) : List Nat :=
  let named := handles.filterMap id ++ nodes.flatMap fun d => d.srcs.filterMap fun x =>
    match x with
    | .node n => some n
    | .none => none
    | .gen _ => none
  named.foldl (fun a n => insertNat n a) []

/-- The save header's checks (R287 step 1). -/
def saveHeaderOk (h : List Byte) : Bool :=
  let f := fieldAt h
  f 0 2 == 0x4753 && f 2 1 == 1 && f 3 1 == 0 && decide (f 4 2 ≤ 96) && decide (f 6 2 ≤ 512) && decide (f 28 4 < 128)
    && (List.range 4).all fun i =>
      let w := f (32 + 8 * i) 8
      nbits w 9 3 == 0 && nbits w 40 24 == 0

/-- Steps 1 and 2 of the restore (R287): header, loop stack, nodes, handles, flags, estimate; the squashed commands wait in
the group. The slot goes on to their replay. A node record or handle with a reserved bit set is rejected as the header is, at the
header (DEDUCED, log 54). -/
def restoreState (c : CoreId) (i : SlotId) (g : Group) (w : Who) : X Unit := do
  let p := g.record.frame
  pointerOk 1 p
  faultIf (p % 64 != 0) 0x04 p
  let h ← readRun w (p + 64) 64
  faultIf (!saveHeaderOk h) 0x01 (p + 64)
  let f := fieldAt h
  let loops ← readRun w (p + 128) 64
  let cmds ← readRun w (p + 192) (128 * f 4 2)
  let recs ← readRun w (p + 192 + 128 * f 4 2) (512 * f 6 2)
  let hs ← readRun w (p + 192 + 128 * f 4 2 + 512 * f 6 2) 256
  let reqs := (List.range (f 4 2)).map fun k => parseCommand (p + 192 + 128 * k) ((cmds.drop (128 * k)).take 128)
  (match reqs.findIdx? Option.isNone with
  | some k => fault 0x01 (p + 192 + 128 * k)
  | none => pure ())
  faultIf ((List.range (f 6 2)).any fun k => !nodeRecordOk ((recs.drop (512 * k)).take 512)) 0x01 (p + 64)
  faultIf ((List.range 64).any fun k => 2 ^ 10 ≤ fieldAt hs (4 * k) 4) 0x01 (p + 64)
  let tick := (← get).tick
  let nodes := (List.range (f 6 2)).map fun k => nodeOfBytes tick k ((recs.drop (512 * k)).take 512)
  let handles : Vector (Option Nat) 64 := Vector.ofFn fun k => handleOfWord (fieldAt hs (4 * k.val) 4)
  let named := ((savedNumbers handles.toList nodes).zip nodes).map (pinSaved handles.toList)
  let ages := nodes.foldl (fun a d => max a (d.age + 1)) 0
  modify fun s => s.onGroup c i fun g =>
    { g.onRole .compute fun k => { k with loops := loopsOf loops } with
        tile := { g.tile with nodes := named, handles := handles, appends := ages, boxSeq := nodes.length }
        flags := BitVec.ofNat 7 (f 28 4), estimate := f 24 4, estimateSet := s.cycle.toNat
        state := .replaying 0 (BitVec.ofNat 64 (f 8 8)) (BitVec.ofNat 64 (f 16 8)) }

/-- Enter the k-th saved command again (R287 step 3). -/
def restoreCommand (w : Who) (p k : Nat) : X Unit := do
  let b ← readRun w (p + 192 + 128 * k) 128
  match parseCommand (p + 192 + 128 * k) b with
  | none => fault 0x01 (p + 192 + 128 * k)
  | some o =>
    let _ ← enqueueCopy o
    pure ()

/-- Give the streams of a save area back to a group (R287 step 4). -/
def State.returnStreams (s : State) (c : CoreId) (i : SlotId) (g : Group) (strm : List Nat) : State :=
  s.onStreams fun k t =>
    if t.ctx == g.ctx && t.taken == some (g.record.launch, g.record.index)
        && (t.state == .done || strm.contains (strmWord (k, t))) then
      { t with core := c, gslot := i, order := g.order, taken := none, parkReq := false }
    else t

/-- Where the software part of a save area starts, by its header (R285). -/
def softOf (p : Nat) (h : List Byte) : Nat := p + 192 + 128 * fieldAt h 4 2 + 512 * fieldAt h 6 2 + 256

/-- The software part of a group's save area; the start of the frame where its header cannot be read. -/
def State.softPart (s : State) (w : Who) (p : Nat) : Nat :=
  match readRun w (p + 64) 64 .read s with
  | .ok (h, _) => softOf p h
  | .error _ => p

/-- Steps 3 to 5 of the restore, once the saved commands have been entered and have retired. -/
def restoreRest (c : CoreId) (i : SlotId) (g : Group) (w : Who) (restore cont : Word) : X Unit := do
  let h ← readRun w (g.record.frame + 64) 64
  let strm := (List.range 4).map fun k => fieldAt h (32 + 8 * k) 8
  let s ← get
  match s.descOf g with
  | none => pure ()
  | some d =>
    set ((s.returnStreams c i g strm).onGroup c i fun g =>
      { g.onRole .compute fun k =>
          { k with status := .running, pc := restore + 4, line := [], ended := false
                   regs := vset (startRegs s c i g d.args) 8 (BitVec.ofNat 64 (softOf g.record.frame h)) }
        with state := .restoring cont .none })

/-- The part of the restore that the slot's state calls for. -/
def restoreStep (c : CoreId) (i : SlotId) (g : Group) : X Unit := do
  let w : Who := ⟨g.ctx, some c, some i⟩
  match g.state with
  | .starting => restoreState c i g w
  | .replaying k restore cont =>
    modify fun s => { s with cur := ⟨c, i, .compute⟩ }
    let h ← readRun w (g.record.frame + 64) 64
    if k < fieldAt h 4 2 then
      restoreCommand w g.record.frame k
      modify fun s => s.onGroup c i fun g => { g with state := .replaying (k + 1) restore cont }
    else
      awaitCopies fun _ => true
      restoreRest c i g w restore cont
  | _ => pure ()

/-- The word 1 of the restore line, where a fault of the restore is raised; the record's CODE where the header cannot be
read. -/
def restorePc (s : State) (c : CoreId) (i : SlotId) (g : Group) : Word :=
  match readRun ⟨g.ctx, some c, some i⟩ (g.record.frame + 64) 64 .read s with
  | .ok (h, _) => BitVec.ofNat 64 (fieldAt h 8 8 + 4)
  | .error _ => BitVec.ofNat 64 g.record.code

/-- GROUP_RESTORE (R287): one step of the restore: the state, then each saved command, then streams and the sequence. -/
def execGroupRestore (c : CoreId) (i : SlotId) (s : State) : Host.Outcome State Fault Refusal :=
  match s.group c i with
  | none => .next s
  | some g =>
    let due := match g.state with
      | .starting => g.record.ckpt
      | .replaying _ _ _ => true
      | _ => false
    if !due || (g.role .compute).stalled then .next s
    else
      match restoreStep c i g s with
      | .ok (_, t) => .next { t with cur := s.cur }
      | .error (.trap t keep) => .next (({ keep.getD s with cur := s.cur } : State).takeFault ⟨c, i, .compute⟩ t (restorePc s c i g) false)
      | .error .wait => .next s
      | .error (.ask f) => .next (f s)
      | .error (.halt f) => .fault f

/-- RESTORE_SEQUENCE_END (R287): the compute role continues at CODE. -/
def execRestoreSequenceEnd (c : CoreId) (i : SlotId) (s : State) : Host.Outcome State Fault Refusal :=
  match s.group c i with
  | none => .next s
  | some g =>
    match g.state with
    | .restoring cont mark =>
      if !(g.role .compute).ended || (g.role .compute).stalled then .next s
      else
        let g1 : Group := ({ g.onRole .compute fun k => { k.goto cont.toNat with line := [] } with state := .running } : Group).mark mark
        .next (s.setGroup c i (some (if (s.ctx g.ctx).state == .suspended then s.suspendGroup g1
          else if (s.ctx g.ctx).state == .draining then s.drainGroup g1 else g1)))
    | _ => .next s

/-! ### Kill (R283) -/

/-- Can a command never retire by itself: held as faulted, or waiting for what other processors have not sent (log 24)? -/
def State.stuck (s : State) (k : Cmd) : Bool :=
  match k.st with
  | .faulted _ _ _ => true
  | .exchanging sent _ => !s.partnersCame k sent
  | .queued | .reading _ _ _ | .writing _ _ _ | .following | .done => false

/-- What a kill waits for: chunks that hold translations, within COPY_DRAIN_LIMIT (R283); under CANCEL the retirement of every
copy of the group (R257). -/
def State.killWaits (s : State) (c : CoreId) (i : SlotId) (g : Group) (since : Nat) (retire : Bool) : Bool :=
  (s.core c).cmds.any fun k => k.of i g
    && (if retire then true else decide (s.cycle.toNat < since + copyDrainLimit) && !k.holds.isEmpty)

/-- Squash commands of a group without replay (R283). -/
def State.dropCopies (s : State) (c : CoreId) (i : SlotId) (g : Group) (which : Cmd → Bool) : State :=
  ((s.core c).cmds.filter fun k => k.of i g && which k).foldl (fun t k => (t.abandonCmd c k).dropCmd c k) s

/-- The end of a kill: the record goes back, or the launch counts the group as ended (R283, R430). -/
def killEnd (c : CoreId) (i : SlotId) (g : Group) (requeue ended : Bool) : X Unit := do
  if requeue then pushRecord g.ctx g.record true else pure ()
  if ended then groupDone g.ctx g.record.launch else pure ()
  modify fun s => (s.partMates g).vacate c i

/-- GROUP_KILL (R283): a group that is to be killed has stopped; its issued matrix instructions complete, its commands are
squashed, its streams released, and the slot is free. -/
def execGroupKill (c : CoreId) (i : SlotId) (s : State) : Host.Outcome State Fault Refusal :=
  match s.group c i with
  | none => .next s
  | some g =>
    match g.state with
    | .dying requeue ended retire =>
      let id : RoleId := ⟨c, i, .compute⟩
      let since := g.drainAt.getD s.cycle.toNat
      let s1 := (s.onGroup c i fun g => { g with drainAt := some since, squashed := [] }).dropCopies c i g fun k =>
        retire && s.stuck k
      if s.groupResults c i g || s1.killWaits c i g since retire then .next s1
      else
        let s2 := (s1.dropCopies c i g fun _ => true).releaseStreams id g
        if (s2.streamsOf id g).isEmpty then partStep (killEnd c i g requeue ended) s2 else .next s2
    | _ => .next s

/-- When a group has been marked for checkpoint, if it has. -/
def Group.markedSince (g : Group) : Option Nat :=
  match g.state with
  | .marked since | .restoring _ (.checkpoint since) => some since
  | .starting | .running | .draining | .saving _ _ | .restoring _ .none | .restoring _ .drain | .replaying _ _ _
  | .dying _ _ _ => none

/-- CHECKPOINT_TIMEOUT (R283): no YIELD within YIELDMAX of the mark; kill where restartable, else drain. The fallback is
a second pre-emption decision in the log, unless SUSPEND or DRAIN marked the group (R247). -/
def execCheckpointTimeout (c : CoreId) (i : SlotId) (s : State) : Host.Outcome State Fault Refusal :=
  match s.group c i with
  | none => .next s
  | some g =>
    match g.markedSince, s.headerOf g with
    | some since, some h =>
      if s.cycle.toNat < since + h.yieldmax || g.drainAt.isSome then .next s
      else
        let t := if h.restartable then 2 else 0
        if (s.ctx g.ctx).state == .running then
          partStep (do
            let t ← decideTreatment g.ctx c g t
            modify fun s => (s.treat c i t).leaveYield c i) s
        else .next ((s.treat c i t).leaveYield c i)
    | _, _ => .next s

end Sys2Proof.Machine
end

