-- ==== Sys2Proof/Machine/Context.lean ====
section
/-! DEFINITION. Contexts (R234 to R246): the commands of CTXCMD and the steps that end them, zeroing, re-encryption. -/

namespace Sys2Proof.Machine

open Sys2Proof

/-! ### Commands (R235, R236) -/

/-- Reject a command: REJ and ERR, and nothing else (R235). -/
def State.rejectCtx (s : State) (x : CtxId) (err : BitVec 8) : State := s.onCtx x fun c => { c with rej := true, err := err }

/-- A command of CTXCMD on the selected context: the rejections of R235, R439 and R443 come first. One from an agent without privilege does
not exist. -/
def ctxCommand (by_ : Agent) (act : CtxId → State → Host.Outcome State Fault Refusal) (s : State) :
    Host.Outcome State Fault Refusal :=
  let x := (s.priv by_).ctxsel
  if !s.privileged by_ then .next s
  else if (s.ctx x).busy || s.ctl.applying then .next (s.rejectCtx x 0x01)
  else if s.safe then .next (s.rejectCtx x 0x02)
  else act x s

/-- Reject a command in a state where it is not legal. -/
def notNow (x : CtxId) (s : State) : Host.Outcome State Fault Refusal := .next (s.rejectCtx x 0x02)

/-! ### CREATE (R237, R238) -/

/-- The 128 bytes of a descriptor: what they say, or the first failing check of R237. -/
def parseContext (b : List Byte) : Except (BitVec 8) Desc :=
  let f := fieldAt b
  let mode := f 62 1
  let d : Desc :=
    { ptroot := f 0 8, levelt := f 8 8, faultq := BitVec.ofNat 64 (f 16 8), logbase := f 24 8, logsize := f 32 4
      tokens := f 36 2, thresh := f 38 2, cores := BitVec.ofNat 128 (f 40 16), units := BitVec.ofNat 48 (f 56 6)
      sys := nbits mode 0 1 == 1, lend := nbits mode 1 1 == 1, replay := nbits mode 2 1 == 1
      key := Fin.ofNat 16 (f 63 1), keys := BitVec.ofNat 16 (f 64 2), bufmapn := f 68 4, bufmap := f 72 8 }
  if mode / 8 != 0 || f 63 1 / 16 != 0 || f 66 2 != 0 || !allZero ((b.drop 80).take 48) then .error 0x03
  else if d.ptroot % 2 ^ 16 != 0 || d.logbase % 4096 != 0 || d.bufmap % 64 != 0 then .error 0x04
  else if d.tokens == 0 || d.logsize == 0 || decide (2 ^ 20 < d.logsize) || decide (64 < d.bufmapn) || d.cores == 0
      || !d.keys.getLsbD d.key.val then .error 0x05
  else .ok d

/-- CREATE (R236, R237): the descriptor at CTXDESC is read in plain (R244). -/
def execCreate (by_ : Agent) (s : State) : Host.Outcome State Fault Refusal :=
  ctxCommand by_ (fun x s =>
    if (s.ctx x).state != .free || s.ctl.debugOpen then notNow x s
    else
      let pa := (s.priv by_).ctxdesc / 128 * 128
      match rawRead none pa pa 128 s with
      | .ok (b, t) =>
        (match parseContext b.1 with
        | .error e => .next (t.rejectCtx x e)
        | .ok d => .next (t.onCtx x fun c => { c with state := .created, desc := d, apBase := 0 }))
      | .error (.halt f) => .fault f
      | .error _ => .next (s.rejectCtx x 0x03)) s

/-! ### LOAD (R237, R238, R245, R356) -/

/-- Do two contexts claim a core or a key slot in common? -/
def Desc.meets (a b : Desc) : Bool := (a.cores &&& b.cores) != 0 || (a.keys &&& b.keys) != 0

/-- What a backing's kind is: local, or the kind of its pool region. -/
def State.backKind (s : State) (pa : Nat) : Nat :=
  match backing s.srows pa with
  | .hbm _ _ => 0
  | .pool _ _ => (match s.regionOf pa with
    | none => 4
    | some r => r.kind)
  | .unbacked => 5

/-- Are the backings of a range of pages of one kind throughout (R245)? -/
def State.backsAlike (s : State) (e : Buf) : Bool :=
  (List.range e.pages).all fun i =>
    s.backKind (e.backA + i * 2 ^ 16) == s.backKind e.backA && s.backKind (e.backB + i * 2 ^ 16) == s.backKind e.backA

/-- An entry of the buffer map (R245); none where it is malformed. -/
def parseBuf (s : State) (b : List Byte) : Option Buf :=
  let f := fieldAt b
  let e : Buf := ⟨f 0 8, f 8 4, f 12 4 == 1, f 16 8, f 24 8⟩
  if e.vbase % 2 ^ 16 == 0 && decide (e.vbase < 2 ^ 55) && decide (1 ≤ e.pages) && decide (e.pages ≤ 65536)
      && decide (f 12 4 < 2) && e.backA % 2 ^ 16 == 0 && e.backB % 2 ^ 16 == 0 && s.backsAlike e
  then some e else none

/-- Do no two entries overlap? -/
def bufsApart : List Buf → Bool
  | [] => true
  | b :: r => (r.all fun c =>
      decide (b.vbase + b.pages * 2 ^ 16 ≤ c.vbase) || decide (c.vbase + c.pages * 2 ^ 16 ≤ b.vbase)) && bufsApart r

/-- An entry of the free-page queue table (R356); one that is not valid names no queue. -/
def parseFpq (b : List Byte) : Fpq :=
  let f := fieldAt b
  let k := f 12 1
  let ok := f 13 1 < 16 && f 14 2 == 0 && f 24 8 == 0 && nbits k 2 5 == 0 && nbits k 0 2 != 2 && nbits k 7 1 == 1
    && f 0 8 % 64 == 0 && powerOfTwo 1 (2 ^ 20) (f 8 4)
  ⟨f 0 8, f 8 4, nbits k 0 2, ok, Fin.ofNat 16 (f 13 1), f 16 4, f 20 4⟩

/-- Read a structure that the part holds under the primary key (R244, R456); one of no bytes takes no read. -/
def partRead (x : CtxId) (pa n : Nat) : X (List Byte) := do
  if n = 0 then return []
  let s ← get
  let r ← rawRead (s.keyOf (s.ctx x).desc.key) pa pa n
  pure r.1

/-- Write such a structure. -/
def partWrite (x : CtxId) (pa : Nat) (bs : List Byte) : X Unit := do
  let s ← get
  rawWrite (s.keyOf (s.ctx x).desc.key) pa pa bs

/-- The free-page queues that FPQT names (R356). -/
def readFpqs (x : CtxId) : X (List Fpq) := do
  let t := ((← get).ctx x).fpqt.toNat
  if t = 0 then pure []
  else
    let b ← partRead x t 512
    pure ((List.range 16).map fun i => parseFpq ((b.drop (32 * i)).take 32))

/-- Does a context in one of some states hold a core or key of another? -/
def State.heldBy (s : State) (x : CtxId) (states : List CtxState) : Bool :=
  (List.finRange 16).any fun y =>
    y != x && states.contains (s.ctx y).state && (s.ctx y).desc.meets (s.ctx x).desc

/-- LOAD once nothing that it claims is being scrubbed (R237). -/
def loadNow (x : CtxId) : X Unit := do
  let s ← get
  let c := s.ctx x
  let fail := fun (e : BitVec 8) => (set ((s.onCtx x fun c => { c with busy := false }).rejectCtx x e) : X Unit)
  if s.heldBy x [.loaded, .running, .suspended, .draining] then fail 0x06
  else
    let b ← partRead x c.desc.bufmap (32 * c.desc.bufmapn)
    let bufs := (List.range c.desc.bufmapn).map fun i => parseBuf s ((b.drop (32 * i)).take 32)
    match allSome bufs with
    | none => fail 0x05
    | some bs =>
      if !bufsApart bs then fail 0x05
      else
        let qs ← readFpqs x
        modify fun s => s.onCtx x fun c =>
          { c with state := .loaded, busy := false, bufs := bs, fpqs := qs, counters := Vector.replicate 5 0, logHead := 0
                   logTail := 0, replayAt := Vector.replicate 5 0, bindqs := [], ready := Vector.replicate 4 ⟨[], 0, 0⟩
                   levels := [], faultHeld := [], faultUnheld := [], faultSeq := 0, zeroing := none, reserved := [], drainMark := false
                   hostPending := [], fpqBase := c.fpqt.toNat }

/-- LOAD (R236, R237): it waits, with BUSY set, while what it claims is being scrubbed. -/
def execLoad (by_ : Agent) (s : State) : Host.Outcome State Fault Refusal :=
  ctxCommand by_ (fun x s =>
    if (s.ctx x).state != .created then notNow x s
    else if s.heldBy x [.scrubbing] then .next (s.onCtx x fun c => { c with busy := true })
    else partStep (loadNow x) s) s

/-! ### RUN, SUSPEND, RESUME, DRAIN (R236, R239) -/

/-- RUN (R236, R267). -/
def execRun (by_ : Agent) (s : State) : Host.Outcome State Fault Refusal :=
  ctxCommand by_ (fun x s =>
    if (s.ctx x).state != .loaded then notNow x s
    else .next (s.onCtx x fun c => { c with state := .running, deficit := 0, visits := 0 })) s

/-- SUSPEND (R236, R239). -/
def execSuspend (by_ : Agent) (s : State) : Host.Outcome State Fault Refusal :=
  ctxCommand by_ (fun x s =>
    if (s.ctx x).state != .running then notNow x s else .next ((s.suspendCtx x).parkStreams x)) s

/-- DRAIN's effects on what a context has assigned (R236). -/
def drainCtx (x : CtxId) : X Unit := do
  keepReady x fun _ => false
  modify fun s =>
    (s.onGroupsOf x fun g => s.drainGroup g).onCtx x fun c =>
      { c with state := .draining, busy := true, drainMark := false, reserved := []
               levels := c.levels.map fun p => (p.1, { p.2 with node := none }) }

/-- RESUME (R236): streams that no checkpoint has taken run on (R395). -/
def execResume (by_ : Agent) (s : State) : Host.Outcome State Fault Refusal :=
  ctxCommand by_ (fun x s =>
    if (s.ctx x).state != .suspended then notNow x s
    else
      let s1 := s.askStreams (fun t => t.ctx == x && t.taken.isNone) fun t => { t with parkReq := false }
      if (s.ctx x).drainMark then partStep (drainCtx x) s1
      else .next (s1.onCtx x fun c => { c with state := .running })) s

/-- DRAIN (R236). -/
def execDrain (by_ : Agent) (s : State) : Host.Outcome State Fault Refusal :=
  ctxCommand by_ (fun x s =>
    match (s.ctx x).state with
    | .created => .next (s.onCtx x fun c => { c with state := .free })
    | .running | .suspended | .loaded => partStep (drainCtx x) s
    | .free | .draining | .scrubbing => notNow x s) s

/-! ### The end of SUSPEND and DRAIN -/

/-- Write back what the part keeps on chip (R245, R292, R356): VIS bits, HEAD and TAIL of bindable and free-page queues. A
structure that cannot be written is left. -/
def State.writeBackCtx (s : State) (x : CtxId) : State :=
  let c := s.ctx x
  let s1 := c.bufs.zipIdx.foldl (fun t p =>
    t.tryDo (partWrite x (c.desc.bufmap + 32 * p.2 + 12) (leBytes 4 (if p.1.visB then 1 else 0)))) s
  let s2 := c.fpqs.zipIdx.foldl (fun t p =>
    t.tryDo (partWrite x (c.fpqBase + 32 * p.2 + 16) (leBytes 4 p.1.head ++ leBytes 4 p.1.tail))) s1
  c.bindqs.foldl (fun t q => t.tryDo (bindqBack ⟨x, none, none⟩ q)) s2

/-- Has a context commands in any copy engine? -/
def State.hasCopies (s : State) (x : CtxId) : Bool := s.cores.toList.any fun k => k.cmds.any fun c => c.ctx == x

/-- Has a context a stream that runs? -/
def State.hasStreams (s : State) (x : CtxId) : Bool :=
  s.lats.any fun p => match p.2.stream with
    | none => false
    | some t => t.ctx == x && t.taken.isNone

/-- SUSPEND_COMPLETE (R236): the last group has left. -/
def execSuspendComplete (x : CtxId) (s : State) : Host.Outcome State Fault Refusal :=
  if (s.ctx x).state == .suspended && (s.ctx x).busy && (s.groupsOf x).isEmpty then
    .next ((s.writeBackCtx x).onCtx x fun c => { c with busy := false })
  else .next s

/-- DRAIN_COMPLETE (R236): no group, copy or stream of the context is left; its levels are cancelled and scrubbing begins. -/
def execDrainComplete (x : CtxId) (s : State) : Host.Outcome State Fault Refusal :=
  if (s.ctx x).state == .draining && (s.groupsOf x).isEmpty && !s.hasCopies x && !s.hasStreams x then
    match cancelAll x s with
    | .ok (_, t) => .next ((t.writeBackCtx x).onCtx x fun c => { c with state := .scrubbing })
    | .error (.halt f) => .fault f
    | .error _ => .next s
  else .next s

/-! ### Zeroing (R246) -/

/-- The valid directory entries of a table at a physical address: index and next table. -/
def State.directoryOf (s : State) (key : KeyRef) (table : Nat) : List (Nat × Nat) :=
  (List.range 8192).filterMap fun i =>
    let r := s.heldBytes key (table + 8 * i) 8
    let d := leNat r.1
    if r.2 || d % 2 = 0 || d / 2 % 2 ^ 15 != 0 then none else some (i, d / 2 ^ 16 % 2 ^ 36 * 2 ^ 16)

/-- An entry of a level-3 table: where it stands, the page it maps, and the entry. -/
structure LeafAt where
  pa : Nat
  va : Nat
  leaf : Nat
  deriving DecidableEq, Repr

/-- The entries of a context's level-3 tables that are valid or grow leaves. -/
def State.leavesOf (s : State) (x : CtxId) : List LeafAt :=
  let key := s.keyOf (s.ctx x).desc.key
  (s.directoryOf key (s.ctx x).desc.ptroot).flatMap fun a =>
    (s.directoryOf key a.2).flatMap fun b =>
      (List.range 8192).filterMap fun i =>
        let r := s.heldBytes key (b.2 + 8 * i) 8
        let f := leNat r.1
        if r.2 || (f % 2 = 0 && !lbit f 7) then none
        else some ⟨b.2 + 8 * i, (a.1 * 2 ^ 26 + b.1 * 2 ^ 13 + i) * 2 ^ 16, f⟩

/-- The tables reachable from PTROOT. -/
def State.tablesOf (s : State) (x : CtxId) : List Nat :=
  let key := s.keyOf (s.ctx x).desc.key
  let l2 := (s.directoryOf key (s.ctx x).desc.ptroot).map Prod.snd
  (s.ctx x).desc.ptroot :: l2 ++ l2.flatMap fun t => (s.directoryOf key t).map Prod.snd

/-- Zeros over a page of local HBM under a key. -/
def State.zeroUnder (s : State) (key : KeyRef) (pa n : Nat) : State :=
  let s1 := s.zeroRange pa n
  { s1 with keyTag := (List.range (n / 64)).foldl (fun m i => SMap.set m (pa / 64 + i) key) s1.keyTag }

/-- The bytes of an on-chip space of a core that scrubbing zeroes: the context's units, every row, the weight stack. -/
def State.zeroCore (s : State) (x : CtxId) (c : CoreId) : State :=
  let s1 := (List.range 48).foldl (fun t u =>
    if (s.ctx x).desc.units.getLsbD u then t.zeroChip (onChipKey 1 c (u * 2 ^ 16)) (2 ^ 16) else t) s
  let s2 := (s1.zeroChip (onChipKey 2 c 0) (2 ^ 19)).zeroChip (onChipKey 3 c 0) (6 * 2 ^ 20)
  s2.onCore c fun k => { k with tlb := [], lines := [], array := [], board := [] }

/-- Owned cores of a descriptor. -/
def Desc.coreList (d : Desc) : List CoreId := (List.finRange 128).filter fun c => d.cores.getLsbD c.val

/-- Key slots of a descriptor. -/
def Desc.keyList (d : Desc) : List (Fin 16) := (List.finRange 16).filter fun k => d.keys.getLsbD k.val

/-- The local pages of a context's valid leaves. -/
def State.localPages (s : State) (x : CtxId) : List Nat :=
  dedup ((s.leavesOf x).filterMap fun l =>
    if l.leaf % 2 = 1 && leafKind l.leaf = 0 && (match backing s.srows (leafPa l.leaf) with
      | .hbm _ _ => true
      | .pool _ _ => false
      | .unbacked => false) then some (leafPa l.leaf) else none)

/-- A slot without a stream of a context; one that the context owns is zeroed (R369). -/
def LatSlot.without (p : LatSlot) (x : CtxId) : LatSlot :=
  if p.valid && p.owner == x then { p with stream := none, acc := [], image := none }
  else
    match p.stream with
    | none => p
    | some t => if t.ctx == x then { p with stream := none, acc := [] } else p

/-- Zero everything of a context, then its keys, and release it (R246). -/
def State.scrub (s : State) (x : CtxId) : State :=
  let d := (s.ctx x).desc
  let s1 := (s.localPages x).foldl (fun t pa => t.zeroUnder (s.keyOf d.key) pa (2 ^ 16)) s
  let s2 := d.coreList.foldl (fun t c => t.zeroCore x c) s1
  let s3 := { s2 with
    keySlots := d.keyList.foldl (fun v k => vset v k 0) s2.keySlots
    dieTlb := s2.dieTlb.map fun (t : List TlbEntry) => t.filter fun e => e.ctx != x
    walks := s2.walks.filter fun (w : Walk) => w.ctx != x
    coll := s2.coll.filter fun (p : CollKey × Nat) => p.1.ctx != x
    collOwed := s2.collOwed.filter fun (o : Owed) => o.ctx != x
    lats := s2.lats.map fun (p : Nat × LatSlot) => (p.1, p.2.without x) }
  s3.onCtx x fun c =>
    { Context.fresh with rej := c.rej, err := c.err, diverge := c.diverge, logHead := c.logHead, logTail := c.logTail
                         fpqt := c.fpqt, fpqRej := c.fpqRej, fpqErr := c.fpqErr, fpqLast := c.fpqLast
                         hostResult := c.hostResult, apBase := c.apBase }

/-- LOADs that waited for a scrub go on, in ascending context number (R237). -/
def State.resumeLoads (s : State) : State :=
  (List.finRange 16).foldl (fun t x =>
    if (t.ctx x).state == .created && (t.ctx x).busy && !t.heldBy x [.scrubbing] then t.tryDo (loadNow x) else t) s

/-- SCRUB_COMPLETE (R236, R246). -/
def execScrubComplete (x : CtxId) (s : State) : Host.Outcome State Fault Refusal :=
  if (s.ctx x).state == .scrubbing then .next (s.scrub x).resumeLoads else .next s

/-! ### REKEY (R244) -/

/-- Re-encrypt one atom or pool line: what it reads as in `src` under the old key, in local HBM, is written under the new one;
what nothing has written under a key stays as it is. Doing it twice is doing it once. -/
def rekeyAtom (src : State) (old new : KeyRef) (t : State) (a : Nat) : State :=
  match SMap.get src.keyTag a with
  | none => t
  | some k =>
    match backing src.srows (a * 64) with
    | .hbm _ _ =>
      { t.putBytes (a * 64) ((List.range 64).map fun j => src.hbmByte old (a * 64 + j)) with
               keyTag := SMap.set t.keyTag a new }
    | .pool _ _ => if k = old then { t with keyTag := SMap.set t.keyTag a new } else t
    | .unbacked => t

/-- The counters of a 4 KiB pool page at 0, its MACs made afresh, and the tree above it rewritten (R242, R244). -/
def State.rekeyMeta (s : State) (new : KeyRef) (page : Nat) : State :=
  match s.regionAt page with
  | none => s
  | some (i, r) =>
    let blk := metaBlock r page
    let macs := (List.range 64).foldl (fun t l =>
      t.putMac ((SMap.get t.keyTag (page / 64 + l)).getD none) blk l (page / 64 + l)) (s.zeroRange blk 512)
    macs.countTree new i r page

/-- The places of a physical range: itself, and of a replicated region every replica (R400). -/
def State.placesOf (s : State) (pa : Nat) : List Nat :=
  match s.regionAt pa with
  | none => [pa]
  | some (_, r) => if r.kind = 2 then r.devices.map fun c => poolPa c (pa % 2 ^ 42) else [pa]

/-- Re-encrypt a range as it stands in `src` (R244). -/
def State.rekeyRange (src : State) (old new : KeyRef) (t : State) (r : Nat × Nat) : State :=
  (src.placesOf r.1).foldl (fun t pa =>
    let t1 := (spans 64 pa r.2).foldl (fun t p => rekeyAtom src old new t (p.1 / 64)) t
    match backing src.srows pa with
    | .pool _ _ => (spans 4096 pa r.2).foldl (fun t p => t.rekeyMeta new (p.1 / 4096 * 4096)) t1
    | .hbm _ _ => t1
    | .unbacked => t1) t

/-- A leaf or grow leaf with its KEY field replaced. -/
def withKey (leaf : Nat) (k : Fin 16) : Nat := leaf / 2 ^ 16 * 2 ^ 16 + k.val * 2 ^ 12 + leaf % 2 ^ 12

/-- The pages that a free-page queue holds. -/
def Fpq.pagesHeld (q : Fpq) (s : State) (key : KeyRef) : List Nat :=
  (List.range q.count).map fun i =>
    leNat (s.heldBytes key (q.base + 8 * ((q.head + i) % q.cap)) 8).1 / 2 ^ 16 % 2 ^ 36 * 2 ^ 16

/-- The ranges that the part holds under the primary slot beside pages (R244): tables, level table and ready queues, log,
buffer map, free-page queues. -/
def State.partRanges (s : State) (x : CtxId) : List (Nat × Nat) :=
  let c := s.ctx x
  ((s.tablesOf x).map fun pa => (pa, 2 ^ 16)) ++ [(c.desc.levelt, 0x120000), (c.desc.logbase, 4096 * c.desc.logsize),
    (c.desc.bufmap, 32 * c.desc.bufmapn)] ++ (if c.fpqBase = 0 then [] else [(c.fpqBase, 512)])
    ++ (c.fpqs.filter Fpq.valid).map fun q => (q.base, 8 * q.cap)

/-- The pages under the primary slot: mapped ones, both backings of a shadowed one, those in free-page queues (R244). -/
def State.pagesUnder (s : State) (x : CtxId) (valid : List LeafAt) : List Nat :=
  let c := s.ctx x
  let backs := c.bufs.flatMap fun b => (List.range b.pages).flatMap fun i =>
    if valid.any fun l => l.va == b.vbase + i * 2 ^ 16 then [b.backA + i * 2 ^ 16, b.backB + i * 2 ^ 16] else []
  let queued := (c.fpqs.filter fun q => q.valid && q.key == c.desc.key).flatMap fun q => q.pagesHeld s (s.keyOf c.desc.key)
  dedup (valid.map (fun l => leafPa l.leaf) ++ backs ++ queued)

/-- Re-encrypt everything that the part holds under the primary slot (R244): the KEY fields first, still under the old
key. -/
def State.rekey (s : State) (x : CtxId) (n : Fin 16) : State :=
  let c := s.ctx x
  let old := c.desc.key
  let ko := s.keyOf old
  let mine := (s.leavesOf x).filter fun l => leafKey l.leaf == old
  let ranges := ((s.pagesUnder x (mine.filter fun l => l.leaf % 2 == 1)).map fun pa => (pa, 2 ^ 16)) ++ s.partRanges x
  let s1 := mine.foldl (fun t l => t.tryDo (rawWrite ko l.pa l.pa (leBytes 8 (withKey l.leaf n)))) s
  let s2 := c.fpqs.zipIdx.foldl (fun t q =>
    if q.1.valid && q.1.key == old then
      t.tryDo (rawWrite ko (c.fpqBase + 32 * q.2 + 13) (c.fpqBase + 32 * q.2 + 13) [BitVec.ofNat 8 n.val])
    else t) s1
  let s3 := ranges.foldl (s2.rekeyRange ko (s.keyOf n)) s2
  let s4 := s3.onCtx x fun c =>
    { c with desc := { c.desc with key := n }
             fpqs := c.fpqs.map fun q => if q.key = old then { q with key := n } else q }
  { s4 with keySlots := vset s4.keySlots old 0 }

/-- REKEY (R236, R244): the new slot is CTXDESC[3:0]; one that is not a free slot of KEYS is rejected (log 25). -/
def execRekey (by_ : Agent) (s : State) : Host.Outcome State Fault Refusal :=
  ctxCommand by_ (fun x s =>
    if (s.ctx x).state != .suspended then notNow x s
    else
      let n : Fin 16 := Fin.ofNat 16 (s.priv by_).ctxdesc
      if !(s.ctx x).desc.keys.getLsbD n.val || n == (s.ctx x).desc.key then .next (s.rejectCtx x 0x05)
      else .next (s.rekey x n)) s

end Sys2Proof.Machine
end

