-- ==== Sys2Proof/Machine/Page.lean ====
section
/-! DEFINITION. Page operations (R344, R354, R357, R364, R365, R414): TLBI, PGMIG, walks for lines read ahead, free-page
queues, the stream-window split, and the processor's number. -/

namespace Sys2Proof.Machine

open Sys2Proof

/-! ### TLBI (R364) -/

/-- Does a drain cover a 64 KiB page of a context? -/
def Drain.coversPage (d : Drain) (x : CtxId) (page : Nat) : Bool :=
  (match d.ctx with
  | none => true
  | some y => x == y) && decide (d.lo ≤ page) && decide (page < d.hi)

/-- Does a drain cover a TLB entry: its page, or any page of its block? -/
def Drain.coversEntry (d : Drain) (e : TlbEntry) : Bool :=
  (match d.ctx with
  | none => true
  | some y => e.ctx == y) && decide (e.page < d.hi) && decide (d.lo < e.page + (if e.block then 32 else 1))

/-- Remove what the part has cached of a range: TLB entries, walks under way and code lines (R364, R457). -/
def State.invalidate (s : State) (d : Drain) : State :=
  { s with
    cores := s.cores.map fun (k : Core) =>
      { k with tlb := k.tlb.filter fun e => !d.coversEntry e
               lines := k.lines.filter fun e => !d.coversPage e.ctx (e.va / 2 ^ 16) }
    dieTlb := s.dieTlb.map fun (t : List TlbEntry) => t.filter fun e => !d.coversEntry e
    walks := s.walks.filter fun (w : Walk) => !d.coversPage w.ctx (w.va / 2 ^ 16) }

/-- Does a command hold a translation that a drain waits for? -/
def State.drainHeld (s : State) (d : Drain) : Bool := s.cores.toList.any fun k => k.cmds.any (d.waitsFor s.tick)

/-- What a TLBI covers, from s[a] and s[b]. -/
def tlbiDrain (va c now tick : Nat) : Drain :=
  let x : Option CtxId := some (Fin.ofNat 16 (c / 4))
  match c % 4 with
  | 0 => ⟨now, x, va / 2 ^ 16, va / 2 ^ 16 + 1, 0, tick, false⟩
  | 1 => ⟨now, x, va / 2 ^ 21 * 32, va / 2 ^ 21 * 32 + 32, 0, tick, false⟩
  | 2 => ⟨now, x, 0, 2 ^ 39, 0, tick, false⟩
  | _ => ⟨now, none, 0, 2 ^ 39, 0, tick, false⟩

/-- Set what a role's TLBI or PGMIG waits for. -/
def setDrain (d : Option Drain) : X Unit := do
  let m ← me
  modify fun s => s.onRole m.1 fun k => { k with drainAt := d }

/-- Retire a TLBI whose range no command holds any more, or go on waiting. -/
def tlbiWait (d : Drain) : X Flow := do
  let s ← get
  if s.drainHeld d then
    setDrain (some d)
    pure .gone
  else
    setDrain none
    pure .seq

/-- TLBI (R364): entries go, streams of covered blocks park and bind afresh, and it waits for translation holds. -/
def execTlbi (a b : SReg) (s : State) : Host.Outcome State Fault Refusal :=
  instr 1 [a, b] [] (needSys 0) (fun vs => do
    let m ← me
    match m.2.2.drainAt with
    | some d => tlbiWait d
    | none => do
      let va := (arg vs 0).toNat
      let c := (arg vs 1).toNat
      faultIf (c / 64 != 0) 0x01 0
      faultIf (decide (c % 4 ≤ 1) && va / 2 ^ 55 != 0) 0x05 va
      performed
      let s ← get
      let d := tlbiDrain va c s.cycle.toNat s.tick
      set ((s.invalidate d).askStreams (fun t => d.covers t) fun t => { t with rebindReq := true })
      tlbiWait d) s

/-! ### Walks for lines that NEXT names (R354, R457) -/

/-- One level of a walk under way: the walk that is left, if it is not over. -/
def walkStep (w : Walk) : X (Option Walk) := do
  let who : Who := ⟨w.ctx, some w.core, none⟩
  if w.level < 3 then
    let i := if w.level = 1 then w.va / 2 ^ 42 % 2 ^ 13 else w.va / 2 ^ 29 % 2 ^ 13
    let t ← directory w.ctx w.va (w.table + 8 * i)
    pure (some { w with level := w.level + 1, table := t })
  else
    let at3 := w.table + 8 * (w.va / 2 ^ 16 % 2 ^ 13)
    let f ← tableRead w.ctx w.va at3
    faultIf (f % 2 == 0 && !lbit f 7) 0x06 w.va
    let f ← if f % 2 = 0 then grow w.ctx w.va at3 f else pure f
    leafOk w.ctx w.va f
    faultIf (!grants f .fetch) 0x07 w.va
    modify fun s => s.tlbFill who.core
      ⟨w.ctx, if lbit f 10 then w.va / 2 ^ 21 * 32 else w.va / 2 ^ 16, lbit f 10, f % 2 ^ 52⟩
    let _ ← fetchLine who w.va
    pure none

/-- PAGE_WALK (R354, R457): a walk of a line read ahead goes on by one level; one that fails raises nothing. -/
def execPageWalk (i : Nat) (s : State) : Host.Outcome State Fault Refusal :=
  match s.walks[i]? with
  | none => .next s
  | some w =>
    let off : State := { s with walks := s.walks.eraseIdx i }
    match walkStep w off with
    | .ok (none, t) => .next t
    | .ok (some v, t) => .next { t with walks := t.walks.insertIdx i v }
    | .error _ => .next off

/-! ### Free-page queues (R356, R357) -/

/-- A queue of a context by its index; one that is not there is invalid. -/
def Context.fpq (c : Context) (q : Nat) : Fpq := (c.fpqs[q]?).getD ⟨0, 1, 0, false, 0, 0, 0⟩

/-- Set REJ and ERR of FPQSTAT. -/
def State.rejectFpq (s : State) (x : CtxId) (err : BitVec 8) : State :=
  s.onCtx x fun c => { c with fpqRej := true, fpqErr := err }

/-- Does a page lie in the windows of a queue's KIND, and outside the stream window (R357)? -/
def State.pageSuits (s : State) (kind pa : Nat) : Bool :=
  match backing s.srows pa with
  | .hbm _ _ => kind == 0 && decide (pa < 2 ^ 39)
  | .pool _ _ => kind != 0
  | .unbacked => false

/-- Is a context loaded, running or suspended? -/
def Context.takesPages (c : Context) : Bool :=
  match c.state with
  | .loaded | .running | .suspended => true
  | .free | .created | .draining | .scrubbing => false

/-- FPQCMD (R357): a page is accepted for zeroing, or refused. -/
def execFpqcmd (by_ : Agent) (v : Word) (s : State) : Host.Outcome State Fault Refusal :=
  if !s.privileged by_ then .next s
  else
    let x := (s.priv by_).ctxsel
    let q := v.toNat % 16
    let pa := v.toNat / 2 ^ 16 % 2 ^ 36 * 2 ^ 16
    let c := s.ctx x
    let Q := c.fpq q
    let s1 := s.onCtx x fun c => { c with fpqLast := q }
    .next (if c.zeroing.isSome then s1.rejectFpq x 0x01
      else if !c.takesPages then s1.rejectFpq x 0x02
      else if !Q.valid then s1.rejectFpq x 0x03
      else if Q.cap ≤ Q.count then s1.rejectFpq x 0x04
      else if !s.pageSuits Q.kind pa then s1.rejectFpq x 0x05
      else s1.onCtx x fun c => { c with zeroing := some (q, pa) })

/-- Zeros over a page under a key: in local HBM, or on the pool under the counter rules (R243, R357). A pool line that
cannot be written is left. -/
def zeroPage (key : KeyRef) (pa : Nat) : X Unit := do
  let s ← get
  match backing s.srows pa with
  | .hbm _ _ => set (s.zeroUnder key pa (2 ^ 16))
  | .pool _ _ => (List.range 1024).forM fun i => do
      let _ ← attempt (poolWriteLine key 0 (pa + 64 * i) (List.replicate 64 0))
      pure ()
  | .unbacked => pure ()

/-- Append a page at TAIL of a queue (R356). -/
def appendPage (x : CtxId) (q pa : Nat) : X Unit := do
  let s ← get
  let Q := (s.ctx x).fpq q
  tableWrite x (Q.base + 8 * (Q.tail % Q.cap)) pa
  modify fun s => s.onCtx x fun c => { c with fpqs := c.fpqs.set q { Q with tail := (Q.tail + 1) % 2 ^ 32 } }

/-- FPQ_PAGE_ZEROED (R357): the page is zero, and enters its queue. -/
def execFpqPageZeroed (x : CtxId) (s : State) : Host.Outcome State Fault Refusal :=
  match (s.ctx x).zeroing with
  | none => .next s
  | some (q, pa) => partStep (do
      zeroPage (s.keyOf ((s.ctx x).fpq q).key) pa
      appendPage x q pa
      modify fun s => s.onCtx x fun c => { c with zeroing := none }) s

/-! ### PGMIG (R365) -/

/-- Move one atom: bytes decrypted and encrypted again, a lost one lost again; one that cannot be read counts as lost. -/
def moveAtom (key : KeyRef) (src dst : Nat) : X Unit := do
  let r ← attempt (rawRead key 0 src 64)
  let bytes := match r with
    | .ok b => b.1
    | .error _ => List.replicate 64 0
  let bad := match r with
    | .ok b => b.2
    | .error _ => true
  let _ ← attempt (rawWrite key 0 dst bytes)
  if bad then (do let _ ← attempt (poisonPa key 0 dst); pure ()) else pure ()

/-- Copy a page atom by atom; of a compressed block only its atoms, with its size code. -/
def movePage (key : KeyRef) (cmp : Bool) (src dst : Nat) : X Unit :=
  (List.range 256).forM fun b => do
    let s ← get
    let code := if cmp then s.sizeOf (src / 256 + b) else 0
    (List.range (atomsOf code)).forM fun i => moveAtom key (src + 256 * b + 64 * i) (dst + 256 * b + 64 * i)
    if cmp then modify fun s => s.setSize (dst / 256 + b) code else pure ()

/-- The leaf at its place in the level-3 table; none where it is not there. -/
def leafNow (x : CtxId) (va : Nat) : X (Option (Nat × Nat)) := do
  let r ← attempt (do
    let at3 ← leafAddress x va
    let f ← tableRead x va at3
    pure (at3, f))
  match r with
  | .ok p => pure (if p.2 % 2 = 1 then some p else none)
  | .error _ => pure none

/-- What PGMIG decides without moving anything (R365): 3 refused, 0 there already, 2 no page, 4 no room; none where the
page moves. -/
def migDecision (shadowed : Bool) (f : Nat) (S T : Fpq) : Option Nat :=
  if lbit f 5 || lbit f 10 || shadowed || !S.valid || !T.valid || S.key != leafKey f || T.key != leafKey f
      || T.kind != leafKind f then some 3
  else if S.kind = leafKind f then some 0
  else if S.tail = S.head then some 2
  else if T.cap ≤ T.count then some 4
  else none

/-- A leaf with a new page and kind. -/
def movedLeaf (f p kind : Nat) : Nat :=
  f % 2 ^ 8 + kind * 2 ^ 8 + f / 2 ^ 10 % 2 ^ 6 * 2 ^ 10 + p / 2 ^ 16 % 2 ^ 36 * 2 ^ 16 + f / 2 ^ 52 * 2 ^ 52

/-- Earlier commands of the channel that the copy follows: those in the channel's queue, and the one that runs. -/
def State.channelBusy (s : State) (c : CoreId) (ch : ChId) (before : Nat) : Bool :=
  (s.core c).cmds.any fun k => k.ch == ch && ((decide (k.seq < before) && !k.timed) || k.st != .queued)

/-- Move a page: take one from S, copy, rewrite the leaf, drop translations, and give the old page to T. -/
def migrate (x : CtxId) (va at3 f q r : Nat) (d : Drain) : X Unit := do
  let s ← get
  let S := (s.ctx x).fpq q
  let key := s.keyOf (leafKey f)
  let old := leafPa f
  let e ← attempt (tableRead x va (S.base + 8 * (S.head % S.cap)))
  let p := match e with
    | .ok v => v / 2 ^ 16 % 2 ^ 36 * 2 ^ 16
    | .error _ => 0
  modify fun s => s.onCtx x fun c => { c with fpqs := c.fpqs.set q { S with head := (S.head + 1) % 2 ^ 32 } }
  movePage key (leafC f) old p
  tableWrite x at3 (movedLeaf f p S.kind)
  modify fun s => s.invalidate d
  zeroPage key old
  appendPage x r old

/-- Squash every command that still holds a translation that a drain waits for (R338). -/
def State.squashHolders (s : State) (d : Drain) : State :=
  (List.finRange 128).foldl (fun t c =>
    ((t.core c).cmds.filter (d.waitsFor s.tick)).foldl (fun u k => u.squash c k) t) s

/-- PGMIG (R365): the checks, the decision, and the move once no command holds the page and the channel is free; at the limit the
commands that hold it are squashed, and the move follows in the same step (R338). What follows the lock is one step (log 28). -/
def execPgmig (d a b : SReg) (s : State) : Host.Outcome State Fault Refusal :=
  instr 1 [a, b] [d] noPre (fun vs => do
    let m ← me
    let w ← whoami
    let va := (arg vs 0).toNat
    let c := (arg vs 1).toNat
    faultIf (va / 2 ^ 55 != 0) 0x05 va
    faultIf (va % 2 ^ 16 != 0) 0x04 va
    faultIf (c / 1024 != 0) 0x01 0
    let _ ← translate w va .write
    let f ← leafNow w.ctx va
    let s ← get
    let x := s.ctx w.ctx
    let q := c % 16
    let r := c / 16 % 16
    let ch : ChId := Fin.ofNat 4 (c / 256)
    match f with
    | none => do
      setDrain none
      writeDst d 3
      pure .seq
    | some (at3, f) =>
      match migDecision (s.bufOf w.ctx va).isSome f (x.fpq q) (x.fpq r) with
      | some v => do
        setDrain none
        writeDst d (BitVec.ofNat 64 v)
        pure .seq
      | none => do
        let e : Drain := m.2.2.drainAt.getD
          ⟨s.cycle.toNat, some w.ctx, va / 2 ^ 16, va / 2 ^ 16 + 1, (s.core m.1.core).cmdSeq, s.tick, true⟩
        if (s.drainHeld e && !s.drainLate e) || s.channelBusy m.1.core ch e.before then
          setDrain (some e)
          pure .gone
        else
          modify fun s => s.squashHolders e
          migrate w.ctx va at3 f q r e
          setDrain none
          writeDst d 1
          pure .seq) s

/-! ### HBMSPLIT and ENCNUM (R344, R414) -/

/-- Is every context free? -/
def State.allFree (s : State) : Bool := s.ctxs.toList.all fun c => c.state == .free

/-- Every byte of local HBM after a change of the split is left open (R344, log 13): the keys below 2^40 cover both
windows. -/
def State.forgetLocal (s : State) : State :=
  let local_ := fun (pa : Nat) => decide (pa < 2 ^ 40)
  { s.openRange 0 (2 ^ 40) with
           keyTag := s.keyTag.filter fun e => !local_ (e.1 * 64)
           poison := s.poison.filter fun g => !local_ (g * 64)
           decayed := []
           sizeCode := s.sizeCode.filter fun e => !local_ (e.1 * 256) }

/-- HBMSPLIT_WRITE (R344). -/
def execHbmsplitWrite (v : Word) (s : State) : Host.Outcome State Fault Refusal :=
  let n := v.toNat % 2 ^ 20
  if !s.allFree || n % 128 != 0 || decide (2 ^ 19 < n) || n == s.srows then .next s
  else .next ({ s with srows := n } : State).forgetLocal

/-- ENCNUM_WRITE (R414): a SIZE that is set or changes retrains every Ralkor link; the time flits that follow set ETOFF. -/
def execEncnumWrite (v : Word) (s : State) : Host.Outcome State Fault Refusal :=
  let proc := v.toNat % 16
  let size := v.toNat / 16 % 32
  if !s.allFree || decide (size < 2) || decide (16 < size) || decide (size ≤ proc) then .next s
  else
    let s1 := { s with encProc := BitVec.ofNat 4 proc, encSize := BitVec.ofNat 5 size }
    .next (if size = s.encSize.toNat then s1
      else { s1 with links := s1.links.map fun (l : Link) => { l with training := true } })

end Sys2Proof.Machine
end

