-- ==== Sys2Proof/Machine/Faults.lean ====
section
/-! DEFINITION. Acting on a stalled role (R429, R430), the fault queue's retry (R428), device-level faults (R433, R434), and
the faults at a word, a line or a flow that is none (R53, R58, R79). -/

namespace Sys2Proof.Machine

open Sys2Proof

/-! ### ROLECMD (R430) -/

/-- The selected role, if its slot holds a group of the selected context that is not being killed. -/
def State.roleTarget (s : State) (p : PrivRegs) : Option (RoleId × Group × Role) :=
  if p.roleNum = 3 then none
  else
    match s.group p.roleCore p.roleSlot with
    | none => none
    | some g =>
      let dying := match g.state with
        | .dying _ _ _ => true
        | .starting | .running | .draining | .marked _ | .saving _ _ | .restoring _ _ | .replaying _ _ _ => false
      if g.ctx != p.ctxsel || dying then none
      else
        let k := roleOfIx (Fin.ofNat 3 p.roleNum)
        some (⟨p.roleCore, p.roleSlot, k⟩, g, g.role k)

/-- Reject a ROLECMD: REJ and ERR, and nothing else. -/
def State.rejectRole (s : State) (a : Agent) (err : BitVec 8) : State :=
  s.onPriv a fun p => { p with roleRej := true, roleErr := err }

/-- A command of ROLECMD: the rejections of R430 in their order. `bad` says that the command is not allowed for the
fault. -/
def roleCommand (by_ : Agent) (bad : RoleId → Group → Role → State → Bool)
    (act : RoleId → Group → Role → State → Host.Outcome State Fault Refusal) (s : State) :
    Host.Outcome State Fault Refusal :=
  let p := s.priv by_
  if !s.privileged by_ then .next s
  else if p.roleNum = 3 then .next (s.rejectRole by_ 0x04)
  else if !s.owns p.ctxsel p.roleCore then .next (s.rejectRole by_ 0x02)
  else
    match s.roleTarget p with
    | none => .next (s.rejectRole by_ 0x01)
    | some (id, g, k) =>
      if !k.stalled then .next (s.rejectRole by_ 0x01)
      else if bad id g k s then .next (s.rejectRole by_ 0x03)
      else act id g k s

/-- CODE of a role's latest fault. -/
def Role.code (k : Role) : Nat := k.cause.toNat % 256

/-- The line at FAULTPC: the one the role executes, or fetched; none where it cannot be. -/
def State.faultLine (s : State) (id : RoleId) (g : Group) (k : Role) : Option (List Nat) :=
  if !k.line.isEmpty then some k.line
  else
    match fetchLine ⟨g.ctx, some id.core, some id.slot⟩ (k.faultPc.toNat / 64 * 64) s with
    | .ok (ws, _) => some ws
    | .error _ => none

/-- Is a fault the repeating MEET of R274: queue misuse of a MEET? -/
def State.repeatingMeet (s : State) (id : RoleId) (g : Group) (k : Role) : Bool :=
  k.code == 0x0D && (match s.faultLine id g k with
    | none => false
    | some ws => (match decodeAt ws k.faultPc.toNat with
      | .ok i => i == .meet
      | .error _ => false))

/-- The faults that neither SKIP nor RESUMEAT continues from (R430): illegal line, illegal flow with the markers, and the
repeating MEET. -/
def State.noWayOn (s : State) (id : RoleId) (g : Group) (k : Role) : Bool :=
  k.code == 0x02 || k.code == 0x15 || s.repeatingMeet id g k

/-- Start again the commands whose held fault a role has raised (R337). -/
def State.restartHeld (s : State) (id : RoleId) (g : Group) (k : Role) : State :=
  if k.retired then s
  else
    ((s.core id.core).cmds.filter fun c => c.of id.slot g).foldl (fun t c =>
      match c.st with
      | .faulted chunk code va =>
        if code = k.code ∧ va = k.faultVa.toNat then t.tryDo (startAt c id.core chunk) else t
      | .queued | .reading _ _ _ | .writing _ _ _ | .following | .exchanging _ _ | .done => t) s

/-- Go past a restore that has failed in its first steps: the restore sequence runs from where the role is sent, with the registers
that it starts with (R287, R430; log 67). -/
def State.passRestore (s : State) (c : CoreId) (i : SlotId) : State :=
  match s.group c i with
  | none => s
  | some g =>
    match g.state with
    | .starting => if g.record.ckpt then enter g (BitVec.ofNat 64 g.record.code) else s
    | .replaying _ _ cont => enter g cont
    | .running | .draining | .marked _ | .saving _ _ | .restoring _ _ | .dying _ _ _ => s
where
  /-- The slot in its restore sequence, which ends at `cont`. -/
  enter (g : Group) (cont : Word) : State :=
    let args := (s.descOf g).elim 0 LaunchDesc.args
    s.onGroup c i fun g =>
      { g.onRole .compute fun k =>
          { k with status := .running, ended := false
                   regs := vset (startRegs s c i g args) 8 (BitVec.ofNat 64 (s.softPart ⟨g.ctx, some c, some i⟩ g.record.frame)) }
        with state := .restoring cont .none }

/-- A role goes past the instruction at which it has stalled: a record that the instruction has taken is no longer held for it; a
YIELD of the compute role that had begun to save is given up, and a restore that has failed is left behind (log 67). -/
def State.passBy (s : State) (id : RoleId) : State :=
  let s1 := s.onRole id fun r => { r with heldRec := none, pendingBar := none }
  if id.role = .compute then (s1.leaveYield id.core id.slot).passRestore id.core id.slot else s1

/-- ROLE_RESUME (R430): the instruction at FAULTPC runs again; after one that retired the role goes on behind it. The repeating MEET
takes ABORT only (R437). -/
def execRoleResume (by_ : Agent) (s : State) : Host.Outcome State Fault Refusal :=
  roleCommand by_ (fun id g k s => s.repeatingMeet id g k) (fun id g k s => .next ((s.restartHeld id g k).resumeAt id k.pc)) s

/-- SKIP (R430). -/
def execSkip (by_ : Agent) (s : State) : Host.Outcome State Fault Refusal :=
  roleCommand by_
    (fun id g k s => !(k.retired && k.code != 0x15) && (s.noWayOn id g k || (s.faultLine id g k).isNone))
    (fun id g k s =>
      if k.retired then .next (s.resumeAt id k.pc)
      else
        match s.faultLine id g k with
        | none => .next s
        | some ws =>
          let pc := k.faultPc.toNat
          .next ((s.passBy id).onRole id fun r =>
            ({ r with pc := r.faultPc, stalled := false }).resumeBehind ws pc (sizeAt ws pc))) s

/-- RESUMEAT (R430): the role goes on at ROLEPC, with the checks of arrival. -/
def execResumeat (by_ : Agent) (s : State) : Host.Outcome State Fault Refusal :=
  roleCommand by_ (fun id g k s => s.noWayOn id g k)
    (fun id _ k s =>
      let pc := (s.priv by_).rolePc
      let s1 := if pc = k.pc then s else s.passBy id
      .next (s1.resumeAt id pc)) s

/-- ABORT (R430): the group is killed, and its launch counts it as ended. -/
def execAbort (by_ : Agent) (s : State) : Host.Outcome State Fault Refusal :=
  roleCommand by_ (fun _ _ _ _ => false)
    (fun id _ _ s => .next (s.onGroup id.core id.slot fun g => { g with state := .dying false true false })) s

/-! ### The fault queue (R428) -/

/-- FAULT_QUEUE_RETRY (R428): HEAD is read again, and held records are written while there is room. -/
def execFaultQueueRetry (x : CtxId) (s : State) : Host.Outcome State Fault Refusal :=
  .next (flushHeld x (65 + (s.ctx x).faultUnheld.length) s)

/-! ### Device-level faults (R433, R434) -/

/-- Leave a page open, under the key that its leaf names. The lines of it that a port caches stay there (R452), with open data. -/
def State.losePage (s : State) (key : KeyRef) (pa : Nat) : State :=
  match backing s.srows pa with
  | .unbacked => s
  | .hbm _ _ => tagged s
  | .pool _ _ => (List.range 1024).foldl (fun t i => t.editLine (pa / 64 + i) fun l =>
      { l with data := (List.range 64).map fun j => Config.lost s.tick (pa + 64 * i + j) }) (tagged s)
where
  /-- The page's bytes open, its atoms marked with the key. -/
  tagged (s : State) : State :=
    let t := s.openRange pa (2 ^ 16)
    { t with keyTag := (List.range 1024).foldl (fun m i => SMap.set m (pa / 64 + i) key) t.keyTag }

/-- The pages behind a leaf that work of a context could write: the page, the backings of a shadowed range, the replicas. -/
def State.pagesBehind (s : State) (x : CtxId) (l : LeafAt) : List Nat :=
  let backs := match s.bufOf x l.va with
    | none => [leafPa l.leaf]
    | some b => [b.backA + (l.va - b.vbase), b.backB + (l.va - b.vbase)]
  backs.flatMap s.placesOf

/-- Leave open every location that discarded work of a context could write: what its tables let it write, and its cores'
memories. -/
def State.loseWork (s : State) (x : CtxId) : State :=
  if (s.groupsOf x).isEmpty && !s.hasCopies x && !s.hasStreams x then s
  else
    let ls := (s.leavesOf x).filter fun l => l.leaf % 2 == 1 && lbit l.leaf 2
    let s1 := ls.foldl (fun t l => (s.pagesBehind x l).foldl (fun u pa => u.losePage (s.leafKeyRef l.leaf) pa) t) s
    (s.ctx x).desc.coreList.foldl (fun t c =>
      let t1 := (List.range 48).foldl (fun u i =>
        if (s.ctx x).desc.units.getLsbD i then u.openRange (onChipKey 1 c (i * 2 ^ 16)) (2 ^ 16) else u) t
      (t1.openRange (onChipKey 2 c 0) (2 ^ 19)).openRange (onChipKey 3 c 0) (6 * 2 ^ 20)) s1

/-- Stop everything and discard the work in flight (R434 steps 1 and 2). -/
def State.stopAll (s : State) : State :=
  let s1 := (List.finRange 16).foldl (fun t x => t.loseWork x) s
  let s2 := allSlots.foldl (fun t p => t.vacate p.1 p.2) s1
  { s2 with
    cores := s2.cores.map fun (k : Core) => { k with cmds := [], array := [], board := [] }
    lats := s2.lats.map fun (p : Nat × LatSlot) => (p.1, { p.2 with stream := none, acc := if p.2.stream.isSome then [] else p.2.acc })
    pcs := s2.pcs.map fun (p : Nat × PcStat) => (p.1, { p.2 with burst := none, waiters := [] })
    reqs := [], inflight := [], walks := [], rx := [], coll := [], collOwed := []
    txWait := s2.txWait.filter fun (w : TxWait) => match w.out with
      | .message m => m.srcProc.val != s.encProc.toNat
      | .request _ _ | .answer _ _ | .snoop _ _ | .time _ => true }

/-- DEVSTAT (R433). -/
def State.devstat (s : State) : Nat :=
  (if s.devDf then 1 else 0) + s.devClass.toNat * 2 + s.devUnit.toNat * 2 ^ 5 + s.devCount.toNat * 2 ^ 13

/-- Steps 3 and 4 of R434 for one context. -/
def State.deviceFaultCtx (s : State) (x : CtxId) : State :=
  if (s.ctx x).state == .free then s
  else
    let s1 := (s.tryDo (keepReady x fun _ => false)).tryDo (cancelAll x)
    let s2 := s1.onCtx x fun c => { c with reserved := [], hostPending := [] }
    match (s2.ctx x).state with
    | .running | .suspended => report s2 false
    | .draining => report s2 true
    | .free | .created | .loaded | .scrubbing => s2
where
  /-- The context is suspended, and gets its record; BUSY stays only where a SUSPEND still waits to complete. -/
  report (s : State) (drain : Bool) : State :=
    (s.onCtx x fun c => { c with state := .suspended, busy := c.busy && c.state == .suspended, drainMark := c.drainMark || drain }).deliverOther x 3 0 s.devstat

/-- BRSTAT.CODE of a failed step (R438). -/
def failCode (n : Nat) : BitVec 8 := if n = 2 then 1 else if n = 3 then 2 else if n = 4 then 3 else if n = 6 then 5 else 0

/-- BRSTAT goes on to a stage, with a code; the history keeps it (R438, R441). -/
def State.setStage (s : State) (stage : BitVec 4) (code : BitVec 8) : State :=
  { s with ctl := { s.ctl with stage := stage, code := code, history := s.ctl.history ++ [(stage.toNat, code.toNat)] } }

/-- Is the part in the state that tamper has led to, which only a power cycle leaves (R439)? -/
def State.tampered (s : State) : Bool := s.ctl.stage == 8 && s.ctl.code == 0x10

/-- Enter the safe state (R439); after tamper the code stays. -/
def State.enterSafe (s : State) (code : BitVec 8) : State :=
  { s.setStage 8 (if s.tampered then 0x10 else code) with keySlots := Vector.replicate 16 0 }

/-- A device-level fault (R434): the five steps; class 3 loses a stack. -/
def State.deviceFault (s : State) (cls : BitVec 4) (unit : BitVec 8) : State :=
  let s1 := { s.stopAll with devClass := cls, devUnit := unit }
  let s2 := (List.finRange 16).foldl State.deviceFaultCtx s1
  let s3 := { s2 with devDf := true, devCount := s2.devCount + 1
                      lostStacks := if cls = 3 then s2.lostStacks ||| BitVec.ofNat 8 (2 ^ (unit.toNat % 8)) else s2.lostStacks }
  match Config.retest s3.tick with
  | none => s3
  | some n => if failCode n.val = 0 then s3 else s3.enterSafe (failCode n.val)

/-- DEVICE_LEVEL_FAULT (R433, R434). A failure of a class that R433 reserves does not exist. -/
def execDeviceLevelFault (cls : Fin 16) (unit : BitVec 8) (s : State) : Host.Outcome State Fault Refusal :=
  if 1 ≤ cls.val ∧ cls.val ≤ 6 then .next (s.deviceFault (BitVec.ofNat 4 cls.val) unit) else .next s

/-! ### No instruction, no line, no flow -/

/-- The fault that a role's next fetch raises, where it is of the given cause (R80 steps 1 to 4). -/
def State.fetchTrap (s : State) : Option Trap :=
  match arrive s with
  | .error (.trap t _) => some t
  | .error .wait => none
  | .error (.ask _) => none
  | .error (.halt _) => none
  | .ok (ws, t) =>
    (match t.role t.cur with
    | none => none
    | some k => (match decodeAt ws k.pc.toNat with
      | .ok _ => none
      | .error _ => some { code := 0x01, va := 0 }))

/-- Does the role whose turn it is run: started, and not stalled? -/
def State.curRuns (s : State) : Bool :=
  match s.role s.cur with
  | none => false
  | some k => k.status == .running && !k.stalled

/-- Raise the fault of the role's next fetch where its cause is the given one. -/
def raiseFetch (code : Nat) (s : State) : Host.Outcome State Fault Refusal :=
  match s.fetchTrap with
  | none => .next s
  | some t =>
    if t.code != code || !s.curRuns then .next s
    else
      match arrive s with
      | .ok (_, u) => .next (u.takeFault s.cur t s.curPc false)
      | .error _ => .next (s.takeFault s.cur t s.curPc false)

/-- ILLEGAL_INSTRUCTION (R54, R79). -/
def execIllegalInstruction (s : State) : Host.Outcome State Fault Refusal := raiseFetch 0x01 s

/-- ILLEGAL_LINE (R53). -/
def execIllegalLine (s : State) : Host.Outcome State Fault Refusal := raiseFetch 0x02 s

/-- The flow of a role has ended: illegal flow at the marker (R56, R423). -/
def State.endOfChain (s : State) (pc : Word) : State := s.takeFault s.cur { code := 0x15, va := 0 } pc true

/-- ILLEGAL_FLOW (R56 to R58): at the marker of a flow that has ended, or at a word or line that the role may not
execute. The end of a save or restore sequence takes its place (R286). -/
def execIllegalFlow (s : State) : Host.Outcome State Fault Refusal :=
  match s.role s.cur with
  | none => .next s
  | some k =>
    if k.ended then
      .next (if s.curRuns && !(s.cur.role == .compute && (s.group s.cur.core s.cur.slot).any Group.inSequence)
        then s.endOfChain k.pc else s)
    else raiseFetch 0x15 s

end Sys2Proof.Machine
end

