-- ==== Sys2Proof/Machine/Csr.lean ====
section
/-! DEFINITION. Control and status registers (R120 to R124, R234, R235, R324, R344, R357, R369, R378, R414, R429, R433):
their values, their writes under the access codes, the CSR instructions, and the host's port (R255, R421, R440). -/

namespace Sys2Proof.Machine

open Sys2Proof

/-! ### The system block -/

/-- CTXSTAT.STATE (R235). -/
def ctxCode : CtxState → Nat
  | .free => 0 | .created => 1 | .loaded => 2 | .running => 3 | .suspended => 4 | .draining => 5 | .scrubbing => 6

/-- A flag at a bit. -/
def bitIf (b : Bool) (n : Nat) : Nat := if b then 2 ^ n else 0

/-- CTXSTAT (R235). -/
def Context.stat (c : Context) : Nat :=
  ctxCode c.state + bitIf c.busy 3 + bitIf c.rej 4 + bitIf (c.assigned && c.logFull) 5 + bitIf c.diverge 6 + c.err.toNat * 2 ^ 7

/-- CHSTAT (R324). -/
def PcStat.word (p : PcStat) : Nat :=
  bitIf p.w16 0 + bitIf p.pend 1 + bitIf p.pendw 2 + bitIf p.degr 3 + p.epoch.toNat * 2 ^ 8

/-- FPQSTAT (R357). -/
def Context.fpqStat (c : Context) : Nat :=
  bitIf c.zeroing.isSome 0 + bitIf c.fpqRej 1 + c.fpqErr.toNat * 2 ^ 2 + (c.fpq c.fpqLast).count % 2 ^ 21 * 2 ^ 10

/-- The Lattice and image slot that LATSEL names. -/
def State.latNow (s : State) : Nat × Nat := (s.latSel.toNat % 64, s.latSel.toNat / 64)

/-- LATOWN (R369). -/
def State.latownWord (s : State) : Nat :=
  if 40 ≤ s.latNow.1 then 0
  else
    let l := s.latSlot s.latNow.1 s.latNow.2
    l.owner.val + bitIf l.valid 4 + bitIf l.pend.isSome 5

/-- LWIN (R378). -/
def State.lwinWord (s : State) (x : CtxId) : Nat :=
  if 32 ≤ s.latNow.1 then 0
  else
    let w := s.lwinOf x s.latNow.1
    w.start + w.len * 2 ^ 7 + bitIf w.hard 12 + bitIf w.off 13

/-- ROLESEL (R429). -/
def PrivRegs.roleSel (p : PrivRegs) : Nat := p.roleCore.val + p.roleSlot.val * 2 ^ 7 + p.roleNum * 2 ^ 9

/-- The selected role while it is stalled. -/
def State.stalledTarget (s : State) (p : PrivRegs) : Option (RoleId × Role) :=
  match s.roleTarget p with
  | none => none
  | some (id, _, k) => if k.stalled then some (id, k) else none

/-- ROLESTAT (R429). CODE is the cause of the fault that the selected role is stalled at, 0 with none. -/
def State.roleStat (s : State) (p : PrivRegs) : Nat :=
  bitIf (s.stalledTarget p).isSome 0 + ((s.stalledTarget p).elim 0 fun t => t.2.code * 2) + bitIf p.roleRej 9
    + p.roleErr.toNat * 2 ^ 10

/-- ROLEREG (R429). -/
def State.roleReg (s : State) (p : PrivRegs) : Word :=
  match s.stalledTarget p with
  | none => 0
  | some (_, k) => if p.roleReg.isPort then 0 else k.reg p.roleReg

/-- The value of a register of the system block; a write-only or unassigned one reads zero. -/
def State.sysRead (s : State) (a : Agent) (n : Nat) : Word :=
  let p := s.priv a
  let c := s.ctx p.ctxsel
  match n with
  | 0x1000 => BitVec.ofNat 64 p.ctxsel.val
  | 0x1001 => BitVec.ofNat 64 p.ctxdesc
  | 0x1003 => BitVec.ofNat 64 c.stat
  | 0x1004 => c.logHead.setWidth 64
  | 0x1005 => c.logTail.setWidth 64
  | 0x1010 => BitVec.ofNat 64 s.calPc.val
  | 0x1011 => BitVec.ofNat 64 s.calSlot.val
  | 0x1012 => BitVec.ofNat 64 (calEntry s.calStaged s.calPc.val s.calSlot.val)
  | 0x1014 => BitVec.ofNat 64 (s.pcStat s.calPc.val).word
  | 0x1018 => BitVec.ofNat 64 s.srows
  | 0x1019 => c.fpqt
  | 0x101B => BitVec.ofNat 64 c.fpqStat
  | 0x1020 => s.latSel.setWidth 64
  | 0x1021 => BitVec.ofNat 64 s.latownWord
  | 0x1022 => BitVec.ofNat 64 (s.lwinWord p.ctxsel)
  | 0x1030 => BitVec.ofNat 64 p.roleSel
  | 0x1032 => p.rolePc
  | 0x1033 => BitVec.ofNat 64 (s.roleStat p)
  | 0x1034 => BitVec.ofNat 64 p.roleReg.val
  | 0x1035 => s.roleReg p
  | 0x1040 => BitVec.ofNat 64 s.devstat
  | 0x1050 => BitVec.ofNat 64 (s.encProc.toNat + s.encSize.toNat * 2 ^ 4)
  | _ => 0

/-- The part of a register that CSRS and CSRC write: its RW fields; none of a register that is write-only, read-only or
W1C (R121, log 29). -/
def sysRwMask (n : Nat) : Nat :=
  match n with
  | 0x1000 => 2 ^ 4 - 1
  | 0x1001 => 2 ^ 52 - 1
  | 0x1005 => 2 ^ 32 - 1
  | 0x1010 => 2 ^ 9 - 1
  | 0x1011 => 2 ^ 7 - 1
  | 0x1012 => 2 ^ 8 - 1
  | 0x1018 => 2 ^ 20 - 1
  | 0x1019 => 2 ^ 52 - 2 ^ 6
  | 0x1020 => 2 ^ 8 - 1
  | 0x1021 => 2 ^ 5 - 1
  | 0x1022 => 2 ^ 13 - 1
  | 0x1030 => 2 ^ 11 - 1
  | 0x1032 => 2 ^ 55 - 1
  | 0x1034 => 2 ^ 6 - 1
  | 0x1035 => 2 ^ 64 - 1
  | 0x1050 => 2 ^ 9 - 1
  | _ => 0

/-- The W1C fields of a register of the system block. -/
def sysW1c (n : Nat) : Nat :=
  match n with
  | 0x1003 => 2 ^ 4 + 2 ^ 6
  | 0x101B => 2
  | 0x1033 => 2 ^ 9
  | 0x1040 => 1
  | _ => 0

/-- Clear W1C fields where a value holds 1. -/
def State.sysClear (s : State) (a : Agent) (n : Nat) (v : Word) : State :=
  let x := (s.priv a).ctxsel
  match n with
  | 0x1003 => s.onCtx x fun c => { c with rej := c.rej && !v.getLsbD 4, diverge := c.diverge && !v.getLsbD 6 }
  | 0x101B => s.onCtx x fun c => { c with fpqRej := c.fpqRej && !v.getLsbD 1 }
  | 0x1033 => s.onPriv a fun p => { p with roleRej := p.roleRej && !v.getLsbD 9 }
  | 0x1040 => { s with devDf := s.devDf && !v.getLsbD 0 }
  | _ => s

/-- A write of CTXCMD (R235). -/
def ctxcmdWrite (a : Agent) (v : Word) (s : State) : Host.Outcome State Fault Refusal :=
  match v.toNat % 16 with
  | 1 => execCreate a s
  | 2 => execLoad a s
  | 3 => execRun a s
  | 4 => execSuspend a s
  | 5 => execResume a s
  | 6 => execDrain a s
  | 7 => execRekey a s
  | _ =>
    let x := (s.priv a).ctxsel
    .next (s.rejectCtx x (if (s.ctx x).busy then 0x01 else 0x07))

/-- A write of ROLECMD (R429, R430). -/
def rolecmdWrite (a : Agent) (v : Word) (s : State) : Host.Outcome State Fault Refusal :=
  match v.toNat % 8 with
  | 1 => execRoleResume a s
  | 2 => execSkip a s
  | 3 => execResumeat a s
  | 4 => execAbort a s
  | _ => .next (s.rejectRole a 0x04)

/-- A write of CALCMD (R324). -/
def calcmdWrite (v : Word) (s : State) : Host.Outcome State Fault Refusal :=
  match v.toNat % 4 with
  | 1 => execCalApply s
  | 2 => execCalendarReset s
  | _ => .next s

/-- A write of a register of the system block: its RW and write-only fields, and the behaviour that the write has. Read-only
and reserved bits ignore it; W1C fields clear where it holds 1 (R121). -/
def sysWrite (a : Agent) (n : Nat) (v : Word) (s : State) : Host.Outcome State Fault Refusal :=
  let x := (s.priv a).ctxsel
  let m := v.toNat % (2 ^ 64)
  match n with
  | 0x1000 => .next (s.onPriv a fun p => { p with ctxsel := Fin.ofNat 16 m })
  | 0x1001 => .next (s.onPriv a fun p => { p with ctxdesc := m % 2 ^ 52 })
  | 0x1002 => ctxcmdWrite a v s
  | 0x1005 => .next (s.onCtx x fun c => { c with logTail := BitVec.ofNat 32 m })
  | 0x1010 => .next { s with calPc := Fin.ofNat 512 m }
  | 0x1011 => .next { s with calSlot := Fin.ofNat 128 m }
  | 0x1012 => .next { s with calStaged := calSet s.calStaged s.calPc.val s.calSlot.val (m % 256) }
  | 0x1013 => calcmdWrite v s
  | 0x1018 => execHbmsplitWrite v s
  | 0x1019 => .next (s.onCtx x fun c => { c with fpqt := v &&& BitVec.ofNat 64 (2 ^ 52 - 2 ^ 6) })
  | 0x101A => execFpqcmd a v s
  | 0x1020 => .next { s with latSel := BitVec.ofNat 8 m }
  | 0x1021 => execLatownWrite v s
  | 0x1022 => execLwinWrite a v s
  | 0x1030 => .next (s.onPriv a fun p =>
      { p with roleCore := Fin.ofNat 128 m, roleSlot := Fin.ofNat 4 (m / 2 ^ 7), roleNum := m / 2 ^ 9 % 4 })
  | 0x1031 => rolecmdWrite a v s
  | 0x1032 => .next (s.onPriv a fun p => { p with rolePc := v &&& BitVec.ofNat 64 (2 ^ 55 - 1) })
  | 0x1034 => .next (s.onPriv a fun p => { p with roleReg := Fin.ofNat 64 m })
  | 0x1035 =>
    let p := s.priv a
    (match s.stalledTarget p with
    | none => .next s
    | some (id, _) => .next (if p.roleReg.isPort then s else s.onRole id fun k => k.setReg p.roleReg v))
  | 0x1050 => execEncnumWrite v s
  | _ => .next (s.sysClear a n v)

/-! ### CSRs of the device, the group and the role (R120 to R124) -/

/-- ID (R122). -/
def idWord : Word := BitVec.ofNat 64 (0x01 + Config.stepping.toNat * 2 ^ 8 + 0x0128 * 2 ^ 16)

/-- The value of a CSR as a role reads it. -/
def State.csrRead (s : State) (id : RoleId) (g : Group) (k : Role) (n : Nat) : Word :=
  match n with
  | 0x000 => idWord
  | 0x001 => s.cycle
  | 0x002 => s.placeWord id.core id.slot g.ctx
  | 0x010 => g.flags.setWidth 64
  | 0x011 => g.tfctl.setWidth 64
  | 0x012 => g.nanrec
  | 0x013 => g.nanrecPc
  | 0x020 => k.cause
  | 0x021 => k.faultPc
  | 0x022 => k.appendPc
  | 0x023 => k.faultVa
  | 0x024 => k.nodeId
  | 0x030 => (s.doneId id.core 0).setWidth 64
  | 0x031 => (s.doneId id.core 1).setWidth 64
  | 0x032 => (s.doneId id.core 2).setWidth 64
  | 0x033 => (s.doneId id.core 3).setWidth 64
  | _ => s.sysRead (.role id) n

/-- The three writing instructions. -/
inductive CsrOp where
  | write | setBits | clearBits
  deriving DecidableEq, Repr

/-- The value that an instruction writes to RW fields (R121). -/
def CsrOp.value (op : CsrOp) (old v : Word) : Word :=
  match op with
  | .write => v
  | .setBits => old ||| v
  | .clearBits => old &&& ~~~v

/-- Run an operation of the part inside the body of a step. -/
def within (f : State → Host.Outcome State Fault Refusal) : X Unit := fun s =>
  match f s with
  | .next t => .ok ((), t)
  | .fault e => .error (.halt e)
  | .refused _ => .ok ((), s)

/-- Clear the first-NaN record where VALID is written with 1 (R48). -/
def Group.clearNan (g : Group) (v : Word) : Group := if v.getLsbD 0 then { g with nanrec := 0, nanrecPc := 0 } else g

/-- Write a CSR (R121). A register of the system block whose fields are write-only is written by CSRW alone. -/
def csrWrite (op : CsrOp) (n : Nat) (v : Word) : X Unit := do
  let m ← me
  let s ← get
  let a : Agent := .role m.1
  let onG := fun (f : Group → Group) => (modify fun s => s.onGroup m.1.core m.1.slot f : X Unit)
  if n = 0x010 then onG fun g => { g with flags := (op.value (g.flags.setWidth 64) v).setWidth 7 }
  else if n = 0x011 then onG fun g => { g with tfctl := (op.value (g.tfctl.setWidth 64) v).setWidth 7 }
  else if n = 0x012 then (if op = .clearBits then pure () else onG fun g => g.clearNan v)
  else if n < 0x1000 then pure ()
  else
    match op with
    | .write => within (sysWrite a n v)
    | .setBits =>
      if sysRwMask n != 0 then within (sysWrite a n (op.value (s.sysRead a n) v))
      else if sysW1c n != 0 then within (sysWrite a n v)
      else pure ()
    | .clearBits => if sysRwMask n != 0 then within (sysWrite a n (op.value (s.sysRead a n) v)) else pure ()

/-- The checks of a CSR number before issue (R80 steps 4 and 5). -/
def csrPre (n : Nat) : X Unit := do
  faultIf (!csrAssigned n) 0x01 0
  if 0x1000 ≤ n then needSys n else pure ()

/-- CSRR (R121). -/
def execCsrr (d : SReg) (n : BitVec 14) (s : State) : Host.Outcome State Fault Refusal :=
  instr 1 [] [d] (csrPre n.toNat) (seqBody fun _ => do
    let m ← me
    writeDst d ((← get).csrRead m.1 m.2.1 m.2.2 n.toNat)) s

/-- A CSR instruction that writes. -/
def csrInstr (op : CsrOp) (a : SReg) (n : BitVec 14) : State → Host.Outcome State Fault Refusal :=
  instr 1 [a] [] (csrPre n.toNat) (seqBody fun vs => csrWrite op n.toNat (arg vs 0))

/-- CSRW (R121). -/
def execCsrw (a : SReg) (n : BitVec 14) (s : State) : Host.Outcome State Fault Refusal := csrInstr .write a n s

/-- CSRS (R121). -/
def execCsrs (a : SReg) (n : BitVec 14) (s : State) : Host.Outcome State Fault Refusal := csrInstr .setBits a n s

/-- CSRC (R121). -/
def execCsrc (a : SReg) (n : BitVec 14) (s : State) : Host.Outcome State Fault Refusal := csrInstr .clearBits a n s

/-! ### The host's port (R234, R255, R421, R440) -/

/-- Commands that the mailbox lists (R441). -/
def mbListed (op : Nat) : Bool :=
  op == 0x01 || op == 0x02 || op == 0x10 || op == 0x11 || op == 0x20 || op == 0x21 || op == 0x30 || op == 0x31 || op == 0x32
    || op == 0x40 || op == 0x41 || (0x50 ≤ op && decide (op ≤ 0x58))

/-- Commands that it accepts in the safe state (R439): DIAG, RESET, FWSTAGE, FWAPPLY. -/
def mbSafe (op : Nat) : Bool := op == 0x01 || op == 0x02 || op == 0x20 || op == 0x21

/-- A write of MBCMD (R440): dropped while BUSY. One that is unlisted, has bits that are to be zero, or is not accepted in
the safe state has its result at once. -/
def State.mbCommand (s : State) (v : Nat) : State :=
  if s.mb.busy then s
  else
    let op := v % 2 ^ 16
    let r : Option (BitVec 8) := if !mbListed op || v / 2 ^ 32 != 0 then some 1 else if s.safe && !mbSafe op then some 2 else none
    { s with mb := { s.mb with op := BitVec.ofNat 16 op, tag := BitVec.ofNat 16 (v / 2 ^ 16), busy := true, done := false
                               result := 0, begun := false, finished := r } }

/-- A write into the mailbox (R440), by offset. -/
def State.mbWrite (s : State) (off : Nat) (v : Word) : State :=
  if off = 0 then s.mbCommand v.toNat
  else if off = 8 then { s with mb := { s.mb with done := s.mb.done && !v.getLsbD 1 } }
  else if 0x40 ≤ off ∧ off < 0x80 then { s with mb := { s.mb with ops := vset s.mb.ops (Fin.ofNat 8 ((off - 0x40) / 8)) v } }
  else if 0x1000 ≤ off ∧ off < 0x2000 then { s with mb := { s.mb with data := splice s.mb.data (off - 0x1000) (leBytes 8 v.toNat) } }
  else s

/-- A write into a launch window (R255). -/
def launchWindowWrite (x : CtxId) (off : Nat) (v : Word) (s : State) : Host.Outcome State Fault Refusal :=
  if off = 0 then execHostLaunch x v s
  else if off = 16 then .next (s.onCtx x fun c => { c with apBase := v &&& BitVec.ofNat 64 (2 ^ 55 - 2 ^ 30) })
  else .next s

/-- What the host reads at an aligned offset of the mailbox (R440); MBCMD is write-only. -/
def State.mbRead (s : State) (off : Nat) : Word :=
  if off = 8 then BitVec.ofNat 64 ((if s.mb.busy then 1 else 0) + (if s.mb.done then 2 else 0) + s.mb.result.toNat * 2 ^ 8
    + s.mb.tag.toNat * 2 ^ 16)
  else if off = 16 then BitVec.ofNat 64 (s.ctl.stage.toNat + s.ctl.code.toNat * 2 ^ 4)
  else if 0x40 ≤ off ∧ off < 0x80 then vget s.mb.ops (Fin.ofNat 8 ((off - 0x40) / 8))
  else if 0x1000 ≤ off ∧ off < 0x2000 then BitVec.ofNat 64 (leNat ((s.mb.data.drop (off - 0x1000)).take 8))
  else 0

/-- What the host reads at an aligned offset of BAR0 (R234, R255, R421, R440). -/
def State.bar0Read (s : State) (off : Nat) : Word :=
  if off < 0x8000 then (if csrAssigned (0x1000 + off / 8) then s.sysRead .host (0x1000 + off / 8) else 0)
  else if 0x10000 ≤ off ∧ off < 0x20000 then s.launchWindow (Fin.ofNat 16 ((off - 0x10000) / 4096)) (off % 4096)
  else if 0x20000 ≤ off ∧ off < 0x22000 then s.mbRead (off - 0x20000)
  else 0

/-- REGISTER_WRITE (R121, R234, R255, R421, R440): an aligned 8-byte write of the host at an offset of BAR0, or a privileged
role's write of a register of the system block by its number. -/
def execRegisterWrite (by_ : Agent) (off : Nat) (v : Word) (s : State) : Host.Outcome State Fault Refusal :=
  match by_ with
  | .role r =>
    if s.privileged (.role r) && decide (0x1000 ≤ off) && csrAssigned off then sysWrite (.role r) off v s else .next s
  | .host =>
    if off % 8 != 0 then .next s
    else if off < 0x8000 then
      (if csrAssigned (0x1000 + off / 8) then sysWrite .host (0x1000 + off / 8) v s else .next s)
    else if 0x10000 ≤ off ∧ off < 0x20000 then launchWindowWrite (Fin.ofNat 16 ((off - 0x10000) / 4096)) (off % 4096) v s
    else if 0x20000 ≤ off ∧ off < 0x22000 then .next (s.mbWrite (off - 0x20000) v)
    else .next s

/-- Is an access one that the host port makes: 1 to 512 bytes that stay inside a 4 KiB block? -/
def hostAccessOk (off len : Nat) : Bool := 1 ≤ len && decide (len ≤ 512) && off / 4096 == (off + len - 1) / 4096

/-- A BAR2 access: the bytes of a read. -/
def HostAccess.act (a : HostAccess) (va : Nat) : X (List Byte) :=
  match a.store with
  | none => memReadBytes ⟨a.ctx, none, none⟩ va a.len
  | some bs => do
    memWriteBytes ⟨a.ctx, none, none⟩ va bs
    pure []

/-- The access has completed, and waits no more. -/
def State.bar2End (s : State) (a : HostAccess) (c : Completion) : State := { s with bar2 := some c, bar2Wait := s.bar2Wait.erase a }

/-- A completer abort: a read returns all ones (R421). -/
def HostAccess.abort (a : HostAccess) : Completion := ⟨true, if a.store.isSome then [] else List.replicate a.len 0xFF⟩

/-- HOST_BAR2_ACCESS (R421): an access through APBASE under the context's tables; one that fails changes nothing, ends with a
completer abort, and is recorded with ORIGIN 2. One that meets a wait is tried again. -/
def execHostBar2Access (x : CtxId) (off : Fin (2 ^ 30)) (len : Nat) (store : Option (List Byte)) (s : State) :
    Host.Outcome State Fault Refusal :=
  let a : HostAccess := ⟨x, off, store.elim len List.length, store⟩
  let va := (s.ctx x).apBase.toNat + off.val
  if !hostAccessOk off.val a.len then .next s
  else if !(s.ctx x).assigned then .next (s.bar2End a a.abort)
  else
    match a.act va s with
    | .ok (bs, t) => .next (t.bar2End a ⟨false, bs⟩)
    | .error (.trap t _) => .next ((s.bar2End a a.abort).deliverOther x 2 t.code t.va.toNat)
    | .error .wait => .next (wait s)
    | .error (.ask f) => .next (wait (f s))
    | .error (.halt f) => .fault f
where
  /-- The access waits. -/
  wait (s : State) : State :=
    let a : HostAccess := ⟨x, off, store.elim len List.length, store⟩
    if s.bar2Wait.contains a then s else { s with bar2Wait := s.bar2Wait ++ [a] }

end Sys2Proof.Machine
end

