-- ==== Sys2Proof/Machine/Platform.lean ====
section
/-! DEFINITION. Bring-up, the commands of the management mailbox, tamper, power and servicing (R402, R403, R407 to R410, R438
to R448). -/

namespace Sys2Proof.Machine

open Sys2Proof

/-! ### Bring-up and power (R438, R439, R443, R444) -/

/-- What the controller keeps in fuses, in its image store and in its audit store. -/
def Control.lasting (c : Control) : Control :=
  { Control.fresh with debugLock := c.debugLock, auditCount := c.auditCount, minVersion := c.minVersion, version := c.version
                       torn := c.torn, audits := c.audits }

/-- Does a key lie in the pool, whose devices are not part of the processor (R343, R399)? -/
def poolKey (k : Nat) : Bool := 2 ^ 44 ≤ k && decide (k < 2 ^ 44 + 2 ^ 45)

/-- Everything at its value before bring-up; the pool devices keep what they hold, local HBM and the on-chip memories are
open (log 4), and the clock of free values and the turns of the outside go on. -/
def State.cold (s : State) : State :=
  let t := (s.openRange 0 (2 ^ 44)).openRange (2 ^ 44 + 2 ^ 45) (2 ^ 64)
  { State.reset with
    tick := s.tick, agenda := s.agenda, engineTurn := s.engineTurn, cur := s.cur, mem := t.mem, opened := t.opened
    poison := s.poison.filter fun g => poolKey (g * 64)
    badMac := s.badMac.filter fun g => poolKey (g * 64)
    keyTag := s.keyTag.filter fun e => poolKey (e.1 * 64)
    sizeCode := s.sizeCode.filter fun e => poolKey (e.1 * 256) }

/-- Bring-up begins with step 1 (R438). The debug port is open while its fuse is intact; a RESET leaves it as it is (R444, log 71). -/
def State.beginBringUp (s : State) : State :=
  let isOpen := if s.power then s.ctl.debugOpen else !s.ctl.debugLock
  let past := if s.power then s.ctl.history else []
  ({ s.cold with power := true, ctl := { s.ctl.lasting with debugOpen := isOpen, history := past, counting := false } } : State).setStage 1 0

/-- The step of bring-up in progress ends, failed or not (R438): the next one begins, and after the last one the part is ready; a
failure of step 1 leaves no part that answers, one of step 5 marks ports down, the others lead to the safe state. A torn image fails
step 2 (R443). CYCLE counts from step 4. -/
def State.stageEnds (s : State) (fails : Bool) : State :=
  let n := s.ctl.stage.toNat
  let failed := fails || n == 2 && s.ctl.torn
  if n = 1 ∧ failed then { s with power := false, ctl := { s.ctl.lasting with stage := 0, history := [], counting := false } }
  else if failed ∧ failCode n ≠ 0 then s.enterSafe (failCode n)
  else
    let s1 := if n = 5 ∧ failed then { s with heads := Vector.ofFn fun i => ⟨!Config.mixed (s.tick + i.val), none, []⟩ } else s
    ({ s1 with ctl := { s1.ctl with counting := s1.ctl.counting || n == 4 } } : State).setStage (s.ctl.stage + 1) 0

/-- Is a step of bring-up in progress? -/
def State.bringingUp (s : State) : Bool := decide (1 ≤ s.ctl.stage.toNat) && decide (s.ctl.stage.toNat ≤ 6)

/-- BRING_UP (R438): at power-up bring-up begins; afterwards its step in progress ends, failed if it is the one that is to fail. -/
def execBringUp (fail : Option (Fin 7)) (s : State) : Host.Outcome State Fault Refusal :=
  .next (if !s.power then s.beginBringUp
    else if s.bringingUp then s.stageEnds (fail.any fun f => f.val == s.ctl.stage.toNat)
    else s)

/-- POWER_DOWN (R443, R444): all but fuses, image and audit records is lost, and the debug port closes. -/
def execPowerDown (s : State) : Host.Outcome State Fault Refusal :=
  .next { s.cold with power := false, ctl := { s.ctl.lasting with stage := 0, history := [], counting := false
                                                                  torn := s.ctl.torn || s.ctl.applying } }

/-! ### The frame of a mailbox command (R440) -/

/-- Operand i of the command in progress. -/
def State.mbOp (s : State) (i : Fin 8) : Nat := (vget s.mb.ops i).toNat

/-- The command's work is done, with a result. -/
def State.mbDone (s : State) (r : BitVec 8) : State := { s with mb := { s.mb with finished := some r } }

/-- Is a command in progress whose work is not done? -/
def State.mbPending (s : State) (op : Nat) : Bool := s.mb.busy && s.mb.op.toNat == op && s.mb.finished.isNone

/-- The command in progress, if it is the named one: its work, or what it does while it waits for other agents. -/
def mailbox (op : Nat) (act : State → Option (BitVec 8) × State) (s : State) : Host.Outcome State Fault Refusal :=
  if !s.mbPending op then .next s
  else
    let r := act s
    match r.1 with
    | none => .next { r.2 with mb := { r.2.mb with begun := true } }
    | some v => .next (r.2.mbDone v)

/-- A command that needs no wait. -/
def mailboxNow (op : Nat) (act : State → BitVec 8 × State) : State → Host.Outcome State Fault Refusal :=
  mailbox op fun s => (some (act s).1, (act s).2)

/-- MB_COMMAND_COMPLETE (R440). -/
def execMbCommandComplete (s : State) : Host.Outcome State Fault Refusal :=
  if !s.mb.busy then .next s
  else
    match s.mb.finished with
    | none => .next s
    | some r => .next { s with mb := { s.mb with busy := false, done := true, result := r, begun := false, finished := none }
                               ctl := { s.ctl with applying := false }
                               msi := s.msi ++ [16] }

/-! ### DIAG, RESET, keys -/

/-- What diagnostic pages report (R441): the history of BRSTAT, DEVSTAT, throttle state, fuse counters, and the status of links and
heads. -/
def State.diagFacts (s : State) : List Nat :=
  let bit := fun (b : Bool) => if b then 1 else 0
  [s.ctl.history.length] ++ (s.ctl.history.flatMap fun h => [h.1, h.2])
    ++ [s.devstat, s.ctl.throttle.val, s.ctl.auditCount, s.ctl.minVersion.toNat, s.etoff.toNat]
    ++ (s.links.toList.flatMap fun l => [bit l.trained, bit l.training])
    ++ (s.heads.toList.flatMap fun h => [bit h.up, h.proxy.elim 0 (· + 1)])

/-- DIAG (R441): the page's layout is the controller's own (log 26). -/
def execDiag (s : State) : Host.Outcome State Fault Refusal :=
  mailboxNow 0x01 (fun s =>
    (0, { s with mb := { s.mb with data := (List.range 4096).map (Config.diag s.diagFacts (s.mbOp 0)) } })) s

/-- RESET (R439): bring-up again; refused after tamper. The command is done when bring-up has ended. -/
def execReset (s : State) : Host.Outcome State Fault Refusal :=
  mailbox 0x02 (fun s =>
    if s.mb.begun then (if s.bringingUp then none else some 0, s)
    else if s.tampered then (some 2, s)
    else (none, { s.beginBringUp with mb := { Mailbox.fresh with op := s.mb.op, tag := s.mb.tag, busy := true } })) s

/-- Is a slot the primary key of a context that is not free (R441)? -/
def State.keyInUse (s : State) (k : Fin 16) : Bool := s.ctxs.toList.any fun c => c.state != .free && c.desc.key == k

/-- KEYLOAD (R441, R449). -/
def execKeyload (s : State) : Host.Outcome State Fault Refusal :=
  mailboxNow 0x10 (fun s =>
    let k : Fin 16 := Fin.ofNat 16 (s.mbOp 0)
    if 16 ≤ s.mbOp 0 then (1, s)
    else if s.ctl.debugOpen then (2, s)
    else if s.keyInUse k then (4, s)
    else
      match keyUnwrap ((List.range 32).map Config.provisioning) 16 (s.mb.data.take 136) with
      | none => (1, s)
      | some v => (0, { s with keySlots := vset s.keySlots k (BitVec.ofNat 1024 (leNat v)) })) s

/-- KEYZERO (R441). -/
def execKeyzero (s : State) : Host.Outcome State Fault Refusal :=
  mailboxNow 0x11 (fun s =>
    let k : Fin 16 := Fin.ofNat 16 (s.mbOp 0)
    if 16 ≤ s.mbOp 0 then (1, s)
    else if s.keyInUse k then (4, s)
    else (0, { s with keySlots := vset s.keySlots k 0 })) s

/-! ### Firmware (R442, R443) -/

/-- Bytes of the two signatures of an image (R442). -/
def rsaBytes : Nat := 384
def slhBytes : Nat := 16224

/-- A field of an image's header: 0 MAGIC, 1 VERSION, 2 BODYLEN (log 11). -/
def fwField (h : List Byte) (i : Fin 3) : Nat :=
  let p := Config.fwPlace i
  leNat ((h.drop p.1).take (if i = 1 then 4 else p.2))

/-- Does a byte of the header belong to one of its fields? -/
def fwNamed (j : Nat) : Bool :=
  (List.finRange 3).any fun i =>
    let p := Config.fwPlace i
    decide (p.1 ≤ j) && decide (j < p.1 + (if i = 1 then 4 else p.2))

/-- The VERSION of a staged image that has the form of R442 and whose signatures verify. -/
def fwVersion (b : List Byte) : Option (BitVec 32) :=
  let h := b.take 512
  let n := 512 + fwField h 2
  let rest := (List.range 512).all fun j => fwNamed j || h.getD j 0 == 0
  if 512 ≤ b.length && fwField h 0 == 0x4657 && decide (fwField h 2 ≤ 2 ^ 24) && rest && decide (n + rsaBytes + slhBytes ≤ b.length)
      && Config.signed (b.take n) ((b.drop n).take rsaBytes) ((b.drop (n + rsaBytes)).take slhBytes) then
    some (BitVec.ofNat 32 (fwField h 1))
  else none

/-- FWSTAGE (R441, R443): a piece of the image, or the final call, which verifies it. -/
def execFwstage (s : State) : Host.Outcome State Fault Refusal :=
  mailboxNow 0x20 (fun s =>
    let off := s.mbOp 0
    let n := s.mbOp 1
    if 4096 < n then (1, s)
    else if n = 0 then
      match fwVersion s.ctl.staged with
      | none => (3, { s with ctl := { s.ctl with stagedOk := false } })
      | some v => if v < s.ctl.minVersion then (3, { s with ctl := { s.ctl with stagedOk := false } })
          else (0, { s with ctl := { s.ctl with stagedOk := true } })
    else
      let room := s.ctl.staged ++ List.replicate (off + n - s.ctl.staged.length) 0
      (0, { s with ctl := { s.ctl with staged := splice room off (s.mb.data.take n), stagedOk := false } })) s

/-- FWAPPLY (R443): it waits until no context runs or drains. -/
def execFwapply (s : State) : Host.Outcome State Fault Refusal :=
  mailbox 0x21 (fun s =>
    if !s.ctl.stagedOk then (some 2, s)
    else if s.ctxs.toList.any fun c => c.state == .running || c.state == .draining then (none, s)
    else
      let v := (fwVersion s.ctl.staged).getD s.ctl.version
      (some 0, { s with ctl := { s.ctl with applying := true, version := v, minVersion := v, torn := false } })) s

/-! ### Debug lock and audit (R444) -/

/-- Counts of the fused audit counter. -/
def auditMax : Nat := 255

/-- An audit record (R444). -/
def auditRecord (n : Nat) (cycle : Word) (scope : BitVec 32) (auth : List Byte) : List Byte :=
  leBytes 4 n ++ leBytes 8 cycle.toNat ++ leBytes 4 scope.toNat ++ (sha384 auth).take 32

/-- DBGUNLOCK (R444). Where fusing the count or writing the record fails, the port is closed (log 71). -/
def execDbgunlock (s : State) : Host.Outcome State Fault Refusal :=
  mailboxNow 0x30 (fun s =>
    let n := s.ctl.auditCount + 1
    if !s.ctl.debugLock then (0, s)
    else if !s.allFree then (2, s)
    else
      match Config.authorized s.mb.data n with
      | none => (3, s)
      | some scope =>
        if auditMax ≤ s.ctl.auditCount then (5, s)
        else
          match Config.auditFails s.tick with
          | some f => (f.2, { s with ctl := { s.ctl with auditCount := if f.1 then n else s.ctl.auditCount, debugOpen := false } })
          | none =>
            let auth := s.mb.data.take (Config.authLength s.mb.data)
            (0, { s with ctl := { s.ctl with auditCount := n, debugOpen := true
                                             audits := s.ctl.audits ++ [auditRecord n s.cycle scope auth] } })) s

/-- DBGLOCK (R441): the port closes; while the fuse is intact it is open (R444). -/
def execDbglock (s : State) : Host.Outcome State Fault Refusal :=
  mailboxNow 0x31 (fun s => (0, { s with ctl := { s.ctl with debugOpen := !s.ctl.debugLock } })) s

/-- DBGLOG (R441): an audit record at the start of MBDATA. -/
def execDbglog (s : State) : Host.Outcome State Fault Refusal :=
  mailboxNow 0x32 (fun s =>
    match s.ctl.audits.find? fun r => leNat (r.take 4) == s.mbOp 0 with
    | none => (1, s)
    | some r => (0, { s with mb := { s.mb with data := splice s.mb.data 0 r } })) s

/-! ### Tamper, power and cooling (R445, R447) -/

/-- TAMPER (R445): keys and staging buffer go, work is discarded, the debug port closes, the part is in the safe state, and
the command in progress ends with RESULT 2. -/
def execTamper (s : State) : Host.Outcome State Fault Refusal :=
  let s1 := s.stopAll.enterSafe 0x10
  .next { s1 with ctl := { s1.ctl with staged := [], stagedOk := false, applying := false, debugOpen := false }
                  mb := if s1.mb.busy then { s1.mb with finished := some 2 } else s1.mb }

/-- POWER_WINDOW (R447): a window over the power limit, or with a junction above 105 °C (1) or that has reached 115 °C (2), throttles by
one more step, and one with neither ends throttling; no value changes. Full throttle is timed while power is over its limit, and a
junction at 115 °C is a device-level fault. -/
def execPowerWindow (w : PowerReading) (s : State) : Host.Outcome State Fault Refusal :=
  let t : Fin 4 := if !w.power && w.junction == 0 then 0 else if s.ctl.throttle = 3 then 3 else s.ctl.throttle + 1
  let since := if t = 3 ∧ w.power then some (s.ctl.fullSince.getD s.cycle.toNat) else none
  let s1 := { s with ctl := { s.ctl with throttle := t, fullSince := since } }
  .next (if w.junction = 2 then s1.deviceFault 5 0 else s1)

/-- Cycles of full throttle that the part bears (R447). -/
def throttleLimit : Nat := 12000000

/-- FULL_THROTTLE_TIMEOUT (R447). -/
def execFullThrottleTimeout (s : State) : Host.Outcome State Fault Refusal :=
  match s.ctl.fullSince with
  | none => .next s
  | some t =>
    if s.cycle.toNat < t + throttleLimit then .next s
    else .next (({ s with ctl := { s.ctl with fullSince := none } } : State).deviceFault 5 0)

/-! ### Servicing (R448) -/

/-- The core that CORESVC names. -/
def State.svcCore (s : State) : CoreId := Fin.ofNat 128 (s.mbOp 0)

/-- Are CORESVC's operands good: the reserved bits of MBOP0, and a save area in the ordinary window? -/
def State.svcOk (s : State) : Bool :=
  s.mbOp 0 / 2 ^ 9 == 0 && !(lbit (s.mbOp 0) 7) && s.mbOp 1 != 0 && s.mbOp 1 % 2 ^ 16 == 0
    && decide (s.mbOp 1 + 9 * 2 ^ 20 ≤ 2 ^ 19 * (2 ^ 20 - s.srows))

/-- Is the command in progress a CORESVC in the given direction? -/
def State.svcWay (s : State) (out : Bool) : Bool := lbit (s.mbOp 0) 8 == out

/-- The key of a core's save area: its owner's primary slot. -/
def State.svcKey (s : State) (c : CoreId) : KeyRef :=
  match s.coreCtx c with
  | none => none
  | some x => s.keyOf (s.ctx x).desc.key

/-- What CORESVC saves: ranges of the core's memories, with their places in the save area (log 30). -/
def State.svcParts (s : State) (c : CoreId) : List (Nat × Nat × Nat) :=
  let units := match s.coreCtx c with
    | none => []
    | some x => (List.range 48).filter fun u => (s.ctx x).desc.units.getLsbD u
  (onChipKey 3 c 0, 0, 6 * 2 ^ 20) :: units.map fun u => (onChipKey 1 c (u * 2 ^ 16), 6 * 2 ^ 20 + u * 2 ^ 16, 2 ^ 16)

/-- Copy a granule of a core's memory to an atom of local HBM; a lost one is lost there. -/
def State.svcOut (s : State) (key : KeyRef) (k pa : Nat) : State :=
  let r := s.chipRead k 64
  let t := s.hbmWriteAtom key pa r.1
  if r.2 then t.addPoison (pa / 64) else t

/-- Copy an atom of local HBM to a granule of a core's memory; what is lost is lost there, in the weight stack open, for it has
no poison bits (R361, log 85). -/
def State.svcIn (s : State) (key : KeyRef) (k pa : Nat) : State :=
  let r := s.hbmRead key pa 64
  let t := s.chipWrite k r.1
  if !r.2 then t else if ptrSpace k = 1 then t.addPoison (k / 64) else t.openRange k 64

/-- Move every part of a core's saved memory. -/
def State.svcMove (s : State) (c : CoreId) (one : State → Nat → Nat → State) : State :=
  (s.svcParts c).foldl (fun t p =>
    (List.range (p.2.2 / 64)).foldl (fun u i => one u (p.1 + 64 * i) (s.mbOp 1 + p.2.1 + 64 * i)) t) s

/-- Take a core out of dispatch, or put it back. -/
def State.setServiced (s : State) (c : CoreId) (b : Bool) : State :=
  let m := BitVec.ofNat 128 (2 ^ c.val)
  { s with serviced := if b then s.serviced ||| m else s.serviced &&& ~~~m }

/-- CORESVC_OUT (R448): the core leaves dispatch at once; once its groups have left, its memories are saved and zeroed. -/
def execCoresvcOut (s : State) : Host.Outcome State Fault Refusal :=
  if !s.svcWay true then .next s
  else mailbox 0x40 (fun s =>
    let c := s.svcCore
    if !s.svcOk then (some 1, s)
    else if !s.mb.begun && s.serviced.getLsbD c.val then (some 2, s)
    else
      let s1 := s.setServiced c true
      if !(s1.residents c none).isEmpty then (none, s1)
      else
        let s2 := s1.svcMove c fun t k pa => t.svcOut (s.svcKey c) k pa
        let s3 := match s.coreCtx c with
          | none => s2
          | some x => s2.zeroCore x c
        (some 0, s3)) s

/-- CORESVC_IN (R448). -/
def execCoresvcIn (s : State) : Host.Outcome State Fault Refusal :=
  if !s.svcWay false then .next s
  else mailboxNow 0x40 (fun s =>
    let c := s.svcCore
    if !s.svcOk then (1, s)
    else if !s.serviced.getLsbD c.val then (2, s)
    else
      let s1 := s.svcMove c fun t k pa => t.svcIn (s.svcKey c) k pa
      (0, (s1.zeroUnder (s.svcKey c) (s.mbOp 1) (9 * 2 ^ 20)).setServiced c false)) s

/-- PCCAL (R448): timing only. -/
def execPccal (s : State) : Host.Outcome State Fault Refusal :=
  mailboxNow 0x41 (fun s => (if s.mbOp 0 < 512 then 0 else 1, s)) s

/-! ### Pool regions (R400, R402, R403) -/

/-- A declaration's fields in range (R400). -/
def parseRegion (b : List Byte) : Option Region :=
  let f := fieldAt b
  let r : Region := ⟨f 0 8, f 8 8, f 16 1, f 17 1, f 18 1, f 19 1, f 24 8, f 32 8, false⟩
  let dev := (r.pbase - 2 ^ 44) / 2 ^ 42
  let inPool := fun (pa : Nat) => 2 ^ 44 ≤ pa && decide (pa < 2 ^ 44 + 8 * 2 ^ 42)
  let repl := if r.kind = 2 then decide (r.ownProc < 16) && decide (r.ownCtx < 16) && r.rmask / 2 ^ dev % 2 == 1
    else r.ownProc == 0 && r.ownCtx == 0 && r.rmask == 0
  if r.pbase % 2 ^ 16 == 0 && r.size % 2 ^ 16 == 0 && inPool r.pbase && decide ((r.pbase - 2 ^ 44) % 2 ^ 42 + r.size ≤ 2 ^ 42)
      && 1 ≤ r.kind && decide (r.kind ≤ 3) && repl && f 20 4 == 0 && allZero ((b.drop 40).take 24) && inPool r.metaBase
      && inPool r.tree then some r else none

/-- The declaration with an index. -/
def State.region (s : State) (i : Nat) : Option Region := if i < 64 then vget s.regions (Fin.ofNat 64 i) else none

/-- Set the declaration with an index. -/
def State.setRegion (s : State) (i : Nat) (r : Option Region) : State := { s with regions := vset s.regions (Fin.ofNat 64 i) r }

/-- REGDECL (R400, R403): the declaration is read in plain. -/
def execRegdecl (s : State) : Host.Outcome State Fault Refusal :=
  mailboxNow 0x50 (fun s =>
    if 64 ≤ s.mbOp 0 then (1, s)
    else if (s.region (s.mbOp 0)).isSome then (4, s)
    else
      match rawRead none 0 (s.mbOp 1) 64 s with
      | .error _ => (1, s)
      | .ok (b, t) =>
        match parseRegion b.1 with
        | none => (1, t)
        | some r => (0, t.setRegion (s.mbOp 0) (some r))) s

/-- Does a page that a leaf of a context maps lie in a region, in whichever backing? -/
def State.pageIn (s : State) (r : Region) (x : CtxId) (leaf va : Nat) : Bool :=
  leafKind leaf != 0 && [true, false].any fun side => r.holds (s.placeIn x va leaf fun _ => side)

/-- Does a TLB entry use a region? -/
def State.entryIn (s : State) (r : Region) (e : TlbEntry) : Bool :=
  (List.range (if e.block then 32 else 1)).any fun i => s.pageIn r e.ctx e.leaf ((e.page + i) * 2 ^ 16)

/-- Does a TLB entry or a bound stream use a region (R403)? -/
def State.regionUsed (s : State) (r : Region) : Bool :=
  let hits := fun (t : List TlbEntry) => t.any (s.entryIn r)
  s.dieTlb.toList.any hits || (s.cores.toList.any fun k => hits k.tlb) || s.lats.any fun p =>
    match p.2.stream with
    | none => false
    | some t => t.binds.any fun b =>
      (rangePages b.2.range.1 (b.2.range.2 + 1 - b.2.range.1)).any fun q => s.pageIn r t.ctx b.2.block q.1

/-- Write back and drop the cached lines of a range of the pool. -/
def State.flushRange (s : State) (base size : Nat) : State :=
  s.heads.toList.foldl (fun t h => h.cache.foldl (fun u l =>
    if base ≤ l.line * 64 && decide (l.line * 64 < base + size) then (if l.dirty then u.writeBack l else u).uncache l.line
    else u) t) s

/-- REGDROP (R403): the lines of every replica go first. -/
def execRegdrop (s : State) : Host.Outcome State Fault Refusal :=
  mailboxNow 0x51 (fun s =>
    match s.region (s.mbOp 0) with
    | none => (1, s)
    | some r =>
      if s.regionUsed r then (4, s)
      else (0, (r.devices.foldl (fun t c => t.flushRange (r.onDevice c).pbase r.size) s).setRegion (s.mbOp 0) none)) s

/-- Does a range hold a page of the region with an index, as its pages translate now? -/
def State.rangeIn (s : State) (w : Who) (r : Nat × Nat) (i : Nat) : Bool :=
  (pagesOf r).any fun p =>
    match (translate w p .none).run s with
    | .ok (t, _) => (s.region i).any fun d => d.holds t.pa
    | .error _ => false

/-- Is a multicast to the region with an index in flight (R402): as its command was issued, or as its pages translate now? -/
def State.mcstTo (s : State) (i : Nat) : Bool :=
  (List.finRange 128).any fun c => (s.core c).cmds.any fun k =>
    match k.kind with
    | .mcst rs => rs.contains i || s.rangeIn ⟨k.ctx, some c, some k.slot⟩ k.dst.range i
    | .copy | .cred _ _ _ _ _ | .send _ _ _ _ | .recv _ _ _ _ => false

/-- REGSTATE (R402, R403): it waits for the multicasts of the region. -/
def execRegstate (s : State) : Host.Outcome State Fault Refusal :=
  mailbox 0x52 (fun s =>
    match s.region (s.mbOp 0) with
    | none => (some 1, s)
    | some r =>
      if r.kind != 2 || decide (1 < s.mbOp 1) then (some 1, s)
      else if r.ownProc != s.encProc.toNat then (some 2, s)
      else if s.mcstTo (s.mbOp 0) then (none, s)
      else (some 0, s.setRegion (s.mbOp 0) (some { r with update := s.mbOp 1 == 1 }))) s

/-! ### Dynamic capacity (R407, R247, R248) -/

/-- Kind-4 records of a grant or a revocation in every context that keeps a log (log 31). In replay the next record has to be
this one: the command waits while one that stands later is, and a context whose log has none diverges (R248). -/
def logCapacity (base data : Nat) : X Unit :=
  (List.finRange 16).forM fun x => do
    let s ← get
    let live := match (s.ctx x).state with
      | .loaded | .running | .suspended | .draining => true
      | .free | .created | .scrubbing => false
    if !live then pure ()
    else if (s.ctx x).desc.replay then
      let mine := fun (r : LogRec) => r.id == base && r.data == data
      match (s.logNext x 3).filter mine with
      | some r => set (s.logTake x 3 r)
      | none =>
        let c := s.ctx x
        waitIf (logAny s c 4 mine c.logCap (c.logTail.toNat + vget c.replayAt 3))
        set (s.diverge x)
    else logAppend x 3 none base data

/-- Apply a change of an extent once its records are in the logs. -/
def State.afterLog (s : State) (base data : Nat) (f : State → State) : Option (BitVec 8) × State :=
  match logCapacity base data s with
  | .ok (_, t) => (some 0, f t)
  | .error _ => (none, s)

/-- DCACCEPT (R403, R407). -/
def execDcaccept (s : State) : Host.Outcome State Fault Refusal :=
  mailbox 0x53 (fun s =>
    match s.extent (s.mbOp 0) with
    | none => (some 1, s)
    | some e =>
      if e.state != .offered then (some 2, s)
      else s.afterLog e.base (e.size % 2 ^ 63) fun t => t.onExtent e.id fun e => { e with state := .granted }) s

/-- DCRELEASE (R403, R407). -/
def execDcrelease (s : State) : Host.Outcome State Fault Refusal :=
  mailbox 0x54 (fun s =>
    match s.extent (s.mbOp 0) with
    | none => (some 1, s)
    | some e =>
      if e.state != .granted && e.state != .revoking then (some 2, s)
      else s.afterLog e.base (e.size % 2 ^ 63 + 2 ^ 63) fun t =>
        { t.flushRange e.base e.size with extents := (t.flushRange e.base e.size).extents.filter fun f => f.id != e.id }) s

/-! ### Heads, proxy, links (R403, R408 to R411) -/

/-- HEADDOWN (R408). -/
def execHeaddown (s : State) : Host.Outcome State Fault Refusal :=
  mailboxNow 0x55 (fun s => if 8 ≤ s.mbOp 0 then (1, s) else (0, s.markDown (Fin.ofNat 8 (s.mbOp 0)))) s

/-- HEADUP (R410): direct service again, with an empty port cache; Dirty lines are written back first. -/
def execHeadup (s : State) : Host.Outcome State Fault Refusal :=
  mailboxNow 0x56 (fun s =>
    if 8 ≤ s.mbOp 0 then (1, s)
    else
      let p : Fin 8 := Fin.ofNat 8 (s.mbOp 0)
      let s1 := (vget s.heads p).cache.foldl (fun t l => if l.dirty then t.writeBack l else t) s
      (0, { s1 with heads := vset s1.heads p { vget s1.heads p with up := true, cache := [] } })) s

/-- PROXY (R403): the processor has to be a neighbour over some link. -/
def execProxy (s : State) : Host.Outcome State Fault Refusal :=
  mailboxNow 0x57 (fun s =>
    let n := s.mbOp 1
    let near := s.encSize != 0 && (List.range 8).any fun i => linkPeer s.encSize.toNat s.encProc.toNat i == n
    if 8 ≤ s.mbOp 0 || 16 ≤ n || !near then (1, s)
    else
      let p : Fin 8 := Fin.ofNat 8 (s.mbOp 0)
      (0, { s with heads := vset s.heads p { vget s.heads p with proxy := some n } })) s

/-- LINKRT (R403, R411, R413): training begins, and the command waits for its end. While SIZE is 0 there is no wiring to train
(R414). -/
def execLinkrt (s : State) : Host.Outcome State Fault Refusal :=
  mailbox 0x58 (fun s =>
    let i : PortId := Fin.ofNat 8 (s.mbOp 0)
    if 8 ≤ s.mbOp 0 then (some 1, s)
    else if s.encSize = 0 then (some 2, s)
    else if !s.mb.begun then (none, s.beginTraining i)
    else if (vget s.links i).training then (none, s)
    else (some 0, s)) s

end Sys2Proof.Machine
end

