-- ==== Sys2Proof/Machine/Pred.lean ====
section
/-! DEFINITION. Compact predicates (R128, R129). -/

namespace Sys2Proof.Machine

open Sys2Proof

/-- Bits of an element width. -/
def PWidthBits : PWidth → Nat
  | .w8 => 8 | .w16 => 16 | .w32 => 32

/-- k0: all active. It reads 0x600, that is COUNT 1,536 of width 8. -/
def Pred.all : Pred := ⟨1536, .w8⟩

/-- A predicate; k0 is all-active (R61). -/
def Group.pred (g : Group) (k : KReg) : Pred := if k = 0 then Pred.all else vget g.preds k

/-- Write a predicate; k0 ignores writes (R61). -/
def Group.setPred (g : Group) (k : KReg) (p : Pred) : Group := if k = 0 then g else { g with preds := vset g.preds k p }

/-- Bytes of the prefix that a predicate covers. -/
def Pred.bytes (p : Pred) : Nat := p.count * PWidthBits p.width / 8

/-- Update the group of the role whose turn it is. -/
def onMyGroup (f : Group → Group) : X Unit := do
  let m ← me
  modify fun s => s.onGroup m.1.core m.1.slot f

/-- KSET (R129). -/
def execKset (d : KReg) (a : SReg) (w : PWidth) (s : State) : Host.Outcome State Fault Refusal :=
  instr 1 [a] [] noPre (seqBody fun vs => onMyGroup fun g => g.setPred d ⟨min (arg vs 0).toNat 1536, w⟩) s

/-- KCNT (R129). -/
def execKcnt (d : SReg) (a : KReg) (w : PWidth) (s : State) : Host.Outcome State Fault Refusal :=
  instr 1 [] [d] noPre (seqBody fun _ => do
    let m ← me
    writeDst d (BitVec.ofNat 64 ((m.2.1.pred a).bytes * 8 / PWidthBits w))) s

/-- KMIN (R129). -/
def execKmin (d a b : KReg) (s : State) : Host.Outcome State Fault Refusal :=
  instr 1 [] [] noPre (seqBody fun _ => onMyGroup fun g =>
    let pa := g.pred a
    g.setPred d ⟨min pa.bytes (g.pred b).bytes * 8 / PWidthBits pa.width, pa.width⟩) s

/-- KGET (R129). -/
def execKget (d : SReg) (a : KReg) (s : State) : Host.Outcome State Fault Refusal :=
  instr 1 [] [d] noPre (seqBody fun _ => do
    let m ← me
    let p := m.2.1.pred a
    writeDst d (BitVec.ofNat 64 (p.count + p.width.code * 2 ^ 11))) s

end Sys2Proof.Machine
end

