-- ==== Sys2Proof/Machine/Dispatch.lean ====
section
/-! DEFINITION. Dispatch: one arm for each constructor of `Instr`, each one call of that operation's meaning. -/

namespace Sys2Proof.Machine

open Sys2Proof

/-- What an operation does to the machine. An encoded instruction acts for the role `s.cur`. -/
def exec (i : Instr) (s : State) : Host.Outcome State Fault Refusal :=
  match i with
  | .nop => Sys2Proof.Machine.execNop s
  | .endGroup => Sys2Proof.Machine.execEndGroup s
  | .tfence => Sys2Proof.Machine.execTfence s
  | .trap code => Sys2Proof.Machine.execTrap code s
  | .brk code => Sys2Proof.Machine.execBrk code s
  | .fence scope kind => Sys2Proof.Machine.execFence scope kind s
  | .cyc d => Sys2Proof.Machine.execCyc d s
  | .csrr d csr => Sys2Proof.Machine.execCsrr d csr s
  | .csrw a csr => Sys2Proof.Machine.execCsrw a csr s
  | .csrs a csr => Sys2Proof.Machine.execCsrs a csr s
  | .csrc a csr => Sys2Proof.Machine.execCsrc a csr s
  | .add d a b => Sys2Proof.Machine.execAdd d a b s
  | .sub d a b => Sys2Proof.Machine.execSub d a b s
  | .mul d a b => Sys2Proof.Machine.execMul d a b s
  | .mulh d a b => Sys2Proof.Machine.execMulh d a b s
  | .mulhn d a b => Sys2Proof.Machine.execMulhn d a b s
  | .div d a b => Sys2Proof.Machine.execDiv d a b s
  | .divn d a b => Sys2Proof.Machine.execDivn d a b s
  | .rem d a b => Sys2Proof.Machine.execRem d a b s
  | .remn d a b => Sys2Proof.Machine.execRemn d a b s
  | .and d a b => Sys2Proof.Machine.execAnd d a b s
  | .or d a b => Sys2Proof.Machine.execOr d a b s
  | .xor d a b => Sys2Proof.Machine.execXor d a b s
  | .andn d a b => Sys2Proof.Machine.execAndn d a b s
  | .shl d a b => Sys2Proof.Machine.execShl d a b s
  | .shr d a b => Sys2Proof.Machine.execShr d a b s
  | .sar d a b => Sys2Proof.Machine.execSar d a b s
  | .rol d a b => Sys2Proof.Machine.execRol d a b s
  | .min d a b => Sys2Proof.Machine.execMin d a b s
  | .max d a b => Sys2Proof.Machine.execMax d a b s
  | .minn d a b => Sys2Proof.Machine.execMinn d a b s
  | .maxn d a b => Sys2Proof.Machine.execMaxn d a b s
  | .seq d a b => Sys2Proof.Machine.execSeq d a b s
  | .sne d a b => Sys2Proof.Machine.execSne d a b s
  | .slt d a b => Sys2Proof.Machine.execSlt d a b s
  | .sltn d a b => Sys2Proof.Machine.execSltn d a b s
  | .sle d a b => Sys2Proof.Machine.execSle d a b s
  | .slen d a b => Sys2Proof.Machine.execSlen d a b s
  | .clz d a => Sys2Proof.Machine.execClz d a s
  | .ctz d a => Sys2Proof.Machine.execCtz d a s
  | .popc d a => Sys2Proof.Machine.execPopc d a s
  | .sel d a b => Sys2Proof.Machine.execSel d a b s
  | .addsh1 d a b => Sys2Proof.Machine.execAddsh1 d a b s
  | .addsh2 d a b => Sys2Proof.Machine.execAddsh2 d a b s
  | .addsh3 d a b => Sys2Proof.Machine.execAddsh3 d a b s
  | .addi d a imm => Sys2Proof.Machine.execAddi d a imm s
  | .andi d a imm => Sys2Proof.Machine.execAndi d a imm s
  | .ori d a imm => Sys2Proof.Machine.execOri d a imm s
  | .xori d a imm => Sys2Proof.Machine.execXori d a imm s
  | .slti d a imm => Sys2Proof.Machine.execSlti d a imm s
  | .shli d a n => Sys2Proof.Machine.execShli d a n s
  | .shri d a n => Sys2Proof.Machine.execShri d a n s
  | .sari d a n => Sys2Proof.Machine.execSari d a n s
  | .ldi d imm => Sys2Proof.Machine.execLdi d imm s
  | .ldih d imm => Sys2Proof.Machine.execLdih d imm s
  | .bfx d a pos wm1 => Sys2Proof.Machine.execBfx d a pos wm1 s
  | .bfi d a pos wm1 => Sys2Proof.Machine.execBfi d a pos wm1 s
  | .mkptr d a b space => Sys2Proof.Machine.execMkptr d a b space s
  | .ptrx d a field => Sys2Proof.Machine.execPtrx d a field s
  | .kset d a w => Sys2Proof.Machine.execKset d a w s
  | .kcnt d a w => Sys2Proof.Machine.execKcnt d a w s
  | .kmin d a b => Sys2Proof.Machine.execKmin d a b s
  | .kget d a => Sys2Proof.Machine.execKget d a s
  | .ld sz d a off => Sys2Proof.Machine.execLd sz d a off s
  | .ldz sz d a off => Sys2Proof.Machine.execLdz sz d a off s
  | .st sz d a off => Sys2Proof.Machine.execSt sz d a off s
  | .ldaq sz scope d a => Sys2Proof.Machine.execLdaq sz scope d a s
  | .strl sz scope a b => Sys2Proof.Machine.execStrl sz scope a b s
  | .aadd scope ord d a b => Sys2Proof.Machine.execAadd scope ord d a b s
  | .aand scope ord d a b => Sys2Proof.Machine.execAand scope ord d a b s
  | .aor scope ord d a b => Sys2Proof.Machine.execAor scope ord d a b s
  | .axor scope ord d a b => Sys2Proof.Machine.execAxor scope ord d a b s
  | .amin scope ord d a b => Sys2Proof.Machine.execAmin scope ord d a b s
  | .amax scope ord d a b => Sys2Proof.Machine.execAmax scope ord d a b s
  | .aminn scope ord d a b => Sys2Proof.Machine.execAminn scope ord d a b s
  | .amaxn scope ord d a b => Sys2Proof.Machine.execAmaxn scope ord d a b s
  | .axchg scope ord d a b => Sys2Proof.Machine.execAxchg scope ord d a b s
  | .acas scope ord d a b => Sys2Proof.Machine.execAcas scope ord d a b s
  | .beq a b t => Sys2Proof.Machine.execBeq a b t s
  | .bne a b t => Sys2Proof.Machine.execBne a b t s
  | .blt a b t => Sys2Proof.Machine.execBlt a b t s
  | .bge a b t => Sys2Proof.Machine.execBge a b t s
  | .bltn a b t => Sys2Proof.Machine.execBltn a b t s
  | .bgen a b t => Sys2Proof.Machine.execBgen a b t s
  | .bz a t => Sys2Proof.Machine.execBz a t s
  | .bnz a t => Sys2Proof.Machine.execBnz a t s
  | .jl d t => Sys2Proof.Machine.execJl d t s
  | .jr d a => Sys2Proof.Machine.execJr d a s
  | .loop c t => Sys2Proof.Machine.execLoop c t s
  | .qbind d a p push unbind => Sys2Proof.Machine.execQbind d a p push unbind s
  | .qlen d p => Sys2Proof.Machine.execQlen d p s
  | .qpeek d p => Sys2Proof.Machine.execQpeek d p s
  | .qtry d a p => Sys2Proof.Machine.execQtry d a p s
  | .qpusht d a p => Sys2Proof.Machine.execQpusht d a p s
  | .qcreate d a => Sys2Proof.Machine.execQcreate d a s
  | .qdel d a => Sys2Proof.Machine.execQdel d a s
  | .gld g a => Sys2Proof.Machine.execGld g a s
  | .gst g a => Sys2Proof.Machine.execGst g a s
  | .gadv g a ax => Sys2Proof.Machine.execGadv g a ax s
  | .gset g a f => Sys2Proof.Machine.execGset g a f s
  | .binit d a b => Sys2Proof.Machine.execBinit d a b s
  | .barr d a => Sys2Proof.Machine.execBarr d a s
  | .bwait d a b => Sys2Proof.Machine.execBwait d a b s
  | .bsync d a => Sys2Proof.Machine.execBsync d a s
  | .btest d a b => Sys2Proof.Machine.execBtest d a b s
  | .spawn d a => Sys2Proof.Machine.execSpawn d a s
  | .park a => Sys2Proof.Machine.execPark a s
  | .cancel a => Sys2Proof.Machine.execCancel a s
  | .waitl d a b => Sys2Proof.Machine.execWaitl d a b s
  | .prog a => Sys2Proof.Machine.execProg a s
  | .meet => Sys2Proof.Machine.execMeet s
  | .pflush a b => Sys2Proof.Machine.execPflush a b s
  | .pinv a b => Sys2Proof.Machine.execPinv a b s
  | .nqpost d a b => Sys2Proof.Machine.execNqpost d a b s
  | .nqpop d a b => Sys2Proof.Machine.execNqpop d a b s
  | .nqwait d a b => Sys2Proof.Machine.execNqwait d a b s
  | .tlbi a b => Sys2Proof.Machine.execTlbi a b s
  | .pgmig d a b => Sys2Proof.Machine.execPgmig d a b s
  | .vadd o => Sys2Proof.Machine.execVadd o s
  | .vsub o => Sys2Proof.Machine.execVsub o s
  | .vmul o => Sys2Proof.Machine.execVmul o s
  | .vfma o => Sys2Proof.Machine.execVfma o s
  | .vfms o => Sys2Proof.Machine.execVfms o s
  | .vmax o => Sys2Proof.Machine.execVmax o s
  | .vmin o => Sys2Proof.Machine.execVmin o s
  | .vabs o => Sys2Proof.Machine.execVabs o s
  | .vneg o => Sys2Proof.Machine.execVneg o s
  | .vscl o => Sys2Proof.Machine.execVscl o s
  | .vand o => Sys2Proof.Machine.execVand o s
  | .vor o => Sys2Proof.Machine.execVor o s
  | .vxor o => Sys2Proof.Machine.execVxor o s
  | .vshl o => Sys2Proof.Machine.execVshl o s
  | .vshr o => Sys2Proof.Machine.execVshr o s
  | .vsar o => Sys2Proof.Machine.execVsar o s
  | .vcmpeq o => Sys2Proof.Machine.execVcmpeq o s
  | .vcmplt o => Sys2Proof.Machine.execVcmplt o s
  | .vcmple o => Sys2Proof.Machine.execVcmple o s
  | .vsel o => Sys2Proof.Machine.execVsel o s
  | .vcvt o => Sys2Proof.Machine.execVcvt o s
  | .vmov o => Sys2Proof.Machine.execVmov o s
  | .vsplat o => Sys2Proof.Machine.execVsplat o s
  | .viota o => Sys2Proof.Machine.execViota o s
  | .vexp2 o => Sys2Proof.Machine.execVexp2 o s
  | .vlog2 o => Sys2Proof.Machine.execVlog2 o s
  | .vrcp o => Sys2Proof.Machine.execVrcp o s
  | .vrsq o => Sys2Proof.Machine.execVrsq o s
  | .vsqrt o => Sys2Proof.Machine.execVsqrt o s
  | .vtanh o => Sys2Proof.Machine.execVtanh o s
  | .vsigm o => Sys2Proof.Machine.execVsigm o s
  | .vredsum o => Sys2Proof.Machine.execVredsum o s
  | .vredmax o => Sys2Proof.Machine.execVredmax o s
  | .vredmin o => Sys2Proof.Machine.execVredmin o s
  | .vscan o => Sys2Proof.Machine.execVscan o s
  | .vperm o => Sys2Proof.Machine.execVperm o s
  | .vbcast o => Sys2Proof.Machine.execVbcast o s
  | .vclamp o => Sys2Proof.Machine.execVclamp o s
  | .vld o => Sys2Proof.Machine.execVld o s
  | .vst o => Sys2Proof.Machine.execVst o s
  | .vlds o => Sys2Proof.Machine.execVlds o s
  | .vsts o => Sys2Proof.Machine.execVsts o s
  | .vgath o => Sys2Proof.Machine.execVgath o s
  | .vscat o => Sys2Proof.Machine.execVscat o s
  | .vpack o => Sys2Proof.Machine.execVpack o s
  | .vunpk o => Sys2Proof.Machine.execVunpk o s
  | .mma o => Sys2Proof.Machine.execMma o s
  | .mmas o => Sys2Proof.Machine.execMmas o s
  | .mmac o => Sys2Proof.Machine.execMmac o s
  | .bld o => Sys2Proof.Machine.execBld o s
  | .zacc o => Sys2Proof.Machine.execZacc o s
  | .acvt o => Sys2Proof.Machine.execAcvt o s
  | .tload o => Sys2Proof.Machine.execTload o s
  | .tmul o => Sys2Proof.Machine.execTmul o s
  | .tew o => Sys2Proof.Machine.execTew o s
  | .tred o => Sys2Proof.Machine.execTred o s
  | .tcvt o => Sys2Proof.Machine.execTcvt o s
  | .tview o => Sys2Proof.Machine.execTview o s
  | .tgath o => Sys2Proof.Machine.execTgath o s
  | .tsel o => Sys2Proof.Machine.execTsel o s
  | .force o => Sys2Proof.Machine.execForce o s
  | .tst o => Sys2Proof.Machine.execTst o s
  | .tdrop o => Sys2Proof.Machine.execTdrop o s
  | .tstat o => Sys2Proof.Machine.execTstat o s
  | .tpol o => Sys2Proof.Machine.execTpol o s
  | .cpy o => Sys2Proof.Machine.execCpy o s
  | .cpyt o => Sys2Proof.Machine.execCpyt o s
  | .cpym o => Sys2Proof.Machine.execCpym o s
  | .enq o => Sys2Proof.Machine.execEnq o s
  | .waitid o => Sys2Proof.Machine.execWaitid o s
  | .tidr o => Sys2Proof.Machine.execTidr o s
  | .publish o => Sys2Proof.Machine.execPublish o s
  | .lfload o => Sys2Proof.Machine.execLfload o s
  | .lbind o => Sys2Proof.Machine.execLbind o s
  | .lstart o => Sys2Proof.Machine.execLstart o s
  | .lbar o => Sys2Proof.Machine.execLbar o s
  | .lstat o => Sys2Proof.Machine.execLstat o s
  | .lstop o => Sys2Proof.Machine.execLstop o s
  | .cred o => Sys2Proof.Machine.execCred o s
  | .csend o => Sys2Proof.Machine.execCsend o s
  | .crecv o => Sys2Proof.Machine.execCrecv o s
  | .mcst o => Sys2Proof.Machine.execMcst o s
  | .fork x y => Sys2Proof.Machine.execFork x y s
  | .yield x y => Sys2Proof.Machine.execYield x y s
  | .launch d a => Sys2Proof.Machine.execLaunch d a s
  | .matrixResultStage core => Sys2Proof.Machine.execMatrixResultStage core s
  | .timedCommandDue core ch => Sys2Proof.Machine.execTimedCommandDue core ch s
  | .copyStart core ch => Sys2Proof.Machine.execCopyStart core ch s
  | .chunkRetire core ch => Sys2Proof.Machine.execChunkRetire core ch s
  | .copyRetire core ch => Sys2Proof.Machine.execCopyRetire core ch s
  | .copyDrainTimeout core ch => Sys2Proof.Machine.execCopyDrainTimeout core ch s
  | .burstStart lat slot port => Sys2Proof.Machine.execBurstStart lat slot port s
  | .burstEnd pc => Sys2Proof.Machine.execBurstEnd pc s
  | .rowCompute lat slot => Sys2Proof.Machine.execRowCompute lat slot s
  | .rowComplete lat slot => Sys2Proof.Machine.execRowComplete lat slot s
  | .streamResumeFromHold lat slot => Sys2Proof.Machine.execStreamResumeFromHold lat slot s
  | .streamPark lat slot => Sys2Proof.Machine.execStreamPark lat slot s
  | .streamUnpark lat slot => Sys2Proof.Machine.execStreamUnpark lat slot s
  | .streamRelease lat slot => Sys2Proof.Machine.execStreamRelease lat slot s
  | .saveSequenceEnd core slot => Sys2Proof.Machine.execSaveSequenceEnd core slot s
  | .restoreSequenceEnd core slot => Sys2Proof.Machine.execRestoreSequenceEnd core slot s
  | .groupStart core slot => Sys2Proof.Machine.execGroupStart core slot s
  | .groupRestore core slot => Sys2Proof.Machine.execGroupRestore core slot s
  | .groupKill core slot => Sys2Proof.Machine.execGroupKill core slot s
  | .checkpointTimeout core slot => Sys2Proof.Machine.execCheckpointTimeout core slot s
  | .graphLaunchNode ctx graph => Sys2Proof.Machine.execGraphLaunchNode ctx graph s
  | .graphConditionNode ctx graph => Sys2Proof.Machine.execGraphConditionNode ctx graph s
  | .graphLoopNode ctx graph => Sys2Proof.Machine.execGraphLoopNode ctx graph s
  | .graphSwitchNode ctx graph => Sys2Proof.Machine.execGraphSwitchNode ctx graph s
  | .graphEndNode ctx graph => Sys2Proof.Machine.execGraphEndNode ctx graph s
  | .hostLaunch ctx desc => Sys2Proof.Machine.execHostLaunch ctx desc s
  | .hostBar2Access ctx off len store => Sys2Proof.Machine.execHostBar2Access ctx off len store s
  | .suspendComplete ctx => Sys2Proof.Machine.execSuspendComplete ctx s
  | .drainComplete ctx => Sys2Proof.Machine.execDrainComplete ctx s
  | .scrubComplete ctx => Sys2Proof.Machine.execScrubComplete ctx s
  | .rotationBoundary pc => Sys2Proof.Machine.execRotationBoundary pc s
  | .calendarSlot pc slot => Sys2Proof.Machine.execCalendarSlot pc slot s
  | .atomLanding ix => Sys2Proof.Machine.execAtomLanding ix s
  | .writeAck ix => Sys2Proof.Machine.execWriteAck ix s
  | .pageWalk ix => Sys2Proof.Machine.execPageWalk ix s
  | .fpqPageZeroed ctx => Sys2Proof.Machine.execFpqPageZeroed ctx s
  | .latownChangeApply lat slot => Sys2Proof.Machine.execLatownChangeApply lat slot s
  | .faultQueueRetry ctx => Sys2Proof.Machine.execFaultQueueRetry ctx s
  | .queueStall q => Sys2Proof.Machine.execQueueStall q s
  | .dcZeroingComplete id => Sys2Proof.Machine.execDcZeroingComplete id s
  | .linkReplayRetrain link => Sys2Proof.Machine.execLinkReplayRetrain link s
  | .dispatchDecision => Sys2Proof.Machine.execDispatchDecision s
  | .create ag => Sys2Proof.Machine.execCreate ag s
  | .load ag => Sys2Proof.Machine.execLoad ag s
  | .run ag => Sys2Proof.Machine.execRun ag s
  | .suspend ag => Sys2Proof.Machine.execSuspend ag s
  | .resume ag => Sys2Proof.Machine.execResume ag s
  | .drain ag => Sys2Proof.Machine.execDrain ag s
  | .rekey ag => Sys2Proof.Machine.execRekey ag s
  | .calApply => Sys2Proof.Machine.execCalApply s
  | .calendarReset => Sys2Proof.Machine.execCalendarReset s
  | .fpqcmd ag v => Sys2Proof.Machine.execFpqcmd ag v s
  | .hbmsplitWrite v => Sys2Proof.Machine.execHbmsplitWrite v s
  | .encnumWrite v => Sys2Proof.Machine.execEncnumWrite v s
  | .latownWrite v => Sys2Proof.Machine.execLatownWrite v s
  | .lwinWrite ag v => Sys2Proof.Machine.execLwinWrite ag v s
  | .roleResume ag => Sys2Proof.Machine.execRoleResume ag s
  | .skip ag => Sys2Proof.Machine.execSkip ag s
  | .resumeat ag => Sys2Proof.Machine.execResumeat ag s
  | .abort ag => Sys2Proof.Machine.execAbort ag s
  | .registerWrite ag off v => Sys2Proof.Machine.execRegisterWrite ag off v s
  | .deviceLevelFault cls unit => Sys2Proof.Machine.execDeviceLevelFault cls unit s
  | .powerWindow reading => Sys2Proof.Machine.execPowerWindow reading s
  | .fullThrottleTimeout => Sys2Proof.Machine.execFullThrottleTimeout s
  | .tamper => Sys2Proof.Machine.execTamper s
  | .bringUp fail => Sys2Proof.Machine.execBringUp fail s
  | .diag => Sys2Proof.Machine.execDiag s
  | .reset => Sys2Proof.Machine.execReset s
  | .keyload => Sys2Proof.Machine.execKeyload s
  | .keyzero => Sys2Proof.Machine.execKeyzero s
  | .fwstage => Sys2Proof.Machine.execFwstage s
  | .fwapply => Sys2Proof.Machine.execFwapply s
  | .dbgunlock => Sys2Proof.Machine.execDbgunlock s
  | .dbglock => Sys2Proof.Machine.execDbglock s
  | .dbglog => Sys2Proof.Machine.execDbglog s
  | .coresvcOut => Sys2Proof.Machine.execCoresvcOut s
  | .coresvcIn => Sys2Proof.Machine.execCoresvcIn s
  | .pccal => Sys2Proof.Machine.execPccal s
  | .regdecl => Sys2Proof.Machine.execRegdecl s
  | .regdrop => Sys2Proof.Machine.execRegdrop s
  | .regstate => Sys2Proof.Machine.execRegstate s
  | .dcaccept => Sys2Proof.Machine.execDcaccept s
  | .dcrelease => Sys2Proof.Machine.execDcrelease s
  | .headdown => Sys2Proof.Machine.execHeaddown s
  | .headup => Sys2Proof.Machine.execHeadup s
  | .proxy => Sys2Proof.Machine.execProxy s
  | .linkrt => Sys2Proof.Machine.execLinkrt s
  | .mbCommandComplete => Sys2Proof.Machine.execMbCommandComplete s
  | .headRetrainFailure port => Sys2Proof.Machine.execHeadRetrainFailure port s
  | .poolResponse line data poisoned code => Sys2Proof.Machine.execPoolResponse line data poisoned code s
  | .backInvalidationSnoop line forWrite => Sys2Proof.Machine.execBackInvalidationSnoop line forWrite s
  | .dcOffer id base size => Sys2Proof.Machine.execDcOffer id base size s
  | .dcRevokeRequest id => Sys2Proof.Machine.execDcRevokeRequest id s
  | .flitMessageData link m => Sys2Proof.Machine.execFlitMessageData link m s
  | .flitCredit link vc n => Sys2Proof.Machine.execFlitCredit link vc n s
  | .flitProxyRequest link src line store => Sys2Proof.Machine.execFlitProxyRequest link src line store s
  | .flitProxyResponse link line data => Sys2Proof.Machine.execFlitProxyResponse link line data s
  | .flitSnoop link line forWrite => Sys2Proof.Machine.execFlitSnoop link line forWrite s
  | .flitTime link peerTime => Sys2Proof.Machine.execFlitTime link peerTime s
  | .timeFlitExchange => Sys2Proof.Machine.execTimeFlitExchange s
  | .illegalInstruction => Sys2Proof.Machine.execIllegalInstruction s
  | .illegalLine => Sys2Proof.Machine.execIllegalLine s
  | .illegalFlow => Sys2Proof.Machine.execIllegalFlow s
  | .powerDown => Sys2Proof.Machine.execPowerDown s
  | .flitCrcFailure link => Sys2Proof.Machine.execFlitCrcFailure link s
  | .flitReservedType link ty => Sys2Proof.Machine.execFlitReservedType link ty s

end Sys2Proof.Machine
end

