-- ==== Sys2Proof/Machine/Turn.lean ====
section
/-! DEFINITION. Whose turn it is (log 1): the roles that may issue, what a role's turn fetches, the steps of the part that are
due when no order is given, and the placing of one instruction under a role. -/

namespace Sys2Proof.Machine

open Sys2Proof

/-! ### Roles -/

/-- May the roles of a group issue (R283 to R288)? -/
def Group.issues (g : Group) : Bool :=
  match g.state with
  | .running | .draining | .marked _ | .saving _ _ | .restoring _ _ => true
  | .starting | .replaying _ _ _ | .dying _ _ _ => false

/-- May a role issue: its group may, it runs, it is not stalled at a fault, and the part is not in the safe state (R272,
R423, R439)? -/
def State.mayIssue (s : State) (r : RoleId) : Bool :=
  !s.safe && (match s.group r.core r.slot with
    | none => false
    | some g => g.issues && (g.role r.role).status == .running && !(g.role r.role).stalled)

/-- What a role's turn comes to: an instruction, with the state after its fetch, or a turn that is over without one. -/
inductive Fetched where
  | instr (i : Instr) (s : State)
  | over_ (o : Host.Outcome State Fault Refusal)

/-- The end of a role's flow: the end of its group's save or restore sequence, or illegal flow at the marker (R56, R286,
R287). -/
def flowEnd (g : Group) (pc : Word) (s : State) : Host.Outcome State Fault Refusal :=
  match g.state, s.cur.role with
  | .saving _ _, .compute => execSaveSequenceEnd s.cur.core s.cur.slot s
  | .restoring _ _, .compute => execRestoreSequenceEnd s.cur.core s.cur.slot s
  | _, _ => .next (s.endOfChain pc)

/-- Fetch and decode for the role whose turn it is (R80 steps 1 to 4). -/
def fetchTurn (s : State) : Fetched :=
  match s.group s.cur.core s.cur.slot with
  | none => .over_ (.next s)
  | some g =>
    let k := g.role s.cur.role
    if !s.mayIssue s.cur then .over_ (.next s)
    else if k.ended then .over_ (flowEnd g k.pc s)
    else
      match arrive s with
      | .error e => .over_ (finish s s 1 [] [] (.error e))
      | .ok (ws, t) =>
        match decodeAt ws k.pc.toNat with
        | .ok i => .instr i t
        | .error _ => .over_ (.next (t.takeFault s.cur { code := 0x01, va := 0 } k.pc false))

/-- Every role that may issue. -/
def State.issuing (s : State) : List RoleId := (s.allRoles.map fun r => r.1).filter s.mayIssue

/-- A role as a number, for the order of turns. -/
def roleNo (r : RoleId) : Nat := (r.core.val * 4 + r.slot.val) * 3 + (roleIx r.role).val

/-- The role that issues next when no order is given: the first after the one that issued last. -/
def State.nextRole (s : State) : Option RoleId :=
  let rs := s.issuing
  match rs.find? fun r => decide (roleNo s.cur < roleNo r) with
  | some r => some r
  | none => rs.head?

/-! ### Steps of the part that are due -/

/-- Steps of groups in their slots. -/
def State.dueGroups (s : State) : List Instr :=
  allSlots.flatMap fun p =>
    match s.group p.1 p.2 with
    | none => []
    | some g =>
      let k := g.role .compute
      match g.state with
      | .starting => if g.record.ckpt then (if k.stalled then [] else [.groupRestore p.1 p.2]) else [.groupStart p.1 p.2]
      | .replaying _ _ _ => if k.stalled then [] else [.groupRestore p.1 p.2]
      | .saving _ _ => if k.ended && !k.stalled then [.saveSequenceEnd p.1 p.2] else []
      | .restoring _ mark =>
        (if k.ended && !k.stalled then [.restoreSequenceEnd p.1 p.2] else [])
          ++ (match mark with
            | .checkpoint _ => [.checkpointTimeout p.1 p.2]
            | .none => []
            | .drain => [])
      | .dying _ _ _ => [.groupKill p.1 p.2]
      | .marked _ => [.checkpointTimeout p.1 p.2]
      | .running | .draining => []

/-- The step that a graph's next node calls for; one that cannot be read fails in any of them. -/
def State.graphEvent (s : State) (x : CtxId) (g : Fin 4096) (node : Word) : Instr :=
  match readNode ⟨x, none, none⟩ node.toNat s with
  | .error _ => .graphEndNode x g
  | .ok (n, _) =>
    if n.type = 1 then .graphLaunchNode x g
    else if n.type = 2 then .graphConditionNode x g
    else if n.type = 3 then .graphLoopNode x g
    else if n.type = 4 then .graphSwitchNode x g
    else .graphEndNode x g

/-- Steps of contexts: ends of commands, host launches, graphs, pages being zeroed, held records. -/
def State.dueContexts (s : State) : List Instr :=
  (List.finRange 16).flatMap fun x =>
    let c := s.ctx x
    (if c.state == .suspended && c.busy then [Instr.suspendComplete x] else [])
      ++ (if c.state == .draining then [Instr.drainComplete x] else [])
      ++ (if c.state == .scrubbing then [Instr.scrubComplete x] else [])
      ++ (if c.hostPending.isEmpty then [] else [Instr.hostLaunch x none])
      ++ (if c.zeroing.isSome then [Instr.fpqPageZeroed x] else [])
      ++ (if c.faultHeld.isEmpty then [] else [Instr.faultQueueRetry x])
      ++ (if c.evaluates then c.levels.flatMap fun p => match p.2.node with
          | none => []
          | some n => [s.graphEvent x (Fin.ofNat 4096 p.1) n]
        else [])
      ++ (if c.state == .running && (c.ready.toList.any fun q => !q.items.isEmpty) then [Instr.dispatchDecision] else [])

/-- Steps of the copy engines and of the arrays. -/
def State.dueEngines (s : State) : List Instr :=
  (List.finRange 128).flatMap fun c =>
    let k := s.core c
    (if k.array.isEmpty then [] else [Instr.matrixResultStage c])
      ++ (if k.cmds.isEmpty then [] else (List.finRange 4).flatMap fun ch =>
        (match s.started c ch with
          | none => (match s.candidate c ch with
            | none => []
            | some j => if s.mayStart c j then [Instr.copyStart c ch] else [])
          | some j => if j.st == .done then [Instr.copyRetire c ch] else [Instr.chunkRetire c ch, .copyDrainTimeout c ch])
        ++ (if k.cmds.any fun j => j.ch == ch && j.timed && j.st == .queued && !j.due && decide (j.time ≤ s.cycle.toNat)
          then [Instr.timedCommandDue c ch] else []))

/-- Atoms under way. -/
def State.dueAtoms (s : State) : List Instr :=
  s.inflight.zipIdx.map fun p => if p.1.write then .writeAck p.2 else .atomLanding p.2

/-- Steps of the Lattices. -/
def State.dueLattices (s : State) : List Instr :=
  s.lats.flatMap fun p =>
    let lat : LatId := Fin.ofNat 40 (p.1 / 4)
    let slot : Fin 4 := Fin.ofNat 4 p.1
    (if p.2.pend.isSome then [Instr.latownChangeApply lat slot] else [])
      ++ (match p.2.stream with
        | none => []
        | some t =>
          (if t.rowReady then [Instr.rowCompute lat slot] else [])
            ++ (if t.made.isEmpty then [] else [Instr.rowComplete lat slot])
            ++ ((List.finRange 8).flatMap fun port =>
              if (s.unitsDue lat.val slot.val t port.val).isEmpty then [] else [Instr.burstStart lat slot port])
            ++ (if t.state == .held && t.boundary then [Instr.streamResumeFromHold lat slot] else [])
            ++ (if (t.parkReq || t.rebindReq) && t.state != .parked then [Instr.streamPark lat slot] else [])
            ++ (if t.state == .parked && !t.parkReq && t.taken.isNone then [Instr.streamUnpark lat slot] else [])
            ++ (if t.relReq then [Instr.streamRelease lat slot] else []))

/-- Pseudo-channels whose calendar matters now: a request waits, a burst is under way, a change of ownership or a running
stream is there. -/
def State.livePcs (s : State) : List PcId :=
  (List.finRange 512).filter fun pc =>
    (s.reqs.any fun r => r.pc == pc.val) || (s.pcStat pc.val).burst.isSome || s.calApply.getLsbD pc.val
      || s.lats.any fun p => p.1 / 4 == pc.val / 16 && (match p.2.stream with
        | none => false
        | some t => t.state == .running || t.state == .held)

/-- Steps of the calendars. -/
def State.dueCalendars (s : State) : List Instr :=
  s.livePcs.flatMap fun pc =>
    let p := s.pcStat pc.val
    (match p.burst with
      | none => []
      | some _ => if p.burstTo ≤ p.slot then [Instr.burstEnd pc] else [])
      ++ [if p.slot = 129 then .rotationBoundary pc else .calendarSlot pc (Fin.ofNat 129 p.slot)]

/-- The step of the mailbox command in progress (R440, R441). -/
def State.mbEvent (s : State) : List Instr :=
  if !s.mb.busy then []
  else if s.mb.finished.isSome then [.mbCommandComplete]
  else
    match s.mb.op.toNat with
    | 0x01 => [.diag]
    | 0x02 => [.reset]
    | 0x10 => [.keyload]
    | 0x11 => [.keyzero]
    | 0x20 => [.fwstage]
    | 0x21 => [.fwapply]
    | 0x30 => [.dbgunlock]
    | 0x31 => [.dbglock]
    | 0x32 => [.dbglog]
    | 0x40 => [if s.svcWay true then .coresvcOut else .coresvcIn]
    | 0x41 => [.pccal]
    | 0x50 => [.regdecl]
    | 0x51 => [.regdrop]
    | 0x52 => [.regstate]
    | 0x53 => [.dcaccept]
    | 0x54 => [.dcrelease]
    | 0x55 => [.headdown]
    | 0x56 => [.headup]
    | 0x57 => [.proxy]
    | 0x58 => [.linkrt]
    | _ => []

/-- Other steps: walks, extents being zeroed, stalled queues, links that train or have many replays, time flits, accesses of the host
that wait, full throttle. -/
def State.dueOthers (s : State) : List Instr :=
  (if s.walks.isEmpty then [] else [Instr.pageWalk 0])
    ++ (s.extents.filterMap fun e => if e.state == .zeroing then some (Instr.dcZeroingComplete e.id) else none)
    ++ (s.allRoles.flatMap fun r => r.2.2.blocked.map fun b => Instr.queueStall b.queue)
    ++ ((List.finRange 8).filterMap fun i =>
        let l := vget s.links i
        if l.training || 1024 < l.replays then some (Instr.linkReplayRetrain i) else none)
    ++ (if s.timeDue then [Instr.timeFlitExchange] else [])
    ++ (s.bar2Wait.map fun a => Instr.hostBar2Access a.ctx a.off a.len a.store)
    ++ (if s.ctl.fullSince.isSome then [Instr.fullThrottleTimeout] else [])

/-- Every step of the part that may be due. In bring-up and in the safe state only the controller works (R438, R439). -/
def State.due (s : State) : List Instr :=
  if s.safe then (if s.bringingUp then [Instr.bringUp (Config.retest s.tick)] else []) ++ s.mbEvent
  else s.mbEvent ++ s.dueContexts ++ s.dueGroups ++ s.dueEngines ++ s.dueAtoms ++ s.dueLattices ++ s.dueOthers ++ s.dueCalendars

/-- The turn of the part when no order is given: one of the steps that are due, in rotation. -/
def State.partTurn (s : State) : Option Instr := let d := s.due; d[s.tick / 2 % d.length]?

/-- The turn when no order is given: roles and the part take turns; each goes where the other has nothing to do. -/
def State.defaultTurn (s : State) : Option Turn :=
  if s.engineTurn then
    match s.partTurn with
    | some i => some (.event i)
    | none => s.nextRole.map .role
  else
    match s.nextRole with
    | some r => some (.role r)
    | none => s.partTurn.map .event

/-- Is an operation one of the part or of a party outside it: one without an encoding? -/
def Instr.isEvent (i : Instr) : Bool := (encode i).isEmpty

/-- After a step: CYCLE counts, once it does (R438), by one and by what the step's own timing adds (R97, log 2). -/
def State.advance (s : State) : State :=
  { s with cycle := if s.ctl.counting then s.cycle + 1 + BitVec.ofNat 64 (Config.stall s.tick) else s.cycle, tick := s.tick + 1 }

/-- An outcome with its next state changed. -/
def Outcome.after (f : State → State) (o : Host.Outcome State Fault Refusal) : Host.Outcome State Fault Refusal :=
  match o with
  | .next s => .next (f s)
  | .fault e => .fault e
  | .refused e => .refused e

/-! ### Placing one instruction -/

/-- A line of words: a link word of a compute line that holds them, and the words (R51). -/
def oneLine (ws : List Nat) : List Byte := (((2 ^ 29 + ws.length * 2 ^ 25) :: ws).flatMap (leBytes 4))

/-- The words of an instruction whose first `nbits` bits are w: as many as its size asks for. -/
def tableWords (w : Nat) : List Nat :=
  let w0 := w % 2 ^ 32
  if wordsOf w0 = 2 then [w0, w / 2 ^ 32 % 2 ^ 32] else [w0]

/-- A group whose compute role stands at word 1 of the line at address 0, with every resource of its slot. -/
def placedGroup : Group :=
  let g := Group.fresh 0 ⟨0, 0, 0, 0, 0, 0⟩ ⟨false, false, false, 0, 32, 48, 16, 16, 0, 0⟩
    ⟨0, 0, 0, 0, List.range 16, List.range 16⟩ false 0 0 0
  { g.onRole .compute fun k => { k with status := .running, pc := 4 } with state := .running }

/-- The descriptor of the context that the group belongs to. -/
def placedDesc : Desc :=
  { Desc.fresh with cores := 1, units := BitVec.allOnes 48, sys := true, keys := 1, tokens := 1, logsize := 1 }

/-- Put an instruction where the next step fetches: a line at virtual and physical address 0, the translation of its page, and
a group of context 0 on core 0 whose compute role is next (log 6). -/
def State.placeWords (s : State) (ws : List Nat) : State :=
  let leaf := 1 + 2 ^ 3
  let s1 := (s.onCtx 0 fun c => { c with state := .running, desc := placedDesc, bufs := [] }).onCore 0 fun k =>
    { k with slots := vset k.slots 0 (some placedGroup)
             tlb := ⟨0, 0, false, leaf⟩ :: k.tlb
             lines := k.lines.filter fun e => e.va != 0 }
  { s1 with power := true, agenda := [.role ⟨0, 0, .compute⟩], ctl := { s1.ctl with stage := 7 }
            mem := memWrite s1.opened s1.mem 0 ((oneLine ws).take 64), keyTag := SMap.del s1.keyTag 0
            poison := s1.poison.filter (· != 0), decayed := s1.decayed.filter (· != 0), retiredRows := [], lostStacks := 0, srows := 0 }

end Sys2Proof.Machine
end

