-- ==== Sys2Proof/Machine/Step.lean ====
section
/-! DEFINITION. One step of the machine (log 1, log 2): the turn that the agenda or the default order names, and the clock. -/

namespace Sys2Proof.Machine

open Sys2Proof

/-- Perform a turn: a role fetches, decodes and executes; the part or a party outside it acts. -/
def perform (t : Turn) (s : State) : Host.Outcome State Fault Refusal :=
  match t with
  | .role r =>
    match fetchTurn { s with cur := r } with
    | .instr i u => exec i u
    | .over_ o => o
  | .event i => if Instr.isEvent i then exec i s else .next s

/-- A turn without power: only bring-up does anything (R438). -/
def coldTurn (t : Turn) (s : State) : Host.Outcome State Fault Refusal :=
  match t with
  | .event (.bringUp f) => exec (.bringUp f) s
  | _ => .fault .poweredOff

/-- One step. -/
def step (s : State) : Host.Outcome State Fault Refusal :=
  match s.agenda with
  | t :: rest =>
    Outcome.after State.advance (if s.power then perform t { s with agenda := rest } else coldTurn t { s with agenda := rest })
  | [] =>
    if !s.power then .fault .poweredOff
    else
      match s.defaultTurn with
      | none => .next s.advance
      | some t => Outcome.after State.advance (perform t { s with engineTurn := !s.engineTurn })

/-- The state with one instruction where the next step fetches (log 6). -/
def State.withFetchWord (s : State) (nbits w : Nat) : State := s.placeWords (tableWords (w % 2 ^ nbits))

end Sys2Proof.Machine
end

