-- ==== Sys2Proof/Safety.lean ====
section
/-! DEFINITION. What counts as a safe run, and the vocabulary that the statements use: operands taken, results given, where a
step completes and where it traps, and what it leaves unchanged. -/

namespace Sys2Proof.Machine

open Sys2Proof

/-- The memory has its canonical form. -/
def State.MemOk (s : State) : Prop := Memory.wf s.opened s.mem = true

/-- n steps from a state, none of which stops the machine. -/
def Safe : Nat → State → Prop
  | 0, _ => True
  | n + 1, s => ∃ t, step s = .next t ∧ Safe n t

/-- The role whose turn it is stands in a slot that holds group g, and k is its role context. -/
def Acts (s : State) (g : Group) (k : Role) : Prop :=
  s.group s.cur.core s.cur.slot = some g ∧ g.role s.cur.role = k

/-- The identity of the accesses of the role whose turn it is. -/
def State.self (s : State) (g : Group) : Who := ⟨g.ctx, some s.cur.core, some s.cur.slot⟩

/-- A body of a step runs to its end. -/
def Runs {α : Type} (x : X α) (s : State) (a : α) (t : State) : Prop := x s = .ok (a, t)

/-- A body of a step raises a fault. -/
def Raises {α : Type} (x : X α) (s : State) (t : Trap) (keep : Option State) : Prop := x s = .error (.trap t keep)

/-- A body of a step waits. -/
def Waits {α : Type} (x : X α) (s : State) : Prop := x s = .error .wait

/-- An instruction with these register operands can issue: no queue misuse, room at every pushed port, an entry at every
popped one. Its sources have the values vs, and s1 is the state with the entries popped (R62). -/
def Taken (srcs dsts : List SReg) (s : State) (vs : List Word) (s1 : State) : Prop :=
  Runs (do checkMisuse srcs dsts; checkRoom dsts; readSrcs srcs) s vs s1

/-- A destination takes a value: a register holds it, s0 drops it, a port pushes it (R61, R62). -/
def Gives (d : SReg) (v : Word) (s1 s2 : State) : Prop := Runs (writeDst d v) s1 () s2

/-- An instruction of one word answers the state s2 with the role behind it. -/
def Retires (i : Instr) (s s2 : State) : Prop := exec i s = .next (s2.continue_ 1 .seq)

/-- An instruction of two words answers the state s2 with the role behind it. -/
def Retires2 (i : Instr) (s s2 : State) : Prop := exec i s = .next (s2.continue_ 2 .seq)

/-- An instruction takes a fault in the role, with the effects of s1 kept, and does not retire (R423). -/
def Traps (i : Instr) (s s1 : State) (code va : Nat) : Prop :=
  exec i s = .next (s1.takeFault s.cur { code := code, va := BitVec.ofNat 64 va } s.curPc false)

/-- One scalar source, one result. -/
def Results1 (i : Instr) (d a : SReg) (f : Word → Word) : Prop :=
  ∀ s x s1 s2, Taken [a] [d] s [x] s1 → Gives d (f x) s1 s2 → Retires i s s2

/-- Two scalar sources, one result. -/
def Results2 (i : Instr) (d a b : SReg) (f : Word → Word → Word) : Prop :=
  ∀ s x y s1 s2, Taken [a, b] [d] s [x, y] s1 → Gives d (f x y) s1 s2 → Retires i s s2

/-- An instruction checks its register groups before it issues (R64, R81): the lowest register at or beyond the allocation is raised. -/
def BoundsChecked (i : Instr) (fields : List (Nat × Nat)) : Prop :=
  ∀ (s : State) (g : Group) (k : Role) (v : Nat), Acts s g k → g.rows ≤ v → (∃ f ∈ fields, f.1 ≤ v ∧ v < f.1 + f.2) →
    (∀ u, g.rows ≤ u → (∃ f ∈ fields, f.1 ≤ u ∧ u < f.1 + f.2) → v ≤ u) → Traps i s s 0x16 v

/-- The registers of these fields lie in the group's allocation (R64); a field is a first register and a number of registers. -/
def RowsFit (g : Group) (fields : List (Nat × Nat)) : Prop := ∀ f ∈ fields, f.2 = 0 ∨ f.1 + f.2 ≤ g.rows

/-- No matrix result of the role is still to be written, and no copy of the group is in flight over these registers (R145, R214). -/
def RowsQuiet (s : State) (g : Group) (fields : List (Nat × Nat)) : Prop :=
  s.resultsPending s.cur = false ∧ ∀ f ∈ fields, s.boardHits (s.self g) (rowPtr s.cur.core f.1) (f.2 * 256) = false

/-- The first n elements of a type in the registers of a group from register v on (R126). -/
def State.lanes (s : State) (g : Group) (v n : Nat) (t : ElemTy) : List Nat :=
  lanesOf t.laneBytes n (s.bytesAt (rowKeyOf s.cur.core g v) (n * t.laneBytes))

/-- What a vector instruction leaves: the results of the active elements in its destination group, zero or the old elements beyond
them, and then the flags and the first NaN reported with the source format (R131, R46, R48). -/
def VecEnds (o : VOp) (extra : Flags) (rs : List (Nat × Flags)) (s1 s2 : State) : Prop :=
  Runs (do vecWriteBack o rs; reportVector o.d.val o.ty o.ty.code o.ty.code extra rs) s1 () s2

/-- An instruction with an effect on each element (R131): the registers fit and are quiet, and every active element i has the result of
the effect on element i of a, of b and of the old destination. -/
def Elementwise (i : Instr) (o : VOp) (f : VFn) (signed immFlags : Bool) : Prop :=
  ∀ (s s1 s2 : State) (g g1 : Group) (k k1 : Role) (vs : List Word) (ys : List Nat) (fl : Flags) (ks : List Int) (rs : List (Nat × Flags))
    (fields : List (Nat × Nat)),
    fields = (o.d.val, o.len.val) :: (o.a.val, o.len.val) :: vecBRows o → Acts s g k → RowsFit g fields →
    Taken (vecScalars o) [] s vs s1 → Acts s1 g1 k1 → RowsQuiet s1 g1 fields →
    Runs (vecBVals o vs signed) s1 (ys, fl, ks) s1 → rs.length = activeCount g1 o.k o.ty.laneBits (vecLen o) →
    (∀ j < rs.length, rs[j]? = some (elemOp f o.ty o.rm ((s1.lanes g1 o.a.val (vecLen o) o.ty).getD j 0) (ys.getD j 0)
      ((s1.lanes g1 o.d.val (vecLen o) o.ty).getD j 0) (ks.getD j 0))) →
    VecEnds o (if immFlags = true ∧ rs.length ≠ 0 then fl else 0) rs s1 s2 → Retires2 i s s2

/-- An instruction with an effect on each element of a alone (R132). -/
def UnaryElementwise (i : Instr) (o : VOp) (f : Nat → Nat × Flags) : Prop :=
  ∀ (s s2 : State) (g : Group) (k : Role) (a : Nat), Acts s g k →
    RowsFit g [(o.d.val, o.len.val), (o.a.val, o.len.val)] → RowsQuiet s g [(o.d.val, o.len.val), (o.a.val, o.len.val)] →
    a = activeCount g o.k o.ty.laneBits (vecLen o) →
    VecEnds o 0 (((s.lanes g o.a.val (vecLen o) o.ty).take a).map f) s s2 → Retires2 i s s2

/-- No unmaterialized source of a node of the group overlaps the bytes written (R191). -/
def NoAlias (s : State) (g : Group) (ws : List (Nat × Nat)) : Prop := g.tile.aliased s.cur.core ws = []

/-- A tile operand as a source: the node that a valid handle names, or a copy of a generator (R199). -/
def Group.source (g : Group) : TSrc → Option NodeSrc
  | .gen r => some (.gen (g.gens.get r))
  | .handle h => (g.tile.handles.get h).map NodeSrc.node

/-- The node that a handle operand names, with its record. -/
def Group.named (g : Group) (h : HReg) : Option (Nat × Node) :=
  (g.tile.handles.get h).bind fun n => (SMap.get g.tile.nodes n).map fun d => (n, d)

/-- The operands that MKPTR makes a pointer of (R104): the offset within the space, and the core id of an on-chip space at most 127. -/
def MkptrFits (sp : Space) (x y : Nat) : Prop :=
  (sp = .virt → x < 2 ^ 55) ∧ (sp = .queue → x < 2 ^ 60) ∧ (sp = .scratch → x < 3 * 2 ^ 20) ∧ (sp = .acc → x < 2 ^ 19)
  ∧ (sp = .weight → x < 6 * 2 ^ 20) ∧ (sp ≠ .virt → sp ≠ .queue → y ≤ 127)

/-- Every piece of the state outside the roles of one group slot, and all of that group but one role, is as before. -/
def OnlyRole (s t : State) (r : RoleId) : Prop := ∃ k, t = s.onRole r fun _ => k

/-- What an instruction that writes one plain register leaves of its role: every register but the destination and the count
register of the innermost loop, the ports, the status and the fault registers (R114, R61). -/
def RoleFrame (d : SReg) (k k' : Role) : Prop :=
  (∀ r : SReg, r ≠ d → (∀ e ∈ k.loops.head?, r ≠ e.count) → k'.reg r = k.reg r) ∧ k'.ports = k.ports
    ∧ k'.status = k.status ∧ k'.stalled = k.stalled ∧ k'.cause = k.cause ∧ k'.faultPc = k.faultPc
    ∧ k'.faultVa = k.faultVa ∧ k'.appendPc = k.appendPc ∧ k'.nodeId = k.nodeId ∧ k'.retired = k.retired
    ∧ k'.heldRec = k.heldRec ∧ k'.pendingBar = k.pendingBar ∧ k'.drainAt = k.drainAt

end Sys2Proof.Machine
end

