-- ==== Sys2Proof/Certificates/Slice0/Obligations.lean ====
section
/-! DEFINITION. The statements for the provers. Each names the rule of spec/ that it formalises; where a clause rests on a choice of the model
its docstring names the log entry. -/

open Sys2Proof Sys2Proof.Machine

/-! ### Scalar instructions -/

/-- R98, R99: the result of every instruction of major 0x01 with two sources, and of SEL, which reads its destination last. DIV
truncates and gives all ones for a zero divisor; REM then gives a; shift amounts are the low six bits.

R98: CLZ, CTZ and POPC count leading zero bits, trailing zero bits and one bits; 64 for a zero source of the first two. -/
def Obligations.ScalarResults : Prop :=
  (∀ d a b : SReg,
    Results2 (.add d a b) d a b (fun x y => x + y) ∧ Results2 (.sub d a b) d a b (fun x y => x - y)
    ∧ Results2 (.mul d a b) d a b (fun x y => x * y)
    ∧ Results2 (.mulh d a b) d a b (fun x y => BitVec.ofInt 64 (x.toInt * y.toInt / 2 ^ 64))
    ∧ Results2 (.mulhn d a b) d a b (fun x y => ((x.zeroExtend 128 * y.zeroExtend 128) >>> 64).truncate 64)
    ∧ Results2 (.div d a b) d a b (fun x y => if y = 0 then BitVec.allOnes 64 else x.sdiv y)
    ∧ Results2 (.divn d a b) d a b (fun x y => if y = 0 then BitVec.allOnes 64 else x / y)
    ∧ Results2 (.rem d a b) d a b (fun x y => x.srem y) ∧ Results2 (.remn d a b) d a b (fun x y => x % y)
    ∧ Results2 (.and d a b) d a b (fun x y => x &&& y) ∧ Results2 (.or d a b) d a b (fun x y => x ||| y)
    ∧ Results2 (.xor d a b) d a b (fun x y => x ^^^ y) ∧ Results2 (.andn d a b) d a b (fun x y => x &&& ~~~y)
    ∧ Results2 (.shl d a b) d a b (fun x y => x <<< (y &&& 63)) ∧ Results2 (.shr d a b) d a b (fun x y => x >>> (y &&& 63))
    ∧ Results2 (.sar d a b) d a b (fun x y => x.sshiftRight (y &&& 63).toNat)
    ∧ Results2 (.rol d a b) d a b (fun x y => x.rotateLeft (y &&& 63).toNat)
    ∧ Results2 (.min d a b) d a b (fun x y => if x.toInt ≤ y.toInt then x else y)
    ∧ Results2 (.max d a b) d a b (fun x y => if x.toInt ≤ y.toInt then y else x)
    ∧ Results2 (.minn d a b) d a b (fun x y => if x.toNat ≤ y.toNat then x else y)
    ∧ Results2 (.maxn d a b) d a b (fun x y => if x.toNat ≤ y.toNat then y else x)
    ∧ Results2 (.seq d a b) d a b (fun x y => if x = y then 1 else 0)
    ∧ Results2 (.sne d a b) d a b (fun x y => if x = y then 0 else 1)
    ∧ Results2 (.slt d a b) d a b (fun x y => if x.toInt < y.toInt then 1 else 0)
    ∧ Results2 (.sltn d a b) d a b (fun x y => if x.toNat < y.toNat then 1 else 0)
    ∧ Results2 (.sle d a b) d a b (fun x y => if x.toInt ≤ y.toInt then 1 else 0)
    ∧ Results2 (.slen d a b) d a b (fun x y => if x.toNat ≤ y.toNat then 1 else 0)
    ∧ Results2 (.addsh1 d a b) d a b (fun x y => x + 2 * y) ∧ Results2 (.addsh2 d a b) d a b (fun x y => x + 4 * y)
    ∧ Results2 (.addsh3 d a b) d a b (fun x y => x + 8 * y)
    ∧ ∀ s x y old s1 s2, Taken [a, b, d] [d] s [x, y, old] s1 → Gives d (if old = 0 then y else x) s1 s2
        → Retires (.sel d a b) s s2)
  ∧ (∀ d a : SReg,
    Results1 (.clz d a) d a
      (fun x => BitVec.ofNat 64 (((List.range 64).find? fun i => x.getLsbD (63 - i)).getD 64))
    ∧ Results1 (.ctz d a) d a (fun x => BitVec.ofNat 64 (((List.range 64).find? fun i => x.getLsbD i).getD 64))
    ∧ Results1 (.popc d a) d a (fun x => BitVec.ofNat 64 ((List.range 64).countP fun i => x.getLsbD i)))

/-- R100 to R103, R105: immediates are sign-extended from 14 bits; LDI from 20; LDIH shifts its destination by 20 and sets the
immediate below; BFX takes wm1 + 1 bits from pos, BFI puts them there; PTRX gives the fields of a tagged pointer (R208).

R104, R68: MKPTR makes a tagged pointer of a space, a core id and an offset; an offset beyond the space's limit or a core id
beyond 127 raises the space fault with the offset in FAULTVA. The core id is read for the on-chip spaces only. -/
def Obligations.ImmediateResults : Prop :=
  (∀ (d a : SReg) (i : BitVec 14) (n : BitVec 6) (v : BitVec 20) (p w : BitVec 6),
    Results1 (.addi d a i) d a (fun x => x + i.signExtend 64) ∧ Results1 (.andi d a i) d a (fun x => x &&& i.signExtend 64)
    ∧ Results1 (.ori d a i) d a (fun x => x ||| i.signExtend 64) ∧ Results1 (.xori d a i) d a (fun x => x ^^^ i.signExtend 64)
    ∧ Results1 (.slti d a i) d a (fun x => if x.toInt < i.toInt then 1 else 0)
    ∧ Results1 (.shli d a n) d a (fun x => x <<< n) ∧ Results1 (.shri d a n) d a (fun x => x >>> n)
    ∧ Results1 (.sari d a n) d a (fun x => x.sshiftRight n.toNat)
    ∧ (∀ s s1 s2, Taken [] [d] s [] s1 → Gives d (v.signExtend 64) s1 s2 → Retires (.ldi d v) s s2)
    ∧ Results1 (.ldih d v) d d (fun x => x <<< 20 ||| v.zeroExtend 64)
    ∧ (p.toNat + w.toNat < 64 →
        Results1 (.bfx d a p w) d a (fun x => (x >>> p.toNat) &&& ((1 <<< (w.toNat + 1)) - 1))
        ∧ ∀ (s : State) (x old r : Word) (s1 s2 : State), Taken [a, d] [d] s [x, old] s1 →
            (∀ j < 64, r.getLsbD j =
              if p.toNat ≤ j ∧ j ≤ p.toNat + w.toNat then x.getLsbD (j - p.toNat) else old.getLsbD j) →
            Gives d r s1 s2 → Retires (.bfi d a p w) s s2)
    ∧ Results1 (.ptrx d a 0) d a (fun x => x >>> 60)
    ∧ Results1 (.ptrx d a 1) d a (fun x => if 1 ≤ (x >>> 60).toNat ∧ (x >>> 60).toNat ≤ 3 then (x >>> 53) &&& 127 else 0)
    ∧ Results1 (.ptrx d a 2) d a (fun x =>
        if x >>> 60 = 0 then x &&& (2 ^ 55 - 1) else if x >>> 60 = 4 then x &&& (2 ^ 60 - 1)
        else if (x >>> 60).toNat ≤ 3 then x &&& (2 ^ 23 - 1) else 0)
    ∧ Results1 (.ptrx d a 3) d a (fun x => if ptrWellFormed x.toNat then 1 else 0))
  ∧ (∀ (d a b : SReg) (s s1 s2 : State) (x y : Word) (sp : Space),
    (sp = .virt ∨ sp = .queue → Taken [a] [d] s [x] s1 →
      ((sp = .virt → x.toNat < 2 ^ 55) → (sp = .queue → x.toNat < 2 ^ 60) →
        Gives d (x ||| BitVec.ofNat 64 (sp.code * 2 ^ 60)) s1 s2 → Retires (.mkptr d a b sp) s s2)
      ∧ (sp = .virt ∧ 2 ^ 55 ≤ x.toNat ∨ sp = .queue ∧ 2 ^ 60 ≤ x.toNat → Traps (.mkptr d a b sp) s s1 0x05 x.toNat))
    ∧ (sp = .scratch ∧ x.toNat < 3 * 2 ^ 20 ∨ sp = .acc ∧ x.toNat < 2 ^ 19 ∨ sp = .weight ∧ x.toNat < 6 * 2 ^ 20 →
        y.toNat ≤ 127 → Taken [a, b] [d] s [x, y] s1 →
        Gives d (BitVec.ofNat 64 (sp.code * 2 ^ 60) + y * 2 ^ 53 + x) s1 s2 → Retires (.mkptr d a b sp) s s2)
    ∧ (sp = .scratch ∧ 3 * 2 ^ 20 ≤ x.toNat ∨ sp = .acc ∧ 2 ^ 19 ≤ x.toNat ∨ sp = .weight ∧ 6 * 2 ^ 20 ≤ x.toNat
        ∨ (sp = .scratch ∨ sp = .acc ∨ sp = .weight) ∧ 127 < y.toNat →
        Taken [a, b] [d] s [x, y] s1 → Traps (.mkptr d a b sp) s s1 0x05 x.toNat))

/-- R61, R62: operands that name no port. The sources have the values of their registers, s0 the value 0, and nothing changes; a
plain destination holds the value, s0 drops it.

R62, R290: a role queue port as a source pops the oldest entry, as a destination appends one; an empty source queue and a full
destination queue keep the instruction from issuing, with nothing taken; a role that is not the queue's consumer (as a source) or producer (as a
destination) raises queue misuse. Shown on ADD, whose operands are the most general form. -/
def Obligations.ScalarOperands : Prop :=
  (∀ (s : State) (g : Group) (k : Role) (srcs dsts : List SReg), Acts s g k →
    (∀ r ∈ srcs, r.isPort = false) → (∀ r ∈ dsts, r.isPort = false) →
    Taken srcs dsts s (srcs.map fun r => if r = 0 then 0 else k.regs.get r) s
    ∧ ∀ d ∈ dsts, ∀ v, Gives d v s (if d = 0 then s else s.onRole s.cur fun k => { k with regs := k.regs.set d.val v d.isLt }))
  ∧ (∀ (s : State) (g : Group) (k : Role) (d a p : SReg) (n : Fin 4), Acts s g k → d.isPort = false → a.isPort = false →
    p.val = 60 + n.val →
    (consumer n.val = s.cur.role → ∀ v rest, g.roleq.get n = v :: rest →
      Taken [a, p] [d] s [k.reg a, v]
        (s.onGroup s.cur.core s.cur.slot fun x =>
          { x with roleq := x.roleq.set n.val rest n.isLt, roleqMoved := x.roleqMoved.set n.val s.cycle.toNat n.isLt }))
    ∧ (consumer n.val = s.cur.role → g.roleq.get n = [] → exec (.add d a p) s = .next (s.noteWait [a, p] [d]))
    ∧ (consumer n.val ≠ s.cur.role → Traps (.add d a p) s s 0x0D p.val)
    ∧ (producer n.val = s.cur.role → (g.roleq.get n).length < 16 → s.resultsPending s.cur = false →
        Taken [a, d] [p] s [k.reg a, k.reg d] s ∧ ∀ v,
          Gives p v s (s.onGroup s.cur.core s.cur.slot fun x =>
            { x with roleq := x.roleq.set n.val (x.roleq.get n ++ [v]) n.isLt
                     roleqMoved := x.roleqMoved.set n.val s.cycle.toNat n.isLt }))
    ∧ (producer n.val = s.cur.role → s.resultsPending s.cur = true → exec (.add p a d) s = .next (s.noteWait [a, d] [p]))
    ∧ (producer n.val = s.cur.role → 16 ≤ (g.roleq.get n).length → exec (.add p a d) s = .next (s.noteWait [a, d] [p]))
    ∧ (producer n.val ≠ s.cur.role → Traps (.add p a d) s s 0x0D p.val))

/-- The frame of the scalar arithmetic, immediate and pointer instructions with plain registers (R9, R61): no other role, no memory, no
flag changes; of the role, no register but the destination and, at the end of a LOOP body, its count register (R114). MKPTR is
there where its operands fit; where they do not it raises space (O2). -/
def Obligations.ScalarFrame : Prop :=
  ∀ (s t : State) (g : Group) (k : Role) (i : Instr) (d a b : SReg) (m : BitVec 14) (n w : BitVec 6) (v : BitVec 20) (f : Fin 4) (sp : Space),
    Acts s g k → d.isPort = false → a.isPort = false → b.isPort = false →
    i ∈ [Instr.add d a b, .sub d a b, .mul d a b, .mulh d a b, .mulhn d a b, .div d a b, .divn d a b, .rem d a b, .remn d a b,
      .and d a b, .or d a b, .xor d a b, .andn d a b, .shl d a b, .shr d a b, .sar d a b, .rol d a b, .min d a b, .max d a b,
      .minn d a b, .maxn d a b, .seq d a b, .sne d a b, .slt d a b, .sltn d a b, .sle d a b, .slen d a b, .addsh1 d a b,
      .addsh2 d a b, .addsh3 d a b, .sel d a b, .clz d a, .ctz d a, .popc d a, .addi d a m, .andi d a m, .ori d a m, .xori d a m,
      .slti d a m, .shli d a n, .shri d a n, .sari d a n, .ldi d v, .ldih d v, .bfx d a n w, .bfi d a n w, .ptrx d a f, .cyc d, .mkptr d a b sp] →
    (i = .mkptr d a b sp → MkptrFits sp (k.reg a).toNat (k.reg b).toNat) → exec i s = .next t →
    OnlyRole s t s.cur ∧ (∀ j, t.byteAt j = s.byteAt j) ∧ ∀ k', t.role s.cur = some k' → RoleFrame d k k'

/-! ### Scalar memory -/

/-- R106, R110: LD sign-extends and LDZ zero-extends the bytes at a + SignExt(off) * size; a space beyond 0x2 raises the space fault and
a misaligned address the alignment fault, each with the address in FAULTVA. An access to accumulator rows waits for the role's own matrix results
(R145).

R106, R191: ST stores the low bytes of d at a + SignExt(off) * size; where the bytes overlap a source that a deferred node of the
group has not read, those nodes are forced between the checks of the store and the store. A store to accumulator rows waits as a load does. -/
def Obligations.LoadStoreResult : Prop :=
  (∀ (sz : Size) (d a : SReg) (off : BitVec 10) (s s1 s2 s3 : State) (g : Group) (k : Role) (x : Word) (bs : List Byte) (ea n : Nat),
    n = 2 ^ sz.code → ea = (x + off.signExtend 64 * BitVec.ofNat 64 n).toNat → Taken [a] [d] s [x] s1 → Acts s1 g k →
    (3 ≤ ea / 2 ^ 60 → Traps (.ld sz d a off) s s1 0x05 ea ∧ Traps (.ldz sz d a off) s s1 0x05 ea)
    ∧ (ea / 2 ^ 60 ≤ 2 → ea % n ≠ 0 → Traps (.ld sz d a off) s s1 0x04 ea ∧ Traps (.ldz sz d a off) s s1 0x04 ea)
    ∧ (ea / 2 ^ 60 ≤ 2 → ea % n = 0 → (ea / 2 ^ 60 = 2 → s1.resultsPending s1.cur = false) →
        Runs (memReadBytes (s1.self g) ea n) s1 bs s2 →
        (Gives d ((BitVec.ofNat (8 * n) (leNat bs)).signExtend 64) s2 s3 → Retires (.ld sz d a off) s s3)
        ∧ (Gives d (BitVec.ofNat 64 (leNat bs)) s2 s3 → Retires (.ldz sz d a off) s s3))
    ∧ (ea / 2 ^ 60 = 2 → ea % n = 0 → s1.resultsPending s1.cur = true →
        exec (.ld sz d a off) s = .next (s.noteWait [a] [d]) ∧ exec (.ldz sz d a off) s = .next (s.noteWait [a] [d])))
  ∧ (∀ (sz : Size) (d a : SReg) (off : BitVec 10) (s s1 s2 s3 s4 : State) (g : Group) (k : Role) (x v : Word) (ea n : Nat),
    n = 2 ^ sz.code → ea = (x + off.signExtend 64 * BitVec.ofNat 64 n).toNat → Taken [a, d] [] s [x, v] s1 → Acts s1 g k →
    (3 ≤ ea / 2 ^ 60 → Traps (.st sz d a off) s s1 0x05 ea)
    ∧ (ea / 2 ^ 60 ≤ 2 → ea % n ≠ 0 → Traps (.st sz d a off) s s1 0x04 ea)
    ∧ (ea / 2 ^ 60 ≤ 2 → ea % n = 0 → (ea / 2 ^ 60 = 2 → s1.resultsPending s1.cur = false) →
        Runs (memWriteBytes (s1.self g) ea (leBytes n v.toNat)) s1 () s2 →
        (NoAlias s1 g [(ea, ea + n - 1)] → Retires (.st sz d a off) s s2)
        ∧ (¬ NoAlias s1 g [(ea, ea + n - 1)] → Runs (aliasCheck { core := s1.cur.core, slot := s1.cur.slot } [(ea, ea + n - 1)]) s1 () s3 →
            Runs (memWriteBytes (s1.self g) ea (leBytes n v.toNat)) s3 () s4 → Retires (.st sz d a off) s s4))
    ∧ (ea / 2 ^ 60 = 2 → ea % n = 0 → s1.resultsPending s1.cur = true → exec (.st sz d a off) s = .next (s.noteWait [a, d] [])))

/-- R108: LDAQ and STRL address a itself, in the spaces 0x0 and 0x1. R119: FENCE retires. A release waits for the role's matrix results (R219,
R146); that it finds nothing else to order is the model's choice (log 3). An acquire at enclosure scope refreshes the root version of a pool region
(R242, log 80).

R109: an atomic gives the old doubleword to d and stores the new one; ACAS stores only where the old value equals d and the new one
differs from it. One that releases waits for the role's matrix results (R219); one that acquires at enclosure scope refreshes the root
version of a pool region (R242, log 80). -/
def Obligations.SynchronizationResult : Prop :=
  (∀ (sz : Size) (sc : Scope) (kind : FenceKind) (d a b : SReg) (s s1 sa s2 s3 : State) (g : Group) (k : Role) (x v : Word) (bs : List Byte) (n : Nat),
    n = 2 ^ sz.code → Acts s1 g k → x.toNat / 2 ^ 60 ≤ 1 → x.toNat % n = 0 →
    (Taken [a] [d] s [x] s1 → Runs (acquireRoot sc x.toNat) s1 () sa → Acts sa g k → sa.cur = s1.cur →
      Runs (memReadBytes (sa.self g) x.toNat n) sa bs s2 → Gives d (BitVec.ofNat 64 (leNat bs)) s2 s3 →
      Retires (.ldaq sz sc d a) s s3)
    ∧ (Taken [a, b] [] s [x, v] s1 → s1.resultsPending s1.cur = false → NoAlias s1 g [(x.toNat, x.toNat + n - 1)] →
        Runs (memWriteBytes (s1.self g) x.toNat (leBytes n v.toNat)) s1 () s2 → Retires (.strl sz sc a b) s s2)
    ∧ (Taken [a, b] [] s [x, v] s1 → s1.resultsPending s1.cur = true → exec (.strl sz sc a b) s = .next (s.noteWait [a, b] []))
    ∧ (kind = .acquire ∨ s1.resultsPending s1.cur = false → Retires (.fence sc kind) s1 s1)
    ∧ (kind ≠ .acquire → s1.resultsPending s1.cur = true → exec (.fence sc kind) s1 = .next (s1.noteWait [] [])))
  ∧ (∀ (sc : Scope) (o : MemOrder) (d a b : SReg) (s s1 sa s2 s3 s4 : State) (g : Group) (k : Role) (x y c : Word) (bs : List Byte),
    Acts s1 g k → Acts sa g k → sa.cur = s1.cur → Acts s2 g k → s2.cur = s1.cur → x.toNat / 2 ^ 60 ≤ 1 → x.toNat % 8 = 0 →
    (o = .release ∨ o = .acqRel → s1.resultsPending s1.cur = false) →
    (o = .acquire ∨ o = .acqRel → Runs (acquireRoot sc x.toNat) s1 () sa) → (o ≠ .acquire ∧ o ≠ .acqRel → sa = s1) →
    Runs (memReadBytes (sa.self g) x.toNat 8 .atomic) sa bs s2 →
    ∀ old, old = BitVec.ofNat 64 (leNat bs) → NoAlias s2 g [(x.toNat, x.toNat + 7)] → Gives d old s3 s4 →
    (Taken [a, b] [d] s [x, y] s1 →
      let Stores := fun (i : Instr) (v : Word) =>
        Runs (memWriteBytes (s2.self g) x.toNat (leBytes 8 v.toNat) .atomic) s2 () s3 → Retires i s s4
      Stores (.aadd sc o d a b) (old + y) ∧ Stores (.aand sc o d a b) (old &&& y) ∧ Stores (.aor sc o d a b) (old ||| y)
      ∧ Stores (.axor sc o d a b) (old ^^^ y) ∧ Stores (.amin sc o d a b) (if old.toInt ≤ y.toInt then old else y)
      ∧ Stores (.amax sc o d a b) (if old.toInt ≤ y.toInt then y else old)
      ∧ Stores (.aminn sc o d a b) (if old.toNat ≤ y.toNat then old else y)
      ∧ Stores (.amaxn sc o d a b) (if old.toNat ≤ y.toNat then y else old) ∧ Stores (.axchg sc o d a b) y)
    ∧ (Taken [a, b, d] [d] s [x, y, c] s1 →
        (old = c ∧ y ≠ old → Runs (memWriteBytes (s2.self g) x.toNat (leBytes 8 y.toNat) .atomic) s2 () s3 →
          Retires (.acas sc o d a b) s s4)
        ∧ (¬ (old = c ∧ y ≠ old) → s3 = s2 → Retires (.acas sc o d a b) s s4)))

/-- R8, R208, R211, R361: MemRead and MemWrite of a scratchpad pointer inside one 64-byte granule that is not poisoned, in a unit that the
context owns, with no copy of the group in flight over it. The bytes stand at the pointer, least significant first, and every other byte of
memory reads as before. A unit of another context raises ownership, an offset beyond the slice the space fault.

R8, R241, R349, R361: MemRead and MemWrite of a virtual pointer inside one atom of local HBM on a page that is not compressed: an atom that is neither poisoned
nor in a retired row, that holds no error still to be met, and that nothing or the page's own key has written (that an atom which no key has marked
reads as its plain bytes is log 12, DEDUCED). The bytes stand at the physical address; no other byte changes. -/
def Obligations.MemoryAccess : Prop :=
  (∀ (s : State) (w : Who) (p n : Nat) (bs : List Byte), s.MemOk → p / 2 ^ 60 = 1 → 1 ≤ n → p % 64 + n ≤ 64 → bs.length = n →
    (p / 2 ^ 23 % 2 ^ 30 ≠ 0 ∨ 3 * 2 ^ 20 ≤ p % 2 ^ 23 →
      Raises (memReadBytes w p n) s { code := 0x05, va := BitVec.ofNat 64 p } none)
    ∧ (p / 2 ^ 23 % 2 ^ 30 = 0 → p % 2 ^ 23 < 3 * 2 ^ 20 → s.ownsUnit w.ctx (ptrCore p) (p % 2 ^ 23) = false →
        Raises (memReadBytes w p n) s { code := 0x07, va := BitVec.ofNat 64 p } none
        ∧ Raises (memWriteBytes w p bs) s { code := 0x07, va := BitVec.ofNat 64 p } none)
    ∧ (p / 2 ^ 23 % 2 ^ 30 = 0 → p % 2 ^ 23 < 3 * 2 ^ 20 → s.ownsUnit w.ctx (ptrCore p) (p % 2 ^ 23) = true →
        s.boardHits w p n = false → s.isPoison (p / 64) = false →
        Runs (memReadBytes w p n) s (s.bytesAt p n) s
        ∧ ∃ t, Runs (memWriteBytes w p bs) s () t ∧ t.bytesAt p n = bs ∧ t.MemOk
            ∧ ∀ j, j < p ∨ p + n ≤ j → t.byteAt j = s.byteAt j))
  ∧ (∀ (s s1 : State) (w : Who) (p n : Nat) (bs : List Byte) (x : Xlat), p < 2 ^ 55 → 1 ≤ n → p % 64 + n ≤ 64 → bs.length = n →
    x.pa % 64 = p % 64 → s1.MemOk → (∃ pc row, backing s1.srows x.pa = .hbm pc row) → leafC x.leaf = false →
    s.boardHits w p n = false → s1.isPoison (x.pa / 64) = false → s1.inRetired x.pa = false → x.pa / 64 ∉ s1.decayed →
    (∀ key, SMap.get s1.keyTag (x.pa / 64) = some key → key = s1.leafKeyRef x.leaf) →
    (Runs (translate w p .read) s x s1 → x.leaf / 2 ^ 11 % 2 = 0 → Runs (memReadBytes w p n) s (s1.bytesAt x.pa n) s1)
    ∧ (Runs (translate w p .write) s x s1 → ∃ t, Runs (memWriteBytes w p bs) s () t ∧ t.bytesAt x.pa n = bs ∧ t.MemOk
        ∧ SMap.get t.keyTag (x.pa / 64) = some (s1.leafKeyRef x.leaf) ∧ ∀ j, j < x.pa ∨ x.pa + n ≤ j → t.byteAt j = s1.byteAt j))

/-- R349, R350, R353: an access that a TLB entry of the core serves. A permission that the leaf does not grant raises protection; else the
physical address is the leaf's page with the offset of va, or its 2 MiB block with the offset in the block.

R60, R457: what a line holds: the sixteen words of the 64 bytes at its physical address, poison checked, or what the core's buffer holds of it. -/
def Obligations.TranslationAndFetch : Prop :=
  (∀ (s : State) (w : Who) (c : CoreId) (va : Nat) (a : Acc) (e : TlbEntry), w.core = some c →
    (s.core c).tlb.find? (fun x => x.holds w.ctx va) = some e → s.regionOk e.leaf va = true → s.bufOf w.ctx va = none →
    (grants e.leaf a = false → Raises (translate w va a) s { code := 0x07, va := BitVec.ofNat 64 va } none)
    ∧ (grants e.leaf a = true → ∃ t, t.mem = s.mem ∧ t.ctxs = s.ctxs ∧
        Runs (translate w va a) s
          ⟨if e.leaf / 2 ^ 10 % 2 = 1 then e.leaf / 2 ^ 16 % 2 ^ 36 * 2 ^ 16 / 2 ^ 21 * 2 ^ 21 + va % 2 ^ 21
            else e.leaf / 2 ^ 16 % 2 ^ 36 * 2 ^ 16 + va % 2 ^ 16, e.leaf⟩ t))
  ∧ (∀ (s s1 s2 : State) (w : Who) (c : CoreId) (va : Nat) (x : Xlat) (r : List Byte × Bool), w.core = some c → va < 2 ^ 55 →
    (∀ ws, s.lineHeld w va = some ws → Runs (fetchLine w va) s ws (s.lineFill w va ws))
    ∧ (s.lineHeld w va = none → Runs (translate w va .fetch) s x s1 →
        Runs (physRead (s1.leafKeyRef x.leaf) (leafC x.leaf) va x.pa 64) s1 r s2 →
        (r.2 = true ∨ x.leaf / 2 ^ 11 % 2 = 1 → Raises (fetchLine w va) s { code := 0x08, va := BitVec.ofNat 64 va } none)
        ∧ (r.2 = false → x.leaf / 2 ^ 11 % 2 = 0 → Runs (fetchLine w va) s (bytesToWords r.1) (s2.lineFill w va (bytesToWords r.1))))
    ∧ (∀ ws, (s.lineFill w va ws).lineHeld w va = some ws))

/-! ### Control flow -/

/-- R56, R58, R111: a compare branch continues at the line delta lines away, at the target word, where its condition holds, and in sequence
where it does not.

R112, R113: JL and JR give the address behind them to d and continue at the direct target or at a; JR checks its target first.

R114: LOOP with a count that is not zero enters an entry of the body from the next instruction to the target, the oldest of four entries
going, and continues behind itself, where the body begins; with a count of zero it continues after the instruction at the target, in its own line or in
one that is fetched, whoever owns that line (DEDUCED, log 77); a port as count register is an illegal instruction. -/
def Obligations.BranchJumpLoopResult : Prop :=
  (∀ (a b : SReg) (t : TargetB) (s s1 : State) (g : Group) (k : Role) (x y : Word) (to_ : Nat), Acts s g k →
    (to_ : Int) = (k.pc.toNat / 64 * 64 : Nat) + 64 * t.delta.toInt + 4 * t.word.val → to_ < 2 ^ 55 →
    let Goes := fun (i : Instr) (c : Prop) =>
      (c → exec i s = .next (s1.continue_ 1 (.goto to_))) ∧ (¬ c → exec i s = .next (s1.continue_ 1 .seq))
    (Taken [a, b] [] s [x, y] s1 →
      Goes (.beq a b t) (x = y) ∧ Goes (.bne a b t) (x ≠ y) ∧ Goes (.blt a b t) (x.toInt < y.toInt)
      ∧ Goes (.bge a b t) (y.toInt ≤ x.toInt) ∧ Goes (.bltn a b t) (x.toNat < y.toNat) ∧ Goes (.bgen a b t) (y.toNat ≤ x.toNat))
    ∧ (Taken [a] [] s [x] s1 → Goes (.bz a t) (x = 0) ∧ Goes (.bnz a t) (x ≠ 0)))
  ∧ (∀ (d a : SReg) (t : TargetJ) (s s1 s2 : State) (g : Group) (k : Role) (x link : Word) (to_ : Nat), Acts s g k →
    link = BitVec.ofNat 64 ((nextPc k.line k.pc.toNat 1).getD (k.pc.toNat + 4)) →
    ((to_ : Int) = (k.pc.toNat / 64 * 64 : Nat) + 64 * t.delta.toInt + 4 * t.word.val → to_ < 2 ^ 55 →
      Taken [] [d] s [] s1 → Gives d link s1 s2 → exec (.jl d t) s = .next (s2.continue_ 1 (.goto to_)))
    ∧ (Taken [a] [d] s [x] s1 →
        (2 ^ 55 ≤ x.toNat → Traps (.jr d a) s s1 0x05 x.toNat)
        ∧ (x.toNat < 2 ^ 55 → x.toNat % 4 ≠ 0 → Traps (.jr d a) s s1 0x04 x.toNat)
        ∧ (x.toNat < 2 ^ 55 → x.toNat % 4 = 0 → Gives d link s1 s2 →
            exec (.jr d a) s = .next (s2.continue_ 1 (.goto x.toNat)))))
  ∧ (∀ (c : SReg) (t : TargetJ) (s s1 : State) (g : Group) (k : Role) (stop start : Nat) (ws : List Nat), Acts s g k →
    (stop : Int) = (k.pc.toNat / 64 * 64 : Nat) + 64 * t.delta.toInt + 4 * t.word.val → stop < 2 ^ 55 →
    (c.isPort = true → Traps (.loop c t) s s 0x01 0)
    ∧ (c.isPort = false → k.reg c ≠ 0 → nextPc k.line k.pc.toNat 1 = some start →
        exec (.loop c t) s = .next ((s.onRole s.cur fun k =>
          { k with loops := (⟨BitVec.ofNat 64 start, BitVec.ofNat 64 stop, c⟩ :: k.loops).take 4 }).continue_ 1 (.after k.line k.pc.toNat 1)))
    ∧ (c.isPort = false → k.reg c = 0 → (stop / 64 = k.pc.toNat / 64 → ws = k.line ∧ s1 = s) →
        (stop / 64 ≠ k.pc.toNat / 64 → Runs (fetchLine (s.self g) (stop / 64 * 64)) s ws s1) → lineIllegal ws = false →
        wordLegal ws (stop % 64 / 4) = true →
        exec (.loop c t) s = .next (s1.continue_ 1 (.after ws stop (wordsOf (ws.getD (stop % 64 / 4) 0))))))

/-- R56: the successor of an instruction in its line, in the line that NEXT names, or none; and R114: retirement at the end of the innermost
loop body counts the loop's register down and goes back to the start, or leaves the loop at zero.

R50, R53, R55 to R58, R80: a role's arrival at its PC with the line it executes in hand, the checks in their order: illegal flow outside the 55-bit space, an illegal line, an owner that the role
may not execute, a PC that is no instruction's first word. -/
def Obligations.RoleFlow : Prop :=
  (∀ (k : Role) (size : Nat) (e : LoopEntry) (rest : List LoopEntry),
    (k.pc.toNat % 64 / 4 + size ≤ k.line.headD 0 / 2 ^ 25 % 16 →
      nextPc k.line k.pc.toNat size = some (k.pc.toNat + 4 * size))
    ∧ (k.line.headD 0 / 2 ^ 25 % 16 < k.pc.toNat % 64 / 4 + size → k.line.headD 0 % 2 ^ 25 = 0 →
        nextPc k.line k.pc.toNat size = none)
    ∧ (∀ to_ : Nat, k.line.headD 0 / 2 ^ 25 % 16 < k.pc.toNat % 64 / 4 + size → k.line.headD 0 % 2 ^ 25 ≠ 0 →
        (to_ : Int) = (k.pc.toNat / 64 * 64 : Nat) + 64 * (BitVec.ofNat 25 (k.line.headD 0)).toInt → to_ < 2 ^ 55 →
        nextPc k.line k.pc.toNat size = some (to_ + 4))
    ∧ (k.loops = e :: rest → e.stop = k.pc → k.reg e.count ≠ 1 → e.count ≠ 0 →
        (k.retire size).pc = BitVec.ofNat 64 e.start.toNat ∧ (k.retire size).loops = k.loops
        ∧ (k.retire size).reg e.count = k.reg e.count - 1)
    ∧ (k.loops = e :: rest → e.stop = k.pc → k.reg e.count = 1 → (k.retire size).loops = rest ∧ (k.retire size).reg e.count = 0)
    ∧ ((k.loops = [] ∨ ∃ e rest, k.loops = e :: rest ∧ e.stop ≠ k.pc) →
        (k.retire size).loops = k.loops ∧ (k.retire size).regs = k.regs))
  ∧ (∀ (s : State) (g : Group) (k : Role) (ws : List Nat) (pc : Nat), Acts s g k → k.line = ws → ws ≠ [] → pc = k.pc.toNat →
    let link := ws.headD 0
    let owner := link / 2 ^ 29 % 8
    let count := link / 2 ^ 25 % 16
    let seq := (∃ a b, g.state = .saving a b) ∨ ∃ a m, g.state = .restoring a m
    let owned := (s.cur.role = .fetch ∧ (owner = 0 ∨ owner = 3)) ∨ (s.cur.role = .drain ∧ (owner = 2 ∨ owner = 3))
      ∨ (s.cur.role = .compute ∧ (seq ∧ owner = 4 ∨ ¬ seq ∧ (owner = 1 ∨ owner = 3)))
    let legal := owner ≤ 4 ∧ count ≠ 0 ∧ ∀ w ∈ ws.drop (count + 1), w = 0
    (2 ^ 55 ≤ pc → Raises arrive s { code := 0x15, va := 0 } none)
    ∧ (pc < 2 ^ 55 → ¬ legal → Raises arrive s { code := 0x02, va := BitVec.ofNat 64 (pc / 64 * 64) } none)
    ∧ (pc < 2 ^ 55 → legal →
        (¬ owned → Raises arrive s { code := 0x15, va := 0 } none)
        ∧ (owned → k.chained = true → owner ≠ 3 → Raises arrive s { code := 0x15, va := 0 } none)
        ∧ (owned → (k.chained = true → owner = 3) →
            (pc % 4 ≠ 0 ∨ wordLegal ws (pc % 64 / 4) = false → Raises arrive s { code := 0x15, va := 0 } none)
            ∧ (pc % 4 = 0 → wordLegal ws (pc % 64 / 4) = true →
                Runs arrive s ws (s.onRole s.cur fun k => { k with line := ws, chained := false }))))
    ∧ (wordLegal ws 0 = false ∧ ∀ w, count < w → wordLegal ws w = false))

/-! ### SYS and control registers -/

/-- R115, R117: NOP only goes on; CYC gives CYCLE; TFENCE waits for the role's matrix results, and then traps with code 0x10
where a flag that TFCTL enables is set, FAULTVA holding those flags.

R118, R423: TRAP and BRK retire, and then take the fault 0x11 or 0x12 with their code in INFO and their own address as FAULTPC; the
role stands behind them. -/
def Obligations.SystemInstructionResult : Prop :=
  (∀ (s s1 : State) (g : Group) (k : Role) (d : SReg), Acts s g k →
    Retires .nop s s
    ∧ (∀ s0, Taken [] [d] s [] s0 → Gives d s0.cycle s0 s1 → s0.cycle = s.cycle → Retires (.cyc d) s s1)
    ∧ (s.resultsPending s.cur = true → exec .tfence s = .next (s.noteWait [] []))
    ∧ (s.resultsPending s.cur = false → g.flags &&& g.tfctl = 0 → Retires .tfence s s)
    ∧ (s.resultsPending s.cur = false → g.flags &&& g.tfctl ≠ 0 → Traps .tfence s s 0x10 (g.flags &&& g.tfctl).toNat))
  ∧ (∀ (s : State) (g : Group) (k : Role) (code : BitVec 20), Acts s g k →
    exec (.trap code) s =
      .next ((s.onRole s.cur fun k => k.retire 1).takeFault s.cur { code := 0x11, va := 0, info := code } k.pc true)
    ∧ exec (.brk code) s =
      .next ((s.onRole s.cur fun k => k.retire 1).takeFault s.cur { code := 0x12, va := 0, info := code } k.pc true))

/-- R121, R122, R123, R124: CSRR gives the value of an assigned register; what the group's and the role's registers hold.

R121, R46, R48: CSRW, CSRS and CSRC of FLAGS and TFCTL write, set and clear their seven bits; a write of VALID with 1 clears the first-NaN
record; a write of a read-only register of the device, group or role changes nothing.

R80, R121, R234: a register of the system block needs system privilege, else privilege is raised with its number in FAULTVA; CSRW of it
does what the write of the register does. -/
def Obligations.ControlRegisters : Prop :=
  (∀ (s s1 s2 : State) (g0 g : Group) (k0 k : Role) (d : SReg) (n : BitVec 14), Acts s g0 k0 →
    (csrAssigned n.toNat = false → Traps (.csrr d n) s s 0x01 0)
    ∧ (csrAssigned n.toNat = true → 0x1000 ≤ n.toNat → (s.ctx g0.ctx).desc.sys = false → Traps (.csrr d n) s s 0x03 n.toNat)
    ∧ (csrAssigned n.toNat = true → (0x1000 ≤ n.toNat → (s.ctx g0.ctx).desc.sys = true) → Taken [] [d] s [] s1 → Acts s1 g k →
        Gives d (s1.csrRead s1.cur g k n.toNat) s1 s2 → Retires (.csrr d n) s s2)
    ∧ (s.csrRead s.cur g k 0x001 = s.cycle ∧ s.csrRead s.cur g k 0x010 = g.flags.setWidth 64
      ∧ s.csrRead s.cur g k 0x011 = g.tfctl.setWidth 64 ∧ s.csrRead s.cur g k 0x012 = g.nanrec
      ∧ s.csrRead s.cur g k 0x013 = g.nanrecPc ∧ s.csrRead s.cur g k 0x020 = k.cause ∧ s.csrRead s.cur g k 0x021 = k.faultPc
      ∧ s.csrRead s.cur g k 0x022 = k.appendPc ∧ s.csrRead s.cur g k 0x023 = k.faultVa ∧ s.csrRead s.cur g k 0x024 = k.nodeId))
  ∧ (∀ (s s1 : State) (g0 g : Group) (k0 k : Role) (a : SReg) (v : Word), Acts s g0 k0 → Taken [a] [] s [v] s1 → Acts s1 g k →
    let Does := fun (i : Instr) (f : Group → Group) => Retires i s (s1.onGroup s1.cur.core s1.cur.slot f)
    Does (.csrw a 0x010) (fun x => { x with flags := v.setWidth 7 })
    ∧ Does (.csrs a 0x010) (fun x => { x with flags := x.flags ||| v.setWidth 7 })
    ∧ Does (.csrc a 0x010) (fun x => { x with flags := x.flags &&& ~~~v.setWidth 7 })
    ∧ Does (.csrw a 0x011) (fun x => { x with tfctl := v.setWidth 7 })
    ∧ Does (.csrs a 0x011) (fun x => { x with tfctl := x.tfctl ||| v.setWidth 7 })
    ∧ Does (.csrc a 0x011) (fun x => { x with tfctl := x.tfctl &&& ~~~v.setWidth 7 })
    ∧ (v.getLsbD 0 = true → Does (.csrw a 0x012) (fun x => { x with nanrec := 0, nanrecPc := 0 }))
    ∧ (v.getLsbD 0 = false → Retires (.csrw a 0x012) s s1)
    ∧ ∀ n ∈ [(0x000 : BitVec 14), 0x001, 0x002, 0x013, 0x020, 0x021, 0x022, 0x023, 0x024, 0x030, 0x031, 0x032, 0x033],
        Retires (.csrw a n) s s1 ∧ Retires (.csrs a n) s s1 ∧ Retires (.csrc a n) s s1)
  ∧ (∀ (s s1 s2 : State) (g0 g : Group) (k0 k : Role) (a : SReg) (v : Word) (n : BitVec 14), Acts s g0 k0 → csrAssigned n.toNat = true →
    0x1000 ≤ n.toNat →
    ((s.ctx g0.ctx).desc.sys = false →
      Traps (.csrw a n) s s 0x03 n.toNat ∧ Traps (.csrs a n) s s 0x03 n.toNat ∧ Traps (.csrc a n) s s 0x03 n.toNat)
    ∧ ((s.ctx g0.ctx).desc.sys = true → Taken [a] [] s [v] s1 → Acts s1 g k →
        (sysWrite (.role s1.cur) n.toNat v s1 = .next s2 → Retires (.csrw a n) s s2)
        ∧ (sysRwMask n.toNat ≠ 0 → sysWrite (.role s1.cur) n.toNat (s1.sysRead (.role s1.cur) n.toNat ||| v) s1 = .next s2 →
            Retires (.csrs a n) s s2)
        ∧ (sysRwMask n.toNat ≠ 0 → sysWrite (.role s1.cur) n.toNat (s1.sysRead (.role s1.cur) n.toNat &&& ~~~v) s1 = .next s2 →
            Retires (.csrc a n) s s2)))

/-! ### Taking a fault -/

/-- R423, R424, R425: a fault stalls its role and writes the role's fault registers: CAUSE with the code, INFO and the role, FAULTPC,
FAULTVA, APPENDPC and NODEID. Every other register of the role is as it was, and every other role and the group's own registers too. Its record is
counted in SEQ, carries that count, and is delivered to the group's context.

R427, R428: the record of a fault, field by field; and that a record which the fault queue cannot take is held, after those already held.
A delivery counts nothing further. -/
def Obligations.FaultTaken : Prop :=
  (∀ (s : State) (r : RoleId) (g : Group) (t : Trap) (pc : Word) (retired : Bool), s.group r.core r.slot = some g →
    ∃ k', ((s.takeFault r t pc retired).cores = (s.onRole r fun _ => k').cores)
      ∧ k'.stalled = true ∧ k'.faultPc = pc ∧ k'.faultVa = t.va ∧ k'.appendPc = t.appendPc ∧ k'.nodeId = t.nodeId
      ∧ k'.cause = BitVec.ofNat 64 (t.code + t.info.toNat * 2 ^ 8 + (roleIx r.role).val * 2 ^ 28)
      ∧ k'.regs = (g.role r.role).regs ∧ k'.pc = (g.role r.role).pc ∧ k'.loops = (g.role r.role).loops
      ∧ k'.ports = (g.role r.role).ports ∧ k'.status = (g.role r.role).status
      ∧ (let q := (s.onRole r fun _ => k').nextSeq g.ctx
         q.1 = (s.ctx g.ctx).faultSeq + 1 ∧ (q.2.ctx g.ctx).faultSeq = (s.ctx g.ctx).faultSeq + 1
         ∧ s.takeFault r t pc retired = q.2.deliver g.ctx (faultRecord k'.cause.toNat pc.toNat t.va.toNat t.appendPc.toNat t.nodeId.toNat
             g.record.launch g.record.index (srcOf r) 0 q.1 s.cycle.toNat)))
  ∧ ((∀ (cause pc va append node launch index src origin seq cycle : Nat) (f : List Byte),
    f = faultRecord cause pc va append node launch index src origin seq cycle →
    f.length = 64 ∧ leNat (f.take 8) = cause % 2 ^ 64 ∧ leNat ((f.drop 8).take 8) = pc % 2 ^ 64
    ∧ leNat ((f.drop 16).take 8) = va % 2 ^ 64 ∧ leNat ((f.drop 24).take 8) = append % 2 ^ 64
    ∧ leNat ((f.drop 32).take 8) = node % 2 ^ 64 ∧ leNat ((f.drop 40).take 4) = launch % 2 ^ 32
    ∧ leNat ((f.drop 44).take 4) = index % 2 ^ 32 ∧ leNat ((f.drop 48).take 2) = src % 2 ^ 16
    ∧ leNat ((f.drop 50).take 1) = origin % 2 ^ 8 ∧ leNat ((f.drop 52).take 4) = seq % 2 ^ 32
    ∧ leNat ((f.drop 56).take 8) = cycle % 2 ^ 64)
  ∧ ∀ (s : State) (x : CtxId) (rcd : List Byte) (t : Trap) (k : Option State), (s.ctx x).faultHeld.length < 64 →
      let header := memReadBytes ⟨x, none, none⟩ ((s.ctx x).desc.faultq.toNat % 2 ^ 55) 64 .queue
      Raises header s t k → Raises header (s.onCtx x fun c => { c with faultHeld := c.faultHeld ++ [rcd] }) t k →
      ((s.deliver x rcd).ctx x).faultHeld = (s.ctx x).faultHeld ++ [rcd] ∧ ((s.deliver x rcd).ctx x).faultSeq = (s.ctx x).faultSeq
      ∧ (s.deliver x rcd).mem = s.mem
      ∧ x.val ∈ (s.deliver x rcd).msi)

/-! ### Predicates, generators -/

/-- R61, R128, R129: KSET clamps its count to 1,536; KMIN takes the shorter prefix in the width of its first source; KCNT counts the elements
of a width that a predicate covers; KGET gives count and width. k0 reads all-active and ignores writes. -/
def Obligations.PredicateResult : Prop :=
  ∀ (s s1 s2 : State) (g : Group) (k : Role) (d : SReg) (p q r : KReg) (a : SReg) (w : PWidth) (x : Word), Acts s1 g k →
    let bits := fun (w : PWidth) => 8 * 2 ^ w.code
    let val := fun (i : KReg) => if i = 0 then (⟨1536, .w8⟩ : Pred) else g.preds.get i
    let Sets := fun (i : Instr) (v : Pred) =>
      Retires i s (s1.onGroup s1.cur.core s1.cur.slot fun y => if p = 0 then y else { y with preds := y.preds.set p.val v p.isLt })
    (Taken [a] [] s [x] s1 → Sets (.kset p a w) ⟨min x.toNat 1536, w⟩)
    ∧ (Taken [] [] s [] s1 → Sets (.kmin p q r)
        ⟨min ((val q).count * bits (val q).width / 8) ((val r).count * bits (val r).width / 8) * 8 / bits (val q).width, (val q).width⟩)
    ∧ (Taken [] [d] s [] s1 → Gives d (BitVec.ofNat 64 ((val q).count * bits (val q).width / 8 * 8 / bits w)) s1 s2 →
        Retires (.kcnt d q w) s s2)
    ∧ (Taken [] [d] s [] s1 → Gives d (BitVec.ofNat 64 ((val q).count + (val q).width.code * 2 ^ 11)) s1 s2 → Retires (.kget d q) s s2)

/-! ### Vector instructions -/

/-- R131 to R137: the instructions with an effect on elements of a, b and d.

R133, R135, R139, R140: the instructions with an effect on elements of a alone. -/
def Obligations.VectorElementwise : Prop :=
  (∀ o : VOp,
    Elementwise (.vadd o) o .add false true ∧ Elementwise (.vsub o) o .sub false true ∧ Elementwise (.vmul o) o .mul false true
    ∧ Elementwise (.vfma o) o .fma false true ∧ Elementwise (.vfms o) o .fms false true ∧ Elementwise (.vmax o) o .max false true
    ∧ Elementwise (.vmin o) o .min false true ∧ Elementwise (.vscl o) o .scl true false ∧ Elementwise (.vand o) o .and false false
    ∧ Elementwise (.vor o) o .or false false ∧ Elementwise (.vxor o) o .xor false false ∧ Elementwise (.vshl o) o .shl false false
    ∧ Elementwise (.vshr o) o .shr false false ∧ Elementwise (.vsar o) o .sar false false
    ∧ Elementwise (.vcmpeq o) o .cmpeq false true ∧ Elementwise (.vcmplt o) o .cmplt false true
    ∧ Elementwise (.vcmple o) o .cmple false true ∧ Elementwise (.vsel o) o .sel false false
    ∧ Elementwise (.vclamp o) o .clamp false true)
  ∧ (∀ o : VOp,
    UnaryElementwise (.vabs o) o (fun x => elemOp .abs o.ty o.rm x 0 0 0)
    ∧ UnaryElementwise (.vneg o) o (fun x => elemOp .neg o.ty o.rm x 0 0 0)
    ∧ UnaryElementwise (.vmov o) o (fun x => (x % 2 ^ o.ty.valueBits, 0))
    ∧ UnaryElementwise (.vexp2 o) o (Fn.exp2.apply o.ty o.rm) ∧ UnaryElementwise (.vlog2 o) o (Fn.log2.apply o.ty o.rm)
    ∧ UnaryElementwise (.vrcp o) o (Fn.rcp.apply o.ty o.rm) ∧ UnaryElementwise (.vrsq o) o (Fn.rsq.apply o.ty o.rm)
    ∧ UnaryElementwise (.vsqrt o) o (Fn.sqrt.apply o.ty o.rm) ∧ UnaryElementwise (.vtanh o) o (Fn.tanh.apply o.ty o.rm)
    ∧ UnaryElementwise (.vsigm o) o (Fn.sigm.apply o.ty o.rm))

/-- R138, R139, R141 to R143: conversion, sequences, reductions, scan and permutation. A reduction with no active element writes 0 (DEDUCED, log 76),
and VPERM's index is all bits of a lane (DEDUCED, log 86). -/
def Obligations.VectorRearranging : Prop :=
  ∀ (o : VOp) (s s1 s2 : State) (g g1 : Group) (k k1 : Role) (vs : List Word) (a : Nat) (xs : List Nat), Acts s g k → Acts s1 g1 k1 →
    a = activeCount g1 o.k o.ty.laneBits (vecLen o) → xs = s1.lanes g1 o.a.val (vecLen o) o.ty →
    let Quiet := fun (fields : List (Nat × Nat)) => RowsFit g fields ∧ RowsQuiet s1 g1 fields
    let both := [(o.d.val, o.len.val), (o.a.val, o.len.val)]
    (Taken [] [] s [] s1 →
      (Quiet [(o.d.val, 1), (o.a.val, o.len.val)] → ∀ r : Nat × Flags,
        Runs (do writeElems o.d.val 0 o.ty [r.1]; reportVector o.d.val o.ty o.ty.code o.ty.code 0 [r]) s1 () s2 →
        (r = sumOf o.ty o.rm (xs.take a) → Retires2 (.vredsum o) s s2)
        ∧ (r = extremeOf .max o.ty (xs.take a) → Retires2 (.vredmax o) s s2)
        ∧ (r = extremeOf .min o.ty (xs.take a) → Retires2 (.vredmin o) s s2))
      ∧ (Quiet both → VecEnds o 0 ((List.range a).map (scanAt o.ty o.rm (xs.take a))) s1 s2 → Retires2 (.vscan o) s s2)
      ∧ (∀ n fields, n = o.len.val * (256 / max o.ty.laneBytes o.ty2.laneBytes) →
          fields = [(o.d.val, (n * o.ty.laneBytes + 255) / 256), (o.a.val, (n * o.ty2.laneBytes + 255) / 256)] → Quiet fields →
          ∀ rs, rs = ((s1.lanes g1 o.a.val n o.ty2).take (activeCount g1 o.k o.ty.laneBits n)).map (convertElem o.ty2 o.ty o.rm) →
          Runs (do
            writeElems o.d.val 0 o.ty (rs.map Prod.fst)
            if o.z then writeElems o.d.val rs.length o.ty (List.replicate (n - rs.length) 0) else pure ()
            reportVector o.d.val o.ty o.ty2.code o.ty2.code 0 rs) s1 () s2 → Retires2 (.vcvt o) s s2))
    ∧ (Taken (vecScalars o) [] s vs s1 →
        (Quiet [(o.d.val, o.len.val)] →
          (∀ r, o.b = .scalar r → VecEnds o 0 (List.replicate a (o.ty.pattern ((arg vs 0).toNat % 2 ^ o.ty.laneBits), 0)) s1 s2 →
            Retires2 (.vsplat o) s s2)
          ∧ (∀ v, o.b = .imm v → VecEnds o 0 (List.replicate a (o.ty.ofInt o.rm v.toInt)) s1 s2 → Retires2 (.vsplat o) s s2)
          ∧ (∀ r, o.b = .scalar r → VecEnds o 0 ((List.range a).map fun i => o.ty.ofInt o.rm ((arg vs 0).toInt + i)) s1 s2 →
            Retires2 (.viota o) s s2)
          ∧ (∀ v, o.b = .imm v → VecEnds o 0 ((List.range a).map fun i => o.ty.ofInt o.rm (v.toInt + i)) s1 s2 →
            Retires2 (.viota o) s s2))
        ∧ (Quiet (both ++ vecBRows o) → ∀ b : VReg, o.b = .reg b →
            Runs (vecWriteBack o (((s1.lanes g1 b.val (vecLen o) o.ty).take a).map fun j => (o.ty.pattern (xs.getD j 0), 0))) s1 () s2 →
            Retires2 (.vperm o) s s2)
        ∧ (Quiet both → ∀ j : Int, (∀ r, o.b = .scalar r → j = (arg vs 0).toNat) → (∀ v, o.b = .imm v → j = v.toInt) →
            o.b.bs ≠ 0 →
            Runs (vecWriteBack o (List.replicate a (if 0 ≤ j then o.ty.pattern (xs.getD j.toNat 0) else 0, 0))) s1 () s2 →
            Retires2 (.vbcast o) s s2))

/-- R64, R81: every vector and vector memory instruction with a register of d, a or b at or beyond the group's allocation raises register bounds
with the lowest such register, before it issues.

R126, R131: where the results of a vector instruction stand. Lane i of the destination group holds result i; with z the lanes behind the
results hold zero, without z they keep their bytes; and every byte of memory outside the group's registers of the destination reads as
before. -/
def Obligations.VectorRegisterRules : Prop :=
  (∀ (o : VOp) (v : VMOp),
    let two := [(o.d.val, o.len.val), (o.a.val, o.len.val)]
    let wide := o.len.val * (256 / max o.ty.laneBytes o.ty2.laneBytes)
    (∀ i ∈ [Instr.vadd o, .vsub o, .vmul o, .vfma o, .vfms o, .vmax o, .vmin o, .vscl o, .vand o, .vor o, .vxor o, .vshl o, .vshr o, .vsar o,
        .vcmpeq o, .vcmplt o, .vcmple o, .vsel o, .vclamp o, .vperm o], BoundsChecked i (two ++ vecBRows o))
    ∧ (∀ i ∈ [Instr.vabs o, .vneg o, .vmov o, .vexp2 o, .vlog2 o, .vrcp o, .vrsq o, .vsqrt o, .vtanh o, .vsigm o, .vscan o, .vbcast o],
        BoundsChecked i two)
    ∧ (∀ i ∈ [Instr.vsplat o, .viota o], BoundsChecked i [(o.d.val, o.len.val)])
    ∧ (∀ i ∈ [Instr.vredsum o, .vredmax o, .vredmin o], BoundsChecked i [(o.d.val, 1), (o.a.val, o.len.val)])
    ∧ BoundsChecked (.vcvt o) [(o.d.val, (wide * o.ty.laneBytes + 255) / 256), (o.a.val, (wide * o.ty2.laneBytes + 255) / 256)]
    ∧ (∀ i ∈ [Instr.vld v, .vst v, .vlds v, .vsts v, .vpack v, .vunpk v], BoundsChecked i [(v.d.val, v.len.val)])
    ∧ (∀ i ∈ [Instr.vgath v, .vscat v], BoundsChecked i (gathRows v)))
  ∧ (∀ (s t : State) (g : Group) (k : Role) (o : VOp) (rs : List (Nat × Flags)), Acts s g k → s.MemOk → rs.length ≤ vecLen o →
    (∀ q ∈ s.poison, q < (rowKeyOf s.cur.core g o.d.val) / 64 ∨ (rowKeyOf s.cur.core g (o.d.val + o.len.val)) / 64 ≤ q) →
    Runs (vecWriteBack o rs) s () t →
    (∀ i (h : i < rs.length), (t.lanes g o.d.val (vecLen o) o.ty).getD i 0 = rs[i].1 % 2 ^ o.ty.laneBits)
    ∧ (∀ i, rs.length ≤ i → i < vecLen o →
        (t.lanes g o.d.val (vecLen o) o.ty).getD i 0 = if o.z then 0 else (s.lanes g o.d.val (vecLen o) o.ty).getD i 0)
    ∧ (∀ j, j < rowKeyOf s.cur.core g o.d.val ∨ rowKeyOf s.cur.core g (o.d.val + o.len.val) ≤ j → t.byteAt j = s.byteAt j)
    ∧ t.cores = s.cores ∧ t.ctxs = s.ctxs)

/-! ### Arithmetic -/

/-- R25 to R28, R32 to R35: a value that a type can hold is rounded to itself, in every mode, and raises no flag. -/
def Obligations.RepresentableValuesRoundToThemselves : Prop :=
  ∀ (t : ElemTy) (rm : RM) (x : Nat), x < 2 ^ t.valueBits → (t.decode x).isNan = false → t.round rm (t.decode x) = (x, 0)

/-- R134: the integer effects: each is the exact result, clamped once to the range of the type, and SAT tells that the clamp changed it. The
maximum, the minimum and an unsigned absolute value are never outside; VCLAMP clamps |y| by Sat first, in every type, and has the lower
bound 0 for U types. -/
def Obligations.IntegerSaturation : Prop :=
  ∀ (t : ElemTy) (rm : RM) (x y c : Nat) (k : Int), t.isInt = true → x < 2 ^ t.valueBits → y < 2 ^ t.valueBits → c < 2 ^ t.valueBits →
    let lo : Int := if t.isI then -(2 ^ (t.valueBits - 1) : Int) else 0
    let hi : Int := if t.isI then 2 ^ (t.valueBits - 1) - 1 else 2 ^ t.valueBits - 1
    let value := fun z : Nat => if t.isI ∧ 2 ^ (t.valueBits - 1) ≤ z then (z : Int) - 2 ^ t.valueBits else z
    let a := value x
    let b := value y
    let d := value c
    let Clamps := fun (f : VFn) (i : Int) => let r := elemOp f t rm x y c k
      r.1 < 2 ^ t.valueBits ∧ value r.1 = max lo (min hi i) ∧ (r.2 = if lo ≤ i ∧ i ≤ hi then 0 else Flags.sat)
    let Exact := fun (f : VFn) (i : Int) => let r := elemOp f t rm x y c k
      r.1 < 2 ^ t.valueBits ∧ value r.1 = i ∧ r.2 = 0
    Clamps .add (a + b) ∧ Clamps .sub (a - b) ∧ Clamps .mul (a * b) ∧ Clamps .fma (a * b + d) ∧ Clamps .fms (a * b - d)
    ∧ Exact .max (if a ≤ b then b else a) ∧ Exact .min (if a ≤ b then a else b)
    ∧ (t.isI → Clamps .abs |a|) ∧ (t.isI = false → Exact .abs a) ∧ Clamps .neg (-a)
    ∧ (let top : Int := 2 ^ (t.valueBits - 1) - 1
       let m := min top |b|
       let r := elemOp .clamp t rm x y c k
       r.1 < 2 ^ t.valueBits ∧ value r.1 = min (max a (if t.isI then -m else 0)) m
       ∧ (r.2 = if |b| ≤ top then 0 else Flags.sat))

/-- R42: S is formed in three channels with the moduli 4,095, 4,096 and 4,097, pairwise coprime, and put together with M divided by each
modulus and its inverse, modulo M, and made signed at M / 2; for at most 4,096 products of integers of magnitude at most 2,048 it is the exact
sum, whatever the order of the products. It is what the array forms for two lines of finite values (the exponent is R43's). -/
def Obligations.ResidueReconstruction : Prop :=
  (∀ a b : List Int,
    let res := fun (m : Int) => (List.zipWith (fun p q => p % m * (q % m)) a b).sum % m
    let bigM : Int := 4095 * 4096 * 4097
    let s := (res 4095 * 16781312 * 2048 + res 4096 * 16777215 * 4095 + res 4097 * 16773120 * 2049) % bigM
    residueSum a b = (if bigM / 2 < s then s - bigM else s)
    ∧ (a.length = b.length → a.length ≤ 4096 → (∀ q ∈ a, q.natAbs ≤ 2048) → (∀ q ∈ b, q.natAbs ≤ 2048) →
        residueSum a b = (List.zipWith (· * ·) a b).sum)
    ∧ ∀ a' b' : List Int, (a'.zip b').Perm (a.zip b) → residueSum a' b' = residueSum a b)
  ∧ (∀ a b : Line, a.nan = false → b.nan = false → (∀ v ∈ a.vals ++ b.vals, ∃ neg m e, v = .fin neg m e) →
      outputOf a b = .sum (residueSum a.q b.q) (a.e + b.e - 20))
  ∧ (4095 * 4096 * 4097 = 68719472640 ∧ Nat.Coprime 4095 4096 ∧ Nat.Coprime 4095 4097 ∧ Nat.Coprime 4096 4097
    ∧ 68719472640 / 4095 = 16781312 ∧ 68719472640 / 4096 = 16777215 ∧ 68719472640 / 4097 = 16773120
    ∧ 16781312 * 2048 % 4095 = 1 ∧ 16777215 * 4095 % 4096 = 1 ∧ 16773120 * 2049 % 4097 = 1)

/-! ### Vector memory, generators -/

/-- R157: Addr of an element: its coordinates by mixed radix from axis 0 up, and base plus the strides times the coordinates, in elements of
Wb bits, modulo 2^64.

R158: GLD and GST move a generator's 64 bytes, in the spaces 0x0 and 0x1 and on a 64-byte boundary; GSET writes one field, the last of them
96 bits wide (log 78).

R159: GADV moves the base by n strides of an axis, and in a block-scaled format SOFF by what keeps the scale bytes in step; an invalid
generator is an illegal instruction, a step that is no whole byte (or on the block axis no whole block) an alignment fault. -/
def Obligations.Generators : Prop :=
  (∀ (g : Gen) (n0 n1 n2 n3 : Nat) (t0 t1 t2 t3 : Int) (i j k l : Nat), g.sizes = [n0, n1, n2, n3] → g.strides = [t0, t1, t2, t3] →
    i < n0 → j < n1 → k < n2 → l < n3 →
    g.count = n0 * n1 * n2 * n3
    ∧ (g.wb % 8 = 0 → g.addr (i + n0 * (j + n1 * (k + n2 * l))) =
        (((g.base + (i * t0 + j * t1 + k * t2 + l * t3) * (g.wb / 8 : Nat)) % 2 ^ 64).toNat, 0))
    ∧ (g.wb = 4 → g.addr (i + n0 * (j + n1 * (k + n2 * l))) =
        (((g.base + (i * t0 + j * t1 + k * t2 + l * t3) / 2) % 2 ^ 64).toNat,
          ((i * t0 + j * t1 + k * t2 + l * t3) % 2).toNat)))
  ∧ (∀ (s s1 s2 : State) (g : Group) (k : Role) (r : GReg) (a : SReg) (x : Word) (bs : List Byte), Taken [a] [] s [x] s1 → Acts s1 g k →
    (2 ≤ x.toNat / 2 ^ 60 → Traps (.gld r a) s s1 0x05 x.toNat ∧ Traps (.gst r a) s s1 0x05 x.toNat)
    ∧ (x.toNat / 2 ^ 60 ≤ 1 → x.toNat % 64 ≠ 0 → Traps (.gld r a) s s1 0x04 x.toNat ∧ Traps (.gst r a) s s1 0x04 x.toNat)
    ∧ (x.toNat / 2 ^ 60 ≤ 1 → x.toNat % 64 = 0 → Runs (memReadBytes (s1.self g) x.toNat 64) s1 bs s2 → Acts s2 g k → s2.cur = s1.cur →
        Retires (.gld r a) s (s2.onGroup s2.cur.core s2.cur.slot fun y =>
          { y with gens := y.gens.set r.val (BitVec.ofNat 512 (leNat bs)) r.isLt }))
    ∧ (x.toNat / 2 ^ 60 ≤ 1 → x.toNat % 64 = 0 → NoAlias s1 g [(x.toNat, x.toNat + 63)] →
        Runs (memWriteBytes (s1.self g) x.toNat (leBytes 64 (g.gens.get r).toNat)) s1 () s2 → Retires (.gst r a) s s2)
    ∧ ∀ f : Fin 12, ∃ v : BitVec 512, Retires (.gset r a f) s (s1.onGroup s1.cur.core s1.cur.slot fun y =>
          { y with gens := y.gens.set r.val v r.isLt })
        ∧ ∀ lo n, (f.val = 0 ∧ lo = 0 ∧ n = 64 ∨ 1 ≤ f.val ∧ f.val ≤ 8 ∧ lo = 32 + 32 * f.val ∧ n = 32 ∨ f.val = 9 ∧ lo = 320 ∧ n = 64
              ∨ f.val = 10 ∧ lo = 384 ∧ n = 32 ∨ f.val = 11 ∧ lo = 416 ∧ n = 96) →
            ∀ j < 512, v.getLsbD j = if lo ≤ j ∧ j < lo + n then x.getLsbD (j - lo) else (g.gens.get r).getLsbD j)
  ∧ (∀ (s s1 : State) (g : Group) (k : Role) (r : GReg) (a : SReg) (ax : Fin 4) (x : Word) (w : Gen) (bits : Int), Taken [a] [] s [x] s1 →
    Acts s1 g k → w = Walk4.ofBits (g.gens.get r) → bits = x.toInt * w.stride ax.val * w.wb →
    (w.valid = false → Traps (.gadv r a ax) s s1 0x01 0)
    ∧ (w.valid = true → bits % 8 ≠ 0 → Traps (.gadv r a ax) s s1 0x04 w.base)
    ∧ (w.valid = true → bits % 8 = 0 → w.scaled = true → ax.val = w.baxis → x.toInt % 8 ≠ 0 → Traps (.gadv r a ax) s s1 0x04 w.base)
    ∧ (w.valid = true → bits % 8 = 0 → (w.scaled = true → ax.val = w.baxis → x.toInt % 8 = 0) →
        ∃ v : BitVec 512, Retires (.gadv r a ax) s (s1.onGroup s1.cur.core s1.cur.slot fun y =>
            { y with gens := y.gens.set r.val v r.isLt })
          ∧ (Walk4.ofBits v).base = ((w.base + bits / 8) % 2 ^ 64).toNat ∧ (Walk4.ofBits v).sizes = w.sizes
          ∧ (Walk4.ofBits v).strides = w.strides
          ∧ (w.scaled = false → (Walk4.ofBits v).soff = w.soff)
          ∧ (w.scaled = true → ax.val = w.baxis → (Walk4.ofBits v).soff = (w.soff + x.toInt / 8 - bits / 8).bmod (2 ^ 64))
          ∧ (w.scaled = true → ax.val ≠ w.baxis →
              (Walk4.ofBits v).soff = (w.soff + x.toInt * sizesBelow w ax.val * w.sstride - bits / 8).bmod (2 ^ 64))))

/-- R147 to R150: vector loads and stores through a generator. Element numbers are formed modulo 2^64 and read as signed, and a fault is that of the lowest
element (DEDUCED, log 78). The checks of the elements pass, the registers are quiet, and the named
reads or writes of the elements succeed; an element outside the walk raises the space fault with the generator's base.

R150 to R152: gather, scatter, and the bitmask and values forms. The sum of R150 is formed modulo 2^64 and read as signed (DEDUCED, log 78). -/
def Obligations.VectorMemory : Prop :=
  (∀ (o : VMOp) (s s1 s2 s3 : State) (g g1 : Group) (k k1 : Role) (x : Word) (w : Gen) (e0 : Int) (n : Nat) (es : List Int) (xs : List Nat),
    Acts s g k → RowsFit g [(o.d.val, o.len.val)] → Taken [o.a] [] s [x] s1 → Acts s1 g1 k1 → w = Walk4.ofBits (g1.gens.get o.g) →
    w.valid = true → e0 = (x + o.imm.signExtend 64).toInt → n = vmActive g1 o → es = (List.range n).map (fun i => e0 + Int.ofNat i) →
    let plain := w.code = o.ty.code ∨ o.ty = .i8 ∧ w.code = 13 ∨ o.ty = .e2m1 ∧ w.code = 14
    let scaled := 16 ≤ w.code ∧ w.code ≤ 19
    let Ready := Runs (checkElems w es) s1 () s1 ∧ RowsQuiet s1 g1 [(o.d.val, o.len.val)]
    (plain → (∃ e ∈ es, e < 0 ∨ (w.count : Int) ≤ e) → Traps (.vld o) s s1 0x05 w.base ∧ Traps (.vst o) s s1 0x05 w.base)
    ∧ (plain → Ready → (w.wb = 4 → e0 % 2 = 0) →
        (Runs (es.mapM fun e => w.read (s1.self g1) e.toNat) s1 xs s2 →
          Runs (writeElems o.d.val 0 o.ty (xs.map (loadLane o.ty w.code))) s2 () s3 → Retires2 (.vld o) s s3)
        ∧ (∀ rs, rs = (s1.lanes g1 o.d.val n o.ty).map (storeLane o.ty w.code) → NoAlias s1 g1 (elemBytes w es) →
            Runs ((es.zip rs).forM fun p => w.write (s1.self g1) p.1.toNat p.2.1) s1 () s2 →
            Runs (reportVector o.d.val o.ty o.ty.code o.ty.code 0 rs) s2 () s3 → Retires2 (.vst o) s s3))
    ∧ (scaled → Ready → e0 % 8 = 0 →
        (∀ (vs : List Sys2Proof.Num) (rs : List (Nat × Flags)), Runs (es.mapM fun e => w.value (s1.self g1) e.toNat) s1 vs s2 →
          rs = vs.map (o.ty.round .rne) →
          Runs (do writeElems o.d.val 0 o.ty (rs.map Prod.fst); reportVector o.d.val o.ty w.code w.code 0 rs) s2 () s3 →
          Retires2 (.vlds o) s s3)
        ∧ (∀ items : List (Nat × Nat × Sys2Proof.Num), items = ((es.zip (s1.lanes g1 o.d.val n o.ty)).zipIdx.map fun p =>
              (p.1.1.toNat, p.2, o.ty.decode p.1.2)) →
            NoAlias s1 g1 (elemBytes w es) → Acts s2 g1 k1 →
            Runs (storeScaled w (s1.self g1) .write (scaledElems w items)) s1 () s2 →
            ∃ f : Group → Group, Retires2 (.vsts o) s (s2.onGroup s2.cur.core s2.cur.slot f)
              ∧ (∀ y, (f y).gens = y.gens ∧ (f y).roles = y.roles ∧ (f y).preds = y.preds ∧ (f y).tile = y.tile))))
  ∧ (∀ (o : VMOp) (s s1 s2 s3 : State) (g g1 : Group) (k k1 : Role) (x : Word) (w : Gen) (n : Nat) (es : List Int) (xs : List Nat),
    Acts s g k → Taken [o.a] [] s [x] s1 → Acts s1 g1 k1 → w = Walk4.ofBits (g1.gens.get o.g) → w.valid = true → n = vmActive g1 o →
    (RowsFit g (gathRows o) → RowsQuiet s1 g1 (gathRows o) → w.code = o.ty.code →
      es = ((s1.lanes g1 (o.imm.toNat % 2048) n .i32).map fun i => (x + (BitVec.ofNat 32 i).signExtend 64).toInt) →
      Runs (checkElems w es) s1 () s1 →
      (Runs (es.mapM fun e => w.read (s1.self g1) e.toNat) s1 xs s2 →
        Runs (writeElems o.d.val 0 o.ty (xs.map fun v => v % 2 ^ o.ty.valueBits)) s2 () s3 → Retires2 (.vgath o) s s3)
      ∧ (NoAlias s1 g1 (elemBytes w es) →
          Runs ((es.zip (s1.lanes g1 o.d.val n o.ty)).forM fun p => w.write (s1.self g1) p.1.toNat (p.2 % 2 ^ o.ty.valueBits)) s1 () s2 →
          Retires2 (.vscat o) s s2))
    ∧ (∀ p : Nat, RowsFit g [(o.d.val, o.len.val)] → p = (w.base + x.toNat) % 2 ^ 64 → p / 2 ^ 60 ≤ 1 → p % 8 = 0 →
        RowsQuiet s1 g1 [(o.d.val, o.len.val)] →
        (n = 0 → Retires2 (.vpack o) s s1)
        ∧ (∀ nz total, 0 < n → xs = (s1.lanes g1 o.d.val n o.ty).map (fun v => v % 2 ^ o.ty.valueBits) →
            nz = xs.filter (· != 0) → total = 8 + 8 * ((n + 63) / 64) + nz.length * o.ty.laneBytes →
            (o.imm.toNat < total → Traps (.vpack o) s s1 0x0A p)
            ∧ (total ≤ o.imm.toNat → NoAlias s1 g1 [(p, p + total - 1)] →
                Runs (writeRun (s1.self g1) p (leBytes 2 n ++ leBytes 2 nz.length ++ leBytes 4 total ++ leBytes (8 * ((n + 63) / 64)) (maskOf xs)
                  ++ nz.flatMap (leBytes o.ty.laneBytes))) s1 () s2 → Retires2 (.vpack o) s s2)))
    ∧ (∀ (p : Nat) (h body : List Byte) (s4 : State) (g2 : Group) (k2 : Role), RowsFit g [(o.d.val, o.len.val)] →
        p = (w.base + x.toNat) % 2 ^ 64 → p / 2 ^ 60 ≤ 1 → p % 8 = 0 → Runs (readRun (s1.self g1) p 8) s1 h s2 →
        let m := leNat (h.take 2)
        let zc := leNat ((h.drop 2).take 2)
        let total := leNat (h.drop 4)
        (m = 0 ∨ vmLen o < m ∨ total ≠ 8 + 8 * ((m + 63) / 64) + zc * o.ty.laneBytes ∨ o.imm.toNat < total → Traps (.vunpk o) s s1 0x0A p)
        ∧ (1 ≤ m → m ≤ vmLen o → total = 8 + 8 * ((m + 63) / 64) + zc * o.ty.laneBytes → total ≤ o.imm.toNat →
            Runs (readRun (s1.self g1) (p + 8) (total - 8)) s2 body s3 → Acts s3 g2 k2 → RowsQuiet s3 g2 [(o.d.val, o.len.val)] →
            let mask := leNat (body.take (8 * ((m + 63) / 64)))
            onesOf m mask = zc → mask < 2 ^ m →
            Runs (writeElems o.d.val 0 o.ty (((unpack m mask (lanesOf o.ty.laneBytes zc (body.drop (8 * ((m + 63) / 64))))
              ++ List.replicate (vmLen o - m) 0).take (vmActive g2 o)).map fun v => v % 2 ^ o.ty.valueBits)) s3 () s4 →
            Retires2 (.vunpk o) s s4)))

/-! ### Queues and barriers -/

/-- R296 to R298: QLEN, QPEEK, QTRY and QPUSHT at a role queue that the role may use, and QBIND. QPEEK waits at an empty queue; QTRY answers 0
there and leaves d alone; QPUSHT answers 0 at a full one, and where it pushes waits for the role's matrix results first.

R297, R299, R292: QBIND sets the binding of a port p0 to p3 to a live queue in whose scope the core lies, QCREATE makes a queue from a
valid header live, QDEL writes the header back and ends it; the answers 0 to 3 tell what kept them from it. -/
def Obligations.Queues : Prop :=
  (∀ (s s1 s2 s3 : State) (g : Group) (k : Role) (d a : SReg) (n : Fin 4) (p : PortName) (x : Word), Acts s g k → d.isPort = false →
    a.isPort = false → p.val = 4 + n.val →
    let q := g.roleq.get n
    (consumer n.val = s.cur.role ∨ producer n.val = s.cur.role →
      Gives d (BitVec.ofNat 64 q.length) s s1 → Retires (.qlen d p) s s1)
    ∧ (consumer n.val = s.cur.role →
        (q = [] → exec (.qpeek d p) s = .next (s.noteWait [] [d]) ∧ (Gives a 0 s s1 → Retires (.qtry d a p) s s1))
        ∧ ∀ v rest, q = v :: rest →
            (Gives d v s s1 → Retires (.qpeek d p) s s1)
            ∧ (s1 = (s.onGroup s.cur.core s.cur.slot fun y =>
                  { y with roleq := y.roleq.set n.val rest n.isLt, roleqMoved := y.roleqMoved.set n.val s.cycle.toNat n.isLt }) →
                Gives d v s1 s2 → Gives a 1 s2 s3 → Retires (.qtry d a p) s s3))
    ∧ (consumer n.val ≠ s.cur.role → Traps (.qpeek d p) s s 0x0D (60 + n.val) ∧ Traps (.qtry d a p) s s 0x0D (60 + n.val))
    ∧ (producer n.val ≠ s.cur.role → Traps (.qpusht d a p) s s 0x0D (60 + n.val))
    ∧ (producer n.val = s.cur.role → Taken [a] [d] s [x] s →
        (16 ≤ q.length → Gives d 0 s s1 → Retires (.qpusht d a p) s s1)
        ∧ (q.length < 16 →
            (s.resultsPending s.cur = true → exec (.qpusht d a p) s = .next (s.noteWait [a] [d]))
            ∧ (s.resultsPending s.cur = false → s1 = (s.onGroup s.cur.core s.cur.slot fun y =>
                  { y with roleq := y.roleq.set n.val (q ++ [x]) n.isLt, roleqMoved := y.roleqMoved.set n.val s.cycle.toNat n.isLt }) →
                Gives d 1 s1 s2 → Retires (.qpusht d a p) s s2))))
  ∧ (∀ (s s1 s2 s3 s4 : State) (g : Group) (k : Role) (d a : SReg) (p : Fin 4) (push : Bool) (x : Word) (va : Nat) (h : List Byte)
    (b : BindQ), Taken [a] [d] s [x] s1 → Acts s1 g k → va = x.toNat % 2 ^ 55 →
    let live := (s1.ctx g.ctx).bindq va
    let left := s1.leaveQueues g.ctx s1.cycle.toNat [k.ports.get p]
    (Gives d 1 (left.onRole s1.cur fun y => { y with ports := y.ports.set p.val .unbound p.isLt }) s2 → Retires (.qbind d a p push true) s s2)
    ∧ (x.toNat / 2 ^ 55 ≠ 0x80 ∨ x.toNat % 64 ≠ 0 →
        Traps (.qbind d a p push false) s s1 0x05 x.toNat ∧ Traps (.qcreate d a) s s1 0x05 x.toNat ∧ Traps (.qdel d a) s s1 0x05 x.toNat)
    ∧ (x.toNat / 2 ^ 55 = 0x80 → x.toNat % 64 = 0 →
        (live = none → Gives d 0 s1 s2 → Retires (.qbind d a p push false) s s2)
        ∧ (live = some b → inInstance b.scope b.home s1.cur.core = false → Gives d 2 s1 s2 → Retires (.qbind d a p push false) s s2)
        ∧ (live = some b → inInstance b.scope b.home s1.cur.core = true →
            Gives d 1 (left.onRole s1.cur fun y => { y with ports := y.ports.set p.val (.bound b.va push) p.isLt }) s2 →
            Retires (.qbind d a p push false) s s2)
        ∧ (Runs (memReadBytes (s1.self g).part va 64 .queue) s1 h s2 →
            let now := s2.ctx g.ctx
            (∀ c, now.bindq va = some c → Gives d 2 s2 s3 → Retires (.qcreate d a) s s3)
            ∧ (now.bindq va = none → parseBindq va s1.cur.core h = none → Gives d 3 s2 s3 → Retires (.qcreate d a) s s3)
            ∧ (now.bindq va = none → parseBindq va s1.cur.core h = some b → 64 ≤ now.bindqs.length → Gives d 0 s2 s3 →
                Retires (.qcreate d a) s s3)
            ∧ (now.bindq va = none → parseBindq va s1.cur.core h = some b → now.bindqs.length < 64 →
                Gives d 1 (s2.onCtx g.ctx fun c => { c with bindqs := c.bindqs ++ [b] }) s3 → Retires (.qcreate d a) s s3)
            ∧ (now.bindq va = none → Gives d 0 s2 s3 → Retires (.qdel d a) s s3)
            ∧ (now.bindq va = some b →
                ((s2.groupsOf g.ctx).any fun y => y.2.2.roles.toList.any fun z => z.boundTo va none) = true → Gives d 2 s2 s3 →
                Retires (.qdel d a) s s3)
            ∧ (now.bindq va = some b →
                ((s2.groupsOf g.ctx).any fun y => y.2.2.roles.toList.any fun z => z.boundTo va none) = false →
                Runs (bindqBack (s1.self g) b) s2 () s3 →
                Gives d 1 (s3.onCtx g.ctx fun c => { c with bindqs := c.bindqs.filter fun y => y.va != va }) s4 → Retires (.qdel d a) s s4))))

/-- R311 to R315, R318: the barrier of an identifier that the checks accept. BARR arrives once the role's matrix results are written (R317), the last arrival of a phase ending it; BWAIT waits for
the end of a phase; BTEST tells it; BSYNC arrives once and waits; BINIT starts a barrier in a slot that the group owns, with the next
generation. -/
def Obligations.BarrierResult : Prop :=
  ∀ (s s1 s2 : State) (g : Group) (k : Role) (d a b : SReg) (x y : Word) (bar : Barrier), Acts s1 g k →
    let id := x.toNat
    let at_ := fun (v : Barrier) => s1.onCore (barHome id) fun c => { c with bars := c.bars.set (barSlot id).val v (barSlot id).isLt }
    let after := if bar.arrived + 1 = bar.count then { bar with arrived := 0, phase := bar.phase + 1 } else { bar with arrived := bar.arrived + 1 }
    let past := fun (t : BitVec 32) => 1 ≤ (bar.phase - t).toNat ∧ (bar.phase - t).toNat < 2 ^ 31
    (Runs (checkBar id) s1 bar s1 →
      (Taken [a] [d] s [x] s1 → s1.resultsPending s1.cur = false → Gives d (bar.phase.zeroExtend 64) (at_ after) s2 →
        Retires (.barr d a) s s2)
      ∧ (Taken [a] [d] s [x] s1 → s1.resultsPending s1.cur = true → exec (.barr d a) s = .next (s.noteWait [a] [d]))
      ∧ (Taken [a] [d] s [x] s1 → (∀ z, s.role s.cur = some z → z.pendingBar = none) → s1.resultsPending s1.cur = false →
          bar.arrived + 1 = bar.count → Gives d (bar.phase.zeroExtend 64) (at_ after) s2 → Retires (.bsync d a) s s2)
      ∧ (Taken [a] [d] s [x] s1 → (∀ z, s.role s.cur = some z → z.pendingBar = none) → s1.resultsPending s1.cur = false →
          bar.arrived + 1 ≠ bar.count → exec (.bsync d a) s = .next ((at_ after).onRole s1.cur fun z => { z with pendingBar := some bar.phase }))
      ∧ (∀ t, Taken [a] [d] s [x] s1 → (∃ z, s.role s.cur = some z ∧ z.pendingBar = some t) → past t →
          Gives d (t.zeroExtend 64) (s1.onRole s1.cur fun z => { z with pendingBar := none }) s2 → Retires (.bsync d a) s s2)
      ∧ (Taken [a, b] [d] s [x, y] s1 →
          (past (y.truncate 32) → Gives d (bar.phase.zeroExtend 64) s1 s2 → Retires (.bwait d a b) s s2)
          ∧ (¬ past (y.truncate 32) → exec (.bwait d a b) s = .next (s.noteWait [a, b] [d]))
          ∧ (Gives d (if past (y.truncate 32) then 1 else 0) s1 s2 → Retires (.btest d a b) s s2)))
    ∧ (Taken [a, b] [d] s [x, y] s1 → ∀ p : Nat, g.bars[x.toNat]? = some p → y.toNat < 2 ^ 19 → y.toNat % 2 ^ 16 ≠ 0 →
        y.toNat / 2 ^ 16 % 8 ≤ 3 → ∀ nb : Barrier,
          nb = ⟨(s1.bar s1.cur.core (Fin.ofNat 16 p)).gen + 1, y.toNat % 2 ^ 16, y.toNat / 2 ^ 16, 0, 0⟩ →
          Gives d (BitVec.ofNat 64 (p % 16 + s1.cur.core.val * 2 ^ 4 + nb.scope * 2 ^ 11 + g.ctx.val * 2 ^ 14 + nb.gen.toNat * 2 ^ 18))
            (s1.onCore s1.cur.core fun c => { c with bars := c.bars.set (p % 16) nb (Nat.mod_lt _ (by decide)) }) s2 →
          Retires (.binit d a b) s s2)

/-- R301 to R304: NQPOST of a record takes LOCK, puts the record and the poster's number at TAIL, moves TAIL on, releases LOCK and answers the new
TAIL; it waits while the queue is full or another processor holds LOCK. NQPOP answers 0 at an empty queue, where NQWAIT waits; a record is taken under
LOCK and goes to r, HEAD moves on, and the answer is its position plus one. LOCK is taken and released in one step, and a LOCK that holds this
processor's own number plus one lets the operation go on (DEDUCED, log 74). -/
def Obligations.NotifyQueueResult : Prop :=
  ∀ (s s1 s2 s3 s4 s5 s6 s7 s8 s9 t u : State) (g g1 : Group) (k k1 : Role) (d a b : SReg) (x y : Word) (n : NotifyQ) (bs : List Byte),
    Taken [a, b] [d] s [x, y] s1 → Acts s1 g k → Runs (openNotify (s1.self g) x.toNat y.toNat) s1 n s2 → Acts s2 g k → s2.cur = s1.cur →
    let p := (s1.self g).part
    (Runs (checkRing (s1.self g) n n.tail) s2 () s3 → Runs (memReadBytes (s1.self g) y.toNat 64) s3 bs s4 → Acts s4 g1 k1 →
      (n.cap ≤ n.tail - n.head ∨ s4.resultsPending s4.cur = true ∨ (n.lock ≠ 0 ∧ n.lock ≠ s4.encProc.toNat + 1) →
        exec (.nqpost d a b) s = .next (s.noteWait [a, b] [d]))
      ∧ (n.tail - n.head < n.cap → s4.resultsPending s4.cur = false → (n.lock = 0 ∨ n.lock = s4.encProc.toNat + 1) →
          Runs (memWriteNat p n.va 8 (s4.encProc.toNat + 1) .atomic) s4 () s5 →
          Runs (memWriteBytes p (n.base + 64 * (n.tail % n.cap)) bs .atomic) s5 () s6 →
          Runs (memWriteNat p (n.base + 64 * n.cap + 2 * (n.tail % n.cap)) 2 s4.encProc.toNat .atomic) s6 () s7 →
          Runs (memWriteNat p (n.va + 16) 8 (n.tail + 1) .atomic) s7 () s8 → Runs (memWriteNat p n.va 8 0 .atomic) s8 () s9 →
          Gives d (BitVec.ofNat 64 (n.tail + 1)) s9 t → Retires (.nqpost d a b) s t))
    ∧ (k.heldRec = none → (s2.ctx g.ctx).desc.replay = false →
        (n.head = n.tail → (Gives d 0 s2 s3 → Retires (.nqpop d a b) s s3) ∧ exec (.nqwait d a b) s = .next (s.noteWait [a, b] [d]))
        ∧ (n.head ≠ n.tail → Runs (checkRing (s1.self g) n n.head) s2 () s3 →
            (n.lock ≠ 0 → n.lock ≠ s3.encProc.toNat + 1 → exec (.nqpop d a b) s = .next (s.noteWait [a, b] [d])
              ∧ exec (.nqwait d a b) s = .next (s.noteWait [a, b] [d]))
            ∧ ((n.lock = 0 ∨ n.lock = s3.encProc.toNat + 1) → ∀ (pl : Place) (rcd : List Byte × Bool) (q : Nat),
                Runs (memWriteNat p n.va 8 (s3.encProc.toNat + 1) .atomic) s3 () s4 →
                Runs (resolve p (n.base + 64 * (n.head % n.cap)) 64 .atomic) s4 pl s5 →
                Runs (readPlace (n.base + 64 * (n.head % n.cap)) 64 pl) s5 rcd s6 →
                Runs (memReadNat p (n.base + 64 * n.cap + 2 * (n.head % n.cap)) 2 .atomic) s6 q s7 →
                Runs (memWriteNat p (n.va + 8) 8 (n.head + 1) .atomic) s7 () s8 → Runs (memWriteNat p n.va 8 0 .atomic) s8 () s9 →
                Runs (acquireRoot .enclosure n.va) s9 () t → (t.ctx g.ctx).desc.replay = false →
                Runs (do logAppend g.ctx 2 (some s1.cur.core) x.toNat (q + n.head * 2 ^ 16); putRecord d y.toNat rcd.1 (n.head + 1) rcd.2) t () u →
                Retires (.nqpop d a b) s u ∧ Retires (.nqwait d a b) s u)))

/-! ### Matrix instructions -/

/-- R164 to R166: MMA and MMAS, the shape of their operands accepted, their rows allocated, wait while four instructions stand between issue and
result, and else enter the array with what each output position adds; MMAS counts the old tile as zero.

R161, R164: a B descriptor that is none, an A generator that is invalid or no matrix format, K different from the first size of the
generator, more than 128 rows, or an integer accumulator with other than integer operands make MMA an illegal instruction.

R167: MMAC. The own part and the three partners' parts pass their checks and agree, every array has room, and the operands of all four are
read: the four parts issue together. Four that disagree are an illegal instruction for all, poison in a part is a fault of all, taken in the order of
the cores; a partner that has ended or been killed is illegal flow, and one that has left its slot otherwise makes the MMAC wait. That bitmap bases are
compared between the parts that have MA = 1 only is DEDUCED (log 82). -/
def Obligations.MatrixInstructions : Prop :=
  (∀ (s s1 s2 : State) (g : Group) (k : Role) (o : XOp) (x : Word) (src : ArrSource) (sh : MmaShape) (outs : List OutVal × Bool),
    Taken [o.s] [] s [x] s1 → Acts s1 g k →
    src = ⟨s1.cur.core, s1.cur.slot, g.ctx, g.rows, g.gens.get o.ga, g.gens.get o.gb⟩ →
    Runs (mmaShape src o x.toNat 128) s1 sh s1 → o.d.val + sh.m * ((sh.b.n + 63) / 64) ≤ g.rows → Runs (mmaOuts src sh o 0 sh.m) s1 outs s2 →
    (4 ≤ (s2.core s1.cur.core).array.length →
      exec (.mma o) s = .next (s.noteWait [o.s] []) ∧ exec (.mmas o) s = .next (s.noteWait [o.s] []))
    ∧ ((s2.core s1.cur.core).array.length < 4 → ∀ fresh : Bool,
        Retires2 (if fresh then .mmas o else .mma o) s (s2.onCore s1.cur.core fun c =>
          { c with array := c.array ++ [⟨s1.cur.slot, g.order, s1.cur.role, k.pc, o.d.val, sh.m, sh.b.n, o.i32acc, fresh, o.rm, sh.g.code,
            sh.b.fmt.code, outs.1, outs.2, 0, 0, none⟩] })))
  ∧ (∀ (s s1 : State) (g : Group) (k : Role) (o : XOp) (x : Word) (w : Gen), Taken [o.s] [] s [x] s1 → Acts s1 g k →
    w = Walk4.ofBits (g.gens.get o.ga) →
    (w.valid = false ∨ matrixFmt w.code = false ∨ BOperand.ofWord x.toNat o.mb = none
      ∨ (∃ b, BOperand.ofWord x.toNat o.mb = some b ∧ (w.size 0 ≠ b.k ∨ 128 < w.size 1 ∨ w.size 2 ≠ 1 ∨ w.size 3 ≠ 1
          ∨ (w.scaled = true ∧ w.baxis ≠ 0) ∨ (o.i32acc = true ∧ (intInput w.fmt = false ∨ intInput b.fmt = false))))) →
    Traps (.mma o) s s1 0x01 0 ∧ Traps (.mmas o) s s1 0x01 0)
  ∧ (∀ (s s1 s2 s3 s4 s5 : State) (g : Group) (k : Role) (o : XOp) (x : Word) (own : MmacSide) (sides : List MmacSide)
    (outs : List (List OutVal × Bool)), Taken [o.s] [] s [x] s1 → Acts s1 g k → Runs (mmacSide o x.toNat) s1 own s2 → Acts s2 g k → s2.cur = s1.cur →
    let part := fun q => if q = s2.cur.core.val % 4 then pure own else mmacPartner s2.cur g q
    let all := fun (u : State) (t : Trap) => sides.foldl (fun v y => v.takeFault y.id t (((v.role y.id).map Role.pc).getD 0) false) u
    (g.mateGone = true → Traps (.mmac o) s s2 0x15 0)
    ∧ (∀ q < 4, ∀ before s3, g.mateGone = false → q ≠ s2.cur.core.val % 4 → Runs ((List.range q).mapM part) s2 before s3 →
        partner s3 s2.cur.core g q = none → exec (.mmac o) s = .next (s.noteWait [o.s] []))
    ∧ (g.mateGone = false → Runs ((List.range 4).mapM part) s2 sides s3 →
    (∀ y ∈ sides, (s3.core y.id.core).array.length < 4) →
    (mmacAgree sides = true → Runs (sides.mapM fun y => mmaOuts y.src y.shape y.op (128 * (y.id.core.val % 4 / 2)) y.rows) s3 outs s4 →
      Runs ((sides.zip outs).forM (mmacIssue s2.cur)) s4 () s5 → Retires2 (.mmac o) s s5)
    ∧ (∀ (rs : List (Except Trap (List OutVal × Bool))) (t : Trap), mmacAgree sides = true →
        Runs (sides.mapM fun y => attempt (mmaOuts y.src y.shape y.op (128 * (y.id.core.val % 4 / 2)) y.rows)) s3 rs s4 → sharedPoison rs = some t →
        exec (.mmac o) s = .next (all s4 t))
    ∧ (mmacAgree sides = false → exec (.mmac o) s = .next (all s3 { code := 0x01, va := 0 }))))

/-- R166, R171, R172: the oldest instruction of the array writes its rows and flags, and the results of a group that has left its slot are
discarded.

R163, R164: a row of a tile: each of its lanes is updated by what its output position adds. -/
def Obligations.MatrixResults : Prop :=
  (∀ (s : State) (c : CoreId) (e : ArrEntry) (rest : List ArrEntry), (s.core c).array = e :: rest → e.copy = none →
    let popped := s.onCore c fun x => { x with array := rest }
    ((∀ g, s.group c e.slot = some g → g.order ≠ e.order) → exec (.matrixResultStage c) s = .next popped)
    ∧ (∀ g, s.group c e.slot = some g → g.order = e.order → exec (.matrixResultStage c) s =
        .next (applyRows c e e.m 0 e.outs (popped.onGroup c e.slot fun g => g.raise (if e.nx then Flags.nx else 0)))))
  ∧ (∀ (s : State) (c : CoreId) (e : ArrEntry) (g : Group) (i f : Nat) (outs : List OutVal) (old : List Nat), s.group c e.slot = some g → s.MemOk →
    (∀ q ∈ s.poison, q < rowKeyOf c g (e.d + i * ((e.n + 63) / 64)) / 64 ∨ (rowKeyOf c g (e.d + i * ((e.n + 63) / 64)) + 4 * e.n) / 64 < q) →
    e.n ≤ outs.length → f = 1 → old = lanesOf 4 e.n (s.bytesAt (rowKeyOf c g (e.d + i * ((e.n + 63) / 64))) (4 * e.n)) →
    ∀ j < e.n, leNat ((applyRows c e f i outs s).bytesAt (rowKeyOf c g (e.d + i * ((e.n + 63) / 64)) + 4 * j) 4)
      = (accumulate e.i32 e.rm (if e.fresh then 0 else old.getD j 0) (outs.getD j .nanLine)).1 % 2 ^ 32)

/-- R168 to R170: BLD fills the column areas of the weight stack; ZACC zeroes the registers from d to e; ACVT converts a tile of m rows and n
columns, all reads first, and an m or n of zero or beyond 128 and 192 is an illegal instruction. -/
def Obligations.TileRegisterInstructions : Prop :=
  ∀ (s s1 s2 : State) (g g1 : Group) (k k1 : Role) (o : XOp) (x : Word), Acts s g k → Acts s1 g1 k1 →
    (Taken [o.s] [] s [x] s1 → ∀ (w : Gen) (b : BOperand), Runs (bldShape s1.cur.core (g1.gens.get o.ga) o x.toNat) s1 (w, b) s1 →
      (∀ j < b.n, s1.boardHits (s1.self g1) (columnPtr s1.cur.core o.slab.val j) b.cb = false) →
      NoAlias s1 g1 (bldRanges s1.cur.core o.slab.val b) →
      Runs (bldRun (s1.self g1) s1.cur.core o.slab.val w b) s1 () s2 → Retires2 (.bld o) s s2)
    ∧ (Taken [] [] s [] s1 → o.d ≤ o.e → o.e.val < g.rows → RowsQuiet s1 g1 [(o.d.val, o.e.val + 1 - o.d.val)] →
        Retires2 (.zacc o) s (s1.chipWrite (rowKeyOf s1.cur.core g1 o.d.val) (List.replicate ((o.e.val + 1 - o.d.val) * 256) 0)))
    ∧ (Taken [o.s] [] s [x] s1 →
        let m := x.toNat % 2 ^ 8
        let n := x.toNat / 2 ^ 8 % 2 ^ 8
        (2 ^ 16 ≤ x.toNat ∨ m = 0 ∨ 128 < m ∨ n = 0 ∨ 192 < n → Traps (.acvt o) s s1 0x01 0)
        ∧ (x.toNat < 2 ^ 16 → 1 ≤ m → m ≤ 128 → 1 ≤ n → n ≤ 192 → ∀ (r2 : Nat) (src : ElemTy) (rs : List (List (Nat × Flags))),
            r2 = (n * o.ty.laneBits + 2047) / 2048 → src = (if o.i32acc then .i32 else .f32) →
            RowsFit g1 [(o.e.val, m * ((n + 63) / 64)), (o.d.val, m * r2)] → RowsQuiet s1 g1 [(o.e.val, m * ((n + 63) / 64)), (o.d.val, m * r2)] →
            rs = (List.range m).map (fun i => (s1.lanes g1 (o.e.val + i * ((n + 63) / 64)) n src).map (convertElem src o.ty o.rm)) →
            Runs (((List.range m).zip rs).forM fun p => writeElems (o.d.val + p.1 * r2) 0 o.ty (p.2.map Prod.fst)) s1 () s2 →
            s2.cur = s1.cur → ∃ f : Group → Group, Retires2 (.acvt o) s (s2.onGroup s2.cur.core s2.cur.slot f)
              ∧ ∀ y, (f y).flags = y.flags ||| allFlags rs.flatten))

/-! ### Tile instructions -/

/-- R199, R200: an appending instruction with sources of the types that it takes appends its node: operation code, function, type and
rounding mode, sources, and the spec that s names or the default of R181. A handle that names no node is an illegal instruction.

R174 to R176, R200: what appending a node does: the free node of the lowest number takes the record, with the next age, and the
destination handle names it; every other handle keeps its node. The node that the handle named before is freed where nothing else refers to it. -/
def Obligations.TileAppends : Prop :=
  (∀ (o : TOp) (s s1 s2 : State) (g : Group) (k : Role) (vs : List Word), Taken (if o.s = 0 then [] else [o.s]) [] s vs s1 → Acts s1 g k →
    let h : Home := { core := s1.cur.core, slot := s1.cur.slot }
    let rmOk := o.ty.isInt = true → o.rm = .rne
    let Adds := fun (op fn : Nat) (ty : ElemTy) (rm : RM) (srcs : List NodeSrc) (gather : Bool) (dflt : X Spec) (more : Spec → X Unit) =>
      Runs (appendNode o op fn ty rm srcs gather vs dflt more) s1 () s2
    let plain := fun (_ : Spec) => (pure () : X Unit)
    (∀ r w, o.x = .gen r → w = Walk4.ofBits (g.gens.get r) → copyFmt w.code = true → rmOk →
      Adds 0 0 o.ty o.rm [.gen (g.gens.get r), .none, .none] false (sameSpec (.gen (g.gens.get r)) [idMap, 0, 0]) plain → Retires2 (.tload o) s s2)
    ∧ (∀ x y fx fy, g.source o.x = some x → g.source o.y = some y → Runs (matSource x) s1 true s1 → Runs (matSource y) s1 true s1 →
        Runs (srcFmt h x) s1 fx s1 → Runs (srcFmt h y) s1 fy s1 → rmOk →
        (o.ty = .f32 ∨ o.ty = .bf16 ∨ o.ty = .f16 ∨ o.ty = .i32 ∧ intInput fx = true ∧ intInput fy = true) →
        Adds 1 0 o.ty o.rm [x, y, .none] false
          (do
            let sx ← srcExtents h x
            let sy ← srcExtents h y
            pure ⟨[co sy 1, co sx 1, co sx 0, co sx 3], [aMap, bMap, 0], 0⟩)
          (fun sp => do matRules sp x 0; matRules sp y 1) → Retires2 (.tmul o) s s2)
    ∧ (∀ hx n d, o.x = .handle hx → g.named hx = some (n, d) →
        let x := NodeSrc.node n
        (d.ty = o.ty → tewTyOk o.fn.toNat o.ty = true → rmOk →
          (tewBinary o.fn.toNat = false → tewTernary o.fn.toNat = false →
            Adds 2 o.fn.toNat o.ty o.rm [x, .none, .none] false (sameSpec x [idMap, 0, 0]) plain → Retires2 (.tew o) s s2)
          ∧ (∀ hy m e, o.y = .handle hy → g.named hy = some (m, e) → tewBinary o.fn.toNat = true →
              (if o.fn.toNat = 9 then e.ty.isI = true else e.ty = o.ty) →
              (tewTernary o.fn.toNat = false →
                Adds 2 o.fn.toNat o.ty o.rm [x, .node m, .none] false (sameSpec x [idMap, idMap, 0]) plain → Retires2 (.tew o) s s2)
              ∧ (∀ hz p f, o.z = .handle hz → g.named hz = some (p, f) → tewTernary o.fn.toNat = true → f.ty = o.ty →
                  Adds 2 o.fn.toNat o.ty o.rm [x, .node m, .node p] false (sameSpec x [idMap, idMap, idMap]) plain → Retires2 (.tew o) s s2)))
        ∧ (d.ty = o.ty → o.ty.isFIU = true → (o.rm ≠ .rne → o.fn.toNat = 0x1F ∧ o.ty.isF = true) →
            Adds 3 o.fn.toNat o.ty o.rm [x, .none, .none] false
              (do
                let sx ← srcExtents h x
                pure ⟨[1, co sx 1, co sx 0, co sx 3], [aMap, 0, 0], 0⟩) plain → Retires2 (.tred o) s s2)
        ∧ (rmOk → Adds 4 0 o.ty o.rm [x, .none, .none] false (sameSpec x [idMap, 0, 0]) plain → Retires2 (.tcvt o) s s2)
        ∧ (Adds 0 0 d.ty .rne [x, .none, .none] false (sameSpec x [idMap, 0, 0]) plain → Retires2 (.tview o) s s2)
        ∧ (∀ hy m e hz p f, o.y = .handle hy → g.named hy = some (m, e) → o.z = .handle hz → g.named hz = some (p, f) → d.ty = o.ty →
            e.ty = o.ty → Adds 5 0 o.ty .rne [x, .node m, .node p] false (sameSpec x [idMap, idMap, idMap]) plain → Retires2 (.tsel o) s s2)
        ∧ (∀ y, g.source o.y = some y → Runs (indexSource y) s1 true s1 → d.ty = o.ty → rmOk →
            Adds 0 0 o.ty o.rm [x, y, .none] true (fault 0x01 0) plain → Retires2 (.tgath o) s s2))
    ∧ (∀ r y w, o.x = .gen r → w = Walk4.ofBits (g.gens.get r) → g.source o.y = some y → Runs (indexSource y) s1 true s1 →
        copyFmt w.code = true → rmOk →
        Adds 0 0 o.ty o.rm [.gen (g.gens.get r), y, .none] true (fault 0x01 0) plain → Retires2 (.tgath o) s s2)
    ∧ (∀ hx, o.x = .handle hx → g.tile.handles.get hx = none →
        ∀ i ∈ [Instr.tmul o, .tew o, .tred o, .tcvt o, .tview o, .tgath o, .tsel o], Traps i s s1 0x01 0))
  ∧ (∀ (s : State) (g : Group) (k : Role) (hd : HReg) (n : Nat) (d : Node), Acts s g k → SMap.get g.tile.nodes n = none → d.boxes = [] →
    g.tile.appends < 2 ^ 32 - 1 →
    (n < 32 * g.nodeBlocks.length → (∀ j < n, SMap.get g.tile.nodes j ≠ none) →
      Runs (freeNode { core := s.cur.core, slot := s.cur.slot } 513) s n s)
    ∧ ∃ t g', Runs (enterNode { core := s.cur.core, slot := s.cur.slot } n hd d) s () t ∧ t.group s.cur.core s.cur.slot = some g'
      ∧ g'.tile.handles = g.tile.handles.set hd.val (some n) hd.isLt
      ∧ SMap.get g'.tile.nodes n = some { d with age := g.tile.appends } ∧ g'.tile.appends = g.tile.appends + 1
      ∧ g'.roles = g.roles ∧ g'.gens = g.gens ∧ g'.flags = g.flags ∧ t.mem = s.mem
      ∧ (∀ m, m ≠ n → SMap.get g.tile.nodes m ≠ none → (∃ r, r ≠ hd ∧ g.tile.handles.get r = some m) → SMap.get g'.tile.nodes m ≠ none)
      ∧ (∀ m, m ≠ n → g.tile.nodes.length ≤ 512 → g.tile.handles.get hd = some m → (∀ r, r ≠ hd → g.tile.handles.get r ≠ some m) →
          (∀ p ∈ g.tile.nodes, p.2.srcs.contains (.node m) = false) → d.srcs.contains (.node m) = false → SMap.get g'.tile.nodes m = none))

/-- R177, R185, R201 to R205: FORCE gives the tagged pointer of a materialized box and pins it; TST stores a node's elements through a
generator; TDROP empties a handle; TSTAT gives the words of R204; TPOL installs a policy word and gives the old one.

R182 to R184, R185, R186, R27: what a demand gives. The box that it answers has the demanded span, and stands among the node's. A box that is
computed holds, dense from its offset in the arena, what the node computes at each of its points. A source element is read at the mapped point; a copy rounds a
generator's value and carries a node's pattern, an elementwise node applies its effect, a reduction sums or takes the extreme along axis 2, a conversion
rounds, a select takes x or y, and a matmul of one chunk accumulates the output of the array and rounds it. -/
def Obligations.TileDemandsAndStatus : Prop :=
  (∀ (o : TOp) (s s1 s2 s3 s4 s5 s6 : State) (g : Group) (k : Role) (vs : List Word) (n : Nat) (d : Node) (b : Span4) (x : Box),
    Acts s1 g k →
    let h : Home := { core := s1.cur.core, slot := s1.cur.slot }
    (Taken (if o.s = 0 then [] else [o.s]) [o.t] s vs s1 → g.named o.h = some (n, d) → Runs (boxOperand o vs d) s1 b s2 →
      (d.boxes.find? (fun x => x.held && x.span == b) = some x ∧ s3 = s2
        ∨ d.boxes.find? (fun x => x.held && x.span == b) = none ∧ Runs (demand h n b) s2 x s3) →
      Runs (do
        onTile h fun t => t.pin o.h n x.seq
        if b = d.full && d.state != .full then onTile h fun t => t.makeFull n else pure ()) s3 () s4 →
      ∀ g4, s4.group h.core h.slot = some g4 →
        Gives o.t (BitVec.ofNat 64 (2 ^ 60 + h.core.val * 2 ^ 53 + g4.unitBase * 2 ^ 16 + x.off)) s4 s5 → Retires2 (.force o) s s5)
    ∧ (Taken (if o.s = 0 then [] else [o.s]) [] s vs s1 → g.named o.h = some (n, d) → Runs (boxOperand o vs d) s1 b s2 → Acts s2 g k →
        s2.cur = s1.cur →
        ∀ (r : GReg) (w : Gen) (xs : List Nat), o.x = .gen r → w = Walk4.ofBits (g.gens.get r) → w.valid = true → copyFmt w.code = true →
          w.count = volume b.ext → Runs (demand h n b) s2 x s3 → ∀ dn : Node, Runs (liveNode h n) s3 dn s3 →
          Runs ((List.range (volume b.ext)).mapM fun i => boxRead h dn x (plus b.org (unflat b.ext i))) s3 xs s4 →
          (∃ g4 k4, Acts s4 g4 k4 ∧ g4.ctx = g.ctx) → s4.cur = s1.cur → Runs (walkerTurn h) s4 () s4 →
          Runs (aliasCheck h [w.range]) s4 () s5 →
          s5.boardHits (s1.self g) w.range.1 (w.range.2 + 1 - w.range.1) = false →
          Runs (do writesInOrder (tstSteps (s1.self g) w d.ty o.rm xs); takeIds h) s5 () s6 →
          (w.code = d.ty.code → Retires2 (.tst o) s s6)
          ∧ (w.code ≠ d.ty.code → ∃ f : Group → Group, Retires2 (.tst o) s (s6.onGroup h.core h.slot f)
              ∧ ∀ y, (f y).roles = y.roles ∧ (f y).gens = y.gens ∧ (f y).tile = y.tile))
    ∧ (Taken [] [] s [] s1 → Retires2 (.tdrop o) s (s1.onGroup s1.cur.core s1.cur.slot fun y => { y with tile := y.tile.setHandle o.h none }))
    ∧ (Taken [] [o.t] s [] s1 →
        let Says := fun (f : Nat) (v : Word) => o.fn.toNat = f → Gives o.t v s1 s2 → Retires2 (.tstat o) s s2
        (g.tile.handles.get o.h = none → Says 0 0)
        ∧ (g.named o.h = some (n, d) → Says 0 (BitVec.ofNat 64 ((match d.state with | .pending => 1 | .partly => 2 | .full => 3) + n * 2 ^ 2
            + d.boxes.length * 2 ^ 11 + (if d.boxes.any fun b => !b.pins.isEmpty then 2 ^ 14 else 0)
            + (if d.boxes.any Box.held then 2 ^ 15 else 0) + d.age * 2 ^ 16)))
        ∧ Says 1 (BitVec.ofNat 64 (32 * g.nodeBlocks.length - g.tile.nodes.length)) ∧ Says 2 (BitVec.ofNat 64 (freeArena g))
        ∧ Says 3 g.tile.tableForces ∧ Says 4 g.tile.aliasForces ∧ Says 5 g.tile.evictions ∧ Says 6 g.tile.policy)
    ∧ (∀ p : Word, Taken [o.s] [o.t] s [p] s1 →
        let wb := p.toNat / 2 ^ 13 % 2 ^ 11
        let wn := 64 * (p.toNat / 2 ^ 24 % 8 + 1)
        (2 ^ 27 ≤ p.toNat ∨ p.toNat / 2 ^ 3 % 2 = 1 ∨ 16 < p.toNat / 2 ^ 4 % 16 + p.toNat / 2 ^ 8 % 32 → Traps (.tpol o) s s1 0x01 0)
        ∧ (p.toNat < 2 ^ 27 → p.toNat / 2 ^ 3 % 2 = 0 → p.toNat / 2 ^ 4 % 16 + p.toNat / 2 ^ 8 % 32 ≤ 16 →
            (g.rows < wb + wn → Traps (.tpol o) s s1 0x16 (max wb g.rows))
            ∧ (wb + wn ≤ g.rows → Runs (aliasCheck h (policySlabs s1.cur.core p.toNat)) s1 () s2 →
                Gives o.t g.tile.policy (s2.onGroup h.core h.slot fun y => { y with tile := { y.tile with policy := p } }) s3 →
                Retires2 (.tpol o) s s3))))
  ∧ ((∀ (h : Home) (n : Nat) (b : Span4) (x : Box) (s t : State), Runs (demand h n b) s x t →
    x.span = b ∧ ∃ d, Runs (liveNode h n) t d t ∧ x ∈ d.boxes)
  ∧ (∀ (h : Home) (n : Nat) (b : Span4) (used : List Nat) (x : Box) (s t : State), Runs (computeBox h n b used) s x t →
    x.span = b ∧ ∃ (d : Node) (g : Group) (ms : List Made) (w : Who) (s1 s2 s3 : State),
      Runs ((List.range (volume b.ext)).mapM fun i => computeElem h n d (plus b.org (unflat b.ext i))) s1 ms s2
      ∧ s2.group h.core h.slot = some g ∧ w = ⟨g.ctx, some h.core, some h.slot⟩
      ∧ Runs (writeRun w (2 ^ 60 + h.core.val * 2 ^ 53 + g.unitBase * 2 ^ 16 + x.off) (ms.flatMap fun m => leBytes d.ty.laneBytes m.bits)) s2 () s3)
  ∧ ∀ (h : Home) (n : Nat) (d : Node) (c : List Nat) (s s1 s2 s3 : State) (x y z : Nat × Option Nat) (xs : List Nat) (f : MemFmt) (w : Gen) (v sc : Nat),
      let p := (mapPoint (d.maps.getD 0 0) c).map Int.toNat
      let Makes := fun (r : Nat × Flags) (t : State) => ∃ m, Runs (computeElem h n d c) s m t ∧ m.bits = r.1 ∧ m.flags = r.2
      (∀ g, d.src 0 = .gen g → w = Walk4.ofBits g → mapGathers (d.maps.getD 0 0) = false → (∃ u, Runs (homeWho h) s u s ∧
          Runs (w.read u (flat w.sizes p)) s v s1 ∧ (w.scaled = true → Runs (w.readScale u (flat w.sizes p)) s1 sc s2)) →
        (w.scaled = false → Runs (srcAt h n d 0 c) s (v, none) s1) ∧ (w.scaled = true → Runs (srcAt h n d 0 c) s (v, some sc) s2))
      ∧ (∀ m, d.src 0 = .node m → mapGathers (d.maps.getD 0 0) = false → Runs (nodeElem h m p) s v s1 → Runs (srcAt h n d 0 c) s (v, none) s1)
      ∧ (Runs (srcAt h n d 0 c) s x s1 →
          (∀ g, d.op = 0 → d.src 0 = .gen g → Makes (d.ty.round d.rm (rawValue (Walk4.ofBits g).fmt x)) s1)
          ∧ (∀ m, d.op = 0 → d.src 0 = .node m → Makes (x.1 % 2 ^ d.ty.valueBits, 0) s1)
          ∧ (d.op = 4 → Runs (srcFmt h (d.src 0)) s1 f s1 → Makes (d.ty.round d.rm (f.decode x.1)) s1)
          ∧ (Runs (srcAt h n d 1 c) s1 y s2 → Runs (srcAt h n d 2 c) s2 z s3 →
              (d.op = 2 → Runs (srcFmt h (d.src 1)) s3 f s3 →
                Makes (elemOp (tewEffect d.fn) d.ty d.rm x.1 y.1 z.1 (BitVec.ofNat f.bits y.1).toInt) s3)
              ∧ (d.op = 5 → Runs (srcFmt h (d.src 2)) s3 f s3 →
                Makes ((if f.pattern z.1 = 0 then y.1 else x.1) % 2 ^ d.ty.valueBits, 0) s3)))
      ∧ (d.op = 3 → Runs ((List.range (co d.ext 2)).mapM fun k => do
            let x ← srcAt h n d 0 [co c 0, co c 1, k, co c 3]
            pure x.1) s xs s1 →
          Makes (if d.fn = 0x1F then sumOf d.ty d.rm xs else extremeOf (if d.fn = 0x20 then .max else .min) d.ty xs) s1)
      ∧ (∀ a b : Line, d.op = 1 → 1 ≤ co d.ext 2 → co d.ext 2 ≤ 4096 → Runs (matLine h n d 0 c 0 (co d.ext 2)) s a s1 →
          Runs (matLine h n d 1 c 0 (co d.ext 2)) s1 b s2 →
          let r := accumulate (d.ty == .i32) d.rm 0 (outputOf a b)
          let all := r.2 ||| (if a.nx = true ∨ b.nx = true then Flags.nx else 0)
          (d.ty = .f32 ∨ d.ty = .i32 → Makes (r.1, all) s2)
          ∧ (d.ty ≠ .f32 → d.ty ≠ .i32 → Makes ((convertElem .f32 d.ty d.rm r.1).1, all ||| (convertElem .f32 d.ty d.rm r.1).2) s2)))

/-! ### Transfers -/

/-- R327, R330, R333, R335: CPY, CPYT, CPYM and ENQ. A command that passes its checks and finds room takes the channel's next transfer ID, which
d receives, enters its queue and its two ranges on the scoreboard; where its queue or the scoreboard is full the instruction waits. -/
def Obligations.CopyEnqueue : Prop :=
  ∀ (o : EOp) (s s1 s2 s3 s4 : State) (g g3 : Group) (k k3 : Role) (c : CopyReq) (f : Option (Follow × List (Nat × Nat))) (x y : Word) (i : Instr) (bs : List Byte),
    Acts s1 g k →
    let regs := fun (kind time w14 w15 : Nat) =>
      (⟨kind, o.ch, time, Walk4.ofBits (g.gens.get o.gs), Walk4.ofBits (g.gens.get o.gd), o.fl.getLsbD 0, o.fl.getLsbD 1, o.fl.getLsbD 2,
        o.imm.toNat % 64, o.imm.toNat / 64, w14, w15, 0, 0⟩ : CopyReq)
    (i = .cpy o ∧ Taken [] [o.d] s [] s1 ∧ c = regs 0 0 0 0 ∧ s2 = s1
      ∨ i = .cpyt o ∧ Taken [o.a] [o.d] s [x] s1 ∧ c = regs 1 x.toNat 0 0 ∧ s2 = s1
      ∨ i = .cpym o ∧ Taken [o.b, o.c] [o.d] s [x, y] s1 ∧ c = regs 2 0 x.toNat y.toNat ∧ s2 = s1
      ∨ i = .enq o ∧ Taken [o.a] [o.d] s [x] s1 ∧ x.toNat / 2 ^ 60 ≤ 1 ∧ x.toNat % 128 = 0
          ∧ Runs (memReadBytes (s1.self g) x.toNat 128) s1 bs s2 ∧ parseCommand x.toNat bs = some c) →
    Acts s2 g k → s2.cur = s1.cur → Runs (copyChecks c) s2 f s3 → Acts s3 g3 k3 → s3.cur = s1.cur →
    let waits := ∃ srcs, (srcs = [] ∨ srcs = [o.a] ∨ srcs = [o.b, o.c]) ∧ exec i s = .next (s.noteWait srcs [o.d])
    let waiting := ((s3.core s1.cur.core).cmds.filter fun x => x.st == .queued && x.timed == (c.kind == 1)).length
    let full := (if c.kind = 1 then 64 else 32) ≤ waiting ∨ 62 < (s3.core s1.cur.core).board.length
    (full ∨ s3.resultsPending s3.cur = true → waits)
    ∧ (¬ full → s3.resultsPending s3.cur = false → NoAlias s3 g3 (c.dst.range :: f.elim [] Prod.snd) →
        let id := (s3.core s1.cur.core).nextId.get c.ch
        ∃ j : Cmd, j.kind = .copy ∧ j.ch = c.ch ∧ j.id = id ∧ j.seq = (s3.core s1.cur.core).cmdSeq ∧ j.slot = s1.cur.slot ∧ j.src = c.src
          ∧ j.dst = c.dst ∧ j.timed = (c.kind == 1) ∧ j.time = c.time ∧ j.follow = f.map Prod.fst ∧ j.st = .queued
          ∧ (Gives o.d (id.zeroExtend 64) (s3.onCore s1.cur.core fun z =>
              { z with cmds := z.cmds ++ [j], cmdSeq := z.cmdSeq + 1, nextId := z.nextId.set c.ch.val (id + 1) c.ch.isLt
                       board := z.board ++ [⟨s1.cur.slot, c.src.range.1, c.src.range.2, j.seq⟩, ⟨s1.cur.slot, c.dst.range.1, c.dst.range.2, j.seq⟩] })
              s4 → Retires2 i s s4))

/-- R337, R339 to R341: WAITID waits for a channel or for one transfer and gives the channel's last retired ID; TIDR gives the words of R340 and
clears the status word that it reads; PUBLISH waits for the group's copies and streams into the range and then makes the other backing visible.
Where WAITID or PUBLISH covers a transfer held as faulted, it raises the first such fault. -/
def Obligations.TransferWaits : Prop :=
  ∀ (o : EOp) (s s1 s2 : State) (g : Group) (k : Role) (x : Word), Acts s1 g k →
    let mine := fun (j : Cmd) => j.of s1.cur.slot g && j.ch == o.ch
    let held := fun (j : Cmd) => match j.st with
      | .faulted _ code va => some (code, va)
      | .queued | .reading _ _ _ | .writing _ _ _ | .following | .exchanging _ _ | .done => none
    let faulted := fun (j : Cmd) => (held j).isSome
    let first := fun (covers : Cmd → Bool) (code va : Nat) => ∃ l j m, (s1.core s1.cur.core).cmds = l ++ j :: m ∧ covers j = true
      ∧ held j = some (code, va) ∧ ∀ u ∈ l, covers u = true → held u = none
    (∀ code va, Taken [] [o.d] s [] s1 → o.a = 0 → first mine code va → (∃ y z, Acts s y z) → Traps (.waitid o) s s1 code va)
    ∧ (∀ code va, Taken [o.a] [o.d] s [x] s1 → o.a ≠ 0 →
        first (fun j => mine j && decide ((x.truncate 48 - j.id).toNat < 2 ^ 47)) code va → (∃ y z, Acts s y z) → Traps (.waitid o) s s1 code va)
    ∧ (Taken [] [o.d] s [] s1 → o.a = 0 →
      ((s1.core s1.cur.core).cmds.any mine = false → Gives o.d ((s1.doneId s1.cur.core o.ch).zeroExtend 64) s1 s2 → Retires2 (.waitid o) s s2)
      ∧ ((s1.core s1.cur.core).cmds.any mine = true → (s1.core s1.cur.core).cmds.all (fun j => !(mine j && faulted j)) = true →
          exec (.waitid o) s = .next (s.noteWait [] [o.d])))
    ∧ (Taken [o.a] [o.d] s [x] s1 → o.a ≠ 0 → (s1.core s1.cur.core).cmds.all (fun j => !(mine j && faulted j)) = true →
        (s1.transferDone s1.cur.core o.ch (x.truncate 48) = true → Gives o.d ((s1.doneId s1.cur.core o.ch).zeroExtend 64) s1 s2 →
          Retires2 (.waitid o) s s2)
        ∧ (s1.transferDone s1.cur.core o.ch (x.truncate 48) = false → exec (.waitid o) s = .next (s.noteWait [o.a] [o.d])))
    ∧ (Taken [] [o.d] s [] s1 →
        (o.imm = 0 → Gives o.d ((s1.doneId s1.cur.core o.ch).zeroExtend 64) s1 s2 → Retires2 (.tidr o) s s2)
        ∧ (o.imm = 1 → Gives o.d ((((s1.core s1.cur.core).nextId.get o.ch) - 1).zeroExtend 64) s1 s2 → Retires2 (.tidr o) s s2)
        ∧ (o.imm = 2 → Gives o.d (g.chans.get o.ch).word
            (s1.onGroup s1.cur.core s1.cur.slot fun y => { y with chans := y.chans.set o.ch.val ⟨0, 0, 0, 0, 0⟩ o.ch.isLt }) s2 →
            Retires2 (.tidr o) s s2)
        ∧ (o.imm = 3 → Gives o.d (BitVec.ofNat 64 (g.chans.get o.ch).firstId) s1 s2 → Retires2 (.tidr o) s s2))
    ∧ (Taken [o.a] [] s [x] s1 → (∃ y z, Acts s y z) → o.imm.toNat ≤ 3 →
        (2 ^ 55 ≤ x.toNat → Traps (.publish o) s s1 0x05 x.toNat)
        ∧ (x.toNat < 2 ^ 55 → s1.bufOf g.ctx x.toNat = none → Traps (.publish o) s s1 0x05 x.toNat)
        ∧ (∀ b r, x.toNat < 2 ^ 55 → s1.bufOf g.ctx x.toNat = some b → r = (b.vbase, b.vbase + b.pages * 2 ^ 16 - 1) →
            (s1.core s1.cur.core).cmds.any (fun j => j.of s1.cur.slot g && j.writes.any (sameSpace r)) = false → s1.streamsInto s1.cur g r = false →
            s1.resultsPending s1.cur = false → Retires2 (.publish o) s ((s1.onCtx g.ctx fun c =>
              { c with bufs := c.bufs.map fun y => if y.vbase = b.vbase then { y with visB := !y.visB } else y }).dropTlb (some g.ctx)
                (b.vbase / 2 ^ 16) (b.vbase / 2 ^ 16 + b.pages)))
        ∧ (∀ b r, x.toNat < 2 ^ 55 → s1.bufOf g.ctx x.toNat = some b → r = (b.vbase, b.vbase + b.pages * 2 ^ 16 - 1) →
            let into := fun (j : Cmd) => j.of s1.cur.slot g && j.writes.any (sameSpace r)
            (∀ code va, first into code va → Traps (.publish o) s s1 code va)
            ∧ ((s1.core s1.cur.core).cmds.all (fun j => !(into j && faulted j)) = true →
                ((s1.core s1.cur.core).cmds.any into = true ∨ s1.streamsInto s1.cur g r = true ∨ s1.resultsPending s1.cur = true) →
                exec (.publish o) s = .next (s.noteWait [o.a] []))))

/-! ### Lattice streams -/

/-- R388 to R394: the stream instructions. A slot that the context does not own raises ownership. LFLOAD reads header and image, checks them, and
puts a valid image into a free slot; it answers 2 where the slot is in use. LBIND stages or clears a binding; LSTART starts a phase, restarts a
stopped stream, or answers 0; LBAR waits for the end of the phase, LSTART for an LS copy on the slot and for the role's matrix results too; LSTAT
gives the words of R393. LSTOP asks for the stop as soon as it is its role's next instruction, also where its port has no room, and waits for the
row boundary. Log 83 (DEDUCED): the restart of a stopped stream makes the aliasing check of R191 on its outputs too.

R392, R377: the stream of a phase that starts: row 0, running unless a row count of zero makes it done, with the bindings staged, and with
the counts of the stream that it continues or with none. Nothing but its slot changes, and accumulators start afresh with a new stream. -/
def Obligations.StreamInstructions : Prop :=
  (∀ (o : EOp) (s s1 s2 s3 s4 : State) (g : Group) (k : Role) (l : LatSlot) (x : Word), Acts s1 g k →
    let lat := o.imm.toNat % 64
    let slot := o.imm.toNat / 64
    let mine := fun (t : Stream) => l.stream = some t ∧ t.heldBy s1.cur g = true
    let others := ∀ t, l.stream = some t → t.heldBy s1.cur g = false
    l = s1.latSlot lat slot →
    (l.valid = false ∨ l.owner ≠ g.ctx →
      (Taken [o.a] [o.d] s [x] s1 → Traps (.lfload o) s s1 0x07 0) ∧ (Taken [] [] s [] s1 → Traps (.lbind o) s s1 0x07 0)
      ∧ (Taken [] [o.d] s [] s1 → ∀ i ∈ [Instr.lstart o, .lbar o, .lstat o, .lstop o], Traps i s s1 0x07 0))
    ∧ (l.valid = true → l.owner = g.ctx →
      (Taken [o.a] [o.d] s [x] s1 → x.toNat / 2 ^ 60 ≤ 1 → x.toNat % 64 = 0 →
        let reads := (do let h ← readRun (s1.self g) x.toNat 64; let img ← readRun (s1.self g) x.toNat (leNat ((h.drop 4).take 4)); pure (h, img))
        (l.stream.isSome = true ∨ s1.lsBusy lat slot = true → Gives o.d 2 s1 s2 → Retires2 (.lfload o) s s2)
        ∧ (l.stream = none → s1.lsBusy lat slot = false → ∀ tr, Raises reads s1 tr none → exec (.lfload o) s = .next (s1.takeFault s.cur tr s.curPc false))
        ∧ (l.stream = none → s1.lsBusy lat slot = false → ∀ h img : List Byte, Runs reads s1 (h, img) s3 →
            (imageHeaderOk h = false → Traps (.lfload o) s s1 0x01 x.toNat)
            ∧ (imageHeaderOk h = true →
                (∀ off, imageBad img (leNat ((h.drop 4).take 4)) = some off → Traps (.lfload o) s s1 0x01 (x.toNat + off))
                ∧ (imageBad img (leNat ((h.drop 4).take 4)) = none →
                    Gives o.d 1 (s3.onLat lat slot fun y => { y with image := some img, acc := [] }) s4 → Retires2 (.lfload o) s s4))))
      ∧ (Taken [] [] s [] s1 →
          let out := o.fl.getLsbD 2
          let key := (lat * 4 + slot) * 8 + (o.fl.toNat % 4 + if out then 4 else 0)
          (16 ≤ o.fl.toNat ∨ (o.fl.getLsbD 3 = true ∧ (o.gs ≠ 0 ∨ o.gd ≠ 0)) ∨ (out = true ∧ o.gs ≠ 0) ∨ (out = false ∧ o.gd ≠ 0) →
            Traps (.lbind o) s s1 0x01 0)
          ∧ (o.fl.toNat < 16 → (out = true → o.gs = 0) → (out = false → o.gd = 0) →
              (o.fl.getLsbD 3 = true → o.gs = 0 → o.gd = 0 →
                Retires2 (.lbind o) s (s1.onGroup s1.cur.core s1.cur.slot fun y => { y with binds := SMap.del y.binds key }))
              ∧ (o.fl.getLsbD 3 = false → ∀ b, Runs (bindCheck (s1.self g) lat (g.gens.get (if out then o.gd else o.gs)) out) s1 b s2 →
                  Retires2 (.lbind o) s (s2.onGroup s1.cur.core s1.cur.slot fun y => { y with binds := SMap.set y.binds key b }))))
      ∧ (Taken [] [o.d] s [] s1 →
          (∀ t, l.stream = some t → t.heldBy s1.cur g = false →
            (t.copy = none → Gives o.d 0 s1 s2 → Retires2 (.lstart o) s s2) ∧ (t.copy ≠ none → exec (.lstart o) s = .next (s.noteWait [] [o.d])))
          ∧ ((∀ t, l.stream = some t → mine t) → s1.lsBusy lat slot = true ∨ s1.resultsPending s1.cur = true →
              exec (.lstart o) s = .next (s.noteWait [] [o.d]))
          ∧ (∀ t, mine t → t.busy = true → exec (.lstart o) s = .next (s.noteWait [] [o.d]) ∧ exec (.lbar o) s = .next (s.noteWait [] [o.d]))
          ∧ (∀ t, mine t → t.state = .stopped → s1.lsBusy lat slot = false → s1.resultsPending s1.cur = false →
              NoAlias s1 g ((t.binds.filter fun b => 4 ≤ b.1).map fun b => b.2.range) →
              Gives o.d ({ t with state := .running } : Stream).word
                (s1.onStream lat slot fun y => { y with state := .running, stopReq := false }) s2 → Retires2 (.lstart o) s s2)
          ∧ (∀ old : Option Stream, l.stream = old → (∀ t, old = some t → t.heldBy s1.cur g = true ∧ t.state = .done) →
              s1.lsBusy lat slot = false → s1.resultsPending s1.cur = false →
              let many := 4 ≤ ((s1.streamsOf s1.cur g).filter fun p => p.2.state != .done).length
              (l.image = none → Traps (.lstart o) s s1 0x01 0)
              ∧ (∀ img, l.image = some img →
                  let bs := g.staged lat slot
                  (phaseOk img bs = false → Traps (.lstart o) s s1 0x01 0)
                  ∧ (phaseOk img bs = true →
                      ((old = none ∧ many) ∨ (∃ t, old = some t ∧ t.phase = 15) → Gives o.d 0 s1 s2 → Retires2 (.lstart o) s s2)
                      ∧ ((old = none → ¬ many) → (∀ t, old = some t → t.phase ≠ 15) →
                          NoAlias s1 g ((bs.filter fun b => 4 ≤ b.1).map fun b => b.2.range) →
                          ∀ u : Stream, Runs (startPhase o img bs old) s1 u s2 → Gives o.d u.word s2 s3 → Retires2 (.lstart o) s s3))))
          ∧ (others → Gives o.d 0 s1 s2 → Retires2 (.lbar o) s s2 ∧ Retires2 (.lstat o) s s2 ∧ Retires2 (.lstop o) s s2)
          ∧ (∀ t, mine t → t.busy = false → Gives o.d t.word s1 s2 → Retires2 (.lbar o) s s2)
          ∧ (∀ t v, mine t →
              (o.fl = 0 ∧ v = t.word ∨ o.fl = 1 ∧ v = BitVec.ofNat 64 t.total ∨ o.fl = 2 ∧ v = BitVec.ofNat 64 t.reads
                ∨ o.fl = 3 ∧ v = BitVec.ofNat 64 t.writes ∨ o.fl = 4 ∧ v = BitVec.ofNat 64 t.holds
                ∨ o.fl = 5 ∧ v = BitVec.ofNat 64 t.poisoned) → Gives o.d v s1 s2 → Retires2 (.lstat o) s s2)
          ∧ (∀ t, mine t → t.state = .done ∨ t.state = .stopped → Gives o.d t.word s1 s2 →
              (o.fl.getLsbD 0 = false → Retires2 (.lstop o) s s2)
              ∧ (o.fl.getLsbD 0 = true →
                  Retires2 (.lstop o) s ((s2.onStream lat slot fun y => { y with relReq := true }).atEdge lat slot)))
          ∧ (∀ t, mine t → t.state = .running → t.made ≠ [] →
              exec (.lstop o) s = .next ((s1.onStream lat slot fun y => { y with stopReq := true }).atEdge lat slot)))
      ∧ (s1 = s → Runs (checkMisuse [] [o.d]) s () s → Waits (checkRoom [o.d]) s → ∀ t, mine t → t.state = .running → t.made ≠ [] →
          exec (.lstop o) s = .next (((s.onStream lat slot fun y => { y with stopReq := true }).atEdge lat slot).noteWait [] [o.d]))))
  ∧ (∀ (o : EOp) (s : State) (g : Group) (k : Role) (img : List Byte) (bs : SMap Binding) (old : Option Stream), Acts s g k →
    ∃ u : Stream, Runs (startPhase o img bs old) s u (s.onLat (o.imm.toNat % 64) (o.imm.toNat / 64) fun l =>
        { l with stream := some u, acc := if old.isSome then l.acc else [] })
      ∧ u.row = 0 ∧ u.err = 0 ∧ u.binds = bs ∧ u.landed = [] ∧ u.issued = [] ∧ u.made = [] ∧ u.pc = k.pc
      ∧ u.phase = old.elim 0 (fun t => t.phase + 1) ∧ u.total = old.elim 0 Stream.total
      ∧ u.state = (if u.rows = 0 then .done else .running)
      ∧ (old = none → u.heldBy s.cur g = true ∧ u.ctx = g.ctx))

/-- R368, R377, R382, R383: the grid takes the first ready slot behind the one last served and computes its next row, on the accumulators of
the rows before it: outputs, accumulators and flags are made; an input beyond its end or an output beyond its capacity ends the phase with 0x0A
once no row before it is in the grid; 0x0A of one port goes before the errors of the others. The oldest row in the grid commits when its outputs
are all acknowledged; the last one ends the phase, but where there are compressed outputs their header bursts come first. That a row's inputs are
read when the row enters the grid is the model's choice (log 9, DESIGN CHOICE). Where something is asked of the stream, input bursts of later
rows are discarded. R387: the rows of an LS copy's stream go to its copy.

R378 to R380, R382, R383, R450, R451: the bursts of a stream, one for each 1 KiB unit that a row of a port touches (log 75, DEDUCED). Due are, of an input port, the next unit of
each row up to two ahead of the row in the grid, once its earlier ones have landed; of an output port the units of the rows computed, and behind
the last row the header of a compressed output. A burst starts at the first slot of the window, for the first unit of the port that may start, and
lasts 16 slots; at its end the requests that waited issue in slot order, the pseudo-channel is late by them, and the data is there or
acknowledged. A CXL Lattice's burst moves at once. A burst counts when it is issued. A row has landed, or is acknowledged, with its last unit. A
pool write that fails spoils the row's atoms and the phase goes on; at counter exhaustion the phase ends.

R369, R377, R378, R385, R395: the steps of a stream between its rows: leaving a hold at a rotation boundary once no
request waits, parking, unparking with its bindings translated afresh,
release; and the owner of an image slot and the windows of a Lattice: a change of owner of a slot in use stays pending. -/
def Obligations.StreamSteps : Prop :=
  (∀ (s s1 s2 : State) (lat : LatId) (slot : Fin 4) (l : LatSlot) (t : Stream), s.latSlot lat.val slot.val = l → l.stream = some t →
    (∀ (img : List Byte) (ins : List (List Beat) × Nat) (row : Nat), l.image = some img → t.rowReady = true →
      (s.slotOrder lat).find? (fun j => (s.latSlot lat.val j).stream.elim false Stream.rowReady) = some slot.val →
      row = t.row + t.made.length → t.copy = none → Runs (rowInputs img t.ctx t.binds row t.beats) s ins s1 →
      let r := gridRow img row 0 ins.1 ((t.made.getLast?).elim l.acc RowOut.acc) 0
      let outs := (t.binds.filter fun b => 4 ≤ b.1).map fun b => (b.1, portOut img t row r.1 b.1 b.2, b.2)
      let full := outs.any fun y => overCapacity y.2.2 y.2.1.2
      (ins.2 = 0x0A ∨ full = true →
        (t.made = [] → exec (.rowCompute lat slot) s = .next (s1.endPhase lat.val slot.val 0x0A))
        ∧ (t.made ≠ [] → exec (.rowCompute lat slot) s = .next s1))
      ∧ (ins.2 ≠ 0x0A → full = false → ∃ (m : RowOut) (f : Stream → Stream),
          exec (.rowCompute lat slot) s = .next { s1.onStream lat.val slot.val f with latLast := s1.latLast.set lat.val slot lat.isLt }
          ∧ m.outs = outs.map (fun y => (y.1, y.2.1.1)) ∧ m.acc = r.2.1 ∧ m.err = ins.2 ∧ m.flags &&& r.2.2 = r.2.2 ∧ m.acked = []
          ∧ ∀ y, (f y).made = y.made ++ [m] ∧ (f y).row = y.row ∧ (f y).state = y.state ∧ (f y).binds = y.binds))
    ∧ (∀ (m : RowOut) (rest : List RowOut), t.made = m :: rest → t.copy = none → (∀ b ∈ t.binds, 4 ≤ b.1 → b.1 ∈ m.acked) →
        let asked := t.closing || t.relReq || t.stopReq || t.parkReq || t.rebindReq || t.holdReq
        ∃ u : Stream,
        u.row = t.row + 1 ∧ u.total = t.total + 1 ∧ u.made = rest ∧ u.landed = (if asked then [] else t.landed) ∧ u.closing = asked
        ∧ u.flags = (t.flags ||| m.flags) ∧ u.err = (if t.err = 0 then m.err else t.err) ∧ u.binds = t.binds ∧ u.state = t.state
        ∧ u.poisoned = (if m.err = 0 then t.poisoned else t.poisoned + 1) ∧ u.rows = t.rows ∧ u.outCount = t.outCount
        ∧ u.issued = (if asked then t.issued.filter fun b => 4 ≤ b.1 else t.issued) ∧
        let done := s.onLat lat.val slot.val fun y => { y with stream := some u, acc := m.acc }
        (u.row ≠ t.rows → rest = [] → exec (.rowComplete lat slot) s = .next (done.atEdge lat.val slot.val))
        ∧ (u.row ≠ t.rows → rest ≠ [] → exec (.rowComplete lat slot) s = .next done)
        ∧ (u.row = t.rows →
          (u.forms = [] → exec (.rowComplete lat slot) s = .next (done.endPhase lat.val slot.val 0))
          ∧ (u.forms ≠ [] → exec (.rowComplete lat slot) s = .next done)))
    ∧ (∀ (img : List Byte) (row : Nat) (xs : List (List Beat × Nat)),
        Runs ((List.range 4).mapM fun p => match SMap.get t.binds p with
          | none => pure (List.replicate t.beats Beat.zero, 0)
          | some b => portRow img t.ctx p b row) s xs s1 →
        ∃ (beats : List (List Beat)) (e : Nat), Runs (rowInputs img t.ctx t.binds row t.beats) s (beats, e) s1
          ∧ (0x0A ∈ xs.map Prod.snd → e = 0x0A)
          ∧ (0x0A ∉ xs.map Prod.snd → ∀ a b c, xs.map Prod.snd = a ++ b :: c → (∀ x ∈ a, x = 0) → b ≠ 0 → e = b)
          ∧ ((∀ x ∈ xs, x.2 = 0) → e = 0))
    ∧ (∀ (m : RowOut) (rest : List RowOut) (seq : Nat), t.made = m :: rest → t.copy = some seq → (∀ b ∈ t.binds, 4 ≤ b.1 → b.1 ∈ m.acked) →
        ∃ u : Stream, u.row = t.row + 1 ∧ u.made = rest ∧ u.kept = t.kept ++ [⟨t.row, m.lanes, m.err, m.flags⟩] ∧
        let done := s.onLat lat.val slot.val fun y => { y with stream := some u, acc := m.acc }
        Runs (lsArrived t.core seq) (if rest.isEmpty then done.atEdge lat.val slot.val else done) () s2 → exec (.rowComplete lat slot) s = .next s2))
  ∧ (∀ (s s1 : State) (lat : LatId) (slot : Fin 4) (port : Fin 8) (t : Stream) (pc : PcId), (s.latSlot lat.val slot.val).stream = some t →
    let due := s.unitsDue lat.val slot.val t port.val
    let units := fun (row : Nat) => s.rowUnits lat.val slot.val t port.val row
    let issued := fun (row j : Nat) => s.onStream lat.val slot.val fun u => u.issue port.val row j
    let land := fun (row j : Nat) => landBurst lat.val slot.val port.val row j
    let Starts := fun (row j q : Nat) => s.burstPc lat.val slot.val t port.val row j = some q ∧ s.mayBurst lat.val slot.val t port.val q = true ∧
      (s.slotOrder lat).find? (fun k => match (s.latSlot lat.val k).stream with
        | none => false
        | some u => (List.range 8).any fun p => s.mayBurst lat.val k u p q) = some slot.val
    (∀ row j, (row, j) ∈ due → t.state = .running ∧ (port.val, row, j) ∉ t.issued ∧ (port.val, row, j) ∉ t.parts ∧ j < (units row).length
      ∧ (port.val < 4 → t.closing = false ∧ t.row + t.made.length ≤ row ∧ row ≤ t.row + t.made.length + 2 ∧ row < t.rows
          ∧ (port.val, row) ∉ t.landed ∧ ∀ i < j, (port.val, row, i) ∈ t.parts)
      ∧ (4 ≤ port.val → t.row ≠ t.rows → ∃ m, t.made[row - t.row]? = some m ∧ t.row ≤ row ∧ port.val ∉ m.acked)
      ∧ (4 ≤ port.val → t.row = t.rows → row = t.rows ∧ port.val ∈ t.forms ∧ (port.val, row) ∉ t.landed))
    ∧ (∀ row b img, SMap.get t.binds port.val = some b → (s.latSlot lat.val slot.val).image = some img →
        let w := Walk4.ofBits b.gen
        (4 ≤ port.val → ∀ q ∈ t.outBytes port.val row, ∀ a, q.1 ≤ a → a < q.1 + q.2.length → a / 1024 ∈ units row)
        ∧ (port.val < 4 → isForm w.code = false → w.scaled = false → (w.addr (row * w.size 0)).1 / 1024 ∈ units row))
    ∧ (∀ q, s.mayBurst lat.val slot.val t port.val q = true → (s.pcStat q).slot = (s.window t.ctx q).start ∧ (s.pcStat q).slot ≤ 112
      ∧ (s.pcStat q).burst = none ∧ (s.pcStat q).late = 0)
    ∧ (lat.val < 32 → ∀ before row j after q, due = before ++ (row, j) :: after → (∀ u ∈ before, ∀ q, ¬ Starts u.1 u.2 q) → Starts row j q →
      exec (.burstStart lat slot port) s = .next ((issued row j).onPc q fun p =>
        { p with burst := some (lat.val, slot.val, port.val, row, j), burstTo := p.slot + 16, waiters := [] }))
    ∧ (32 ≤ lat.val → ∀ row j after, due = (row, j) :: after → Runs (land row j) (issued row j) () s1 →
        exec (.burstStart lat slot port) s = .next s1)
    ∧ (∀ b s2, (s.pcStat pc.val).burst = some b → (s.pcStat pc.val).burstTo ≤ (s.pcStat pc.val).slot →
        s2 = ((s.pcStat pc.val).waiters.foldl (fun u c => (u.issueAtom c pc.val).getD u) s).onPc pc.val (fun q =>
          { q with burst := none, waiters := [],
                   late := 8 + (if (s.pcStat pc.val).w16 then 4 else 2) * (s.pcStat pc.val).waiters.length }) →
        Runs (landBurst b.1 b.2.1 b.2.2.1 b.2.2.2.1 b.2.2.2.2) s2 () s1 → exec (.burstEnd pc) s = .next s1)
    ∧ (∀ row j, ((port.val, row, j) ∉ t.issued → Runs (land row j) s () s)
      ∧ ((port.val, row, j) ∈ t.issued →
          let n := (units row).length
          let u := t.done port.val row j n
          (port.val < 4 → Runs (land row j) s () (s.onStream lat.val slot.val fun _ => u))
          ∧ (4 ≤ port.val → ∀ b e s2 v, SMap.get t.binds port.val = some b →
              Runs (putBurst t lat.val slot.val port.val row ((units row).getD j 0) b) s e s2 → (s2.latSlot lat.val slot.val).stream = some v →
              let s3 := s2.onStream lat.val slot.val fun x => x.done port.val row j n
              let w := v.done port.val row j n
              let last := w.row = w.rows ∧ ∀ p ∈ w.forms, (p, w.rows) ∈ w.landed
              (e ≠ 0 → Runs (land row j) s () (s2.endPhase lat.val slot.val e))
              ∧ (e = 0 → last → Runs (land row j) s () (s3.endPhase lat.val slot.val 0))
              ∧ (e = 0 → ¬ last → Runs (land row j) s () s3))
          ∧ u.issued = t.issued.filter (fun b => b != (port.val, row, j))
          ∧ ((∃ i < n, i ≠ j ∧ (port.val, row, i) ∉ t.parts) → u.landed = t.landed ∧ u.made = t.made)
          ∧ ((∀ i < n, i = j ∨ (port.val, row, i) ∈ t.parts) →
              (port.val < 4 ∨ t.row = t.rows → u.landed = t.landed ++ [(port.val, row)] ∧ u.made = t.made)
              ∧ (4 ≤ port.val → t.row ≠ t.rows → u.landed = t.landed
                  ∧ ∀ m, t.made[row - t.row]? = some m → u.made[row - t.row]? = some { m with acked := m.acked ++ [port.val] })))
      ∧ (t.issue port.val row j).issued = t.issued ++ [(port.val, row, j)]
      ∧ (port.val < 4 → (t.issue port.val row j).reads = t.reads + 1 ∧ (t.issue port.val row j).writes = t.writes)
      ∧ (4 ≤ port.val → (t.issue port.val row j).writes = t.writes + 1 ∧ (t.issue port.val row j).reads = t.reads))
    ∧ (∀ row unit b s2, let err := ((t.made[row - t.row]?).map RowOut.err).getD 0
        let put := putBurst t lat.val slot.val port.val row unit b
        let write := (((t.outBytes port.val row).flatMap fun q => (pieces 1024 q.1 q.2).filter fun r => r.1 / 1024 == unit).forM
          (streamWrite t.ctx b (err != 0)))
        (Runs write s () s2 → Runs put s 0 s2)
        ∧ ∀ tr, Runs (attempt write) s (.error tr) s2 → (tr.code = 0x0F → Runs put s 0x0F s2)
          ∧ (tr.code ≠ 0x0F → Runs (spoilRow t row) (s2.onStream lat.val slot.val fun u => u.failRow row tr.code) () s1 → Runs put s 0 s1)))
  ∧ (∀ (s : State) (lat : LatId) (slot : Fin 4) (l : LatSlot), s.latSlot lat.val slot.val = l →
    (∀ t, l.stream = some t →
      (t.state = .held → t.boundary = true → (∀ j < 16, (s.pcStat (16 * lat.val + j)).waiters = []) →
        exec (.streamResumeFromHold lat slot) s =
          .next (s.onStream lat.val slot.val fun u => { u with state := .running, holdReq := false, boundary := false }))
      ∧ (t.parkReq = true ∨ t.rebindReq = true → t.state ≠ .parked → exec (.streamPark lat slot) s = .next (s.atEdge lat.val slot.val))
      ∧ (t.state = .parked → t.parkReq = false → t.taken = none → s.drainCovers t = false →
          (rebind lat.val t s = none → exec (.streamUnpark lat slot) s = .next (s.endPhase lat.val slot.val 0x09))
          ∧ ∀ bs, rebind lat.val t s = some bs → exec (.streamUnpark lat slot) s =
              .next ((s.onStream lat.val slot.val fun u => { u with binds := bs, state := if u.wasStopped then .stopped else .running,
                                                                    wasStopped := false, rebindReq := false }).atEdge lat.val slot.val))
      ∧ (t.relReq = true → exec (.streamRelease lat slot) s = .next (s.atEdge lat.val slot.val))
      ∧ (t.relReq = true → (t.made = [] ∨ t.state ≠ .running) → ((s.atEdge lat.val slot.val).latSlot lat.val slot.val).stream = none))
    ∧ (∀ p, l.pend = some p → l.stream = none → s.lsBusy lat.val slot.val = false →
        exec (.latownChangeApply lat slot) s = .next (s.onLat lat.val slot.val fun y =>
          { y with owner := p.1, valid := p.2, pend := none, image := none, acc := [] }))
    ∧ (∀ v : Word, s.latSel.toNat = lat.val + 64 * slot.val →
        let p : CtxId × Bool := (Fin.ofNat 16 v.toNat, v.getLsbD 4)
        (p = (l.owner, l.valid) → exec (.latownWrite v) s = .next (s.onLat lat.val slot.val fun y => { y with pend := none }))
        ∧ (p ≠ (l.owner, l.valid) →
            (l.stream.isSome = true ∨ s.lsBusy lat.val slot.val = true →
              exec (.latownWrite v) s = .next (s.onLat lat.val slot.val fun y => { y with pend := some p }))
            ∧ (l.stream = none → s.lsBusy lat.val slot.val = false →
                exec (.latownWrite v) s = .next (s.onLat lat.val slot.val fun y =>
                  { y with owner := p.1, valid := p.2, pend := none, image := none, acc := [] })))
        ∧ (lat.val < 32 → v.toNat / 128 % 32 ≤ 16 → v.toNat % 128 + v.toNat / 128 % 32 ≤ 128 →
            exec (.lwinWrite .host v) s =
              .next (s.setLwin s.hostPriv.ctxsel lat.val ⟨v.toNat % 128, v.toNat / 128 % 32, v.getLsbD 12, false⟩))))

/-! ### Collectives, sends, multicast, flushes -/

/-- R415 to R418, R420: CRED, CSEND, CRECV and MCST. A command whose checks pass counts itself among those it matches with, takes the channel's
next transfer ID, which d receives, and enters the queue; where queue or scoreboard is full the instruction waits, and also for the role's matrix
results. A receive tells its sender that it is enqueued (the form of that message is the model's choice, log 84). MCST takes a range of one
region that the context owns and that is in update state.

R405: PFLUSH writes the Dirty lines of its range back and leaves them Clean, once the role's matrix results are written; a line whose
write-back fails ends it with 0x13 at the line's address. PINV drops the lines of its range. A range of no bytes does nothing; one of more than
16 MiB is an illegal instruction, an address outside the space raises the space fault. -/
def Obligations.LinkInstructions : Prop :=
  (∀ (o : EOp) (s s1 s2 s3 s4 s5 : State) (g g2 : Group) (k k2 : Role) (x y z id : Word) (w v : Gen) (set_ : PeerSet) (n : Nat),
    Acts s1 g k → Acts s2 g2 k2 → s2.cur = s1.cur → w = Walk4.ofBits (g2.gens.get o.gs) → v = Walk4.ofBits (g2.gens.get o.gd) →
    let roomy := ((s2.core s1.cur.core).cmds.filter fun c => c.st == .queued && c.timed == false).length < 32
      ∧ (s2.core s1.cur.core).board.length ≤ 62 ∧ s2.resultsPending s2.cur = false
    let ends := fun (i : Instr) (kind : CmdKind) (src dst : Gen) (num : X Nat) (reads writes : List (Nat × Nat)) =>
      Runs num s2 n s3 → Runs (accept kind (linkReq o src dst) none reads writes) s3 id s4 → Gives o.d id s4 s5 → Retires2 i s s5
    (3 ≤ o.imm.toNat → Traps (.cred o) s s 0x01 0)
    ∧ (Taken [o.a, o.b] [o.d] s [x, y] s1 → o.imm.toNat ≤ 2 → Runs (readPeers x.toNat) s1 set_ s2 →
        (w.valid = false ∨ v.valid = false ∨ w.code ≠ v.code ∨ credFmt w.code = false ∨ w.count ≠ v.count ∨ 2 ^ 26 < w.count →
          Traps (.cred o) s s1 0x01 0)
        ∧ (w.valid = true → v.valid = true → w.code = v.code → credFmt w.code = true → w.count = v.count → w.count ≤ 2 ^ 26 →
            ptrSpace w.base ≤ 1 → ptrSpace v.base ≤ 1 → Runs (sideSpace s1.cur.core 1 w) s2 () s2 → Runs (sideSpace s1.cur.core 1 v) s2 () s2 →
            (sameSpace w.range v.range = true → Traps (.cred o) s s1 0x01 0)
            ∧ (sameSpace w.range v.range = false →
                (¬ roomy → exec (.cred o) s = .next (s.noteWait [o.a, o.b] [o.d]))
                ∧ (roomy → NoAlias s2 g2 [v.range] → ends (.cred o) (.cred (Fin.ofNat 3 o.imm.toNat) set_ (y.truncate 32) n g.record.index) w v
                    (matchNumber set_ (y.truncate 32) 0 0) [w.range] [v.range]))))
    ∧ (Taken [o.a, o.b, o.c] [o.d] s [x, y, z] s1 → Runs (readPeers x.toNat) s1 set_ s2 → y.toNat < set_.procs.length →
        y.toNat ≠ set_.mine →
        (w.valid = true → isForm w.code = false → Runs (sideSpace s1.cur.core 2 w) s2 () s2 → Runs (sideRows g2.rows w) s2 () s2 →
          g2.gens = g.gens →
          (¬ roomy → exec (.csend o) s = .next (s.noteWait [o.a, o.b, o.c] [o.d]))
          ∧ (roomy → ends (.csend o) (.send set_ y.toNat (z.truncate 32) n) w w (matchNumber set_ (z.truncate 32) y.toNat 1) [w.range] []))
        ∧ (v.valid = true → isForm v.code = false → Runs (sideSpace s1.cur.core 3 v) s2 () s2 → Runs (sideRows g2.rows v) s2 () s2 →
          g2.gens = g.gens →
          (¬ roomy → exec (.crecv o) s = .next (s.noteWait [o.a, o.b, o.c] [o.d]))
          ∧ (roomy → NoAlias s2 g2 [v.range] → Runs (matchNumber set_ (z.truncate 32) y.toNat 2) s2 n s3 →
              Runs (accept (.recv set_ y.toNat (z.truncate 32) n) (linkReq o v v) none [] [v.range]) s3 id s4 →
              ∀ (j : Cmd) (t u : State), (s4.core s1.cur.core).cmds.getLast? = some j → Runs (announce j) s4 () t → Gives o.d id t u →
              Retires2 (.crecv o) s u)))
    ∧ (∀ (f : Option (Follow × List (Nat × Nat))) (s6 : State) (rs : List (Nat × Region)), Taken [] [o.d] s [] s1 → g2.gens = g.gens →
        Runs (copyChecks (linkReq o w v)) s1 f s6 → ptrSpace v.base = 0 → Acts s6 g2 k2 → s6.cur = s1.cur →
        Runs (replicatedRange (s6.self g2) v.range) s6 rs s2 →
        let owned := (∀ r ∈ rs, ∀ q ∈ rs, r.1 = q.1)
          ∧ ∀ r ∈ rs, r.2.ownProc = s2.encProc.toNat ∧ r.2.ownCtx = g.ctx.val ∧ r.2.update = true
        (¬ owned → Traps (.mcst o) s s1 0x07 v.base)
        ∧ (owned → ¬ roomy → exec (.mcst o) s = .next (s.noteWait [] [o.d]))
        ∧ (owned → roomy → NoAlias s2 g2 [v.range] →
            s3 = s2 → Runs (accept (.mcst (dedup (rs.map Prod.fst))) (linkReq o w v) none [w.range] [v.range]) s3 id s4 → Gives o.d id s4 s5 → Retires2 (.mcst o) s s5)))
  ∧ (∀ (a b : SReg) (s s1 s2 s3 : State) (g : Group) (k : Role) (x y : Word) (ls : List (Nat × Nat)), Acts s1 g k →
    Taken [a, b] [] s [x, y] s1 →
    (2 ^ 55 ≤ x.toNat → Traps (.pflush a b) s s1 0x05 x.toNat ∧ Traps (.pinv a b) s s1 0x05 x.toNat)
    ∧ (x.toNat < 2 ^ 55 → 2 ^ 24 < y.toNat → Traps (.pflush a b) s s1 0x01 0 ∧ Traps (.pinv a b) s s1 0x01 0)
    ∧ (x.toNat < 2 ^ 55 → y = 0 → Retires (.pflush a b) s s1 ∧ Retires (.pinv a b) s s1)
    ∧ (x.toNat < 2 ^ 55 → y ≠ 0 → y.toNat ≤ 2 ^ 24 →
        (Runs (flushedLines (s1.self g) x.toNat y.toNat .read) s1 ls s2 →
          (s2.resultsPending s2.cur = true → exec (.pflush a b) s = .next (s.noteWait [a, b] []))
          ∧ (s2.resultsPending s2.cur = false →
              (Runs (ls.forM flushLine) s2 () s3 → Retires (.pflush a b) s s3)
              ∧ ∀ pre p post l, ls = pre ++ p :: post → Runs (pre.forM flushLine) s2 () s3 → s3.cached p.2 = some l → l.dirty = true →
                  s3.refuses p.2 = true ∨ s3.granted (p.2 * 64) = false →
                  exec (.pflush a b) s = .next ((s3.refused p.2).takeFault s.cur { code := 0x13, va := BitVec.ofNat 64 p.1 } s.curPc false)))
        ∧ (Runs (flushedLines (s1.self g) x.toNat y.toNat .none) s1 ls s2 →
            Retires (.pinv a b) s (ls.foldl (fun t p => t.uncache p.2) s2))))

/-! ### Steps of the copy engines -/

/-- R322, R328 to R333, R338: a channel starts the head of its queue, or a due timed command enqueued earlier; an atom that lands or is
acknowledged counts for its chunk, the last read of a chunk letting its writes go out; a chunk whose writes are acknowledged is followed by the next
or by the end; an access that fails holds the command as faulted; a finished command retires; one that has kept a TLBI or PGMIG waiting for the
limit is squashed. That data moves when the last write is acknowledged is the model's choice (log 9).

R48, R214, R330, R331, R432: what the retirement of a copy leaves: its command and scoreboard entries are gone, the channel's last retired ID is its
own, the group that enqueued it has its flags, and every other core is as before. -/
def Obligations.CopySteps : Prop :=
  (∀ (s s1 s2 : State) (c : CoreId) (ch : ChId) (j : Cmd) (r : AtomReq) (i n chunk : Nat) (held : List Hold),
    ((∀ y ∈ (s.core c).cmds, y.timed = false) →
      s.candidate c ch = (s.core c).cmds.find? fun y => y.ch == ch && y.st == .queued && !s.keptBack c y)
    ∧ (s.candidate c ch = some j → s.mayStart c j = true → Runs (beginCmd j c) s () s1 → exec (.copyStart c ch) s = .next s1)
    ∧ (j.late = false → (j.timed = false ∨ j.due = true ∨ s.cycle.toNat ≤ j.time) → j.kind = .copy → j.first < j.chunks →
        Runs (startChunk sendOut j c j.first) s () s1 → Runs (beginCmd j c) s () s1)
    ∧ (∀ pre post, ((s.core c).cmds.filter fun y => y.ch == ch && y.timed && y.st == .queued && !y.due && decide (y.time ≤ s.cycle.toNat))
          = pre ++ j :: post → (∀ y ∈ pre, j.time < y.time) → (∀ y ∈ post, j.time ≤ y.time) →
        let s0 := s.onCmd c j.seq fun y => { y with due := true }
        (s0.mayStart c j = true → (s0.candidate c ch).map Cmd.seq = some j.seq → Runs (beginCmd j c) s0 () s1 →
          exec (.timedCommandDue c ch) s = .next s1)
        ∧ (s0.mayStart c j = false ∨ (s0.candidate c ch).map Cmd.seq ≠ some j.seq →
            exec (.timedCommandDue c ch) s = .next (s0.onCmd c j.seq fun y => { y with late := true })))
    ∧ (s.inflight[i]? = some r →
        let s0 := { s with inflight := s.inflight.eraseIdx i }
        s0.cmd r.core r.cmd = some j →
        (r.write = false → j.st = .reading chunk n held → 2 ≤ n →
          exec (.atomLanding i) s = .next (s0.onCmd r.core j.seq fun y => { y with st := .reading chunk (n - 1) held }))
        ∧ (r.write = false → j.st = .reading chunk n held → n ≤ 1 → j.kind = .copy → Runs (startWrites j r.core chunk held) s0 () s1 →
            exec (.atomLanding i) s = .next s1)
        ∧ (r.write = true → j.st = .writing chunk n held →
            exec (.writeAck i) s = .next (s0.onCmd r.core j.seq fun y => { y with st := .writing chunk (n - 1) held })))
    ∧ (s.started c ch = some j →
        let moving := (do applyMoved j c held (← movedOf j c chunk held) : X Unit)
        (j.st = .writing chunk 0 held → chunk < j.chunks → j.kind = .copy →
          (Runs moving s () s1 →
            (chunk + 1 < j.chunks → Runs (startChunk sendOut j c (chunk + 1)) s1 () s2 → exec (.chunkRetire c ch) s = .next s2)
            ∧ (chunk + 1 = j.chunks → j.follow = none → j.ls = false →
                exec (.chunkRetire c ch) s = .next (s1.onCmd c j.seq fun y => { y with st := .done }))
            ∧ (chunk + 1 = j.chunks → ∀ f, j.follow = some f → Runs (finishCopy j c) s1 () s2 → exec (.chunkRetire c ch) s = .next s2))
          ∧ (∀ t : Trap, j.ls = false → Runs (attempt moving) s (.error t) s1 →
              exec (.chunkRetire c ch) s = .next (s1.onCmd c j.seq fun y => { y with st := .faulted chunk t.code t.va.toNat })))
        ∧ (∀ sent, j.st = .exchanging sent held → Runs (exchange j c sent held) s () s1 → exec (.chunkRetire c ch) s = .next s1)
        ∧ (j.st = .done → exec (.copyRetire c ch) s = .next (s.retireCmd c j.seq))
        ∧ (∀ (q : RoleId × Group × Role) (d : Drain), q ∈ s.allRoles → q.2.2.drainAt = some d → d.heldBefore d.tick j = true →
            d.since + 6000 ≤ s.cycle.toNat → exec (.copyDrainTimeout c ch) s = .next (s.squash c j))))
  ∧ (∀ (s : State) (c : CoreId) (j : Cmd), s.cmd c j.seq = some j →
    (∀ y ∈ ((s.retireCmd c j.seq).core c).cmds, y.seq ≠ j.seq) ∧ (∀ y ∈ ((s.retireCmd c j.seq).core c).board, y.cmd ≠ j.seq)
    ∧ (∀ d, d ≠ c → (s.retireCmd c j.seq).core d = s.core d) ∧ (∀ a, (s.retireCmd c j.seq).byteAt a = s.byteAt a)
    ∧ ∀ g, s.group c j.slot = some g → ∃ h, (s.retireCmd c j.seq).group c j.slot = some h
        ∧ (g.order ≠ j.order → h = g) ∧ (g.order = j.order → h.flags = (g.flags ||| j.flags) ∧ h.gens = g.gens ∧ h.roles = g.roles))

/-! ### Launches, tasks, groups -/

/-- R253 to R258, R276: LAUNCH of a checked descriptor gives the handle of its level; CANCEL cancels the launch of a handle; WAITL waits for completion or
for a count of groups, and answers with the level's state; SPAWN pushes a task record and answers 1, or 0 where the context drains or the
launch is over, and waits for the role's matrix results. A handle beyond 32 bits and a malformed descriptor or record are illegal instructions.

R250, R254: entering a level. The launch unit refuses with handle 0 what it cannot take, waits while the level table is full, and else enters the
level in the first free entry, with the entry's next generation. R60, R256, R265, R457: a launch that becomes eligible is logged, its cursor goes to
the tail of its ready queue, and no core's line buffer holds a line of the context any more. -/
def Obligations.Launches : Prop :=
  (∀ (d a b : SReg) (s s1 s2 s3 s4 s5 : State) (g : Group) (k : Role) (x y : Word) (bs : List Byte), Acts s1 g k →
    (Taken [a] [d] s [x] s1 →
      (2 ≤ x.toNat / 2 ^ 60 → Traps (.launch d a) s s1 0x05 x.toNat ∧ Traps (.spawn d a) s s1 0x05 x.toNat)
      ∧ (x.toNat / 2 ^ 60 ≤ 1 → x.toNat % 64 ≠ 0 → Traps (.launch d a) s s1 0x04 x.toNat)
      ∧ (x.toNat / 2 ^ 60 ≤ 1 → x.toNat % 64 = 0 → Runs (memReadBytes (s1.self g) x.toNat 64) s1 bs s2 →
          (parseDesc bs = none → Traps (.launch d a) s s1 0x01 x.toNat)
          ∧ ∀ (e : LaunchDesc) (h : Nat), parseDesc bs = some e →
              (∀ hd, e.kind = 0 → Runs (launchHeader (s1.self g) x.toNat e) s2 hd s3 →
                Runs (enterLevel g.ctx (some s1.cur.core) e (some hd)) s3 h s4 → Gives d (BitVec.ofNat 64 h) s4 s5 →
                Retires2 (.launch d a) s s5)
              ∧ (e.kind = 1 → ptrSpace e.target ≠ 0 ∨ e.target % 32 ≠ 0 → Traps (.launch d a) s s1 0x05 e.target)
              ∧ (e.kind ≠ 0 → (e.kind = 1 → ptrSpace e.target = 0 ∧ e.target % 32 = 0) →
                  Runs (enterLevel g.ctx (some s1.cur.core) e none) s2 h s4 → Gives d (BitVec.ofNat 64 h) s4 s5 →
                  Retires2 (.launch d a) s s5))
      ∧ (x.toNat / 2 ^ 60 ≤ 1 → x.toNat % 32 ≠ 0 → Traps (.spawn d a) s s1 0x04 x.toNat)
      ∧ (x.toNat / 2 ^ 60 ≤ 1 → x.toNat % 32 = 0 → Runs (memReadBytes (s1.self g) x.toNat 32) s1 bs s2 →
          let r := Record.ofBytes bs
          (32 ≤ r.flags ∨ r.ckpt = true → Traps (.spawn d a) s s1 0x01 x.toNat)
          ∧ (r.flags < 32 → r.ckpt = false →
              ((s2.ctx g.ctx).state = .draining ∨ (s2.ctx g.ctx).activeLaunch r.launch = none →
                Gives d 0 s2 s3 → Retires (.spawn d a) s s3)
              ∧ ((s2.ctx g.ctx).state ≠ .draining → ∀ l, (s2.ctx g.ctx).activeLaunch r.launch = some l → (∃ g2 k2, Acts s2 g2 k2) →
                  (s2.resultsPending s2.cur = true → exec (.spawn d a) s = .next (s.noteWait [a] [d])) ∧
                  (s2.resultsPending s2.cur = false → Runs (putLevel g.ctx (r.launch % 4096) { l with out := l.out + 1 }) s2 () s3 →
                  Runs (pushTail g.ctx r.prio (.record r)) s3 () s4 → Gives d 1 s4 s5 → Retires (.spawn d a) s s5)))))
    ∧ (Taken [a] [] s [x] s1 →
        (2 ^ 32 ≤ x.toNat → Traps (.cancel a) s s1 0x01 0)
        ∧ (x.toNat < 2 ^ 32 → Runs (cancelLevel g.ctx x.toNat) s1 () s2 → Retires (.cancel a) s s2))
    ∧ (Taken [a, b] [d] s [x, y] s1 →
        (2 ^ 32 ≤ x.toNat → Traps (.waitl d a b) s s1 0x01 0)
        ∧ (x.toNat < 2 ^ 32 →
            ((s1.ctx g.ctx).level x.toNat = none → Gives d (BitVec.ofNat 64 (2 ^ 63)) s1 s2 → Retires (.waitl d a b) s s2)
            ∧ ∀ l, (s1.ctx g.ctx).level x.toNat = some l →
                (l.state = .active → b = 0 ∨ l.done < y.toNat → exec (.waitl d a b) s = .next (s.noteWait [a, b] [d]))
                ∧ (l.state ≠ .active ∨ (b ≠ 0 ∧ y.toNat ≤ l.done) →
                    Gives d (BitVec.ofNat 64 (l.state.code * 2 ^ 62 + l.done % 2 ^ 62)) s1 s2 → Retires (.waitl d a b) s s2))))
  ∧ (∀ (s s1 s2 s3 s4 : State) (x : CtxId) (core : Option CoreId) (d : LaunchDesc) (h : Option Header),
    ((s.ctx x).refuses = true ∨ (s.ctx x).parentOk d.parent (d.kind + 1) = false → Runs (enterLevel x core d h) s 0 s)
    ∧ ((s.ctx x).refuses = false → (s.ctx x).parentOk d.parent (d.kind + 1) = true →
        ((s.ctx x).freeEntry = none → Waits (enterLevel x core d h) s)
        ∧ ∀ i gen, (s.ctx x).freeEntry = some (i, gen) → d.kind ≠ 0 → ∃ l : Level,
            l.kind = d.kind + 1 ∧ l.state = .active ∧ l.isOpen = true ∧ l.gen = gen ∧ l.parent = d.parent ∧ l.done = 0 ∧ l.out = 0 ∧
            (Runs (putLevel x i l) s () s1 → Runs (addChild x d.parent d.last) s1 () s2 →
              Runs (enterLevel x core d h) s (levelHandle i l) s2))
    ∧ (∀ i gen, (s.ctx x).refuses = false → (s.ctx x).parentOk d.parent 1 = true → (s.ctx x).freeEntry = some (i, gen) → d.kind = 0 → ∃ l : Level,
        l.kind = 1 ∧ l.state = .active ∧ l.isOpen = false ∧ l.gen = gen ∧ l.parent = d.parent ∧ l.done = 0 ∧ l.out = d.count ∧ l.header = h ∧
        (Runs (putLevel x i l) s () s1 → Runs (addChild x d.parent d.last) s1 () s2 → Runs (logEvent x 0 core (levelHandle i l) d.count) s2 () s3 →
          Runs (pushTail x (Fin.ofNat 4 d.prio) (.cursor (levelHandle i l) 0)) s3 () s4 → ∃ t : State,
            Runs (enterLevel x core d h) s (levelHandle i l) t ∧ t.mem = s4.mem ∧ t.ctxs = s4.ctxs
            ∧ ∀ c : CoreId, ∀ e ∈ (s4.core c).lines, e ∈ (t.core c).lines ↔ e.ctx ≠ x)))

/-- R255: a launch by the host: a write to the launch window while one is in progress waits behind it; the outcome in the window is the handle, 0 for a
context that is free or created, or bit 63 with the code of the fault; one that waits for an entry stays in progress.

R259 to R261: the evaluator acts on the next node of an active graph; a node that cannot be read or that fails cancels its graph and is
recorded. What a condition and a loop node come to, while the log is not replayed. -/
def Obligations.HostLaunchesAndGraphs : Prop :=
  (∀ (x : CtxId) (v : Word) (s s1 : State) (h : Nat) (t : Trap) (keep : Option State),
    let answer := fun (t : State) (w : Word) => t.onCtx x fun c => { c with hostResult := w, hostPending := c.hostPending.drop 1 }
    let queued := s.onCtx x fun c => { c with hostPending := c.hostPending ++ [v] }
    ((s.ctx x).hostPending ≠ [] → exec (.hostLaunch x (some v)) s = .next queued)
    ∧ ((s.ctx x).hostPending = [] → exec (.hostLaunch x (some v)) s = exec (.hostLaunch x none) queued ∧ exec (.hostLaunch x none) s = .next s)
    ∧ (∀ rest, (s.ctx x).hostPending = v :: rest →
        ((s.ctx x).state = .free ∨ (s.ctx x).state = .created → exec (.hostLaunch x none) s = .next (answer s 0))
        ∧ ((s.ctx x).state ≠ .free → (s.ctx x).state ≠ .created →
            (Runs (launchAt ⟨x, none, none⟩ v.toNat) s h s1 → exec (.hostLaunch x none) s = .next (answer s1 (BitVec.ofNat 64 h)))
            ∧ (Raises (launchAt ⟨x, none, none⟩ v.toNat) s t keep →
                exec (.hostLaunch x none) s = .next (answer (keep.getD s) (BitVec.ofNat 64 (2 ^ 63 + t.code))))
            ∧ (Waits (launchAt ⟨x, none, none⟩ v.toNat) s → exec (.hostLaunch x none) s = .next s))))
  ∧ (∀ (x : CtxId) (gr : Fin 4096) (s s1 s2 s3 s4 : State) (l : Level) (node : Word) (n : GNode) (i : Instr) (t : Trap) (keep : Option State)
    (v : Word) (r : Nat),
    let w : Who := ⟨x, none, none⟩
    ((n.type, i) ∈ [(1, Instr.graphLaunchNode x gr), (2, .graphConditionNode x gr), (3, .graphLoopNode x gr), (4, .graphSwitchNode x gr),
        (5, .graphEndNode x gr)] →
      SMap.get (s.ctx x).levels gr.val = some l → l.node = some node → l.state = .active → (s.ctx x).evaluates = true →
      (Runs (readNode w node.toNat) s n s1 → Runs (graphAct w gr.val l node n) s1 () s2 → exec i s = .next s2)
      ∧ (Raises (readNode w node.toNat) s t keep → Runs (graphFail x gr.val l node t.code) s () s2 → exec i s = .next s2)
      ∧ (Runs (readNode w node.toNat) s n s1 → Raises (graphAct w gr.val l node n) s1 t keep →
          Runs (graphFail x gr.val l node t.code) s () s2 → exec i s = .next s2))
    ∧ (n.type = 2 → l.out = 0 → Runs (readW w n) s v s1 →
        Runs (decideNode x node (if nodeTest n.cmp v (BitVec.ofNat 64 n.b) then 1 else 0)) s1 (some r) s2 →
        Runs (graphGoto x gr.val node (if r = 1 then n.next else n.alt)) s2 () s3 → Runs (graphAct w gr.val l node n) s () s3)
    ∧ (n.type = 3 → l.out = 0 → Runs (readW w n) s v s1 → Runs (decideNode x node (if v = 0 then 0 else 1)) s1 (some r) s2 →
        (r = 1 → Runs (memWriteNat w n.a 8 (v - 1).toNat .atomic) s2 () s3 → Runs (graphGoto x gr.val node n.next) s3 () s4 →
          Runs (graphAct w gr.val l node n) s () s4)
        ∧ (r ≠ 1 → Runs (graphGoto x gr.val node n.alt) s2 () s3 → Runs (graphAct w gr.val l node n) s () s3))
    ∧ (∀ a b : Word, nodeTest 0 a b = decide (a = b) ∧ nodeTest 1 a b = decide (a ≠ b) ∧ nodeTest 2 a b = decide (a.toInt < b.toInt)
        ∧ nodeTest 3 a b = decide (b.toInt ≤ a.toInt) ∧ nodeTest 4 a b = decide (a.toNat < b.toNat)
        ∧ nodeTest 5 a b = decide (b.toNat ≤ a.toNat)))

/-- R116, R273, R274, R277 to R279, R284, R289: FORK, MEET, PROG, END, PARK and YIELD. FORK starts the roles whose deltas are not zero; MEET of fetch or drain makes
the role arrive and leave its queues, in compute it waits for both and takes queue misuse where a role queue is not empty (that FAULTVA is the lowest such
queue is log 59, DEDUCED); END and PARK wait for the group's copies and leave the slot, and the other groups of an ended group's cooperative
operations see that it is gone (R167); YIELD of a group that is not marked only goes on, and of one that is marked saves it.

R272, R273: a role that FORK starts stands at word 1 of its line, with s2 to s7 of compute and every other register zero, no port bound and no loop
entered; its fault registers stay. -/
def Obligations.GroupInstructions : Prop :=
  (∀ (s s1 s2 : State) (g : Group) (k : Role) (x y : BitVec 20) (a : SReg) (v : Word), Acts s g k →
    let quiet := ∀ c ∈ (s.core s.cur.core).cmds, c.of s.cur.slot g = false
    let idle := fun (r : RoleKind) => (g.role r).status = .idle
    (s.cur.role ≠ .compute → Traps (.fork x y) s s 0x01 0 ∧ Traps .endGroup s s 0x01 0 ∧ Traps (.park a) s s 0x01 0
      ∧ Traps (.yield x y) s s 0x01 0
      ∧ (s.resultsPending s.cur = true → exec .meet s = .next (s.noteWait [] []))
      ∧ (s.resultsPending s.cur = false → ∃ f : Role → Role, exec .meet s = .next ((s.leaveQueues g.ctx s.cycle.toNat k.ports.toList).onRole s.cur f)
          ∧ ∀ r, (f r).status = .arrived ∧ (f r).loops = [] ∧ (∀ j : Fin 64, (f r).regs.get j = 0)
            ∧ (∀ j : Fin 4, (f r).ports.get j = .unbound) ∧ (f r).pc = r.pc))
    ∧ (s.cur.role = .compute →
      (g.inSequence = true ∨ (x ≠ 0 ∧ ¬ idle .fetch) ∨ (y ≠ 0 ∧ ¬ idle .drain) → Traps (.fork x y) s s 0x15 0)
      ∧ (g.inSequence = false → (x ≠ 0 → idle .fetch) → (y ≠ 0 → idle .drain) →
          (s.resultsPending s.cur = true → exec (.fork x y) s = .next (s.noteWait [] []))
          ∧ (s.resultsPending s.cur = false → Runs (startRole .fetch x) s () s1 → Runs (startRole .drain y) s1 () s2 →
              Retires2 (.fork x y) s s2))
      ∧ ((g.role .fetch).status = .running ∨ (g.role .drain).status = .running → exec .meet s = .next (s.noteWait [] []))
      ∧ (idle .fetch → idle .drain → Retires .meet s s)
      ∧ ((g.role .fetch).status ≠ .running → (g.role .drain).status ≠ .running → ¬ (idle .fetch ∧ idle .drain) →
          (∀ q : Fin 4, g.roleq.get q ≠ [] → (∀ p : Fin 4, p < q → g.roleq.get p = []) → Traps .meet s s 0x0D (60 + q.val))
          ∧ ((∀ q : Fin 4, g.roleq.get q = []) → Retires .meet s (s.onGroup s.cur.core s.cur.slot fun z =>
              (z.onRole .fetch fun r => { r with status := .idle }).onRole .drain fun r => { r with status := .idle })))
      ∧ (g.inSequence = true ∨ (g.role .fetch).status = .running ∨ (g.role .drain).status = .running → Traps .endGroup s s 0x15 0)
      ∧ (g.inSequence = false → (g.role .fetch).status ≠ .running → (g.role .drain).status ≠ .running → quiet →
          Runs (do joinParent (s.self g) g.record; groupDone g.ctx g.record.launch) s () s1 →
          ((s.releaseStreams s.cur g).streamsOf s.cur g = [] →
            exec .endGroup s = .next (((s1.partMates g).vacate s.cur.core s.cur.slot).releaseStreams s.cur g))
          ∧ ((s.releaseStreams s.cur g).streamsOf s.cur g ≠ [] → exec .endGroup s = .next (s.releaseStreams s.cur g)))
      ∧ (∀ p q : Nat, a.isPort = false → p = (k.reg a).toNat → p / 2 ^ 60 ≤ 1 → p % 32 = 0 → g.inSequence = false → idle .fetch → idle .drain →
          quiet → nextPc k.line k.pc.toNat 1 = some q → ∀ (rcd : Record) (j : Nat) (s3 s4 s5 : State),
          rcd = ⟨q, (k.reg 3).toNat, 0, g.record.index, g.record.launch,
            recordFlags g.record.prio.val g.record.pj false g.record.clu⟩ →
          Runs (memWriteBytes (s.self g) p (rcd.bytes.take 16)) s () s1 → Runs (memWriteBytes (s.self g) (p + 20) (rcd.bytes.drop 20)) s1 () s2 →
          Runs (joinArrive (s.self g) p) s2 j s3 → (j = 0 → Runs (pushFrom (s.self g) p) s3 () s4) → (j ≠ 0 → s4 = s3) →
          s5 = s.releaseStreams s.cur g →
          (s5.streamsOf s.cur g = [] → exec (.park a) s = .next ((s4.vacate s.cur.core s.cur.slot).releaseStreams s.cur g))
          ∧ (s5.streamsOf s.cur g ≠ [] → exec (.park a) s = .next s5))
      ∧ (∀ p, p = (k.reg 3).toNat → g.inSequence = false → idle .fetch → idle .drain → p / 2 ^ 60 ≤ 1 → p % 64 = 0 →
          ((∀ t, g.state ≠ .marked t) → Retires2 (.yield x y) s s)
          ∧ (∀ t cont save restore f, g.state = .marked t → nextPc k.line k.pc.toNat 2 = some cont → lineAt k.pc x = some save →
              lineAt k.pc y = some restore →
              (s.groupResults s.cur.core s.cur.slot g = true → exec (.yield x y) s = .next (s.noteWait [] [])) ∧
              (s.groupResults s.cur.core s.cur.slot g = false → quiet → g.drainAt = none →
              s1 = (s.onGroup s.cur.core s.cur.slot fun z => { z with drainAt := some s.cycle.toNat }).askStreams
                (fun st => st.heldBy s.cur g) (fun st => { st with parkReq := true }) →
              (s1.streamsMoving s.cur g = true → exec (.yield x y) s = .next s1)
              ∧ (s1.streamsMoving s.cur g = false → Runs (saveGroup p save restore cont) s1 f s2 →
                  exec (.yield x y) s = .next (s2.continue_ 2 f))))))
    ∧ (Taken [a] [] s [v] s1 → (∃ g1 k1, Acts s1 g1 k1) → Retires (.prog a) s (s1.onGroup s1.cur.core s1.cur.slot fun z =>
        { z with estimate := v.toNat % 2 ^ 32, estimateSet := s1.cycle.toNat }))
    ∧ (∀ (c : CoreId) (i : SlotId) (h : Group), s.group c i = some h → ∃ j, (s.partMates g).group c i = some j ∧ j = { h with mateGone := j.mateGone }
        ∧ (j.mateGone = true ↔ h.mateGone = true ∨ (h.ctx = g.ctx ∧ h.clustered = true ∧ h.record.launch = g.record.launch
            ∧ h.record.index ≠ g.record.index ∧ h.record.index / 4 = g.record.index / 4))))
  ∧ (∀ (s : State) (g : Group) (k : Role) (r : RoleKind) (delta : BitVec 20) (to_ : Nat), Acts s g k → delta ≠ 0 →
    (to_ : Int) = (k.pc.toNat / 64 * 64 : Nat) + 64 * delta.toInt + 4 → to_ < 2 ^ 55 →
    ∃ q : Role, Runs (startRole r delta) s () (s.onGroup s.cur.core s.cur.slot fun z => z.onRole r fun _ => q)
      ∧ q.status = .running ∧ q.pc = BitVec.ofNat 64 to_ ∧ q.loops = [] ∧ (∀ j : Fin 4, q.ports.get j = .unbound)
      ∧ (∀ j : Fin 64, q.regs.get j = if 2 ≤ j.val ∧ j.val ≤ 7 then k.regs.get j else 0)
      ∧ q.cause = (g.role r).cause ∧ q.faultPc = (g.role r).faultPc ∧ q.faultVa = (g.role r).faultVa)

/-! ### Scheduler and contexts -/

/-- R267: a single context with a head that fits is served: its head is dispatched, its deficit unchanged and its visits 0, and then pre-emption is
considered for the heads that fit nowhere (R281). What dispatch leaves is DispatchedGroups.

R266, R268, R270: what the dispatch of a head leaves. Each group is in its slot, starting, with its record (of a cursor the record of the next index),
its resources and the next dispatch number, its flags clear and its roles idle; its number of dispatches is counted; the round-robin pointer stands behind
the last core; the cursor has moved on or left its queue, and a record has left it; every other slot is as before. The groups of a cluster-shaped
head go to the four cores of one cluster in order, where each fits.

R249, R269, R271, R283 to R288: the steps of the scheduler on a slot. A dispatched group starts at its launch's entry, or at its record's address, with
s2 to s7 as R269 gives them; a restore goes on by one part, or faults; the ends of the save and restore sequences; a kill once nothing of the group
is under way; and a checkpoint that comes too late. -/
def Obligations.DispatchAndSlots : Prop :=
  (∀ (s : State) (x : CtxId) (p : Fin 4) (q : QHead) (ps : List Placement), s.safe = false → s.fitting x = some (p, q, ps) →
    (∀ y, y ≠ x → s.fitting y = none) →
    ∃ f : State → State, exec .dispatchDecision s =
        .next (f { (s.onCtx x fun c => { c with visits := 0 }).dispatch x p q ps with lastCtx := x })
      ∧ ∀ t, f t = (List.finRange 16).foldl (fun t x => prios.foldl (fun u p => u.tryDo (preemptFor x p)) t) t)
  ∧ (∀ (s : State) (x : CtxId) (p : Fin 4) (q : QHead) (ps : List Placement),
    let d := s.dispatch x p q ps
    ((ps.map fun a => (a.core, a.slot)).Nodup →
      (∀ n a, ps[n]? = some a → ∃ g, d.group a.core a.slot = some g ∧ g.ctx = x ∧ g.state = .starting
        ∧ g.record = (match q.item with
          | .cursor l i => cursorRecord q.level l (i + n)
          | .record r => r)
        ∧ g.clustered = q.cluster ∧ g.order = s.dispatchSeq + n ∧ g.batch = s.dispatchSeq ∧ g.rowBase = a.rowBase ∧ g.rows = 64 * q.header.accu
        ∧ g.unitBase = a.unitBase ∧ g.units = q.header.spu ∧ g.bars = a.bars ∧ g.nodeBlocks = a.blocks ∧ g.flags = 0
        ∧ ∀ r : RoleKind, (g.role r).status = .idle)
      ∧ ∀ c i, (∀ a ∈ ps, ¬ (a.core = c ∧ a.slot = i)) → d.group c i = s.group c i)
    ∧ d.dispatchSeq = s.dispatchSeq + ps.length
    ∧ (∀ a, ps.getLast? = some a → d.rrPtr.val = (a.core.val + 1) % 128)
    ∧ (∀ l i rest, (s.readyQ x p).items = .cursor l i :: rest → (d.readyQ x p).items =
        if i + ps.length < q.level.count then .cursor l (i + ps.length) :: rest else rest)
    ∧ (∀ r rest, (s.readyQ x p).items = .record r :: rest → (d.readyQ x p).items = rest)
    ∧ (s.fitHead x q = some ps →
        (q.cluster = false → ∃ a, ps = [a] ∧ s.fitOn x q.item q.header a.core none = some a)
        ∧ (q.cluster = true → ps.length = 4 ∧ ∃ k < 32, ∀ n a, ps[n]? = some a →
            a.core.val = 4 * k + n ∧ s.fitOn x q.item q.header a.core none = some a)))
  ∧ (∀ (c : CoreId) (i : SlotId) (s s1 : State) (g : Group) (d : LaunchDesc) (h : Header) (t : Trap) (keep : Option State),
    s.group c i = some g →
    (g.state = .starting → g.record.ckpt = false → s.descOf g = some d → s.headerOf g = some h → (s.ctx g.ctx).state ≠ .draining →
      ∃ (g1 : Group) (r : Role), exec (.groupStart c i) s = .next (s.setGroup c i (some g1)) ∧ g1.role .compute = r
        ∧ g1.state = .running ∧ g1.estimate = h.estimate ∧ g1.gens = g.gens ∧ g1.flags = g.flags ∧ r.status = .running
        ∧ r.pc = BitVec.ofNat 64 (if g.record.code = 0 then wrap64 (d.target + h.entry + 4) else g.record.code)
        ∧ (∀ j : Fin 64, r.regs.get j = BitVec.ofNat 64 (match j.val with
            | 2 => g.record.index
            | 3 => g.record.frame
            | 4 => d.args
            | 5 => (s.placeWord c i g.ctx).toNat
            | 6 => 2 ^ 60 + c.val * 2 ^ 53 + g.unitBase * 2 ^ 16
            | 7 => 2 ^ 60 + c.val * 2 ^ 53 + g.unitBase * 2 ^ 16 + g.units * 2 ^ 16
            | _ => 0)))
    ∧ (g.state = .starting → g.record.ckpt = true → (g.role .compute).stalled = false →
        (Runs (restoreStep c i g) s () s1 → exec (.groupRestore c i) s = .next { s1 with cur := s.cur })
        ∧ (Raises (restoreStep c i g) s t keep → exec (.groupRestore c i) s =
            .next (({ keep.getD s with cur := s.cur } : State).takeFault ⟨c, i, .compute⟩ t (restorePc s c i g) false)))
    ∧ (∀ n r w, g.state = .replaying n r w → (g.role .compute).stalled = false → Runs (restoreStep c i g) s () s1 →
        exec (.groupRestore c i) s = .next { s1 with cur := s.cur })
    ∧ (∀ cont mark, g.state = .restoring cont mark → (g.role .compute).ended = true → (g.role .compute).stalled = false →
        (s.ctx g.ctx).state = .running → ∃ g1 : Group, exec (.restoreSequenceEnd c i) s = .next (s.setGroup c i (some g1))
          ∧ g1.state = (match mark with
            | .none => .running
            | .drain => .draining
            | .checkpoint since => .marked since) ∧ (g1.role .compute).pc = BitVec.ofNat 64 cont.toNat ∧ (g1.role .compute).regs = (g.role .compute).regs)
    ∧ (∀ cont frame, g.state = .saving cont frame → (g.role .compute).ended = true → (g.role .compute).stalled = false →
        Runs (pushRecord g.ctx ⟨cont.toNat, frame.toNat, g.record.join, g.record.index, g.record.launch,
          recordFlags g.record.prio.val g.record.pj true g.record.clu⟩ true) s () s1 →
        exec (.saveSequenceEnd c i) s = .next ((s1.takeStreams ⟨c, i, .compute⟩ g).vacate c i))
    ∧ (∀ again ended retire s2, g.state = .dying again ended retire →
        s.groupResults c i g = false →
        (∀ j ∈ (s.core c).cmds, j.of i g = false) →
        s2 = (s.onGroup c i fun z => { z with drainAt := some (g.drainAt.getD s.cycle.toNat), squashed := [] }).releaseStreams ⟨c, i, .compute⟩ g →
        (s2.streamsOf ⟨c, i, .compute⟩ g ≠ [] → exec (.groupKill c i) s = .next s2)
        ∧ (s2.streamsOf ⟨c, i, .compute⟩ g = [] → Runs (killEnd c i g again ended) s2 () s1 → exec (.groupKill c i) s = .next s1))
    ∧ (∀ since, g.state = .marked since ∨ (∃ cont, g.state = .restoring cont (.checkpoint since)) → s.headerOf g = some h → since + h.yieldmax ≤ s.cycle.toNat → g.drainAt = none →
        let late := if h.restartable then 2 else 0
        ((s.ctx g.ctx).state ≠ .running → exec (.checkpointTimeout c i) s = .next ((s.treat c i late).leaveYield c i))
        ∧ ((s.ctx g.ctx).state = .running → ∀ n, Runs (decideTreatment g.ctx c g late) s n s1 →
            exec (.checkpointTimeout c i) s = .next ((s1.treat c i n).leaveYield c i))))

/-- R234 to R239, R244, R439, R443: the commands on a context. While one is in progress or firmware is being applied they are refused with ERR 0x01; in the safe state, and in
a state of the context in which the command is not legal, with ERR 0x02; a refusal changes REJ and ERR alone. What each does where it is legal:
LOAD reads the buffer map and the free-page queues and leaves the context loaded, with nothing launched, logged or bound, and answers ERR 0x05 where
an entry of the map is malformed or two overlap. ERR 0x05 of REKEY is log 25 (DEDUCED), that CTXDESC counts rounded down to 128 bytes log 61
(DEDUCED).

R236, R237, R246: the ends of SUSPEND and DRAIN, once nothing of the context is left, with what the part holds written back then (log 61, DEDUCED), and
of the scrub: the context is free and holds no core, unit or key; the units, rows and weight stacks of its cores are zero, their buffers empty; its
keys are zeroized; its image slots hold no image and no stream; and loads that waited for it go on. An agent without privilege changes nothing by
a command. -/
def Obligations.ContextCommands : Prop :=
  (∀ (a : Agent) (s s1 : State) (x : CtxId) (b : List Byte × Bool) (i : Instr), s.privileged a = true → x = (s.priv a).ctxsel →
    let st := (s.ctx x).state
    let all := [Instr.create a, .load a, .run a, .suspend a, .resume a, .drain a, .rekey a]
    (i ∈ all → ((s.ctx x).busy = true ∨ s.ctl.applying = true → exec i s = .next (s.rejectCtx x 0x01)))
    ∧ ((s.ctx x).busy = false → s.ctl.applying = false →
        (i ∈ all → s.safe = true → exec i s = .next (s.rejectCtx x 0x02))
        ∧ (s.safe = false →
          (((i = .create a ∧ (st ≠ .free ∨ s.ctl.debugOpen = true)) ∨ (i = .load a ∧ st ≠ .created) ∨ (i = .run a ∧ st ≠ .loaded)
              ∨ (i = .suspend a ∧ st ≠ .running) ∨ ((i = .resume a ∨ i = .rekey a) ∧ st ≠ .suspended)
              ∨ (i = .drain a ∧ (st = .free ∨ st = .draining ∨ st = .scrubbing))) → exec i s = .next (s.rejectCtx x 0x02))
          ∧ (st = .free → s.ctl.debugOpen = false →
              Runs (rawRead none ((s.priv a).ctxdesc / 128 * 128) ((s.priv a).ctxdesc / 128 * 128) 128) s b s1 →
              (∀ e, parseContext b.1 = .error e → exec (.create a) s = .next (s1.rejectCtx x e))
              ∧ (∀ d, parseContext b.1 = .ok d →
                  exec (.create a) s = .next (s1.onCtx x fun c => { c with state := .created, desc := d, apBase := 0 })))
          ∧ (st = .created →
              (s.heldBy x [.scrubbing] = true → exec (.load a) s = .next (s.onCtx x fun c => { c with busy := true }))
              ∧ (s.heldBy x [.scrubbing] = false → Runs (loadNow x) s () s1 → exec (.load a) s = .next s1)
              ∧ (s.heldBy x [.scrubbing] = false → s.heldBy x [.loaded, .running, .suspended, .draining] = true →
                  exec (.load a) s = .next ((s.onCtx x fun c => { c with busy := false }).rejectCtx x 0x06))
              ∧ (∀ (bs : List Byte) (s2 : State) (qs : List Fpq), s.heldBy x [.scrubbing, .loaded, .running, .suspended, .draining] = false →
                  let d := (s.ctx x).desc
                  let entry := fun (i : Nat) => parseBuf s ((bs.drop (32 * i)).take 32)
                  Runs (partRead x d.bufmap (32 * d.bufmapn)) s bs s1 →
                  ((∃ i < d.bufmapn, entry i = none) → exec (.load a) s = .next ((s.onCtx x fun c => { c with busy := false }).rejectCtx x 0x05))
                  ∧ ∀ es : List Buf, es.length = d.bufmapn → (∀ i < d.bufmapn, entry i = es[i]?) →
                    (bufsApart es = false → exec (.load a) s = .next ((s.onCtx x fun c => { c with busy := false }).rejectCtx x 0x05))
                    ∧ (bufsApart es = true → Runs (readFpqs x) s1 qs s2 → ∃ c : Context, exec (.load a) s = .next (s2.onCtx x fun _ => c)
                        ∧ c.state = .loaded ∧ c.busy = false ∧ c.desc = (s2.ctx x).desc ∧ c.bufs = es ∧ c.fpqs = qs ∧ c.levels = [] ∧ c.bindqs = []
                        ∧ c.ready = Vector.replicate 4 ⟨[], 0, 0⟩ ∧ c.counters = Vector.replicate 5 0 ∧ c.replayAt = Vector.replicate 5 0
                        ∧ c.logHead = 0 ∧ c.logTail = 0 ∧ c.faultHeld = [] ∧ c.faultSeq = 0 ∧ c.drainMark = false))
              ∧ exec (.drain a) s = .next (s.onCtx x fun c => { c with state := .free }))
          ∧ (st = .loaded → exec (.run a) s = .next (s.onCtx x fun c => { c with state := .running, deficit := 0, visits := 0 }))
          ∧ (st = .running → exec (.suspend a) s = .next ((s.suspendCtx x).parkStreams x))
          ∧ (st = .running ∨ st = .suspended ∨ st = .loaded → Runs (drainCtx x) s () s1 → exec (.drain a) s = .next s1)
          ∧ (st = .suspended →
              let ask := s.askStreams (fun t => t.ctx == x && t.taken.isNone) fun t => { t with parkReq := false }
              ((s.ctx x).drainMark = false → exec (.resume a) s = .next (ask.onCtx x fun c => { c with state := .running }))
              ∧ ((s.ctx x).drainMark = true → Runs (drainCtx x) ask () s1 → exec (.resume a) s = .next s1)
              ∧ (∀ n : Fin 16, n.val = (s.priv a).ctxdesc % 16 →
                  ((s.ctx x).desc.keys.getLsbD n.val = true → n ≠ (s.ctx x).desc.key → exec (.rekey a) s = .next (s.rekey x n))
                  ∧ ((s.ctx x).desc.keys.getLsbD n.val = false ∨ n = (s.ctx x).desc.key →
                      exec (.rekey a) s = .next (s.rejectCtx x 0x05)))))))
  ∧ (∀ (x : CtxId) (s s1 : State), 
    ((s.ctx x).state = .suspended → (s.ctx x).busy = true → s.groupsOf x = [] →
      exec (.suspendComplete x) s = .next ((s.writeBackCtx x).onCtx x fun c => { c with busy := false }))
    ∧ ((s.ctx x).state = .draining → s.groupsOf x = [] → s.hasCopies x = false → s.hasStreams x = false → Runs (cancelAll x) s () s1 →
        exec (.drainComplete x) s = .next ((s1.writeBackCtx x).onCtx x fun c => { c with state := .scrubbing }))
    ∧ ((s.ctx x).state = .scrubbing → exec (.scrubComplete x) s = .next (s.scrub x).resumeLoads)
    ∧ ((s.scrub x).ctx x).state = .free ∧ (∀ y, y ≠ x → (s.scrub x).ctx y = s.ctx y)
    ∧ (∀ q : Fin 16, (s.ctx x).desc.keys.getLsbD q.val = true → (s.scrub x).keySlots.get q = 0)
    ∧ ((s.scrub x).ctx x).desc = Desc.fresh ∧ (∀ c, (s.scrub x).owns x c = false)
    ∧ (∀ lat slot, (s.scrub x).latSlot lat slot = (s.latSlot lat slot).without x
      ∧ ((s.latSlot lat slot).valid = true → (s.latSlot lat slot).owner = x → ((s.scrub x).latSlot lat slot).image = none
          ∧ ((s.scrub x).latSlot lat slot).stream = none ∧ ((s.scrub x).latSlot lat slot).acc = []))
    ∧ (∀ c : CoreId, (s.ctx x).desc.cores.getLsbD c.val = true →
        ((s.scrub x).core c).tlb = [] ∧ ((s.scrub x).core c).lines = [] ∧ ((s.scrub x).core c).board = []
        ∧ (∀ u b, u < 48 → (s.ctx x).desc.units.getLsbD u = true → b < 2 ^ 16 → (s.scrub x).byteAt (onChipKey 1 c (u * 2 ^ 16 + b)) = 0)
        ∧ (∀ b < 2 ^ 19, (s.scrub x).byteAt (onChipKey 2 c b) = 0) ∧ ∀ b < 6 * 2 ^ 20, (s.scrub x).byteAt (onChipKey 3 c b) = 0)
    ∧ (∀ r : RoleId, s.privileged (.role r) = false →
        ∀ i ∈ [Instr.create (.role r), .load (.role r), .run (.role r), .suspend (.role r), .resume (.role r), .drain (.role r),
          .rekey (.role r), .roleResume (.role r), .skip (.role r), .resumeat (.role r), .abort (.role r)], exec i s = .next s)
    ∧ (∀ (r : RoleId) (v : Word) (off : Nat), s.privileged (.role r) = false →
        exec (.fpqcmd (.role r) v) s = .next s ∧ exec (.lwinWrite (.role r) v) s = .next s
        ∧ exec (.registerWrite (.role r) off v) s = .next s))

/-! ### Pages -/

/-- R364: TLBI. It needs system privilege; a malformed range is an illegal instruction or raises the space fault; the entries of its range go,
streams bound there rebind, and it waits for the role's matrix results and for the commands that hold a translation of the range. What it covers: a page, a 2 MiB block, a context, or all. -/
def Obligations.TlbiResult : Prop :=
  ∀ (a b : SReg) (s s1 s2 : State) (g0 g g2 : Group) (k0 k k2 : Role) (x y : Word) (d : Drain), Acts s g0 k0 →
    ((s.ctx g0.ctx).desc.sys = false → Traps (.tlbi a b) s s 0x03 0)
    ∧ ((s.ctx g0.ctx).desc.sys = true → Taken [a, b] [] s [x, y] s1 → Acts s1 g k →
        (k.drainAt = none → 64 ≤ y.toNat → Traps (.tlbi a b) s s1 0x01 0)
        ∧ (k.drainAt = none → y.toNat < 64 → y.toNat % 4 ≤ 1 → 2 ^ 55 ≤ x.toNat → Traps (.tlbi a b) s s1 0x05 x.toNat)
        ∧ (k.drainAt = none → y.toNat < 64 → (y.toNat % 4 ≤ 1 → x.toNat < 2 ^ 55) → s1.resultsPending s1.cur = true →
            exec (.tlbi a b) s = .next (s.noteWait [a, b] []))
        ∧ ((∃ e, k.drainAt = some e ∧ d = e ∧ s2 = s1)
            ∨ (k.drainAt = none ∧ y.toNat < 64 ∧ (y.toNat % 4 ≤ 1 → x.toNat < 2 ^ 55) ∧ s1.resultsPending s1.cur = false
              ∧ d = tlbiDrain x.toNat y.toNat s1.cycle.toNat s1.tick ∧ s2 = (s1.invalidate d).askStreams (fun t => d.covers t) fun t => { t with rebindReq := true }) →
          Acts s2 g2 k2 →
          (s2.drainHeld d = true → exec (.tlbi a b) s = .next (s2.onRole s2.cur fun r => { r with drainAt := some d }))
          ∧ (s2.drainHeld d = false → Retires (.tlbi a b) s (s2.onRole s2.cur fun r => { r with drainAt := none }))))
    ∧ (∀ (va c now tick page : Nat) (ctx : CtxId), c < 64 →
        ((tlbiDrain va c now tick).coversPage ctx page = true ↔
          (c % 4 = 3 ∧ page < 2 ^ 39) ∨ (ctx.val = c / 4 ∧ (c % 4 = 0 ∧ page = va / 2 ^ 16 ∨ c % 4 = 1 ∧ page / 32 = va / 2 ^ 21
            ∨ c % 4 = 2 ∧ page < 2 ^ 39))))

/-- R338, R365: PGMIG. What it decides without moving anything, in order: 3 for a leaf that cannot move or queues that do not suit, 0 where the page is
of the kind asked for already, 2 and 4 for a queue without a page or without room; else, once nothing holds the page and the channel is free, it moves
the page and answers 1. Commands that still hold the page after 6,000 cycles are squashed. That the move is one step is the model's choice (log 28).

R344, R354, R356, R357, R414: the steps on pages: a walk of a line read ahead goes on by one level and raises nothing; FPQCMD accepts a page for zeroing, or refuses it with
the first code that applies; a page that is zero enters its queue; the split of the stream window and the processor's number change only while every context is free. -/
def Obligations.PageMigration : Prop :=
  (∀ (d a b : SReg) (s s1 s2 s3 s4 s5 s6 : State) (g g4 : Group) (k k4 : Role) (x y : Word) (p : Xlat) (at3 f : Nat),
    Taken [a, b] [d] s [x, y] s1 → Acts s1 g k →
    (2 ^ 55 ≤ x.toNat → Traps (.pgmig d a b) s s1 0x05 x.toNat)
    ∧ (x.toNat < 2 ^ 55 → x.toNat % 2 ^ 16 ≠ 0 → Traps (.pgmig d a b) s s1 0x04 x.toNat)
    ∧ (x.toNat < 2 ^ 55 → x.toNat % 2 ^ 16 = 0 → 1024 ≤ y.toNat → Traps (.pgmig d a b) s s1 0x01 0)
    ∧ (x.toNat < 2 ^ 55 → x.toNat % 2 ^ 16 = 0 → y.toNat < 1024 → Runs (translate (s1.self g) x.toNat .write) s1 p s2 →
        let q := y.toNat % 16
        let r := y.toNat / 16 % 16
        (Runs (leafNow g.ctx x.toNat) s2 none s3 → Runs (setDrain none) s3 () s4 → Gives d 3 s4 s5 → Retires (.pgmig d a b) s s5)
        ∧ (Runs (leafNow g.ctx x.toNat) s2 (some (at3, f)) s3 →
            let c := s3.ctx g.ctx
            let S := c.fpq q
            let T := c.fpq r
            let refused := f / 2 ^ 5 % 2 = 1 ∨ f / 2 ^ 10 % 2 = 1 ∨ s3.bufOf g.ctx x.toNat ≠ none ∨ S.valid = false ∨ T.valid = false
              ∨ S.key ≠ leafKey f ∨ T.key ≠ leafKey f ∨ T.kind ≠ leafKind f
            (∀ v : Nat, (refused ∧ v = 3) ∨ (¬ refused ∧ S.kind = leafKind f ∧ v = 0)
                ∨ (¬ refused ∧ S.kind ≠ leafKind f ∧ S.tail = S.head ∧ v = 2)
                ∨ (¬ refused ∧ S.kind ≠ leafKind f ∧ S.tail ≠ S.head ∧ T.cap ≤ T.count ∧ v = 4) →
              Runs (setDrain none) s3 () s4 → Gives d (BitVec.ofNat 64 v) s4 s5 → Retires (.pgmig d a b) s s5)
            ∧ (¬ refused → S.kind ≠ leafKind f → S.tail ≠ S.head → T.count < T.cap → ∀ e : Drain,
                e = k.drainAt.getD ⟨s3.cycle.toNat, some g.ctx, x.toNat / 2 ^ 16, x.toNat / 2 ^ 16 + 1, (s3.core s1.cur.core).cmdSeq, s3.tick, true⟩ →
                let held := (s3.drainHeld e && !s3.drainLate e) || s3.channelBusy s1.cur.core (Fin.ofNat 4 (y.toNat / 256)) e.before
                (s3.drainLate e = true ↔ e.since + 6000 ≤ s3.cycle.toNat)
                ∧ (held = true → Runs (setDrain (some e)) s3 () s4 → exec (.pgmig d a b) s = .next s4)
                ∧ (held = false → Runs (migrate g.ctx x.toNat at3 f q r e) (s3.squashHolders e) () s4 → Acts s4 g4 k4 →
                    s5 = s4.onRole s4.cur (fun z => { z with drainAt := none }) → Gives d 1 s5 s6 → Retires (.pgmig d a b) s s6)))))
  ∧ (∀ (s s1 : State) (a : Agent) (x : CtxId) (v : Word) (i n : Nat) (w : Walk),
    (s.walks[i]? = some w →
      let off := { s with walks := s.walks.eraseIdx i }
      (Runs (walkStep w) off none s1 → exec (.pageWalk i) s = .next s1)
      ∧ (∀ u, Runs (walkStep w) off (some u) s1 → exec (.pageWalk i) s = .next { s1 with walks := s1.walks.insertIdx i u })
      ∧ (∀ t k, Raises (walkStep w) off t k → exec (.pageWalk i) s = .next off))
    ∧ (s.privileged a = true → x = (s.priv a).ctxsel →
        let c := s.ctx x
        let q := c.fpq (v.toNat % 16)
        let pa := v.toNat / 2 ^ 16 % 2 ^ 36 * 2 ^ 16
        let last := s.onCtx x fun c => { c with fpqLast := v.toNat % 16 }
        let err := if c.zeroing.isSome then 1 else if c.takesPages = false then 2 else if q.valid = false then 3
          else if q.cap ≤ q.count then 4 else if s.pageSuits q.kind pa = false then 5 else 0
        (err = 0 → exec (.fpqcmd a v) s = .next (last.onCtx x fun c => { c with zeroing := some (v.toNat % 16, pa) }))
        ∧ (err ≠ 0 → exec (.fpqcmd a v) s = .next (last.onCtx x fun c => { c with fpqRej := true, fpqErr := BitVec.ofNat 8 err })))
    ∧ (∀ q pa s2, (s.ctx x).zeroing = some (q, pa) → Runs (zeroPage (s.keyOf ((s.ctx x).fpq q).key) pa) s () s1 →
        Runs (appendPage x q pa) s1 () s2 → exec (.fpqPageZeroed x) s = .next (s2.onCtx x fun c => { c with zeroing := none }))
    ∧ (n = v.toNat % 2 ^ 20 →
        (s.allFree = false ∨ n % 128 ≠ 0 ∨ 2 ^ 19 < n ∨ n = s.srows → exec (.hbmsplitWrite v) s = .next s)
        ∧ (s.allFree = true → n % 128 = 0 → n ≤ 2 ^ 19 → n ≠ s.srows →
            exec (.hbmsplitWrite v) s = .next ({ s with srows := n } : State).forgetLocal))
    ∧ (let p := v.toNat % 16
       let z := v.toNat / 16 % 32
       (s.allFree = false ∨ z < 2 ∨ 16 < z ∨ z ≤ p → exec (.encnumWrite v) s = .next s)
       ∧ (s.allFree = true → 2 ≤ z → z ≤ 16 → p < z →
          let t := { s with encProc := BitVec.ofNat 4 p, encSize := BitVec.ofNat 5 z }
          (z = s.encSize.toNat → exec (.encnumWrite v) s = .next t)
          ∧ (z ≠ s.encSize.toNat →
              exec (.encnumWrite v) s = .next { t with links := t.links.map fun l => { l with training := true } }))))

/-! ### Calendars, ports, links -/

/-- R320 to R325, R377 to R379: a pseudo-channel's next slot: slot 128 is maintenance; inside a burst the slot's owner waits where it has a ready
request; else the slot carries the atom of its owner, or of the core that it is lent to, and without one a late pseudo-channel recovers. The boundary of the
rotation puts staged ownership, windows and widths in force, and lets held streams run once no request waits. -/
def Obligations.CalendarSteps : Prop :=
  ∀ (s : State) (pc : PcId) (slot : Fin 129) (x : CtxId),
    let p := s.pcStat pc.val
    let on := s.onPc pc.val fun q => { q with slot := q.slot + 1 }
    exec .calApply s = .next { s with calApply := BitVec.allOnes 512 }
    ∧ exec .calendarReset s = .next { s with calStaged := [] }
    ∧ (p.slot = slot.val →
        (slot.val = 128 → exec (.calendarSlot pc slot) s = .next (on.maintain pc.val))
        ∧ (slot.val ≠ 128 →
            (∀ b, p.burst = some b → slot.val < p.burstTo →
              exec (.calendarSlot pc slot) s = .next (on.slotInBurst pc.val slot.val b.1 b.2.1))
            ∧ (p.burst = none →
                (∀ c r i, on.slotOwner pc.val slot.val = some c → s.reqs[i]? = some r → r.core = c → r.pc = pc.val →
                  (∀ j < i, ∀ y, s.reqs[j]? = some y → y.core ≠ c ∨ y.pc ≠ pc.val) →
                  exec (.calendarSlot pc slot) s = .next { on with reqs := s.reqs.eraseIdx i, inflight := s.inflight ++ [r] })
                ∧ (on.slotIssue pc.val slot.val = none →
                    exec (.calendarSlot pc slot) s = .next (on.onPc pc.val fun q => { q with late := q.late - (if q.w16 then 4 else 2) })))))
    ∧ (p.slot = 129 → ∃ t, exec (.rotationBoundary pc) s = .next t ∧ (t.pcStat pc.val).slot = 0
        ∧ t.calApply.getLsbD pc.val = false
        ∧ (s.calApply.getLsbD pc.val = true → s.calStaged.Pairwise (fun a b => a.1 ≠ b.1) → ∀ j < 128, calEntry t.calForce pc.val j = calEntry s.calStaged pc.val j)
        ∧ (s.calApply.getLsbD pc.val = false → t.calForce = s.calForce)
        ∧ (p.pend = true → (t.pcStat pc.val).w16 = p.pendw ∧ (t.pcStat pc.val).epoch = p.epoch + 1)
        ∧ (p.pend = false → (t.pcStat pc.val).w16 = p.w16)
        ∧ (s.ctl.throttle = 3 → p.pend = false → p.w16 = false → (t.pcStat pc.val).pend = true ∧ (t.pcStat pc.val).pendw = true)
        ∧ (s.noneWaits (pc.val / 16) = true → ∀ q ∈ t.lats, q.1 / 4 = pc.val / 16 → ∀ u, q.2.stream = some u → u.state = .held → u.boundary = true)
        ∧ (s.noneWaits (pc.val / 16) = false → t.lats = s.lats)
        ∧ (∀ w, SMap.get t.lwin (x.val * 32 + pc.val / 16) = some w → t.window x pc.val = w))

/-- R399, R404, R407 to R410: the steps of CXL ports. A device's answer fills the port cache unless it holds newer bytes; a snoop writes a Dirty copy back, and
drops it where the line is wanted for writing, software-flushed regions apart (content that the stored MAC does not fit reads as poisoned, R242), and goes on to the neighbours that hold the line through this head; a port that has failed to retrain three times is marked down; capacity is offered once it is zero, and a revocation is noted.

R409, R411, R413, R415, R417: the steps of Ralkor links. A link that does not carry traffic takes nothing; each flit that it takes counts; what a virtual
channel has no credits for waits at the link, and a time flit carries the time at which it leaves; a proxied request is asked of the line's other
holders first; time flits go out every 2^20 cycles, and ETOFF takes the time of a neighbour with a lower number where the two differ by more than 2 (log
51, DESIGN CHOICE). A contribution to a collective that has ended with a mismatch is answered with one. How many credits a link starts with, how a
mismatch is told, and that a flit's message is sent whole, is the model's choice (log 84). -/
def Obligations.PortsAndLinks : Prop :=
  (∀ (s : State) (line id base size : Nat) (data : List Byte) (bad w : Bool) (code : BitVec 2) (p : PortId) (e : Nat),
    (poolLineNo line = false ∨ s.granted (line * 64) = false → exec (.poolResponse line data bad code) s = .next s)
    ∧ (poolLineNo line = true → s.granted (line * 64) = true → s.cached line = none → data.length = 64 → s.MemOk →
        (∀ l ∈ (s.heads.get (portOf line)).cache, l.dirty = false) → ∃ t,
        exec (.poolResponse line data bad code) s = .next t
        ∧ t.cached line = some ⟨line, data, false, bad || t.badMac.contains line, code⟩ ∧ t.bytesAt (line * 64) 64 = data
        ∧ (s.bytesAt (line * 64) 64 = data → (line ∈ t.badMac ↔ line ∈ s.badMac))
        ∧ (s.bytesAt (line * 64) 64 ≠ data → line ∉ s.spoiled line → (line ∈ t.badMac ↔ s.macFits line data = false)))
    ∧ (poolLineNo line = true → s.granted (line * 64) = true → ∀ l, s.cached line = some l → l.dirty = true →
        exec (.poolResponse line data bad code) s = .next s)
    ∧ (poolLineNo line = true → exec (.backInvalidationSnoop line w) s = .next ((s.snoop line w).forwardSnoop line 16 w))
    ∧ (∀ i r, s.regionAt (line * 64) = some (i, r) → r.kind ≠ 3 →
        (s.snoop line true).cached line = none
        ∧ (∀ l, s.cached line = some l → l.dirty = false → s.snoop line true = s.uncache line)
        ∧ (∀ l, s.cached line = some l → l.dirty = true → s.snoop line true = (s.writeBack l).uncache line)
        ∧ (s.cached line = none → s.snoop line w = s)
        ∧ (s.holders line 16 = [] → s.forwardSnoop line 16 w = s)
        ∧ (s.holders line 16 = [e] → (s.snoopWait.any fun v => v.1 == e && v.2.1 == line) = false → s.forwardSnoop line 16 w =
            { s.transmit (s.linkTo e 0) (.snoop line w) with snoopWait := s.snoopWait ++ [(e, line, w)] }))
    ∧ (s.regionAt (line * 64) = none ∨ (∃ i r, s.regionAt (line * 64) = some (i, r) ∧ r.kind = 3) →
        s.snoop line w = s ∧ s.forwardSnoop line 16 w = s)
    ∧ ((s.heads.get p).up = true → exec (.headRetrainFailure p) s = .next (s.markDown p))
    ∧ ((s.heads.get p).up = false → exec (.headRetrainFailure p) s = .next s)
    ∧ (s.extents.find? (fun e => e.id == id) = none → poolLineNo (base / 64) = true →
        (size ≠ 0 → poolLineNo ((base + size - 1) / 64) = true) →
        exec (.dcOffer id base size) s = .next { s with extents := s.extents ++ [⟨id, base, size, .zeroing⟩] })
    ∧ (∀ e, s.extents.find? (fun e => e.id == id) = some e → e.state = .zeroing →
        exec (.dcZeroingComplete id) s = .next (((s.zeroRange e.base e.size).freshMeta e.base e.size).onExtent id fun e =>
          { e with state := .offered }))
    ∧ exec (.dcRevokeRequest id) s = .next (s.onExtent id fun e => if e.state == .granted then { e with state := .revoking } else e))
  ∧ (∀ (s : State) (i : PortId) (m : Message) (vc : Fin 4) (n line e : Nat) (src : Fin 16) (st ans : Option LineData) (d : LineData)
    (w : Bool) (time : Word) (ty : Byte) (o : Outgoing) (x : TxWait) (more : List TxWait) (v : Nat × Nat × Bool),
    let l := s.links.get i
    let took := s.onLink i Link.took
    let head := s.heads.get (portOf line)
    let req : ProxyWait := ⟨i, src.val, line, st⟩
    (l.carries = false → ∀ e ∈ [Instr.flitMessageData i m, .flitCredit i vc n, .flitProxyRequest i src line st, .flitProxyResponse i line ans,
        .flitSnoop i line w, .flitTime i time], exec e s = .next s)
    ∧ (l.carries = true →
        exec (.flitMessageData i m) s = .next (took.post m)
        ∧ ((s.txWait.all fun y => y.link != i || y.vc != vc) = true → ∃ t, exec (.flitCredit i vc n) s = .next t
            ∧ (t.links.get i).credits.get vc = l.credits.get vc + n ∧ (t.links.get i).seqIn = l.seqIn + 1 ∧ t.tx = s.tx)
        ∧ (s.txWait = x :: more → x.link = i → x.vc = vc → 1 ≤ x.left → (more.all fun y => y.link != i || y.vc != vc) = true →
            ∃ t, exec (.flitCredit i vc n) s = .next t
              ∧ (x.left ≤ l.credits.get vc + n → t.tx = s.tx ++ [(i.val, s.stamped x.out)] ∧ t.txWait = more
                  ∧ (t.links.get i).credits.get vc = l.credits.get vc + n - x.left)
              ∧ (l.credits.get vc + n < x.left → 1 ≤ l.credits.get vc + n → t.tx = s.tx ∧ (t.links.get i).credits.get vc = 0
                  ∧ t.txWait = { x with left := x.left - (l.credits.get vc + n) } :: more))
        ∧ (poolLineNo line = true →
            (s.unsnooped line = true ∨ s.cached line = none →
              exec (.flitSnoop i line w) s = .next (took.transmit i (.answer line (some ⟨[], false, 0⟩))))
            ∧ (s.unsnooped line = false → ∀ c, s.cached line = some c → exec (.flitSnoop i line w) s = .next ((took.snoop line w).transmit i
                (.answer line (some (if c.dirty = true then ⟨c.data, c.poisoned, c.code⟩ else ⟨[], false, 0⟩)))))
            ∧ (head.up = false → exec (.flitProxyRequest i src line st) s = .next (took.transmit i (.answer line none)))
            ∧ (head.up = true → (s.proxyWait.any fun y => y.line == line) = false → (s.snoopWait.any fun y => y.2.1 == line) = false →
                (src.val ≠ s.encProc.toNat → s.holders line src.val = [] → exec (.flitProxyRequest i src line st) s = .next (took.proxyIssue req)
                  ∧ (src.val, line) ∈ (took.proxyIssue req).proxied ∧ (s.cached line = none → (took.proxyIssue req).heads = s.heads))
                ∧ (s.holders line src.val = [e] → exec (.flitProxyRequest i src line st) s = .next
                    { took.transmit (took.linkTo e 0) (.snoop line st.isSome) with
                      snoopWait := s.snoopWait ++ [(e, line, st.isSome)], proxyWait := s.proxyWait ++ [req] }))
            ∧ ((s.snoopWait.find? fun y => y.2.1 == line && (s.linkTo y.1 0).val / 2 == i.val / 2) = some v →
                exec (.flitProxyResponse i line ans) s = .next (took.snoopAnswered v ans))
            ∧ ((s.snoopWait.find? fun y => y.2.1 == line && (s.linkTo y.1 0).val / 2 == i.val / 2) = none →
                (head.up = true → exec (.flitProxyResponse i line ans) s = .next took)
                ∧ (head.up = false → d.data ≠ [] → s.granted (line * 64) = true →
                    exec (.flitProxyResponse i line (some d)) s = .next (took.poolFill line d))
                ∧ (head.up = false → s.refusedLines.contains line = false →
                    exec (.flitProxyResponse i line none) s = .next { took with refusedLines := line :: s.refusedLines })))
        ∧ (let lower := linkPeer s.encSize.toNat s.encProc.toNat i.val < s.encProc.toNat
           let by_ : Word := time + 180 - s.cycle
           let agree := (by_ - s.etoff).toNat ≤ 2 ∨ (s.etoff - by_).toNat ≤ 2
           (lower → ¬ agree → exec (.flitTime i time) s = .next { took with etoff := by_ })
           ∧ (¬ lower ∨ agree → exec (.flitTime i time) s = .next took)))
    ∧ ((s.proxyWait.any fun y => y.line == v.2.1) = false → s.snoopAnswered v none =
        { s with snoopWait := s.snoopWait.erase v, proxied := if v.2.2 = true then s.proxied.filter (fun p => p != (v.1, v.2.1)) else s.proxied })
    ∧ (s.cycle.toNat / 2 ^ 20 ≤ s.exchanges → exec .timeFlitExchange s = .next s)
    ∧ (s.exchanges < s.cycle.toNat / 2 ^ 20 → ∃ t, exec .timeFlitExchange s = .next t ∧ t.exchanges = s.cycle.toNat / 2 ^ 20
        ∧ (s.txWait = [] → l.carries = true → 1 ≤ l.credits.get 3 → (i.val, Outgoing.time (s.cycle + s.etoff)) ∈ t.tx)
        ∧ (l.carries = false → t.links.get i = l))
    ∧ (∃ t, exec (.flitCrcFailure i) s = .next t ∧ (t.links.get i).seqIn = l.seqIn
        ∧ (s.cycle.toNat < l.since + 1200000 → (t.links.get i).replays = l.replays + 1 ∧ (t.links.get i).since = l.since)
        ∧ (l.since + 1200000 ≤ s.cycle.toNat → (t.links.get i).replays = 1 ∧ (t.links.get i).since = s.cycle.toNat))
    ∧ (l.training = false →
        (1024 < l.replays → s.cycle.toNat < l.since + 1200000 → ∃ t, exec (.linkReplayRetrain i) s = .next t ∧ (t.links.get i).training = true
          ∧ ((s.links.get (otherLink i)).carries = true → ∀ y ∈ t.txWait, y.link ≠ i))
        ∧ (l.replays ≤ 1024 ∨ l.since + 1200000 ≤ s.cycle.toNat → exec (.linkReplayRetrain i) s = .next s))
    ∧ (l.training = true → ∃ t, exec (.linkReplayRetrain i) s = .next t ∧ (t.links.get i).carries = true
        ∧ (t.links.get i).replays = 0)
    ∧ (7 ≤ ty.toNat → exec (.flitReservedType i ty) s = .next { took with dropped := s.dropped + 1 })
    ∧ (m.dstProc.val = s.encProc.toNat → s.post m = s.takeMessage m)
    ∧ (m.dstProc.val ≠ s.encProc.toNat → s.post m = s.transmit (s.linkTo m.dstProc.val m.num) (.message m))
    ∧ ((s.transmit i o).rx = s.rx ∧ (s.transmit i o).dropped = s.dropped ∧ (s.transmit i o).mem = s.mem ∧ (s.transmit i o).cores = s.cores)
    ∧ (l.carries = true → (s.txWait.all fun y => y.link != i || y.vc != o.vc) = true → o.flits ≤ l.credits.get o.vc →
        (s.transmit i o).tx = s.tx ++ [(i.val, s.stamped o)] ∧ (s.transmit i o).txWait = s.txWait)
    ∧ s.stamped (.time time) = .time (s.cycle + s.etoff) ∧ s.stamped (.message m) = .message m
    ∧ (l.carries = false ∨ l.credits.get o.vc = 0 → (s.transmit i o).tx = s.tx ∧ (s.transmit i o).txWait = s.txWait ++ [⟨i, o.vc, o.flits, o⟩])
    ∧ (s.accepts m = true → s.collOwed.find? (fun y => y.by_ m) = none → s.takeMessage m = { s with rx := s.rx ++ [m] })
    ∧ (∀ y, s.accepts m = true → s.collOwed.find? (fun y => y.by_ m) = some y →
        let u := { s with collOwed := s.collOwed.erase y }
        (m.fmt = mismatchFmt → s.takeMessage m = u)
        ∧ (m.fmt ≠ mismatchFmt → m.srcProc.val = s.encProc.toNat → s.takeMessage m = { u with rx := u.rx ++ [s.refusalOf m] })
        ∧ (m.fmt ≠ mismatchFmt → m.srcProc.val ≠ s.encProc.toNat →
            s.takeMessage m = u.transmit (u.linkTo m.srcProc.val m.num) (.message (s.refusalOf m)))
        ∧ (s.refusalOf m).fmt = mismatchFmt ∧ (s.refusalOf m).dstProc = m.srcProc ∧ (s.refusalOf m).data = [])
    ∧ (s.accepts m = false → s.takeMessage m = { s with dropped := s.dropped + 1 }))

/-! ### Faults of a role and of the device -/

/-- R430, R437: the commands on a stalled role. They are refused, with nothing changed but REJ and ERR, in the order 0x04, 0x02, 0x01, 0x03; the repeating
MEET takes ABORT only. RESUME runs the instruction at FAULTPC again and goes on behind one that has retired; SKIP goes on behind it; RESUMEAT goes on at
ROLEPC; ABORT kills the group and counts it as ended. What a role leaves behind that is sent past the instruction (passBy: a record held for it, a
barrier that it has joined, a save or a restore under way) is log 67 (DEDUCED).

R430: what RESUME and RESUMEAT leave of the role: it is not stalled, stands at the address, and its registers, loops, ports and fault registers are as
they were. -/
def Obligations.RoleCommands : Prop :=
  (∀ (a : Agent) (s : State) (p : PrivRegs) (i : Instr), s.privileged a = true → p = s.priv a →
    (i ∈ [Instr.roleResume a, .skip a, .resumeat a, .abort a] →
      (p.roleNum = 3 → exec i s = .next (s.rejectRole a 0x04))
      ∧ (p.roleNum ≠ 3 → s.owns p.ctxsel p.roleCore = false → exec i s = .next (s.rejectRole a 0x02))
      ∧ (p.roleNum ≠ 3 → s.owns p.ctxsel p.roleCore = true →
          s.roleTarget p = none ∨ (∃ id g k, s.roleTarget p = some (id, g, k) ∧ k.stalled = false) →
          exec i s = .next (s.rejectRole a 0x01)))
    ∧ (p.roleNum ≠ 3 → s.owns p.ctxsel p.roleCore = true → ∀ id g k, s.roleTarget p = some (id, g, k) → k.stalled = true →
        (s.repeatingMeet id g k = false → exec (.roleResume a) s = .next ((s.restartHeld id g k).resumeAt id k.pc))
        ∧ (s.repeatingMeet id g k = true → exec (.roleResume a) s = .next (s.rejectRole a 0x03))
        ∧ (∀ ws, k.cause.toNat % 256 = 0x0D → s.faultLine id g k = some ws → (s.repeatingMeet id g k = true ↔ decodeAt ws k.faultPc.toNat = .ok .meet))
        ∧ (s.repeatingMeet id g k = true → s.noWayOn id g k = true)
        ∧ exec (.abort a) s = .next (s.onGroup id.core id.slot fun g => { g with state := .dying false true false })
        ∧ (s.noWayOn id g k = true → exec (.resumeat a) s = .next (s.rejectRole a 0x03))
        ∧ (s.noWayOn id g k = false → p.rolePc = k.pc → exec (.resumeat a) s = .next (s.resumeAt id p.rolePc))
        ∧ (s.noWayOn id g k = false → p.rolePc ≠ k.pc →
            exec (.resumeat a) s = .next ((s.passBy id).resumeAt id p.rolePc))
        ∧ (k.retired = true → k.code ≠ 0x15 → exec (.skip a) s = .next (s.resumeAt id k.pc))
        ∧ (k.retired = true → k.code = 0x15 → exec (.skip a) s = .next (s.rejectRole a 0x03))
        ∧ (k.retired = false → s.noWayOn id g k = true → exec (.skip a) s = .next (s.rejectRole a 0x03))
        ∧ (k.retired = false → s.noWayOn id g k = false → ∀ ws, s.faultLine id g k = some ws →
            exec (.skip a) s = .next ((s.passBy id).onRole id fun r =>
              ({ r with pc := r.faultPc, stalled := false }).resumeBehind ws k.faultPc.toNat (sizeAt ws k.faultPc.toNat)))
        ∧ (id.role ≠ .compute → s.passBy id = s.onRole id fun r => { r with heldRec := none, pendingBar := none })
        ∧ (id.role = .compute → g.drainAt = none → g.squashed = [] → s.streamsOf id g = [] → g.state ≠ .starting → (∀ n r c, g.state ≠ .replaying n r c) →
            s.passBy id = s.onRole id fun r => { r with heldRec := none, pendingBar := none })
        ∧ (∀ cont, (g.state = .starting ∧ g.record.ckpt = true ∧ cont = BitVec.ofNat 64 g.record.code ∨ ∃ n r, g.state = .replaying n r cont) →
            ∃ h : Group, (s.passRestore id.core id.slot).group id.core id.slot = some h ∧ h.state = .restoring cont .none
              ∧ (h.role .compute).status = .running ∧ (h.role .compute).pc = (g.role .compute).pc
              ∧ (h.role .compute).reg 2 = BitVec.ofNat 64 g.record.index ∧ (h.role .compute).reg 3 = BitVec.ofNat 64 g.record.frame)))
  ∧ (∀ (s : State) (r : RoleId) (g : Group) (pc : Word), s.group r.core r.slot = some g →
    ∃ k, s.resumeAt r pc = s.onRole r (fun _ => k) ∧ k.stalled = false ∧ k.pc = pc ∧ k.regs = (g.role r.role).regs
      ∧ k.loops = (g.role r.role).loops ∧ k.ports = (g.role r.role).ports ∧ k.status = (g.role r.role).status
      ∧ k.cause = (g.role r.role).cause ∧ k.faultPc = (g.role r.role).faultPc ∧ k.faultVa = (g.role r.role).faultVa)

/-- R51, R53 to R58, R79, R80, R306, R307, R423, R426, R428: the steps that raise a fault or record one. A line with a reserved OWNER, with COUNT 0 or with a word that is not
zero behind COUNT is an illegal line; a flow that has ended, a PC outside the 55-bit space, a line of another role's and a word at which no instruction starts are illegal flow; a word that
decodes to nothing is an illegal instruction. A queue whose users have waited 120,000 cycles raises queue stall at those that are blocked on
it, one fault a role, core by core, slot by slot, fetch before compute before drain (that all that is due is reported in one step, and at which queue a
role blocked on several reports, is log 36, DEDUCED). The retry of the fault queue writes a held record at TAIL
and advances it while there is room.

R433, R434: a device-level fault of a class that R433 names, in every state, sets DF, CLASS and UNIT and counts one; it stops everything first: every group has left its slot,
every command, request and message of this processor is gone; then a context that ran, was suspended or drained is suspended, with a record of ORIGIN 3. That the record is made before DF
and COUNT change, with the new fault's class and unit, is log 68 (DEDUCED). -/
def Obligations.FaultSteps : Prop :=
  (∀ (s u : State) (g : Group) (k : Role) (t : Trap) (keep : Option State) (x : CtxId) (q : QueueName), Acts s g k →
    (k.status = .running → k.stalled = false → ∀ (ws : List Nat), let pc := k.pc.toNat
      let link := ws.headD 0
      let owner := link / 2 ^ 29 % 8
      let count := link / 2 ^ 25 % 16
      let legal := owner ≤ 4 ∧ count ≠ 0 ∧ ∀ w ∈ ws.drop (count + 1), w = 0
      let inHand := (k.line ≠ [] ∧ ws = k.line) ∨ (k.line = [] ∧ s.lineHeld (s.self g) (pc / 64 * 64) = some ws)
      (pc < 2 ^ 55 → inHand → ¬ legal →
        exec .illegalLine s = .next (s.takeFault s.cur { code := 0x02, va := BitVec.ofNat 64 (pc / 64 * 64) } k.pc false))
      ∧ (k.ended = false → 2 ^ 55 ≤ pc → exec .illegalFlow s = .next (s.takeFault s.cur { code := 0x15, va := 0 } k.pc false))
      ∧ (k.ended = false → pc < 2 ^ 55 → inHand → legal →
          (ownerOk s.cur.role g.inSequence owner = false ∨ (k.chained = true ∧ owner ≠ 3) ∨ pc % 4 ≠ 0 ∨ wordLegal ws (pc % 64 / 4) = false) →
          exec .illegalFlow s = .next (s.takeFault s.cur { code := 0x15, va := 0 } k.pc false))
      ∧ (k.line ≠ [] → ws = k.line → pc < 2 ^ 55 → legal → ownerOk s.cur.role g.inSequence owner = true → (k.chained = true → owner = 3) →
          pc % 4 = 0 → wordLegal ws (pc % 64 / 4) = true → ∀ e, decodeAt ws pc = .error e → exec .illegalInstruction s =
            .next ((s.onRole s.cur fun k => { k with line := ws, chained := false }).takeFault s.cur { code := 0x01, va := 0 } k.pc false))
      ∧ (Runs arrive s ws u → ∀ e, decodeAt ws pc = .error e →
          exec .illegalInstruction s = .next (u.takeFault s.cur { code := 0x01, va := 0 } k.pc false))
      ∧ (Raises arrive s t keep → ∀ i, (t.code, i) ∈ [(0x01, Instr.illegalInstruction), (0x02, .illegalLine), (0x15, .illegalFlow)] →
        (t.code = 0x15 → k.ended = false) → exec i s = .next (s.takeFault s.cur t k.pc false))
      ∧ (k.ended = true → (s.cur.role = .compute → g.inSequence = false) →
          exec .illegalFlow s = .next (s.takeFault s.cur { code := 0x15, va := 0 } k.pc true))
      ∧ (k.ended = true → s.cur.role = .compute → g.inSequence = true → exec .illegalFlow s = .next s))
    ∧ (∀ (c : CoreId) (i : SlotId) (n : Fin 4) (b : Group) (since : Nat), s.group c i = some b →
        let user := b.role (consumer n.val)
        let other := b.role (producer n.val)
        b.roleq.get n = [] → user.status = .running → user.stalled = false → user.blocked = [⟨.role c i n, false, since⟩] →
        since + 120000 ≤ s.cycle.toNat → b.roleqMoved.get n + 120000 ≤ s.cycle.toNat → other.status ≠ .running →
        other.restAt + 120000 ≤ s.cycle.toNat → ∃ t b', exec (.queueStall (.role c i n)) s = .next t ∧ t.group c i = some b'
          ∧ (let hit := b'.role (consumer n.val)
            hit.stalled = true ∧ hit.cause.toNat % 256 = 0x0E ∧ hit.faultPc = user.pc ∧ hit.retired = false
              ∧ hit.faultVa = BitVec.ofNat 64 (4 * 2 ^ 60 + n.val) ∧ hit.regs = user.regs ∧ hit.pc = user.pc))
    ∧ (s.stalledQueue q = true → exec (.queueStall q) s = .next
        (s.stallHits.foldl (fun t h => t.takeFault h.2.1 { code := 0x0E, va := stallVa h.1 } h.2.2 false) s))
    ∧ (∀ h ∈ s.stallHits, ∃ b ∈ s.allRoles, b.1 = h.2.1 ∧ b.2.2.pc = h.2.2 ∧ s.stalledQueue h.1 = true ∧ ∃ w ∈ b.2.2.blocked, w.queue = h.1)
    ∧ (s.stallHits.map fun h => (h.2.1.core.val * 4 + h.2.1.slot.val) * 3 + (roleIx h.2.1.role).val).Pairwise (· < ·)
    ∧ (s.stallHits.map fun h => h.2.1).Sublist (s.allRoles.map fun b => b.1)
    ∧ (s.stalledQueue q = false → exec (.queueStall q) s = .next s)
    ∧ exec (.faultQueueRetry x) s = .next (flushHeld x (65 + (s.ctx x).faultUnheld.length) s)
    ∧ ((s.ctx x).faultHeld = [] → exec (.faultQueueRetry x) s = .next s)
    ∧ (∀ (rcd h : List Byte) (s1 s2 s3 s4 : State), (s.ctx x).faultHeld = [rcd] →
        let fq := (s.ctx x).desc.faultq.toNat
        let va := fq % 2 ^ 55
        let w : Who := ⟨x, none, none⟩
        let cap := leNat ((h.drop 8).take 4)
        let head := leNat ((h.drop 16).take 8)
        let tail := leNat ((h.drop 24).take 8)
        fq / 2 ^ 55 = 0x82 → fq % 64 = 0 → Runs (memReadBytes w va 64 .queue) s h s1 → faultHeaderOk h = true →
        (cap ≤ (tail + 2 ^ 64 - head) % 2 ^ 64 → exec (.faultQueueRetry x) s = .next s)
        ∧ ((tail + 2 ^ 64 - head) % 2 ^ 64 < cap → Runs (memWriteBytes w (leNat (h.take 8) + 64 * (tail % cap)) rcd) s1 () s2 →
            Runs (memWriteNat w (va + 24) 8 (tail + 1)) s2 () s3 → Runs (memWriteNat w (va + 32) 8 0) s3 () s4 →
            (s4.ctx x).faultUnheld = [] → exec (.faultQueueRetry x) s = .next (s4.onCtx x fun c => { c with faultHeld := [] })))
    ∧ (∀ rcd, (s.ctx x).faultHeld = [rcd] → (s.ctx x).faultUnheld = [] → Runs (pushFault x rcd 0) s true u → (u.ctx x) = (s.ctx x) →
        exec (.faultQueueRetry x) s = .next (u.onCtx x fun c => { c with faultHeld := [] })))
  ∧ (∀ (s : State) (cls : Fin 16) (unit : BitVec 8),
    ((cls.val = 0 ∨ 7 ≤ cls.val) → exec (.deviceLevelFault cls unit) s = .next s)
    ∧ (1 ≤ cls.val → cls.val ≤ 6 → ∃ t, exec (.deviceLevelFault cls unit) s = .next t ∧ t.devDf = true
        ∧ t.devClass.toNat = cls.val ∧ t.devUnit = unit ∧ t.devCount = s.devCount + 1
        ∧ (cls.val ≠ 3 → t.lostStacks = s.lostStacks)
        ∧ (cls.val = 3 → t.lostStacks = s.lostStacks ||| BitVec.ofNat 8 (2 ^ (unit.toNat % 8)))
        ∧ (∀ x, (s.ctx x).state = .running → (s.ctx x).levels = [] → (∀ p, (s.readyQ x p).items = []) →
            (∀ y, y ≠ x → (s.ctx y).state = .free) → (t.ctx x).state = .suspended)
        ∧ ((∀ x, (s.ctx x).state = .free) → t.devClass.toNat = cls.val ∧ t.devUnit = unit ∧ t.devCount = s.devCount + 1
            ∧ (∀ c i, t.group c i = none) ∧ (cls.val ≠ 3 → t.lostStacks = s.lostStacks)))
    ∧ (∀ c i, s.stopAll.group c i = none) ∧ (∀ c, (s.stopAll.core c).cmds = [] ∧ (s.stopAll.core c).array = [])
    ∧ s.stopAll.reqs = [] ∧ s.stopAll.inflight = [] ∧ s.stopAll.rx = [] ∧ s.stopAll.walks = []
    ∧ s.stopAll.tx = s.tx ∧ (∀ y ∈ s.stopAll.txWait, ∀ m, y.out = .message m → m.srcProc.val ≠ s.encProc.toNat)
    ∧ (∀ p ∈ s.stopAll.lats, p.2.stream = none)
    ∧ (∀ x drain, State.deviceFaultCtx.report x s drain =
        (s.onCtx x fun c => { c with state := .suspended, busy := c.busy && c.state == .suspended, drainMark := c.drainMark || drain }).deliverOther x 3 0 s.devstat))

/-- R121, R234, R255, R421, R440: writes of the host and of privileged roles: a register of the system block, a launch window, the mailbox; what the host reads of a launch window; an access of
the host through BAR2: the bytes of a read come back; one that fails changes nothing, ends with a completer abort, a read with all ones, and is recorded with ORIGIN 2. That an access to
a context that is not assigned is aborted without a record, the bounds of an access, and that a misaligned register write is ignored, is log 70
(DEDUCED). -/
def Obligations.HostAccesses : Prop :=
  ∀ (s s1 : State) (off len : Nat) (v : Word) (x : CtxId) (r : RoleId) (o : Fin (2 ^ 30)) (bs : List Byte) (t : Trap) (keep : Option State),
    (off % 8 = 0 → off < 0x8000 → csrAssigned (0x1000 + off / 8) = true →
      exec (.registerWrite .host off v) s = sysWrite .host (0x1000 + off / 8) v s)
    ∧ (exec (.registerWrite .host (0x10000 + 4096 * x.val) v) s = exec (.hostLaunch x (some v)) s)
    ∧ (exec (.registerWrite .host (0x10010 + 4096 * x.val) v) s =
        .next (s.onCtx x fun c => { c with apBase := v &&& BitVec.ofNat 64 (2 ^ 55 - 2 ^ 30) }))
    ∧ (off % 8 = 0 → off < 0x2000 → exec (.registerWrite .host (0x20000 + off) v) s = .next (s.mbWrite off v))
    ∧ (off % 8 ≠ 0 → exec (.registerWrite .host off v) s = .next s)
    ∧ (s.privileged (.role r) = true → 0x1000 ≤ off → csrAssigned off = true →
        exec (.registerWrite (.role r) off v) s = sysWrite (.role r) off v s)
    ∧ (sysWrite .host 0x1000 v s = .next (s.onPriv .host fun p => { p with ctxsel := Fin.ofNat 16 v.toNat }))
    ∧ ((s.ctx x).assigned = true →
        let va := (s.ctx x).apBase.toNat + o.val
        let rd : HostAccess := ⟨x, o, len, none⟩
        let wr : HostAccess := ⟨x, o, bs.length, some bs⟩
        (hostAccessOk o.val len = true →
          (Runs (memReadBytes ⟨x, none, none⟩ va len) s bs s1 → exec (.hostBar2Access x o len none) s =
            .next { s1 with bar2 := some ⟨false, bs⟩, bar2Wait := s1.bar2Wait.erase rd })
          ∧ (Raises (memReadBytes ⟨x, none, none⟩ va len) s t keep → exec (.hostBar2Access x o len none) s =
              .next (({ s with bar2 := some ⟨true, List.replicate len 0xFF⟩, bar2Wait := s.bar2Wait.erase rd } : State).deliverOther x 2 t.code t.va.toNat)))
        ∧ (hostAccessOk o.val bs.length = true →
            (Runs (memWriteBytes ⟨x, none, none⟩ va bs) s () s1 → exec (.hostBar2Access x o len (some bs)) s =
              .next { s1 with bar2 := some ⟨false, []⟩, bar2Wait := s1.bar2Wait.erase wr })
            ∧ (Raises (memWriteBytes ⟨x, none, none⟩ va bs) s t keep → exec (.hostBar2Access x o len (some bs)) s =
                .next (({ s with bar2 := some ⟨true, []⟩, bar2Wait := s.bar2Wait.erase wr } : State).deliverOther x 2 t.code t.va.toNat))))
    ∧ ((s.ctx x).assigned = false → hostAccessOk o.val len = true → exec (.hostBar2Access x o len none) s =
        .next { s with bar2 := some ⟨true, List.replicate len 0xFF⟩, bar2Wait := s.bar2Wait.erase ⟨x, o, len, none⟩ })
    ∧ (hostAccessOk o.val len = false → exec (.hostBar2Access x o len none) s = .next s)
    ∧ s.bar0Read (0x10008 + 4096 * x.val) = (s.ctx x).hostResult ∧ s.bar0Read (0x10010 + 4096 * x.val) = (s.ctx x).apBase
    ∧ s.bar0Read (0x10000 + 4096 * x.val) = 0

/-! ### The controller -/

/-- R438, R439, R441, R443 to R445, R447: at power-up bring-up begins with step 1, everything at its reset value but what fuses, image store, audit
store and pool devices keep (that the pool keeps its bytes, and that other memory is open, is log 4, DESIGN CHOICE; that the rules of the safe state
hold in bring-up is log 71). Each step shows in BRSTAT and ends, failed or not: a failure of step 1 leaves no part that answers, of steps 2, 3, 4 or 6
the safe state with its code, of step 5 ports marked down; a torn image fails step 2; CYCLE counts from step 4; behind step 6 the part is ready. Without
power only bring-up acts. Power-down, tamper, the power windows and the end of full throttle. -/
def Obligations.PowerAndSafety : Prop :=
  ∀ (s : State) (f : Option (Fin 7)) (i : Instr),
    let n := s.ctl.stage.toNat
    let fails := (∃ m, f = some m ∧ m.val = n) ∨ (n = 2 ∧ s.ctl.torn = true)
    (s.power = false →
      (∃ t, exec (.bringUp f) s = .next t ∧ t.power = true ∧ t.ctl.stage = 1 ∧ t.ctl.code = 0 ∧ t.ctl.counting = false ∧ t.ctl.history = [(1, 0)]
        ∧ t.mem = s.cold.mem ∧ t.opened = s.cold.opened ∧ (∀ k, 2 ^ 44 ≤ k → k < 2 ^ 44 + 2 ^ 45 → t.byteAt k = s.byteAt k)
        ∧ t.cycle = 0 ∧ t.cores = State.reset.cores ∧ t.ctxs = State.reset.ctxs ∧ t.keySlots = State.reset.keySlots
        ∧ t.ctl.debugLock = s.ctl.debugLock ∧ t.ctl.version = s.ctl.version ∧ t.ctl.audits = s.ctl.audits ∧ t.ctl.auditCount = s.ctl.auditCount
        ∧ t.ctl.torn = s.ctl.torn ∧ t.ctl.debugOpen = !s.ctl.debugLock)
      ∧ (s.agenda = [.event i] → (∀ h, i ≠ .bringUp h) → step s = .fault .poweredOff))
    ∧ (s.power = true → 1 ≤ n → n ≤ 6 →
        (¬ fails → ∃ t, exec (.bringUp f) s = .next t ∧ t = { s with ctl := t.ctl } ∧ t.ctl.stage.toNat = n + 1 ∧ t.ctl.code = 0
          ∧ t.ctl.counting = (s.ctl.counting || n == 4) ∧ t.ctl.history = s.ctl.history ++ [(n + 1, 0)] ∧ (n = 6 → t.safe = false)
          ∧ t.ctl.debugOpen = s.ctl.debugOpen ∧ t.ctl.audits = s.ctl.audits)
        ∧ (fails → n = 1 → ∃ t, exec (.bringUp f) s = .next t ∧ t.power = false)
        ∧ (fails → ∀ code : BitVec 8, (n, code) ∈ [(2, 0x01), (3, 0x02), (4, 0x03), (6, 0x05)] → ∃ t,
            exec (.bringUp f) s = .next t ∧ t.safe = true ∧ t.ctl.stage = 8 ∧ t.ctl.code = code ∧ t.ctl.counting = s.ctl.counting
              ∧ ∀ q : Fin 16, t.keySlots.get q = 0)
        ∧ (fails → n = 5 → ∃ t, exec (.bringUp f) s = .next t ∧ t.ctl.stage = 6
            ∧ ∀ p : Fin 8, t.heads.get p = ⟨!Config.mixed (s.tick + p.val), none, []⟩))
    ∧ (s.power = true → n = 0 ∨ 6 < n → exec (.bringUp f) s = .next s)
    ∧ (∃ t, exec .powerDown s = .next t ∧ t.power = false ∧ t.ctl.debugOpen = false ∧ t.ctl.debugLock = s.ctl.debugLock
        ∧ t.ctl.audits = s.ctl.audits ∧ t.mem = s.cold.mem)
    ∧ (∃ t, exec .tamper s = .next t ∧ t.safe = true ∧ t.ctl.code = 0x10 ∧ t.ctl.staged = [] ∧ t.ctl.debugOpen = false
        ∧ (∀ q : Fin 16, t.keySlots.get q = 0) ∧ (s.mb.busy = true → t.mb.finished = some 2) ∧ ∀ c j, t.group c j = none)
    ∧ (s.ctl.stage = 8 → s.ctl.code = 0x10 → ∀ code, (s.enterSafe code).ctl.code = 0x10)
    ∧ exec (.powerWindow ⟨false, 0⟩) s = .next { s with ctl := { s.ctl with throttle := 0, fullSince := none } }
    ∧ (∀ (p : Bool) (j : Fin 3), p = true ∨ j ≠ 0 →
        let t := { s with ctl := { s.ctl with throttle := Fin.ofNat 4 (min 3 (s.ctl.throttle.val + 1)), fullSince :=
          if 2 ≤ s.ctl.throttle.val ∧ p = true then some (s.ctl.fullSince.getD s.cycle.toNat) else none } }
        (j ≠ 2 → exec (.powerWindow ⟨p, j⟩) s = .next t) ∧ (j = 2 → exec (.powerWindow ⟨p, j⟩) s = .next (t.deviceFault 5 0)))
    ∧ (∀ n, s.ctl.fullSince = some n →
        (s.cycle.toNat < n + 12000000 → exec .fullThrottleTimeout s = .next s)
        ∧ (n + 12000000 ≤ s.cycle.toNat → exec .fullThrottleTimeout s =
            .next (({ s with ctl := { s.ctl with fullSince := none } } : State).deviceFault 5 0)))

/-- R439 to R444, R448: the controller's own commands of the mailbox, in progress and not done: each does its work and has its result, or goes on waiting; its
completion clears BUSY, sets DONE with the result, and signals. RESET is done when bring-up has ended, and is refused after tamper. A staged image
verifies where it has the form of R442 and both signatures hold. Which result a command answers where its rule names none is the model's reading (log
22), what the controller's cryptography answers is open, and the places of the header's fields (log 11), the layout of a diagnostic page is open (log
26), that the debug port stays as it is over RESET, and which failure the audit meets, is log 71. -/
def Obligations.MailboxController : Prop :=
  ∀ (s : State),
    let op := fun (i : Fin 8) => (s.mb.ops.get i).toNat
    let Does := fun (i : Instr) (code : Nat) (r : BitVec 8) (t : State) => s.mbPending code = true → exec i s = .next (t.mbDone r)
    let Goes := fun (i : Instr) (code : Nat) (t : State) =>
      s.mbPending code = true → exec i s = .next { t with mb := { t.mb with begun := true } }
    let key : Fin 16 := Fin.ofNat 16 (op 0)
    (s.mb.busy = true → ∀ r, s.mb.finished = some r → ∃ t, exec .mbCommandComplete s = .next t ∧ t.mb.busy = false ∧ t.mb.done = true
      ∧ t.mb.result = r ∧ t.msi = s.msi ++ [16] ∧ t.ctl.applying = false ∧ t.mem = s.mem)
    ∧ Does .diag 0x01 0 { s with mb := { s.mb with data := (List.range 4096).map (Config.diag s.diagFacts (op 0)) } }
    ∧ (s.mb.begun = false → s.ctl.stage = 8 ∧ s.ctl.code = 0x10 → Does .reset 0x02 2 s)
    ∧ (s.mbPending 0x02 = true → s.mb.begun = false → ¬ (s.ctl.stage = 8 ∧ s.ctl.code = 0x10) → s.power = true → ∃ t, exec .reset s = .next t
        ∧ t.mb.busy = true ∧ t.mb.begun = true ∧ t.mb.finished = none ∧ t.ctl.stage = 1 ∧ t.ctl.debugOpen = s.ctl.debugOpen
        ∧ t.ctl.audits = s.ctl.audits ∧ t.ctl.history = s.ctl.history ++ [(1, 0)] ∧ t.ctxs = State.reset.ctxs ∧ t.mem = s.cold.mem)
    ∧ (s.mb.begun = true → (s.bringingUp = true → Goes .reset 0x02 s) ∧ (s.bringingUp = false → Does .reset 0x02 0 s))
    ∧ (op 0 < 16 → s.ctl.debugOpen = false → s.keyInUse key = false → 
        match keyUnwrap ((List.range 32).map Config.provisioning) 16 (s.mb.data.take 136) with
        | none => Does .keyload 0x10 1 s
        | some v => Does .keyload 0x10 0 { s with keySlots := s.keySlots.set key.val (BitVec.ofNat 1024 (leNat v)) key.isLt })
    ∧ (16 ≤ op 0 → Does .keyload 0x10 1 s ∧ Does .keyzero 0x11 1 s)
    ∧ (op 0 < 16 → s.ctl.debugOpen = true → Does .keyload 0x10 2 s)
    ∧ (op 0 < 16 → s.keyInUse key = true → s.ctl.debugOpen = false → Does .keyload 0x10 4 s ∧ Does .keyzero 0x11 4 s)
    ∧ (op 0 < 16 → s.keyInUse key = false → Does .keyzero 0x11 0 { s with keySlots := s.keySlots.set key.val 0 key.isLt })
    ∧ (4096 < op 1 → Does .fwstage 0x20 1 s)
    ∧ (1 ≤ op 1 → op 1 ≤ 4096 → Does .fwstage 0x20 0
        { s with ctl := { s.ctl with stagedOk := false, staged := splice (s.ctl.staged ++ List.replicate (op 0 + op 1 - s.ctl.staged.length) 0) (op 0) (s.mb.data.take (op 1)) } })
    ∧ (∀ (b : List Byte) (v : BitVec 32), let h := b.take 512; let body := fwField h 2
        fwVersion b = some v ↔ v = BitVec.ofNat 32 (fwField h 1) ∧ 512 ≤ b.length ∧ fwField h 0 = 0x4657 ∧ body ≤ 2 ^ 24
          ∧ (∀ j < 512, fwNamed j = true ∨ h.getD j 0 = 0) ∧ 512 + body + 384 + 16224 ≤ b.length
          ∧ Config.signed (b.take (512 + body)) ((b.drop (512 + body)).take 384) ((b.drop (512 + body + 384)).take 16224) = true)
    ∧ (op 1 = 0 → match fwVersion s.ctl.staged with
        | none => Does .fwstage 0x20 3 { s with ctl := { s.ctl with stagedOk := false } }
        | some v => (s.ctl.minVersion ≤ v → Does .fwstage 0x20 0 { s with ctl := { s.ctl with stagedOk := true } })
            ∧ (v < s.ctl.minVersion → Does .fwstage 0x20 3 { s with ctl := { s.ctl with stagedOk := false } }))
    ∧ (s.ctl.stagedOk = false → Does .fwapply 0x21 2 s)
    ∧ (s.ctl.stagedOk = true → (∃ x, (s.ctx x).state = .running ∨ (s.ctx x).state = .draining) → Goes .fwapply 0x21 s)
    ∧ (s.ctl.stagedOk = true → (∀ x, (s.ctx x).state ≠ .running ∧ (s.ctx x).state ≠ .draining) → ∀ v,
        v = (fwVersion s.ctl.staged).getD s.ctl.version → Does .fwapply 0x21 0 { s with ctl := { s.ctl with applying := true, version := v, minVersion := v, torn := false } })
    ∧ (s.ctl.debugLock = true → s.allFree = true → ∀ n, n = s.ctl.auditCount + 1 →
        match Config.authorized s.mb.data n with
        | none => Does .dbgunlock 0x30 3 s
        | some scope => (255 < n → Does .dbgunlock 0x30 5 s)
            ∧ (n ≤ 255 → ∀ e, Config.auditFails s.tick = some e →
                Does .dbgunlock 0x30 e.2 { s with ctl := { s.ctl with auditCount := if e.1 = true then n else s.ctl.auditCount, debugOpen := false } })
            ∧ (n ≤ 255 → Config.auditFails s.tick = none → ∀ rs,
                rs = s.ctl.audits ++ [auditRecord n s.cycle scope (s.mb.data.take (Config.authLength s.mb.data))] →
                Does .dbgunlock 0x30 0 { s with ctl := { s.ctl with auditCount := n, debugOpen := true, audits := rs } }))
    ∧ (s.ctl.debugLock = true → s.allFree = false → Does .dbgunlock 0x30 2 s) ∧ (s.ctl.debugLock = false → Does .dbgunlock 0x30 0 s)
    ∧ Does .dbglock 0x31 0 { s with ctl := { s.ctl with debugOpen := !s.ctl.debugLock } }
    ∧ (∀ r, (s.ctl.audits.find? fun r => leNat (r.take 4) == op 0) = some r →
        Does .dbglog 0x32 0 { s with mb := { s.mb with data := splice s.mb.data 0 r } })
    ∧ (∀ c : CoreId, c.val = op 0 % 128 → s.svcOk = true →
        (op 0 / 2 ^ 8 % 2 = 1 → s.mb.begun = true ∨ s.serviced.getLsbD c.val = false → ∀ t u, t = s.setServiced c true →
          (t.residents c none ≠ [] → Goes .coresvcOut 0x40 t)
          ∧ (t.residents c none = [] → u = t.svcMove c (fun w j pa => w.svcOut (s.svcKey c) j pa) →
              (∀ x, s.coreCtx c = some x → Does .coresvcOut 0x40 0 (u.zeroCore x c)) ∧ (s.coreCtx c = none → Does .coresvcOut 0x40 0 u)))
        ∧ (op 0 / 2 ^ 8 % 2 = 1 → s.mb.begun = false → s.serviced.getLsbD c.val = true → Does .coresvcOut 0x40 2 s)
        ∧ (op 0 / 2 ^ 8 % 2 = 0 → s.serviced.getLsbD c.val = false → Does .coresvcIn 0x40 2 s)
        ∧ (op 0 / 2 ^ 8 % 2 = 0 → s.serviced.getLsbD c.val = true → ∀ u, u = s.svcMove c (fun w j pa => w.svcIn (s.svcKey c) j pa) →
            Does .coresvcIn 0x40 0 ((u.zeroUnder (s.svcKey c) (op 1) (9 * 2 ^ 20)).setServiced c false)))
    ∧ (op 0 < 512 → Does .pccal 0x41 0 s) ∧ (512 ≤ op 0 → Does .pccal 0x41 1 s)

/-- R400, R402, R403, R407, R408, R410, R413, R441: the commands of the mailbox on pool regions, dynamic capacity, heads and links, in progress and not done. Which
result a command answers where its rule names none is the model's reading (log 22). -/
def Obligations.MailboxPool : Prop :=
  ∀ (s s1 : State) (b : List Byte × Bool) (r : Region) (e : Extent),
    let op := fun (i : Fin 8) => (s.mb.ops.get i).toNat
    let Does := fun (i : Instr) (code : Nat) (r : BitVec 8) (t : State) => s.mbPending code = true → exec i s = .next (t.mbDone r)
    let Goes := fun (i : Instr) (code : Nat) (t : State) =>
      s.mbPending code = true → exec i s = .next { t with mb := { t.mb with begun := true } }
    let port : Fin 8 := Fin.ofNat 8 (op 0)
    (64 ≤ op 0 → Does .regdecl 0x50 1 s)
    ∧ (op 0 < 64 → s.region (op 0) = some r → Does .regdecl 0x50 4 s)
    ∧ (op 0 < 64 → s.region (op 0) = none → Runs (rawRead none 0 (op 1) 64) s b s1 →
        (parseRegion b.1 = none → Does .regdecl 0x50 1 s1)
        ∧ (parseRegion b.1 = some r → Does .regdecl 0x50 0 (s1.setRegion (op 0) (some r))))
    ∧ (s.region (op 0) = none → Does .regdrop 0x51 1 s ∧ Does .regstate 0x52 1 s)
    ∧ (s.region (op 0) = some r →
        (s.regionUsed r = true → Does .regdrop 0x51 4 s)
        ∧ (s.regionUsed r = false → Does .regdrop 0x51 0
            ((r.devices.foldl (fun t c => t.flushRange (r.onDevice c).pbase r.size) s).setRegion (op 0) none))
        ∧ (r.kind ≠ 2 ∨ 1 < op 1 → Does .regstate 0x52 1 s)
        ∧ (r.kind = 2 → op 1 ≤ 1 →
            (r.ownProc ≠ s.encProc.toNat → Does .regstate 0x52 2 s)
            ∧ (r.ownProc = s.encProc.toNat → s.mcstTo (op 0) = true → Goes .regstate 0x52 s)
            ∧ (r.ownProc = s.encProc.toNat → s.mcstTo (op 0) = false →
                Does .regstate 0x52 0 (s.setRegion (op 0) (some { r with update := op 1 == 1 })))))
    ∧ (s.extent (op 0) = none → Does .dcaccept 0x53 1 s ∧ Does .dcrelease 0x54 1 s)
    ∧ (s.extent (op 0) = some e →
        (e.state ≠ .offered → Does .dcaccept 0x53 2 s)
        ∧ (e.state = .offered →
            (Runs (logCapacity e.base (e.size % 2 ^ 63)) s () s1 →
              Does .dcaccept 0x53 0 (s1.onExtent e.id fun e => { e with state := .granted }))
            ∧ (Waits (logCapacity e.base (e.size % 2 ^ 63)) s → Goes .dcaccept 0x53 s))
        ∧ (e.state ≠ .granted → e.state ≠ .revoking → Does .dcrelease 0x54 2 s)
        ∧ (e.state = .granted ∨ e.state = .revoking →
            (Runs (logCapacity e.base (e.size % 2 ^ 63 + 2 ^ 63)) s () s1 → ∀ t, t = s1.flushRange e.base e.size →
              Does .dcrelease 0x54 0 { t with extents := t.extents.filter fun f => f.id != e.id })
            ∧ (Waits (logCapacity e.base (e.size % 2 ^ 63 + 2 ^ 63)) s → Goes .dcrelease 0x54 s)))
    ∧ (8 ≤ op 0 → Does .headdown 0x55 1 s ∧ Does .headup 0x56 1 s ∧ Does .proxy 0x57 1 s ∧ Does .linkrt 0x58 1 s)
    ∧ (op 0 < 8 →
        Does .headdown 0x55 0 (s.markDown port)
        ∧ (s.mbPending 0x56 = true → ∃ t, exec .headup s = .next t ∧ (t.heads.get port).up = true ∧ (t.heads.get port).cache = []
            ∧ t.mb.finished = some 0)
        ∧ (op 1 < 16 → s.encSize ≠ 0 → (∃ i < 8, linkPeer s.encSize.toNat s.encProc.toNat i = op 1) →
            Does .proxy 0x57 0 { s with heads := s.heads.set port.val { s.heads.get port with proxy := some (op 1) } port.isLt })
        ∧ (16 ≤ op 1 ∨ s.encSize = 0 ∨ (∀ i < 8, linkPeer s.encSize.toNat s.encProc.toNat i ≠ op 1) → Does .proxy 0x57 1 s)
        ∧ (s.encSize = 0 → Does .linkrt 0x58 2 s)
        ∧ (s.encSize ≠ 0 → s.mb.begun = false → Goes .linkrt 0x58 (s.beginTraining port))
        ∧ (s.encSize ≠ 0 → s.mb.begun = true → (s.links.get port).training = true → Goes .linkrt 0x58 s)
        ∧ (s.encSize ≠ 0 → s.mb.begun = true → (s.links.get port).training = false → Does .linkrt 0x58 0 s))

/-! ### Encoding -/

/-- R53 to R56, R65 to R73, R77, R78: the words of the spec's two worked lines decode to the instructions that stand beside them. -/
def Obligations.DecodeKnownWords : Prop :=
  decodeWords [0xF4000001, 0] = .ok (.fork 1 0) ∧ decodeWords [0x08900008] = .ok (.addi 9 0 8)
  ∧ decodeWords [0x08A00000] = .ok (.addi 10 0 0) ∧ decodeWords [0x04A2BC00] = .ok (.add 10 10 60)
  ∧ decodeWords [0x08927FFF] = .ok (.addi 9 9 (-1)) ∧ decodeWords [0x64900005] = .ok (.bne 9 0 ⟨0, 5⟩)
  ∧ decodeWords [0xA0000005] = .ok .meet ∧ decodeWords [0x48A1008C] = .ok (.st .d 10 4 8) ∧ decodeWords [0x00100000] = .ok .endGroup
  ∧ decodeWords [0x43C1000C] = .ok (.ld .d 60 4 0) ∧ decodeWords [0x04518700] = .ok (.add 5 6 7)
  ∧ decodeWords [0xE0008058, 0x01802800] = .ok (.vadd ⟨0, 2, .rne, false, 12, 10, .f32, .f32, .reg 11⟩)
  ∧ decodeWords [0x4090C02C] = .ok (.ld .d 9 3 2) ∧ decodeWords [0] = .ok .nop

/-- R65 to R78: every well-formed instruction with an encoding, at every value of its operands, has words of 32 bits, one or two of them, that decode to it
whatever follows. -/
def Obligations.DecodeOfEncode : Prop :=
  ∀ (i : Instr) (more : List Nat), i.wf = true → Instr.isEvent i = false →
    decodeWords (encode i ++ more) = .ok i ∧ (∀ w ∈ encode i, w < 2 ^ 32) ∧ (encode i).length = wordsOf ((encode i).headD 0)

/-- R5, R63, R75, R79: a word decodes only if every bit of it is accounted for: an instruction that the decoder reads is well formed, and its encoding is the
words that were read. So no two instructions share words, and reserved bits and codes are refused. -/
def Obligations.EncodeOfDecode : Prop :=
  ∀ (w0 w1 : Nat) (more : List Nat) (i : Instr), w0 < 2 ^ 32 → w1 < 2 ^ 32 → decodeWords (w0 :: w1 :: more) = .ok i →
    i.wf = true ∧ encode i = (w0 :: w1 :: more).take (wordsOf w0)

/-- R79: majors that R76 does not list, function codes of SYS and of ALU3 that R67 and R77 do not list, sub-ops beyond R78, the lengths 0 and 7 and the reserved source of the b field
decode to no instruction. -/
def Obligations.ReservedEncodings : Prop :=
  ∀ (w0 : Nat) (more : List Nat) (i : Instr), w0 < 2 ^ 32 → decodeWords (w0 :: more) = .ok i →
    let major := w0 / 2 ^ 26
    let sub := w0 / 2 ^ 20 % 2 ^ 6
    major ∉ [0x0D, 0x0E, 0x0F, 0x17, 0x1F, 0x23, 0x26, 0x29, 0x2A, 0x2B, 0x2D, 0x2F, 0x30, 0x31, 0x32, 0x33, 0x34, 0x35, 0x36, 0x37, 0x3E, 0x3F]
    ∧ (major = 0x00 → sub ≤ 0x0A)
    ∧ (major = 0x01 → w0 % 2 ^ 8 ≤ 0x1E ∨ 0x21 ≤ w0 % 2 ^ 8 ∧ w0 % 2 ^ 8 ≤ 0x23)
    ∧ (major = 0x38 → sub ≤ 0x25) ∧ (major = 0x39 → sub ≤ 0x07) ∧ (major = 0x3A → sub ≤ 0x05) ∧ (major = 0x3B → sub ≤ 0x0C)
    ∧ (major = 0x3C → sub ≤ 0x10) ∧ (major = 0x3D → sub ≤ 0x02)
    ∧ (major = 0x38 ∨ major = 0x39 → 1 ≤ w0 / 2 ^ 14 % 8 ∧ w0 / 2 ^ 14 % 8 ≤ 6)
    ∧ (major = 0x38 → ∃ w1 t, more = w1 :: t ∧ w1 % 4 ≠ 3 ∧ w1 / 2 ^ 6 % 16 ≤ 12)
    ∧ (0x38 ≤ major → more ≠ [])

/-! ### Steps -/

/-- R54, R80, R97, R438: when the words at the PC of the role whose turn it is decode to an instruction, the step is exec of it at the state after the fetch, and then the clock advances, once CYCLE counts (R438); words that decode to none raise
illegal instruction. A turn comes from the agenda, or else from the default order (log 1, log 2). -/
def Obligations.StepRunsInstruction : Prop :=
  ∀ (s u : State) (r : RoleId) (more : List Turn) (g : Group) (k : Role) (ws : List Nat), s.power = true →
    (s.agenda = .role r :: more ∨ s.agenda = [] ∧ more = [] ∧ s.defaultTurn = some (.role r)) →
    let at_ := { s with agenda := more, cur := r, engineTurn := if s.agenda = [] then !s.engineTurn else s.engineTurn }
    Acts at_ g k → s.mayIssue r = true → k.ended = false → Runs arrive at_ ws u →
    (∀ i, decodeWords ((ws.take (ws.headD 0 / 2 ^ 25 % 16 + 1)).drop (k.pc.toNat % 64 / 4)) = .ok i →
      step s = Outcome.after State.advance (exec i u))
    ∧ (∀ e, decodeWords ((ws.take (ws.headD 0 / 2 ^ 25 % 16 + 1)).drop (k.pc.toNat % 64 / 4)) = .error e →
        step s = .next (u.takeFault r { code := 0x01, va := 0 } k.pc false).advance)
    ∧ ∀ t : State, t.advance.cycle = (if t.ctl.counting = true then t.cycle + 1 + BitVec.ofNat 64 (Config.stall t.tick) else t.cycle)
        ∧ t.advance.mem = t.mem ∧ t.advance.cores = t.cores
        ∧ t.advance.ctxs = t.ctxs

/-- R438, R444: a turn of the part or of a party outside it is exec of its operation; without power only bring-up is a turn. That the agenda orders these turns is the model's
choice (log 1). -/
def Obligations.StepRunsEvent : Prop :=
  ∀ (s : State) (i : Instr) (more : List Turn), s.agenda = .event i :: more →
    (s.power = true → Instr.isEvent i = true → step s = Outcome.after State.advance (exec i { s with agenda := more }))
    ∧ (s.power = true → Instr.isEvent i = false → step s = .next ({ s with agenda := more } : State).advance)
    ∧ (s.power = false → (∀ f, i ≠ .bringUp f) → step s = .fault .poweredOff)
    ∧ (s.power = false → ∀ f, i = .bringUp f → step s = Outcome.after State.advance (exec i { s with agenda := more }))

/-! ### Reset and the invariant of memory -/

/-- R235, R236, R310, R320, R324, R325, R330, R344, R353, R361, R369, R378, R414, R433, R438: what reset leaves, as far as the spec states it: every context free, every slot without a group, no translation cached, every identifier and barrier at its start, the
default calendar, no poison, no Lattice owner, no fault. That the part starts behind a bring-up that has passed (heads up, not in the safe state, CYCLE
counting) is log 5 (DESIGN CHOICE). -/
def Obligations.ResetValues : Prop :=
  let s := State.reset
  (∀ x, (s.ctx x).state = .free ∧ (s.ctx x).busy = false ∧ (s.ctx x).logHead = 0 ∧ (s.ctx x).logTail = 0 ∧ (s.ctx x).faultSeq = 0
      ∧ (s.ctx x).fpqt = 0)
  ∧ (∀ c i, s.group c i = none) ∧ (∀ c, (s.core c).tlb = [] ∧ (s.core c).lines = [] ∧ (s.core c).board = [] ∧ (s.core c).array = []
      ∧ (s.core c).cmds = [])
  ∧ (∀ c ch, (s.core c).nextId.get ch = 1) ∧ (∀ c j, s.bar c j = ⟨0, 0, 0, 0, 0⟩) ∧ s.poison = [] ∧ s.srows = 0
  ∧ (∀ pc < 512, ∀ slot < 128, calEntry s.calForce pc slot = (slot + pc) % 128 + 128 ∧ calEntry s.calStaged pc slot = (slot + pc) % 128 + 128)
  ∧ (∀ pc, (s.pcStat pc).w16 = false ∧ (s.pcStat pc).pend = false ∧ (s.pcStat pc).epoch = 0) ∧ s.calApply = 0
  ∧ (∀ lat slot, (s.latSlot lat slot).valid = false ∧ (s.latSlot lat slot).stream = none) ∧ (∀ x lat, (s.lwinOf x lat).len = 0)
  ∧ s.encSize = 0 ∧ s.devstat = 0 ∧ s.cycle = 0 ∧ (∀ k : Fin 16, s.keySlots.get k = 0)
  ∧ (∀ p : Fin 8, (s.heads.get p).up = true) ∧ s.mb.busy = false ∧ s.safe = false
  ∧ s.ctl.stage = 7 ∧ s.ctl.code = 0 ∧ s.ctl.counting = true ∧ s.decayed = []

/-- The memory of the state after reset has its canonical form. -/
def Obligations.MemoryCanonicalAtReset : Prop := State.reset.MemOk

/-- R208, R343: every step keeps the canonical form of memory, whatever the turn: its keys rise strictly, and it lists no byte that an unlisted key would read as. Equal memories
are equal data. -/
def Obligations.MemoryCanonicalKept : Prop := ∀ s t : State, s.MemOk → step s = .next t → t.MemOk
end

