-- ==== Sys2Proof/Laws/State.lean ====
section
/-! SUPPORT. What each update of the state leaves of each field: one lemma per field per update. -/

namespace Sys2Proof.Machine

open Sys2Proof

@[simp] theorem State.onCore_power (s : State) (c : CoreId) (f : Core → Core) : (s.onCore c f).power = s.power := rfl
@[simp] theorem State.onCore_cycle (s : State) (c : CoreId) (f : Core → Core) : (s.onCore c f).cycle = s.cycle := rfl
@[simp] theorem State.onCore_tick (s : State) (c : CoreId) (f : Core → Core) : (s.onCore c f).tick = s.tick := rfl
@[simp] theorem State.onCore_agenda (s : State) (c : CoreId) (f : Core → Core) : (s.onCore c f).agenda = s.agenda := rfl
@[simp] theorem State.onCore_cur (s : State) (c : CoreId) (f : Core → Core) : (s.onCore c f).cur = s.cur := rfl
@[simp] theorem State.onCore_engineTurn (s : State) (c : CoreId) (f : Core → Core) : (s.onCore c f).engineTurn = s.engineTurn := rfl
@[simp] theorem State.onCore_mem (s : State) (c : CoreId) (f : Core → Core) : (s.onCore c f).mem = s.mem := rfl
@[simp] theorem State.onCore_opened (s : State) (c : CoreId) (f : Core → Core) : (s.onCore c f).opened = s.opened := rfl
@[simp] theorem State.onCore_poison (s : State) (c : CoreId) (f : Core → Core) : (s.onCore c f).poison = s.poison := rfl
@[simp] theorem State.onCore_sizeCode (s : State) (c : CoreId) (f : Core → Core) : (s.onCore c f).sizeCode = s.sizeCode := rfl
@[simp] theorem State.onCore_keyTag (s : State) (c : CoreId) (f : Core → Core) : (s.onCore c f).keyTag = s.keyTag := rfl
@[simp] theorem State.onCore_badMac (s : State) (c : CoreId) (f : Core → Core) : (s.onCore c f).badMac = s.badMac := rfl
@[simp] theorem State.onCore_keySlots (s : State) (c : CoreId) (f : Core → Core) : (s.onCore c f).keySlots = s.keySlots := rfl
@[simp] theorem State.onCore_retiredRows (s : State) (c : CoreId) (f : Core → Core) : (s.onCore c f).retiredRows = s.retiredRows := rfl
@[simp] theorem State.onCore_decayed (s : State) (c : CoreId) (f : Core → Core) : (s.onCore c f).decayed = s.decayed := rfl
@[simp] theorem State.onCore_lostStacks (s : State) (c : CoreId) (f : Core → Core) : (s.onCore c f).lostStacks = s.lostStacks := rfl
@[simp] theorem State.onCore_srows (s : State) (c : CoreId) (f : Core → Core) : (s.onCore c f).srows = s.srows := rfl
@[simp] theorem State.onCore_ctxs (s : State) (c : CoreId) (f : Core → Core) : (s.onCore c f).ctxs = s.ctxs := rfl
@[simp] theorem State.onCore_dieTlb (s : State) (c : CoreId) (f : Core → Core) : (s.onCore c f).dieTlb = s.dieTlb := rfl
@[simp] theorem State.onCore_walks (s : State) (c : CoreId) (f : Core → Core) : (s.onCore c f).walks = s.walks := rfl
@[simp] theorem State.onCore_regions (s : State) (c : CoreId) (f : Core → Core) : (s.onCore c f).regions = s.regions := rfl
@[simp] theorem State.onCore_roots (s : State) (c : CoreId) (f : Core → Core) : (s.onCore c f).roots = s.roots := rfl
@[simp] theorem State.onCore_extents (s : State) (c : CoreId) (f : Core → Core) : (s.onCore c f).extents = s.extents := rfl
@[simp] theorem State.onCore_heads (s : State) (c : CoreId) (f : Core → Core) : (s.onCore c f).heads = s.heads := rfl
@[simp] theorem State.onCore_encProc (s : State) (c : CoreId) (f : Core → Core) : (s.onCore c f).encProc = s.encProc := rfl
@[simp] theorem State.onCore_encSize (s : State) (c : CoreId) (f : Core → Core) : (s.onCore c f).encSize = s.encSize := rfl
@[simp] theorem State.onCore_devDf (s : State) (c : CoreId) (f : Core → Core) : (s.onCore c f).devDf = s.devDf := rfl
@[simp] theorem State.onCore_devClass (s : State) (c : CoreId) (f : Core → Core) : (s.onCore c f).devClass = s.devClass := rfl
@[simp] theorem State.onCore_devUnit (s : State) (c : CoreId) (f : Core → Core) : (s.onCore c f).devUnit = s.devUnit := rfl
@[simp] theorem State.onCore_devCount (s : State) (c : CoreId) (f : Core → Core) : (s.onCore c f).devCount = s.devCount := rfl
@[simp] theorem State.onCore_msi (s : State) (c : CoreId) (f : Core → Core) : (s.onCore c f).msi = s.msi := rfl
@[simp] theorem State.onCore_hostPriv (s : State) (c : CoreId) (f : Core → Core) : (s.onCore c f).hostPriv = s.hostPriv := rfl
@[simp] theorem State.onCore_rolePriv (s : State) (c : CoreId) (f : Core → Core) : (s.onCore c f).rolePriv = s.rolePriv := rfl
@[simp] theorem State.onCore_rrPtr (s : State) (c : CoreId) (f : Core → Core) : (s.onCore c f).rrPtr = s.rrPtr := rfl
@[simp] theorem State.onCore_lastCtx (s : State) (c : CoreId) (f : Core → Core) : (s.onCore c f).lastCtx = s.lastCtx := rfl
@[simp] theorem State.onCore_dispatchSeq (s : State) (c : CoreId) (f : Core → Core) : (s.onCore c f).dispatchSeq = s.dispatchSeq := rfl
@[simp] theorem State.onCore_serviced (s : State) (c : CoreId) (f : Core → Core) : (s.onCore c f).serviced = s.serviced := rfl
@[simp] theorem State.onCore_macEvents (s : State) (c : CoreId) (f : Core → Core) : (s.onCore c f).macEvents = s.macEvents := rfl
@[simp] theorem State.onCore_lostLines (s : State) (c : CoreId) (f : Core → Core) : (s.onCore c f).lostLines = s.lostLines := rfl
@[simp] theorem State.onCore_calPc (s : State) (c : CoreId) (f : Core → Core) : (s.onCore c f).calPc = s.calPc := rfl
@[simp] theorem State.onCore_calSlot (s : State) (c : CoreId) (f : Core → Core) : (s.onCore c f).calSlot = s.calSlot := rfl
@[simp] theorem State.onCore_calStaged (s : State) (c : CoreId) (f : Core → Core) : (s.onCore c f).calStaged = s.calStaged := rfl
@[simp] theorem State.onCore_calForce (s : State) (c : CoreId) (f : Core → Core) : (s.onCore c f).calForce = s.calForce := rfl
@[simp] theorem State.onCore_calApply (s : State) (c : CoreId) (f : Core → Core) : (s.onCore c f).calApply = s.calApply := rfl
@[simp] theorem State.onCore_pcs (s : State) (c : CoreId) (f : Core → Core) : (s.onCore c f).pcs = s.pcs := rfl
@[simp] theorem State.onCore_reqs (s : State) (c : CoreId) (f : Core → Core) : (s.onCore c f).reqs = s.reqs := rfl
@[simp] theorem State.onCore_inflight (s : State) (c : CoreId) (f : Core → Core) : (s.onCore c f).inflight = s.inflight := rfl
@[simp] theorem State.onCore_latSel (s : State) (c : CoreId) (f : Core → Core) : (s.onCore c f).latSel = s.latSel := rfl
@[simp] theorem State.onCore_lats (s : State) (c : CoreId) (f : Core → Core) : (s.onCore c f).lats = s.lats := rfl
@[simp] theorem State.onCore_latLast (s : State) (c : CoreId) (f : Core → Core) : (s.onCore c f).latLast = s.latLast := rfl
@[simp] theorem State.onCore_lwin (s : State) (c : CoreId) (f : Core → Core) : (s.onCore c f).lwin = s.lwin := rfl
@[simp] theorem State.onCore_lwinForce (s : State) (c : CoreId) (f : Core → Core) : (s.onCore c f).lwinForce = s.lwinForce := rfl
@[simp] theorem State.onCore_links (s : State) (c : CoreId) (f : Core → Core) : (s.onCore c f).links = s.links := rfl
@[simp] theorem State.onCore_etoff (s : State) (c : CoreId) (f : Core → Core) : (s.onCore c f).etoff = s.etoff := rfl
@[simp] theorem State.onCore_exchanges (s : State) (c : CoreId) (f : Core → Core) : (s.onCore c f).exchanges = s.exchanges := rfl
@[simp] theorem State.onCore_tx (s : State) (c : CoreId) (f : Core → Core) : (s.onCore c f).tx = s.tx := rfl
@[simp] theorem State.onCore_txWait (s : State) (c : CoreId) (f : Core → Core) : (s.onCore c f).txWait = s.txWait := rfl
@[simp] theorem State.onCore_rx (s : State) (c : CoreId) (f : Core → Core) : (s.onCore c f).rx = s.rx := rfl
@[simp] theorem State.onCore_coll (s : State) (c : CoreId) (f : Core → Core) : (s.onCore c f).coll = s.coll := rfl
@[simp] theorem State.onCore_collOwed (s : State) (c : CoreId) (f : Core → Core) : (s.onCore c f).collOwed = s.collOwed := rfl
@[simp] theorem State.onCore_proxied (s : State) (c : CoreId) (f : Core → Core) : (s.onCore c f).proxied = s.proxied := rfl
@[simp] theorem State.onCore_snoopWait (s : State) (c : CoreId) (f : Core → Core) : (s.onCore c f).snoopWait = s.snoopWait := rfl
@[simp] theorem State.onCore_proxyWait (s : State) (c : CoreId) (f : Core → Core) : (s.onCore c f).proxyWait = s.proxyWait := rfl
@[simp] theorem State.onCore_refusedLines (s : State) (c : CoreId) (f : Core → Core) : (s.onCore c f).refusedLines = s.refusedLines := rfl
@[simp] theorem State.onCore_dropped (s : State) (c : CoreId) (f : Core → Core) : (s.onCore c f).dropped = s.dropped := rfl
@[simp] theorem State.onCore_bar2 (s : State) (c : CoreId) (f : Core → Core) : (s.onCore c f).bar2 = s.bar2 := rfl
@[simp] theorem State.onCore_bar2Wait (s : State) (c : CoreId) (f : Core → Core) : (s.onCore c f).bar2Wait = s.bar2Wait := rfl
@[simp] theorem State.onCore_mb (s : State) (c : CoreId) (f : Core → Core) : (s.onCore c f).mb = s.mb := rfl
@[simp] theorem State.onCore_ctl (s : State) (c : CoreId) (f : Core → Core) : (s.onCore c f).ctl = s.ctl := rfl

@[simp] theorem State.onCtx_power (s : State) (c : CtxId) (f : Context → Context) : (s.onCtx c f).power = s.power := rfl
@[simp] theorem State.onCtx_cycle (s : State) (c : CtxId) (f : Context → Context) : (s.onCtx c f).cycle = s.cycle := rfl
@[simp] theorem State.onCtx_tick (s : State) (c : CtxId) (f : Context → Context) : (s.onCtx c f).tick = s.tick := rfl
@[simp] theorem State.onCtx_agenda (s : State) (c : CtxId) (f : Context → Context) : (s.onCtx c f).agenda = s.agenda := rfl
@[simp] theorem State.onCtx_cur (s : State) (c : CtxId) (f : Context → Context) : (s.onCtx c f).cur = s.cur := rfl
@[simp] theorem State.onCtx_engineTurn (s : State) (c : CtxId) (f : Context → Context) : (s.onCtx c f).engineTurn = s.engineTurn := rfl
@[simp] theorem State.onCtx_mem (s : State) (c : CtxId) (f : Context → Context) : (s.onCtx c f).mem = s.mem := rfl
@[simp] theorem State.onCtx_opened (s : State) (c : CtxId) (f : Context → Context) : (s.onCtx c f).opened = s.opened := rfl
@[simp] theorem State.onCtx_poison (s : State) (c : CtxId) (f : Context → Context) : (s.onCtx c f).poison = s.poison := rfl
@[simp] theorem State.onCtx_sizeCode (s : State) (c : CtxId) (f : Context → Context) : (s.onCtx c f).sizeCode = s.sizeCode := rfl
@[simp] theorem State.onCtx_keyTag (s : State) (c : CtxId) (f : Context → Context) : (s.onCtx c f).keyTag = s.keyTag := rfl
@[simp] theorem State.onCtx_badMac (s : State) (c : CtxId) (f : Context → Context) : (s.onCtx c f).badMac = s.badMac := rfl
@[simp] theorem State.onCtx_keySlots (s : State) (c : CtxId) (f : Context → Context) : (s.onCtx c f).keySlots = s.keySlots := rfl
@[simp] theorem State.onCtx_retiredRows (s : State) (c : CtxId) (f : Context → Context) : (s.onCtx c f).retiredRows = s.retiredRows := rfl
@[simp] theorem State.onCtx_decayed (s : State) (c : CtxId) (f : Context → Context) : (s.onCtx c f).decayed = s.decayed := rfl
@[simp] theorem State.onCtx_lostStacks (s : State) (c : CtxId) (f : Context → Context) : (s.onCtx c f).lostStacks = s.lostStacks := rfl
@[simp] theorem State.onCtx_srows (s : State) (c : CtxId) (f : Context → Context) : (s.onCtx c f).srows = s.srows := rfl
@[simp] theorem State.onCtx_cores (s : State) (c : CtxId) (f : Context → Context) : (s.onCtx c f).cores = s.cores := rfl
@[simp] theorem State.onCtx_dieTlb (s : State) (c : CtxId) (f : Context → Context) : (s.onCtx c f).dieTlb = s.dieTlb := rfl
@[simp] theorem State.onCtx_walks (s : State) (c : CtxId) (f : Context → Context) : (s.onCtx c f).walks = s.walks := rfl
@[simp] theorem State.onCtx_regions (s : State) (c : CtxId) (f : Context → Context) : (s.onCtx c f).regions = s.regions := rfl
@[simp] theorem State.onCtx_roots (s : State) (c : CtxId) (f : Context → Context) : (s.onCtx c f).roots = s.roots := rfl
@[simp] theorem State.onCtx_extents (s : State) (c : CtxId) (f : Context → Context) : (s.onCtx c f).extents = s.extents := rfl
@[simp] theorem State.onCtx_heads (s : State) (c : CtxId) (f : Context → Context) : (s.onCtx c f).heads = s.heads := rfl
@[simp] theorem State.onCtx_encProc (s : State) (c : CtxId) (f : Context → Context) : (s.onCtx c f).encProc = s.encProc := rfl
@[simp] theorem State.onCtx_encSize (s : State) (c : CtxId) (f : Context → Context) : (s.onCtx c f).encSize = s.encSize := rfl
@[simp] theorem State.onCtx_devDf (s : State) (c : CtxId) (f : Context → Context) : (s.onCtx c f).devDf = s.devDf := rfl
@[simp] theorem State.onCtx_devClass (s : State) (c : CtxId) (f : Context → Context) : (s.onCtx c f).devClass = s.devClass := rfl
@[simp] theorem State.onCtx_devUnit (s : State) (c : CtxId) (f : Context → Context) : (s.onCtx c f).devUnit = s.devUnit := rfl
@[simp] theorem State.onCtx_devCount (s : State) (c : CtxId) (f : Context → Context) : (s.onCtx c f).devCount = s.devCount := rfl
@[simp] theorem State.onCtx_msi (s : State) (c : CtxId) (f : Context → Context) : (s.onCtx c f).msi = s.msi := rfl
@[simp] theorem State.onCtx_hostPriv (s : State) (c : CtxId) (f : Context → Context) : (s.onCtx c f).hostPriv = s.hostPriv := rfl
@[simp] theorem State.onCtx_rolePriv (s : State) (c : CtxId) (f : Context → Context) : (s.onCtx c f).rolePriv = s.rolePriv := rfl
@[simp] theorem State.onCtx_rrPtr (s : State) (c : CtxId) (f : Context → Context) : (s.onCtx c f).rrPtr = s.rrPtr := rfl
@[simp] theorem State.onCtx_lastCtx (s : State) (c : CtxId) (f : Context → Context) : (s.onCtx c f).lastCtx = s.lastCtx := rfl
@[simp] theorem State.onCtx_dispatchSeq (s : State) (c : CtxId) (f : Context → Context) : (s.onCtx c f).dispatchSeq = s.dispatchSeq := rfl
@[simp] theorem State.onCtx_serviced (s : State) (c : CtxId) (f : Context → Context) : (s.onCtx c f).serviced = s.serviced := rfl
@[simp] theorem State.onCtx_macEvents (s : State) (c : CtxId) (f : Context → Context) : (s.onCtx c f).macEvents = s.macEvents := rfl
@[simp] theorem State.onCtx_lostLines (s : State) (c : CtxId) (f : Context → Context) : (s.onCtx c f).lostLines = s.lostLines := rfl
@[simp] theorem State.onCtx_calPc (s : State) (c : CtxId) (f : Context → Context) : (s.onCtx c f).calPc = s.calPc := rfl
@[simp] theorem State.onCtx_calSlot (s : State) (c : CtxId) (f : Context → Context) : (s.onCtx c f).calSlot = s.calSlot := rfl
@[simp] theorem State.onCtx_calStaged (s : State) (c : CtxId) (f : Context → Context) : (s.onCtx c f).calStaged = s.calStaged := rfl
@[simp] theorem State.onCtx_calForce (s : State) (c : CtxId) (f : Context → Context) : (s.onCtx c f).calForce = s.calForce := rfl
@[simp] theorem State.onCtx_calApply (s : State) (c : CtxId) (f : Context → Context) : (s.onCtx c f).calApply = s.calApply := rfl
@[simp] theorem State.onCtx_pcs (s : State) (c : CtxId) (f : Context → Context) : (s.onCtx c f).pcs = s.pcs := rfl
@[simp] theorem State.onCtx_reqs (s : State) (c : CtxId) (f : Context → Context) : (s.onCtx c f).reqs = s.reqs := rfl
@[simp] theorem State.onCtx_inflight (s : State) (c : CtxId) (f : Context → Context) : (s.onCtx c f).inflight = s.inflight := rfl
@[simp] theorem State.onCtx_latSel (s : State) (c : CtxId) (f : Context → Context) : (s.onCtx c f).latSel = s.latSel := rfl
@[simp] theorem State.onCtx_lats (s : State) (c : CtxId) (f : Context → Context) : (s.onCtx c f).lats = s.lats := rfl
@[simp] theorem State.onCtx_latLast (s : State) (c : CtxId) (f : Context → Context) : (s.onCtx c f).latLast = s.latLast := rfl
@[simp] theorem State.onCtx_lwin (s : State) (c : CtxId) (f : Context → Context) : (s.onCtx c f).lwin = s.lwin := rfl
@[simp] theorem State.onCtx_lwinForce (s : State) (c : CtxId) (f : Context → Context) : (s.onCtx c f).lwinForce = s.lwinForce := rfl
@[simp] theorem State.onCtx_links (s : State) (c : CtxId) (f : Context → Context) : (s.onCtx c f).links = s.links := rfl
@[simp] theorem State.onCtx_etoff (s : State) (c : CtxId) (f : Context → Context) : (s.onCtx c f).etoff = s.etoff := rfl
@[simp] theorem State.onCtx_exchanges (s : State) (c : CtxId) (f : Context → Context) : (s.onCtx c f).exchanges = s.exchanges := rfl
@[simp] theorem State.onCtx_tx (s : State) (c : CtxId) (f : Context → Context) : (s.onCtx c f).tx = s.tx := rfl
@[simp] theorem State.onCtx_txWait (s : State) (c : CtxId) (f : Context → Context) : (s.onCtx c f).txWait = s.txWait := rfl
@[simp] theorem State.onCtx_rx (s : State) (c : CtxId) (f : Context → Context) : (s.onCtx c f).rx = s.rx := rfl
@[simp] theorem State.onCtx_coll (s : State) (c : CtxId) (f : Context → Context) : (s.onCtx c f).coll = s.coll := rfl
@[simp] theorem State.onCtx_collOwed (s : State) (c : CtxId) (f : Context → Context) : (s.onCtx c f).collOwed = s.collOwed := rfl
@[simp] theorem State.onCtx_proxied (s : State) (c : CtxId) (f : Context → Context) : (s.onCtx c f).proxied = s.proxied := rfl
@[simp] theorem State.onCtx_snoopWait (s : State) (c : CtxId) (f : Context → Context) : (s.onCtx c f).snoopWait = s.snoopWait := rfl
@[simp] theorem State.onCtx_proxyWait (s : State) (c : CtxId) (f : Context → Context) : (s.onCtx c f).proxyWait = s.proxyWait := rfl
@[simp] theorem State.onCtx_refusedLines (s : State) (c : CtxId) (f : Context → Context) : (s.onCtx c f).refusedLines = s.refusedLines := rfl
@[simp] theorem State.onCtx_dropped (s : State) (c : CtxId) (f : Context → Context) : (s.onCtx c f).dropped = s.dropped := rfl
@[simp] theorem State.onCtx_bar2 (s : State) (c : CtxId) (f : Context → Context) : (s.onCtx c f).bar2 = s.bar2 := rfl
@[simp] theorem State.onCtx_bar2Wait (s : State) (c : CtxId) (f : Context → Context) : (s.onCtx c f).bar2Wait = s.bar2Wait := rfl
@[simp] theorem State.onCtx_mb (s : State) (c : CtxId) (f : Context → Context) : (s.onCtx c f).mb = s.mb := rfl
@[simp] theorem State.onCtx_ctl (s : State) (c : CtxId) (f : Context → Context) : (s.onCtx c f).ctl = s.ctl := rfl

@[simp] theorem State.setGroup_power (s : State) (c : CoreId) (g : SlotId) (x : Option Group) : (s.setGroup c g x).power = s.power := rfl
@[simp] theorem State.setGroup_cycle (s : State) (c : CoreId) (g : SlotId) (x : Option Group) : (s.setGroup c g x).cycle = s.cycle := rfl
@[simp] theorem State.setGroup_tick (s : State) (c : CoreId) (g : SlotId) (x : Option Group) : (s.setGroup c g x).tick = s.tick := rfl
@[simp] theorem State.setGroup_agenda (s : State) (c : CoreId) (g : SlotId) (x : Option Group) : (s.setGroup c g x).agenda = s.agenda := rfl
@[simp] theorem State.setGroup_cur (s : State) (c : CoreId) (g : SlotId) (x : Option Group) : (s.setGroup c g x).cur = s.cur := rfl
@[simp] theorem State.setGroup_engineTurn (s : State) (c : CoreId) (g : SlotId) (x : Option Group) : (s.setGroup c g x).engineTurn = s.engineTurn := rfl
@[simp] theorem State.setGroup_mem (s : State) (c : CoreId) (g : SlotId) (x : Option Group) : (s.setGroup c g x).mem = s.mem := rfl
@[simp] theorem State.setGroup_opened (s : State) (c : CoreId) (g : SlotId) (x : Option Group) : (s.setGroup c g x).opened = s.opened := rfl
@[simp] theorem State.setGroup_poison (s : State) (c : CoreId) (g : SlotId) (x : Option Group) : (s.setGroup c g x).poison = s.poison := rfl
@[simp] theorem State.setGroup_sizeCode (s : State) (c : CoreId) (g : SlotId) (x : Option Group) : (s.setGroup c g x).sizeCode = s.sizeCode := rfl
@[simp] theorem State.setGroup_keyTag (s : State) (c : CoreId) (g : SlotId) (x : Option Group) : (s.setGroup c g x).keyTag = s.keyTag := rfl
@[simp] theorem State.setGroup_badMac (s : State) (c : CoreId) (g : SlotId) (x : Option Group) : (s.setGroup c g x).badMac = s.badMac := rfl
@[simp] theorem State.setGroup_keySlots (s : State) (c : CoreId) (g : SlotId) (x : Option Group) : (s.setGroup c g x).keySlots = s.keySlots := rfl
@[simp] theorem State.setGroup_retiredRows (s : State) (c : CoreId) (g : SlotId) (x : Option Group) : (s.setGroup c g x).retiredRows = s.retiredRows := rfl
@[simp] theorem State.setGroup_decayed (s : State) (c : CoreId) (g : SlotId) (x : Option Group) : (s.setGroup c g x).decayed = s.decayed := rfl
@[simp] theorem State.setGroup_lostStacks (s : State) (c : CoreId) (g : SlotId) (x : Option Group) : (s.setGroup c g x).lostStacks = s.lostStacks := rfl
@[simp] theorem State.setGroup_srows (s : State) (c : CoreId) (g : SlotId) (x : Option Group) : (s.setGroup c g x).srows = s.srows := rfl
@[simp] theorem State.setGroup_ctxs (s : State) (c : CoreId) (g : SlotId) (x : Option Group) : (s.setGroup c g x).ctxs = s.ctxs := rfl
@[simp] theorem State.setGroup_dieTlb (s : State) (c : CoreId) (g : SlotId) (x : Option Group) : (s.setGroup c g x).dieTlb = s.dieTlb := rfl
@[simp] theorem State.setGroup_walks (s : State) (c : CoreId) (g : SlotId) (x : Option Group) : (s.setGroup c g x).walks = s.walks := rfl
@[simp] theorem State.setGroup_regions (s : State) (c : CoreId) (g : SlotId) (x : Option Group) : (s.setGroup c g x).regions = s.regions := rfl
@[simp] theorem State.setGroup_roots (s : State) (c : CoreId) (g : SlotId) (x : Option Group) : (s.setGroup c g x).roots = s.roots := rfl
@[simp] theorem State.setGroup_extents (s : State) (c : CoreId) (g : SlotId) (x : Option Group) : (s.setGroup c g x).extents = s.extents := rfl
@[simp] theorem State.setGroup_heads (s : State) (c : CoreId) (g : SlotId) (x : Option Group) : (s.setGroup c g x).heads = s.heads := rfl
@[simp] theorem State.setGroup_encProc (s : State) (c : CoreId) (g : SlotId) (x : Option Group) : (s.setGroup c g x).encProc = s.encProc := rfl
@[simp] theorem State.setGroup_encSize (s : State) (c : CoreId) (g : SlotId) (x : Option Group) : (s.setGroup c g x).encSize = s.encSize := rfl
@[simp] theorem State.setGroup_devDf (s : State) (c : CoreId) (g : SlotId) (x : Option Group) : (s.setGroup c g x).devDf = s.devDf := rfl
@[simp] theorem State.setGroup_devClass (s : State) (c : CoreId) (g : SlotId) (x : Option Group) : (s.setGroup c g x).devClass = s.devClass := rfl
@[simp] theorem State.setGroup_devUnit (s : State) (c : CoreId) (g : SlotId) (x : Option Group) : (s.setGroup c g x).devUnit = s.devUnit := rfl
@[simp] theorem State.setGroup_devCount (s : State) (c : CoreId) (g : SlotId) (x : Option Group) : (s.setGroup c g x).devCount = s.devCount := rfl
@[simp] theorem State.setGroup_msi (s : State) (c : CoreId) (g : SlotId) (x : Option Group) : (s.setGroup c g x).msi = s.msi := rfl
@[simp] theorem State.setGroup_hostPriv (s : State) (c : CoreId) (g : SlotId) (x : Option Group) : (s.setGroup c g x).hostPriv = s.hostPriv := rfl
@[simp] theorem State.setGroup_rolePriv (s : State) (c : CoreId) (g : SlotId) (x : Option Group) : (s.setGroup c g x).rolePriv = s.rolePriv := rfl
@[simp] theorem State.setGroup_rrPtr (s : State) (c : CoreId) (g : SlotId) (x : Option Group) : (s.setGroup c g x).rrPtr = s.rrPtr := rfl
@[simp] theorem State.setGroup_lastCtx (s : State) (c : CoreId) (g : SlotId) (x : Option Group) : (s.setGroup c g x).lastCtx = s.lastCtx := rfl
@[simp] theorem State.setGroup_dispatchSeq (s : State) (c : CoreId) (g : SlotId) (x : Option Group) : (s.setGroup c g x).dispatchSeq = s.dispatchSeq := rfl
@[simp] theorem State.setGroup_serviced (s : State) (c : CoreId) (g : SlotId) (x : Option Group) : (s.setGroup c g x).serviced = s.serviced := rfl
@[simp] theorem State.setGroup_macEvents (s : State) (c : CoreId) (g : SlotId) (x : Option Group) : (s.setGroup c g x).macEvents = s.macEvents := rfl
@[simp] theorem State.setGroup_lostLines (s : State) (c : CoreId) (g : SlotId) (x : Option Group) : (s.setGroup c g x).lostLines = s.lostLines := rfl
@[simp] theorem State.setGroup_calPc (s : State) (c : CoreId) (g : SlotId) (x : Option Group) : (s.setGroup c g x).calPc = s.calPc := rfl
@[simp] theorem State.setGroup_calSlot (s : State) (c : CoreId) (g : SlotId) (x : Option Group) : (s.setGroup c g x).calSlot = s.calSlot := rfl
@[simp] theorem State.setGroup_calStaged (s : State) (c : CoreId) (g : SlotId) (x : Option Group) : (s.setGroup c g x).calStaged = s.calStaged := rfl
@[simp] theorem State.setGroup_calForce (s : State) (c : CoreId) (g : SlotId) (x : Option Group) : (s.setGroup c g x).calForce = s.calForce := rfl
@[simp] theorem State.setGroup_calApply (s : State) (c : CoreId) (g : SlotId) (x : Option Group) : (s.setGroup c g x).calApply = s.calApply := rfl
@[simp] theorem State.setGroup_pcs (s : State) (c : CoreId) (g : SlotId) (x : Option Group) : (s.setGroup c g x).pcs = s.pcs := rfl
@[simp] theorem State.setGroup_reqs (s : State) (c : CoreId) (g : SlotId) (x : Option Group) : (s.setGroup c g x).reqs = s.reqs := rfl
@[simp] theorem State.setGroup_inflight (s : State) (c : CoreId) (g : SlotId) (x : Option Group) : (s.setGroup c g x).inflight = s.inflight := rfl
@[simp] theorem State.setGroup_latSel (s : State) (c : CoreId) (g : SlotId) (x : Option Group) : (s.setGroup c g x).latSel = s.latSel := rfl
@[simp] theorem State.setGroup_lats (s : State) (c : CoreId) (g : SlotId) (x : Option Group) : (s.setGroup c g x).lats = s.lats := rfl
@[simp] theorem State.setGroup_latLast (s : State) (c : CoreId) (g : SlotId) (x : Option Group) : (s.setGroup c g x).latLast = s.latLast := rfl
@[simp] theorem State.setGroup_lwin (s : State) (c : CoreId) (g : SlotId) (x : Option Group) : (s.setGroup c g x).lwin = s.lwin := rfl
@[simp] theorem State.setGroup_lwinForce (s : State) (c : CoreId) (g : SlotId) (x : Option Group) : (s.setGroup c g x).lwinForce = s.lwinForce := rfl
@[simp] theorem State.setGroup_links (s : State) (c : CoreId) (g : SlotId) (x : Option Group) : (s.setGroup c g x).links = s.links := rfl
@[simp] theorem State.setGroup_etoff (s : State) (c : CoreId) (g : SlotId) (x : Option Group) : (s.setGroup c g x).etoff = s.etoff := rfl
@[simp] theorem State.setGroup_exchanges (s : State) (c : CoreId) (g : SlotId) (x : Option Group) : (s.setGroup c g x).exchanges = s.exchanges := rfl
@[simp] theorem State.setGroup_tx (s : State) (c : CoreId) (g : SlotId) (x : Option Group) : (s.setGroup c g x).tx = s.tx := rfl
@[simp] theorem State.setGroup_txWait (s : State) (c : CoreId) (g : SlotId) (x : Option Group) : (s.setGroup c g x).txWait = s.txWait := rfl
@[simp] theorem State.setGroup_rx (s : State) (c : CoreId) (g : SlotId) (x : Option Group) : (s.setGroup c g x).rx = s.rx := rfl
@[simp] theorem State.setGroup_coll (s : State) (c : CoreId) (g : SlotId) (x : Option Group) : (s.setGroup c g x).coll = s.coll := rfl
@[simp] theorem State.setGroup_collOwed (s : State) (c : CoreId) (g : SlotId) (x : Option Group) : (s.setGroup c g x).collOwed = s.collOwed := rfl
@[simp] theorem State.setGroup_proxied (s : State) (c : CoreId) (g : SlotId) (x : Option Group) : (s.setGroup c g x).proxied = s.proxied := rfl
@[simp] theorem State.setGroup_snoopWait (s : State) (c : CoreId) (g : SlotId) (x : Option Group) : (s.setGroup c g x).snoopWait = s.snoopWait := rfl
@[simp] theorem State.setGroup_proxyWait (s : State) (c : CoreId) (g : SlotId) (x : Option Group) : (s.setGroup c g x).proxyWait = s.proxyWait := rfl
@[simp] theorem State.setGroup_refusedLines (s : State) (c : CoreId) (g : SlotId) (x : Option Group) : (s.setGroup c g x).refusedLines = s.refusedLines := rfl
@[simp] theorem State.setGroup_dropped (s : State) (c : CoreId) (g : SlotId) (x : Option Group) : (s.setGroup c g x).dropped = s.dropped := rfl
@[simp] theorem State.setGroup_bar2 (s : State) (c : CoreId) (g : SlotId) (x : Option Group) : (s.setGroup c g x).bar2 = s.bar2 := rfl
@[simp] theorem State.setGroup_bar2Wait (s : State) (c : CoreId) (g : SlotId) (x : Option Group) : (s.setGroup c g x).bar2Wait = s.bar2Wait := rfl
@[simp] theorem State.setGroup_mb (s : State) (c : CoreId) (g : SlotId) (x : Option Group) : (s.setGroup c g x).mb = s.mb := rfl
@[simp] theorem State.setGroup_ctl (s : State) (c : CoreId) (g : SlotId) (x : Option Group) : (s.setGroup c g x).ctl = s.ctl := rfl

@[simp] theorem State.putBytes_power (s : State) (k : Nat) (bs : List Byte) : (s.putBytes k bs).power = s.power := rfl
@[simp] theorem State.putBytes_cycle (s : State) (k : Nat) (bs : List Byte) : (s.putBytes k bs).cycle = s.cycle := rfl
@[simp] theorem State.putBytes_tick (s : State) (k : Nat) (bs : List Byte) : (s.putBytes k bs).tick = s.tick := rfl
@[simp] theorem State.putBytes_agenda (s : State) (k : Nat) (bs : List Byte) : (s.putBytes k bs).agenda = s.agenda := rfl
@[simp] theorem State.putBytes_cur (s : State) (k : Nat) (bs : List Byte) : (s.putBytes k bs).cur = s.cur := rfl
@[simp] theorem State.putBytes_engineTurn (s : State) (k : Nat) (bs : List Byte) : (s.putBytes k bs).engineTurn = s.engineTurn := rfl
@[simp] theorem State.putBytes_opened (s : State) (k : Nat) (bs : List Byte) : (s.putBytes k bs).opened = s.opened := rfl
@[simp] theorem State.putBytes_poison (s : State) (k : Nat) (bs : List Byte) : (s.putBytes k bs).poison = s.poison := rfl
@[simp] theorem State.putBytes_sizeCode (s : State) (k : Nat) (bs : List Byte) : (s.putBytes k bs).sizeCode = s.sizeCode := rfl
@[simp] theorem State.putBytes_keyTag (s : State) (k : Nat) (bs : List Byte) : (s.putBytes k bs).keyTag = s.keyTag := rfl
@[simp] theorem State.putBytes_badMac (s : State) (k : Nat) (bs : List Byte) : (s.putBytes k bs).badMac = s.badMac := rfl
@[simp] theorem State.putBytes_keySlots (s : State) (k : Nat) (bs : List Byte) : (s.putBytes k bs).keySlots = s.keySlots := rfl
@[simp] theorem State.putBytes_retiredRows (s : State) (k : Nat) (bs : List Byte) : (s.putBytes k bs).retiredRows = s.retiredRows := rfl
@[simp] theorem State.putBytes_decayed (s : State) (k : Nat) (bs : List Byte) : (s.putBytes k bs).decayed = s.decayed := rfl
@[simp] theorem State.putBytes_lostStacks (s : State) (k : Nat) (bs : List Byte) : (s.putBytes k bs).lostStacks = s.lostStacks := rfl
@[simp] theorem State.putBytes_srows (s : State) (k : Nat) (bs : List Byte) : (s.putBytes k bs).srows = s.srows := rfl
@[simp] theorem State.putBytes_cores (s : State) (k : Nat) (bs : List Byte) : (s.putBytes k bs).cores = s.cores := rfl
@[simp] theorem State.putBytes_ctxs (s : State) (k : Nat) (bs : List Byte) : (s.putBytes k bs).ctxs = s.ctxs := rfl
@[simp] theorem State.putBytes_dieTlb (s : State) (k : Nat) (bs : List Byte) : (s.putBytes k bs).dieTlb = s.dieTlb := rfl
@[simp] theorem State.putBytes_walks (s : State) (k : Nat) (bs : List Byte) : (s.putBytes k bs).walks = s.walks := rfl
@[simp] theorem State.putBytes_regions (s : State) (k : Nat) (bs : List Byte) : (s.putBytes k bs).regions = s.regions := rfl
@[simp] theorem State.putBytes_roots (s : State) (k : Nat) (bs : List Byte) : (s.putBytes k bs).roots = s.roots := rfl
@[simp] theorem State.putBytes_extents (s : State) (k : Nat) (bs : List Byte) : (s.putBytes k bs).extents = s.extents := rfl
@[simp] theorem State.putBytes_heads (s : State) (k : Nat) (bs : List Byte) : (s.putBytes k bs).heads = s.heads := rfl
@[simp] theorem State.putBytes_encProc (s : State) (k : Nat) (bs : List Byte) : (s.putBytes k bs).encProc = s.encProc := rfl
@[simp] theorem State.putBytes_encSize (s : State) (k : Nat) (bs : List Byte) : (s.putBytes k bs).encSize = s.encSize := rfl
@[simp] theorem State.putBytes_devDf (s : State) (k : Nat) (bs : List Byte) : (s.putBytes k bs).devDf = s.devDf := rfl
@[simp] theorem State.putBytes_devClass (s : State) (k : Nat) (bs : List Byte) : (s.putBytes k bs).devClass = s.devClass := rfl
@[simp] theorem State.putBytes_devUnit (s : State) (k : Nat) (bs : List Byte) : (s.putBytes k bs).devUnit = s.devUnit := rfl
@[simp] theorem State.putBytes_devCount (s : State) (k : Nat) (bs : List Byte) : (s.putBytes k bs).devCount = s.devCount := rfl
@[simp] theorem State.putBytes_msi (s : State) (k : Nat) (bs : List Byte) : (s.putBytes k bs).msi = s.msi := rfl
@[simp] theorem State.putBytes_hostPriv (s : State) (k : Nat) (bs : List Byte) : (s.putBytes k bs).hostPriv = s.hostPriv := rfl
@[simp] theorem State.putBytes_rolePriv (s : State) (k : Nat) (bs : List Byte) : (s.putBytes k bs).rolePriv = s.rolePriv := rfl
@[simp] theorem State.putBytes_rrPtr (s : State) (k : Nat) (bs : List Byte) : (s.putBytes k bs).rrPtr = s.rrPtr := rfl
@[simp] theorem State.putBytes_lastCtx (s : State) (k : Nat) (bs : List Byte) : (s.putBytes k bs).lastCtx = s.lastCtx := rfl
@[simp] theorem State.putBytes_dispatchSeq (s : State) (k : Nat) (bs : List Byte) : (s.putBytes k bs).dispatchSeq = s.dispatchSeq := rfl
@[simp] theorem State.putBytes_serviced (s : State) (k : Nat) (bs : List Byte) : (s.putBytes k bs).serviced = s.serviced := rfl
@[simp] theorem State.putBytes_macEvents (s : State) (k : Nat) (bs : List Byte) : (s.putBytes k bs).macEvents = s.macEvents := rfl
@[simp] theorem State.putBytes_lostLines (s : State) (k : Nat) (bs : List Byte) : (s.putBytes k bs).lostLines = s.lostLines := rfl
@[simp] theorem State.putBytes_calPc (s : State) (k : Nat) (bs : List Byte) : (s.putBytes k bs).calPc = s.calPc := rfl
@[simp] theorem State.putBytes_calSlot (s : State) (k : Nat) (bs : List Byte) : (s.putBytes k bs).calSlot = s.calSlot := rfl
@[simp] theorem State.putBytes_calStaged (s : State) (k : Nat) (bs : List Byte) : (s.putBytes k bs).calStaged = s.calStaged := rfl
@[simp] theorem State.putBytes_calForce (s : State) (k : Nat) (bs : List Byte) : (s.putBytes k bs).calForce = s.calForce := rfl
@[simp] theorem State.putBytes_calApply (s : State) (k : Nat) (bs : List Byte) : (s.putBytes k bs).calApply = s.calApply := rfl
@[simp] theorem State.putBytes_pcs (s : State) (k : Nat) (bs : List Byte) : (s.putBytes k bs).pcs = s.pcs := rfl
@[simp] theorem State.putBytes_reqs (s : State) (k : Nat) (bs : List Byte) : (s.putBytes k bs).reqs = s.reqs := rfl
@[simp] theorem State.putBytes_inflight (s : State) (k : Nat) (bs : List Byte) : (s.putBytes k bs).inflight = s.inflight := rfl
@[simp] theorem State.putBytes_latSel (s : State) (k : Nat) (bs : List Byte) : (s.putBytes k bs).latSel = s.latSel := rfl
@[simp] theorem State.putBytes_lats (s : State) (k : Nat) (bs : List Byte) : (s.putBytes k bs).lats = s.lats := rfl
@[simp] theorem State.putBytes_latLast (s : State) (k : Nat) (bs : List Byte) : (s.putBytes k bs).latLast = s.latLast := rfl
@[simp] theorem State.putBytes_lwin (s : State) (k : Nat) (bs : List Byte) : (s.putBytes k bs).lwin = s.lwin := rfl
@[simp] theorem State.putBytes_lwinForce (s : State) (k : Nat) (bs : List Byte) : (s.putBytes k bs).lwinForce = s.lwinForce := rfl
@[simp] theorem State.putBytes_links (s : State) (k : Nat) (bs : List Byte) : (s.putBytes k bs).links = s.links := rfl
@[simp] theorem State.putBytes_etoff (s : State) (k : Nat) (bs : List Byte) : (s.putBytes k bs).etoff = s.etoff := rfl
@[simp] theorem State.putBytes_exchanges (s : State) (k : Nat) (bs : List Byte) : (s.putBytes k bs).exchanges = s.exchanges := rfl
@[simp] theorem State.putBytes_tx (s : State) (k : Nat) (bs : List Byte) : (s.putBytes k bs).tx = s.tx := rfl
@[simp] theorem State.putBytes_txWait (s : State) (k : Nat) (bs : List Byte) : (s.putBytes k bs).txWait = s.txWait := rfl
@[simp] theorem State.putBytes_rx (s : State) (k : Nat) (bs : List Byte) : (s.putBytes k bs).rx = s.rx := rfl
@[simp] theorem State.putBytes_coll (s : State) (k : Nat) (bs : List Byte) : (s.putBytes k bs).coll = s.coll := rfl
@[simp] theorem State.putBytes_collOwed (s : State) (k : Nat) (bs : List Byte) : (s.putBytes k bs).collOwed = s.collOwed := rfl
@[simp] theorem State.putBytes_proxied (s : State) (k : Nat) (bs : List Byte) : (s.putBytes k bs).proxied = s.proxied := rfl
@[simp] theorem State.putBytes_snoopWait (s : State) (k : Nat) (bs : List Byte) : (s.putBytes k bs).snoopWait = s.snoopWait := rfl
@[simp] theorem State.putBytes_proxyWait (s : State) (k : Nat) (bs : List Byte) : (s.putBytes k bs).proxyWait = s.proxyWait := rfl
@[simp] theorem State.putBytes_refusedLines (s : State) (k : Nat) (bs : List Byte) : (s.putBytes k bs).refusedLines = s.refusedLines := rfl
@[simp] theorem State.putBytes_dropped (s : State) (k : Nat) (bs : List Byte) : (s.putBytes k bs).dropped = s.dropped := rfl
@[simp] theorem State.putBytes_bar2 (s : State) (k : Nat) (bs : List Byte) : (s.putBytes k bs).bar2 = s.bar2 := rfl
@[simp] theorem State.putBytes_bar2Wait (s : State) (k : Nat) (bs : List Byte) : (s.putBytes k bs).bar2Wait = s.bar2Wait := rfl
@[simp] theorem State.putBytes_mb (s : State) (k : Nat) (bs : List Byte) : (s.putBytes k bs).mb = s.mb := rfl
@[simp] theorem State.putBytes_ctl (s : State) (k : Nat) (bs : List Byte) : (s.putBytes k bs).ctl = s.ctl := rfl

@[simp] theorem State.openRange_power (s : State) (k n : Nat) : (s.openRange k n).power = s.power := rfl
@[simp] theorem State.openRange_cycle (s : State) (k n : Nat) : (s.openRange k n).cycle = s.cycle := rfl
@[simp] theorem State.openRange_tick (s : State) (k n : Nat) : (s.openRange k n).tick = s.tick := rfl
@[simp] theorem State.openRange_agenda (s : State) (k n : Nat) : (s.openRange k n).agenda = s.agenda := rfl
@[simp] theorem State.openRange_cur (s : State) (k n : Nat) : (s.openRange k n).cur = s.cur := rfl
@[simp] theorem State.openRange_engineTurn (s : State) (k n : Nat) : (s.openRange k n).engineTurn = s.engineTurn := rfl
@[simp] theorem State.openRange_poison (s : State) (k n : Nat) : (s.openRange k n).poison = s.poison := rfl
@[simp] theorem State.openRange_sizeCode (s : State) (k n : Nat) : (s.openRange k n).sizeCode = s.sizeCode := rfl
@[simp] theorem State.openRange_keyTag (s : State) (k n : Nat) : (s.openRange k n).keyTag = s.keyTag := rfl
@[simp] theorem State.openRange_badMac (s : State) (k n : Nat) : (s.openRange k n).badMac = s.badMac := rfl
@[simp] theorem State.openRange_keySlots (s : State) (k n : Nat) : (s.openRange k n).keySlots = s.keySlots := rfl
@[simp] theorem State.openRange_retiredRows (s : State) (k n : Nat) : (s.openRange k n).retiredRows = s.retiredRows := rfl
@[simp] theorem State.openRange_decayed (s : State) (k n : Nat) : (s.openRange k n).decayed = s.decayed := rfl
@[simp] theorem State.openRange_lostStacks (s : State) (k n : Nat) : (s.openRange k n).lostStacks = s.lostStacks := rfl
@[simp] theorem State.openRange_srows (s : State) (k n : Nat) : (s.openRange k n).srows = s.srows := rfl
@[simp] theorem State.openRange_cores (s : State) (k n : Nat) : (s.openRange k n).cores = s.cores := rfl
@[simp] theorem State.openRange_ctxs (s : State) (k n : Nat) : (s.openRange k n).ctxs = s.ctxs := rfl
@[simp] theorem State.openRange_dieTlb (s : State) (k n : Nat) : (s.openRange k n).dieTlb = s.dieTlb := rfl
@[simp] theorem State.openRange_walks (s : State) (k n : Nat) : (s.openRange k n).walks = s.walks := rfl
@[simp] theorem State.openRange_regions (s : State) (k n : Nat) : (s.openRange k n).regions = s.regions := rfl
@[simp] theorem State.openRange_roots (s : State) (k n : Nat) : (s.openRange k n).roots = s.roots := rfl
@[simp] theorem State.openRange_extents (s : State) (k n : Nat) : (s.openRange k n).extents = s.extents := rfl
@[simp] theorem State.openRange_heads (s : State) (k n : Nat) : (s.openRange k n).heads = s.heads := rfl
@[simp] theorem State.openRange_encProc (s : State) (k n : Nat) : (s.openRange k n).encProc = s.encProc := rfl
@[simp] theorem State.openRange_encSize (s : State) (k n : Nat) : (s.openRange k n).encSize = s.encSize := rfl
@[simp] theorem State.openRange_devDf (s : State) (k n : Nat) : (s.openRange k n).devDf = s.devDf := rfl
@[simp] theorem State.openRange_devClass (s : State) (k n : Nat) : (s.openRange k n).devClass = s.devClass := rfl
@[simp] theorem State.openRange_devUnit (s : State) (k n : Nat) : (s.openRange k n).devUnit = s.devUnit := rfl
@[simp] theorem State.openRange_devCount (s : State) (k n : Nat) : (s.openRange k n).devCount = s.devCount := rfl
@[simp] theorem State.openRange_msi (s : State) (k n : Nat) : (s.openRange k n).msi = s.msi := rfl
@[simp] theorem State.openRange_hostPriv (s : State) (k n : Nat) : (s.openRange k n).hostPriv = s.hostPriv := rfl
@[simp] theorem State.openRange_rolePriv (s : State) (k n : Nat) : (s.openRange k n).rolePriv = s.rolePriv := rfl
@[simp] theorem State.openRange_rrPtr (s : State) (k n : Nat) : (s.openRange k n).rrPtr = s.rrPtr := rfl
@[simp] theorem State.openRange_lastCtx (s : State) (k n : Nat) : (s.openRange k n).lastCtx = s.lastCtx := rfl
@[simp] theorem State.openRange_dispatchSeq (s : State) (k n : Nat) : (s.openRange k n).dispatchSeq = s.dispatchSeq := rfl
@[simp] theorem State.openRange_serviced (s : State) (k n : Nat) : (s.openRange k n).serviced = s.serviced := rfl
@[simp] theorem State.openRange_macEvents (s : State) (k n : Nat) : (s.openRange k n).macEvents = s.macEvents := rfl
@[simp] theorem State.openRange_lostLines (s : State) (k n : Nat) : (s.openRange k n).lostLines = s.lostLines := rfl
@[simp] theorem State.openRange_calPc (s : State) (k n : Nat) : (s.openRange k n).calPc = s.calPc := rfl
@[simp] theorem State.openRange_calSlot (s : State) (k n : Nat) : (s.openRange k n).calSlot = s.calSlot := rfl
@[simp] theorem State.openRange_calStaged (s : State) (k n : Nat) : (s.openRange k n).calStaged = s.calStaged := rfl
@[simp] theorem State.openRange_calForce (s : State) (k n : Nat) : (s.openRange k n).calForce = s.calForce := rfl
@[simp] theorem State.openRange_calApply (s : State) (k n : Nat) : (s.openRange k n).calApply = s.calApply := rfl
@[simp] theorem State.openRange_pcs (s : State) (k n : Nat) : (s.openRange k n).pcs = s.pcs := rfl
@[simp] theorem State.openRange_reqs (s : State) (k n : Nat) : (s.openRange k n).reqs = s.reqs := rfl
@[simp] theorem State.openRange_inflight (s : State) (k n : Nat) : (s.openRange k n).inflight = s.inflight := rfl
@[simp] theorem State.openRange_latSel (s : State) (k n : Nat) : (s.openRange k n).latSel = s.latSel := rfl
@[simp] theorem State.openRange_lats (s : State) (k n : Nat) : (s.openRange k n).lats = s.lats := rfl
@[simp] theorem State.openRange_latLast (s : State) (k n : Nat) : (s.openRange k n).latLast = s.latLast := rfl
@[simp] theorem State.openRange_lwin (s : State) (k n : Nat) : (s.openRange k n).lwin = s.lwin := rfl
@[simp] theorem State.openRange_lwinForce (s : State) (k n : Nat) : (s.openRange k n).lwinForce = s.lwinForce := rfl
@[simp] theorem State.openRange_links (s : State) (k n : Nat) : (s.openRange k n).links = s.links := rfl
@[simp] theorem State.openRange_etoff (s : State) (k n : Nat) : (s.openRange k n).etoff = s.etoff := rfl
@[simp] theorem State.openRange_exchanges (s : State) (k n : Nat) : (s.openRange k n).exchanges = s.exchanges := rfl
@[simp] theorem State.openRange_tx (s : State) (k n : Nat) : (s.openRange k n).tx = s.tx := rfl
@[simp] theorem State.openRange_txWait (s : State) (k n : Nat) : (s.openRange k n).txWait = s.txWait := rfl
@[simp] theorem State.openRange_rx (s : State) (k n : Nat) : (s.openRange k n).rx = s.rx := rfl
@[simp] theorem State.openRange_coll (s : State) (k n : Nat) : (s.openRange k n).coll = s.coll := rfl
@[simp] theorem State.openRange_collOwed (s : State) (k n : Nat) : (s.openRange k n).collOwed = s.collOwed := rfl
@[simp] theorem State.openRange_proxied (s : State) (k n : Nat) : (s.openRange k n).proxied = s.proxied := rfl
@[simp] theorem State.openRange_snoopWait (s : State) (k n : Nat) : (s.openRange k n).snoopWait = s.snoopWait := rfl
@[simp] theorem State.openRange_proxyWait (s : State) (k n : Nat) : (s.openRange k n).proxyWait = s.proxyWait := rfl
@[simp] theorem State.openRange_refusedLines (s : State) (k n : Nat) : (s.openRange k n).refusedLines = s.refusedLines := rfl
@[simp] theorem State.openRange_dropped (s : State) (k n : Nat) : (s.openRange k n).dropped = s.dropped := rfl
@[simp] theorem State.openRange_bar2 (s : State) (k n : Nat) : (s.openRange k n).bar2 = s.bar2 := rfl
@[simp] theorem State.openRange_bar2Wait (s : State) (k n : Nat) : (s.openRange k n).bar2Wait = s.bar2Wait := rfl
@[simp] theorem State.openRange_mb (s : State) (k n : Nat) : (s.openRange k n).mb = s.mb := rfl
@[simp] theorem State.openRange_ctl (s : State) (k n : Nat) : (s.openRange k n).ctl = s.ctl := rfl

@[simp] theorem State.clearRange_power (s : State) (k n : Nat) : (s.clearRange k n).power = s.power := rfl
@[simp] theorem State.clearRange_cycle (s : State) (k n : Nat) : (s.clearRange k n).cycle = s.cycle := rfl
@[simp] theorem State.clearRange_tick (s : State) (k n : Nat) : (s.clearRange k n).tick = s.tick := rfl
@[simp] theorem State.clearRange_agenda (s : State) (k n : Nat) : (s.clearRange k n).agenda = s.agenda := rfl
@[simp] theorem State.clearRange_cur (s : State) (k n : Nat) : (s.clearRange k n).cur = s.cur := rfl
@[simp] theorem State.clearRange_engineTurn (s : State) (k n : Nat) : (s.clearRange k n).engineTurn = s.engineTurn := rfl
@[simp] theorem State.clearRange_poison (s : State) (k n : Nat) : (s.clearRange k n).poison = s.poison := rfl
@[simp] theorem State.clearRange_sizeCode (s : State) (k n : Nat) : (s.clearRange k n).sizeCode = s.sizeCode := rfl
@[simp] theorem State.clearRange_keyTag (s : State) (k n : Nat) : (s.clearRange k n).keyTag = s.keyTag := rfl
@[simp] theorem State.clearRange_badMac (s : State) (k n : Nat) : (s.clearRange k n).badMac = s.badMac := rfl
@[simp] theorem State.clearRange_keySlots (s : State) (k n : Nat) : (s.clearRange k n).keySlots = s.keySlots := rfl
@[simp] theorem State.clearRange_retiredRows (s : State) (k n : Nat) : (s.clearRange k n).retiredRows = s.retiredRows := rfl
@[simp] theorem State.clearRange_decayed (s : State) (k n : Nat) : (s.clearRange k n).decayed = s.decayed := rfl
@[simp] theorem State.clearRange_lostStacks (s : State) (k n : Nat) : (s.clearRange k n).lostStacks = s.lostStacks := rfl
@[simp] theorem State.clearRange_srows (s : State) (k n : Nat) : (s.clearRange k n).srows = s.srows := rfl
@[simp] theorem State.clearRange_cores (s : State) (k n : Nat) : (s.clearRange k n).cores = s.cores := rfl
@[simp] theorem State.clearRange_ctxs (s : State) (k n : Nat) : (s.clearRange k n).ctxs = s.ctxs := rfl
@[simp] theorem State.clearRange_dieTlb (s : State) (k n : Nat) : (s.clearRange k n).dieTlb = s.dieTlb := rfl
@[simp] theorem State.clearRange_walks (s : State) (k n : Nat) : (s.clearRange k n).walks = s.walks := rfl
@[simp] theorem State.clearRange_regions (s : State) (k n : Nat) : (s.clearRange k n).regions = s.regions := rfl
@[simp] theorem State.clearRange_roots (s : State) (k n : Nat) : (s.clearRange k n).roots = s.roots := rfl
@[simp] theorem State.clearRange_extents (s : State) (k n : Nat) : (s.clearRange k n).extents = s.extents := rfl
@[simp] theorem State.clearRange_heads (s : State) (k n : Nat) : (s.clearRange k n).heads = s.heads := rfl
@[simp] theorem State.clearRange_encProc (s : State) (k n : Nat) : (s.clearRange k n).encProc = s.encProc := rfl
@[simp] theorem State.clearRange_encSize (s : State) (k n : Nat) : (s.clearRange k n).encSize = s.encSize := rfl
@[simp] theorem State.clearRange_devDf (s : State) (k n : Nat) : (s.clearRange k n).devDf = s.devDf := rfl
@[simp] theorem State.clearRange_devClass (s : State) (k n : Nat) : (s.clearRange k n).devClass = s.devClass := rfl
@[simp] theorem State.clearRange_devUnit (s : State) (k n : Nat) : (s.clearRange k n).devUnit = s.devUnit := rfl
@[simp] theorem State.clearRange_devCount (s : State) (k n : Nat) : (s.clearRange k n).devCount = s.devCount := rfl
@[simp] theorem State.clearRange_msi (s : State) (k n : Nat) : (s.clearRange k n).msi = s.msi := rfl
@[simp] theorem State.clearRange_hostPriv (s : State) (k n : Nat) : (s.clearRange k n).hostPriv = s.hostPriv := rfl
@[simp] theorem State.clearRange_rolePriv (s : State) (k n : Nat) : (s.clearRange k n).rolePriv = s.rolePriv := rfl
@[simp] theorem State.clearRange_rrPtr (s : State) (k n : Nat) : (s.clearRange k n).rrPtr = s.rrPtr := rfl
@[simp] theorem State.clearRange_lastCtx (s : State) (k n : Nat) : (s.clearRange k n).lastCtx = s.lastCtx := rfl
@[simp] theorem State.clearRange_dispatchSeq (s : State) (k n : Nat) : (s.clearRange k n).dispatchSeq = s.dispatchSeq := rfl
@[simp] theorem State.clearRange_serviced (s : State) (k n : Nat) : (s.clearRange k n).serviced = s.serviced := rfl
@[simp] theorem State.clearRange_macEvents (s : State) (k n : Nat) : (s.clearRange k n).macEvents = s.macEvents := rfl
@[simp] theorem State.clearRange_lostLines (s : State) (k n : Nat) : (s.clearRange k n).lostLines = s.lostLines := rfl
@[simp] theorem State.clearRange_calPc (s : State) (k n : Nat) : (s.clearRange k n).calPc = s.calPc := rfl
@[simp] theorem State.clearRange_calSlot (s : State) (k n : Nat) : (s.clearRange k n).calSlot = s.calSlot := rfl
@[simp] theorem State.clearRange_calStaged (s : State) (k n : Nat) : (s.clearRange k n).calStaged = s.calStaged := rfl
@[simp] theorem State.clearRange_calForce (s : State) (k n : Nat) : (s.clearRange k n).calForce = s.calForce := rfl
@[simp] theorem State.clearRange_calApply (s : State) (k n : Nat) : (s.clearRange k n).calApply = s.calApply := rfl
@[simp] theorem State.clearRange_pcs (s : State) (k n : Nat) : (s.clearRange k n).pcs = s.pcs := rfl
@[simp] theorem State.clearRange_reqs (s : State) (k n : Nat) : (s.clearRange k n).reqs = s.reqs := rfl
@[simp] theorem State.clearRange_inflight (s : State) (k n : Nat) : (s.clearRange k n).inflight = s.inflight := rfl
@[simp] theorem State.clearRange_latSel (s : State) (k n : Nat) : (s.clearRange k n).latSel = s.latSel := rfl
@[simp] theorem State.clearRange_lats (s : State) (k n : Nat) : (s.clearRange k n).lats = s.lats := rfl
@[simp] theorem State.clearRange_latLast (s : State) (k n : Nat) : (s.clearRange k n).latLast = s.latLast := rfl
@[simp] theorem State.clearRange_lwin (s : State) (k n : Nat) : (s.clearRange k n).lwin = s.lwin := rfl
@[simp] theorem State.clearRange_lwinForce (s : State) (k n : Nat) : (s.clearRange k n).lwinForce = s.lwinForce := rfl
@[simp] theorem State.clearRange_links (s : State) (k n : Nat) : (s.clearRange k n).links = s.links := rfl
@[simp] theorem State.clearRange_etoff (s : State) (k n : Nat) : (s.clearRange k n).etoff = s.etoff := rfl
@[simp] theorem State.clearRange_exchanges (s : State) (k n : Nat) : (s.clearRange k n).exchanges = s.exchanges := rfl
@[simp] theorem State.clearRange_tx (s : State) (k n : Nat) : (s.clearRange k n).tx = s.tx := rfl
@[simp] theorem State.clearRange_txWait (s : State) (k n : Nat) : (s.clearRange k n).txWait = s.txWait := rfl
@[simp] theorem State.clearRange_rx (s : State) (k n : Nat) : (s.clearRange k n).rx = s.rx := rfl
@[simp] theorem State.clearRange_coll (s : State) (k n : Nat) : (s.clearRange k n).coll = s.coll := rfl
@[simp] theorem State.clearRange_collOwed (s : State) (k n : Nat) : (s.clearRange k n).collOwed = s.collOwed := rfl
@[simp] theorem State.clearRange_proxied (s : State) (k n : Nat) : (s.clearRange k n).proxied = s.proxied := rfl
@[simp] theorem State.clearRange_snoopWait (s : State) (k n : Nat) : (s.clearRange k n).snoopWait = s.snoopWait := rfl
@[simp] theorem State.clearRange_proxyWait (s : State) (k n : Nat) : (s.clearRange k n).proxyWait = s.proxyWait := rfl
@[simp] theorem State.clearRange_refusedLines (s : State) (k n : Nat) : (s.clearRange k n).refusedLines = s.refusedLines := rfl
@[simp] theorem State.clearRange_dropped (s : State) (k n : Nat) : (s.clearRange k n).dropped = s.dropped := rfl
@[simp] theorem State.clearRange_bar2 (s : State) (k n : Nat) : (s.clearRange k n).bar2 = s.bar2 := rfl
@[simp] theorem State.clearRange_bar2Wait (s : State) (k n : Nat) : (s.clearRange k n).bar2Wait = s.bar2Wait := rfl
@[simp] theorem State.clearRange_mb (s : State) (k n : Nat) : (s.clearRange k n).mb = s.mb := rfl
@[simp] theorem State.clearRange_ctl (s : State) (k n : Nat) : (s.clearRange k n).ctl = s.ctl := rfl

@[simp] theorem State.advance_power (s : State) : (s.advance).power = s.power := rfl
@[simp] theorem State.advance_agenda (s : State) : (s.advance).agenda = s.agenda := rfl
@[simp] theorem State.advance_cur (s : State) : (s.advance).cur = s.cur := rfl
@[simp] theorem State.advance_engineTurn (s : State) : (s.advance).engineTurn = s.engineTurn := rfl
@[simp] theorem State.advance_mem (s : State) : (s.advance).mem = s.mem := rfl
@[simp] theorem State.advance_opened (s : State) : (s.advance).opened = s.opened := rfl
@[simp] theorem State.advance_poison (s : State) : (s.advance).poison = s.poison := rfl
@[simp] theorem State.advance_sizeCode (s : State) : (s.advance).sizeCode = s.sizeCode := rfl
@[simp] theorem State.advance_keyTag (s : State) : (s.advance).keyTag = s.keyTag := rfl
@[simp] theorem State.advance_badMac (s : State) : (s.advance).badMac = s.badMac := rfl
@[simp] theorem State.advance_keySlots (s : State) : (s.advance).keySlots = s.keySlots := rfl
@[simp] theorem State.advance_retiredRows (s : State) : (s.advance).retiredRows = s.retiredRows := rfl
@[simp] theorem State.advance_decayed (s : State) : (s.advance).decayed = s.decayed := rfl
@[simp] theorem State.advance_lostStacks (s : State) : (s.advance).lostStacks = s.lostStacks := rfl
@[simp] theorem State.advance_srows (s : State) : (s.advance).srows = s.srows := rfl
@[simp] theorem State.advance_cores (s : State) : (s.advance).cores = s.cores := rfl
@[simp] theorem State.advance_ctxs (s : State) : (s.advance).ctxs = s.ctxs := rfl
@[simp] theorem State.advance_dieTlb (s : State) : (s.advance).dieTlb = s.dieTlb := rfl
@[simp] theorem State.advance_walks (s : State) : (s.advance).walks = s.walks := rfl
@[simp] theorem State.advance_regions (s : State) : (s.advance).regions = s.regions := rfl
@[simp] theorem State.advance_roots (s : State) : (s.advance).roots = s.roots := rfl
@[simp] theorem State.advance_extents (s : State) : (s.advance).extents = s.extents := rfl
@[simp] theorem State.advance_heads (s : State) : (s.advance).heads = s.heads := rfl
@[simp] theorem State.advance_encProc (s : State) : (s.advance).encProc = s.encProc := rfl
@[simp] theorem State.advance_encSize (s : State) : (s.advance).encSize = s.encSize := rfl
@[simp] theorem State.advance_devDf (s : State) : (s.advance).devDf = s.devDf := rfl
@[simp] theorem State.advance_devClass (s : State) : (s.advance).devClass = s.devClass := rfl
@[simp] theorem State.advance_devUnit (s : State) : (s.advance).devUnit = s.devUnit := rfl
@[simp] theorem State.advance_devCount (s : State) : (s.advance).devCount = s.devCount := rfl
@[simp] theorem State.advance_msi (s : State) : (s.advance).msi = s.msi := rfl
@[simp] theorem State.advance_hostPriv (s : State) : (s.advance).hostPriv = s.hostPriv := rfl
@[simp] theorem State.advance_rolePriv (s : State) : (s.advance).rolePriv = s.rolePriv := rfl
@[simp] theorem State.advance_rrPtr (s : State) : (s.advance).rrPtr = s.rrPtr := rfl
@[simp] theorem State.advance_lastCtx (s : State) : (s.advance).lastCtx = s.lastCtx := rfl
@[simp] theorem State.advance_dispatchSeq (s : State) : (s.advance).dispatchSeq = s.dispatchSeq := rfl
@[simp] theorem State.advance_serviced (s : State) : (s.advance).serviced = s.serviced := rfl
@[simp] theorem State.advance_macEvents (s : State) : (s.advance).macEvents = s.macEvents := rfl
@[simp] theorem State.advance_lostLines (s : State) : (s.advance).lostLines = s.lostLines := rfl
@[simp] theorem State.advance_calPc (s : State) : (s.advance).calPc = s.calPc := rfl
@[simp] theorem State.advance_calSlot (s : State) : (s.advance).calSlot = s.calSlot := rfl
@[simp] theorem State.advance_calStaged (s : State) : (s.advance).calStaged = s.calStaged := rfl
@[simp] theorem State.advance_calForce (s : State) : (s.advance).calForce = s.calForce := rfl
@[simp] theorem State.advance_calApply (s : State) : (s.advance).calApply = s.calApply := rfl
@[simp] theorem State.advance_pcs (s : State) : (s.advance).pcs = s.pcs := rfl
@[simp] theorem State.advance_reqs (s : State) : (s.advance).reqs = s.reqs := rfl
@[simp] theorem State.advance_inflight (s : State) : (s.advance).inflight = s.inflight := rfl
@[simp] theorem State.advance_latSel (s : State) : (s.advance).latSel = s.latSel := rfl
@[simp] theorem State.advance_lats (s : State) : (s.advance).lats = s.lats := rfl
@[simp] theorem State.advance_latLast (s : State) : (s.advance).latLast = s.latLast := rfl
@[simp] theorem State.advance_lwin (s : State) : (s.advance).lwin = s.lwin := rfl
@[simp] theorem State.advance_lwinForce (s : State) : (s.advance).lwinForce = s.lwinForce := rfl
@[simp] theorem State.advance_links (s : State) : (s.advance).links = s.links := rfl
@[simp] theorem State.advance_etoff (s : State) : (s.advance).etoff = s.etoff := rfl
@[simp] theorem State.advance_exchanges (s : State) : (s.advance).exchanges = s.exchanges := rfl
@[simp] theorem State.advance_tx (s : State) : (s.advance).tx = s.tx := rfl
@[simp] theorem State.advance_txWait (s : State) : (s.advance).txWait = s.txWait := rfl
@[simp] theorem State.advance_rx (s : State) : (s.advance).rx = s.rx := rfl
@[simp] theorem State.advance_coll (s : State) : (s.advance).coll = s.coll := rfl
@[simp] theorem State.advance_collOwed (s : State) : (s.advance).collOwed = s.collOwed := rfl
@[simp] theorem State.advance_proxied (s : State) : (s.advance).proxied = s.proxied := rfl
@[simp] theorem State.advance_snoopWait (s : State) : (s.advance).snoopWait = s.snoopWait := rfl
@[simp] theorem State.advance_proxyWait (s : State) : (s.advance).proxyWait = s.proxyWait := rfl
@[simp] theorem State.advance_refusedLines (s : State) : (s.advance).refusedLines = s.refusedLines := rfl
@[simp] theorem State.advance_dropped (s : State) : (s.advance).dropped = s.dropped := rfl
@[simp] theorem State.advance_bar2 (s : State) : (s.advance).bar2 = s.bar2 := rfl
@[simp] theorem State.advance_bar2Wait (s : State) : (s.advance).bar2Wait = s.bar2Wait := rfl
@[simp] theorem State.advance_mb (s : State) : (s.advance).mb = s.mb := rfl
@[simp] theorem State.advance_ctl (s : State) : (s.advance).ctl = s.ctl := rfl

@[simp] theorem State.onGroup_power (s : State) (c : CoreId) (g : SlotId) (f : Group → Group) : (s.onGroup c g f).power = s.power := by
  unfold State.onGroup; split <;> rfl
@[simp] theorem State.onGroup_cycle (s : State) (c : CoreId) (g : SlotId) (f : Group → Group) : (s.onGroup c g f).cycle = s.cycle := by
  unfold State.onGroup; split <;> rfl
@[simp] theorem State.onGroup_tick (s : State) (c : CoreId) (g : SlotId) (f : Group → Group) : (s.onGroup c g f).tick = s.tick := by
  unfold State.onGroup; split <;> rfl
@[simp] theorem State.onGroup_agenda (s : State) (c : CoreId) (g : SlotId) (f : Group → Group) : (s.onGroup c g f).agenda = s.agenda := by
  unfold State.onGroup; split <;> rfl
@[simp] theorem State.onGroup_cur (s : State) (c : CoreId) (g : SlotId) (f : Group → Group) : (s.onGroup c g f).cur = s.cur := by
  unfold State.onGroup; split <;> rfl
@[simp] theorem State.onGroup_engineTurn (s : State) (c : CoreId) (g : SlotId) (f : Group → Group) : (s.onGroup c g f).engineTurn = s.engineTurn := by
  unfold State.onGroup; split <;> rfl
@[simp] theorem State.onGroup_mem (s : State) (c : CoreId) (g : SlotId) (f : Group → Group) : (s.onGroup c g f).mem = s.mem := by
  unfold State.onGroup; split <;> rfl
@[simp] theorem State.onGroup_opened (s : State) (c : CoreId) (g : SlotId) (f : Group → Group) : (s.onGroup c g f).opened = s.opened := by
  unfold State.onGroup; split <;> rfl
@[simp] theorem State.onGroup_poison (s : State) (c : CoreId) (g : SlotId) (f : Group → Group) : (s.onGroup c g f).poison = s.poison := by
  unfold State.onGroup; split <;> rfl
@[simp] theorem State.onGroup_sizeCode (s : State) (c : CoreId) (g : SlotId) (f : Group → Group) : (s.onGroup c g f).sizeCode = s.sizeCode := by
  unfold State.onGroup; split <;> rfl
@[simp] theorem State.onGroup_keyTag (s : State) (c : CoreId) (g : SlotId) (f : Group → Group) : (s.onGroup c g f).keyTag = s.keyTag := by
  unfold State.onGroup; split <;> rfl
@[simp] theorem State.onGroup_badMac (s : State) (c : CoreId) (g : SlotId) (f : Group → Group) : (s.onGroup c g f).badMac = s.badMac := by
  unfold State.onGroup; split <;> rfl
@[simp] theorem State.onGroup_keySlots (s : State) (c : CoreId) (g : SlotId) (f : Group → Group) : (s.onGroup c g f).keySlots = s.keySlots := by
  unfold State.onGroup; split <;> rfl
@[simp] theorem State.onGroup_retiredRows (s : State) (c : CoreId) (g : SlotId) (f : Group → Group) : (s.onGroup c g f).retiredRows = s.retiredRows := by
  unfold State.onGroup; split <;> rfl
@[simp] theorem State.onGroup_decayed (s : State) (c : CoreId) (g : SlotId) (f : Group → Group) : (s.onGroup c g f).decayed = s.decayed := by
  unfold State.onGroup; split <;> rfl
@[simp] theorem State.onGroup_lostStacks (s : State) (c : CoreId) (g : SlotId) (f : Group → Group) : (s.onGroup c g f).lostStacks = s.lostStacks := by
  unfold State.onGroup; split <;> rfl
@[simp] theorem State.onGroup_srows (s : State) (c : CoreId) (g : SlotId) (f : Group → Group) : (s.onGroup c g f).srows = s.srows := by
  unfold State.onGroup; split <;> rfl
@[simp] theorem State.onGroup_ctxs (s : State) (c : CoreId) (g : SlotId) (f : Group → Group) : (s.onGroup c g f).ctxs = s.ctxs := by
  unfold State.onGroup; split <;> rfl
@[simp] theorem State.onGroup_dieTlb (s : State) (c : CoreId) (g : SlotId) (f : Group → Group) : (s.onGroup c g f).dieTlb = s.dieTlb := by
  unfold State.onGroup; split <;> rfl
@[simp] theorem State.onGroup_walks (s : State) (c : CoreId) (g : SlotId) (f : Group → Group) : (s.onGroup c g f).walks = s.walks := by
  unfold State.onGroup; split <;> rfl
@[simp] theorem State.onGroup_regions (s : State) (c : CoreId) (g : SlotId) (f : Group → Group) : (s.onGroup c g f).regions = s.regions := by
  unfold State.onGroup; split <;> rfl
@[simp] theorem State.onGroup_roots (s : State) (c : CoreId) (g : SlotId) (f : Group → Group) : (s.onGroup c g f).roots = s.roots := by
  unfold State.onGroup; split <;> rfl
@[simp] theorem State.onGroup_extents (s : State) (c : CoreId) (g : SlotId) (f : Group → Group) : (s.onGroup c g f).extents = s.extents := by
  unfold State.onGroup; split <;> rfl
@[simp] theorem State.onGroup_heads (s : State) (c : CoreId) (g : SlotId) (f : Group → Group) : (s.onGroup c g f).heads = s.heads := by
  unfold State.onGroup; split <;> rfl
@[simp] theorem State.onGroup_encProc (s : State) (c : CoreId) (g : SlotId) (f : Group → Group) : (s.onGroup c g f).encProc = s.encProc := by
  unfold State.onGroup; split <;> rfl
@[simp] theorem State.onGroup_encSize (s : State) (c : CoreId) (g : SlotId) (f : Group → Group) : (s.onGroup c g f).encSize = s.encSize := by
  unfold State.onGroup; split <;> rfl
@[simp] theorem State.onGroup_devDf (s : State) (c : CoreId) (g : SlotId) (f : Group → Group) : (s.onGroup c g f).devDf = s.devDf := by
  unfold State.onGroup; split <;> rfl
@[simp] theorem State.onGroup_devClass (s : State) (c : CoreId) (g : SlotId) (f : Group → Group) : (s.onGroup c g f).devClass = s.devClass := by
  unfold State.onGroup; split <;> rfl
@[simp] theorem State.onGroup_devUnit (s : State) (c : CoreId) (g : SlotId) (f : Group → Group) : (s.onGroup c g f).devUnit = s.devUnit := by
  unfold State.onGroup; split <;> rfl
@[simp] theorem State.onGroup_devCount (s : State) (c : CoreId) (g : SlotId) (f : Group → Group) : (s.onGroup c g f).devCount = s.devCount := by
  unfold State.onGroup; split <;> rfl
@[simp] theorem State.onGroup_msi (s : State) (c : CoreId) (g : SlotId) (f : Group → Group) : (s.onGroup c g f).msi = s.msi := by
  unfold State.onGroup; split <;> rfl
@[simp] theorem State.onGroup_hostPriv (s : State) (c : CoreId) (g : SlotId) (f : Group → Group) : (s.onGroup c g f).hostPriv = s.hostPriv := by
  unfold State.onGroup; split <;> rfl
@[simp] theorem State.onGroup_rolePriv (s : State) (c : CoreId) (g : SlotId) (f : Group → Group) : (s.onGroup c g f).rolePriv = s.rolePriv := by
  unfold State.onGroup; split <;> rfl
@[simp] theorem State.onGroup_rrPtr (s : State) (c : CoreId) (g : SlotId) (f : Group → Group) : (s.onGroup c g f).rrPtr = s.rrPtr := by
  unfold State.onGroup; split <;> rfl
@[simp] theorem State.onGroup_lastCtx (s : State) (c : CoreId) (g : SlotId) (f : Group → Group) : (s.onGroup c g f).lastCtx = s.lastCtx := by
  unfold State.onGroup; split <;> rfl
@[simp] theorem State.onGroup_dispatchSeq (s : State) (c : CoreId) (g : SlotId) (f : Group → Group) : (s.onGroup c g f).dispatchSeq = s.dispatchSeq := by
  unfold State.onGroup; split <;> rfl
@[simp] theorem State.onGroup_serviced (s : State) (c : CoreId) (g : SlotId) (f : Group → Group) : (s.onGroup c g f).serviced = s.serviced := by
  unfold State.onGroup; split <;> rfl
@[simp] theorem State.onGroup_macEvents (s : State) (c : CoreId) (g : SlotId) (f : Group → Group) : (s.onGroup c g f).macEvents = s.macEvents := by
  unfold State.onGroup; split <;> rfl
@[simp] theorem State.onGroup_lostLines (s : State) (c : CoreId) (g : SlotId) (f : Group → Group) : (s.onGroup c g f).lostLines = s.lostLines := by
  unfold State.onGroup; split <;> rfl
@[simp] theorem State.onGroup_calPc (s : State) (c : CoreId) (g : SlotId) (f : Group → Group) : (s.onGroup c g f).calPc = s.calPc := by
  unfold State.onGroup; split <;> rfl
@[simp] theorem State.onGroup_calSlot (s : State) (c : CoreId) (g : SlotId) (f : Group → Group) : (s.onGroup c g f).calSlot = s.calSlot := by
  unfold State.onGroup; split <;> rfl
@[simp] theorem State.onGroup_calStaged (s : State) (c : CoreId) (g : SlotId) (f : Group → Group) : (s.onGroup c g f).calStaged = s.calStaged := by
  unfold State.onGroup; split <;> rfl
@[simp] theorem State.onGroup_calForce (s : State) (c : CoreId) (g : SlotId) (f : Group → Group) : (s.onGroup c g f).calForce = s.calForce := by
  unfold State.onGroup; split <;> rfl
@[simp] theorem State.onGroup_calApply (s : State) (c : CoreId) (g : SlotId) (f : Group → Group) : (s.onGroup c g f).calApply = s.calApply := by
  unfold State.onGroup; split <;> rfl
@[simp] theorem State.onGroup_pcs (s : State) (c : CoreId) (g : SlotId) (f : Group → Group) : (s.onGroup c g f).pcs = s.pcs := by
  unfold State.onGroup; split <;> rfl
@[simp] theorem State.onGroup_reqs (s : State) (c : CoreId) (g : SlotId) (f : Group → Group) : (s.onGroup c g f).reqs = s.reqs := by
  unfold State.onGroup; split <;> rfl
@[simp] theorem State.onGroup_inflight (s : State) (c : CoreId) (g : SlotId) (f : Group → Group) : (s.onGroup c g f).inflight = s.inflight := by
  unfold State.onGroup; split <;> rfl
@[simp] theorem State.onGroup_latSel (s : State) (c : CoreId) (g : SlotId) (f : Group → Group) : (s.onGroup c g f).latSel = s.latSel := by
  unfold State.onGroup; split <;> rfl
@[simp] theorem State.onGroup_lats (s : State) (c : CoreId) (g : SlotId) (f : Group → Group) : (s.onGroup c g f).lats = s.lats := by
  unfold State.onGroup; split <;> rfl
@[simp] theorem State.onGroup_latLast (s : State) (c : CoreId) (g : SlotId) (f : Group → Group) : (s.onGroup c g f).latLast = s.latLast := by
  unfold State.onGroup; split <;> rfl
@[simp] theorem State.onGroup_lwin (s : State) (c : CoreId) (g : SlotId) (f : Group → Group) : (s.onGroup c g f).lwin = s.lwin := by
  unfold State.onGroup; split <;> rfl
@[simp] theorem State.onGroup_lwinForce (s : State) (c : CoreId) (g : SlotId) (f : Group → Group) : (s.onGroup c g f).lwinForce = s.lwinForce := by
  unfold State.onGroup; split <;> rfl
@[simp] theorem State.onGroup_links (s : State) (c : CoreId) (g : SlotId) (f : Group → Group) : (s.onGroup c g f).links = s.links := by
  unfold State.onGroup; split <;> rfl
@[simp] theorem State.onGroup_etoff (s : State) (c : CoreId) (g : SlotId) (f : Group → Group) : (s.onGroup c g f).etoff = s.etoff := by
  unfold State.onGroup; split <;> rfl
@[simp] theorem State.onGroup_exchanges (s : State) (c : CoreId) (g : SlotId) (f : Group → Group) : (s.onGroup c g f).exchanges = s.exchanges := by
  unfold State.onGroup; split <;> rfl
@[simp] theorem State.onGroup_tx (s : State) (c : CoreId) (g : SlotId) (f : Group → Group) : (s.onGroup c g f).tx = s.tx := by
  unfold State.onGroup; split <;> rfl
@[simp] theorem State.onGroup_txWait (s : State) (c : CoreId) (g : SlotId) (f : Group → Group) : (s.onGroup c g f).txWait = s.txWait := by
  unfold State.onGroup; split <;> rfl
@[simp] theorem State.onGroup_rx (s : State) (c : CoreId) (g : SlotId) (f : Group → Group) : (s.onGroup c g f).rx = s.rx := by
  unfold State.onGroup; split <;> rfl
@[simp] theorem State.onGroup_coll (s : State) (c : CoreId) (g : SlotId) (f : Group → Group) : (s.onGroup c g f).coll = s.coll := by
  unfold State.onGroup; split <;> rfl
@[simp] theorem State.onGroup_collOwed (s : State) (c : CoreId) (g : SlotId) (f : Group → Group) : (s.onGroup c g f).collOwed = s.collOwed := by
  unfold State.onGroup; split <;> rfl
@[simp] theorem State.onGroup_proxied (s : State) (c : CoreId) (g : SlotId) (f : Group → Group) : (s.onGroup c g f).proxied = s.proxied := by
  unfold State.onGroup; split <;> rfl
@[simp] theorem State.onGroup_snoopWait (s : State) (c : CoreId) (g : SlotId) (f : Group → Group) : (s.onGroup c g f).snoopWait = s.snoopWait := by
  unfold State.onGroup; split <;> rfl
@[simp] theorem State.onGroup_proxyWait (s : State) (c : CoreId) (g : SlotId) (f : Group → Group) : (s.onGroup c g f).proxyWait = s.proxyWait := by
  unfold State.onGroup; split <;> rfl
@[simp] theorem State.onGroup_refusedLines (s : State) (c : CoreId) (g : SlotId) (f : Group → Group) : (s.onGroup c g f).refusedLines = s.refusedLines := by
  unfold State.onGroup; split <;> rfl
@[simp] theorem State.onGroup_dropped (s : State) (c : CoreId) (g : SlotId) (f : Group → Group) : (s.onGroup c g f).dropped = s.dropped := by
  unfold State.onGroup; split <;> rfl
@[simp] theorem State.onGroup_bar2 (s : State) (c : CoreId) (g : SlotId) (f : Group → Group) : (s.onGroup c g f).bar2 = s.bar2 := by
  unfold State.onGroup; split <;> rfl
@[simp] theorem State.onGroup_bar2Wait (s : State) (c : CoreId) (g : SlotId) (f : Group → Group) : (s.onGroup c g f).bar2Wait = s.bar2Wait := by
  unfold State.onGroup; split <;> rfl
@[simp] theorem State.onGroup_mb (s : State) (c : CoreId) (g : SlotId) (f : Group → Group) : (s.onGroup c g f).mb = s.mb := by
  unfold State.onGroup; split <;> rfl
@[simp] theorem State.onGroup_ctl (s : State) (c : CoreId) (g : SlotId) (f : Group → Group) : (s.onGroup c g f).ctl = s.ctl := by
  unfold State.onGroup; split <;> rfl

@[simp] theorem State.onRole_power (s : State) (r : RoleId) (f : Role → Role) : (s.onRole r f).power = s.power := State.onGroup_power ..
@[simp] theorem State.onRole_cycle (s : State) (r : RoleId) (f : Role → Role) : (s.onRole r f).cycle = s.cycle := State.onGroup_cycle ..
@[simp] theorem State.onRole_tick (s : State) (r : RoleId) (f : Role → Role) : (s.onRole r f).tick = s.tick := State.onGroup_tick ..
@[simp] theorem State.onRole_agenda (s : State) (r : RoleId) (f : Role → Role) : (s.onRole r f).agenda = s.agenda := State.onGroup_agenda ..
@[simp] theorem State.onRole_cur (s : State) (r : RoleId) (f : Role → Role) : (s.onRole r f).cur = s.cur := State.onGroup_cur ..
@[simp] theorem State.onRole_engineTurn (s : State) (r : RoleId) (f : Role → Role) : (s.onRole r f).engineTurn = s.engineTurn := State.onGroup_engineTurn ..
@[simp] theorem State.onRole_mem (s : State) (r : RoleId) (f : Role → Role) : (s.onRole r f).mem = s.mem := State.onGroup_mem ..
@[simp] theorem State.onRole_opened (s : State) (r : RoleId) (f : Role → Role) : (s.onRole r f).opened = s.opened := State.onGroup_opened ..
@[simp] theorem State.onRole_poison (s : State) (r : RoleId) (f : Role → Role) : (s.onRole r f).poison = s.poison := State.onGroup_poison ..
@[simp] theorem State.onRole_sizeCode (s : State) (r : RoleId) (f : Role → Role) : (s.onRole r f).sizeCode = s.sizeCode := State.onGroup_sizeCode ..
@[simp] theorem State.onRole_keyTag (s : State) (r : RoleId) (f : Role → Role) : (s.onRole r f).keyTag = s.keyTag := State.onGroup_keyTag ..
@[simp] theorem State.onRole_badMac (s : State) (r : RoleId) (f : Role → Role) : (s.onRole r f).badMac = s.badMac := State.onGroup_badMac ..
@[simp] theorem State.onRole_keySlots (s : State) (r : RoleId) (f : Role → Role) : (s.onRole r f).keySlots = s.keySlots := State.onGroup_keySlots ..
@[simp] theorem State.onRole_retiredRows (s : State) (r : RoleId) (f : Role → Role) : (s.onRole r f).retiredRows = s.retiredRows := State.onGroup_retiredRows ..
@[simp] theorem State.onRole_decayed (s : State) (r : RoleId) (f : Role → Role) : (s.onRole r f).decayed = s.decayed := State.onGroup_decayed ..
@[simp] theorem State.onRole_lostStacks (s : State) (r : RoleId) (f : Role → Role) : (s.onRole r f).lostStacks = s.lostStacks := State.onGroup_lostStacks ..
@[simp] theorem State.onRole_srows (s : State) (r : RoleId) (f : Role → Role) : (s.onRole r f).srows = s.srows := State.onGroup_srows ..
@[simp] theorem State.onRole_ctxs (s : State) (r : RoleId) (f : Role → Role) : (s.onRole r f).ctxs = s.ctxs := State.onGroup_ctxs ..
@[simp] theorem State.onRole_dieTlb (s : State) (r : RoleId) (f : Role → Role) : (s.onRole r f).dieTlb = s.dieTlb := State.onGroup_dieTlb ..
@[simp] theorem State.onRole_walks (s : State) (r : RoleId) (f : Role → Role) : (s.onRole r f).walks = s.walks := State.onGroup_walks ..
@[simp] theorem State.onRole_regions (s : State) (r : RoleId) (f : Role → Role) : (s.onRole r f).regions = s.regions := State.onGroup_regions ..
@[simp] theorem State.onRole_roots (s : State) (r : RoleId) (f : Role → Role) : (s.onRole r f).roots = s.roots := State.onGroup_roots ..
@[simp] theorem State.onRole_extents (s : State) (r : RoleId) (f : Role → Role) : (s.onRole r f).extents = s.extents := State.onGroup_extents ..
@[simp] theorem State.onRole_heads (s : State) (r : RoleId) (f : Role → Role) : (s.onRole r f).heads = s.heads := State.onGroup_heads ..
@[simp] theorem State.onRole_encProc (s : State) (r : RoleId) (f : Role → Role) : (s.onRole r f).encProc = s.encProc := State.onGroup_encProc ..
@[simp] theorem State.onRole_encSize (s : State) (r : RoleId) (f : Role → Role) : (s.onRole r f).encSize = s.encSize := State.onGroup_encSize ..
@[simp] theorem State.onRole_devDf (s : State) (r : RoleId) (f : Role → Role) : (s.onRole r f).devDf = s.devDf := State.onGroup_devDf ..
@[simp] theorem State.onRole_devClass (s : State) (r : RoleId) (f : Role → Role) : (s.onRole r f).devClass = s.devClass := State.onGroup_devClass ..
@[simp] theorem State.onRole_devUnit (s : State) (r : RoleId) (f : Role → Role) : (s.onRole r f).devUnit = s.devUnit := State.onGroup_devUnit ..
@[simp] theorem State.onRole_devCount (s : State) (r : RoleId) (f : Role → Role) : (s.onRole r f).devCount = s.devCount := State.onGroup_devCount ..
@[simp] theorem State.onRole_msi (s : State) (r : RoleId) (f : Role → Role) : (s.onRole r f).msi = s.msi := State.onGroup_msi ..
@[simp] theorem State.onRole_hostPriv (s : State) (r : RoleId) (f : Role → Role) : (s.onRole r f).hostPriv = s.hostPriv := State.onGroup_hostPriv ..
@[simp] theorem State.onRole_rolePriv (s : State) (r : RoleId) (f : Role → Role) : (s.onRole r f).rolePriv = s.rolePriv := State.onGroup_rolePriv ..
@[simp] theorem State.onRole_rrPtr (s : State) (r : RoleId) (f : Role → Role) : (s.onRole r f).rrPtr = s.rrPtr := State.onGroup_rrPtr ..
@[simp] theorem State.onRole_lastCtx (s : State) (r : RoleId) (f : Role → Role) : (s.onRole r f).lastCtx = s.lastCtx := State.onGroup_lastCtx ..
@[simp] theorem State.onRole_dispatchSeq (s : State) (r : RoleId) (f : Role → Role) : (s.onRole r f).dispatchSeq = s.dispatchSeq := State.onGroup_dispatchSeq ..
@[simp] theorem State.onRole_serviced (s : State) (r : RoleId) (f : Role → Role) : (s.onRole r f).serviced = s.serviced := State.onGroup_serviced ..
@[simp] theorem State.onRole_macEvents (s : State) (r : RoleId) (f : Role → Role) : (s.onRole r f).macEvents = s.macEvents := State.onGroup_macEvents ..
@[simp] theorem State.onRole_lostLines (s : State) (r : RoleId) (f : Role → Role) : (s.onRole r f).lostLines = s.lostLines := State.onGroup_lostLines ..
@[simp] theorem State.onRole_calPc (s : State) (r : RoleId) (f : Role → Role) : (s.onRole r f).calPc = s.calPc := State.onGroup_calPc ..
@[simp] theorem State.onRole_calSlot (s : State) (r : RoleId) (f : Role → Role) : (s.onRole r f).calSlot = s.calSlot := State.onGroup_calSlot ..
@[simp] theorem State.onRole_calStaged (s : State) (r : RoleId) (f : Role → Role) : (s.onRole r f).calStaged = s.calStaged := State.onGroup_calStaged ..
@[simp] theorem State.onRole_calForce (s : State) (r : RoleId) (f : Role → Role) : (s.onRole r f).calForce = s.calForce := State.onGroup_calForce ..
@[simp] theorem State.onRole_calApply (s : State) (r : RoleId) (f : Role → Role) : (s.onRole r f).calApply = s.calApply := State.onGroup_calApply ..
@[simp] theorem State.onRole_pcs (s : State) (r : RoleId) (f : Role → Role) : (s.onRole r f).pcs = s.pcs := State.onGroup_pcs ..
@[simp] theorem State.onRole_reqs (s : State) (r : RoleId) (f : Role → Role) : (s.onRole r f).reqs = s.reqs := State.onGroup_reqs ..
@[simp] theorem State.onRole_inflight (s : State) (r : RoleId) (f : Role → Role) : (s.onRole r f).inflight = s.inflight := State.onGroup_inflight ..
@[simp] theorem State.onRole_latSel (s : State) (r : RoleId) (f : Role → Role) : (s.onRole r f).latSel = s.latSel := State.onGroup_latSel ..
@[simp] theorem State.onRole_lats (s : State) (r : RoleId) (f : Role → Role) : (s.onRole r f).lats = s.lats := State.onGroup_lats ..
@[simp] theorem State.onRole_latLast (s : State) (r : RoleId) (f : Role → Role) : (s.onRole r f).latLast = s.latLast := State.onGroup_latLast ..
@[simp] theorem State.onRole_lwin (s : State) (r : RoleId) (f : Role → Role) : (s.onRole r f).lwin = s.lwin := State.onGroup_lwin ..
@[simp] theorem State.onRole_lwinForce (s : State) (r : RoleId) (f : Role → Role) : (s.onRole r f).lwinForce = s.lwinForce := State.onGroup_lwinForce ..
@[simp] theorem State.onRole_links (s : State) (r : RoleId) (f : Role → Role) : (s.onRole r f).links = s.links := State.onGroup_links ..
@[simp] theorem State.onRole_etoff (s : State) (r : RoleId) (f : Role → Role) : (s.onRole r f).etoff = s.etoff := State.onGroup_etoff ..
@[simp] theorem State.onRole_exchanges (s : State) (r : RoleId) (f : Role → Role) : (s.onRole r f).exchanges = s.exchanges := State.onGroup_exchanges ..
@[simp] theorem State.onRole_tx (s : State) (r : RoleId) (f : Role → Role) : (s.onRole r f).tx = s.tx := State.onGroup_tx ..
@[simp] theorem State.onRole_txWait (s : State) (r : RoleId) (f : Role → Role) : (s.onRole r f).txWait = s.txWait := State.onGroup_txWait ..
@[simp] theorem State.onRole_rx (s : State) (r : RoleId) (f : Role → Role) : (s.onRole r f).rx = s.rx := State.onGroup_rx ..
@[simp] theorem State.onRole_coll (s : State) (r : RoleId) (f : Role → Role) : (s.onRole r f).coll = s.coll := State.onGroup_coll ..
@[simp] theorem State.onRole_collOwed (s : State) (r : RoleId) (f : Role → Role) : (s.onRole r f).collOwed = s.collOwed := State.onGroup_collOwed ..
@[simp] theorem State.onRole_proxied (s : State) (r : RoleId) (f : Role → Role) : (s.onRole r f).proxied = s.proxied := State.onGroup_proxied ..
@[simp] theorem State.onRole_snoopWait (s : State) (r : RoleId) (f : Role → Role) : (s.onRole r f).snoopWait = s.snoopWait := State.onGroup_snoopWait ..
@[simp] theorem State.onRole_proxyWait (s : State) (r : RoleId) (f : Role → Role) : (s.onRole r f).proxyWait = s.proxyWait := State.onGroup_proxyWait ..
@[simp] theorem State.onRole_refusedLines (s : State) (r : RoleId) (f : Role → Role) : (s.onRole r f).refusedLines = s.refusedLines := State.onGroup_refusedLines ..
@[simp] theorem State.onRole_dropped (s : State) (r : RoleId) (f : Role → Role) : (s.onRole r f).dropped = s.dropped := State.onGroup_dropped ..
@[simp] theorem State.onRole_bar2 (s : State) (r : RoleId) (f : Role → Role) : (s.onRole r f).bar2 = s.bar2 := State.onGroup_bar2 ..
@[simp] theorem State.onRole_bar2Wait (s : State) (r : RoleId) (f : Role → Role) : (s.onRole r f).bar2Wait = s.bar2Wait := State.onGroup_bar2Wait ..
@[simp] theorem State.onRole_mb (s : State) (r : RoleId) (f : Role → Role) : (s.onRole r f).mb = s.mb := State.onGroup_mb ..
@[simp] theorem State.onRole_ctl (s : State) (r : RoleId) (f : Role → Role) : (s.onRole r f).ctl = s.ctl := State.onGroup_ctl ..

@[simp] theorem Group.onRole_ctx (g : Group) (k : RoleKind) (f : Role → Role) : (g.onRole k f).ctx = g.ctx := rfl
@[simp] theorem Group.onRole_record (g : Group) (k : RoleKind) (f : Role → Role) : (g.onRole k f).record = g.record := rfl
@[simp] theorem Group.onRole_clustered (g : Group) (k : RoleKind) (f : Role → Role) : (g.onRole k f).clustered = g.clustered := rfl
@[simp] theorem Group.onRole_order (g : Group) (k : RoleKind) (f : Role → Role) : (g.onRole k f).order = g.order := rfl
@[simp] theorem Group.onRole_batch (g : Group) (k : RoleKind) (f : Role → Role) : (g.onRole k f).batch = g.batch := rfl
@[simp] theorem Group.onRole_rowBase (g : Group) (k : RoleKind) (f : Role → Role) : (g.onRole k f).rowBase = g.rowBase := rfl
@[simp] theorem Group.onRole_rows (g : Group) (k : RoleKind) (f : Role → Role) : (g.onRole k f).rows = g.rows := rfl
@[simp] theorem Group.onRole_unitBase (g : Group) (k : RoleKind) (f : Role → Role) : (g.onRole k f).unitBase = g.unitBase := rfl
@[simp] theorem Group.onRole_units (g : Group) (k : RoleKind) (f : Role → Role) : (g.onRole k f).units = g.units := rfl
@[simp] theorem Group.onRole_bars (g : Group) (k : RoleKind) (f : Role → Role) : (g.onRole k f).bars = g.bars := rfl
@[simp] theorem Group.onRole_nodeBlocks (g : Group) (k : RoleKind) (f : Role → Role) : (g.onRole k f).nodeBlocks = g.nodeBlocks := rfl
@[simp] theorem Group.onRole_state (g : Group) (k : RoleKind) (f : Role → Role) : (g.onRole k f).state = g.state := rfl
@[simp] theorem Group.onRole_estimate (g : Group) (k : RoleKind) (f : Role → Role) : (g.onRole k f).estimate = g.estimate := rfl
@[simp] theorem Group.onRole_estimateSet (g : Group) (k : RoleKind) (f : Role → Role) : (g.onRole k f).estimateSet = g.estimateSet := rfl
@[simp] theorem Group.onRole_flags (g : Group) (k : RoleKind) (f : Role → Role) : (g.onRole k f).flags = g.flags := rfl
@[simp] theorem Group.onRole_tfctl (g : Group) (k : RoleKind) (f : Role → Role) : (g.onRole k f).tfctl = g.tfctl := rfl
@[simp] theorem Group.onRole_nanrec (g : Group) (k : RoleKind) (f : Role → Role) : (g.onRole k f).nanrec = g.nanrec := rfl
@[simp] theorem Group.onRole_nanrecPc (g : Group) (k : RoleKind) (f : Role → Role) : (g.onRole k f).nanrecPc = g.nanrecPc := rfl
@[simp] theorem Group.onRole_preds (g : Group) (k : RoleKind) (f : Role → Role) : (g.onRole k f).preds = g.preds := rfl
@[simp] theorem Group.onRole_gens (g : Group) (k : RoleKind) (f : Role → Role) : (g.onRole k f).gens = g.gens := rfl
@[simp] theorem Group.onRole_roleq (g : Group) (k : RoleKind) (f : Role → Role) : (g.onRole k f).roleq = g.roleq := rfl
@[simp] theorem Group.onRole_roleqMoved (g : Group) (k : RoleKind) (f : Role → Role) : (g.onRole k f).roleqMoved = g.roleqMoved := rfl
@[simp] theorem Group.onRole_mmacs (g : Group) (k : RoleKind) (f : Role → Role) : (g.onRole k f).mmacs = g.mmacs := rfl
@[simp] theorem Group.onRole_mateGone (g : Group) (k : RoleKind) (f : Role → Role) : (g.onRole k f).mateGone = g.mateGone := rfl
@[simp] theorem Group.onRole_tile (g : Group) (k : RoleKind) (f : Role → Role) : (g.onRole k f).tile = g.tile := rfl
@[simp] theorem Group.onRole_chans (g : Group) (k : RoleKind) (f : Role → Role) : (g.onRole k f).chans = g.chans := rfl
@[simp] theorem Group.onRole_binds (g : Group) (k : RoleKind) (f : Role → Role) : (g.onRole k f).binds = g.binds := rfl
@[simp] theorem Group.onRole_squashed (g : Group) (k : RoleKind) (f : Role → Role) : (g.onRole k f).squashed = g.squashed := rfl
@[simp] theorem Group.onRole_drainAt (g : Group) (k : RoleKind) (f : Role → Role) : (g.onRole k f).drainAt = g.drainAt := rfl

@[simp] theorem Group.raise_ctx (g : Group) (f : Flags) : (g.raise f).ctx = g.ctx := rfl
@[simp] theorem Group.raise_record (g : Group) (f : Flags) : (g.raise f).record = g.record := rfl
@[simp] theorem Group.raise_clustered (g : Group) (f : Flags) : (g.raise f).clustered = g.clustered := rfl
@[simp] theorem Group.raise_order (g : Group) (f : Flags) : (g.raise f).order = g.order := rfl
@[simp] theorem Group.raise_batch (g : Group) (f : Flags) : (g.raise f).batch = g.batch := rfl
@[simp] theorem Group.raise_rowBase (g : Group) (f : Flags) : (g.raise f).rowBase = g.rowBase := rfl
@[simp] theorem Group.raise_rows (g : Group) (f : Flags) : (g.raise f).rows = g.rows := rfl
@[simp] theorem Group.raise_unitBase (g : Group) (f : Flags) : (g.raise f).unitBase = g.unitBase := rfl
@[simp] theorem Group.raise_units (g : Group) (f : Flags) : (g.raise f).units = g.units := rfl
@[simp] theorem Group.raise_bars (g : Group) (f : Flags) : (g.raise f).bars = g.bars := rfl
@[simp] theorem Group.raise_nodeBlocks (g : Group) (f : Flags) : (g.raise f).nodeBlocks = g.nodeBlocks := rfl
@[simp] theorem Group.raise_state (g : Group) (f : Flags) : (g.raise f).state = g.state := rfl
@[simp] theorem Group.raise_estimate (g : Group) (f : Flags) : (g.raise f).estimate = g.estimate := rfl
@[simp] theorem Group.raise_estimateSet (g : Group) (f : Flags) : (g.raise f).estimateSet = g.estimateSet := rfl
@[simp] theorem Group.raise_tfctl (g : Group) (f : Flags) : (g.raise f).tfctl = g.tfctl := rfl
@[simp] theorem Group.raise_nanrec (g : Group) (f : Flags) : (g.raise f).nanrec = g.nanrec := rfl
@[simp] theorem Group.raise_nanrecPc (g : Group) (f : Flags) : (g.raise f).nanrecPc = g.nanrecPc := rfl
@[simp] theorem Group.raise_preds (g : Group) (f : Flags) : (g.raise f).preds = g.preds := rfl
@[simp] theorem Group.raise_gens (g : Group) (f : Flags) : (g.raise f).gens = g.gens := rfl
@[simp] theorem Group.raise_roleq (g : Group) (f : Flags) : (g.raise f).roleq = g.roleq := rfl
@[simp] theorem Group.raise_roleqMoved (g : Group) (f : Flags) : (g.raise f).roleqMoved = g.roleqMoved := rfl
@[simp] theorem Group.raise_roles (g : Group) (f : Flags) : (g.raise f).roles = g.roles := rfl
@[simp] theorem Group.raise_mmacs (g : Group) (f : Flags) : (g.raise f).mmacs = g.mmacs := rfl
@[simp] theorem Group.raise_mateGone (g : Group) (f : Flags) : (g.raise f).mateGone = g.mateGone := rfl
@[simp] theorem Group.raise_tile (g : Group) (f : Flags) : (g.raise f).tile = g.tile := rfl
@[simp] theorem Group.raise_chans (g : Group) (f : Flags) : (g.raise f).chans = g.chans := rfl
@[simp] theorem Group.raise_binds (g : Group) (f : Flags) : (g.raise f).binds = g.binds := rfl
@[simp] theorem Group.raise_squashed (g : Group) (f : Flags) : (g.raise f).squashed = g.squashed := rfl
@[simp] theorem Group.raise_drainAt (g : Group) (f : Flags) : (g.raise f).drainAt = g.drainAt := rfl

@[simp] theorem Role.goto_status (k : Role) (pc : Nat) : (k.goto pc).status = k.status := rfl
@[simp] theorem Role.goto_stalled (k : Role) (pc : Nat) : (k.goto pc).stalled = k.stalled := rfl
@[simp] theorem Role.goto_regs (k : Role) (pc : Nat) : (k.goto pc).regs = k.regs := rfl
@[simp] theorem Role.goto_loops (k : Role) (pc : Nat) : (k.goto pc).loops = k.loops := rfl
@[simp] theorem Role.goto_ports (k : Role) (pc : Nat) : (k.goto pc).ports = k.ports := rfl
@[simp] theorem Role.goto_cause (k : Role) (pc : Nat) : (k.goto pc).cause = k.cause := rfl
@[simp] theorem Role.goto_faultPc (k : Role) (pc : Nat) : (k.goto pc).faultPc = k.faultPc := rfl
@[simp] theorem Role.goto_faultVa (k : Role) (pc : Nat) : (k.goto pc).faultVa = k.faultVa := rfl
@[simp] theorem Role.goto_appendPc (k : Role) (pc : Nat) : (k.goto pc).appendPc = k.appendPc := rfl
@[simp] theorem Role.goto_nodeId (k : Role) (pc : Nat) : (k.goto pc).nodeId = k.nodeId := rfl
@[simp] theorem Role.goto_retired (k : Role) (pc : Nat) : (k.goto pc).retired = k.retired := rfl
@[simp] theorem Role.goto_restAt (k : Role) (pc : Nat) : (k.goto pc).restAt = k.restAt := rfl
@[simp] theorem Role.goto_heldRec (k : Role) (pc : Nat) : (k.goto pc).heldRec = k.heldRec := rfl
@[simp] theorem Role.goto_pendingBar (k : Role) (pc : Nat) : (k.goto pc).pendingBar = k.pendingBar := rfl
@[simp] theorem Role.goto_drainAt (k : Role) (pc : Nat) : (k.goto pc).drainAt = k.drainAt := rfl

@[simp] theorem Role.setReg_status (k : Role) (r : SReg) (v : Word) : (k.setReg r v).status = k.status := by
  unfold Role.setReg; split <;> rfl
@[simp] theorem Role.setReg_stalled (k : Role) (r : SReg) (v : Word) : (k.setReg r v).stalled = k.stalled := by
  unfold Role.setReg; split <;> rfl
@[simp] theorem Role.setReg_pc (k : Role) (r : SReg) (v : Word) : (k.setReg r v).pc = k.pc := by
  unfold Role.setReg; split <;> rfl
@[simp] theorem Role.setReg_ended (k : Role) (r : SReg) (v : Word) : (k.setReg r v).ended = k.ended := by
  unfold Role.setReg; split <;> rfl
@[simp] theorem Role.setReg_line (k : Role) (r : SReg) (v : Word) : (k.setReg r v).line = k.line := by
  unfold Role.setReg; split <;> rfl
@[simp] theorem Role.setReg_chained (k : Role) (r : SReg) (v : Word) : (k.setReg r v).chained = k.chained := by
  unfold Role.setReg; split <;> rfl
@[simp] theorem Role.setReg_loops (k : Role) (r : SReg) (v : Word) : (k.setReg r v).loops = k.loops := by
  unfold Role.setReg; split <;> rfl
@[simp] theorem Role.setReg_ports (k : Role) (r : SReg) (v : Word) : (k.setReg r v).ports = k.ports := by
  unfold Role.setReg; split <;> rfl
@[simp] theorem Role.setReg_cause (k : Role) (r : SReg) (v : Word) : (k.setReg r v).cause = k.cause := by
  unfold Role.setReg; split <;> rfl
@[simp] theorem Role.setReg_faultPc (k : Role) (r : SReg) (v : Word) : (k.setReg r v).faultPc = k.faultPc := by
  unfold Role.setReg; split <;> rfl
@[simp] theorem Role.setReg_faultVa (k : Role) (r : SReg) (v : Word) : (k.setReg r v).faultVa = k.faultVa := by
  unfold Role.setReg; split <;> rfl
@[simp] theorem Role.setReg_appendPc (k : Role) (r : SReg) (v : Word) : (k.setReg r v).appendPc = k.appendPc := by
  unfold Role.setReg; split <;> rfl
@[simp] theorem Role.setReg_nodeId (k : Role) (r : SReg) (v : Word) : (k.setReg r v).nodeId = k.nodeId := by
  unfold Role.setReg; split <;> rfl
@[simp] theorem Role.setReg_retired (k : Role) (r : SReg) (v : Word) : (k.setReg r v).retired = k.retired := by
  unfold Role.setReg; split <;> rfl
@[simp] theorem Role.setReg_blocked (k : Role) (r : SReg) (v : Word) : (k.setReg r v).blocked = k.blocked := by
  unfold Role.setReg; split <;> rfl
@[simp] theorem Role.setReg_restAt (k : Role) (r : SReg) (v : Word) : (k.setReg r v).restAt = k.restAt := by
  unfold Role.setReg; split <;> rfl
@[simp] theorem Role.setReg_heldRec (k : Role) (r : SReg) (v : Word) : (k.setReg r v).heldRec = k.heldRec := by
  unfold Role.setReg; split <;> rfl
@[simp] theorem Role.setReg_pendingBar (k : Role) (r : SReg) (v : Word) : (k.setReg r v).pendingBar = k.pendingBar := by
  unfold Role.setReg; split <;> rfl
@[simp] theorem Role.setReg_drainAt (k : Role) (r : SReg) (v : Word) : (k.setReg r v).drainAt = k.drainAt := by
  unfold Role.setReg; split <;> rfl

@[simp] theorem Role.follow_status (k : Role) (pc size : Nat) : (k.follow pc size).status = k.status := by
  unfold Role.follow; split <;> rfl
@[simp] theorem Role.follow_stalled (k : Role) (pc size : Nat) : (k.follow pc size).stalled = k.stalled := by
  unfold Role.follow; split <;> rfl
@[simp] theorem Role.follow_regs (k : Role) (pc size : Nat) : (k.follow pc size).regs = k.regs := by
  unfold Role.follow; split <;> rfl
@[simp] theorem Role.follow_loops (k : Role) (pc size : Nat) : (k.follow pc size).loops = k.loops := by
  unfold Role.follow; split <;> rfl
@[simp] theorem Role.follow_ports (k : Role) (pc size : Nat) : (k.follow pc size).ports = k.ports := by
  unfold Role.follow; split <;> rfl
@[simp] theorem Role.follow_cause (k : Role) (pc size : Nat) : (k.follow pc size).cause = k.cause := by
  unfold Role.follow; split <;> rfl
@[simp] theorem Role.follow_faultPc (k : Role) (pc size : Nat) : (k.follow pc size).faultPc = k.faultPc := by
  unfold Role.follow; split <;> rfl
@[simp] theorem Role.follow_faultVa (k : Role) (pc size : Nat) : (k.follow pc size).faultVa = k.faultVa := by
  unfold Role.follow; split <;> rfl
@[simp] theorem Role.follow_appendPc (k : Role) (pc size : Nat) : (k.follow pc size).appendPc = k.appendPc := by
  unfold Role.follow; split <;> rfl
@[simp] theorem Role.follow_nodeId (k : Role) (pc size : Nat) : (k.follow pc size).nodeId = k.nodeId := by
  unfold Role.follow; split <;> rfl
@[simp] theorem Role.follow_retired (k : Role) (pc size : Nat) : (k.follow pc size).retired = k.retired := by
  unfold Role.follow; split <;> rfl
@[simp] theorem Role.follow_restAt (k : Role) (pc size : Nat) : (k.follow pc size).restAt = k.restAt := by
  unfold Role.follow; split <;> rfl
@[simp] theorem Role.follow_heldRec (k : Role) (pc size : Nat) : (k.follow pc size).heldRec = k.heldRec := by
  unfold Role.follow; split <;> rfl
@[simp] theorem Role.follow_pendingBar (k : Role) (pc size : Nat) : (k.follow pc size).pendingBar = k.pendingBar := by
  unfold Role.follow; split <;> rfl
@[simp] theorem Role.follow_drainAt (k : Role) (pc size : Nat) : (k.follow pc size).drainAt = k.drainAt := by
  unfold Role.follow; split <;> rfl

end Sys2Proof.Machine
end

