-- ==== Sys2Proof/Laws/Exec.lean ====
section
/-! SUPPORT. The meaning that exec calls for each constructor. -/

namespace Sys2Proof.Machine

open Sys2Proof

theorem exec_nop (s : State) : exec (.nop) s = execNop s := rfl
theorem exec_endGroup (s : State) : exec (.endGroup) s = execEndGroup s := rfl
theorem exec_tfence (s : State) : exec (.tfence) s = execTfence s := rfl
theorem exec_trap code (s : State) : exec (.trap code) s = execTrap code s := rfl
theorem exec_brk code (s : State) : exec (.brk code) s = execBrk code s := rfl
theorem exec_fence scope kind (s : State) : exec (.fence scope kind) s = execFence scope kind s := rfl
theorem exec_cyc d (s : State) : exec (.cyc d) s = execCyc d s := rfl
theorem exec_csrr d csr (s : State) : exec (.csrr d csr) s = execCsrr d csr s := rfl
theorem exec_csrw a csr (s : State) : exec (.csrw a csr) s = execCsrw a csr s := rfl
theorem exec_csrs a csr (s : State) : exec (.csrs a csr) s = execCsrs a csr s := rfl
theorem exec_csrc a csr (s : State) : exec (.csrc a csr) s = execCsrc a csr s := rfl
theorem exec_add d a b (s : State) : exec (.add d a b) s = execAdd d a b s := rfl
theorem exec_sub d a b (s : State) : exec (.sub d a b) s = execSub d a b s := rfl
theorem exec_mul d a b (s : State) : exec (.mul d a b) s = execMul d a b s := rfl
theorem exec_mulh d a b (s : State) : exec (.mulh d a b) s = execMulh d a b s := rfl
theorem exec_mulhn d a b (s : State) : exec (.mulhn d a b) s = execMulhn d a b s := rfl
theorem exec_div d a b (s : State) : exec (.div d a b) s = execDiv d a b s := rfl
theorem exec_divn d a b (s : State) : exec (.divn d a b) s = execDivn d a b s := rfl
theorem exec_rem d a b (s : State) : exec (.rem d a b) s = execRem d a b s := rfl
theorem exec_remn d a b (s : State) : exec (.remn d a b) s = execRemn d a b s := rfl
theorem exec_and d a b (s : State) : exec (.and d a b) s = execAnd d a b s := rfl
theorem exec_or d a b (s : State) : exec (.or d a b) s = execOr d a b s := rfl
theorem exec_xor d a b (s : State) : exec (.xor d a b) s = execXor d a b s := rfl
theorem exec_andn d a b (s : State) : exec (.andn d a b) s = execAndn d a b s := rfl
theorem exec_shl d a b (s : State) : exec (.shl d a b) s = execShl d a b s := rfl
theorem exec_shr d a b (s : State) : exec (.shr d a b) s = execShr d a b s := rfl
theorem exec_sar d a b (s : State) : exec (.sar d a b) s = execSar d a b s := rfl
theorem exec_rol d a b (s : State) : exec (.rol d a b) s = execRol d a b s := rfl
theorem exec_min d a b (s : State) : exec (.min d a b) s = execMin d a b s := rfl
theorem exec_max d a b (s : State) : exec (.max d a b) s = execMax d a b s := rfl
theorem exec_minn d a b (s : State) : exec (.minn d a b) s = execMinn d a b s := rfl
theorem exec_maxn d a b (s : State) : exec (.maxn d a b) s = execMaxn d a b s := rfl
theorem exec_seq d a b (s : State) : exec (.seq d a b) s = execSeq d a b s := rfl
theorem exec_sne d a b (s : State) : exec (.sne d a b) s = execSne d a b s := rfl
theorem exec_slt d a b (s : State) : exec (.slt d a b) s = execSlt d a b s := rfl
theorem exec_sltn d a b (s : State) : exec (.sltn d a b) s = execSltn d a b s := rfl
theorem exec_sle d a b (s : State) : exec (.sle d a b) s = execSle d a b s := rfl
theorem exec_slen d a b (s : State) : exec (.slen d a b) s = execSlen d a b s := rfl
theorem exec_clz d a (s : State) : exec (.clz d a) s = execClz d a s := rfl
theorem exec_ctz d a (s : State) : exec (.ctz d a) s = execCtz d a s := rfl
theorem exec_popc d a (s : State) : exec (.popc d a) s = execPopc d a s := rfl
theorem exec_sel d a b (s : State) : exec (.sel d a b) s = execSel d a b s := rfl
theorem exec_addsh1 d a b (s : State) : exec (.addsh1 d a b) s = execAddsh1 d a b s := rfl
theorem exec_addsh2 d a b (s : State) : exec (.addsh2 d a b) s = execAddsh2 d a b s := rfl
theorem exec_addsh3 d a b (s : State) : exec (.addsh3 d a b) s = execAddsh3 d a b s := rfl
theorem exec_addi d a imm (s : State) : exec (.addi d a imm) s = execAddi d a imm s := rfl
theorem exec_andi d a imm (s : State) : exec (.andi d a imm) s = execAndi d a imm s := rfl
theorem exec_ori d a imm (s : State) : exec (.ori d a imm) s = execOri d a imm s := rfl
theorem exec_xori d a imm (s : State) : exec (.xori d a imm) s = execXori d a imm s := rfl
theorem exec_slti d a imm (s : State) : exec (.slti d a imm) s = execSlti d a imm s := rfl
theorem exec_shli d a n (s : State) : exec (.shli d a n) s = execShli d a n s := rfl
theorem exec_shri d a n (s : State) : exec (.shri d a n) s = execShri d a n s := rfl
theorem exec_sari d a n (s : State) : exec (.sari d a n) s = execSari d a n s := rfl
theorem exec_ldi d imm (s : State) : exec (.ldi d imm) s = execLdi d imm s := rfl
theorem exec_ldih d imm (s : State) : exec (.ldih d imm) s = execLdih d imm s := rfl
theorem exec_bfx d a pos wm1 (s : State) : exec (.bfx d a pos wm1) s = execBfx d a pos wm1 s := rfl
theorem exec_bfi d a pos wm1 (s : State) : exec (.bfi d a pos wm1) s = execBfi d a pos wm1 s := rfl
theorem exec_mkptr d a b space (s : State) : exec (.mkptr d a b space) s = execMkptr d a b space s := rfl
theorem exec_ptrx d a field (s : State) : exec (.ptrx d a field) s = execPtrx d a field s := rfl
theorem exec_kset d a w (s : State) : exec (.kset d a w) s = execKset d a w s := rfl
theorem exec_kcnt d a w (s : State) : exec (.kcnt d a w) s = execKcnt d a w s := rfl
theorem exec_kmin d a b (s : State) : exec (.kmin d a b) s = execKmin d a b s := rfl
theorem exec_kget d a (s : State) : exec (.kget d a) s = execKget d a s := rfl
theorem exec_ld sz d a off (s : State) : exec (.ld sz d a off) s = execLd sz d a off s := rfl
theorem exec_ldz sz d a off (s : State) : exec (.ldz sz d a off) s = execLdz sz d a off s := rfl
theorem exec_st sz d a off (s : State) : exec (.st sz d a off) s = execSt sz d a off s := rfl
theorem exec_ldaq sz scope d a (s : State) : exec (.ldaq sz scope d a) s = execLdaq sz scope d a s := rfl
theorem exec_strl sz scope a b (s : State) : exec (.strl sz scope a b) s = execStrl sz scope a b s := rfl
theorem exec_aadd scope ord d a b (s : State) : exec (.aadd scope ord d a b) s = execAadd scope ord d a b s := rfl
theorem exec_aand scope ord d a b (s : State) : exec (.aand scope ord d a b) s = execAand scope ord d a b s := rfl
theorem exec_aor scope ord d a b (s : State) : exec (.aor scope ord d a b) s = execAor scope ord d a b s := rfl
theorem exec_axor scope ord d a b (s : State) : exec (.axor scope ord d a b) s = execAxor scope ord d a b s := rfl
theorem exec_amin scope ord d a b (s : State) : exec (.amin scope ord d a b) s = execAmin scope ord d a b s := rfl
theorem exec_amax scope ord d a b (s : State) : exec (.amax scope ord d a b) s = execAmax scope ord d a b s := rfl
theorem exec_aminn scope ord d a b (s : State) : exec (.aminn scope ord d a b) s = execAminn scope ord d a b s := rfl
theorem exec_amaxn scope ord d a b (s : State) : exec (.amaxn scope ord d a b) s = execAmaxn scope ord d a b s := rfl
theorem exec_axchg scope ord d a b (s : State) : exec (.axchg scope ord d a b) s = execAxchg scope ord d a b s := rfl
theorem exec_acas scope ord d a b (s : State) : exec (.acas scope ord d a b) s = execAcas scope ord d a b s := rfl
theorem exec_beq a b t (s : State) : exec (.beq a b t) s = execBeq a b t s := rfl
theorem exec_bne a b t (s : State) : exec (.bne a b t) s = execBne a b t s := rfl
theorem exec_blt a b t (s : State) : exec (.blt a b t) s = execBlt a b t s := rfl
theorem exec_bge a b t (s : State) : exec (.bge a b t) s = execBge a b t s := rfl
theorem exec_bltn a b t (s : State) : exec (.bltn a b t) s = execBltn a b t s := rfl
theorem exec_bgen a b t (s : State) : exec (.bgen a b t) s = execBgen a b t s := rfl
theorem exec_bz a t (s : State) : exec (.bz a t) s = execBz a t s := rfl
theorem exec_bnz a t (s : State) : exec (.bnz a t) s = execBnz a t s := rfl
theorem exec_jl d t (s : State) : exec (.jl d t) s = execJl d t s := rfl
theorem exec_jr d a (s : State) : exec (.jr d a) s = execJr d a s := rfl
theorem exec_loop c t (s : State) : exec (.loop c t) s = execLoop c t s := rfl
theorem exec_qbind d a p push unbind (s : State) : exec (.qbind d a p push unbind) s = execQbind d a p push unbind s := rfl
theorem exec_qlen d p (s : State) : exec (.qlen d p) s = execQlen d p s := rfl
theorem exec_qpeek d p (s : State) : exec (.qpeek d p) s = execQpeek d p s := rfl
theorem exec_qtry d a p (s : State) : exec (.qtry d a p) s = execQtry d a p s := rfl
theorem exec_qpusht d a p (s : State) : exec (.qpusht d a p) s = execQpusht d a p s := rfl
theorem exec_qcreate d a (s : State) : exec (.qcreate d a) s = execQcreate d a s := rfl
theorem exec_qdel d a (s : State) : exec (.qdel d a) s = execQdel d a s := rfl
theorem exec_gld g a (s : State) : exec (.gld g a) s = execGld g a s := rfl
theorem exec_gst g a (s : State) : exec (.gst g a) s = execGst g a s := rfl
theorem exec_gadv g a ax (s : State) : exec (.gadv g a ax) s = execGadv g a ax s := rfl
theorem exec_gset g a f (s : State) : exec (.gset g a f) s = execGset g a f s := rfl
theorem exec_binit d a b (s : State) : exec (.binit d a b) s = execBinit d a b s := rfl
theorem exec_barr d a (s : State) : exec (.barr d a) s = execBarr d a s := rfl
theorem exec_bwait d a b (s : State) : exec (.bwait d a b) s = execBwait d a b s := rfl
theorem exec_bsync d a (s : State) : exec (.bsync d a) s = execBsync d a s := rfl
theorem exec_btest d a b (s : State) : exec (.btest d a b) s = execBtest d a b s := rfl
theorem exec_spawn d a (s : State) : exec (.spawn d a) s = execSpawn d a s := rfl
theorem exec_park a (s : State) : exec (.park a) s = execPark a s := rfl
theorem exec_cancel a (s : State) : exec (.cancel a) s = execCancel a s := rfl
theorem exec_waitl d a b (s : State) : exec (.waitl d a b) s = execWaitl d a b s := rfl
theorem exec_prog a (s : State) : exec (.prog a) s = execProg a s := rfl
theorem exec_meet (s : State) : exec (.meet) s = execMeet s := rfl
theorem exec_pflush a b (s : State) : exec (.pflush a b) s = execPflush a b s := rfl
theorem exec_pinv a b (s : State) : exec (.pinv a b) s = execPinv a b s := rfl
theorem exec_nqpost d a b (s : State) : exec (.nqpost d a b) s = execNqpost d a b s := rfl
theorem exec_nqpop d a b (s : State) : exec (.nqpop d a b) s = execNqpop d a b s := rfl
theorem exec_nqwait d a b (s : State) : exec (.nqwait d a b) s = execNqwait d a b s := rfl
theorem exec_tlbi a b (s : State) : exec (.tlbi a b) s = execTlbi a b s := rfl
theorem exec_pgmig d a b (s : State) : exec (.pgmig d a b) s = execPgmig d a b s := rfl
theorem exec_vadd o (s : State) : exec (.vadd o) s = execVadd o s := rfl
theorem exec_vsub o (s : State) : exec (.vsub o) s = execVsub o s := rfl
theorem exec_vmul o (s : State) : exec (.vmul o) s = execVmul o s := rfl
theorem exec_vfma o (s : State) : exec (.vfma o) s = execVfma o s := rfl
theorem exec_vfms o (s : State) : exec (.vfms o) s = execVfms o s := rfl
theorem exec_vmax o (s : State) : exec (.vmax o) s = execVmax o s := rfl
theorem exec_vmin o (s : State) : exec (.vmin o) s = execVmin o s := rfl
theorem exec_vabs o (s : State) : exec (.vabs o) s = execVabs o s := rfl
theorem exec_vneg o (s : State) : exec (.vneg o) s = execVneg o s := rfl
theorem exec_vscl o (s : State) : exec (.vscl o) s = execVscl o s := rfl
theorem exec_vand o (s : State) : exec (.vand o) s = execVand o s := rfl
theorem exec_vor o (s : State) : exec (.vor o) s = execVor o s := rfl
theorem exec_vxor o (s : State) : exec (.vxor o) s = execVxor o s := rfl
theorem exec_vshl o (s : State) : exec (.vshl o) s = execVshl o s := rfl
theorem exec_vshr o (s : State) : exec (.vshr o) s = execVshr o s := rfl
theorem exec_vsar o (s : State) : exec (.vsar o) s = execVsar o s := rfl
theorem exec_vcmpeq o (s : State) : exec (.vcmpeq o) s = execVcmpeq o s := rfl
theorem exec_vcmplt o (s : State) : exec (.vcmplt o) s = execVcmplt o s := rfl
theorem exec_vcmple o (s : State) : exec (.vcmple o) s = execVcmple o s := rfl
theorem exec_vsel o (s : State) : exec (.vsel o) s = execVsel o s := rfl
theorem exec_vcvt o (s : State) : exec (.vcvt o) s = execVcvt o s := rfl
theorem exec_vmov o (s : State) : exec (.vmov o) s = execVmov o s := rfl
theorem exec_vsplat o (s : State) : exec (.vsplat o) s = execVsplat o s := rfl
theorem exec_viota o (s : State) : exec (.viota o) s = execViota o s := rfl
theorem exec_vexp2 o (s : State) : exec (.vexp2 o) s = execVexp2 o s := rfl
theorem exec_vlog2 o (s : State) : exec (.vlog2 o) s = execVlog2 o s := rfl
theorem exec_vrcp o (s : State) : exec (.vrcp o) s = execVrcp o s := rfl
theorem exec_vrsq o (s : State) : exec (.vrsq o) s = execVrsq o s := rfl
theorem exec_vsqrt o (s : State) : exec (.vsqrt o) s = execVsqrt o s := rfl
theorem exec_vtanh o (s : State) : exec (.vtanh o) s = execVtanh o s := rfl
theorem exec_vsigm o (s : State) : exec (.vsigm o) s = execVsigm o s := rfl
theorem exec_vredsum o (s : State) : exec (.vredsum o) s = execVredsum o s := rfl
theorem exec_vredmax o (s : State) : exec (.vredmax o) s = execVredmax o s := rfl
theorem exec_vredmin o (s : State) : exec (.vredmin o) s = execVredmin o s := rfl
theorem exec_vscan o (s : State) : exec (.vscan o) s = execVscan o s := rfl
theorem exec_vperm o (s : State) : exec (.vperm o) s = execVperm o s := rfl
theorem exec_vbcast o (s : State) : exec (.vbcast o) s = execVbcast o s := rfl
theorem exec_vclamp o (s : State) : exec (.vclamp o) s = execVclamp o s := rfl
theorem exec_vld o (s : State) : exec (.vld o) s = execVld o s := rfl
theorem exec_vst o (s : State) : exec (.vst o) s = execVst o s := rfl
theorem exec_vlds o (s : State) : exec (.vlds o) s = execVlds o s := rfl
theorem exec_vsts o (s : State) : exec (.vsts o) s = execVsts o s := rfl
theorem exec_vgath o (s : State) : exec (.vgath o) s = execVgath o s := rfl
theorem exec_vscat o (s : State) : exec (.vscat o) s = execVscat o s := rfl
theorem exec_vpack o (s : State) : exec (.vpack o) s = execVpack o s := rfl
theorem exec_vunpk o (s : State) : exec (.vunpk o) s = execVunpk o s := rfl
theorem exec_mma o (s : State) : exec (.mma o) s = execMma o s := rfl
theorem exec_mmas o (s : State) : exec (.mmas o) s = execMmas o s := rfl
theorem exec_mmac o (s : State) : exec (.mmac o) s = execMmac o s := rfl
theorem exec_bld o (s : State) : exec (.bld o) s = execBld o s := rfl
theorem exec_zacc o (s : State) : exec (.zacc o) s = execZacc o s := rfl
theorem exec_acvt o (s : State) : exec (.acvt o) s = execAcvt o s := rfl
theorem exec_tload o (s : State) : exec (.tload o) s = execTload o s := rfl
theorem exec_tmul o (s : State) : exec (.tmul o) s = execTmul o s := rfl
theorem exec_tew o (s : State) : exec (.tew o) s = execTew o s := rfl
theorem exec_tred o (s : State) : exec (.tred o) s = execTred o s := rfl
theorem exec_tcvt o (s : State) : exec (.tcvt o) s = execTcvt o s := rfl
theorem exec_tview o (s : State) : exec (.tview o) s = execTview o s := rfl
theorem exec_tgath o (s : State) : exec (.tgath o) s = execTgath o s := rfl
theorem exec_tsel o (s : State) : exec (.tsel o) s = execTsel o s := rfl
theorem exec_force o (s : State) : exec (.force o) s = execForce o s := rfl
theorem exec_tst o (s : State) : exec (.tst o) s = execTst o s := rfl
theorem exec_tdrop o (s : State) : exec (.tdrop o) s = execTdrop o s := rfl
theorem exec_tstat o (s : State) : exec (.tstat o) s = execTstat o s := rfl
theorem exec_tpol o (s : State) : exec (.tpol o) s = execTpol o s := rfl
theorem exec_cpy o (s : State) : exec (.cpy o) s = execCpy o s := rfl
theorem exec_cpyt o (s : State) : exec (.cpyt o) s = execCpyt o s := rfl
theorem exec_cpym o (s : State) : exec (.cpym o) s = execCpym o s := rfl
theorem exec_enq o (s : State) : exec (.enq o) s = execEnq o s := rfl
theorem exec_waitid o (s : State) : exec (.waitid o) s = execWaitid o s := rfl
theorem exec_tidr o (s : State) : exec (.tidr o) s = execTidr o s := rfl
theorem exec_publish o (s : State) : exec (.publish o) s = execPublish o s := rfl
theorem exec_lfload o (s : State) : exec (.lfload o) s = execLfload o s := rfl
theorem exec_lbind o (s : State) : exec (.lbind o) s = execLbind o s := rfl
theorem exec_lstart o (s : State) : exec (.lstart o) s = execLstart o s := rfl
theorem exec_lbar o (s : State) : exec (.lbar o) s = execLbar o s := rfl
theorem exec_lstat o (s : State) : exec (.lstat o) s = execLstat o s := rfl
theorem exec_lstop o (s : State) : exec (.lstop o) s = execLstop o s := rfl
theorem exec_cred o (s : State) : exec (.cred o) s = execCred o s := rfl
theorem exec_csend o (s : State) : exec (.csend o) s = execCsend o s := rfl
theorem exec_crecv o (s : State) : exec (.crecv o) s = execCrecv o s := rfl
theorem exec_mcst o (s : State) : exec (.mcst o) s = execMcst o s := rfl
theorem exec_fork x y (s : State) : exec (.fork x y) s = execFork x y s := rfl
theorem exec_yield x y (s : State) : exec (.yield x y) s = execYield x y s := rfl
theorem exec_launch d a (s : State) : exec (.launch d a) s = execLaunch d a s := rfl
theorem exec_matrixResultStage core (s : State) : exec (.matrixResultStage core) s = execMatrixResultStage core s := rfl
theorem exec_timedCommandDue core ch (s : State) : exec (.timedCommandDue core ch) s = execTimedCommandDue core ch s := rfl
theorem exec_copyStart core ch (s : State) : exec (.copyStart core ch) s = execCopyStart core ch s := rfl
theorem exec_chunkRetire core ch (s : State) : exec (.chunkRetire core ch) s = execChunkRetire core ch s := rfl
theorem exec_copyRetire core ch (s : State) : exec (.copyRetire core ch) s = execCopyRetire core ch s := rfl
theorem exec_copyDrainTimeout core ch (s : State) : exec (.copyDrainTimeout core ch) s = execCopyDrainTimeout core ch s := rfl
theorem exec_burstStart lat slot port (s : State) : exec (.burstStart lat slot port) s = execBurstStart lat slot port s := rfl
theorem exec_burstEnd pc (s : State) : exec (.burstEnd pc) s = execBurstEnd pc s := rfl
theorem exec_rowCompute lat slot (s : State) : exec (.rowCompute lat slot) s = execRowCompute lat slot s := rfl
theorem exec_rowComplete lat slot (s : State) : exec (.rowComplete lat slot) s = execRowComplete lat slot s := rfl
theorem exec_streamResumeFromHold lat slot (s : State) : exec (.streamResumeFromHold lat slot) s = execStreamResumeFromHold lat slot s := rfl
theorem exec_streamPark lat slot (s : State) : exec (.streamPark lat slot) s = execStreamPark lat slot s := rfl
theorem exec_streamUnpark lat slot (s : State) : exec (.streamUnpark lat slot) s = execStreamUnpark lat slot s := rfl
theorem exec_streamRelease lat slot (s : State) : exec (.streamRelease lat slot) s = execStreamRelease lat slot s := rfl
theorem exec_saveSequenceEnd core slot (s : State) : exec (.saveSequenceEnd core slot) s = execSaveSequenceEnd core slot s := rfl
theorem exec_restoreSequenceEnd core slot (s : State) : exec (.restoreSequenceEnd core slot) s = execRestoreSequenceEnd core slot s := rfl
theorem exec_groupStart core slot (s : State) : exec (.groupStart core slot) s = execGroupStart core slot s := rfl
theorem exec_groupRestore core slot (s : State) : exec (.groupRestore core slot) s = execGroupRestore core slot s := rfl
theorem exec_groupKill core slot (s : State) : exec (.groupKill core slot) s = execGroupKill core slot s := rfl
theorem exec_checkpointTimeout core slot (s : State) : exec (.checkpointTimeout core slot) s = execCheckpointTimeout core slot s := rfl
theorem exec_graphLaunchNode ctx graph (s : State) : exec (.graphLaunchNode ctx graph) s = execGraphLaunchNode ctx graph s := rfl
theorem exec_graphConditionNode ctx graph (s : State) : exec (.graphConditionNode ctx graph) s = execGraphConditionNode ctx graph s := rfl
theorem exec_graphLoopNode ctx graph (s : State) : exec (.graphLoopNode ctx graph) s = execGraphLoopNode ctx graph s := rfl
theorem exec_graphSwitchNode ctx graph (s : State) : exec (.graphSwitchNode ctx graph) s = execGraphSwitchNode ctx graph s := rfl
theorem exec_graphEndNode ctx graph (s : State) : exec (.graphEndNode ctx graph) s = execGraphEndNode ctx graph s := rfl
theorem exec_hostLaunch ctx desc (s : State) : exec (.hostLaunch ctx desc) s = execHostLaunch ctx desc s := rfl
theorem exec_suspendComplete ctx (s : State) : exec (.suspendComplete ctx) s = execSuspendComplete ctx s := rfl
theorem exec_drainComplete ctx (s : State) : exec (.drainComplete ctx) s = execDrainComplete ctx s := rfl
theorem exec_scrubComplete ctx (s : State) : exec (.scrubComplete ctx) s = execScrubComplete ctx s := rfl
theorem exec_rotationBoundary pc (s : State) : exec (.rotationBoundary pc) s = execRotationBoundary pc s := rfl
theorem exec_calendarSlot pc slot (s : State) : exec (.calendarSlot pc slot) s = execCalendarSlot pc slot s := rfl
theorem exec_atomLanding i (s : State) : exec (.atomLanding i) s = execAtomLanding i s := rfl
theorem exec_writeAck i (s : State) : exec (.writeAck i) s = execWriteAck i s := rfl
theorem exec_pageWalk i (s : State) : exec (.pageWalk i) s = execPageWalk i s := rfl
theorem exec_fpqPageZeroed ctx (s : State) : exec (.fpqPageZeroed ctx) s = execFpqPageZeroed ctx s := rfl
theorem exec_latownChangeApply lat slot (s : State) : exec (.latownChangeApply lat slot) s = execLatownChangeApply lat slot s := rfl
theorem exec_faultQueueRetry ctx (s : State) : exec (.faultQueueRetry ctx) s = execFaultQueueRetry ctx s := rfl
theorem exec_queueStall q (s : State) : exec (.queueStall q) s = execQueueStall q s := rfl
theorem exec_dcZeroingComplete id (s : State) : exec (.dcZeroingComplete id) s = execDcZeroingComplete id s := rfl
theorem exec_linkReplayRetrain link (s : State) : exec (.linkReplayRetrain link) s = execLinkReplayRetrain link s := rfl
theorem exec_dispatchDecision (s : State) : exec (.dispatchDecision) s = execDispatchDecision s := rfl
theorem exec_hostBar2Access ctx off len store (s : State) : exec (.hostBar2Access ctx off len store) s = execHostBar2Access ctx off len store s := rfl
theorem exec_create ag (s : State) : exec (.create ag) s = execCreate ag s := rfl
theorem exec_load ag (s : State) : exec (.load ag) s = execLoad ag s := rfl
theorem exec_run ag (s : State) : exec (.run ag) s = execRun ag s := rfl
theorem exec_suspend ag (s : State) : exec (.suspend ag) s = execSuspend ag s := rfl
theorem exec_resume ag (s : State) : exec (.resume ag) s = execResume ag s := rfl
theorem exec_drain ag (s : State) : exec (.drain ag) s = execDrain ag s := rfl
theorem exec_rekey ag (s : State) : exec (.rekey ag) s = execRekey ag s := rfl
theorem exec_calApply (s : State) : exec (.calApply) s = execCalApply s := rfl
theorem exec_calendarReset (s : State) : exec (.calendarReset) s = execCalendarReset s := rfl
theorem exec_fpqcmd ag v (s : State) : exec (.fpqcmd ag v) s = execFpqcmd ag v s := rfl
theorem exec_hbmsplitWrite v (s : State) : exec (.hbmsplitWrite v) s = execHbmsplitWrite v s := rfl
theorem exec_encnumWrite v (s : State) : exec (.encnumWrite v) s = execEncnumWrite v s := rfl
theorem exec_latownWrite v (s : State) : exec (.latownWrite v) s = execLatownWrite v s := rfl
theorem exec_lwinWrite ag v (s : State) : exec (.lwinWrite ag v) s = execLwinWrite ag v s := rfl
theorem exec_roleResume ag (s : State) : exec (.roleResume ag) s = execRoleResume ag s := rfl
theorem exec_skip ag (s : State) : exec (.skip ag) s = execSkip ag s := rfl
theorem exec_resumeat ag (s : State) : exec (.resumeat ag) s = execResumeat ag s := rfl
theorem exec_abort ag (s : State) : exec (.abort ag) s = execAbort ag s := rfl
theorem exec_registerWrite ag off v (s : State) : exec (.registerWrite ag off v) s = execRegisterWrite ag off v s := rfl
theorem exec_deviceLevelFault cls unit (s : State) : exec (.deviceLevelFault cls unit) s = execDeviceLevelFault cls unit s := rfl
theorem exec_powerWindow reading (s : State) : exec (.powerWindow reading) s = execPowerWindow reading s := rfl
theorem exec_fullThrottleTimeout (s : State) : exec (.fullThrottleTimeout) s = execFullThrottleTimeout s := rfl
theorem exec_tamper (s : State) : exec (.tamper) s = execTamper s := rfl
theorem exec_bringUp fail (s : State) : exec (.bringUp fail) s = execBringUp fail s := rfl
theorem exec_diag (s : State) : exec (.diag) s = execDiag s := rfl
theorem exec_reset (s : State) : exec (.reset) s = execReset s := rfl
theorem exec_keyload (s : State) : exec (.keyload) s = execKeyload s := rfl
theorem exec_keyzero (s : State) : exec (.keyzero) s = execKeyzero s := rfl
theorem exec_fwstage (s : State) : exec (.fwstage) s = execFwstage s := rfl
theorem exec_fwapply (s : State) : exec (.fwapply) s = execFwapply s := rfl
theorem exec_dbgunlock (s : State) : exec (.dbgunlock) s = execDbgunlock s := rfl
theorem exec_dbglock (s : State) : exec (.dbglock) s = execDbglock s := rfl
theorem exec_dbglog (s : State) : exec (.dbglog) s = execDbglog s := rfl
theorem exec_coresvcOut (s : State) : exec (.coresvcOut) s = execCoresvcOut s := rfl
theorem exec_coresvcIn (s : State) : exec (.coresvcIn) s = execCoresvcIn s := rfl
theorem exec_pccal (s : State) : exec (.pccal) s = execPccal s := rfl
theorem exec_regdecl (s : State) : exec (.regdecl) s = execRegdecl s := rfl
theorem exec_regdrop (s : State) : exec (.regdrop) s = execRegdrop s := rfl
theorem exec_regstate (s : State) : exec (.regstate) s = execRegstate s := rfl
theorem exec_dcaccept (s : State) : exec (.dcaccept) s = execDcaccept s := rfl
theorem exec_dcrelease (s : State) : exec (.dcrelease) s = execDcrelease s := rfl
theorem exec_headdown (s : State) : exec (.headdown) s = execHeaddown s := rfl
theorem exec_headup (s : State) : exec (.headup) s = execHeadup s := rfl
theorem exec_proxy (s : State) : exec (.proxy) s = execProxy s := rfl
theorem exec_linkrt (s : State) : exec (.linkrt) s = execLinkrt s := rfl
theorem exec_mbCommandComplete (s : State) : exec (.mbCommandComplete) s = execMbCommandComplete s := rfl
theorem exec_headRetrainFailure port (s : State) : exec (.headRetrainFailure port) s = execHeadRetrainFailure port s := rfl
theorem exec_poolResponse line data poisoned code (s : State) : exec (.poolResponse line data poisoned code) s = execPoolResponse line data poisoned code s := rfl
theorem exec_backInvalidationSnoop line forWrite (s : State) : exec (.backInvalidationSnoop line forWrite) s = execBackInvalidationSnoop line forWrite s := rfl
theorem exec_dcOffer id base size (s : State) : exec (.dcOffer id base size) s = execDcOffer id base size s := rfl
theorem exec_dcRevokeRequest id (s : State) : exec (.dcRevokeRequest id) s = execDcRevokeRequest id s := rfl
theorem exec_flitMessageData link m (s : State) : exec (.flitMessageData link m) s = execFlitMessageData link m s := rfl
theorem exec_flitCredit link vc n (s : State) : exec (.flitCredit link vc n) s = execFlitCredit link vc n s := rfl
theorem exec_flitProxyRequest link src line store (s : State) : exec (.flitProxyRequest link src line store) s = execFlitProxyRequest link src line store s := rfl
theorem exec_flitProxyResponse link line data (s : State) : exec (.flitProxyResponse link line data) s = execFlitProxyResponse link line data s := rfl
theorem exec_flitSnoop link line forWrite (s : State) : exec (.flitSnoop link line forWrite) s = execFlitSnoop link line forWrite s := rfl
theorem exec_flitTime link peerTime (s : State) : exec (.flitTime link peerTime) s = execFlitTime link peerTime s := rfl
theorem exec_timeFlitExchange (s : State) : exec (.timeFlitExchange) s = execTimeFlitExchange s := rfl
theorem exec_illegalInstruction (s : State) : exec (.illegalInstruction) s = execIllegalInstruction s := rfl
theorem exec_illegalLine (s : State) : exec (.illegalLine) s = execIllegalLine s := rfl
theorem exec_illegalFlow (s : State) : exec (.illegalFlow) s = execIllegalFlow s := rfl
theorem exec_powerDown (s : State) : exec (.powerDown) s = execPowerDown s := rfl
theorem exec_flitCrcFailure link (s : State) : exec (.flitCrcFailure link) s = execFlitCrcFailure link s := rfl
theorem exec_flitReservedType link ty (s : State) : exec (.flitReservedType link ty) s = execFlitReservedType link ty s := rfl

end Sys2Proof.Machine
end

