-- ==== Sys2Proof/Laws/Memory.lean ====
section
/-! SUPPORT. Memory: read after write, a write leaves every other byte alone, and every operation keeps the canonical form. -/

namespace Sys2Proof.Machine

open Sys2Proof

/-! ### Rising lists -/

theorem risingFrom_mono {lo hi : Nat} (h : lo ≤ hi) {m : List Host.Cell} (w : risingFrom hi m = true) :
    risingFrom lo m = true := by
  cases m with
  | nil => rfl
  | cons c m => simp_all [risingFrom]; omega

theorem risingFrom_bound {lo : Nat} {m : List Host.Cell} (w : risingFrom lo m = true) {c : Host.Cell} (h : c ∈ m) :
    lo ≤ c.1 := by
  induction m generalizing lo with
  | nil => cases h
  | cons d m ih =>
    simp only [risingFrom, Bool.and_eq_true, decide_eq_true_eq] at w
    rcases List.mem_cons.mp h with rfl | h
    · exact w.1
    · have := ih w.2 h; omega

theorem risingFrom_filter {lo : Nat} {m : List Host.Cell} (p : Host.Cell → Bool) (w : risingFrom lo m = true) :
    risingFrom lo (m.filter p) = true := by
  induction m generalizing lo with
  | nil => rfl
  | cons d m ih =>
    simp only [risingFrom, Bool.and_eq_true, decide_eq_true_eq] at w
    rw [List.filter_cons]
    split
    · simp [risingFrom, w.1, ih w.2]
    · exact risingFrom_mono (by omega) (ih w.2)

theorem risingFrom_del {lo : Nat} {m : List Host.Cell} (k : Nat) (w : risingFrom lo m = true) :
    risingFrom lo (SMap.del m k) = true := by
  induction m generalizing lo with
  | nil => rfl
  | cons d m ih =>
    obtain ⟨a, v⟩ := d
    simp only [risingFrom, Bool.and_eq_true, decide_eq_true_eq] at w
    simp only [SMap.del]
    split
    · exact risingFrom_mono (by omega) w.2
    · simp [risingFrom, w.1, ih w.2]

theorem risingFrom_set {lo : Nat} {m : List Host.Cell} {k : Nat} (v : Byte) (hk : lo ≤ k) (w : risingFrom lo m = true) :
    risingFrom lo (SMap.set m k v) = true := by
  induction m generalizing lo with
  | nil => simp [SMap.set, risingFrom, hk]
  | cons d m ih =>
    obtain ⟨a, x⟩ := d
    simp only [risingFrom, Bool.and_eq_true, decide_eq_true_eq] at w
    simp only [SMap.set]
    split
    · rename_i h
      simp only [risingFrom, Bool.and_eq_true, decide_eq_true_eq]
      exact ⟨hk, by omega, w.2⟩
    · split
      · rename_i h; subst h; simp [risingFrom, hk, w.2]
      · rename_i h1 h2
        simp only [risingFrom, Bool.and_eq_true, decide_eq_true_eq]
        exact ⟨w.1, ih (by omega) w.2⟩

/-! ### Reading a sparse map -/

theorem SMap.get_set_same {α : Type} (m : SMap α) (k : Nat) (v : α) : (SMap.set m k v).get k = some v := by
  induction m with
  | nil => simp [SMap.set, SMap.get]
  | cons d m ih =>
    obtain ⟨a, x⟩ := d
    simp only [SMap.set]
    split
    · simp [SMap.get]
    · split
      · simp [SMap.get]
      · rename_i h1 h2; simp [SMap.get, Ne.symm h2, ih]

theorem SMap.get_set_other {α : Type} (m : SMap α) {k j : Nat} (v : α) (h : j ≠ k) :
    (SMap.set m k v).get j = m.get j := by
  induction m with
  | nil => simp [SMap.set, SMap.get, Ne.symm h]
  | cons d m ih =>
    obtain ⟨a, x⟩ := d
    simp only [SMap.set]
    split
    · simp [SMap.get, Ne.symm h]
    · split
      · rename_i h2; subst h2; simp [SMap.get, Ne.symm h]
      · simp [SMap.get, ih]

theorem SMap.get_del_other {α : Type} (m : SMap α) {k j : Nat} (h : j ≠ k) : (SMap.del m k).get j = m.get j := by
  induction m with
  | nil => rfl
  | cons d m ih =>
    obtain ⟨a, x⟩ := d
    simp only [SMap.del]
    split
    · rename_i h2; subst h2; simp [SMap.get, Ne.symm h]
    · simp [SMap.get, ih]

theorem get_none_of_rising {lo k : Nat} {m : List Host.Cell} (w : risingFrom lo m = true) (h : k < lo) :
    SMap.get m k = none := by
  induction m generalizing lo with
  | nil => rfl
  | cons d m ih =>
    obtain ⟨a, x⟩ := d
    simp only [risingFrom, Bool.and_eq_true, decide_eq_true_eq] at w
    simp [SMap.get, show a ≠ k by omega, ih w.2 (by omega)]

theorem get_del_same {lo : Nat} {m : List Host.Cell} (k : Nat) (w : risingFrom lo m = true) :
    SMap.get (SMap.del m k) k = none := by
  induction m generalizing lo with
  | nil => rfl
  | cons d m ih =>
    obtain ⟨a, x⟩ := d
    simp only [risingFrom, Bool.and_eq_true, decide_eq_true_eq] at w
    simp only [SMap.del]
    split
    · rename_i h; subst h; exact get_none_of_rising w.2 (by omega)
    · rename_i h; simp [SMap.get, h, ih w.2]

theorem mem_set {α : Type} {m : SMap α} {k : Nat} {v : α} {c : Nat × α} (h : c ∈ SMap.set m k v) : c = (k, v) ∨ c ∈ m := by
  induction m with
  | nil => simp_all [SMap.set]
  | cons d m ih =>
    obtain ⟨a, x⟩ := d
    simp only [SMap.set] at h
    split at h
    · simp_all
    · split at h
      · rename_i h2
        rcases List.mem_cons.mp h with h | h
        · exact .inl h
        · exact .inr (List.mem_cons_of_mem _ h)
      · rcases List.mem_cons.mp h with h | h
        · exact .inr (h ▸ List.mem_cons_self ..)
        · rcases ih h with h | h
          · exact .inl h
          · exact .inr (List.mem_cons_of_mem _ h)

theorem mem_of_del {α : Type} {m : SMap α} {k : Nat} {c : Nat × α} (h : c ∈ SMap.del m k) : c ∈ m := by
  induction m with
  | nil => cases h
  | cons d m ih =>
    obtain ⟨a, x⟩ := d
    simp only [SMap.del] at h
    split at h
    · exact List.mem_cons_of_mem _ h
    · rcases List.mem_cons.mp h with h | h
      · exact h ▸ List.mem_cons_self ..
      · exact List.mem_cons_of_mem _ (ih h)

/-! ### The canonical form -/

theorem Memory.wf_iff (os : List Opened) (m : List Host.Cell) :
    Memory.wf os m = true ↔ risingFrom 0 m = true ∧ ∀ c ∈ m, c.2 ≠ unlisted os c.1 := by
  simp [Memory.wf, List.all_eq_true]

/-- Writing a byte keeps the canonical form. -/
theorem memPut_wf (os : List Opened) {m : List Host.Cell} (k : Nat) (v : Byte) (w : Memory.wf os m = true) :
    Memory.wf os (memPut os m k v) = true := by
  rw [Memory.wf_iff] at w ⊢
  unfold memPut
  split
  · exact ⟨risingFrom_del k w.1, fun c h => w.2 c (mem_of_del h)⟩
  · rename_i hv
    refine ⟨risingFrom_set v (Nat.zero_le k) w.1, fun c h => ?_⟩
    rcases mem_set h with rfl | h
    · exact hv
    · exact w.2 c h

/-- Writing bytes keeps the canonical form. -/
theorem memWrite_wf (os : List Opened) {m : List Host.Cell} (k : Nat) (bs : List Byte) (w : Memory.wf os m = true) :
    Memory.wf os (memWrite os m k bs) = true := by
  induction bs generalizing m k with
  | nil => exact w
  | cons b bs ih => exact ih (k + 1) (memPut_wf os k b w)

/-- The byte written is the byte read. -/
theorem memGet_memPut_same (os : List Opened) {m : List Host.Cell} (k : Nat) (v : Byte) (w : Memory.wf os m = true) :
    memGet os (memPut os m k v) k = v := by
  rw [Memory.wf_iff] at w
  unfold memGet memPut
  split
  · rename_i h; rw [get_del_same k w.1]; simp [h]
  · rw [SMap.get_set_same]; rfl

/-- A write leaves every other byte alone. -/
theorem memGet_memPut_other (os : List Opened) (m : List Host.Cell) {k j : Nat} (v : Byte) (h : j ≠ k) :
    memGet os (memPut os m k v) j = memGet os m j := by
  unfold memGet memPut
  split
  · rw [SMap.get_del_other m h]
  · rw [SMap.get_set_other m v h]

/-- A write leaves every byte outside its range alone. -/
theorem memGet_memWrite_other (os : List Opened) (m : List Host.Cell) {k j : Nat} (bs : List Byte)
    (h : j < k ∨ k + bs.length ≤ j) : memGet os (memWrite os m k bs) j = memGet os m j := by
  induction bs generalizing m k with
  | nil => rfl
  | cons b bs ih =>
    simp only [List.length_cons] at h
    rw [memWrite, ih _ (by omega), memGet_memPut_other os m b (by omega)]

/-- The bytes written are the bytes read. -/
theorem memRead_memWrite_same (os : List Opened) {m : List Host.Cell} (k : Nat) (bs : List Byte)
    (w : Memory.wf os m = true) : memRead os (memWrite os m k bs) k bs.length = bs := by
  induction bs generalizing m k with
  | nil => rfl
  | cons b bs ih =>
    simp only [memWrite, List.length_cons, memRead]
    rw [ih (k + 1) (memPut_wf os k b w), memGet_memWrite_other _ _ _ (by omega), memGet_memPut_same os k b w]

/-! ### The operations of the state -/

/-- Storing bytes keeps the canonical form. -/
theorem State.putBytes_memOk {s : State} (k : Nat) (bs : List Byte) (w : s.MemOk) : (s.putBytes k bs).MemOk :=
  memWrite_wf s.opened k bs w

/-- Bytes outside the stored ones read as before. -/
theorem State.byteAt_putBytes_other (s : State) {k j : Nat} (bs : List Byte) (h : j < k ∨ k + bs.length ≤ j) :
    (s.putBytes k bs).byteAt j = s.byteAt j := memGet_memWrite_other s.opened s.mem bs h

/-- The stored bytes are read back. -/
theorem State.bytesAt_putBytes_same {s : State} (k : Nat) (bs : List Byte) (w : s.MemOk) :
    (s.putBytes k bs).bytesAt k bs.length = bs := memRead_memWrite_same s.opened k bs w

theorem unlisted_filter {os : List Opened} {k n j : Nat} (h : j < k ∨ k + n ≤ j) :
    unlisted (os.filter fun o => !o.inside k n) j = unlisted os j := by
  have key : (os.filter fun o => !o.inside k n).find? (·.covers j) = os.find? (·.covers j) := by
    induction os with
    | nil => rfl
    | cons o os ih =>
      rw [List.filter_cons]
      by_cases hi : o.inside k n = true
      · have hc : o.covers j = false := by
          simp only [Opened.inside, Bool.and_eq_true, decide_eq_true_eq] at hi
          simp only [Opened.covers, Bool.and_eq_false_iff, decide_eq_false_iff_not]
          omega
        simp [hi, hc, ih]
      · simp only [hi, Bool.not_false, if_true, List.find?_cons]
        cases o.covers j <;> simp [ih]
  unfold unlisted
  rw [key]

theorem unlisted_cons_other {os : List Opened} {k n j : Nat} {t : Option Nat} (h : j < k ∨ k + n ≤ j) :
    unlisted (⟨k, n, t⟩ :: os) j = unlisted os j := by
  have hc : Opened.covers ⟨k, n, t⟩ j = false := by
    simp only [Opened.covers, Bool.and_eq_false_iff, decide_eq_false_iff_not]; omega
  simp [unlisted, hc]

theorem mem_outside {m : List Host.Cell} {k n : Nat} {c : Host.Cell}
    (h : c ∈ m.filter fun c => !(decide (k ≤ c.1) && decide (c.1 < k + n))) : c ∈ m ∧ (c.1 < k ∨ k + n ≤ c.1) := by
  simp only [List.mem_filter, Bool.not_eq_true', Bool.and_eq_false_iff, decide_eq_false_iff_not] at h
  exact ⟨h.1, by omega⟩

/-- Leaving a range open keeps the canonical form. -/
theorem State.openRange_memOk {s : State} (k n : Nat) (w : s.MemOk) : (s.openRange k n).MemOk := by
  unfold State.MemOk at w ⊢
  rw [Memory.wf_iff] at w ⊢
  refine ⟨risingFrom_filter _ w.1, fun c h => ?_⟩
  have hc := mem_outside h
  simp only [State.openRange]
  rw [unlisted_cons_other hc.2, unlisted_filter hc.2]
  exact w.2 c hc.1

/-- Zeroing a range keeps the canonical form. -/
theorem State.clearRange_memOk {s : State} (k n : Nat) (w : s.MemOk) : (s.clearRange k n).MemOk := by
  unfold State.MemOk at w ⊢
  rw [Memory.wf_iff] at w ⊢
  refine ⟨risingFrom_filter _ w.1, fun c h => ?_⟩
  have hc := mem_outside h
  simp only [State.clearRange]
  split
  · rw [unlisted_cons_other hc.2, unlisted_filter hc.2]; exact w.2 c hc.1
  · rw [unlisted_filter hc.2]; exact w.2 c hc.1

/-- A mark of lost content leaves memory as it is. -/
theorem State.addPoison_memOk {s : State} (g : Nat) : (s.addPoison g).MemOk ↔ s.MemOk := by
  unfold State.addPoison
  split <;> exact Iff.rfl

/-- A device's content of a line keeps the canonical form. -/
theorem State.setDeviceLine_memOk {s : State} (l : CacheLine) (w : s.MemOk) : (s.setDeviceLine l).MemOk := by
  have h : (s.putBytes (l.line * 64) l.data).MemOk := State.putBytes_memOk _ _ w
  unfold State.setDeviceLine
  dsimp only
  split
  · rw [State.addPoison_memOk]
    split <;> exact h
  · split <;> exact h

end Sys2Proof.Machine
end

