-- ==== Sys2Proof/Laws/Ops.lean ====
section
/-! SUPPORT. What the shared operations can do, said once: the body of a step, the frame of an instruction, the fault entry,
the role whose turn it is. -/

namespace Sys2Proof.Machine

open Sys2Proof

/-! ### Bodies of steps -/

theorem runs_pure {α : Type} (a : α) (s : State) : Runs (pure a) s a s := rfl

theorem runs_get (s : State) : Runs get s s s := rfl

theorem runs_set (s t : State) : Runs (set t) s () t := rfl

theorem runs_modify (f : State → State) (s : State) : Runs (modify f) s () (f s) := rfl

/-- What two bodies in a row come to. -/
theorem bind_apply {α β : Type} (x : X α) (f : α → X β) (s : State) :
    (x >>= f) s = match x s with
      | .ok p => f p.1 p.2
      | .error e => .error e := by
  show (StateT.bind x f) s = _
  unfold StateT.bind
  cases x s <;> rfl

/-- Two bodies in a row. -/
theorem runs_bind {α β : Type} {x : X α} {f : α → X β} {s t u : State} {a : α} {b : β} (h : Runs x s a t)
    (h2 : Runs (f a) t b u) : Runs (x >>= f) s b u := by
  exact (bind_apply x f s).trans (by rw [show x s = _ from h]; exact h2)

/-- A body that runs to its end ran through its parts. -/
theorem runs_bind_inv {α β : Type} {x : X α} {f : α → X β} {s u : State} {b : β} (h : Runs (x >>= f) s b u) :
    ∃ a t, Runs x s a t ∧ Runs (f a) t b u := by
  unfold Runs at *
  rw [bind_apply] at h
  cases hx : x s with
  | error e => rw [hx] at h; cases h
  | ok p => rw [hx] at h; exact ⟨p.1, p.2, rfl, h⟩

/-- A fault of the first body is the fault of both. -/
theorem raises_bind {α β : Type} {x : X α} {f : α → X β} {s : State} {t : Trap} {k : Option State} (h : Raises x s t k) :
    Raises (x >>= f) s t k := by
  exact (bind_apply x f s).trans (by rw [show x s = _ from h])

/-- A fault of the second body. -/
theorem raises_bind_right {α β : Type} {x : X α} {f : α → X β} {s u : State} {a : α} {t : Trap} {k : Option State}
    (h : Runs x s a u) (h2 : Raises (f a) u t k) : Raises (x >>= f) s t k := by
  exact (bind_apply x f s).trans (by rw [show x s = _ from h]; exact h2)

/-- A body that waits makes the whole wait. -/
theorem waits_bind {α β : Type} {x : X α} {f : α → X β} {s : State} (h : Waits x s) : Waits (x >>= f) s := by
  exact (bind_apply x f s).trans (by rw [show x s = _ from h])

theorem waits_bind_right {α β : Type} {x : X α} {f : α → X β} {s u : State} {a : α} (h : Runs x s a u)
    (h2 : Waits (f a) u) : Waits (x >>= f) s := by
  exact (bind_apply x f s).trans (by rw [show x s = _ from h]; exact h2)

theorem runs_faultIf (code va : Nat) (s : State) : Runs (faultIf false code va) s () s := rfl

theorem raises_faultIf (code va : Nat) (s : State) :
    Raises (faultIf true code va) s { code := code, va := BitVec.ofNat 64 va } none := rfl

theorem raises_fault {α : Type} (code va : Nat) (s : State) :
    Raises (fault code va : X α) s { code := code, va := BitVec.ofNat 64 va } none := rfl

theorem runs_waitIf (s : State) : Runs (waitIf false) s () s := rfl

theorem waits_waitIf (s : State) : Waits (waitIf true) s := rfl

/-- A body that only reads the state. -/
theorem runs_det {α : Type} {x : X α} {s t u : State} {a b : α} (h : Runs x s a t) (h2 : Runs x s b u) :
    a = b ∧ t = u := by
  unfold Runs at h h2; rw [h] at h2; cases h2; exact ⟨rfl, rfl⟩

/-! ### The role whose turn it is -/

theorem runs_me {s : State} {g : Group} {k : Role} (h : Acts s g k) : Runs me s (s.cur, g, k) s := by
  obtain ⟨h1, h2⟩ := h
  refine runs_bind (runs_get s) ?_
  rw [h1, ← h2]; rfl

theorem runs_whoami {s : State} {g : Group} {k : Role} (h : Acts s g k) : Runs whoami s (s.self g) s :=
  runs_bind (runs_me h) rfl

theorem curPc_of_acts {s : State} {g : Group} {k : Role} (h : Acts s g k) : s.curPc = k.pc := by
  simp [State.curPc, State.role, h.1, h.2]

theorem role_of_acts {s : State} {g : Group} {k : Role} (h : Acts s g k) : s.role s.cur = some k := by
  simp [State.role, h.1, h.2]

/-! ### The frame of an instruction -/

/-- What an instruction can do: continue after its body, take a fault of its checks or of its body, wait with nothing changed
but the note of what it waits for, and what the part does to get the answer that it waits for, or stop the machine. -/
theorem instr_cases (size : Nat) (srcs dsts : List SReg) (pre : X Unit) (body : List Word → X Flow) (s : State) :
    (∃ vs s1 f s2, Runs (do pre; checkMisuse srcs dsts; checkRoom dsts; readSrcs srcs) s vs s1 ∧ Runs (body vs) s1 f s2
        ∧ instr size srcs dsts pre body s = .next (s2.continue_ size f))
      ∨ (∃ s1 t, instr size srcs dsts pre body s = .next (State.takeFault s1 s.cur t s.curPc false))
      ∨ instr size srcs dsts pre body s = .next (s.noteWait srcs dsts)
      ∨ (∃ f : State → State, instr size srcs dsts pre body s = .next ((f s).noteWait srcs dsts))
      ∨ ∃ e, instr size srcs dsts pre body s = .fault e := by
  unfold instr
  split
  · rename_i vs s1 h
    cases hb : body vs s1 with
    | ok p => exact .inl ⟨vs, s1, p.1, p.2, h, hb, rfl⟩
    | error e =>
      cases e with
      | trap t k => exact .inr (.inl ⟨k.getD s1, t, rfl⟩)
      | wait => exact .inr (.inr (.inl rfl))
      | ask f => exact .inr (.inr (.inr (.inl ⟨f, rfl⟩)))
      | halt e => exact .inr (.inr (.inr (.inr ⟨e, rfl⟩)))
  · rename_i e h
    cases e with
    | trap t k => exact .inr (.inl ⟨k.getD s, t, rfl⟩)
    | wait => exact .inr (.inr (.inl rfl))
    | ask f => exact .inr (.inr (.inr (.inl ⟨f, rfl⟩)))
    | halt e => exact .inr (.inr (.inr (.inr ⟨e, rfl⟩)))

/-- Completion: the checks pass, the operands are taken, the body runs. -/
theorem instr_next {size : Nat} {srcs dsts : List SReg} {pre : X Unit} {body : List Word → X Flow} {s s1 s2 : State}
    {vs : List Word} {f : Flow} (hp : Runs pre s () s) (ht : Taken srcs dsts s vs s1) (hb : Runs (body vs) s1 f s2) :
    instr size srcs dsts pre body s = .next (s2.continue_ size f) := by
  have h : Runs (do pre; checkMisuse srcs dsts; checkRoom dsts; readSrcs srcs) s vs s1 := runs_bind hp ht
  unfold instr
  rw [h]
  show finish s s1 size srcs dsts (body vs s1) = _
  rw [hb]; rfl

/-- Completion of an instruction that retires in sequence. -/
theorem instr_seq {size : Nat} {srcs dsts : List SReg} {pre : X Unit} {b : List Word → X Unit} {s s1 s2 : State}
    {vs : List Word} (hp : Runs pre s () s) (ht : Taken srcs dsts s vs s1) (hb : Runs (b vs) s1 () s2) :
    instr size srcs dsts pre (seqBody b) s = .next (s2.continue_ size .seq) :=
  instr_next hp ht (runs_bind hb rfl)

/-- A fault of the body: what the operands popped stays popped. -/
theorem instr_trap {size : Nat} {srcs dsts : List SReg} {pre : X Unit} {body : List Word → X Flow} {s s1 : State}
    {vs : List Word} {t : Trap} {k : Option State} (hp : Runs pre s () s) (ht : Taken srcs dsts s vs s1)
    (hb : Raises (body vs) s1 t k) :
    instr size srcs dsts pre body s = .next ((k.getD s1).takeFault s.cur t s.curPc false) := by
  have h : Runs (do pre; checkMisuse srcs dsts; checkRoom dsts; readSrcs srcs) s vs s1 := runs_bind hp ht
  unfold instr
  rw [h]
  show finish s s1 size srcs dsts (body vs s1) = _
  rw [hb]; rfl

/-- A fault of the checks before issue. -/
theorem instr_trap_pre {size : Nat} {srcs dsts : List SReg} {pre : X Unit} {body : List Word → X Flow} {s : State}
    {t : Trap} {k : Option State} (hp : Raises pre s t k) :
    instr size srcs dsts pre body s = .next ((k.getD s).takeFault s.cur t s.curPc false) := by
  have h : Raises (do pre; checkMisuse srcs dsts; checkRoom dsts; readSrcs srcs) s t k := raises_bind hp
  unfold instr
  rw [h]; rfl

/-- A wait of the body. -/
theorem instr_wait {size : Nat} {srcs dsts : List SReg} {pre : X Unit} {body : List Word → X Flow} {s s1 : State}
    {vs : List Word} (hp : Runs pre s () s) (ht : Taken srcs dsts s vs s1) (hb : Waits (body vs) s1) :
    instr size srcs dsts pre body s = .next (s.noteWait srcs dsts) := by
  have h : Runs (do pre; checkMisuse srcs dsts; checkRoom dsts; readSrcs srcs) s vs s1 := runs_bind hp ht
  unfold instr
  rw [h]
  show finish s s1 size srcs dsts (body vs s1) = _
  rw [hb]; rfl

/-! ### The way out over links -/

/-- Sending what waits changes links, what waits and what has gone out, and nothing else. -/
theorem State.pump_frame (i : Fin 8) (vc : Fin 4) (n : Nat) (s : State) :
    ∃ ls ws xs, State.pump i vc n s = { s with links := ls, txWait := ws, tx := xs } := by
  induction n generalizing s with
  | zero => exact ⟨_, _, _, rfl⟩
  | succ n ih =>
    unfold State.pump
    dsimp only
    split
    · exact ⟨_, _, _, rfl⟩
    · split
      · exact ⟨_, _, _, rfl⟩
      · split
        · exact ⟨_, _, _, rfl⟩
        · split
          · exact ⟨_, _, _, rfl⟩
          · obtain ⟨ls, ws, xs, h⟩ := ih _
            exact ⟨ls, ws, xs, h⟩

/-- Handing something to a link leaves everything but the links' own state. -/
theorem State.transmit_frame (s : State) (i : Fin 8) (o : Outgoing) :
    ∃ ls ws xs, s.transmit i o = { s with links := ls, txWait := ws, tx := xs } := by
  obtain ⟨ls, ws, xs, h⟩ := State.pump_frame i o.vc (s.txWait.length + 1) { s with txWait := s.txWait ++ [⟨i, o.vc, o.flits, o⟩] }
  exact ⟨ls, ws, xs, h⟩

end Sys2Proof.Machine
end

