-- ==== Sys2Proof/Tests/Slice0.lean ====
section
/-! SUPPORT. Tests: the words of every family, written out from the spec's encodings, decode to their instructions; ill-formed terms are
refused; for every statement with hypotheses a state and operands that meet them; results of single steps from the spec's worked examples. -/

namespace Sys2Proof.Tests

set_option Elab.async false

open Sys2Proof Sys2Proof.Machine

/-! ### Decoding -/

/-- Do these words decode to this instruction? -/
def reads (p : List Nat × Instr) : Bool :=
  match decodeWords p.1 with
  | .ok i => i == p.2
  | .error _ => false

/-- Words of the sys family, by the encoding tables R65 to R78. -/
theorem test_decode_sys : ([([0x00000000], .nop), ([0x00100000], .endGroup), ([0x00200000], .tfence), ([0x003ABCDE], .trap 0xABCDE), ([0x00454321], .brk 0x54321),
   ([0x00590000], .fence .enclosure .full), ([0x00684000], .cyc 33), ([0x00731021], .csrr 12 0x1021), ([0x00834012], .csrw 13 0x12),
   ([0x00939050], .csrs 14 0x1050), ([0x00AFC000], .csrc 63 0)] :
    List (List Nat × Instr)).all reads = true := by decide +kernel

/-- Words of the alu3 family, by the encoding tables R65 to R78. -/
theorem test_decode_alu3 : ([([0x041FA100], .add 1 62 33), ([0x042F6101], .sub 2 61 33), ([0x043F2102], .mul 3 60 33), ([0x044EE103], .mulh 4 59 33),
   ([0x045EA104], .mulhn 5 58 33), ([0x046E6105], .div 6 57 33), ([0x047E2106], .divn 7 56 33), ([0x048DE107], .rem 8 55 33),
   ([0x049DA108], .remn 9 54 33), ([0x04AD6109], .and 10 53 33), ([0x04BD210A], .or 11 52 33), ([0x04CCE10B], .xor 12 51 33),
   ([0x04DCA10C], .andn 13 50 33), ([0x04EC610D], .shl 14 49 33), ([0x04FC210E], .shr 15 48 33), ([0x050BE10F], .sar 16 47 33),
   ([0x051BA110], .rol 17 46 33), ([0x052B6111], .min 18 45 33), ([0x053B2112], .max 19 44 33), ([0x054AE113], .minn 20 43 33),
   ([0x055AA114], .maxn 21 42 33), ([0x056A6115], .seq 22 41 33), ([0x057A2116], .sne 23 40 33), ([0x0589E117], .slt 24 39 33),
   ([0x0599A118], .sltn 25 38 33), ([0x05A96119], .sle 26 37 33), ([0x05B9211A], .slen 27 36 33), ([0x05BEC01B], .clz 27 59),
   ([0x05CEC01C], .ctz 28 59), ([0x05DEC01D], .popc 29 59), ([0x0472091E], .sel 7 8 9), ([0x04A51F21], .addsh1 10 20 31),
   ([0x04A52022], .addsh2 10 20 32), ([0x04A52123], .addsh3 10 20 33)] :
    List (List Nat × Instr)).all reads = true := by decide +kernel

/-- Words of the imm family, by the encoding tables R65 to R78. -/
theorem test_decode_imm : ([([0x091BA000], .addi 17 46 (-8192)), ([0x0D1B9FFF], .andi 17 46 (8191)), ([0x111BBFFE], .ori 17 46 (-2)), ([0x151B8001], .xori 17 46 (1)),
   ([0x191BBFFF], .slti 17 46 (-1)), ([0x1D2B403F], .shli 18 45 63), ([0x1D2B503E], .shri 18 45 62), ([0x1D2B603D], .sari 18 45 61),
   ([0x21380000], .ldi 19 (-524288)), ([0x2547FFFF], .ldih 20 0x7FFFF), ([0x29558F03], .bfx 21 22 60 3), ([0x2955903F], .bfi 21 22 0 63),
   ([0x2D761902], .mkptr 23 24 25 .acc), ([0x2D760004], .mkptr 23 24 0 .queue), ([0x2D760083], .ptrx 23 24 3)] :
    List (List Nat × Instr)).all reads = true := by decide +kernel

/-- Words of the pred family, by the encoding tables R65 to R78. -/
theorem test_decode_pred : ([([0x30560100], .kset 5 24 .w16), ([0x31814201], .kcnt 24 5 .w32), ([0x30108302], .kmin 1 2 3), ([0x31E1C003], .kget 30 7)] :
    List (List Nat × Instr)).all reads = true := by decide +kernel

/-- Words of the memory family, by the encoding tables R65 to R78. -/
theorem test_decode_memory : ([([0x428A600C], .ld .d 40 41 (-512)), ([0x46AADFF4], .ldz .h 42 43 511), ([0x4ACB4010], .st .b 44 45 1), ([0x4EEBC042], .ldaq .w .die 46 47),
   ([0x500C3163], .strl .d .device 48 49), ([0x572CF420], .aadd .cluster .relaxed 50 51 52), ([0x572CF429], .aand .cluster .acquire 50 51 52),
   ([0x572CF432], .aor .cluster .release 50 51 52), ([0x572CF43B], .axor .cluster .acqRel 50 51 52), ([0x572CF424], .amin .cluster .relaxed 50 51 52),
   ([0x572CF42D], .amax .cluster .acquire 50 51 52), ([0x572CF436], .aminn .cluster .release 50 51 52),
   ([0x572CF43F], .amaxn .cluster .acqRel 50 51 52), ([0x5B5DB798], .axchg .enclosure .acqRel 53 54 55),
   ([0x5B5DB791], .acas .enclosure .release 53 54 55)] :
    List (List Nat × Instr)).all reads = true := by decide +kernel

/-- Words of the flow family, by the encoding tables R65 to R78. -/
theorem test_decode_flow : ([([0x6020E00F], .beq 2 3 ⟨-512, 15⟩), ([0x6431201E], .bne 3 4 ⟨-511, 14⟩), ([0x6841602D], .blt 4 5 ⟨-510, 13⟩), ([0x6C51A03C], .bge 5 6 ⟨-509, 12⟩),
   ([0x7061E04B], .bltn 6 7 ⟨-508, 11⟩), ([0x7472205A], .bgen 7 8 ⟨-507, 10⟩), ([0x78901FF1], .bz 9 ⟨511, 1⟩), ([0x78907FF2], .bnz 9 ⟨-1, 2⟩),
   ([0x8018000F], .jl 1 ⟨-32768, 15⟩), ([0x84004000], .jr 0 1), ([0x88A7FFF1], .loop 10 ⟨32767, 1⟩)] :
    List (List Nat × Instr)).all reads = true := by decide +kernel

/-- Words of the queue family, by the encoding tables R65 to R78. -/
theorem test_decode_queue : ([([0x90B30600], .qbind 11 12 2 true false), ([0x90B00B00], .qbind 11 0 3 false true), ([0x90D00701], .qlen 13 7), ([0x90D00402], .qpeek 13 4),
   ([0x90D38003], .qtry 13 14 0), ([0x90D38504], .qpusht 13 14 5), ([0x90F40005], .qcreate 15 16), ([0x91148006], .qdel 17 18)] :
    List (List Nat × Instr)).all reads = true := by decide +kernel

/-- Words of the generator family, by the encoding tables R65 to R78. -/
theorem test_decode_generator : ([([0x95F08000], .gld 31 2), ([0x95E0C001], .gst 30 3), ([0x95D10302], .gadv 29 4 3), ([0x95C14B03], .gset 28 5 11)] :
    List (List Nat × Instr)).all reads = true := by decide +kernel

/-- Words of the barrier family, by the encoding tables R65 to R78. -/
theorem test_decode_barrier : ([([0x9C108300], .binit 1 2 3), ([0x9C414001], .barr 4 5), ([0x9C61C802], .bwait 6 7 8), ([0x9C928003], .bsync 9 10), ([0x9CB30D04], .btest 11 12 13)] :
    List (List Nat × Instr)).all reads = true := by decide +kernel

/-- Words of the task family, by the encoding tables R65 to R78. -/
theorem test_decode_task : ([([0xA1558000], .spawn 21 22), ([0xA005C001], .park 23), ([0xA0060002], .cancel 24), ([0xA1969B03], .waitl 25 26 27), ([0xA0070004], .prog 28),
   ([0xA0000005], .meet)] :
    List (List Nat × Instr)).all reads = true := by decide +kernel

/-- Words of the poolPage family, by the encoding tables R65 to R78. -/
theorem test_decode_poolPage : ([([0xB007E000], .pflush 31 32), ([0xB0086201], .pinv 33 34), ([0xB2392502], .nqpost 35 36 37), ([0xB269E803], .nqpop 38 39 40),
   ([0xB29AAB04], .nqwait 41 42 43), ([0xB80B2D00], .tlbi 44 45), ([0xBAEBF001], .pgmig 46 47 48)] :
    List (List Nat × Instr)).all reads = true := by decide +kernel

/-- Words of the vector family, by the encoding tables R65 to R78. -/
theorem test_decode_vector : ([([0xE0007FC0, 0xFFF00000], .vadd ⟨0, 1, .rne, false, 2047, 1024, .f32, .f32, .reg 2040⟩),
   ([0xE012BFDB, 0xFFD00442], .vsub ⟨1, 2, .rtz, true, 2046, 1025, .bf16, .f32, .imm (-5)⟩),
   ([0xE024FFB4, 0xFFB00880], .vmul ⟨2, 3, .rup, false, 2045, 1026, .f16, .f32, .reg 2038⟩),
   ([0xE0373FAF, 0xFF900CC0], .vfma ⟨3, 4, .rdn, true, 2044, 1027, .e4m3, .f32, .reg 2037⟩),
   ([0xE0497FA0, 0xFF701100], .vfms ⟨4, 5, .rne, false, 2043, 1028, .e5m2, .f32, .reg 2036⟩),
   ([0xE05BBF99, 0xFF501400], .vmax ⟨5, 6, .rne, true, 2042, 1029, .f32, .f32, .reg 2035⟩),
   ([0xE06C7F90, 0xFF301840], .vmin ⟨6, 1, .rne, false, 2041, 1030, .bf16, .f32, .reg 2034⟩),
   ([0xE07E8001, 0xFF101C80], .vabs ⟨7, 2, .rne, true, 2040, 1031, .f16, .f32, .reg 0⟩),
   ([0xE080C000, 0xFEF020C0], .vneg ⟨0, 3, .rne, false, 2039, 1032, .e4m3, .f32, .reg 0⟩),
   ([0xE0933F7B, 0xFED02500], .vscl ⟨1, 4, .rtz, true, 2038, 1033, .e5m2, .f32, .reg 2031⟩),
   ([0xE0A57FD8, 0xFEB02802], .vand ⟨2, 5, .rne, false, 2037, 1034, .f32, .f32, .imm (-5)⟩),
   ([0xE0B7BF69, 0xFE902C40], .vor ⟨3, 6, .rne, true, 2036, 1035, .bf16, .f32, .reg 2029⟩),
   ([0xE0C87F60, 0xFE703080], .vxor ⟨4, 1, .rne, false, 2035, 1036, .f16, .f32, .reg 2028⟩),
   ([0xE0DABF59, 0xFE5035C0], .vshl ⟨5, 2, .rne, true, 2034, 1037, .i16, .f32, .reg 2027⟩),
   ([0xE0ECFF50, 0xFE303A00], .vshr ⟨6, 3, .rne, false, 2033, 1038, .i8, .f32, .reg 2026⟩),
   ([0xE0FF3F49, 0xFE103E40], .vsar ⟨7, 4, .rne, true, 2032, 1039, .n32, .f32, .reg 2025⟩),
   ([0xE1017F40, 0xFDF04040], .vcmpeq ⟨0, 5, .rne, false, 2031, 1040, .bf16, .f32, .reg 2024⟩),
   ([0xE113BF39, 0xFDD04480], .vcmplt ⟨1, 6, .rne, true, 2030, 1041, .f16, .f32, .reg 2023⟩),
   ([0xE1247F30, 0xFDB048C0], .vcmple ⟨2, 1, .rne, false, 2029, 1042, .e4m3, .f32, .reg 2022⟩),
   ([0xE136BF29, 0xFD904D00], .vsel ⟨3, 2, .rne, true, 2028, 1043, .e5m2, .f32, .reg 2021⟩),
   ([0xE148C002, 0xFD705230], .vcvt ⟨4, 3, .rtz, false, 2027, 1044, .i8, .e8m0, .reg 0⟩),
   ([0xE15B0001, 0xFD505440], .vmov ⟨5, 4, .rne, true, 2026, 1045, .bf16, .f32, .reg 0⟩),
   ([0xE16D41F4, 0xFD200081], .vsplat ⟨6, 5, .rup, false, 2025, 0, .f16, .f32, .scalar 62⟩),
   ([0xE17F81EF, 0xFD0000C1], .viota ⟨7, 6, .rdn, true, 2024, 0, .e4m3, .f32, .scalar 61⟩),
   ([0xE1804000, 0xFCF06100], .vexp2 ⟨0, 1, .rne, false, 2023, 1048, .e5m2, .f32, .reg 0⟩),
   ([0xE1928003, 0xFCD06400], .vlog2 ⟨1, 2, .rtz, true, 2022, 1049, .f32, .f32, .reg 0⟩),
   ([0xE1A4C004, 0xFCB06840], .vrcp ⟨2, 3, .rup, false, 2021, 1050, .bf16, .f32, .reg 0⟩),
   ([0xE1B70007, 0xFC906C80], .vrsq ⟨3, 4, .rdn, true, 2020, 1051, .f16, .f32, .reg 0⟩),
   ([0xE1C94000, 0xFC7070C0], .vsqrt ⟨4, 5, .rne, false, 2019, 1052, .e4m3, .f32, .reg 0⟩),
   ([0xE1DB8003, 0xFC507500], .vtanh ⟨5, 6, .rtz, true, 2018, 1053, .e5m2, .f32, .reg 0⟩),
   ([0xE1EC4004, 0xFC307800], .vsigm ⟨6, 1, .rup, false, 2017, 1054, .f32, .f32, .reg 0⟩),
   ([0xE1FE8006, 0xFC107C40], .vredsum ⟨7, 2, .rdn, false, 2016, 1055, .bf16, .f32, .reg 0⟩),
   ([0xE200C000, 0xFBF08080], .vredmax ⟨0, 3, .rne, false, 2015, 1056, .f16, .f32, .reg 0⟩),
   ([0xE2130000, 0xFBD084C0], .vredmin ⟨1, 4, .rne, false, 2014, 1057, .e4m3, .f32, .reg 0⟩),
   ([0xE2254004, 0xFBB08900], .vscan ⟨2, 5, .rup, false, 2013, 1058, .e5m2, .f32, .reg 0⟩),
   ([0xE237BEA9, 0xFB908C00], .vperm ⟨3, 6, .rne, true, 2012, 1059, .f32, .f32, .reg 2005⟩),
   ([0xE24841F8, 0xFB709041], .vbcast ⟨4, 1, .rne, false, 2011, 1060, .bf16, .f32, .scalar 63⟩),
   ([0xE25ABE99, 0xFB509480], .vclamp ⟨5, 2, .rne, true, 2010, 1061, .f16, .f32, .reg 2003⟩)] :
    List (List Nat × Instr)).all reads = true := by decide +kernel

/-- Words of the vectorMemory family, by the encoding tables R65 to R78. -/
theorem test_decode_vectorMemory : ([([0xE40FBE00, 0xFA1FFFFD], .vld ⟨7, 6, 31, .f32, 2000, 63, (-3)⟩), ([0xE41D7C20, 0xFA3F7FFD], .vst ⟨6, 5, 30, .bf16, 2001, 62, (-3)⟩),
   ([0xE42B3A40, 0xFA5EFFFD], .vlds ⟨5, 4, 29, .f16, 2002, 61, (-3)⟩), ([0xE438F800, 0xFA7E7FFD], .vsts ⟨4, 3, 28, .f32, 2003, 60, (-3)⟩),
   ([0xE446B680, 0xFA9D8068], .vgath ⟨3, 2, 27, .e5m2, 2004, 59, 104⟩), ([0xE45474A0, 0xFABD0069], .vscat ⟨2, 1, 26, .e2m1, 2005, 58, 105⟩),
   ([0xE463B2C0, 0xFADC806A], .vpack ⟨1, 6, 25, .i32, 2006, 57, 106⟩), ([0xE47170E0, 0xFAFC006B], .vunpk ⟨0, 5, 24, .i16, 2007, 56, 107⟩)] :
    List (List Nat × Instr)).all reads = true := by decide +kernel

/-- Words of the matrix family, by the encoding tables R65 to R78. -/
theorem test_decode_matrix : ([([0xE80E97DC, 0xFFC00280], .mma ⟨29, 5, 15, false, .rdn, true, false, 2046, 0, 40, .f32⟩),
   ([0xE81F1B96, 0xFFA00290], .mmas ⟨30, 6, 14, false, .rup, true, true, 2045, 0, 41, .f32⟩),
   ([0xE82F9F4C, 0xFF8002A0], .mmac ⟨31, 7, 13, false, .rtz, true, false, 2044, 0, 42, .f32⟩),
   ([0xE8318242, 0x00000150], .bld ⟨3, 0, 9, false, .rne, false, true, 0, 0, 21, .f32⟩),
   ([0xE8400000, 0x7D1F4000], .zacc ⟨0, 0, 0, false, .rne, false, false, 1000, 2000, 0, .f32⟩),
   ([0xE8500030, 0x09BDB168], .acvt ⟨0, 0, 0, true, .rup, false, false, 77, 1900, 22, .i8⟩)] :
    List (List Nat × Instr)).all reads = true := by decide +kernel

/-- Words of the tile family, by the encoding tables R65 to R78. -/
theorem test_decode_tile : ([([0xEC0FDF02, 0x0001C280], .tload ⟨63, .gen 31, .handle 0, .handle 0, 0, .e4m3, .rup, 5, 0⟩),
   ([0xEC104279, 0x0000E300], .tmul ⟨1, .handle 2, .gen 30, .handle 0, 0, .bf16, .rdn, 6, 0⟩),
   ([0xEC20C414, 0x18192380], .tew ⟨3, .handle 4, .handle 5, .handle 6, 3, .f16, .rtz, 7, 0⟩),
   ([0xEC320900, 0x010B0500], .tred ⟨8, .handle 9, .handle 0, .handle 0, 33, .i32, .rne, 10, 0⟩),
   ([0xEC42CC00, 0x00022680], .tcvt ⟨11, .handle 12, .handle 0, .handle 0, 0, .e5m2, .rtz, 13, 0⟩),
   ([0xEC538F00, 0x00000800], .tview ⟨14, .handle 15, .handle 0, .handle 0, 0, .f32, .rne, 16, 0⟩),
   ([0xEC64524E, 0x00000A00], .tgath ⟨17, .gen 18, .handle 19, .handle 0, 0, .f32, .rne, 20, 0⟩),
   ([0xEC75565C, 0x60028C80], .tsel ⟨21, .handle 22, .handle 23, .handle 24, 0, .e2m1, .rne, 25, 0⟩),
   ([0xEC868000, 0x00000DB8], .force ⟨26, .handle 0, .handle 0, .handle 0, 0, .f32, .rne, 27, 28⟩),
   ([0xEC975C02, 0x00002F00], .tst ⟨29, .gen 28, .handle 0, .handle 0, 0, .f32, .rtz, 30, 0⟩),
   ([0xECA84000, 0x00000000], .tdrop ⟨33, .handle 0, .handle 0, .handle 0, 0, .f32, .rne, 0, 0⟩),
   ([0xECB88000, 0x00000046], .tstat ⟨34, .handle 0, .handle 0, .handle 0, 0, .f32, .rne, 0, 35⟩),
   ([0xECC00000, 0x0000124A], .tpol ⟨0, .handle 0, .handle 0, .handle 0, 0, .f32, .rne, 36, 37⟩)] :
    List (List Nat × Instr)).all reads = true := by decide +kernel

/-- Words of the engine family, by the encoding tables R65 to R78. -/
theorem test_decode_engine : ([([0xF00FFB07, 0x04000027], .cpy ⟨31, 30, 3, 7, 1, 0, 0, 0, 39⟩), ([0xF0108A01, 0x0C400000], .cpyt ⟨1, 2, 2, 1, 3, 4, 0, 0, 0⟩),
   ([0xF0229900, 0x1C020900], .cpym ⟨5, 6, 1, 0, 7, 0, 8, 9, 0⟩), ([0xF0300000, 0x28B00000], .enq ⟨0, 0, 0, 0, 10, 11, 0, 0, 0⟩),
   ([0xF0400200, 0x30D00000], .waitid ⟨0, 0, 2, 0, 12, 13, 0, 0, 0⟩), ([0xF0500300, 0x38000003], .tidr ⟨0, 0, 3, 0, 14, 0, 0, 0, 3⟩),
   ([0xF0600000, 0x00F00002], .publish ⟨0, 0, 0, 0, 0, 15, 0, 0, 2⟩)] :
    List (List Nat × Instr)).all reads = true := by decide +kernel

/-- Words of the stream family, by the encoding tables R65 to R78. -/
theorem test_decode_stream : ([([0xF0700000, 0x41100045], .lfload ⟨0, 0, 0, 0, 16, 17, 0, 0, 69⟩), ([0xF0890003, 0x00000041], .lbind ⟨18, 0, 0, 3, 0, 0, 0, 0, 65⟩),
   ([0xF0900000, 0x4C000082], .lstart ⟨0, 0, 0, 0, 19, 0, 0, 0, 130⟩), ([0xF0A00000, 0x500000C3], .lbar ⟨0, 0, 0, 0, 20, 0, 0, 0, 195⟩),
   ([0xF0B00005, 0x54000004], .lstat ⟨0, 0, 0, 5, 21, 0, 0, 0, 4⟩), ([0xF0C00001, 0x58000005], .lstop ⟨0, 0, 0, 1, 22, 0, 0, 0, 5⟩)] :
    List (List Nat × Instr)).all reads = true := by decide +kernel

/-- Words of the link family, by the encoding tables R65 to R78. -/
theorem test_decode_link : ([([0xF0DBE100, 0x65A6C002], .cred ⟨23, 24, 1, 0, 25, 26, 27, 0, 2⟩), ([0xF0EE0200, 0x75E7E000], .csend ⟨28, 0, 2, 0, 29, 30, 31, 32, 0⟩),
   ([0xF0F00F00, 0x8628E400], .crecv ⟨0, 3, 3, 0, 33, 34, 35, 36, 0⟩), ([0xF1021500, 0x94000000], .mcst ⟨4, 5, 1, 0, 37, 0, 0, 0, 0⟩)] :
    List (List Nat × Instr)).all reads = true := by decide +kernel

/-- Words of the kernel family, by the encoding tables R65 to R78. -/
theorem test_decode_kernel : ([([0xF40FFFFF, 0x00005000], .fork (-1) 5), ([0xF4180000, 0x7FFFF000], .yield (-524288) 524287), ([0xF4200000, 0x00000FBD], .launch 62 61)] :
    List (List Nat × Instr)).all reads = true := by decide +kernel

/-- One ill-formed term for each check of SYS, ALU and memory rows (R68, R79, R104, R120, R296, R302, R312, R364, R365, R405). -/
theorem test_illFormed_short : ([.csrr 1 3, .csrw 1 0x1051, .csrs 1 0x14, .csrc 1 0x1036, .bfx 1 2 60 4, .bfi 1 2 1 63, .mkptr 1 2 3 .virt,
    .mkptr 1 2 3 .queue, .beq 1 2 ⟨3, 0⟩, .bnz 1 ⟨3, 0⟩, .jl 1 ⟨3, 0⟩, .loop 1 ⟨3, 0⟩, .qbind 56 1 0 false false, .qbind 1 63 0 true false,
    .qbind 1 2 0 false true, .qbind 1 0 0 true true, .qlen 60 0, .qpeek 56 1, .qtry 1 1 0, .qtry 57 1 0, .qpusht 1 58 4, .qcreate 59 1, .qdel 1 60,
    .binit 1 2 61, .bwait 62 1 2, .btest 1 63 2, .barr 56 1, .bsync 1 56, .pflush 57 1, .pinv 1 57, .tlbi 58 1, .nqpost 1 2 58, .nqpop 59 1 2,
    .nqwait 1 59 2, .pgmig 60 1 2] : List Instr).all (fun i => !i.wf) = true := by decide +kernel

/-- One ill-formed term for each check of the vector and vector memory rows (R69, R70, R75, R132, R147). -/
theorem test_illFormed_vector : ([.vadd ⟨0, 0, .rne, false, 0, 0, .f32, .f32, .reg 0⟩, .vadd ⟨0, 7, .rne, false, 0, 0, .f32, .f32, .reg 0⟩,
    .vadd ⟨0, 1, .rne, false, 0, 0, .e8m0, .f32, .reg 0⟩, .vadd ⟨0, 1, .rne, false, 0, 0, .f32, .bf16, .reg 0⟩,
    .vadd ⟨0, 1, .rtz, false, 0, 0, .i32, .f32, .reg 0⟩, .vmax ⟨0, 1, .rtz, false, 0, 0, .f32, .f32, .reg 0⟩,
    .vabs ⟨0, 1, .rne, false, 0, 0, .f32, .f32, .reg 1⟩, .vscl ⟨0, 1, .rne, false, 0, 0, .i8, .f32, .reg 0⟩,
    .vand ⟨0, 1, .rup, false, 0, 0, .f32, .f32, .reg 0⟩, .vshl ⟨0, 1, .rne, false, 0, 0, .f32, .f32, .reg 0⟩,
    .vcvt ⟨0, 1, .rtz, false, 0, 0, .i32, .n8, .reg 0⟩, .vcvt ⟨0, 1, .rne, false, 0, 0, .f32, .f32, .imm 0⟩,
    .vmov ⟨0, 1, .rne, false, 0, 0, .f32, .f32, .reg 1⟩, .vsplat ⟨0, 1, .rne, false, 0, 0, .f32, .f32, .reg 0⟩,
    .viota ⟨0, 1, .rne, false, 0, 1, .f32, .f32, .imm 0⟩, .vexp2 ⟨0, 1, .rne, false, 0, 0, .e2m1, .f32, .reg 0⟩,
    .vredsum ⟨0, 1, .rne, true, 0, 0, .f32, .f32, .reg 0⟩, .vredmax ⟨0, 1, .rdn, false, 0, 0, .f32, .f32, .reg 0⟩,
    .vscan ⟨0, 1, .rne, false, 0, 0, .e8m0, .f32, .reg 0⟩, .vperm ⟨0, 1, .rne, false, 0, 0, .f32, .f32, .imm 1⟩,
    .vbcast ⟨0, 1, .rne, false, 0, 0, .f32, .f32, .reg 0⟩, .vld ⟨0, 0, 0, .f32, 0, 0, 0⟩, .vlds ⟨0, 1, 0, .i8, 0, 0, 0⟩, .vgath ⟨0, 1, 0, .f32, 0, 0, 2048⟩,
    .vscat ⟨0, 1, 0, .f32, 0, 0, (-1)⟩, .vpack ⟨0, 1, 0, .f32, 0, 0, 0⟩, .vunpk ⟨0, 1, 0, .f32, 0, 0, (-1)⟩] : List Instr).all (fun i => !i.wf) = true := by
  decide

/-- One ill-formed term for each check of the matrix and tile rows (R71, R72, R162, R173, R199). -/
theorem test_illFormed_matrixTile : ([.mma ⟨0, 0, 0, false, .rne, false, false, 0, 1, 0, .f32⟩, .mmas ⟨0, 1, 0, false, .rne, false, false, 0, 0, 0, .f32⟩,
    .mmac ⟨0, 0, 0, true, .rtz, false, false, 0, 0, 0, .f32⟩, .bld ⟨0, 1, 0, false, .rne, false, false, 0, 0, 0, .f32⟩,
    .zacc ⟨0, 0, 0, false, .rne, false, false, 2, 1, 0, .f32⟩, .acvt ⟨1, 0, 0, false, .rne, false, false, 0, 0, 0, .f32⟩,
    .tload ⟨0, .handle 0, .handle 0, .handle 0, 0, .f32, .rne, 0, 0⟩, .tmul ⟨0, .handle 0, .handle 0, .handle 1, 0, .f32, .rne, 0, 0⟩,
    .tew ⟨0, .handle 0, .handle 0, .handle 0, 10, .f32, .rne, 0, 0⟩, .tew ⟨0, .handle 0, .gen 0, .handle 0, 0, .f32, .rne, 0, 0⟩,
    .tew ⟨0, .handle 0, .handle 0, .handle 1, 0, .f32, .rne, 0, 0⟩, .tred ⟨0, .handle 0, .handle 0, .handle 0, 0x22, .f32, .rne, 0, 0⟩,
    .tcvt ⟨0, .gen 0, .handle 0, .handle 0, 0, .f32, .rne, 0, 0⟩, .tview ⟨0, .handle 0, .handle 0, .handle 0, 0, .bf16, .rne, 0, 0⟩,
    .tgath ⟨0, .handle 0, .handle 0, .handle 0, 0, .f32, .rne, 0, 0⟩, .tsel ⟨0, .handle 0, .handle 0, .gen 0, 0, .f32, .rne, 0, 0⟩,
    .force ⟨0, .handle 1, .handle 0, .handle 0, 0, .f32, .rne, 0, 0⟩, .tst ⟨0, .handle 0, .handle 0, .handle 0, 0, .f32, .rne, 0, 0⟩,
    .tdrop ⟨0, .handle 0, .handle 0, .handle 0, 0, .f32, .rne, 1, 0⟩, .tstat ⟨1, .handle 0, .handle 0, .handle 0, 1, .f32, .rne, 0, 0⟩,
    .tstat ⟨0, .handle 0, .handle 0, .handle 0, 7, .f32, .rne, 0, 0⟩, .tpol ⟨1, .handle 0, .handle 0, .handle 0, 0, .f32, .rne, 0, 0⟩] :
    List Instr).all (fun i => !i.wf) = true := by decide +kernel

/-- One ill-formed term for each check of the transfer, stream, link and kernel rows (R59, R73, R74, R332, R388, R416), and of the operands that are sequences of bytes. -/
theorem test_illFormed_engine : ([.cpy ⟨0, 0, 0, 8, 0, 0, 0, 0, 0⟩, .cpy ⟨0, 0, 0, 4, 0, 0, 0, 0, 40⟩, .cpy ⟨0, 0, 0, 0, 0, 0, 0, 0, 1⟩,
    .cpyt ⟨0, 0, 0, 0, 0, 0, 1, 0, 0⟩, .cpym ⟨0, 0, 0, 0, 0, 1, 0, 0, 0⟩, .enq ⟨0, 0, 1, 0, 0, 0, 0, 0, 0⟩, .waitid ⟨1, 0, 0, 0, 0, 0, 0, 0, 0⟩,
    .tidr ⟨0, 0, 0, 0, 0, 0, 0, 0, 4⟩, .publish ⟨0, 0, 0, 0, 0, 0, 0, 0, 4⟩, .lfload ⟨0, 0, 0, 0, 0, 0, 0, 0, 40⟩, .lbind ⟨1, 1, 0, 0, 0, 0, 0, 0, 0⟩,
    .lbind ⟨0, 0, 0, 16, 0, 0, 0, 0, 0⟩, .lstart ⟨0, 0, 0, 1, 0, 0, 0, 0, 0⟩, .lbar ⟨0, 0, 0, 0, 0, 1, 0, 0, 0⟩, .lstat ⟨0, 0, 0, 6, 0, 0, 0, 0, 0⟩,
    .lstop ⟨0, 0, 0, 2, 0, 0, 0, 0, 0⟩, .cred ⟨0, 0, 0, 0, 0, 0, 0, 0, 3⟩, .csend ⟨0, 1, 0, 0, 0, 0, 0, 0, 0⟩, .crecv ⟨1, 0, 0, 0, 0, 0, 0, 0, 0⟩,
    .mcst ⟨0, 0, 0, 0, 0, 1, 0, 0, 0⟩, .fork 0 0, .yield 0 1, .yield 1 0, .hostBar2Access 0 0 0 none, .hostBar2Access 0 0 513 none,
    .hostBar2Access 0 0 2 (some [1]), .poolResponse 0 [] false 0, .flitProxyRequest 0 0 0 (some ⟨[], false, 0⟩), .flitProxyResponse 0 0 (some ⟨[1], false, 0⟩),
    .flitReservedType 0 6] : List Instr).all (fun i => !i.wf) = true := by decide +kernel

/-- Words that R79 refuses, one for each of its lines: unassigned majors and functions, reserved selectors and codes, fields that must be zero, a target that names the link. -/
theorem test_refused_words : ([[0x34000000, 0], [0x5C000000, 0], [0x7C000000, 0], [0xF8000000, 0], [0xFC000000, 0], [0x00B00000], [0x0400001F],
    [0x04000020], [0x04000024], [0x30000004], [0x90000007], [0x94000004], [0x9C000005], [0xA0000006], [0xB0000005], [0xB8000002],
    [0xE2604000, 0], [0xE4804000, 0], [0xE8600000, 0], [0xECD00000, 0], [0xF1100000, 0], [0xF4300000, 0], [0x4C0000A0], [0x00518000], [0xE0000000, 0],
    [0xE001C000, 0], [0xE0004000, 3], [0xE0004000, 0x340], [0xE0004000, 4], [0x00000001], [0x00200001], [0x1C003000], [0x1C000040], [0x2C000005],
    [0x2C000010], [0x28002000], [0x28000FC1], [0x40000001], [0x54000400 + 0xE0], [0x60000010], [0x78008001], [0x84000100], [0xF4000001, 0x40], [0xE0008058]] :
    List (List Nat)).all (fun w => (match decodeWords w with | .ok _ => false | .error _ => true)) = true := by decide +kernel

/-- The encoder gives the words of the spec's worked line, and the decoder takes the instruction and leaves the bytes behind it (R4, R54). -/
theorem test_encode_worked : encode (.ld .d 9 3 2) = [0x4090C02C] ∧ encode (.bne 4 0 ⟨-2, 3⟩) = [0x64403FE3]
    ∧ encode (.vadd ⟨0, 2, .rne, false, 12, 10, .f32, .f32, .reg 11⟩) = [0xE0008058, 0x01802800] ∧ encode .endGroup = [0x00100000] := by decide +kernel

theorem test_decode_bytes : (match decode (wordBytes 0x04518700 ++ [7, 8]) with | .ok (i, rest) => i == .add 5 6 7 && rest == [7, 8] | .error _ => false) = true
    ∧ decodeTableWord 32 0x00100000 = some .endGroup ∧ decodeTableWord 64 0x01802800E0008058 = some (.vadd ⟨0, 2, .rne, false, 12, 10, .f32, .f32, .reg 11⟩) := by
  decide

/-! ### Showing that hypotheses are met -/

/-- The state that a body leaves. -/
def stateAfter {α : Type} (x : X α) (s : State) : State :=
  match x s with
  | .ok p => p.2
  | .error _ => s
/-- The value that a body gives. -/
def valueOf {α : Type} [Inhabited α] (x : X α) (s : State) : α :=
  match x s with
  | .ok p => p.1
  | .error _ => default
/-- Does a body run to its end with a value? -/
def answers {α : Type} [DecidableEq α] (x : X α) (s : State) (a : α) : Bool :=
  match x s with
  | .ok p => p.1 == a
  | .error _ => false
/-- Does a body run to its end? -/
def ends {α : Type} (x : X α) (s : State) : Bool :=
  match x s with
  | .ok _ => true
  | .error _ => false
theorem rv {α : Type} [DecidableEq α] {x : X α} {s : State} {a : α} (h : answers x s a = true) : Runs x s a (stateAfter x s) := by
  unfold answers at h; unfold Runs stateAfter
  cases hx : x s with
  | ok p => rw [hx] at h; simp at h; subst h; rfl
  | error e => rw [hx] at h; cases h
theorem ra {α : Type} [Inhabited α] {x : X α} {s : State} (h : ends x s = true) : Runs x s (valueOf x s) (stateAfter x s) := by
  unfold ends at h; unfold Runs stateAfter valueOf
  cases hx : x s with
  | ok p => rfl
  | error e => rw [hx] at h; cases h
/-- The group of the role whose turn it is. -/
def grp (s : State) : Group := (s.group s.cur.core s.cur.slot).getD placedGroup
theorem ac {s : State} (h : (s.group s.cur.core s.cur.slot).isSome = true) : Acts s (grp s) ((grp s).role s.cur.role) := by
  unfold Acts grp
  cases hx : s.group s.cur.core s.cur.slot with
  | none => rw [hx] at h; cases h
  | some g => exact ⟨rfl, rfl⟩
theorem mo {s : State} (h : Memory.wf s.opened s.mem = true) : s.MemOk := h
theorem na {s : State} {g : Group} {ws : List (Nat × Nat)} (h : (g.tile.aliased s.cur.core ws).isEmpty = true) : NoAlias s g ws := by
  unfold NoAlias; exact List.isEmpty_iff.mp h
/-- The next state of an outcome, or the state itself. -/
def nextOf (o : Host.Outcome State Fault Refusal) (s : State) : State :=
  match o with
  | .next t => t
  | .fault _ => s
  | .refused _ => s
/-- Is an outcome a next state? -/
def isNext (o : Host.Outcome State Fault Refusal) : Bool :=
  match o with
  | .next _ => true
  | .fault _ => false
  | .refused _ => false
theorem nx {i : Instr} {s : State} (h : isNext (exec i s) = true) : exec i s = .next (nextOf (exec i s) s) := by
  revert h; cases exec i s <;> simp [nextOf, isNext]

/-! ### The state of the witnesses: a group of context 0 on core 0, slot 0, whose compute role is next -/

/-- The compute role of the group. -/
def who : RoleId := ⟨0, 0, .compute⟩
/-- The state in which an instruction's line has been placed, with registers set and the line in hand. -/
def lab (regs : List (SReg × Word)) (line : List Nat := []) : State :=
  (State.reset.placeWords []).onRole who fun k =>
    { k with line := line, regs := regs.foldl (fun v p => vset v p.1 p.2) k.regs }
/-- A scratchpad pointer of core 0. -/
def sp (off : Nat) : Word := BitVec.ofNat 64 (2 ^ 60 + off)

/-! ### Scalar instructions -/

theorem test_witness_ScalarResults : ∃ s s1 s2, Taken [5, 6] [7] s [3, -1] s1 ∧ Gives 7 (3 + -1) s1 s2 := ⟨lab [(5, 3), (6, -1)], _, _,rv (by decide), rv (by decide)⟩
theorem test_witness_ScalarResults_port : ∃ s s1 s2, Taken [61, 6] [62] s [9, -1] s1 ∧ Gives 62 (9 + -1) s1 s2 := ⟨(lab [(6, -1)]).onGroup 0 0 fun g => { g with roleq := vset g.roleq 1 [9] }, _, _,rv (by decide), rv (by decide)⟩
theorem test_witness_ScalarResults_sel : ∃ s s1 s2, Taken [5, 6, 7] [7] s [1, 2, 0] s1 ∧ Gives 7 2 s1 s2 := ⟨lab [(5, 1), (6, 2)], _, _,rv (by decide), rv (by decide)⟩
theorem test_witness_ScalarResults_one : ∃ s s1 s2, Taken [5] [0] s [0] s1 ∧ Gives 0 64 s1 s2 := ⟨lab [], _, _,rv (by decide), rv (by decide)⟩
theorem test_witness_ImmediateResults : ∃ s s1 s2, Taken [] [7] s [] s1 ∧ Gives 7 ((-1 : BitVec 20).signExtend 64) s1 s2 := ⟨lab [], _, _,rv (by decide), rv (by decide)⟩
theorem test_witness_ImmediateResults_field : ∃ (s s1 s2 : State) (r : Word), (60 : BitVec 6).toNat + (3 : BitVec 6).toNat < 64
    ∧ Taken [5, 7] [7] s [6, 1] s1 ∧ (∀ j < 64, r.getLsbD j =
      if (60 : BitVec 6).toNat ≤ j ∧ j ≤ (60 : BitVec 6).toNat + (3 : BitVec 6).toNat then (6 : Word).getLsbD (j - (60 : BitVec 6).toNat) else (1 : Word).getLsbD j)
    ∧ Gives 7 r s1 s2 := ⟨lab [(5, 6), (7, 1)], _, _, 0x6000000000000001, by decide, rv (by decide), by decide, rv (by decide)⟩
theorem test_witness_ImmediateResults_pointer : ∃ (s s1 s2 : State) (x : Word), Taken [5] [7] s [x] s1 ∧ x.toNat < 2 ^ 55 ∧ 2 ^ 55 ≤ x.toNat + 1
    ∧ Gives 7 (x ||| BitVec.ofNat 64 (Space.virt.code * 2 ^ 60)) s1 s2 := ⟨lab [(5, 0x7FFFFFFFFFFFFF)], _, _, 0x7FFFFFFFFFFFFF, rv (by decide), by decide, by decide, rv (by decide)⟩
theorem test_witness_ImmediateResults_pointerBeyond : ∃ (s s1 : State) (x y : Word), Taken [5] [7] s [x] s1 ∧ x.toNat = 2 ^ 55
    ∧ Taken [5, 6] [7] s [x, y] s1 ∧ 3 * 2 ^ 20 ≤ x.toNat ∧ y.toNat = 128 := ⟨lab [(5, 0x80000000000000), (6, 128)], _, 0x80000000000000, 128, rv (by decide), by decide, rv (by decide), by decide, by decide⟩
theorem test_witness_ImmediateResults_pointerOnChip : ∃ (s s1 s2 : State) (x y : Word), x.toNat < 3 * 2 ^ 20 ∧ 3 * 2 ^ 20 ≤ x.toNat + 1 ∧ y.toNat = 127
    ∧ Taken [5, 6] [7] s [x, y] s1 ∧ Gives 7 (BitVec.ofNat 64 (Space.scratch.code * 2 ^ 60) + y * 2 ^ 53 + x) s1 s2 := ⟨lab [(5, 0x2FFFFF), (6, 127)], _, _, 0x2FFFFF, 127, by decide, by decide, by decide, rv (by decide), rv (by decide)⟩
theorem test_witness_ImmediateResults_pointerQueue : ∃ (s s1 s2 : State) (x : Word), Taken [5] [7] s [x] s1 ∧ x.toNat < 2 ^ 60 ∧ 2 ^ 60 ≤ x.toNat + 1
    ∧ Gives 7 (x ||| BitVec.ofNat 64 (Space.queue.code * 2 ^ 60)) s1 s2 := ⟨lab [(5, 0xFFFFFFFFFFFFFFF)], _, _, 0xFFFFFFFFFFFFFFF, rv (by decide), by decide, by decide, rv (by decide)⟩
theorem test_witness_ScalarOperands : ∃ (s : State) (g : Group) (k : Role), Acts s g k ∧ (∀ r ∈ [(0 : SReg), 55], r.isPort = false) := ⟨lab [], _, _,ac (by decide), by decide⟩
theorem test_witness_ScalarOperands_pop : ∃ (s : State) (g : Group) (k : Role), Acts s g k ∧ consumer 1 = s.cur.role ∧ g.roleq.get 1 = [9] := ⟨(lab []).onGroup 0 0 fun g => { g with roleq := vset g.roleq 1 [9] }, _, _,ac (by decide), by decide, by decide⟩
theorem test_witness_ScalarOperands_empty : ∃ (s : State) (g : Group) (k : Role), Acts s g k ∧ consumer 0 = s.cur.role ∧ g.roleq.get 0 = []
    ∧ consumer 2 ≠ s.cur.role ∧ producer 2 = s.cur.role ∧ (g.roleq.get 2).length < 16 ∧ producer 3 ≠ s.cur.role := ⟨lab [], _, _,ac (by decide), by decide, by decide, by decide, by decide, by decide, by decide⟩
theorem test_witness_ScalarOperands_full : ∃ (s : State) (g : Group) (k : Role), Acts s g k ∧ producer 2 = s.cur.role ∧ 16 ≤ (g.roleq.get 2).length := ⟨(lab []).onGroup 0 0 fun g => { g with roleq := vset g.roleq 2 (List.replicate 16 0) }, _, _,ac (by decide), by decide, by decide⟩
theorem test_witness_ScalarFrame : ∃ (s t : State) (g : Group) (k : Role), Acts s g k ∧ exec (.add 7 5 6) s = .next t ∧ (t.role s.cur).isSome = true := ⟨lab [(5, 3), (6, -1)], _, _, _, ac (by decide), nx (by decide), by decide⟩

/-! ### Scalar memory -/

theorem test_witness_LoadStoreResult : ∃ (s s1 s2 s3 : State) (g : Group) (k : Role) (x : Word) (bs : List Byte) (ea : Nat),
    ea = (x + (-1 : BitVec 10).signExtend 64 * BitVec.ofNat 64 8).toNat ∧ Taken [5] [7] s [x] s1 ∧ Acts s1 g k ∧ ea / 2 ^ 60 ≤ 2 ∧ ea % 8 = 0
    ∧ (ea / 2 ^ 60 = 2 → s1.resultsPending s1.cur = false) ∧ Runs (memReadBytes (s1.self g) ea 8) s1 bs s2
    ∧ Gives 7 ((BitVec.ofNat (8 * 8) (leNat bs)).signExtend 64) s2 s3 := ⟨lab [(5, sp 8)], _, _, _, _, _, sp 8, _, 2 ^ 60, by decide, rv (by decide), ac (by decide), by decide, by decide, by decide, ra (by decide), rv (by decide)⟩
theorem test_witness_LoadStoreResult_traps : ∃ (s s1 : State) (g : Group) (k : Role) (x y : Word), Taken [5] [7] s [x] s1 ∧ Taken [6] [7] s [y] s1 ∧ Acts s1 g k
    ∧ x.toNat / 2 ^ 60 = 3 ∧ y.toNat / 2 ^ 60 ≤ 2 ∧ y.toNat % 2 ≠ 0 := ⟨lab [(5, 0x3000000000000000), (6, 1)], _, _, _, 0x3000000000000000, 1, rv (by decide), rv (by decide), ac (by decide), by decide, by decide, by decide⟩
theorem test_witness_LoadStoreResult_store : ∃ (s s1 s2 : State) (g : Group) (k : Role) (x v : Word) (ea : Nat),
    ea = (x + (0 : BitVec 10).signExtend 64 * BitVec.ofNat 64 8).toNat ∧ Taken [5, 7] [] s [x, v] s1 ∧ Acts s1 g k ∧ ea / 2 ^ 60 ≤ 2 ∧ ea % 8 = 0
    ∧ Runs (memWriteBytes (s1.self g) ea (leBytes 8 v.toNat)) s1 () s2 ∧ NoAlias s1 g [(ea, ea + 8 - 1)] := ⟨lab [(5, sp 56), (7, 0x1234)], _, _, _, _, sp 56, 0x1234, 2 ^ 60 + 56, by decide, rv (by decide), ac (by decide), by decide, by decide, ra (by decide), na (by decide)⟩
theorem test_witness_SynchronizationResult : ∃ (s s1 s2 s3 s4 : State) (g : Group) (k : Role) (x y c : Word) (bs : List Byte) (old : Word),
    Acts s1 g k ∧ Acts s2 g k ∧ s2.cur = s1.cur ∧ x.toNat / 2 ^ 60 ≤ 1 ∧ x.toNat % 8 = 0 ∧ Runs (memReadBytes (s1.self g) x.toNat 8 .atomic) s1 bs s2
    ∧ old = BitVec.ofNat 64 (leNat bs) ∧ NoAlias s2 g [(x.toNat, x.toNat + 7)] ∧ Taken [5, 6, 7] [7] s [x, y, c] s1 ∧ Taken [5, 6] [7] s [x, y] s1 ∧ old = c
    ∧ Runs (memWriteBytes (s2.self g) x.toNat (leBytes 8 y.toNat) .atomic) s2 () s3 ∧ Gives 7 old s3 s4 := ⟨lab [(5, sp 0), (6, 4)], lab [(5, sp 0), (6, 4)], lab [(5, sp 0), (6, 4)], _, _, _, _, sp 0, 4, 0, List.replicate 8 0, 0, ac (by decide), ac (by decide), by decide, by decide, by decide, rv (by decide), by decide, na (by decide), rv (by decide), rv (by decide), by decide, rv (by decide), rv (by decide)⟩
theorem test_witness_SynchronizationResult_other : ∃ (s s1 s2 s3 : State) (g : Group) (k : Role) (x v : Word) (bs : List Byte), Acts s1 g k
    ∧ x.toNat / 2 ^ 60 ≤ 1 ∧ x.toNat % 2 = 0 ∧ Taken [5] [7] s [x] s1 ∧ Runs (memReadBytes (s1.self g) x.toNat 2) s1 bs s2
    ∧ Gives 7 (BitVec.ofNat 64 (leNat bs)) s2 s3 ∧ Taken [5, 6] [] s [x, v] s1 ∧ BitVec.ofNat 64 (leNat bs) ≠ v := ⟨lab [(5, sp 6), (6, 1)], lab [(5, sp 6), (6, 1)], lab [(5, sp 6), (6, 1)], _, _, _, sp 6, 1, [0, 0], ac (by decide), by decide, by decide, rv (by decide), rv (by decide), rv (by decide), rv (by decide), by decide⟩
theorem test_witness_MemoryAccess : ∃ (s : State) (p : Nat), s.MemOk ∧ p / 2 ^ 60 = 1 ∧ p % 64 + 8 ≤ 64 ∧ p / 2 ^ 23 % 2 ^ 30 = 0 ∧ p % 2 ^ 23 < 3 * 2 ^ 20
    ∧ 3 * 2 ^ 20 ≤ p % 2 ^ 23 + 8 ∧ s.ownsUnit 0 (ptrCore p) (p % 2 ^ 23) = true ∧ s.boardHits ⟨0, some 0, some 0⟩ p 8 = false ∧ s.isPoison (p / 64) = false := ⟨lab [], 2 ^ 60 + 3 * 2 ^ 20 - 8,mo (by decide), by decide, by decide, by decide, by decide, by decide, by decide, by decide, by decide⟩
theorem test_witness_MemoryAccess_refused : ∃ (s : State) (p q : Nat), p / 2 ^ 60 = 1 ∧ p % 2 ^ 23 = 3 * 2 ^ 20 ∧ q / 2 ^ 60 = 1 ∧ q / 2 ^ 23 % 2 ^ 30 = 0
    ∧ q % 2 ^ 23 < 3 * 2 ^ 20 ∧ s.ownsUnit 0 (ptrCore q) (q % 2 ^ 23) = false :=
  ⟨lab [], 2 ^ 60 + 3 * 2 ^ 20, 2 ^ 60 + 2 ^ 53, by decide, by decide, by decide, by decide, by decide, by decide⟩
/-- The laboratory with a readable and writable page of data at virtual and physical address 0x10000. -/
def dataLab : State := (lab []).onCore 0 fun k => { k with tlb := ⟨0, 1,false, 1 + 2 + 4 + 2 ^ 16⟩ :: k.tlb }
theorem test_witness_MemoryAccess_local : ∃ (s s1 s2 : State) (x : Xlat), x.pa % 64 = 0x10000 % 64 ∧ s1.MemOk ∧ (∃ pc row, backing s1.srows x.pa = .hbm pc row)
    ∧ leafC x.leaf = false ∧ s.boardHits ⟨0, some 0, some 0⟩ 0x10000 8 = false ∧ s1.isPoison (x.pa / 64) = false ∧ s1.inRetired x.pa = false ∧ x.pa / 64 ∉ s1.decayed
    ∧ SMap.get s1.keyTag (x.pa / 64) = none ∧ Runs (Machine.translate ⟨0, some 0, some 0⟩ 0x10000 .read) s x s1
    ∧ x.leaf / 2 ^ 11 % 2 = 0 ∧ Runs (Machine.translate ⟨0, some 0, some 0⟩ 0x10000 .write) s x s2 := ⟨dataLab, stateAfter (Machine.translate ⟨0, some 0, some 0⟩ 0x10000 .read) dataLab, _, ⟨0x10000, 1 + 2 + 4 + 2 ^ 16⟩,by decide, mo (by decide), ⟨_, _, rfl⟩, by decide, by decide, by decide, by decide, by decide, by decide, rv (by decide), by decide, rv (by decide)⟩
theorem test_witness_TranslationAndFetch : ∃ (s : State) (e : TlbEntry), (s.core 0).tlb.find? (fun x => x.holds 0 0x10000) = some e ∧ s.regionOk e.leaf 0x10000 = true
    ∧ s.bufOf 0 0x10000 = none ∧ grants e.leaf .write = true ∧ grants e.leaf .fetch = false := ⟨dataLab, ⟨0, 1, false, 1 + 2 + 4 + 2 ^ 16⟩, by decide, by decide, by decide, by decide, by decide⟩
theorem test_witness_TranslationAndFetch_line : ∃ (s s1 s2 : State) (x : Xlat) (r : List Byte × Bool), s.lineHeld ⟨0, some 0, some 0⟩ 0 = none
    ∧ Runs (Machine.translate ⟨0, some 0, some 0⟩ 0 .fetch) s x s1 ∧ Runs (physRead (s1.leafKeyRef x.leaf) (leafC x.leaf) 0 x.pa 64) s1 r s2
    ∧ r.2 = false ∧ x.leaf / 2 ^ 11 % 2 = 0 ∧ (s2.lineFill ⟨0, some 0, some 0⟩ 0 (bytesToWords r.1)).lineHeld ⟨0, some 0, some 0⟩ 0 = some (bytesToWords r.1) := ⟨lab [], _, _, ⟨0, 9⟩, _, by decide, rv (by decide), ra (by decide), by decide, by decide, by decide⟩
theorem test_witness_TranslationAndFetch_lost : ∃ (s s1 s2 : State) (x : Xlat) (r : List Byte × Bool), s.lineHeld ⟨0, some 0, some 0⟩ 0 = none
    ∧ Runs (Machine.translate ⟨0, some 0, some 0⟩ 0 .fetch) s x s1 ∧ Runs (physRead (s1.leafKeyRef x.leaf) (leafC x.leaf) 0 x.pa 64) s1 r s2 ∧ r.2 = true := ⟨(lab []).addPoison 0, _, _, ⟨0, 9⟩, _, by decide, rv (by decide), ra (by decide), by decide⟩

/-! ### Control flow, SYS, control registers, predicates -/

/-- A line of compute owner with these words and no NEXT. -/
def aLine (ws : List Nat) : List Nat := (2 ^ 29 + ws.length * 2 ^ 25) :: ws ++ List.replicate (15 - ws.length) 0

theorem test_witness_BranchJumpLoopResult : ∃ (s s1 : State) (g : Group) (k : Role), Acts s g k ∧ ((68 : Nat) : Int) = (k.pc.toNat / 64 * 64 : Nat) + 64 * (1 : BitVec 7).toInt + 4 * 1
    ∧ Taken [5, 6] [] s [-1, 0] s1 ∧ Taken [7] [] s [0] s1 :=
  ⟨lab [(5, -1)], lab [(5, -1)], _, _, ac (by decide), by decide, rv (by decide), rv (by decide)⟩
theorem test_witness_BranchJumpLoopResult_jump : ∃ (s s1 s2 : State) (g : Group) (k : Role) (link : Word), Acts s g k
    ∧ link = BitVec.ofNat 64 ((nextPc k.line k.pc.toNat 1).getD (k.pc.toNat + 4)) ∧ Taken [] [7] s [] s1 ∧ Taken [5] [7] s [0x8C] s1 ∧ Gives 7 link s1 s2 :=
  ⟨lab [(5, 0x8C)] (aLine [0]), _, _, _, _, 8, ac (by decide), by decide, rv (by decide), rv (by decide), rv (by decide)⟩
theorem test_witness_BranchJumpLoopResult_target : ∃ (s s1 : State), Taken [5] [7] s [0x80000000000000] s1 ∧ Taken [6] [7] s [0x7FFFFFFFFFFFFE] s1 :=
  ⟨lab [(5, 0x80000000000000), (6, 0x7FFFFFFFFFFFFE)], _, rv (by decide), rv (by decide)⟩
theorem test_witness_BranchJumpLoopResult_loop : ∃ (s : State) (g : Group) (k : Role), Acts s g k ∧ (55 : SReg).isPort = false ∧ (60 : SReg).isPort = true
    ∧ k.reg 55 ≠ 0 ∧ nextPc k.line k.pc.toNat 1 = some 8 :=
  ⟨lab [(55, 1)] (aLine [0, 0]), _, _, ac (by decide), by decide, by decide, by decide, by decide⟩
theorem test_witness_BranchJumpLoopResult_loopZero : ∃ (s s1 : State) (g : Group) (k : Role) (ws : List Nat), Acts s g k ∧ k.reg 5 = 0
    ∧ Runs (fetchLine (s.self g) 0) s ws s1 ∧ lineIllegal ws = false ∧ wordLegal ws 2 = true :=
  ⟨(State.reset.placeWords [0, 0]).onRole who fun k => k, _, _, _, aLine [0, 0] , ac (by decide), by decide, rv (by decide), by decide, by decide⟩
/-- A role at address 4 whose innermost loop body ends there, with count n in s5. -/
def inLoop (n : Word) (line : List Nat) : Role :=
  let k := (grp (lab [(5, n)] line)).role .compute
  { k with loops := [⟨4, 4, 5⟩] }
theorem test_witness_RoleFlow : ∃ (k : Role) (e : LoopEntry), k.pc.toNat % 64 / 4 + 1 ≤ k.line.headD 0 / 2 ^ 25 % 16 ∧ k.loops = [e] ∧ e.stop = k.pc ∧ e.count ≠ 0 ∧ k.reg e.count ≠ 1 :=
  ⟨inLoop 2 (aLine [0, 0]), ⟨4, 4, 5⟩, by decide, by decide, by decide, by decide, by decide⟩
theorem test_witness_RoleFlow_last : ∃ (k : Role) (e : LoopEntry), k.line.headD 0 / 2 ^ 25 % 16 < k.pc.toNat % 64 / 4 + 1 ∧ k.line.headD 0 % 2 ^ 25 ≠ 0 ∧ k.loops = [e] ∧ e.stop = k.pc ∧ k.reg e.count = 1
    ∧ ((64 : Nat) : Int) = (k.pc.toNat / 64 * 64 : Nat) + 64 * (BitVec.ofNat 25 (k.line.headD 0)).toInt :=
  ⟨inLoop 1 ((2 ^ 29 + 2 ^ 25 + 1 : Nat) :: List.replicate 15 0), ⟨4, 4, 5⟩, by decide, by decide, by decide, by decide, by decide, by decide⟩
theorem test_witness_RoleFlow_arrival : ∃ (s : State) (g : Group) (k : Role), Acts s g k ∧ k.line = aLine [0] ∧ k.pc.toNat = 4 ∧ k.line.headD 0 / 2 ^ 29 % 8 = 1
    ∧ k.line.headD 0 / 2 ^ 25 % 16 = 1 ∧ (∀ w ∈ k.line.drop 2, w = 0) ∧ wordLegal k.line 1 = true ∧ k.chained = false :=
  ⟨lab [] (aLine [0]), _, _, ac (by decide), by decide, by decide, by decide, by decide, by decide, by decide, by decide⟩
theorem test_witness_SystemInstructionResult : ∃ (s s1 : State) (g : Group) (k : Role), Acts s g k ∧ Taken [] [7] s [] s ∧ Gives 7 s.cycle s s1
    ∧ s.resultsPending s.cur = false ∧ g.flags &&& g.tfctl = 0 := ⟨lab [], _, _, _, ac (by decide), rv (by decide), rv (by decide), by decide, by decide⟩
theorem test_witness_SystemInstructionResult_trap : ∃ (s : State) (g : Group) (k : Role), Acts s g k ∧ s.resultsPending s.cur = false ∧ g.flags &&& g.tfctl = 8 :=
  ⟨(lab []).onGroup 0 0 fun g => { g with flags := 9, tfctl := 8 }, _, _, ac (by decide), by decide, by decide⟩
theorem test_witness_ControlRegisters : ∃ (s s1 s2 : State) (g : Group) (k : Role), Acts s g k ∧ Taken [] [7] s [] s1 ∧ Acts s1 g k ∧ csrAssigned 0x010 = true
    ∧ csrAssigned 0x01F = false ∧ Gives 7 (s1.csrRead s1.cur g k 0x010) s1 s2 ∧ (s.ctx g.ctx).desc.sys = true :=
  ⟨lab [], lab [], _, _, _, ac (by decide), rv (by decide), ac (by decide), by decide, by decide, rv (by decide), by decide⟩
theorem test_witness_ControlRegisters_write : ∃ (s s1 s2 : State) (g : Group) (k : Role), Acts s g k ∧ Taken [5] [] s [0x7F] s1 ∧ Acts s1 g k ∧ (0x7F : Word).getLsbD 0 = true
    ∧ csrAssigned 0x1020 = true ∧ sysRwMask 0x1020 ≠ 0 ∧ sysWrite (.role s1.cur) 0x1020 3 s1 = .next s2 :=
  ⟨lab [(5, 0x7F)], lab [(5, 0x7F)], nextOf (sysWrite (.role who) 0x1020 3 (lab [(5, 0x7F)])) (lab []), _, _, ac (by decide), rv (by decide), ac (by decide), by decide, by decide, by decide, rfl⟩
theorem test_witness_ControlRegisters_user : ∃ (s : State) (g : Group) (k : Role), Acts s g k ∧ csrAssigned 0x1000 = true ∧ (s.ctx g.ctx).desc.sys = false :=
  ⟨(lab []).onCtx 0 fun c => { c with desc := { c.desc with sys := false } }, _, _, ac (by decide), by decide, by decide⟩
theorem test_witness_FaultTaken : ∃ (s : State) (g : Group), s.group 0 0 = some g := ⟨lab [], _, (ac (by decide)).1⟩
theorem test_witness_FaultTaken_held : let s := lab []
    let header := memReadBytes ⟨0, none, none⟩ ((s.ctx 0).desc.faultq.toNat % 2 ^ 55) 64 .queue
    (s.ctx 0).faultHeld.length < 64 ∧ Raises header s { code := 6, va := 0 } none
    ∧ Raises header (s.onCtx 0 fun c => { c with faultHeld := c.faultHeld ++ [[1]] }) { code := 6, va := 0 } none :=
  ⟨by decide, rfl, rfl⟩
theorem test_witness_PredicateResult : ∃ (s s2 : State) (g : Group) (k : Role), Acts s g k ∧ Taken [5] [] s [1537] s ∧ Taken [] [] s [] s ∧ Taken [] [7] s [] s ∧ Gives 7 1536 s s2 :=
  ⟨lab [(5, 1537)], _, _, _, ac (by decide), rv (by decide), rv (by decide), rv (by decide), rv (by decide)⟩

/-! ### Vector instructions and arithmetic -/

/-- The operands of a vector instruction on one register group of i32, under predicate k1. -/
def vop (b : BSrc) (z : Bool := true) : VOp := ⟨1, 1, .rne, z, 2, 4, .i32, .i32, b⟩
/-- The laboratory with k1 covering n elements of 32 bits. -/
def vlab (n : Nat) (regs : List (SReg × Word) := []) : State :=
  (lab regs).onGroup 0 0 fun g => { g with preds := vset g.preds 1 ⟨n, .w32⟩ }

theorem ve {o : VOp} {e : Flags} {rs : List (Nat × Flags)} {s : State}
    (h : answers (do vecWriteBack o rs; reportVector o.d.val o.ty o.ty.code o.ty.code e rs) s () = true) :
    VecEnds o e rs s (stateAfter (do vecWriteBack o rs; reportVector o.d.val o.ty o.ty.code o.ty.code e rs) s) := rv h
theorem test_witness_VectorElementwise : ∃ (s s2 : State) (g : Group) (k : Role) (fields : List (Nat × Nat)) (rs : List (Nat × Flags)),
    fields = ((vop (.reg 6)).d.val, (vop (.reg 6)).len.val) :: ((vop (.reg 6)).a.val, (vop (.reg 6)).len.val) :: vecBRows (vop (.reg 6)) ∧ Acts s g k ∧ RowsFit g fields
    ∧ Taken (vecScalars (vop (.reg 6))) [] s [] s ∧ RowsQuiet s g fields ∧ Runs (vecBVals (vop (.reg 6)) [] false) s (List.replicate 64 0, 0, List.replicate 64 0) s
    ∧ rs.length = activeCount g 1 32 (vecLen (vop (.reg 6))) ∧ rs.length = 2
    ∧ (∀ j < rs.length, rs[j]? = some (elemOp .add .i32 .rne ((s.lanes g 4 64 .i32).getD j 0) 0 ((s.lanes g 2 64 .i32).getD j 0) 0))
    ∧ VecEnds (vop (.reg 6)) 0 rs s s2 :=
  ⟨vlab 2, _, _, _, [(2, 1), (4, 1), (6, 1)], [(0, 0), (0, 0)], by decide, ac (by decide), by unfold RowsFit; decide, rv (by decide),
    by unfold RowsQuiet; decide, rv (by decide), by decide, by decide, by decide, ve (by decide +kernel)⟩
theorem test_witness_VectorElementwise_unary : ∃ (s s2 : State) (g : Group) (k : Role), Acts s g k ∧ RowsFit g [(2, 1), (4, 1)] ∧ RowsQuiet s g [(2, 1), (4, 1)]
    ∧ 1 = activeCount g 1 32 64 ∧ VecEnds (vop (.imm 0)) 0 (((s.lanes g 4 64 .i32).take 1).map fun x => elemOp .abs .i32 .rne x 0 0 0) s s2 :=
  ⟨vlab 1, _, _, _, ac (by decide), by unfold RowsFit; decide, by unfold RowsQuiet; decide, by decide, ve (by decide +kernel)⟩
theorem test_witness_VectorRearranging : ∃ (s s2 : State) (g : Group) (k : Role), Acts s g k ∧ Taken [] [] s [] s ∧ RowsFit g [(2, 1), (4, 1)] ∧ RowsQuiet s g [(2, 1), (4, 1)]
    ∧ Runs (do writeElems 2 0 .i32 [(sumOf .i32 .rne ((s.lanes g 4 64 .i32).take 2)).1]; reportVector 2 .i32 8 8 0 [sumOf .i32 .rne ((s.lanes g 4 64 .i32).take 2)]) s () s2 :=
  ⟨vlab 2, _, _, _, ac (by decide), rv (by decide), by unfold RowsFit; decide, by unfold RowsQuiet; decide, rv (by decide)⟩
theorem test_witness_VectorRearranging_scalar : ∃ (s s2 : State) (g : Group) (k : Role), Acts s g k ∧ Taken (vecScalars (vop (.scalar 5))) [] s [9] s ∧ RowsFit g [(2, 1)] ∧ RowsQuiet s g [(2, 1)]
    ∧ VecEnds (vop (.scalar 5)) 0 (List.replicate 2 (ElemTy.i32.pattern 9, 0)) s s2 :=
  ⟨vlab 2 [(5, 9)], _, _, _, ac (by decide), rv (by decide), by unfold RowsFit; decide, by unfold RowsQuiet; decide, ve (by decide +kernel)⟩
theorem test_witness_VectorRegisterRules : ∃ (s : State) (g : Group) (k : Role), Acts s g k ∧ g.rows = 48 ∧ g.rows < 47 + 2 ∧ g.rows ≤ 48 ∧ 4 + 1 ≤ g.rows :=
  ⟨(lab []).onGroup 0 0 fun g => { g with rows := 48 }, _, _, ac (by decide), by decide, by decide, by decide, by decide⟩
theorem test_witness_VectorRegisterRules_lanes : ∃ (s t : State) (g : Group) (k : Role), Acts s g k ∧ s.MemOk ∧ [((7 : Nat), (0 : Flags))].length ≤ vecLen (vop (.imm 0) false)
    ∧ s.poison = [] ∧ Runs (vecWriteBack (vop (.imm 0) false) [(7, 0)]) s () t :=
  ⟨vlab 1, _, _, _, ac (by decide), mo (by decide), by decide, by decide, rv (by decide)⟩
theorem test_witness_RepresentableValues : (0x7BFF : Nat) < 2 ^ ElemTy.f16.valueBits ∧ (ElemTy.f16.decode 0x7BFF).isNan = false ∧ (0x8000 : Nat) < 2 ^ ElemTy.f16.valueBits
    ∧ (ElemTy.f16.decode 0x8000).isNan = false := by decide
theorem test_witness_IntegerSaturation : (ElemTy.i8.isInt = true ∧ 0x80 < 2 ^ ElemTy.i8.valueBits ∧ 0xFF < 2 ^ ElemTy.i8.valueBits ∧ ElemTy.i8.isI = true)
    ∧ ElemTy.n32.isInt = true ∧ 0xFFFFFFFF < 2 ^ ElemTy.n32.valueBits ∧ ElemTy.n32.isI = false := by decide
theorem test_witness_ResidueReconstruction : ([2048, -2048] : List Int).length = ([2048, 1] : List Int).length ∧ (∀ q ∈ ([2048, -2048] : List Int), q.natAbs ≤ 2048)
    ∧ (∀ q ∈ ([2048, 1] : List Int), q.natAbs ≤ 2048) ∧ (([1, 2] : List Int).zip [3, 4]).Perm (([2, 1] : List Int).zip [4, 3]) := by decide
theorem test_witness_ResidueReconstruction_lines :
    (alignLine (.elem .bf16) [.fin false 3 0] [true]).nan = false
    ∧ ∀ v ∈ (alignLine (.elem .bf16) [.fin false 3 0] [true]).vals ++ (alignLine (.elem .bf16) [.fin true 5 1] [true]).vals,
      ∃ neg m e, v = .fin neg m e := by
  refine ⟨by decide, ?_⟩
  intro v h
  simp [alignLine] at h
  rcases h with rfl | rfl <;> exact ⟨_, _, _, rfl⟩

/-! ### Generators and vector memory -/

/-- A generator over n elements of a format at a base, one after the other. -/
def genWord (base n code : Nat) : BitVec 512 := BitVec.ofNat 512 (base + 2 ^ 64 * n + 2 ^ 96 + 2 ^ 128 + 2 ^ 160 + 2 ^ 192 + 2 ^ 416 * code)
/-- The laboratory with generator r3 and predicate k1 over m elements of 32 bits. -/
def glab (w : BitVec 512) (m : Nat) (regs : List (SReg × Word) := []) : State :=
  (vlab m regs).onGroup 0 0 fun g => { g with gens := vset g.gens 3 w }
/-- The operands of a vector memory instruction of one register of i32 through r3. -/
def vmop (imm : BitVec 15) : VMOp := ⟨1, 1, 3, .i32, 2, 5, imm⟩

theorem test_witness_Generators : ∃ g : Gen, g.sizes = [2, 1, 1, 3] ∧ g.strides = [1, 0, 0, 2] ∧ g.wb = 4 := ⟨⟨0, [2, 1, 1, 3], [1, 0, 0, 2], 0, 0, 14, 0, true⟩, by decide⟩
theorem test_witness_Generators_wide : ∃ g : Gen, g.sizes = [2, 1, 1, 3] ∧ g.strides = [1, 0, 0, -2] ∧ g.wb % 8 = 0 := ⟨⟨0, [2, 1, 1, 3], [1, 0, 0, -2], 0, 0, 0, 0, true⟩, by decide⟩
theorem test_witness_Generators_move : ∃ (s s2 s3 : State) (g : Group) (k : Role), Taken [5] [] s [sp 0] s ∧ Acts s g k ∧ (sp 0).toNat / 2 ^ 60 ≤ 1 ∧ (sp 0).toNat % 64 = 0
    ∧ Runs (memReadBytes (s.self g) (sp 0).toNat 64) s (List.replicate 64 0) s2 ∧ s2.cur = s.cur ∧ NoAlias s g [((sp 0).toNat, (sp 0).toNat + 63)]
    ∧ Runs (memWriteBytes (s.self g) (sp 0).toNat (leBytes 64 (g.gens.get 3).toNat)) s () s3 :=
  ⟨lab [(5, sp 0)], _, _, _, _, rv (by decide), ac (by decide), by decide, by decide, rv (by decide), by decide, na (by decide), rv (by decide)⟩
theorem test_witness_Generators_advance : ∃ (s : State) (g : Group) (k : Role), Taken [5] [] s [1] s ∧ Acts s g k
    ∧ (Walk4.ofBits (g.gens.get 3)).valid = true ∧ (1 : Word).toInt * (Walk4.ofBits (g.gens.get 3)).stride 0 * (Walk4.ofBits (g.gens.get 3)).wb % 8 = 0
    ∧ (Walk4.ofBits (g.gens.get 3)).scaled = false ∧ (Walk4.ofBits (g.gens.get 4)).valid = false :=
  ⟨glab (genWord (2 ^ 60) 4 6) 1 [(5, 1)], _, _, rv (by decide), ac (by decide), by decide, by decide, by decide, by decide⟩
theorem test_witness_VectorMemory : ∃ (s s2 s3 s4 : State) (g : Group) (k : Role), Acts s g k ∧ RowsFit g [(2, 1)] ∧ Taken [5] [] s [0] s
    ∧ (Walk4.ofBits (g.gens.get 3)).valid = true ∧ vmActive g (vmop 0) = 1 ∧ (Walk4.ofBits (g.gens.get 3)).code = ElemTy.i32.code
    ∧ Runs (checkElems (Walk4.ofBits (g.gens.get 3)) [0]) s () s ∧ RowsQuiet s g [(2, 1)] ∧ Runs ([(0 : Int)].mapM fun e => (Walk4.ofBits (g.gens.get 3)).read (s.self g) e.toNat) s [0] s2
    ∧ Runs (writeElems 2 0 .i32 ([0].map (loadLane .i32 6))) s2 () s3 ∧ NoAlias s g (elemBytes (Walk4.ofBits (g.gens.get 3)) [0])
    ∧ Runs (([(0 : Int)].zip [((0 : Nat), (0 : Flags))]).forM fun p => (Walk4.ofBits (g.gens.get 3)).write (s.self g) p.1.toNat p.2.1) s () s4 :=
  ⟨glab (genWord (2 ^ 60) 4 6) 1, glab (genWord (2 ^ 60) 4 6) 1, _, _, _, _, ac (by decide), by unfold RowsFit; decide, rv (by decide), by decide, by decide, by decide, rv (by decide),
    by unfold RowsQuiet; decide, rv (by decide), rv (by decide), na (by decide), rv (by decide)⟩
theorem test_witness_VectorMemory_outside : ∃ (g : Group) (k : Role), Acts (glab (genWord (2 ^ 60) 4 6) 1 [(5, 4)]) g k ∧ ((Walk4.ofBits (g.gens.get 3)).count : Int) ≤ 4 :=
  ⟨_, _, ac (by decide), by decide⟩
theorem test_witness_VectorMemory_pack : ∃ (s s2 : State) (g : Group) (k : Role), Acts s g k ∧ Taken [5] [] s [8] s ∧ (2 ^ 60 + 8 : Nat) = ((Walk4.ofBits (g.gens.get 3)).base + 8) % 2 ^ 64
    ∧ (s.lanes g 2 1 .i32) = [0] ∧ (vmop 16).imm.toNat = 8 + 8 * ((1 + 63) / 64) + ([0].filter (· != 0)).length * 4
    ∧ Runs (writeRun (s.self g) (2 ^ 60 + 8) (leBytes 2 1 ++ leBytes 2 0 ++ leBytes 4 16 ++ leBytes 8 (maskOf [0]))) s () s2 :=
  ⟨glab (genWord (2 ^ 60) 4 6) 1 [(5, 8)], _, _, _, ac (by decide), rv (by decide), by decide, by decide, by decide, rv (by decide)⟩
theorem test_witness_VectorMemory_unpack : ∃ (s s2 s3 s4 : State) (g : Group) (k : Role), Acts s g k ∧ Runs (readRun (s.self g) (2 ^ 60 + 8) 8) s (leBytes 2 1 ++ leBytes 2 1 ++ leBytes 4 20) s2
    ∧ Runs (readRun (s.self g) (2 ^ 60 + 16) 12) s2 (leBytes 8 1 ++ leBytes 4 7) s3 ∧ s3.cur = s.cur ∧ onesOf 1 1 = 1
    ∧ Runs (writeElems 2 0 .i32 (((unpack 1 1 (lanesOf 4 1 (leBytes 4 7)) ++ List.replicate 63 0).take 1).map fun v => v % 2 ^ 32)) s3 () s4 :=
  ⟨stateAfter (memWriteBytes ⟨0, some 0, some 0⟩ (2 ^ 60 + 8) (leBytes 2 1 ++ leBytes 2 1 ++ leBytes 4 20 ++ leBytes 8 1 ++ leBytes 4 7)) (glab (genWord (2 ^ 60) 4 6) 1 [(5, 8)]),
    _, _, _, _, _, ac (by decide), rv (by decide), rv (by decide), by decide, by decide, rv (by decide)⟩

/-! ### Queues, barriers and matrices; `follows` joins steps: each body runs, and what comes after holds -/

/-- A body runs to its end, and its value and state pass a check. -/
def follows {α : Type} (x : X α) (s : State) (p : α → State → Bool) : Bool :=
  match x s with
  | .ok q => p q.1 q.2
  | .error _ => false
theorem follows_iff {α : Type} {x : X α} {s : State} {p : α → State → Bool} :
    follows x s p = true ↔ ∃ a t, Runs x s a t ∧ p a t = true := by
  unfold follows Runs
  cases x s with
  | ok q => exact ⟨fun h => ⟨q.1, q.2, rfl, h⟩, fun ⟨_, _, h, hp⟩ => by cases h; exact hp⟩
  | error e => exact ⟨fun h => (by cases h), fun ⟨_, _, h, _⟩ => (by cases h)⟩
/-- The body of Taken. -/
def takes (srcs dsts : List SReg) : X (List Word) := do checkMisuse srcs dsts; checkRoom dsts; readSrcs srcs
/-- A body that gives a value runs. -/
def gives (d : SReg) (v : Word) (s : State) : Bool := ends (writeDst d v) s
/-- A page of data with some bytes in it. -/
def dataLab' (kind : Nat) (regs : List (SReg × Word)) (at_ : Nat) (bs : List Byte) : State :=
  let s := (lab regs).onCore 0 fun k => { k with tlb := ⟨0, 1, false, 1 + 2 + 4 + kind * 2 ^ 8 + 2 ^ 16⟩ :: k.tlb }
  { s with mem := memWrite s.opened s.mem at_ bs }
/-- A group in the slot of the laboratory. -/
def inGroup (s : State) (f : Group → Group) : State := s.onGroup 0 0 f
/-- Some registers are allocated, quiet. -/
def rowsReady (s : State) (fields : List (Nat × Nat)) : Bool :=
  fields.all (fun f => f.2 == 0 || decide (f.1 + f.2 ≤ (grp s).rows)) && !s.resultsPending s.cur
    && fields.all fun f => !s.boardHits (s.self (grp s)) (rowPtr s.cur.core f.1) (f.2 * 256)

theorem test_witness_Queues : consumer 1 = .compute ∧ producer 2 = .compute ∧ (6 : PortName).val = 4 + 2 ∧ (5 : PortName).val = 4 + 1
    ∧ follows (takes [5] [7]) (lab [(5, 3)]) (fun vs s => vs == [3] && gives 7 1 s && (grp s).roleq.get 2 == []) = true := by decide +kernel
theorem test_witness_Queues_full : (((grp (inGroup (lab []) fun g => { g with roleq := vset g.roleq 2 (List.replicate 16 0) })).roleq.get 2).length = 16) := by decide
/-- The header of a bounded queue of capacity 2 with its entries at 0x10100. -/
def bindHeader : List Byte := leBytes 8 0x10100 ++ leBytes 4 2
theorem test_witness_Queues_create : let s := dataLab' 0 [(5, 0x4000000000010000)] 0x10000 bindHeader
    follows (takes [5] [7]) s (fun vs s1 => vs == [0x4000000000010000]
      && follows (memReadBytes (s1.self (grp s1)).part 0x10000 64 .queue) s1 fun h s2 => (s2.ctx 0).bindq 0x10000 == none
        && parseBindq 0x10000 0 h == some ⟨0x10000, 0, 0x10100, 2, 0, 0, 0, 0, 0⟩ && decide ((s2.ctx 0).bindqs.length < 64) && gives 7 1 s2) = true := by decide +kernel
theorem test_witness_Queues_live : let b : BindQ := ⟨0x10000, 0, 0x10100, 2, 0, 0, 0, 0, 0⟩
    let s := (dataLab' 0 [(5, 0x4000000000010000)] 0x10000 bindHeader).onCtx 0 fun c => { c with bindqs := [b] }
    follows (takes [5] [7]) s (fun vs s1 => vs == [0x4000000000010000] && (s1.ctx 0).bindq 0x10000 == some b && inInstance b.scope b.home s1.cur.core
      && follows (memReadBytes (s1.self (grp s1)).part 0x10000 64 .queue) s1 fun _ s2 => (s2.ctx 0).bindq 0x10000 == some b
        && !((s2.groupsOf 0).any fun y => y.2.2.roles.toList.any fun z => z.boundTo 0x10000 none)
        && follows (bindqBack (s1.self (grp s1)) b) s2 fun _ s3 => gives 7 1 s3) = true := by decide +kernel
/-- The barrier laboratory: barrier 3 of core 0, of generation 1, counts to n. -/
def barLab (n : Nat) : State :=
  (lab [(5, 3 + 2 ^ 18), (6, 2), (8, 2 ^ 16 + 1)]).onCore 0 fun c => { c with bars := vset c.bars 3 ⟨1, n, 0, 0, 3⟩ }
theorem test_witness_BarrierResult : ∃ bar : Barrier, follows (takes [5, 6] [7]) (barLab 2) (fun vs s1 => vs == [3 + 2 ^ 18, 2]
    && follows (checkBar (3 + 2 ^ 18)) s1 fun b _ => b == bar && gives 7 3 s1) = true ∧ bar.arrived + 1 ≠ bar.count ∧ (bar.phase - 2).toNat = 1 :=
  ⟨⟨1, 2, 0, 0, 3⟩, by decide +kernel⟩
theorem test_witness_BarrierResult_last : ∃ bar : Barrier, follows (takes [5] [7]) (barLab 1) (fun vs s1 => vs == [3 + 2 ^ 18]
    && follows (checkBar (3 + 2 ^ 18)) s1 fun b _ => b == bar && gives 7 3 s1) = true ∧ bar.arrived + 1 = bar.count := ⟨⟨1, 1, 0, 0, 3⟩, by decide +kernel⟩
theorem test_witness_BarrierResult_init : follows (takes [9, 8] [7]) (barLab 1) (fun vs s1 => vs == [0, 2 ^ 16 + 1]
    && (grp s1).bars[0]? == some 0 && gives 7 0 s1) = true := by decide +kernel
/-- The header of a notification queue of two records, with its LOCK. -/
def notifyHeader (head tail lock : Nat) : List Byte := leBytes 8 lock ++ leBytes 8 head ++ leBytes 8 tail ++ leBytes 8 0x10200 ++ leBytes 4 2
/-- The laboratory with that header in a shared region of the pool, at virtual address 0x10000. The region begins before the pool, so that its
lines have no MAC: what is open cannot be evaluated. -/
def noteLab (regs : List (SReg × Word)) (head tail : Nat) (lock : Nat := 0) : State :=
  let s := (lab regs).onCore 0 fun k => { k with tlb := ⟨0, 1, false, 1 + 2 + 4 + 2 ^ 8 + 2 ^ 44⟩ :: k.tlb }
  { s with mem := memWrite s.opened s.mem (2 ^ 44) (notifyHeader head tail lock)
           regions := vset s.regions 0 (some ⟨2 ^ 44 - 2 ^ 16, 2 ^ 17, 1, 0, 0, 0, 0, 0, false⟩)
           extents := [⟨1, 2 ^ 44, 2 ^ 21, .granted⟩] }
theorem test_witness_NotifyQueueResult : let s := noteLab [(5, 0x4080000000010000), (6, sp 0)] 0 1
    follows (takes [5, 6] [7]) s (fun vs s1 => vs == [0x4080000000010000, sp 0] && follows (openNotify (s1.self (grp s1)) 0x4080000000010000 (sp 0).toNat) s1
      fun n s2 => n == ⟨0x10000, 0, 0, 1, 0x10200, 2⟩ && s2.cur == s1.cur && ((grp s2).role .compute).heldRec.isNone
        && (follows (checkRing (s1.self (grp s1)) n 1) s2 fun _ s3 => follows (memReadBytes (s1.self (grp s1)) (sp 0).toNat 64) s3 fun bs s4 =>
          !s4.resultsPending s4.cur && follows (memWriteNat (s1.self (grp s1)).part n.va 8 (s4.encProc.toNat + 1) .atomic) s4 fun _ s5 =>
          follows (memWriteBytes (s1.self (grp s1)).part (n.base + 64 * 1) bs .atomic) s5 fun _ s6 =>
          follows (memWriteNat (s1.self (grp s1)).part (n.base + 64 * 2 + 2) 2 0 .atomic) s6 fun _ s7 =>
          follows (memWriteNat (s1.self (grp s1)).part (n.va + 16) 8 2 .atomic) s7 fun _ s8 =>
          follows (memWriteNat (s1.self (grp s1)).part n.va 8 0 .atomic) s8 fun _ s9 => gives 7 2 s9)
        && (follows (checkRing (s1.self (grp s1)) n 0) s2 fun _ s3 => follows (memWriteNat (s1.self (grp s1)).part n.va 8 (s3.encProc.toNat + 1) .atomic) s3 fun _ s4 =>
          follows (resolve (s1.self (grp s1)).part n.base 64 .atomic) s4 fun pl s5 => follows (readPlace n.base 64 pl) s5 fun r s6 =>
          follows (memReadNat (s1.self (grp s1)).part (n.base + 128) 2 .atomic) s6 fun p s7 =>
          follows (memWriteNat (s1.self (grp s1)).part (n.va + 8) 8 1 .atomic) s7 fun _ s8 =>
          follows (memWriteNat (s1.self (grp s1)).part n.va 8 0 .atomic) s8 fun _ s9 => follows (acquireRoot .enclosure n.va) s9 fun _ t => !(t.ctx 0).desc.replay
            && follows (do logAppend 0 2 (some s1.cur.core) 0x4080000000010000 (p + 0); putRecord 7 (sp 0).toNat r.1 1 r.2) t fun _ _ => true)) = true := by decide +kernel
theorem test_witness_NotifyQueueResult_locked : follows (openNotify ⟨0, some 0, some 0⟩ 0x4080000000010000 (sp 0).toNat)
    (noteLab [] 0 1 3) (fun n s2 => n.lock == 3 && s2.encProc == 0 && follows (checkRing ⟨0, some 0, some 0⟩ n 0) s2 fun _ _ => true) = true := by decide +kernel
theorem test_witness_NotifyQueueResult_full : follows (openNotify ⟨0, some 0, some 0⟩ 0x4080000000010000 (sp 0).toNat)
    (noteLab [] 5 7) (fun n _ => decide (n.cap ≤ n.tail - n.head)) = true := by decide +kernel
theorem test_witness_NotifyQueueResult_empty : follows (openNotify ⟨0, some 0, some 0⟩ 0x4080000000010000 (sp 0).toNat)
    (noteLab [] 7 7) (fun n s => n.head == n.tail && !(s.ctx 0).desc.replay) = true := by decide +kernel

/-- The operands of a matrix instruction: A through r3, the B descriptor in s5, tile at register 8. -/
def xop (ty : ElemTy := .bf16) : XOp := ⟨3, 4, 0, false, .rne, false, false, 8, 12, 5, ty⟩
/-- The operands of MMA and MMAC. -/
def mop : XOp := ⟨3, 0, 0, false, .rne, false, false, 8, 0, 5, .f32⟩
/-- A descriptor of B: format f, K = k, n columns. -/
def bDesc (f k n : Nat) : Word := BitVec.ofNat 64 (f + (k - 1) * 2 ^ 5 + n * 2 ^ 17)
/-- A generator of k by m elements in the scratchpad. -/
def genKM (k m code : Nat) : BitVec 512 :=
  BitVec.ofNat 512 (2 ^ 60 + 2 ^ 64 * k + 2 ^ 96 * m + 2 ^ 128 + 2 ^ 160 + 2 ^ 192 + 2 ^ 224 * k + 2 ^ 416 * code)
/-- The matrix laboratory. -/
def mlab (desc : Word) (code : Nat) : State := inGroup (lab [(5, desc)]) fun g => { g with gens := vset g.gens 3 (genKM 2 1 code) }
theorem test_witness_MatrixInstructions : follows (takes [5] []) (mlab (bDesc 1 2 3) 1) (fun vs s1 => vs == [bDesc 1 2 3]
    && follows (mmaShape ⟨0, 0, 0, (grp s1).rows, (grp s1).gens.get 3, (grp s1).gens.get 0⟩ mop (bDesc 1 2 3).toNat 128) s1 fun sh _ =>
      decide (8 + sh.m * ((sh.b.n + 63) / 64) ≤ (grp s1).rows)
      && follows (mmaOuts ⟨0, 0, 0, (grp s1).rows, (grp s1).gens.get 3, (grp s1).gens.get 0⟩ sh mop 0 sh.m) s1 fun _ s2 =>
        decide ((s2.core 0).array.length < 4)) = true := by decide +kernel
theorem test_witness_MatrixInstructions_refused : (Walk4.ofBits ((grp (mlab 0 13)).gens.get 3)).size 0 ≠ 1
    ∧ (Walk4.ofBits (0 : BitVec 512)).valid = false ∧ BOperand.ofWord 0 false = none ∧ matrixFmt 6 = false := by decide +kernel
theorem test_witness_MatrixResults : ∃ (e : ArrEntry) (g : Group), ((lab []).onCore 0 fun c => { c with array := [e] }).group 0 e.slot = some g ∧ e.copy = none
    ∧ g.order = e.order ∧ e.n ≤ e.outs.length ∧ e.n = 1 ∧ g.rows = 2048 :=
  ⟨⟨0, 0, .compute, 4, 8, 1, 1, true, true, .rne, 13, 13, [.sum 5 0], false, 0, 0, none⟩, grp (lab []), by decide +kernel⟩
theorem test_witness_TileRegisterInstructions : let s := mlab (bDesc 1 2 1) 1
    follows (takes [5] []) s (fun vs s1 => vs == [bDesc 1 2 1]
      && follows (bldShape 0 ((grp s1).gens.get 3) (xop) (bDesc 1 2 1).toNat) s1 fun r _ => ((List.range r.1.count).all fun e => (r.1.addr e).1 / 2 ^ 60 % 16 ≤ 1)
        && !r.1.scaled && ((List.range r.2.n).all fun j => !s1.boardHits (s1.self (grp s1)) (columnPtr 0 0 j) r.2.cb)
        && ((grp s1).tile.aliased 0 (bldRanges 0 0 r.2)).isEmpty && follows (bldRun (s1.self (grp s1)) 0 0 r.1 r.2) s1 fun _ _ => true) = true := by decide +kernel
theorem test_witness_TileRegisterInstructions_zacc : rowsReady (lab []) [((xop).d.val, (xop).e.val + 1 - (xop).d.val)] = true ∧ (xop).d ≤ (xop).e ∧ (xop).e.val < (grp (lab [])).rows := by decide +kernel
theorem test_witness_TileRegisterInstructions_acvt : let s := lab [(5, 1 + 2 * 2 ^ 8)]
    follows (takes [5] []) s (fun vs s1 => vs == [1 + 2 * 2 ^ 8] && rowsReady s1 [(12, 1), (8, 1)]
      && follows (writeElems 8 0 .bf16 ((((s1.lanes (grp s1) 12 2 .f32).map (convertElem .f32 .bf16 .rne))).map Prod.fst)) s1 fun _ s2 => s2.cur == s1.cur) = true := by decide +kernel
/-- A cluster of four cores whose groups stand at the same MMAC, each with its own descriptor. -/
def mmacLab (desc : Nat → Word) : State :=
  let g := fun (c : Nat) => ((grp (mlab (desc c) 1)).onRole .compute fun k => { k with line := aLine (encode (.mmac mop)) })
  [3, 2, 1, 0].foldl (fun s c => s.onCore (Fin.ofNat 128 c) fun k => { k with slots := vset k.slots 0 (some { g c with clustered := true }) }) (mlab (desc 0) 1)
/-- The parts of the four cores. -/
def mmacSides (own : MmacSide) : X (List MmacSide) := (List.range 4).mapM fun q => if q = 0 then pure own else mmacPartner who (grp (mmacLab fun _ => bDesc 1 2 3)) q
theorem test_witness_MatrixInstructions_mmac : let s := mmacLab fun _ => bDesc 1 2 3
    follows (takes [5] []) s (fun vs s1 => vs == [bDesc 1 2 3] && follows (mmacSide mop (bDesc 1 2 3).toNat) s1 fun own s2 => s2.cur == s1.cur
      && follows (mmacSides own) s2 fun sides s3 => mmacAgree sides && (sides.all fun y => (s3.core y.id.core).array.isEmpty)
        && follows (sides.mapM fun y => mmaOuts y.src y.shape y.op (128 * (y.id.core.val % 4 / 2)) y.rows) s3 fun outs s4 =>
          follows ((sides.zip outs).forM (mmacIssue s2.cur)) s4 fun _ _ => true) = true := by decide +kernel
theorem test_witness_MatrixInstructions_disagree : let s := mmacLab fun c => bDesc 1 2 (3 + c / 2)
    follows (mmacSide mop (bDesc 1 2 3).toNat) s (fun own s2 => follows ((List.range 4).mapM fun q => if q = 0 then pure own else mmacPartner who (grp s) q) s2 fun sides s3 =>
      !mmacAgree sides && sides.length == 4 && s3.cur == s.cur) = true := by decide +kernel

/-! ### Tiles, transfers, streams -/

/-- The state after an instruction. -/
def after (i : Instr) (s : State) : State := nextOf (exec i s) s
/-- The place of the laboratory's group. -/
def hm : Home := { core := 0, slot := 0 }
/-- The operands of TLOAD of two f32 elements, read through r3, to h1, and of instructions on h1. -/
def top (x : TSrc) (t : SReg := 0) (s : SReg := 0) : TOp := ⟨1, x, .gen 0, .gen 0, 0, .f32, .rne, s, t⟩
/-- A laboratory whose handle h1 names a node. -/
def tlab (regs : List (SReg × Word) := []) : State :=
  after (.tload (top (.gen 3))) (inGroup (dataLab' 0 regs 0x10000 [0, 0, 0x80, 0x3F]) fun g => { g with gens := vset g.gens 3 (genWord 0x10000 2 0) })
/-- The node that h1 names. -/
def tnode (regs : List (SReg × Word) := []) : Nat × Node :=
  ((grp (tlab regs)).named 1).getD (0, ⟨0, 0, .f32, .rne, .pending, 0, 0, [], [], [], [], 0⟩)
theorem test_witness_TileAppends : let o := top (.gen 3)
    follows (takes [] []) (inGroup (dataLab' 0 [] 0x10000 []) fun g => { g with gens := vset g.gens 3 (genWord 0x10000 2 0) }) (fun vs s1 => vs == [] && copyFmt (Walk4.ofBits ((grp s1).gens.get 3)).code
      && follows (appendNode o 0 0 .f32 .rne [.gen ((grp s1).gens.get 3), .none, .none] false vs (sameSpec (.gen ((grp s1).gens.get 3)) [idMap, 0, 0]) fun _ => pure ()) s1 fun _ _ => true) = true := by decide +kernel
theorem test_witness_TileAppends_unary : ∃ (n : Nat) (d : Node), (grp (tlab)).named 1 = some (n, d) ∧ d.ty = .f32 ∧ tewTyOk 0x1F .f32 = true ∧ tewBinary 0x1F = false ∧ tewTernary 0x1F = false
    ∧ (grp (tlab)).tile.handles.get 2 = none ∧ (grp (tlab)).tile.appends < 2 ^ 32 - 1 :=
  ⟨(tnode).1, (tnode).2, by decide +kernel⟩
theorem test_witness_TileAppends_product : follows (do let a ← matSource (.node 0); let f ← srcFmt { core := 0, slot := 0 } (.node 0); pure (a, f)) tlab (fun r _ => r.1)
    = true ∧ (grp tlab).source (.handle 1) = some (.node 0) := by decide +kernel
theorem test_witness_TileDemandsAndStatus : follows (takes [] [7]) (tlab) (fun vs s1 => (match (grp s1).named 1 with
    | none => false
    | some (n, d) => follows (boxOperand (top (.gen 3) 7) vs d) s1 fun b s2 => d.boxes == [] && follows (demand hm n b) s2 fun x s3 =>
      follows (do onTile hm fun t => t.pin 1 n x.seq; if b = d.full && d.state != .full then onTile hm fun t => t.makeFull n else pure ()) s3 fun _ s4 =>
        (s4.group 0 0).isSome && gives 7 (BitVec.ofNat 64 (2 ^ 60 + (grp s4).unitBase * 2 ^ 16 + x.off)) s4)) = true := by decide +kernel
theorem test_witness_TileDemandsAndStatus_store : follows (takes [] []) (inGroup (tlab) fun g => { g with gens := vset g.gens 5 (genWord 0x10400 2 0) }) (fun vs s1 => (match (grp s1).named 1 with
    | none => false
    | some (n, d) => follows (boxOperand (top (.gen 5)) vs d) s1 fun b s2 =>
      let w := Walk4.ofBits ((grp s1).gens.get 5)
      s2.cur == s1.cur && w.valid && copyFmt w.code && w.count == volume b.ext && w.code == d.ty.code && follows (demand hm n b) s2 fun x s3 => follows (liveNode hm n) s3 fun dn _ =>
      follows ((List.range (volume b.ext)).mapM fun i => boxRead hm dn x (plus b.org (unflat b.ext i))) s3 fun xs s4 => s4.cur == s1.cur && (grp s4).ctx == 0
        && follows (commandRoom 0 false) s4 (fun _ _ => true) && follows (aliasCheck hm [w.range]) s4 fun _ s5 => !s5.boardHits (s1.self (grp s1)) w.range.1 (w.range.2 + 1 - w.range.1)
          && follows (do writesInOrder (tstSteps (s1.self (grp s1)) w d.ty .rne xs); takeIds hm) s5 fun _ _ => true)) = true := by decide +kernel
theorem test_witness_TileDemandsAndStatus_policy : follows (takes [5] [7]) (tlab [(5, BitVec.ofNat 64 (2 ^ 4 + 15 * 2 ^ 8 + 1984 * 2 ^ 13))]) (fun vs s1 =>
    vs.map BitVec.toNat == [2 ^ 4 + 15 * 2 ^ 8 + 1984 * 2 ^ 13] && decide (1984 + 64 ≤ (grp s1).rows) && follows (aliasCheck hm (policySlabs 0 (2 ^ 4 + 15 * 2 ^ 8 + 1984 * 2 ^ 13))) s1 fun _ s2 => gives 7 0 s2) = true := by decide +kernel

/-- The operands of an engine instruction: source r3, destination r4, channel 1. -/
def eop (imm : BitVec 8 := 0) (a : SReg := 0) (fl : BitVec 8 := 0) : EOp := ⟨3, 4, 1, fl, 7, a, 0, 0, imm⟩
/-- The laboratory with a source and a destination of n f32 elements in the scratchpad. -/
def clab (n : Nat) (regs : List (SReg × Word) := []) : State :=
  inGroup (lab regs) fun g => { g with gens := vset (vset g.gens 3 (genWord (2 ^ 60) n 0)) 4 (genWord (2 ^ 60 + 4096) n 0) }
theorem test_witness_CopyEnqueue : follows (takes [] [7]) (clab 4) (fun vs s1 => vs == [] && follows (copyChecks ⟨0, 1, 0, Walk4.ofBits ((grp s1).gens.get 3), Walk4.ofBits ((grp s1).gens.get 4), false, false, false, 0, 0, 0, 0, 0, 0⟩) s1
    fun f s3 => f.isNone && s3.cur == s1.cur && (s3.core 0).cmds.isEmpty && (s3.core 0).board.isEmpty
      && ((grp s3).tile.aliased 0 [(Walk4.ofBits ((grp s3).gens.get 4)).range]).isEmpty && gives 7 1 s3) = true := by decide +kernel
/-- A copy command of the group on channel 1. -/
def aCmd (st : CmdState) : Option Cmd := ((after (.cpy (eop)) (clab 4)).core 0).cmds.head?.map fun c => { c with st := st }
theorem test_witness_CopyEnqueue_full : ∃ s : State, ((s.core 0).cmds.filter fun x => x.st == .queued && x.timed == false).length = 32 :=
  ⟨(clab 4).onCore 0 fun c => { c with cmds := (List.replicate 32 (aCmd .queued)).filterMap id }, by decide +kernel⟩
theorem test_witness_CopyEnqueue_block : ∃ c : CopyReq, parseCommand (2 ^ 60) (leBytes 8 0 ++ leBytes 8 0 ++ leBytes 8 (2 ^ 60) ++ leBytes 8 (2 ^ 60 + 4096) ++ leBytes 8 (3 * 2 ^ 14)
    ++ leBytes 8 (2 + 2 ^ 32) ++ leBytes 8 (1 + 2 ^ 32) ++ List.replicate 72 0) = some c ∧ c.kind = 0 :=
  ⟨(parseCommand (2 ^ 60) (leBytes 8 0 ++ leBytes 8 0 ++ leBytes 8 (2 ^ 60) ++ leBytes 8 (2 ^ 60 + 4096) ++ leBytes 8 (3 * 2 ^ 14)
    ++ leBytes 8 (2 + 2 ^ 32) ++ leBytes 8 (1 + 2 ^ 32) ++ List.replicate 72 0)).getD ⟨1, 0, 0, Walk4.ofBits 0, Walk4.ofBits 0, false, false, false, 0, 0, 0, 0, 0, 0⟩, by decide +kernel⟩
theorem test_witness_TransferWaits : follows (takes [5] [7]) (lab [(5, 0)]) (fun vs s1 => vs == [0] && (s1.core 0).cmds.isEmpty && s1.transferDone 0 1 0
    && gives 7 0 s1 && !s1.transferDone 0 1 1) = true := by decide +kernel
theorem test_witness_TransferWaits_publish : follows (takes [5] []) ((lab [(5, 0x20000)]).onCtx 0 fun c => { c with bufs := [⟨0x20000, 1, false, 0, 0⟩] }) (fun vs s1 => vs == [0x20000]
      && (s1.bufOf 0 0x20000).isSome && !s1.streamsInto s1.cur (grp s1) (0x20000, 0x2FFFF)) = true := by decide +kernel

/-- An image without ports. -/
def anImage : List Byte := leBytes 2 0x4C46 ++ [1, 0] ++ leBytes 4 2432 ++ List.replicate 2424 0
/-- The laboratory with slot 1 of Lattice 2, which it owns, and its image. -/
def slab (image : Option (List Byte)) (regs : List (SReg × Word) := []) : State :=
  (lab regs).onLat 2 1 fun l => { l with owner := 0, valid := true, image := image }
theorem test_witness_StreamInstructions : let s := slab (some anImage)
    follows (takes [] [7]) s (fun vs s1 => vs == [] && (s1.latSlot 2 1).valid && (s1.latSlot 2 1).owner == 0 && (s1.latSlot 2 1).stream.isNone && !s1.lsBusy 2 1
      && (s1.latSlot 2 1).image == some anImage && (grp s1).staged 2 1 == [] && phaseOk anImage [] && follows (startPhase (eop (2 + 64)) anImage [] none) s1 fun u s2 => gives 7 u.word s2) = true := by decide +kernel
theorem test_witness_StreamInstructions_load : let s := stateAfter (memWriteBytes ⟨0, some 0, some 0⟩ (2 ^ 60) (anImage.take 8)) (slab none [(5, sp 0)])
    follows (takes [5] [7]) s (fun vs s1 => vs == [sp 0] && (s1.latSlot 2 1).stream.isNone && follows (readRun (s1.self (grp s1)) (2 ^ 60) 64) s1 fun h s2 =>
      imageHeaderOk h && follows (readRun (s1.self (grp s1)) (2 ^ 60) 2432) s2 fun img s3 => imageBad img 2432 == none && gives 7 1 s3) = true := by decide +kernel
theorem test_witness_StreamInstructions_mine : let s := after (.lstart (eop (2 + 64))) (slab (some anImage))
    ((s.latSlot 2 1).stream.any fun t => t.heldBy s.cur (grp s) && !t.busy && t.state == .done && t.phase != 15) = true := by decide +kernel
/-- The laboratory with a stream block of Lattice 2 at virtual address 0x200000. -/
def bindLab : State :=
  let s := (slab none).onCore 0 fun k => { k with tlb := ⟨0, 0x20, true, 1 + 2 + 4 + 2 ^ 4 + 2 ^ 5 + 2 ^ 10 + 2 ^ 39 + 2 * 2 ^ 21⟩ :: k.tlb }
  { s with srows := 128 }
theorem test_witness_StreamInstructions_bind : follows (bindCheck ⟨0, some 0, some 0⟩ 2 (genWord 0x200000 256 0) false) bindLab (fun _ _ => true) = true := by decide +kernel

/-- The stream of the laboratory's group: started on an image without ports, in a given state. -/
def aStream (f : Stream → Stream) (l : LatSlot → LatSlot := id) : State :=
  (after (.lstart (eop (2 + 64))) (slab (some anImage))).onLat 2 1 fun y => l { y with stream := y.stream.map f }
theorem test_witness_StreamSteps : let s := aStream fun t => { t with state := .running, rows := 2 }
    ((s.latSlot 2 1).stream.any fun t => t.rowReady && (s.slotOrder 2).find? (fun j => (s.latSlot 2 j).stream.elim false Stream.rowReady) == some 1
      && follows (rowInputs anImage t.ctx t.binds (t.row + t.made.length) t.beats) s fun ins _ => ins.2 != 0x0A) = true := by decide +kernel
theorem test_witness_StreamSteps_done : ∃ m : RowOut, let s := aStream fun t => { t with state := .running, rows := 1, made := [m] }
    ((s.latSlot 2 1).stream.any fun t => t.made == [m] && t.binds.isEmpty && t.row + 1 == t.rows && t.forms.isEmpty) = true :=
  ⟨⟨[], [], [], 0, none, 0, []⟩, by decide +kernel⟩
/-- A stream that reads the stream block at input port 0. -/
def portStream : State :=
  { bindLab with lats := (aStream fun t => { t with state := .running, rows := 4, binds := [(0, ⟨genWord 0x200000 256 0, 1 + 2 + 4 + 2 ^ 4 + 2 ^ 5 + 2 ^ 10 + 2 ^ 39 + 2 * 2 ^ 21, none⟩)] }).lats
                 lwinForce := [(32, ⟨0, 16, false, false⟩)] }
theorem test_witness_StreamSteps_burst : ∃ q, ((portStream.latSlot 2 1).stream.any fun t => portStream.unitsDue 2 1 t 0 == [(0, 0), (1, 0), (2, 0)] && portStream.burstPc 2 1 t 0 0 0 == some q && portStream.mayBurst 2 1 t 0 q
      && (portStream.slotOrder 2).find? (fun j => match (portStream.latSlot 2 j).stream with
          | none => false
          | some u => (List.range 8).any fun p => portStream.mayBurst 2 1 u p q) == some 1) = true := ⟨32, by decide +kernel⟩
theorem test_witness_StreamSteps_burstEnd : let s := portStream.onPc 32 fun p => { p with burst := some (2, 1, 0, 0, 0), burstTo := p.slot }
    ((s.pcStat 32).burst == some (2, 1, 0, 0, 0) && follows (landBurst 2 1 0 0 0) (s.onPc 32 fun q => { q with burst := none, waiters := [], late := 8 }) fun _ _ => true) = true := by decide +kernel
theorem test_witness_StreamSteps_land : let s := portStream.onStream 2 1 fun t => t.issue 0 2 0
    ((s.latSlot 2 1).stream.any fun t => t.issued == [(0, 2, 0)] && !t.issued.contains (0, 1, 0) && t.reads == 1 && (s.rowUnits 2 1 t 0 2).length == 1
      && (t.done 0 2 0 1).landed == [(0, 2)] && (t.done 0 2 0 2).parts == [(0, 2, 0)]) = true := by decide +kernel
theorem test_witness_StreamSteps_parked : let s := { portStream with lats := (aStream fun t => { t with state := .parked, binds := [] }).lats }
    ((s.latSlot 2 1).stream.any fun t => t.state == .parked && !t.parkReq && t.taken.isNone && !s.drainCovers t && rebind 2 t s == some []) = true := by decide +kernel
theorem test_witness_StreamSteps_owner : let s := slab none
    ((s.latSlot 2 1).stream.isNone && !s.lsBusy 2 1 && (Fin.ofNat 16 17, (17 : Word).getLsbD 4) != ((s.latSlot 2 1).owner, (s.latSlot 2 1).valid)) = true
    ∧ ((slab none).onLat 2 1 fun l => { l with pend := some (3, true) }).latSlot 2 1 = { (slab none).latSlot 2 1 with pend := some (3, true) } := by decide +kernel

/-! ### Links, copies, launches -/

/-- A peer set of two ranks: this processor and context, and processor 1, context 2. -/
def peers : List Byte := leBytes 2 7 ++ [2, 0, 0, 0, 0, 0] ++ [0, 1] ++ List.replicate 14 0 ++ [0, 2] ++ List.replicate 14 0 ++ List.replicate 24 0
/-- The copy laboratory with the peer set in the scratchpad at offset 64 KiB. -/
def peerLab (regs : List (SReg × Word)) : State := stateAfter (memWriteBytes ⟨0, some 0, some 0⟩ (2 ^ 60 + 0x10000) peers) (clab 4 ((5, sp 0x10000) :: regs))
theorem test_witness_LinkInstructions : follows (takes [5, 6] [7]) (peerLab [(6, 9)]) (fun vs s1 => vs == [sp 0x10000, 9] && follows (readPeers (sp 0x10000).toNat) s1 fun set_ s2 =>
    let w := Walk4.ofBits ((grp s2).gens.get 3)
    let v := Walk4.ofBits ((grp s2).gens.get 4)
    set_.mine == 0 && set_.procs == [0, 1] && w.valid && v.valid && w.code == v.code && credFmt w.code && w.count == v.count && !sameSpace w.range v.range
      && follows (sideSpace 0 1 w) s2 (fun _ _ => true) && follows (sideSpace 0 1 v) s2 (fun _ _ => true) && (s2.core 0).cmds.isEmpty && (s2.core 0).board.isEmpty
      && ((grp s2).tile.aliased 0 [v.range]).isEmpty && follows (matchNumber set_ 9 0 0) s2 fun n s3 =>
        follows (accept (.cred 0 set_ 9 n (grp s2).record.index) (linkReq (eop) w v) none [w.range] [v.range]) s3 fun id s4 => gives 7 id s4) = true := by decide +kernel
theorem test_witness_LinkInstructions_send : follows (takes [5, 6, 8] [7]) (peerLab [(6, 1), (8, 9)]) (fun vs s1 => vs == [sp 0x10000, 1, 9] && follows (readPeers (sp 0x10000).toNat) s1 fun set_ s2 =>
    let w := Walk4.ofBits ((grp s2).gens.get 3)
    decide (1 < set_.procs.length) && set_.mine == 0 && !isForm w.code && follows (sideSpace 0 2 w) s2 (fun _ _ => true) && follows (sideRows (grp s2).rows w) s2 (fun _ _ => true)
      && follows (matchNumber set_ 9 1 1) s2 fun n s3 => follows (accept (.send set_ 1 9 n) (linkReq (eop) w w) none [w.range] []) s3 fun id s4 => gives 7 id s4) = true := by decide +kernel
theorem test_witness_LinkInstructions_receive : follows (readPeers (sp 0x10000).toNat) (peerLab []) (fun set_ s2 =>
    let v := Walk4.ofBits ((grp s2).gens.get 4)
    follows (sideSpace 0 3 v) s2 (fun _ _ => true) && follows (matchNumber set_ 9 1 2) s2 fun n s3 =>
      follows (accept (.recv set_ 1 9 n) (linkReq (eop) v v) none [] [v.range]) s3 fun id s4 => gives 7 id s4) = true := by decide +kernel
/-- A laboratory whose destination is a page of a replicated region of its own. -/
def mcstLab : State :=
  let s := (clab 4).onCore 0 fun k => { k with tlb := ⟨0, 1, false, 1 + 2 + 4 + 2 * 2 ^ 8 + 2 ^ 44⟩ :: k.tlb }
  let s1 := inGroup s fun g => { g with gens := vset g.gens 4 (genWord 0x10000 4 0) }
  { s1 with regions := vset s.regions 0 (some ⟨2 ^ 44, 2 ^ 20, 2, 0, 0, 3, 2 ^ 44 + 2 ^ 20, 0, true⟩) }
theorem test_witness_LinkInstructions_multicast : follows (copyChecks (linkReq (eop) (Walk4.ofBits ((grp mcstLab).gens.get 3)) (Walk4.ofBits ((grp mcstLab).gens.get 4)))) mcstLab (fun f s6 => f.isNone
    && follows (replicatedRange (s6.self (grp s6)) (Walk4.ofBits ((grp mcstLab).gens.get 4)).range) s6 fun rs s2 => (rs.all fun r => r.1 == 0 && r.2.update && r.2.ownProc == s2.encProc.toNat && r.2.ownCtx == 0) && rs.length == 1
      && follows (accept (.mcst [0]) (linkReq (eop) (Walk4.ofBits ((grp mcstLab).gens.get 3)) (Walk4.ofBits ((grp mcstLab).gens.get 4))) none
          [(Walk4.ofBits ((grp mcstLab).gens.get 3)).range] [(Walk4.ofBits ((grp mcstLab).gens.get 4)).range]) s2 fun id s4 => gives 7 id s4) = true := by decide +kernel
/-- A laboratory with a flushable page at 0x10000. -/
def flushLab (regs : List (SReg × Word)) : State :=
  let s := (lab regs).onCore 0 fun k => { k with tlb := ⟨0, 1, false, 1 + 2 + 4 + 3 * 2 ^ 8 + 2 ^ 44⟩ :: k.tlb }
  { s with regions := vset s.regions 0 (some ⟨2 ^ 44, 2 ^ 20, 3, 0, 0, 0, 2 ^ 44 + 2 ^ 20, 0, false⟩), extents := [⟨1, 2 ^ 44, 2 ^ 21, .granted⟩] }
theorem test_witness_LinkInstructions_flush : follows (takes [5, 6] []) (flushLab [(5, 0x10040), (6, 65)]) (fun vs s1 => vs == [0x10040, 65]
    && (follows (flushedLines (s1.self (grp s1)) 0x10040 65 .read) s1 fun ls s2 => ls.length == 2 && follows (ls.forM flushLine) s2 fun _ _ => true)
    && follows (flushedLines (s1.self (grp s1)) 0x10040 65 .none) s1 fun ls _ => ls.length == 2) = true := by decide +kernel
/-- The state after a CPY of four elements has entered its queue. -/
def copying : State := after (.cpy (eop)) (clab 4)
theorem test_witness_CopySteps : ((copying.candidate 0 1).any fun j => copying.mayStart 0 j && !j.late && decide (j.first < j.chunks)
    && follows (startChunk sendOut j 0 j.first) copying fun _ _ => follows (beginCmd j 0) copying fun _ _ => true) = true := by decide +kernel
/-- The copy in a given state, with one atom of it on its way. -/
def copyAt (st : CmdState) (write : Bool) : State :=
  let s := copying.onCore 0 fun c => { c with cmds := c.cmds.map fun j => { j with st := st } }
  { s with inflight := [{ core := 0, cmd := ((copying.core 0).cmds.map Cmd.seq).headD 0, pc := 0, write := write }] }
theorem test_witness_CopySteps_landing : let s := copyAt (.reading 0 1 []) false
    (s.inflight.any fun r => !r.write && (s.cmd r.core r.cmd).any fun j => j.kind == .copy
      && follows (startWrites j 0 0 []) { s with inflight := [] } fun _ _ => true) = true := by decide +kernel
theorem test_witness_CopySteps_retire : let s := copyAt (.writing 0 0 []) true
    ((s.started 0 1).any fun j => j.st == .writing 0 0 [] && decide (j.chunks ≤ 1) && j.kind == .copy && j.follow.isNone) = true
    ∧ (((copyAt .done true).started 0 1).any fun j => j.st == .done) = true := by decide +kernel
/-- The descriptor of a launch of a kind. -/
def launchBytes (kind : Nat) : List Byte := leBytes 8 kind ++ List.replicate 56 0
theorem test_witness_Launches : follows (takes [5] [7]) (stateAfter (memWriteBytes ⟨0, some 0, some 0⟩ (2 ^ 60) (launchBytes 2)) (lab [(5, sp 0)])) (fun vs s1 => vs == [sp 0]
    && follows (memReadBytes (s1.self (grp s1)) (2 ^ 60) 64) s1 fun bs s2 => (parseDesc bs).any fun e => e.kind == 2 && !(s2.ctx 0).refuses && (s2.ctx 0).parentOk e.parent 3
      && (s2.ctx 0).freeEntry.isSome && follows (enterLevel 0 (some 0) e none) s2 fun h s4 => h != 0 && gives 7 (BitVec.ofNat 64 h) s4) = true := by decide +kernel
/-- The laboratory with a level at entry 1. -/
def levelLab (kind : Nat) (st : LevelState) (node : Option Word) (regs : List (SReg × Word)) : State :=
  (lab regs).onCtx 0 fun c => { c with levels := [(1, ⟨kind, st, true, 1, 0, 4, 2, 2, none, none, node⟩)] }
theorem test_witness_Launches_wait : follows (takes [5, 6] [7]) (levelLab 1 .active none [(5, 0x1001), (6, 2)]) (fun vs s1 => vs == [0x1001, 2]
    && ((s1.ctx 0).level 0x1001).any fun l => l.state == .active && decide (2 ≤ l.done) && gives 7 2 s1 && follows (cancelLevel 0 0x1001) s1 fun _ _ => true) = true := by decide +kernel
theorem test_witness_Launches_spawn : follows (memReadBytes ⟨0, some 0, some 0⟩ (2 ^ 60) 32)
    (stateAfter (memWriteBytes ⟨0, some 0, some 0⟩ (2 ^ 60) (leBytes 24 0 ++ leBytes 4 0x1001)) (levelLab 1 .active none [(5, sp 0)])) (fun bs s2 =>
      let r := Record.ofBytes bs
      decide (r.flags < 32) && !r.ckpt && (s2.ctx 0).state != .draining && ((s2.ctx 0).activeLaunch r.launch).any fun l => follows (putLevel 0 (r.launch % 4096) { l with out := l.out + 1 }) s2 fun _ s3 =>
        follows (pushTail 0 r.prio (.record r)) s3 fun _ s4 => gives 7 1 s4) = true := by decide +kernel
theorem test_witness_HostLaunchesAndGraphs : ((lab []).ctx 0).hostPending = [] ∧ (State.reset.ctx 3).state = .free
    ∧ follows (launchAt ⟨0, none, none⟩ (2 ^ 60)) (stateAfter (memWriteBytes ⟨0, some 0, some 0⟩ (2 ^ 60) (launchBytes 2)) (lab [])) (fun h _ => h != 0) = true
    ∧ Raises (launchAt ⟨0, none, none⟩ (2 ^ 60)) (lab []) { code := 6, va := 0 } none := by
  refine ⟨by decide, by decide, by decide +kernel, ?_⟩
  rfl
/-- The laboratory with an active graph whose next node, of a type, stands at 0x10000, in a page that the page table maps. -/
def graphLab (type : Nat) : State :=
  let s := (levelLab 2 .active (some 0x10000) []).onCtx 0 fun c => { c with desc := { c.desc with ptroot := 0x100000 } }
  { s with mem := [(0x100000, leBytes 8 0x110001), (0x110000, leBytes 8 0x120001), (0x120008, leBytes 8 (0x10000 + 7)), (0x10000, leBytes 8 type ++ leBytes 8 0x10080)].foldl (fun m p =>
      memWrite s.opened m p.1 p.2) s.mem }
theorem test_witness_HostLaunchesAndGraphs_node : follows (readNode ⟨0, none, none⟩ 0x10000) (graphLab 5) (fun n s1 => n.type == 5 && ((s1.ctx 0).evaluates)
    && (SMap.get (s1.ctx 0).levels 1).any fun l => l.node == some 0x10000 && l.state == .active && follows (graphAct ⟨0, none, none⟩ 1 l 0x10000 n) s1 fun _ _ => true) = true := by decide +kernel
theorem test_witness_HostLaunchesAndGraphs_condition : follows (readNode ⟨0, none, none⟩ 0x10000) (graphLab 2) (fun n s1 => n.type == 2
    && follows (readW ⟨0, none, none⟩ n) s1 fun v s2 => follows (decideNode 0 0x10000 (if nodeTest n.cmp v (BitVec.ofNat 64 n.b) then 1 else 0)) s2 fun r s3 =>
      r == some 1 && follows (graphGoto 0 1 0x10000 n.next) s3 fun _ _ => true) = true := by decide +kernel
theorem test_witness_HostLaunchesAndGraphs_fails : follows (graphFail 0 1 ⟨2, .active, true, 1, 0, 4, 2, 2, none, none, some 0x20000⟩ 0x20000 6) (graphLab 5) (fun _ _ => true) = true := by decide +kernel

/-! ### Groups, contexts, pages -/

/-- The laboratory's group in a given group state. -/
def gsLab (st : SlotState) (regs : List (SReg × Word) := []) (line : List Nat := []) : State := inGroup (lab regs line) fun g => { g with state := st }
theorem test_witness_GroupInstructions : let s := lab [] (aLine [0, 0, 0])
    (s.cur.role == .compute && !(grp s).inSequence && ((grp s).role .fetch).status == .idle && ((grp s).role .drain).status == .idle && (s.core 0).cmds.isEmpty
      && follows (startRole .fetch 1) s (fun _ s1 => follows (startRole .drain 0) s1 fun _ _ => true)
      && follows (do joinParent (s.self (grp s)) (grp s).record; groupDone 0 (grp s).record.launch) s (fun _ _ => true) && (s.streamsOf s.cur (grp s)).isEmpty) = true := by decide +kernel
theorem test_witness_GroupInstructions_meet : let s := inGroup (lab []) fun g => (g.onRole .fetch fun r => { r with status := .arrived }).onRole .drain fun r => { r with status := .arrived }
    (((grp s).role .fetch).status != .running && ((grp s).role .fetch).status != .idle && ((List.finRange 4).all fun q => (grp s).roleq.get q == [])) = true := by decide +kernel
theorem test_witness_GroupInstructions_park : let s := lab [(5, sp 0), (3, 0x40)] (aLine [0, 0, 0])
    let rcd : Record := ⟨8, 0x40, 0, (grp s).record.index, (grp s).record.launch, recordFlags (grp s).record.prio.val (grp s).record.pj false (grp s).record.clu⟩
    (nextPc ((grp s).role .compute).line 4 1 == some 8
      && follows (memWriteBytes (s.self (grp s)) (sp 0).toNat (rcd.bytes.take 16)) s fun _ s1 => follows (memWriteBytes (s.self (grp s)) ((sp 0).toNat + 20) (rcd.bytes.drop 20)) s1 fun _ s2 =>
        follows (joinArrive (s.self (grp s)) (sp 0).toNat) s2 fun j _ => j != 0 && ((s.releaseStreams s.cur (grp s)).streamsOf s.cur (grp s)).isEmpty) = true := by decide +kernel
theorem test_witness_GroupInstructions_yield : let s := gsLab (.marked 0) [(3, sp 0)] (aLine [0, 0, 0])
    (nextPc ((grp s).role .compute).line 4 2 == some 12 && (lineAt ((grp s).role .compute).pc 1).isSome && !s.resultsPending s.cur && (grp s).drainAt.isNone
      && !(s.onGroup 0 0 fun z => { z with drainAt := some 0 }).streamsMoving s.cur (grp s)
      && follows (saveGroup (sp 0).toNat ((lineAt 4 1).getD 0) ((lineAt 4 2).getD 0) 12) (s.onGroup 0 0 fun z => { z with drainAt := some 0 }) fun _ _ => true) = true := by decide +kernel
/-- A launch and its header. -/
def aDesc : LaunchDesc := ⟨0, 0, false, 0, 0x10000, 7, 0, 0, 1⟩
def aHeader : Header := ⟨true, false, false, 1, 1, 1, 0, 0, 0, 5⟩
/-- A running context with a launch of one group in its queue. -/
def queueLab : State :=
  State.reset.onCtx 0 fun c => { c with state := .running, desc := placedDesc, levels := [(1, ⟨1, .active, false, 1, 0, 1, 0, 1, some aDesc, some aHeader, none⟩)]
                                        ready := vset c.ready 0 ⟨[.cursor 0x1001 0], 0, 1⟩ }
theorem test_witness_DispatchAndSlots : (queueLab.fitting 0).isSome = true ∧ queueLab.safe = false ∧ ∀ y : CtxId, y ≠ 0 → queueLab.fitting y = none := by decide +kernel
/-- The laboratory's group, of that launch, in a given state. -/
def startLab (st : SlotState) (flags : Nat) (f : Group → Group := id) : State :=
  (inGroup (lab [(3, sp 0)]) fun g => f { g with state := st, record := ⟨0, 2 ^ 60, 0, 0, 0x1001, flags⟩ }).onCtx 0 fun c =>
    { c with levels := [(1, ⟨1, .active, false, 1, 0, 1, 0, 1, some aDesc, some aHeader, none⟩)] }
theorem test_witness_DispatchAndSlots_start : let s := startLab .starting 0
    ((grp s).state == .starting && !(grp s).record.ckpt && s.descOf (grp s) == some aDesc && s.headerOf (grp s) == some aHeader && (s.ctx 0).state != .draining) = true := by decide +kernel
theorem test_witness_DispatchAndSlots_restore : ∃ f : Nat, let s := startLab .starting f
    ((grp s).record.ckpt && !((grp s).role .compute).stalled && (match restoreStep 0 0 (grp s) s with
      | .error (.trap t none) => t.code == 1
      | .error _ => false
      | .ok _ => false)) = true := ⟨recordFlags 0 false true false, by decide +kernel⟩
theorem test_witness_DispatchAndSlots_ends : let s := startLab (.restoring 0x40 .none) 0 fun g => g.onRole .compute fun r => { r with ended := true }
    let s' := startLab (.saving 0x40 (sp 0)) 0 fun g => g.onRole .compute fun r => { r with ended := true }
    (((grp s).role .compute).ended && (s.ctx 0).state == .running && follows (pushRecord 0 ⟨0x40, (sp 0).toNat, 0, 0, 0x1001, recordFlags 0 false true false⟩ true) s' fun _ _ => true) = true := by decide +kernel
theorem test_witness_DispatchAndSlots_kill : let s := startLab (.dying false true false) 0
    let s2 := (s.onGroup 0 0 fun z => { z with drainAt := some 0 }).releaseStreams ⟨0, 0, .compute⟩ (grp s)
    ((s.core 0).array.isEmpty && (s.core 0).cmds.isEmpty && (s2.streamsOf ⟨0, 0, .compute⟩ (grp s)).isEmpty && follows (killEnd 0 0 (grp s) false true) s2 fun _ _ => true) = true := by decide +kernel
theorem test_witness_DispatchAndSlots_late : let s := { startLab (.marked 0) 0 with cycle := 5 }
    (s.headerOf (grp s) == some aHeader && decide (0 + aHeader.yieldmax ≤ s.cycle.toNat) && (grp s).drainAt.isNone && (s.ctx 0).state == .running
      && follows (decideTreatment 0 0 (grp s) 2) s fun _ _ => true) = true := by decide +kernel
/-- A valid context descriptor, for core 1 and key 1, in plain at physical address 0x20000. -/
def ctxBytes : List Byte := List.replicate 32 0 ++ leBytes 4 1 ++ leBytes 4 1 ++ leBytes 16 2 ++ leBytes 7 0 ++ [1] ++ leBytes 2 2 ++ List.replicate 62 0
/-- Context 1 selected by the host, in a given state. -/
def ctxLab (st : CtxState) (f : Context → Context := id) : State :=
  let s := (lab []).onCtx 1 fun c => f { c with state := st, desc := (parseContext ctxBytes).toOption.getD c.desc }
  { s with hostPriv := { s.hostPriv with ctxsel := 1, ctxdesc := 0x20000 }, mem := memWrite s.opened s.mem 0x20000 ctxBytes }
theorem test_witness_ContextCommands : let s := ctxLab .free
    (s.privileged .host && (s.priv .host).ctxsel == 1 && !(s.ctx 1).busy && !s.ctl.applying && !s.safe && !s.ctl.debugOpen
      && follows (rawRead none 0x20000 0x20000 128) s fun b _ => (parseContext b.1).toOption.isSome) = true := by decide +kernel
theorem test_witness_ContextCommands_load : let s := ctxLab .created
    (!s.heldBy 1 [.scrubbing] && !s.heldBy 1 [.loaded, .running, .suspended, .draining] && follows (loadNow 1) s (fun _ _ => true)
      && follows (drainCtx 1) (ctxLab .running) (fun _ _ => true)) = true := by decide +kernel
theorem test_witness_ContextCommands_resume : let s := ctxLab .suspended fun c => { c with busy := true }
    (!(s.ctx 1).drainMark && (s.groupsOf 1).isEmpty && !(s.ctx 1).desc.keys.getLsbD 0 && (s.ctx 1).desc.keys.getLsbD 1 && (s.ctx 1).desc.key == 1) = true := by decide +kernel
theorem test_witness_ContextCommands_drained : let s := ctxLab .draining
    ((s.groupsOf 1).isEmpty && !s.hasCopies 1 && !s.hasStreams 1 && follows (cancelAll 1) s (fun _ _ => true) && !s.privileged (.role ⟨1, 0, .compute⟩)) = true := by decide +kernel
theorem test_witness_TlbiResult : ∃ (s : State) (g : Group) (k : Role), Acts s g k ∧ (s.ctx g.ctx).desc.sys = true ∧ Taken [5, 6] [] s [0x10000, 63] s ∧ k.drainAt = none ∧ (63 : Nat) < 64
    ∧ ((s.invalidate (tlbiDrain 0x10000 63 0 0)).drainHeld (tlbiDrain 0x10000 63 0 0)) = false :=
  ⟨lab [(5, 0x10000), (6, 63)], _, _, ac (by decide), by decide, rv (by decide), by decide, by decide, by decide +kernel⟩
theorem test_witness_TlbiResult_waits : copying.drainHeld (tlbiDrain 0 63 0 1) = false ∧ (copyAt (.reading 0 1 [⟨false, 0, 0, 0, 0⟩]) false).drainHeld (tlbiDrain 0 63 0 1) = true := by decide +kernel
/-- The page laboratory: 0x10000 is mapped by the page table to a page of local memory; queues 1 of replaced and 2 of local pages. -/
def pageLab (regs : List (SReg × Word)) (kind : Nat) : State :=
  let s := graphLab 5
  let s1 := { s with cores := (lab regs).cores, extents := [⟨1, 2 ^ 44, 2 ^ 21, .granted⟩], mem := memWrite s.opened s.mem 0x130000 (leBytes 8 (2 ^ 44 + 0x10000)) }
  s1.onCtx 0 fun c => { c with fpqs := [⟨0, 0, 0, false, 0, 0, 0⟩, ⟨0x130000, 4, kind, true, 0, 0, 1⟩, ⟨0x140000, 4, 0, true, 0, 0, 0⟩] }
theorem test_witness_PageMigration : let s := pageLab [(5, 0x10000), (6, 1 + 2 * 16)] 3
    follows (takes [5, 6] [7]) s (fun vs s1 => vs == [0x10000, 33] && follows (Machine.translate (s1.self (grp s1)) 0x10000 .write) s1 fun _ s2 =>
      follows (leafNow 0 0x10000) s2 fun r s3 => r.any fun q => q.2 / 2 ^ 5 % 2 == 0 && leafKind q.2 == 0 && ((s3.ctx 0).fpq 1).valid && ((s3.ctx 0).fpq 2).valid && ((s3.ctx 0).fpq 1).kind == 3
        && ((s3.ctx 0).fpq 1).tail != ((s3.ctx 0).fpq 1).head && decide (((s3.ctx 0).fpq 2).count < 4) && (s3.bufOf 0 0x10000).isNone
        && follows (setDrain none) s3 fun _ s4 => gives 7 0 s4) = true := by decide +kernel
theorem test_witness_PageMigration_held : let s := pageLab [] 3
    let e : Drain := ⟨0, some 0, 1, 2, 0, 0, true⟩
    (!s.drainHeld e && !s.drainLate e && ({ s with cycle := 6000 } : State).drainLate e && !s.channelBusy 0 0 0 && follows (setDrain (some e)) s fun _ _ => true) = true := by decide +kernel
theorem test_witness_PageMigration_queues : let s := { pageLab [] 3 with hostPriv := { (lab []).hostPriv with ctxsel := 0 }, walks := [⟨0, 0, 0x10000, 1, 0x100000⟩] }
    ((s.ctx 0).zeroing.isNone && (s.ctx 0).takesPages && ((s.ctx 0).fpq 2).valid && s.pageSuits 0 0x50000 && !s.allFree && State.reset.allFree
      && (s.walks.any fun w => follows (walkStep w) { s with walks := [] } fun u _ => u.isSome) && follows (appendPage 0 2 0x50000) s fun _ _ => true) = true := by decide +kernel

/-! ### Calendars, ports, commands, faults, the controller -/

theorem test_witness_CalendarSteps : let s := (lab []).onPc 3 fun q => { q with slot := 5 }
    ((s.pcStat 3).slot == 5 && (s.pcStat 3).burst.isNone && (s.onPc 3 fun q => { q with slot := q.slot + 1 }).slotOwner 3 5 == some 8
      && ((s.onPc 3 fun q => { q with slot := q.slot + 1 }).slotIssue 3 5).isNone) = true := by decide +kernel
theorem test_witness_CalendarSteps_request : let s := { (lab []).onPc 3 fun q => { q with slot := 5 } with reqs := [⟨7, 0, 3, false⟩, ⟨8, 0, 3, false⟩] }
    (s.reqs[1]? == some ⟨8, 0, 3, false⟩ && (s.reqs[0]?.any fun y => y.core != 8)) = true := by decide +kernel
theorem test_witness_CalendarSteps_ends : let s := (lab []).onPc 3 fun q => { q with slot := 129, pend := true, pendw := true }
    let t := (lab []).onPc 3 fun q => { q with slot := 127, burst := some (2, 1, 0, 0), burstTo := 128 }
    ((s.pcStat 3).slot == 129 && (s.pcStat 3).pend && decide (127 < (t.pcStat 3).burstTo) && (s.calStaged == [])) = true := by decide +kernel
/-- A message for a processor. -/
def aMessage (dst : Fin 16) (kind : MsgKind) : Message := ⟨kind, 1, dst, 0, 0, 1, [0], [0], 0, 0, 0, 0, 0, [], []⟩
/-- The laboratory with a granted extent at the start of the pool, and a line of it cached. -/
def portLab (dirty : Bool) : State :=
  { lab [] with extents := [⟨1, 2 ^ 44, 2 ^ 21, .granted⟩, ⟨2, 2 ^ 44 + 2 ^ 21, 2 ^ 21, .zeroing⟩]
                heads := vset (lab []).heads 0 ⟨true, none, [⟨2 ^ 38, List.replicate 64 7, dirty, false, 0⟩]⟩
                links := vset (lab []).links 1 { Link.fresh with trained := true, replays := 1025 } }
theorem test_witness_PortsAndLinks : let s := portLab true
    (poolLineNo (2 ^ 38) && poolLineNo (2 ^ 38 + 1) && !poolLineNo (2 ^ 38 - 1) && s.granted (2 ^ 44) && !s.granted (2 ^ 44 + 2 ^ 21) && ((s.cached (2 ^ 38)).any fun l => l.dirty)
      && (s.cached (2 ^ 38 + 1)).isNone && (List.replicate 64 (0 : Byte)).length == 64 && Memory.wf s.opened s.mem && (s.heads.get 0).up
      && (s.extents.find? (fun e => e.id == 3)).isNone && ((s.extents.find? (fun e => e.id == 2)).any fun e => e.state == .zeroing)) = true := by decide +kernel
theorem test_witness_PortsAndLinks_regions : let s := { portLab false with regions := vset (lab []).regions 0 (some ⟨2 ^ 44, 2 ^ 20, 3, 0, 0, 0, 0, 0, false⟩) }
    (((s.regionAt (2 ^ 44)).any fun r => r.2.kind == 3) && (({ s with regions := vset s.regions 0 (some ⟨2 ^ 44, 2 ^ 20, 1, 0, 0, 0, 0, 0, false⟩) } : State).regionAt (2 ^ 44)).any fun r => r.2.kind != 3) = true := by decide +kernel
theorem test_witness_PortsAndLinks_links : let s := portLab false
    ((s.links.get 1).carries && !(s.links.get 2).carries && decide (1024 < (s.links.get 1).replays) && decide (s.cycle.toNat < (s.links.get 1).since + 1200000)
      && s.accepts (aMessage 0 .send) && !s.accepts (aMessage 2 .send)) = true := by decide +kernel
/-- The laboratory's group as the target of role commands, its compute role stalled or not. -/
def roleLab (stalled retired : Bool) : State :=
  let s := (lab []).onRole who fun k => { k with stalled := stalled, retired := retired, faultPc := 4 }
  { s with hostPriv := { s.hostPriv with ctxsel := 0, roleCore := 0, roleSlot := 0, roleNum := 1, rolePc := 0x44 } }
theorem test_witness_RoleCommands : let s := roleLab true true
    (s.privileged .host && (s.priv .host).roleNum != 3 && s.owns 0 0 && (s.roleTarget (s.priv .host)).any fun q => q.1 == who && q.2.2.stalled && q.2.2.retired && q.2.2.code != 0x15
      && !s.noWayOn q.1 q.2.1 q.2.2 && (s.priv .host).rolePc != q.2.2.pc) = true := by decide +kernel
theorem test_witness_RoleCommands_skip : let s := roleLab true false
    ((s.roleTarget (s.priv .host)).any fun q => !q.2.2.retired && !s.noWayOn q.1 q.2.1 q.2.2 && (s.faultLine q.1 q.2.1 q.2.2).isSome) = true := by decide +kernel
theorem test_witness_RoleCommands_refused : ((roleLab false false).roleTarget ((roleLab false false).priv .host)).any (fun q => !q.2.2.stalled) = true
    ∧ (roleLab false false).owns 0 1 = false := by decide +kernel
theorem test_witness_FaultSteps : let s := lab [] ((2 ^ 29 + 2 ^ 25 : Nat) :: 0 :: 1 :: List.replicate 13 0)
    (((grp s).role .compute).status == .running && !((grp s).role .compute).stalled && (match arrive s with
      | .error (.trap t none) => t.code == 0x02
      | .error _ => false
      | .ok _ => false)) = true := by decide +kernel
/-- The compute role blocked on queue q1 and the fetch role on q3 since the start, for as long as a stall takes. -/
def stallLab : State :=
  let s := inGroup (lab []) fun g => [RoleKind.fetch, .compute].foldl (fun g r => g.onRole r fun k => { k with status := .running, blocked := [⟨.role 0 0 (if r = .fetch then 3 else 1), false, 0⟩] }) g
  { s with cycle := BitVec.ofNat 64 qstallLimit }
theorem test_witness_FaultSteps_stall : (stallLab.stalledQueue (.role 0 0 1) && !(lab []).stalledQueue (.role 0 0 1)) = true := by decide +kernel
theorem test_witness_FaultSteps_retry : let s := (dataLab' 0 [] 0x10000 []).onCtx 0 fun c => { c with faultHeld := [List.replicate 64 1] }
    ((s.ctx 0).faultHeld == [List.replicate 64 1] && (s.ctx 0).faultUnheld == []) = true := by decide +kernel
theorem test_witness_HostAccesses : let s := graphLab 5
    (s.ctx 0).assigned = true ∧ hostAccessOk 0x10000 8 = true ∧ csrAssigned (0x1000 + 0 / 8) = true ∧ s.privileged (.role who) = true
    ∧ follows (memReadBytes ⟨0, none, none⟩ ((s.ctx 0).apBase.toNat + 0x10000) 8) s (fun bs _ => bs == leBytes 8 5) = true := by decide +kernel
theorem test_witness_HostAccesses_fails : (match memReadBytes ⟨0, none, none⟩ 0x20000 8 .read (graphLab 5) with
    | .error (.trap t none) => t.code == 6
    | .error _ => false
    | .ok _ => false) = true := by decide +kernel
theorem test_witness_HostAccesses_write : ends (memWriteBytes ⟨0, none, none⟩ 0x10000 [1, 2, 3, 4]) (graphLab 5) = true ∧ hostAccessOk 0x10000 4 = true ∧ (State.reset.ctx 1).assigned = false := by decide +kernel
theorem test_witness_PowerAndSafety : ({ State.reset with power := false } : State).power = false ∧ State.reset.ctl.torn = false ∧ State.reset.power = true
    ∧ ((2 : Nat), (1 : BitVec 8)) ∈ [((2 : Nat), (0x01 : BitVec 8)), (3, 0x02), (4, 0x03), (6, 0x05)] := by decide
theorem test_cold_keeps_pool : let s := ((lab []).putBytes (2 ^ 44) [7]).putBytes 5 [9]
    (s.cold.byteAt (2 ^ 44) == 7 && s.cold.mem == [(2 ^ 44, 7)] && s.cold.opened.length == 2) = true := by decide +kernel
theorem test_witness_PowerAndSafety_throttle : ∃ s : State, s.ctl.fullSince = some 0 ∧ s.cycle.toNat = 0 + 12000000 := ⟨{ State.reset with cycle := 12000000, ctl := { Control.fresh with fullSince := some 0 } }, by decide⟩
/-- A mailbox command in progress. -/
def mbLab (op : Nat) (o0 o1 : Word) (f : State → State := id) : State :=
  f { State.reset with mb := { Mailbox.fresh with op := BitVec.ofNat 16 op, busy := true, ops := vset (vset (Vector.replicate 8 0) 0 o0) 1 o1 } }
theorem test_witness_MailboxController : (mbLab 0x11 15 0).mbPending 0x11 = true ∧ (mbLab 0x11 15 0).keyInUse 15 = false ∧ (mbLab 0x20 0 4096).mbPending 0x20 = true ∧ (mbLab 0x21 0 0).ctl.stagedOk = false
    ∧ (mbLab 0x30 0 0).ctl.debugLock = true ∧ (mbLab 0x30 0 0).allFree = true ∧ (mbLab 0x40 5 0x10000).svcOk = true ∧ (mbLab 0x40 5 0x10000).serviced.getLsbD 5 = false := by decide +kernel
theorem test_witness_MailboxController_service : let s := mbLab 0x40 (0x100 + 5) 0x10000 fun s => s.onCtx 0 fun c => { c with state := .running, desc := { placedDesc with cores := 0x20 } }
    (s.svcOk && s.serviced.getLsbD 5 == false && ((s.setServiced 5 true).residents 5 none).isEmpty && s.coreCtx 5 == some 0) = true := by decide +kernel
theorem test_witness_MailboxPool : (mbLab 0x50 63 0).region 63 = none ∧ follows (rawRead none 0 0 64) (mbLab 0x50 63 0) (fun b _ => parseRegion b.1 == none) = true
    ∧ (mbLab 0x53 1 0 fun s => { s with extents := [⟨1, 2 ^ 44, 2 ^ 21, .offered⟩] }).extent 1 = some ⟨1, 2 ^ 44, 2 ^ 21, .offered⟩
    ∧ follows (logCapacity (2 ^ 44) (2 ^ 21)) (mbLab 0x53 1 0) (fun _ _ => true) = true ∧ (mbLab 0x57 0 0).encSize = 0 ∧ (mbLab 0x57 7 8).mbPending 0x57 = true := by decide +kernel
theorem test_witness_MailboxPool_regions : let r : Region := ⟨2 ^ 44, 2 ^ 20, 2, 0, 0, 1, 0, 0, false⟩
    let s := mbLab 0x52 0 1 fun s => { s with regions := vset s.regions 0 (some r), encSize := 2, encProc := 0 }
    s.region 0 = some r ∧ s.regionUsed r = false ∧ s.mcstTo 0 = false ∧ linkPeer 2 0 7 = 1 := by decide +kernel

/-! ### Encoding and steps -/

theorem test_witness_DecodeOfEncode : (Instr.mmac mop).wf = true ∧ Instr.isEvent (.mmac mop) = false ∧ (Instr.bfi 63 63 63 0).wf = true := by decide
theorem test_witness_EncodeOfDecode : decodeWords [0x08900008, 0] = .ok (.addi 9 0 8) ∧ (0x08900008 : Nat) < 2 ^ 32 := by decide
theorem test_witness_StepRunsInstruction : let s := State.reset.placeWords [0x08900008]
    s.power = true ∧ s.agenda = [.role who] ∧ ({ s with agenda := [], cur := who, engineTurn := false } : State).mayIssue who = true
    ∧ follows arrive { s with agenda := [], cur := who, engineTurn := false } (fun ws _ => ws == aLine [0x08900008]) = true
    ∧ decodeWords (((aLine [0x08900008]).take 2).drop 1) = .ok (.addi 9 0 8) ∧ isNext (step s) = true := by decide +kernel
theorem test_witness_StepRunsInstruction_default : (State.placeWords State.reset [0]).power = true ∧ ({ State.placeWords State.reset [0] with agenda := [] } : State).defaultTurn = some (.role who) := by decide +kernel
theorem test_witness_StepRunsEvent : Instr.isEvent .nop = false ∧ Instr.isEvent .tamper = true ∧ (∀ f, Instr.tamper ≠ .bringUp f) := ⟨by decide, by decide, fun _ h => by cases h⟩
theorem test_witness_MemoryCanonicalKept : let s := State.reset.placeWords [0x08900008]
    Memory.wf s.opened s.mem = true ∧ isNext (step s) = true := by decide +kernel

/-! ### More clauses: results that wait, held ports, refusals -/

/-- A state in which an MMA of the compute role stands between issue and result. -/
def pending (s : State) : State := s.onCore 0 fun c => { c with array := [⟨0, (grp s).order, .compute, 4, 8, 1, 1, true, true, .rne, 13, 13, [.sum 5 0], false, 0, 0, none⟩] }
theorem test_witness_pending_ports : ∃ (s : State) (g : Group) (k : Role) (x : Word), Acts s g k ∧ producer 2 = s.cur.role ∧ s.resultsPending s.cur = true ∧ (7 : SReg).isPort = false
    ∧ Taken [5] [7] s [x] s := ⟨pending (lab [(5, 3)]), _, _, 3, ac (by decide), by decide, by decide, by decide, rv (by decide)⟩
theorem test_witness_pending_ports_idle : ∃ (s : State) (g : Group) (k : Role), Acts s g k ∧ producer 2 = s.cur.role ∧ (g.roleq.get 2).length < 16 ∧ s.resultsPending s.cur = false :=
  ⟨lab [], _, _, ac (by decide), by decide, by decide, by decide⟩
theorem test_witness_pending_release : ∃ (s s1 : State) (g : Group) (k : Role) (x v : Word), Acts s1 g k ∧ x.toNat / 2 ^ 60 ≤ 1 ∧ x.toNat % 8 = 0 ∧ Taken [5, 6] [] s [x, v] s1
    ∧ s1.resultsPending s1.cur = true ∧ FenceKind.release ≠ .acquire :=
  ⟨pending (lab [(5, sp 8), (6, 1)]), pending (lab [(5, sp 8), (6, 1)]), _, _, sp 8, 1, ac (by decide), by decide, by decide, rv (by decide), by decide, by decide⟩
theorem test_witness_AcquireReleaseResult_acquire : follows (takes [5] [7]) (dataLab' 0 [(5, 0x10000)] 0x10000 [1]) (fun vs s1 => vs == [0x10000]
    && follows (acquireRoot .enclosure 0x10000) s1 fun _ sa => (sa.group 0 0).isSome && sa.cur == s1.cur && follows (memReadBytes (sa.self (grp sa)) 0x10000 8) sa fun bs s2 =>
      gives 7 (BitVec.ofNat 64 (leNat bs)) s2) = true := by decide +kernel
theorem test_witness_AtomicResult_orders : ∃ (s1 sa : State) (g : Group) (k : Role) (x : Word) (o : MemOrder), o = .acqRel ∧ Acts s1 g k ∧ Acts sa g k ∧ sa.cur = s1.cur
    ∧ s1.resultsPending s1.cur = false ∧ Runs (acquireRoot .enclosure x.toNat) s1 () sa :=
  ⟨lab [(5, sp 0), (6, 4)], lab [(5, sp 0), (6, 4)], _, _, sp 0, .acqRel, rfl, ac (by decide), ac (by decide), by decide, by decide, rv (by decide)⟩
theorem test_witness_pending_barrier : ∃ bar : Barrier, follows (takes [5] [7]) (pending (barLab 2)) (fun vs s1 => vs == [3 + 2 ^ 18] && s1.resultsPending s1.cur
    && follows (checkBar (3 + 2 ^ 18)) s1 fun b _ => b == bar) = true ∧ (barLab 2).resultsPending who = false := ⟨⟨1, 2, 0, 0, 3⟩, by decide +kernel⟩
theorem test_witness_BarrierResult_held : let s := (barLab 2).onRole who fun k => { k with pendingBar := some 2 }
    (follows (takes [5] [7]) s (fun vs s1 => vs == [3 + 2 ^ 18] && follows (checkBar (3 + 2 ^ 18)) s1 fun b s2 => (b.phase - 2).toNat == 1
      && gives 7 2 (s2.onRole who fun z => { z with pendingBar := none })) && ((s.role s.cur).any fun z => z.pendingBar == some 2) && ((barLab 2).role who).any fun z => z.pendingBar.isNone) = true := by decide +kernel
theorem test_witness_pending_roles : (pending (lab [] (aLine [0, 0, 0]))).resultsPending who = true ∧ (grp (lab [])).inSequence = false
    ∧ (let s := { pending (lab []) with cur := ⟨0, 0, .fetch⟩ }
       let t := { lab [] with cur := ⟨0, 0, .fetch⟩ }
       s.resultsPending who = true ∧ t.resultsPending t.cur = false ∧ t.cur.role ≠ .compute) := by decide +kernel
theorem test_witness_pending_fetch : let s := ({ lab [] with cur := ⟨0, 0, .fetch⟩ } : State).onCore 0 fun c => { c with array := [⟨0, (grp (lab [])).order, .fetch, 4, 8, 1, 1, true, true, .rne, 13, 13, [.sum 5 0], false, 0, 0, none⟩] }
    s.resultsPending s.cur = true ∧ s.cur.role ≠ .compute ∧ s.groupResults 0 0 (grp s) = true ∧ (lab []).groupResults 0 0 (grp (lab [])) = false := by decide +kernel
theorem test_witness_pending_copy : follows (takes [] [7]) (pending (clab 4)) (fun vs s1 => vs == [] && follows (copyChecks ⟨0, 1, 0, Walk4.ofBits ((grp s1).gens.get 3), Walk4.ofBits ((grp s1).gens.get 4), false, false, false, 0, 0, 0, 0, 0, 0⟩) s1
    fun f s3 => f.isNone && s3.cur == s1.cur && s3.resultsPending s3.cur) = true ∧ (clab 4).resultsPending who = false := by decide +kernel
theorem test_witness_pending_spawn : follows (memReadBytes ⟨0, some 0, some 0⟩ (2 ^ 60) 32)
    (pending (stateAfter (memWriteBytes ⟨0, some 0, some 0⟩ (2 ^ 60) (leBytes 24 0 ++ leBytes 4 0x1001)) (levelLab 1 .active none [(5, sp 0)]))) (fun bs s2 =>
      decide ((Record.ofBytes bs).flags < 32) && (s2.ctx 0).state != .draining && ((s2.ctx 0).activeLaunch (Record.ofBytes bs).launch).isSome && s2.resultsPending s2.cur) = true := by decide +kernel
theorem test_witness_pending_tlbi : ∃ (s : State) (g : Group) (k : Role), Acts s g k ∧ (s.ctx g.ctx).desc.sys = true ∧ Taken [5, 6] [] s [0x10000, 63] s ∧ k.drainAt = none
    ∧ s.resultsPending s.cur = true := ⟨pending (lab [(5, 0x10000), (6, 63)]), _, _, ac (by decide), by decide, rv (by decide), by decide, by decide⟩
theorem test_witness_pending_notify : follows (openNotify ⟨0, some 0, some 0⟩ 0x4080000000010000 (sp 0).toNat) (pending (noteLab [] 0 1)) (fun n s2 => follows (checkRing ⟨0, some 0, some 0⟩ n 1) s2
    fun _ s3 => follows (memReadBytes ⟨0, some 0, some 0⟩ (sp 0).toNat 64) s3 fun _ s4 => s4.resultsPending s4.cur) = true := by decide +kernel
theorem test_witness_MatrixInstructions_absent : (∃ q < 4, partner (lab []) 0 (grp (lab [])) q = none)
    ∧ ∀ q < 4, partner (mmacLab fun _ => bDesc 1 2 3) 0 (grp (mmacLab fun _ => bDesc 1 2 3)) q ≠ none := by decide +kernel
/-- The four groups at MMAC, a granule of A lost. -/
def lostLab : State := (mmacLab fun _ => bDesc 1 2 3).addPoison (2 ^ 60 / 64)

/-! ### More clauses: streams -/

/-- The stream of an LS copy in slot 1 of Lattice 2: the copy of the laboratory owns it. -/
def lsLab (f : Stream → Stream) : State :=
  let s := copyAt (.reading 0 1 []) false
  { s with inflight := [], lats := (aStream fun t => f { t with copy := some (((copying.core 0).cmds.map Cmd.seq).headD 0) }).lats }
theorem test_witness_StreamInstructions_held : let s := aStream fun t => { t with order := t.order + 1 }
    ((s.latSlot 2 1).stream.any fun t => !t.heldBy s.cur (grp s) && t.copy.isNone && gives 7 0 s) = true
    ∧ (let u := lsLab id
       (u.latSlot 2 1).stream.any fun t => !t.heldBy u.cur (grp u) && t.copy.isSome) = true := by decide +kernel
theorem test_witness_StreamInstructions_results : let s := pending (slab (some anImage))
    ((s.latSlot 2 1).stream.isNone && s.resultsPending s.cur && !(slab (some anImage)).resultsPending who) = true := by decide +kernel
theorem test_witness_StreamSteps_copy : let m : RowOut := ⟨[], [], [(0, false)], 0, none, 0, []⟩
    let s := lsLab fun t => { t with state := .running, rows := 1, made := [m] }
    ((s.latSlot 2 1).stream.any fun t => t.made == [m] && t.binds.isEmpty && t.copy.any fun q => (s.cmd t.core q).isSome
      && follows (lsArrived t.core q) ((s.onLat 2 1 fun y => { y with stream := some { t with made := [], row := 1, kept := [⟨0, m.lanes, 0, 0⟩] } }).atEdge 2 1) fun _ _ => true) = true := by decide +kernel
/-- A stream with a compressed output at port 4, whose block lies in a part of the pool that no port carries. -/
def headerBind : Binding := ⟨genWord 0x200000 256 20, 1 + 2 + 4 + 3 * 2 ^ 8 + 2 ^ 4 + 2 ^ 5 + 2 ^ 10 + 2 ^ 44, none⟩
def headerLab (row : Nat) : State :=
  let s := aStream fun t => { t with state := .running, row := row, rows := 1, made := (if row = 0 then [⟨[], [], [], 0, none, 0, [4]⟩] else []), binds := [(4, headerBind)] }
  { s with heads := vset s.heads 0 { s.heads.get 0 with up := false }, extents := [⟨1, 2 ^ 44, 2 ^ 21, .granted⟩] }
theorem test_witness_StreamSteps_header : (((headerLab 0).latSlot 2 1).stream.any fun t => t.forms == [4] && decide (t.row + 1 = t.rows)) = true
    ∧ (((headerLab 1).latSlot 2 1).stream.any fun t => (headerLab 1).unitsDue 2 1 t 4 == [(1, 0)]
      && follows (attempt ((t.outBytes 4 1).forM (streamWrite t.ctx (headerBind) false))) (headerLab 1) (fun r s2 => (match r with
        | .error e => e.code == 0x13
        | .ok _ => false) && follows (spoilRow t 1) (s2.onStream 2 1 fun u => u.failRow 1 0x13) fun _ _ => true)
      && (let s := (headerLab 1).onStream 2 1 fun t => t.issue 4 1 0
          (s.latSlot 2 1).stream.any fun t => t.issued == [(4, 1, 0)] && follows (putBurst t 2 1 4 1 (2048) headerBind) s fun e s2 => e == 0
            && (s2.latSlot 2 1).stream.any fun v => (v.done 4 1 0 1).landed == [(4, 1)])) = true := by decide +kernel
/-- The tree of its region is at the end of a counter. -/
def exhaustedLab : State :=
  let s := { headerLab 1 with regions := vset (headerLab 1).regions 0 (some ⟨2 ^ 44, 2 ^ 20, 1, 0, 0, 0, 2 ^ 44 + 2 ^ 20, 2 ^ 44 + 3 * 2 ^ 19, false⟩) }
  { s with mem := memWrite s.opened s.mem (2 ^ 44 + 3 * 2 ^ 19) (List.replicate 7 255) }
theorem test_witness_StreamSteps_exhausted : (((exhaustedLab.onStream 2 1 fun t => t.issue 4 1 0).latSlot 2 1).stream.any fun t =>
    follows (putBurst t 2 1 4 1 2048 headerBind) exhaustedLab fun e _ => e == 0x0F) = true := by decide +kernel
theorem test_witness_StreamSteps_hold : let s := aStream fun t => { t with state := .held, holdReq := true, boundary := true }
    ((s.latSlot 2 1).stream.any fun t => t.state == .held && t.boundary) = true ∧ (∀ j < 16, (s.pcStat (16 * 2 + j)).waiters = []) := by decide +kernel
theorem test_witness_CalendarSteps_waits : let s := aStream fun t => { t with state := .held, holdReq := true }
    s.noneWaits 2 = true ∧ (s.lats.any fun q => q.1 / 4 == 2 && q.2.stream.any fun u => u.state == .held) = true
    ∧ (s.onPc 33 fun p => { p with waiters := [0] }).noneWaits 2 = false := by decide +kernel

/-! ### More clauses: copies and link commands -/

theorem test_witness_LinkInstructions_announce : follows (readPeers (sp 0x10000).toNat) (peerLab []) (fun set_ s2 =>
    let v := Walk4.ofBits ((grp s2).gens.get 4)
    follows (matchNumber set_ 9 1 2) s2 fun n s3 => follows (accept (.recv set_ 1 9 n) (linkReq (eop) v v) none [] [v.range]) s3 fun id s4 =>
      (s4.core 0).cmds.getLast?.any fun j => follows (announce j) s4 fun _ t => gives 7 id t) = true ∧ (peerLab []).resultsPending who = false := by decide +kernel
theorem test_witness_LinkInstructions_foreign : let s := { mcstLab with regions := vset mcstLab.regions 0 (some ⟨2 ^ 44, 2 ^ 20, 2, 0, 1, 3, 2 ^ 44 + 2 ^ 20, 0, true⟩) }
    follows (replicatedRange ⟨0, some 0, some 0⟩ (Walk4.ofBits ((grp s).gens.get 4)).range) s (fun rs _ => rs.any fun r => r.2.ownCtx != 0) = true := by decide +kernel
theorem test_witness_CopySteps_kept : let s := inGroup copying fun g => { g with squashed := [((copying.core 0).cmds.map Cmd.seq).headD 0] }
    ((s.core 0).cmds.all fun y => !y.timed) = true ∧ (s.core 0).cmds.find? (fun y => y.ch == 1 && y.st == .queued && !s.keptBack 0 y) = none
    ∧ ((copying.core 0).cmds.find? fun y => y.ch == 1 && y.st == .queued && !copying.keptBack 0 y).isSome = true := by decide +kernel
theorem test_witness_CopySteps_moves : let s := copyAt (.writing 0 0 []) true
    ((s.started 0 1).any fun j => follows (do applyMoved j 0 [] (← movedOf j 0 0 []) : X Unit) s (fun _ _ => true)) = true
    ∧ (let u := s.onCore 0 fun c => { c with cmds := c.cmds.map fun j => { j with dst := { j.dst with base := 0x300000 } } }
       (u.started 0 1).any fun j => !j.ls && follows (attempt (do applyMoved j 0 [] (← movedOf j 0 0 []) : X Unit)) u fun r _ => match r with
        | .error _ => true
        | .ok _ => false) = true := by decide +kernel
theorem test_witness_CopySteps_exchange : let s := (after (.cred { eop with a := 5, b := 6 }) (peerLab [(6, 9)])).onCore 0 fun c => { c with cmds := c.cmds.map fun j => { j with st := .exchanging true [] } }
    ((s.started 0 1).any fun j => j.st == .exchanging true [] && follows (exchange j 0 true []) s fun _ _ => true) = true := by decide +kernel
theorem test_witness_CopySteps_follow : let s := (after (.bld (xop)) (mlab (bDesc 1 2 1) 1))
    (let f : Follow := ⟨0, xop, (bDesc 1 2 1).toNat, genKM 2 1 1, 0⟩
     let u := (copyAt (.writing 0 0 []) true).onCore 0 fun c => { c with cmds := c.cmds.map fun j => { j with follow := some f } }
     (u.started 0 1).any fun j => j.follow == some f && decide (0 + 1 = j.chunks) && follows (finishCopy j 0) u fun _ _ => true) = true ∧ s.power = true := by decide +kernel
theorem test_witness_CopySteps_drain : let s := (copyAt (.reading 0 1 [⟨false, 0, 0, 0, 0⟩]) false).onRole who fun k => { k with drainAt := some (tlbiDrain 0 63 0 1) }
    let u := { s with cycle := 6000 }
    (u.allRoles.any fun q => q.2.2.drainAt.any fun d => decide (d.since + 6000 ≤ u.cycle.toNat) && (u.started 0 1).any fun j => d.heldBefore d.tick j) = true := by decide +kernel
theorem test_witness_MatrixInstructions_lost : let s := lostLab
    follows (mmacSide mop (bDesc 1 2 3).toNat) s (fun own s2 => follows ((List.range 4).mapM fun q => if q = 0 then pure own else mmacPartner who (grp s) q) s2 fun sides s3 =>
      mmacAgree sides && follows (sides.mapM fun y => attempt (mmaOuts y.src y.shape y.op (128 * (y.id.core.val % 4 / 2)) y.rows)) s3 fun rs s4 =>
        (sharedPoison rs).any fun t => t.code == 0x08 && s4.cur == s.cur) = true := by decide +kernel

/-! ### More clauses: launches, groups, contexts, pages -/

theorem test_witness_LevelEntry_eligible : let s := queueLab
    let d := { aDesc with parent := 0, count := 1 }
    let l := fun (gen : BitVec 20) => (⟨1, .active, false, gen, 0, 1, 0, 1, some d, some aHeader, none⟩ : Level)
    ((s.ctx 0).refuses = false ∧ (s.ctx 0).parentOk d.parent 1 = true ∧ d.kind = 0) ∧ (s.ctx 0).freeEntry.any (fun e => follows (putLevel 0 e.1 (l e.2)) s fun _ s1 =>
      follows (addChild 0 d.parent d.last) s1 fun _ s2 => follows (logEvent 0 0 (some 0) (levelHandle e.1 (l e.2)) d.count) s2 fun _ s3 =>
        follows (pushTail 0 (Fin.ofNat 4 d.prio) (.cursor (levelHandle e.1 (l e.2)) 0)) s3 fun _ _ => true) = true := by decide +kernel
theorem test_witness_HostLaunchSteps : let s := (stateAfter (memWriteBytes ⟨0, some 0, some 0⟩ (2 ^ 60) (launchBytes 2)) (lab [])).onCtx 0 fun c => { c with hostPending := [BitVec.ofNat 64 (2 ^ 60), 5] }
    (s.ctx 0).hostPending = [BitVec.ofNat 64 (2 ^ 60), 5] ∧ (s.ctx 0).state ≠ .free ∧ (s.ctx 0).state ≠ .created ∧ follows (launchAt ⟨0, none, none⟩ (2 ^ 60)) s (fun h _ => h != 0) = true
    ∧ (State.reset.onCtx 3 fun c => { c with hostPending := [5] }).ctx 3 = { (State.reset.ctx 3) with hostPending := [5] } := by decide +kernel
/-- A map of these keys, each to the same value. -/
theorem get_all {α : Type} (v : α) : ∀ (ks : List Nat) (k : Nat), k ∈ ks → SMap.get (ks.map fun i => (i, v)) k = some v := by
  intro ks
  induction ks with
  | nil => intro k h; cases h
  | cons a ks ih =>
    intro k h
    by_cases hk : a = k
    · simp [SMap.get, hk]
    · have hm : k ∈ ks := by
        rcases List.mem_cons.mp h with h | h
        · exact absurd h.symm hk
        · exact h
      simp [SMap.get, hk, ih k hm]
theorem test_witness_LevelEntry_full : ∃ c : Context, c.refuses = false ∧ c.parentOk 0 1 = true ∧ c.freeEntry = none := by
  refine ⟨{ queueLab.ctx 0 with levels := ((List.range 4095).map fun j => j + 1).map fun i => (i, ⟨2, .active, true, 1, 0, 4, 2, 2, none, none, none⟩) }, by decide, rfl, ?_⟩
  unfold Context.freeEntry
  rw [List.findSome?_eq_none_iff]
  intro j hj
  dsimp only
  rw [get_all _ _ _ (List.mem_map.mpr ⟨j, hj, rfl⟩)]
  rfl
/-- A kernel header, and the launch of two of its groups. -/
def headerBytes : List Byte := leBytes 2 0x4B44 ++ [1, 0] ++ leBytes 4 1 ++ leBytes 4 0 ++ [1, 1, 0, 0] ++ List.replicate 48 0
def kernelLaunch : List Byte := leBytes 8 0 ++ leBytes 8 0x10000 ++ List.replicate 20 0 ++ leBytes 4 2 ++ List.replicate 24 0
theorem test_witness_HostLaunchSteps_waits : let s0 := (graphLab 5).onCtx 0 fun c => { c with logHead := BitVec.ofNat 32 c.logCap, logTail := 0 }
    let s := stateAfter (memWriteBytes ⟨0, some 0, some 0⟩ (2 ^ 60) kernelLaunch) { s0 with mem := memWrite s0.opened s0.mem 0x10000 headerBytes }
    (match launchAt ⟨0, none, none⟩ (2 ^ 60) s with
    | .error .wait => true
    | .error _ => false
    | .ok _ => false) = true ∧ (s.ctx 0).state ≠ .free := by decide +kernel
theorem test_witness_SlotSteps_marks : let s := startLab (.restoring 0x40 (.checkpoint 0)) 0 fun g => g.onRole .compute fun r => { r with ended := true }
    let t := { startLab (.restoring 0x40 (.checkpoint 0)) 0 with cycle := 5 }
    (((grp s).role .compute).ended && !((grp s).role .compute).stalled && (s.ctx 0).state == .running && t.headerOf (grp t) == some aHeader
      && decide (0 + aHeader.yieldmax ≤ t.cycle.toNat) && (grp t).drainAt.isNone && follows (decideTreatment 0 0 (grp t) 2) t fun _ _ => true) = true := by decide +kernel
theorem test_witness_SlotSteps_drainMark : let s := startLab (.restoring 0x40 .drain) 0 fun g => g.onRole .compute fun r => { r with ended := true }
    (((grp s).role .compute).ended && (grp s).state == .restoring 0x40 .drain && (s.ctx 0).state == .running) = true := by decide +kernel
theorem test_witness_ContextCommands_refused : ((ctxLab .free fun c => { c with busy := true }).ctx 1).busy = true ∧ (ctxLab .loaded).safe = false ∧ ((ctxLab .loaded).ctx 1).state = .loaded
    ∧ ((ctxLab .created).onCtx 2 fun c => { c with state := .scrubbing, desc := ((ctxLab .created).ctx 1).desc }).heldBy 1 [.scrubbing] = true
    ∧ ((ctxLab .created).onCtx 2 fun c => { c with state := .running, desc := ((ctxLab .created).ctx 1).desc }).heldBy 1 [.loaded, .running, .suspended, .draining] = true := by decide +kernel
/-! ### More clauses: ports and links -/

/-- The laboratory of ports with a line cached and a region of a kind at the start of the pool, one neighbour holding the line. -/
def snoopLab (kind : Nat) (dirty : Bool) : State :=
  { portLab dirty with regions := vset (lab []).regions 0 (some ⟨2 ^ 44, 2 ^ 20, kind, 0, 0, 0, 0, 0, false⟩), proxied := [(3, 2 ^ 38)] }
theorem test_witness_PortSteps_snoop : ((snoopLab 1 true).cached (2 ^ 38)).any (fun l => l.dirty) = true ∧ ((snoopLab 1 false).cached (2 ^ 38)).any (fun l => !l.dirty) = true
    ∧ (snoopLab 1 false).cached (2 ^ 38 + 1) = none ∧ ((snoopLab 1 false).regionAt (2 ^ 44)).any (fun r => r.2.kind != 3) = true ∧ (snoopLab 1 false).holders (2 ^ 38) 16 = [3]
    ∧ (snoopLab 1 false).holders (2 ^ 38 + 1) 16 = [] ∧ (snoopLab 1 false).snoopWait.any (fun v => v.1 == 3 && v.2.1 == 2 ^ 38) = false
    ∧ ((snoopLab 3 false).regionAt (2 ^ 44)).any (fun r => r.2.kind == 3) = true ∧ (snoopLab 1 false).regionAt (2 ^ 44 + 2 ^ 21) = none := by decide +kernel
theorem test_witness_PortSteps_fill : let s := { snoopLab 1 false with heads := vset (snoopLab 1 false).heads 0 ⟨true, none, []⟩ }
    poolLineNo (2 ^ 38) = true ∧ s.granted (2 ^ 38 * 64) = true ∧ s.cached (2 ^ 38) = none ∧ Memory.wf s.opened s.mem = true
    ∧ ((s.heads.get (portOf (2 ^ 38))).cache.all fun l => !l.dirty) = true ∧ (s.heads.get 0).up = true
    ∧ ({ s with heads := vset s.heads 0 { s.heads.get 0 with up := false } } : State).granted (2 ^ 44) = true := by decide +kernel
/-- Link 1 carries traffic with n credits of each channel; something waits there for credits of channel 1. -/
def linkLab (n left : Nat) : State :=
  { snoopLab 1 true with links := vset (lab []).links 1 { Link.fresh with trained := true, credits := Vector.replicate 4 n }
                         txWait := [⟨1, 1, left, .answer 7 none⟩] }
theorem test_witness_LinkSteps_credit : ((linkLab 0 2).links.get 1).carries = true ∧ (linkLab 0 2).txWait = [⟨1, 1, 2, .answer 7 none⟩] ∧ 2 ≤ 0 + 2 ∧ 0 + 1 < 2 ∧ 1 ≤ 0 + 1
    ∧ ((linkLab 0 2).txWait.all fun y => y.link != 1 || y.vc != 2) = true := by decide +kernel
theorem test_witness_LinkSteps_snoop : (linkLab 4 1).unsnooped (2 ^ 38) = false ∧ ((linkLab 4 1).cached (2 ^ 38)).any (fun c => c.dirty) = true ∧ (linkLab 4 1).unsnooped (2 ^ 38 + 2 ^ 15) = true
    ∧ (linkLab 4 1).cached (2 ^ 38 + 1) = none ∧ poolLineNo (2 ^ 38 + 2 ^ 15) = true := by decide +kernel
theorem test_witness_LinkSteps_request : ((linkLab 4 1).heads.get (portOf (2 ^ 38))).up = true ∧ (linkLab 4 1).holders (2 ^ 38) 3 = [] ∧ (linkLab 4 1).holders (2 ^ 38) 2 = [3]
    ∧ (linkLab 4 1).proxyWait.any (fun y => y.line == 2 ^ 38) = false ∧ (linkLab 4 1).snoopWait.any (fun y => y.2.1 == 2 ^ 38) = false
    ∧ (({ linkLab 4 1 with heads := vset (linkLab 4 1).heads 0 ⟨false, none, []⟩ } : State).heads.get (portOf (2 ^ 38))).up = false := by decide +kernel
theorem test_witness_LinkSteps_response : let s := { linkLab 4 1 with snoopWait := [(3, 2 ^ 38, true)] }
    (s.snoopWait.find? fun y => y.2.1 == 2 ^ 38 && (s.linkTo y.1 0).val / 2 == (s.linkTo 3 0).val / 2) = some (3, 2 ^ 38, true)
    ∧ s.proxyWait.any (fun y => y.line == 2 ^ 38) = false ∧ ((linkLab 4 1).snoopWait.find? fun y => y.2.1 == 2 ^ 38 && true) = none
    ∧ s.refusedLines.contains (2 ^ 38) = false ∧ (⟨List.replicate 64 1, false, 0⟩ : LineData).data ≠ [] ∧ s.granted (2 ^ 38 * 64) = true := by decide +kernel
theorem test_witness_LinkSteps_time : let s := { linkLab 4 1 with txWait := [], cycle := 2 ^ 20 }
    s.exchanges < s.cycle.toNat / 2 ^ 20 ∧ s.txWait = [] ∧ 1 ≤ (s.links.get 1).credits.get 3 ∧ (linkLab 4 1).cycle.toNat / 2 ^ 20 ≤ (linkLab 4 1).exchanges ∧ linkPeer 2 1 1 < 1 ∧ ¬ linkPeer 2 0 1 < 0 ∧ 2 < ((7 : Word) + 180 - 0 - 100).toNat ∧ 2 < ((100 : Word) - (7 + 180 - 0)).toNat ∧ ((7 : Word) + 180 - 0 - 185).toNat ≤ 2 := by decide +kernel
theorem test_witness_LinkSteps_retrain : let l := { Link.fresh with trained := true, replays := 1025 }
    let s := { linkLab 4 1 with links := vset (vset (linkLab 4 1).links 1 l) 0 { l with replays := 0 } }
    (s.links.get 1).training = false ∧ 1024 < (s.links.get 1).replays ∧ s.cycle.toNat < (s.links.get 1).since + 1200000 ∧ (s.links.get (otherLink 1)).carries = true
    ∧ ({ l with training := true } : Link).training = true ∧ ({ s with cycle := 1200000 } : State).cycle.toNat ≥ (s.links.get 1).since + 1200000 := by decide +kernel
theorem test_witness_LinkSteps_transmit : let o := Outgoing.answer 7 none
    let s := { linkLab 4 1 with txWait := [] }
    (s.links.get 1).carries = true ∧ (s.txWait.all fun y => y.link != 1 || y.vc != o.vc) = true ∧ o.flits ≤ (s.links.get 1).credits.get o.vc
    ∧ ((linkLab 0 1).links.get 1).credits.get o.vc = 0 ∧ ((linkLab 4 1).links.get 2).carries = false := by decide +kernel
theorem test_witness_LinkSteps_messages : (linkLab 4 1).accepts (aMessage 0 .send) = true ∧ (aMessage 2 .send).dstProc.val ≠ (linkLab 4 1).encProc.toNat ∧ isContribution (aMessage 0 .send).kind = false := by decide +kernel
theorem test_witness_LinkSteps_ended : let m := aMessage 0 (.contribution 0)
    let s := { linkLab 4 1 with coll := [(⟨0, 0, 0, 0, 0, 0, 0⟩, 1)] }
    s.accepts m = true ∧ isContribution m.kind = true ∧ s.collOwed.find? (fun y => y.by_ m) = none ∧ (⟨0, 0, 0, 0, 0, 1, 0⟩ : Owed).by_ m = true
    ∧ (⟨0, 0, 0, 0, 0, 1, 0⟩ : Owed).by_ { m with fmt := mismatchFmt } = true ∧ m.fmt ≠ mismatchFmt ∧ m.srcProc.val ≠ s.encProc.toNat
    ∧ (⟨0, 0, 0, 0, 0, 0, 0⟩ : Owed).by_ { m with srcProc := 0 } = true ∧ s.accepts { m with srcProc := 0 } = true := by decide +kernel
/-! ### A page that PGMIG moves -/

/-- The fault of an access to capacity that is not granted. -/
def lost (va : Nat) : Trap := { code := 0x13, va := BitVec.ofNat 64 va }
theorem runs_attempt {α : Type} {x : X α} {s t : State} {a : α} (h : Runs x s a t) : Runs (attempt x) s (.ok a) t := by
  unfold Runs attempt at *; rw [h]
theorem runs_attempt_fault {α : Type} {x : X α} {s : State} {t : Trap} (h : Raises x s t none) : Runs (attempt x) s (.error t) s := by
  unfold Runs Raises attempt at *; rw [h]; rfl
theorem not_granted {s : State} (hg : s.extents = []) (pa : Nat) : s.granted pa = false := by simp [State.granted, hg]
theorem pool_write_fails {s : State} (hg : s.extents = []) (key : KeyRef) (va pa : Nat) (bs : List Byte) : Raises (poolWriteLine key va pa bs) s (lost va) none :=
  raises_bind_right (runs_get s) (by rw [if_pos (by simp [not_granted hg])]; exact raises_fault ..)
theorem pool_line_fails {s : State} (hg : s.extents = []) (key : KeyRef) (va line : Nat) : Raises (poolLine key va line) s (lost va) none := by
  refine raises_bind_right (runs_get s) ?_
  cases hr : s.readReplica (line * 64) with
  | none => exact raises_fault ..
  | some pa =>
    dsimp only
    rw [if_pos (by simp [not_granted hg])]
    exact raises_fault ..
/-- Where no capacity is granted, nothing of a page whose new place lies in the pool arrives. -/
theorem pool_raw_fails {s : State} (hg : s.extents = []) (key : KeyRef) (pa : Nat) (bs : List Byte) {c : Fin 8} {o : Nat} (hb : backing s.srows pa = .pool c o) :
    ∃ r, Runs (attempt (rawWrite key 0 pa bs)) s r s := by
  cases hp : pieces 64 pa bs with
  | nil =>
    refine ⟨_, runs_attempt (a := ()) (runs_bind (runs_get s) ?_)⟩
    rw [hb]; dsimp only; rw [hp]; exact runs_pure ..
  | cons p ps =>
    refine ⟨_, runs_attempt_fault (t := lost (0 + (p.1 - pa))) (raises_bind_right (runs_get s) ?_)⟩
    rw [hb]; dsimp only; rw [hp]
    exact raises_bind (pool_write_fails hg ..)
theorem meet_idle {s : State} (h : s.decayed = []) (pa n : Nat) : s.meetErrors pa n = s := by
  cases s; cases h; rfl
theorem move_atom_idle {s : State} (hg : s.extents = []) (hz : s.decayed = []) (key : KeyRef) (src dst : Nat) {a b : Nat} (hs : backing s.srows src = .hbm a b) {c : Fin 8} {o : Nat}
    (hb : backing s.srows dst = .pool c o) : Runs (moveAtom key src dst) s () s := by
  have hr : Runs (rawRead key 0 src 64) s (s.hbmRead key src 64) s := runs_bind (runs_get s) (by
    rw [hs]; dsimp only; rw [meet_idle hz]; exact runs_bind (runs_set ..) (runs_pure ..))
  have hp : Runs (attempt (poisonPa key 0 dst)) s (.ok ()) s := runs_attempt (runs_bind (runs_get s) (by
    rw [hb]; dsimp only
    exact runs_bind (runs_attempt_fault (pool_line_fails hg ..)) (runs_pure ..)))
  obtain ⟨w, hw⟩ := pool_raw_fails hg key dst (s.hbmRead key src 64).1 hb
  refine runs_bind (runs_attempt hr) (runs_bind hw ?_)
  dsimp only
  by_cases hc : (s.hbmRead key src 64).2 = true
  · rw [if_pos hc]; exact runs_bind hp (runs_pure ..)
  · rw [if_neg hc]; exact runs_pure ..
theorem forM_idle {α : Type} (f : α → X Unit) (s : State) (xs : List α) (h : ∀ x ∈ xs, Runs (f x) s () s) : Runs (xs.forM f) s () s := by
  induction xs with
  | nil => exact runs_pure ..
  | cons x xs ih => exact runs_bind (h x (List.mem_cons_self ..)) (ih fun y hy => h y (List.mem_cons_of_mem _ hy))
theorem move_page_idle {s : State} (hg : s.extents = []) (hz : s.decayed = []) (key : KeyRef) {src dst : Nat} (hr : s.srows = 0) (hs : src + 2 ^ 16 ≤ 2 ^ 39) (hd : 2 ^ 44 ≤ dst)
    (he : dst + 2 ^ 16 ≤ 2 ^ 44 + 2 ^ 45) : Runs (movePage key false src dst) s () s := by
  refine forM_idle _ s _ fun b hb => ?_
  have hb : b < 256 := List.mem_range.mp hb
  refine runs_bind (runs_get s) (runs_bind (t := s) (a := ()) (forM_idle _ s _ fun i hi => ?_) (runs_pure ..))
  have hi : i < 4 := List.mem_range.mp hi
  exact move_atom_idle hg hz key _ _ (by unfold backing; rw [if_pos (by rw [hr]; omega)]) (by
    unfold backing
    rw [if_neg (by rw [hr]; omega), if_neg (by simp [hr]), if_pos (by simp; omega)])
theorem migrate_idle {s t taken : State} {x : CtxId} {va at3 f q r v src : Nat} {d : Drain} {key : KeyRef} (hg : taken.extents = []) (hz : taken.decayed = []) (hr : taken.srows = 0)
    (h0 : Runs (attempt (tableRead x va (((s.ctx x).fpq q).base + 8 * (((s.ctx x).fpq q).head % ((s.ctx x).fpq q).cap)))) s (.ok v) s)
    (hk : taken = s.onCtx x fun c => { c with fpqs := c.fpqs.set q { (s.ctx x).fpq q with head := (((s.ctx x).fpq q).head + 1) % 2 ^ 32 } })
    (hc : leafC f = false) (hp : leafPa f = src) (hy : s.keyOf (leafKey f) = key) (hs : src + 2 ^ 16 ≤ 2 ^ 39)
    (hd : 2 ^ 44 ≤ v / 2 ^ 16 % 2 ^ 36 * 2 ^ 16) (he : v / 2 ^ 16 % 2 ^ 36 * 2 ^ 16 + 2 ^ 16 ≤ 2 ^ 44 + 2 ^ 45)
    (ht : Runs (do
      tableWrite x at3 (movedLeaf f (v / 2 ^ 16 % 2 ^ 36 * 2 ^ 16) ((s.ctx x).fpq q).kind)
      modify fun s => s.invalidate d
      zeroPage key src
      appendPage x r src) taken () t) : Runs (migrate x va at3 f q r d) s () t := by
  have hm := move_page_idle hg hz key hr hs hd he
  subst hk hp hy
  refine runs_bind (runs_get s) (runs_bind h0 (runs_bind (runs_modify _ _) (runs_bind (a := ()) ?_ ht)))
  rw [hc]
  exact hm
/-- The laboratory of PGMIG without granted capacity, at the move. -/
def pmLab : State := { pageLab [(5, 0x10000), (6, 1 + 2 * 16)] 3 with extents := [] }
def pmDrain : Drain := ⟨0, some 0, 1, 2, 0, 0, true⟩
/-- The state in which the page moves, and what follows. -/
def pmTaken : State := pmLab.onCtx 0 fun c => { c with fpqs := c.fpqs.set 1 { (pmLab.ctx 0).fpq 1 with head := (((pmLab.ctx 0).fpq 1).head + 1) % 2 ^ 32 } }
theorem pm_read : answers (attempt (tableRead 0 0x10000 (((pmLab.ctx 0).fpq 1).base + 8 * (((pmLab.ctx 0).fpq 1).head % ((pmLab.ctx 0).fpq 1).cap)))) pmLab (.ok (2 ^ 44 + 0x10000)) = true := by decide +kernel
/-- What accesses to tables leave alone. -/
def Kept (s t : State) : Prop := t.srows = s.srows ∧ t.ctxs = s.ctxs ∧ t.cores = s.cores ∧ t.cur = s.cur
theorem Kept.trans {s t u : State} (h : Kept s t) (h2 : Kept t u) : Kept s u :=
  ⟨h2.1.trans h.1, h2.2.1.trans h.2.1, h2.2.2.1.trans h.2.2.1, h2.2.2.2.trans h.2.2.2⟩
theorem atom_kept (s : State) (key : KeyRef) (pa : Nat) (bs : List Byte) : Kept s (s.hbmWriteAtom key pa bs) := by
  unfold State.hbmWriteAtom State.dropPoison State.putBytes
  dsimp only
  split_ifs <;> exact ⟨rfl, rfl, rfl, rfl⟩
theorem atoms_kept (key : KeyRef) (ps : List (Nat × List Byte)) : ∀ s : State, Kept s (ps.foldl (fun t p => t.hbmWriteAtom key p.1 p.2) s) := by
  induction ps with
  | nil => exact fun s => ⟨rfl, rfl, rfl, rfl⟩
  | cons p ps ih => exact fun s => (atom_kept ..).trans (ih _)
theorem local_page {s : State} (hr : s.srows = 0) {pa : Nat} (h : pa < 2 ^ 39) :
    backing s.srows pa = .hbm (Nat.xor (pa / 2 ^ 8 % 2 ^ 9) (pa / 2 ^ 17 % 2 ^ 9)) (pa / 2 ^ 19) := by unfold backing; rw [if_pos (by rw [hr]; omega)]
theorem table_write_local {s : State} (hr : s.srows = 0) (x : CtxId) (pa v : Nat) (h : pa < 2 ^ 39) : ∃ t, Runs (tableWrite x pa v) s () t ∧ Kept s t :=
  ⟨_, runs_bind (runs_get s) (runs_bind (runs_get s) (by rw [local_page hr h]; exact runs_set ..)), atoms_kept ..⟩
theorem zero_page_local {s : State} (hr : s.srows = 0) (key : KeyRef) (pa : Nat) (h : pa < 2 ^ 39) : ∃ t, Runs (zeroPage key pa) s () t ∧ Kept s t :=
  ⟨s.zeroUnder key pa (2 ^ 16), runs_bind (runs_get s) (by rw [local_page hr h]; exact runs_set ..), rfl, rfl, rfl, rfl⟩
theorem append_page_local {s : State} (hr : s.srows = 0) (x : CtxId) (q pa : Nat) (h : ((s.ctx x).fpq q).base + 8 * (((s.ctx x).fpq q).tail % ((s.ctx x).fpq q).cap) < 2 ^ 39) :
    ∃ t, Runs (appendPage x q pa) s () t ∧ t.cores = s.cores ∧ t.cur = s.cur := by
  obtain ⟨t, ht, -, -, hc, hu⟩ := table_write_local hr x _ pa h
  exact ⟨_, runs_bind (runs_get s) (runs_bind ht (runs_modify ..)), hc, hu⟩
theorem invalidate_group (s : State) (d : Drain) (c : CoreId) (i : SlotId) : (s.invalidate d).group c i = s.group c i := by
  simp [State.group, State.core, State.invalidate, vget]
theorem pm_moves : ∃ s4 g4 k4, Runs (migrate 0 0x10000 0x120008 0x10007 1 2 pmDrain) pmLab () s4 ∧ Acts s4 g4 k4 := by
  obtain ⟨s1, h1, r1, c1, o1, u1⟩ := table_write_local (s := pmTaken) rfl 0 0x120008 (movedLeaf 0x10007 ((2 ^ 44 + 0x10000) / 2 ^ 16 % 2 ^ 36 * 2 ^ 16) ((pmLab.ctx 0).fpq 1).kind) (by decide)
  obtain ⟨s2, h2, r2, c2, o2, u2⟩ := zero_page_local (s := s1.invalidate pmDrain) r1 (pmLab.keyOf (leafKey 0x10007)) 0x10000 (by decide)
  have hc : s2.ctxs = pmTaken.ctxs := c2.trans c1
  obtain ⟨s3, h3, o3, u3⟩ := append_page_local (s := s2) (r2.trans r1) 0 2 0x10000 (by
    have hq : s2.ctx 0 = pmTaken.ctx 0 := by unfold State.ctx; rw [hc]
    rw [hq]; decide +kernel)
  have hu : s3.cur = pmTaken.cur := u3.trans (u2.trans u1)
  have hg : s3.group s3.cur.core s3.cur.slot = pmTaken.group pmTaken.cur.core pmTaken.cur.slot := by
    have e1 : ∀ c i, s3.group c i = (s1.invalidate pmDrain).group c i := fun c i => by unfold State.group State.core; rw [o3, o2]
    have e2 : ∀ c i, s1.group c i = pmTaken.group c i := fun c i => by unfold State.group State.core; rw [o1]
    rw [e1, invalidate_group, e2, hu]
  exact ⟨s3, _, _, migrate_idle (taken := pmTaken) (v := 2 ^ 44 + 0x10000) (src := 0x10000) rfl rfl rfl (rv pm_read) rfl (by decide) (by decide) rfl (by decide) (by decide) (by decide)
    (runs_bind h1 (runs_bind (runs_modify ..) (runs_bind h2 h3))), ac (by rw [hg]; decide +kernel)⟩
theorem test_witness_PageMigration_free : follows (Machine.translate (pmLab.self (grp pmLab)) 0x10000 .write) pmLab (fun _ s2 => follows (leafNow 0 0x10000) s2 fun r s3 => r == some (0x120008, 0x10007)
      && s3.extents == [] && s3.srows == 0 && (grp s3).roles.toList.all (fun k => k.drainAt.isNone) && s3.cycle == 0 && (s3.core 0).cmdSeq == 0 && s3.tick == 0
      && !(s3.drainHeld pmDrain || s3.channelBusy 0 0 pmDrain.before)) = true := by decide +kernel

/-! ### More clauses: faults, the device, the host, the controller -/

theorem test_witness_RoleCommands_pass : let s := roleLab true false
    ((s.roleTarget (s.priv .host)).any fun q => (grp s).drainAt.isNone && (grp s).squashed.isEmpty && q.2.2.stalled && !s.noWayOn q.1 q.2.1 q.2.2 && (s.priv .host).rolePc != q.2.2.pc) = true
    ∧ ((roleLab true true).onRole who fun k => { k with cause := 0x15 }).noWayOn who (grp (roleLab true true)) { (grp (roleLab true true)).role .compute with cause := 0x15 } = true := by decide +kernel
theorem test_witness_RoleCommands_order : let s := roleLab true false
    ({ s with hostPriv := { s.hostPriv with roleNum := 3 } } : State).hostPriv.roleNum = 3 ∧ s.owns 0 0 = true ∧ s.owns 0 1 = false
    ∧ ({ s with hostPriv := { s.hostPriv with roleSlot := 1 } } : State).roleTarget (({ s with hostPriv := { s.hostPriv with roleSlot := 1 } } : State).priv .host) = none := by decide +kernel
/-- What the clauses on lines ask of a state: a running role at an address, with this line in hand. -/
def atLine (pc : Nat) (line : List Nat) : State := (lab [] line).onRole who fun k => { k with pc := BitVec.ofNat 64 pc }
theorem test_witness_FaultSteps_line : ∃ (s : State) (g : Group) (k : Role) (ws : List Nat), Acts s g k ∧ k.status = .running ∧ k.stalled = false ∧ k.pc.toNat < 2 ^ 55 ∧ k.line ≠ [] ∧ ws = k.line
    ∧ ¬ (ws.headD 0 / 2 ^ 29 % 8 ≤ 4 ∧ ws.headD 0 / 2 ^ 25 % 16 ≠ 0 ∧ ∀ w ∈ ws.drop (ws.headD 0 / 2 ^ 25 % 16 + 1), w = 0) :=
  ⟨atLine 4 (2 ^ 29 :: List.replicate 15 0), _, _, _, ac (by decide), by decide, by decide, by decide, by decide, rfl, by decide⟩
theorem test_witness_FaultSteps_lineHeld : ∃ (s : State) (g : Group) (k : Role) (ws : List Nat), Acts s g k ∧ k.status = .running ∧ k.line = [] ∧ s.lineHeld (s.self g) (k.pc.toNat / 64 * 64) = some ws
    ∧ ws.headD 0 / 2 ^ 25 % 16 = 0 :=
  ⟨(lab []).lineFill ⟨0, some 0, some 0⟩ 0 (List.replicate 16 0), _, _, List.replicate 16 0, ac (by decide), by decide, by decide, by decide, by decide⟩
theorem test_witness_FaultSteps_flow : ∃ (s : State) (g : Group) (k : Role), Acts s g k ∧ k.status = .running ∧ k.stalled = false ∧ k.ended = false ∧ 2 ^ 55 ≤ k.pc.toNat :=
  ⟨atLine (2 ^ 55) [], _, _, ac (by decide), by decide, by decide, by decide, by decide⟩
theorem test_witness_FaultSteps_owner : ∃ (s : State) (g : Group) (k : Role) (ws : List Nat), Acts s g k ∧ k.ended = false ∧ k.pc.toNat < 2 ^ 55 ∧ k.line ≠ [] ∧ ws = k.line
    ∧ (ws.headD 0 / 2 ^ 29 % 8 ≤ 4 ∧ ws.headD 0 / 2 ^ 25 % 16 ≠ 0 ∧ ∀ w ∈ ws.drop (ws.headD 0 / 2 ^ 25 % 16 + 1), w = 0)
    ∧ ownerOk s.cur.role g.inSequence (ws.headD 0 / 2 ^ 29 % 8) = false :=
  ⟨atLine 4 (2 ^ 25 :: List.replicate 15 0), _, _, _, ac (by decide), by decide, by decide, by decide, rfl, by decide, by decide⟩
theorem test_witness_FaultSteps_boundary : ∃ (g : Group) (k : Role), Acts (atLine 6 (aLine [0])) g k ∧ k.pc.toNat % 4 ≠ 0 ∧ wordLegal (aLine [0xE0008058, 0x01802800]) 2 = false := ⟨_, _, ac (by decide), by decide, by decide⟩
theorem test_witness_FaultSteps_word : ∃ (s : State) (g : Group) (k : Role) (ws : List Nat) (e : DecodeError), Acts s g k ∧ k.status = .running ∧ k.line ≠ [] ∧ ws = k.line ∧ k.pc.toNat < 2 ^ 55
    ∧ (ws.headD 0 / 2 ^ 29 % 8 ≤ 4 ∧ ws.headD 0 / 2 ^ 25 % 16 ≠ 0 ∧ ∀ w ∈ ws.drop (ws.headD 0 / 2 ^ 25 % 16 + 1), w = 0)
    ∧ ownerOk s.cur.role g.inSequence (ws.headD 0 / 2 ^ 29 % 8) = true ∧ k.chained = false ∧ k.pc.toNat % 4 = 0 ∧ wordLegal ws (k.pc.toNat % 64 / 4) = true
    ∧ decodeAt ws k.pc.toNat = .error e :=
  ⟨atLine 4 (aLine [0x34000000]), _, _, _, .unassignedMajor, ac (by decide), by decide, by decide, rfl, by decide, by decide, by decide, by decide, by decide, by decide, by decide⟩
/-- The compute role waits for q1, whose producer is idle, since the start; as long as a stall takes. -/
def emptyLab : State :=
  { (inGroup (lab []) fun g => g.onRole .compute fun k => { k with blocked := [⟨.role 0 0 1, false, 0⟩] }) with cycle := 120000 }
theorem test_witness_FaultSteps_empty : ∃ b : Group, emptyLab.group 0 0 = some b ∧ b.roleq.get 1 = [] ∧ (b.role (consumer 1)).status = .running ∧ (b.role (consumer 1)).stalled = false
    ∧ (b.role (consumer 1)).blocked = [⟨.role 0 0 1, false, 0⟩] ∧ 0 + 120000 ≤ emptyLab.cycle.toNat ∧ b.roleqMoved.get 1 + 120000 ≤ emptyLab.cycle.toNat ∧ (b.role (producer 1)).status ≠ .running
    ∧ (b.role (producer 1)).restAt + 120000 ≤ emptyLab.cycle.toNat := ⟨grp emptyLab, by decide +kernel⟩
/-- A held record, and a fault queue of two records whose header stands at 0x10000. -/
def faultLab (head tail : Nat) : State :=
  let s := (graphLab 5).onCtx 0 fun c => { c with desc := { c.desc with faultq := BitVec.ofNat 64 (0x82 * 2 ^ 55 + 0x10000) }, faultHeld := [List.replicate 64 1] }
  { s with mem := memWrite s.opened s.mem 0x10000 (leBytes 8 0x10100 ++ leBytes 4 2 ++ leBytes 4 0 ++ leBytes 8 head ++ leBytes 8 tail ++ leBytes 8 1) }
theorem test_witness_FaultSteps_room : let s := faultLab 7 8
    let w : Who := ⟨0, none, none⟩
    let fq := (s.ctx 0).desc.faultq.toNat
    (s.ctx 0).faultHeld = [List.replicate 64 1] ∧ fq / 2 ^ 55 = 0x82 ∧ fq % 64 = 0 ∧ follows (memReadBytes w (fq % 2 ^ 55) 64 .queue) s (fun h s1 => faultHeaderOk h
      && leNat ((h.drop 8).take 4) == 2 && leNat ((h.drop 16).take 8) == 7 && leNat ((h.drop 24).take 8) == 8
      && follows (memWriteBytes w (leNat (h.take 8) + 64 * (8 % 2)) (List.replicate 64 1)) s1 fun _ s2 => follows (memWriteNat w (fq % 2 ^ 55 + 24) 8 9) s2 fun _ s3 =>
        follows (memWriteNat w (fq % 2 ^ 55 + 32) 8 0) s3 fun _ s4 => (s4.ctx 0).faultUnheld == []) = true := by decide +kernel
theorem test_witness_FaultSteps_full : follows (memReadBytes ⟨0, none, none⟩ 0x10000 64 .queue) (faultLab 7 9) (fun h _ => faultHeaderOk h && leNat ((h.drop 16).take 8) == 7 && leNat ((h.drop 24).take 8) == 9) = true := by decide +kernel
theorem test_witness_DeviceLevelFault : let s := (lab []).onCtx 0 fun c => { c with levels := [] }
    (s.ctx 0).state = .running ∧ (s.ctx 0).levels = [] ∧ (∀ p, (s.readyQ 0 p).items = []) ∧ (∀ y, y ≠ 0 → (s.ctx y).state = .free) ∧ (∀ x, (State.reset.ctx x).state = .free)
    ∧ 1 ≤ (3 : Fin 16).val ∧ (6 : Fin 16).val ≤ 6 ∧ 7 ≤ (7 : Fin 16).val := by decide +kernel
theorem test_witness_HostAccesses_outside : hostAccessOk 0x10000 8 = true ∧ hostAccessOk 0x10FFC 8 = false ∧ (State.reset.ctx 1).assigned = false := by decide +kernel
theorem test_witness_MailboxController_keys : let s := mbLab 0x10 3 0
    s.mbPending 0x10 = true ∧ (s.mb.ops.get 0).toNat < 16 ∧ s.ctl.debugOpen = false ∧ s.keyInUse 3 = false ∧ 16 ≤ ((mbLab 0x10 16 0).mb.ops.get 0).toNat
    ∧ ((mbLab 0x10 3 0 fun s => s.onCtx 0 fun c => { c with state := .running, desc := { placedDesc with key := 3 } }).keyInUse 3) = true := by decide +kernel
theorem test_witness_MailboxController_lone : let s := mbLab 0x40 (0x100 + 5) 0x10000
    s.svcOk = true ∧ s.serviced.getLsbD 5 = false ∧ s.coreCtx 5 = none ∧ (s.setServiced 5 true).residents 5 none = [] := by decide +kernel
theorem test_witness_MailboxPool_retrain : let s := mbLab 0x58 1 0 fun s => { s with encSize := 2 }
    let t : State := { s.beginTraining 1 with mb := { s.mb with begun := true } }
    s.mbPending 0x58 = true ∧ s.encSize ≠ 0 ∧ s.mb.begun = false ∧ (t.links.get 1).training = true ∧ (s.links.get 1).training = false := by decide +kernel
theorem test_witness_PowerAndSafety_down : ({ State.reset with power := false, agenda := [.event .tamper] } : State).agenda = [.event .tamper] ∧ (∀ h, Instr.tamper ≠ .bringUp h)
    ∧ ({ State.reset with ctl := { State.reset.ctl with torn := true } } : State).ctl.torn = true := by
  refine ⟨by decide, ?_, by decide⟩
  intro h e
  cases e
theorem test_witness_MailboxPool_logFull : let s := mbLab 0x53 1 0 fun s => (s.onCtx 0 fun c => { c with state := .running, desc := placedDesc, logHead := BitVec.ofNat 32 ({ c with desc := placedDesc } : Context).logCap })
    (match logCapacity (2 ^ 44) (2 ^ 21) s with
    | .error .wait => true
    | .error _ => false
    | .ok _ => false) = true := by decide +kernel
theorem test_witness_TransferWaits_own : ((copying.core 0).cmds.any fun j => j.of 0 (grp copying) && j.ch == 1 && j.st == .queued) = true
    ∧ ((copyAt (.faulted 0 6 0) true).core 0).cmds.all (fun j => j.ch != 2) = true := by decide +kernel
theorem test_witness_StreamInstructions_states : let m : RowOut := ⟨[], [], [], 0, none, 0, []⟩
    let run := aStream fun t => { t with state := .running, rows := 2, made := [m] }
    let stop := aStream fun t => { t with state := .stopped, rows := 2 }
    ((run.latSlot 2 1).stream.any fun t => t.heldBy run.cur (grp run) && t.busy && t.state == .running && t.made == [m]) = true
    ∧ ((stop.latSlot 2 1).stream.any fun t => t.heldBy stop.cur (grp stop) && t.state == .stopped && !stop.lsBusy 2 1 && !stop.resultsPending stop.cur && gives 7 t.word stop) = true := by decide +kernel

/-! ### More clauses: pointers, accumulator rows, register bounds, a cluster that is gone -/

theorem test_witness_ScalarFrame_pointer : ∃ (s t : State) (g : Group) (k : Role), Acts s g k ∧ MkptrFits .scratch (k.reg 5).toNat (k.reg 6).toNat ∧ (k.reg 6).toNat = 127
    ∧ exec (.mkptr 7 5 6 .scratch) s = .next t := ⟨lab [(5, 0x2FFFFF), (6, 127)], _, _, _, ac (by decide), by unfold MkptrFits; decide, by decide, nx (by decide)⟩
theorem test_witness_LoadStoreResult_waits : ∃ (s : State) (g : Group) (k : Role) (x v : Word), Acts s g k ∧ x.toNat / 2 ^ 60 = 2 ∧ x.toNat % 8 = 0 ∧ Taken [5] [7] s [x] s ∧ Taken [5, 7] [] s [x, v] s
    ∧ s.resultsPending s.cur = true := ⟨pending (lab [(5, 0x2000000000000000), (7, 9)]), _, _, 0x2000000000000000, 9, ac (by decide), by decide, by decide, rv (by decide), rv (by decide), by decide⟩
theorem test_witness_VectorRegisterRules_lowest : ∃ (s : State) (g : Group) (k : Role) (fields : List (Nat × Nat)), Acts s g k ∧ fields = [(47, 2), (50, 1)] ∧ g.rows ≤ 48
    ∧ (∃ f ∈ fields, f.1 ≤ 48 ∧ 48 < f.1 + f.2) ∧ ∀ u < 51, g.rows ≤ u → (∃ f ∈ fields, f.1 ≤ u ∧ u < f.1 + f.2) → 48 ≤ u :=
  ⟨(lab []).onGroup 0 0 fun g => { g with rows := 48 }, _, _, _, ac (by decide), rfl, by decide, by decide, by decide⟩
theorem test_witness_Queues_tryFull : let s := pending (inGroup (lab [(5, 3)]) fun g => { g with roleq := vset g.roleq 2 (List.replicate 15 0) })
    s.resultsPending s.cur = true ∧ ((grp s).roleq.get 2).length < 16 ∧ follows (takes [5] [7]) s (fun vs _ => vs == [3]) = true := by decide +kernel
/-- The cluster at MMAC without its last group. -/
def goneLab (gone : Bool) : State :=
  ((mmacLab fun _ => bDesc 1 2 3).onCore 3 fun k => { k with slots := vset k.slots 0 none }).onGroup 0 0 fun g => { g with mateGone := gone }
theorem test_witness_MatrixInstructions_gone : follows (mmacSide mop (bDesc 1 2 3).toNat) (goneLab true) (fun _ s2 => (grp s2).mateGone && s2.cur == who) = true := by decide +kernel
theorem test_witness_MatrixInstructions_left : follows (mmacSide mop (bDesc 1 2 3).toNat) (goneLab false) (fun own s2 => !(grp s2).mateGone && s2.cur == who
    && follows ((List.range 3).mapM fun q => if q = 0 then pure own else mmacPartner who (grp s2) q) s2 fun _ s3 => (partner s3 0 (grp s2) 3).isNone) = true := by decide +kernel
theorem test_witness_GroupInstructions_mates : let s := mmacLab fun _ => bDesc 1 2 3
    let g := grp s
    let t := s.partMates { g with record := { g.record with index := g.record.index / 4 * 4 + 1 } }
    (s.group 1 0).isSome = true ∧ g.clustered = true ∧ ((t.group 0 0).any fun h => h.mateGone == (h.record.index != g.record.index / 4 * 4 + 1)) = true := by decide +kernel
theorem test_witness_TransferWaits_faulted : let s := copyAt (.faulted 0 6 0x40) true
    ((s.core 0).cmds.length == 1 && (s.core 0).cmds.all fun j => j.of 0 (grp s) && j.ch == 1 && j.st == .faulted 0 6 0x40 && decide ((j.id - j.id).toNat < 2 ^ 47)) = true
    ∧ (7 : SReg).isPort = false ∧ follows (takes [5] [7]) s (fun vs _ => vs == [0]) = true := by decide +kernel
/-- The copy of the laboratory writes into a buffer at 0x20000. -/
def publishLab (st : CmdState) : State :=
  ((copyAt st true).onCore 0 fun c => { c with cmds := c.cmds.map fun j => { j with dst := { j.dst with base := 0x20000 } } }).onCtx 0 fun c => { c with bufs := [⟨0x20000, 1, false, 0, 0⟩] }
theorem test_witness_TransferWaits_into : (((publishLab (.faulted 0 6 0x40)).core 0).cmds.all fun j => j.of 0 (grp (publishLab .queued)) && j.writes.any (sameSpace (0x20000, 0x2FFFF))) = true
    ∧ (((publishLab .queued).core 0).cmds.all fun j => j.st == .queued && j.writes.any (sameSpace (0x20000, 0x2FFFF))) = true
    ∧ (publishLab .queued).bufOf 0 0x20000 = some ⟨0x20000, 1, false, 0, 0⟩ := by decide +kernel
theorem test_witness_TileAppends_lowest : follows (freeNode hm 513) (tlab) (fun n _ => n == 1) = true ∧ 1 < 32 * (grp (tlab)).nodeBlocks.length ∧ (∀ j < 1, SMap.get (grp (tlab)).tile.nodes j ≠ none)
    ∧ SMap.get (grp (tlab)).tile.nodes 1 = none := by decide +kernel
theorem test_witness_TileAppends_overwritten : (grp tlab).tile.nodes.length ≤ 512 ∧ (grp tlab).tile.handles.get 1 = some 0 ∧ (∀ r : HReg, r ≠ 1 → (grp tlab).tile.handles.get r ≠ some 0)
    ∧ ((grp tlab).tile.nodes.all fun p => !p.2.srcs.contains (.node 0)) = true ∧ (let g := grp (after (.tload (top (.gen 3))) (inGroup (tlab) fun g => { g with tile := { g.tile with handles := vset g.tile.handles 2 (some 0) } }))
      (∃ r : HReg, r ≠ 1 ∧ g.tile.handles.get r = some 0) ∧ SMap.get g.tile.nodes 0 ≠ none) := by decide +kernel
/-- A node of two elements on a generator. -/
def dnode (op fn : Nat) (ty : ElemTy) (w : BitVec 512) : Node :=
  ⟨op, fn, ty, .rne, .pending, 0, 0, [2, 1, 1, 1], [.gen w, .gen w, .gen w], [idMap, idMap, idMap], [], 0⟩
theorem test_witness_DemandedElements_box : follows (computeBox hm 0 ⟨[0, 0, 0, 0], [2, 1, 1, 1]⟩ []) tlab (fun x _ => x.span == ⟨[0, 0, 0, 0], [2, 1, 1, 1]⟩) = true := by decide +kernel
theorem test_witness_DemandedElements_demand : follows (demand hm 0 ⟨[0, 0, 0, 0], [2, 1, 1, 1]⟩) tlab (fun x _ => x.span == ⟨[0, 0, 0, 0], [2, 1, 1, 1]⟩) = true := by decide +kernel
theorem test_witness_DemandedElements_element : let x : Box := ⟨3, [0, 0, 0, 0], [2, 1, 1, 1], 0, [], false⟩
    let s := inGroup tlab fun g => { g with tile := { g.tile with nodes := g.tile.nodes.map fun p => (p.1, { p.2 with boxes := [x] }) } }
    follows (nodeElem { hm with used := [x.seq] } 0 [1, 0, 0, 0]) s (fun v _ => v == 0) = true := by decide +kernel
theorem test_witness_DemandedElements_source : let w := genWord 0x10000 2 0
    mapGathers idMap = false ∧ (mapPoint idMap [1, 0, 0, 0]).map Int.toNat = [1, 0, 0, 0] ∧ follows (homeWho hm) tlab (fun u s => follows ((Walk4.ofBits w).read u (flat (Walk4.ofBits w).sizes [0, 0, 0, 0])) s fun v _ => v == 0x3F800000) = true := by decide +kernel
theorem test_witness_DemandedElements_effects : let w := genWord 0x10000 2 0
    ([dnode 0 0 .f32 w, dnode 4 0 .bf16 w, dnode 2 0 .f32 w, dnode 5 0 .f32 w].all fun d => follows (srcAt hm 0 d 0 [0, 0, 0, 0]) tlab fun x s1 => x.1 == 0x3F800000
      && follows (srcFmt hm (d.src 0)) s1 (fun _ _ => true) && follows (srcAt hm 0 d 1 [0, 0, 0, 0]) s1 fun _ s2 => follows (srcAt hm 0 d 2 [0, 0, 0, 0]) s2 fun _ s3 =>
        follows (srcFmt hm (d.src 1)) s3 (fun _ _ => true) && follows (computeElem hm 0 d [0, 0, 0, 0]) s3 fun _ _ => true) = true := by decide +kernel
theorem test_witness_DemandedElements_folds : let w := genWord 0x10000 2 0
    follows ((List.range 1).mapM fun k => do
      let x ← srcAt hm 0 (dnode 3 0x1F .f32 w) 0 [0, 0, k, 0]
      pure x.1) tlab (fun xs _ => xs == [0x3F800000]) = true
    ∧ follows (matLine hm 0 (dnode 1 0 .f32 w) 0 [0, 0, 0, 0] 0 1) tlab (fun _ s1 => follows (matLine hm 0 (dnode 1 0 .f32 w) 1 [0, 0, 0, 0] 0 1) s1 fun _ _ => true) = true := by decide +kernel
/-! ### More clauses: streams, links, dispatch, contexts -/

theorem test_witness_StreamInstructions_unread : let s := slab none [(5, 0x40000)]
    s.cur = who ∧ (s.latSlot 2 1).stream = none ∧ s.lsBusy 2 1 = false
    ∧ ∃ t, Raises (do let h ← readRun (s.self (grp s)) 0x40000 64; let img ← readRun (s.self (grp s)) 0x40000 (leNat ((h.drop 4).take 4)); pure (h, img)) s t none ∧ t.code = 6 :=
  ⟨by decide, by decide, by decide, { code := 6, va := 0x40000 }, rfl, rfl⟩
theorem test_witness_StreamInstructions_read : let s := stateAfter (memWriteBytes ⟨0, some 0, some 0⟩ (2 ^ 60) (anImage.take 8)) (slab none [(5, sp 0)])
    follows (do let h ← readRun (s.self (grp s)) (2 ^ 60) 64; let img ← readRun (s.self (grp s)) (2 ^ 60) (leNat ((h.drop 4).take 4)); pure (h, img)) s (fun r _ =>
      imageHeaderOk r.1 && imageBad r.2 2432 == none) = true := by decide +kernel
theorem test_witness_StreamInstructions_noRoom : let s := inGroup (aStream fun t => { t with state := .running, rows := 2, made := [⟨[], [], [], 0, none, 0, []⟩] }) fun g => { g with roleq := vset g.roleq 2 (List.replicate 16 0) }
    answers (checkMisuse [] [62]) s () = true ∧ (match checkRoom [62] s with
      | .error .wait => true
      | .error _ => false
      | .ok _ => false) = true ∧ ((s.latSlot 2 1).stream.any fun t => t.heldBy s.cur (grp s) && t.state == .running && t.made != []) = true := by decide +kernel
/-- A stream that reads a dense row at port 0 and a form at port 1. -/
def rowsLab : State :=
  { portStream with lats := (aStream fun t => { t with state := .running, rows := 4, binds := [(0, ⟨genWord 0x200000 256 0, 1 + 2 + 4 + 2 ^ 4 + 2 ^ 5 + 2 ^ 10 + 2 ^ 39 + 2 * 2 ^ 21, none⟩),
      (1, ⟨genWord 0x210000 256 20, 1 + 2 + 4 + 2 ^ 4 + 2 ^ 5 + 2 ^ 10 + 2 ^ 39 + 2 * 2 ^ 21, none⟩)] }).lats }
/-- The errors of the input ports of row 0. -/
def rowErrors (s : State) : List Nat :=
  match (s.latSlot 2 1).stream with
  | none => []
  | some t => match ((List.range 4).mapM fun p => match SMap.get t.binds p with
        | none => pure (List.replicate t.beats Beat.zero, 0)
        | some b => portRow anImage t.ctx p b 0 : X (List (List Beat × Nat))) s with
    | .ok r => r.1.map Prod.snd
    | .error _ => []
theorem test_witness_StreamSteps_inputs : rowErrors rowsLab = [0, 0x0A, 0, 0] ∧ rowErrors (rowsLab.addPoison ((2 ^ 39 + 2 * 2 ^ 21) / 64)) = [0x08, 0x0A, 0, 0] ∧ rowErrors portStream = [0, 0, 0, 0]
    ∧ rowErrors (portStream.addPoison ((2 ^ 39 + 2 * 2 ^ 21) / 64)) = [0x08, 0, 0, 0] := by decide +kernel
theorem test_witness_LinkInstructions_waiting : let s := pending (peerLab [(6, 1), (8, 9)])
    s.resultsPending who = true ∧ follows (readPeers (sp 0x10000).toNat) s (fun set_ s2 => decide (1 < set_.procs.length) && set_.mine == 0 && s2.resultsPending s2.cur) = true
    ∧ (pending mcstLab).resultsPending who = true ∧ follows (replicatedRange ⟨0, some 0, some 0⟩ (Walk4.ofBits ((grp mcstLab).gens.get 4)).range) (pending mcstLab) (fun rs s2 =>
      s2.resultsPending s2.cur && rs.all fun r => r.2.ownProc == s2.encProc.toNat && r.2.ownCtx == 0 && r.2.update) = true := by decide +kernel
theorem test_witness_LinkInstructions_flushWaits : follows (flushedLines ⟨0, some 0, some 0⟩ 0x10040 65 .read) (pending (flushLab [])) (fun _ s2 => s2.resultsPending s2.cur) = true := by decide +kernel
theorem test_witness_LinkInstructions_flushFails : let s := { flushLab [] with extents := [], heads := vset (lab []).heads 0 ⟨true, none, [⟨2 ^ 38 + 1, List.replicate 64 7, true, false, 0⟩]⟩ }
    follows (flushedLines ⟨0, some 0, some 0⟩ 0x10040 65 .read) s (fun ls s2 => (ls.head?.any fun p => p == (0x10040, 2 ^ 38 + 1)) && (s2.cached (2 ^ 38 + 1)).any (fun l => l.dirty)
      && !s2.granted ((2 ^ 38 + 1) * 64) && s2.refuses (2 ^ 38 + 1) == false && ({ s2 with refusedLines := [2 ^ 38 + 1] } : State).refuses (2 ^ 38 + 1)) = true := by decide +kernel
theorem test_witness_DispatchedGroups : ((queueLab.fitting 0).any fun r => r.2.2.length == 1 && !r.2.1.cluster && r.2.1.item == .cursor 0x1001 0 && queueLab.fitHead 0 r.2.1 == some r.2.2) = true
    ∧ (queueLab.readyQ 0 0).items = [.cursor 0x1001 0] := by decide +kernel
/-- A cluster-shaped launch of four groups in the queue of a context with four cores. -/
def clusterLab : State :=
  queueLab.onCtx 0 fun c => { c with desc := { c.desc with cores := 15 }, levels := [(1, ⟨1, .active, false, 1, 0, 4, 0, 4, some { aDesc with count := 4 }, some { aHeader with cluster := true }, none⟩)] }
theorem test_witness_DispatchedGroups_cluster : ((clusterLab.headOf 0 0).any fun q => q.cluster && (clusterLab.fitHead 0 q).any fun ps => ps.map (fun a => a.core.val) == [0, 1, 2, 3]
    && (ps.map fun a => a.slot) == [0, 0, 0, 0]) = true := by decide +kernel
/-- Context 1 created, with a buffer map of these entries at physical address 0x30000. -/
def loadLab (entries : List (List Byte)) : State :=
  let s := ctxLab .created fun c => c
  let t := s.onCtx 1 fun c => { c with desc := { c.desc with bufmap := 0x30000, bufmapn := entries.length } }
  { t with mem := memWrite t.opened t.mem 0x30000 entries.flatten }
/-- An entry of a buffer map. -/
def bufBytes (vbase n backA backB : Nat) : List Byte := leBytes 8 vbase ++ leBytes 4 n ++ leBytes 4 0 ++ leBytes 8 backA ++ leBytes 8 backB
theorem test_witness_ContextCommands_map : let s := loadLab [bufBytes 0x100000 1 0x400000 0x410000, bufBytes 0x110000 1 0x420000 0x430000]
    s.heldBy 1 [.scrubbing, .loaded, .running, .suspended, .draining] = false ∧ follows (partRead 1 (s.ctx 1).desc.bufmap (32 * (s.ctx 1).desc.bufmapn)) s (fun bs s1 =>
      parseBuf s ((bs.drop 0).take 32) == some ⟨0x100000, 1, false, 0x400000, 0x410000⟩ && parseBuf s ((bs.drop 32).take 32) == some ⟨0x110000, 1, false, 0x420000, 0x430000⟩
      && follows (readFpqs 1) s1 fun qs _ => qs == []) = true
    ∧ bufsApart [⟨0x100000, 1, false, 0x400000, 0x410000⟩, ⟨0x110000, 1, false, 0x420000, 0x430000⟩] = true
    ∧ bufsApart [⟨0x100000, 2, false, 0x400000, 0x410000⟩, ⟨0x110000, 1, false, 0x420000, 0x430000⟩] = false
    ∧ parseBuf s (bufBytes 0x100001 1 0x400000 0x410000) = none := by decide +kernel
theorem test_witness_ContextCommands_scrub : let s := ((ctxLab .scrubbing).onCtx 1 fun c => { c with desc := { c.desc with units := 1 } }).onLat 2 1 fun l => { l with owner := 1, valid := true }
    (s.ctx 1).desc.cores.getLsbD 1 = true ∧ (s.ctx 1).desc.units.getLsbD 0 = true ∧ (s.latSlot 2 1).valid = true ∧ (s.latSlot 2 1).owner = 1 := by decide +kernel
/-! ### More clauses: pages, the pool, faults, the controller -/

theorem squash_idle {s : State} {d : Drain} (h : ∀ c, (s.core c).cmds = []) : s.squashHolders d = s := by
  unfold State.squashHolders
  induction List.finRange 128 with
  | nil => rfl
  | cons c cs ih => simpa [h c] using ih
theorem pm_no_commands : ∀ c, (pmLab.core c).cmds = [] := by decide +kernel
theorem test_witness_PageMigration_moves : ∃ s4 g4 k4, Runs (migrate 0 0x10000 0x120008 0x10007 1 2 pmDrain) (pmLab.squashHolders pmDrain) () s4 ∧ Acts s4 g4 k4 := by
  rw [squash_idle pm_no_commands]
  exact pm_moves
theorem test_witness_PageMigration_late : ({ (lab []) with cycle := 6000 } : State).drainLate pmDrain = true ∧ (lab []).drainLate pmDrain = false
    ∧ pmDrain.since + 6000 ≤ ({ (lab []) with cycle := 6000 } : State).cycle.toNat := by decide +kernel
theorem test_witness_CalendarSteps_throttle : let s := { (lab []) with ctl := { (lab []).ctl with throttle := 3 } }.onPc 3 fun q => { q with slot := 129 }
    (s.pcStat 3).slot = 129 ∧ s.ctl.throttle = 3 ∧ (s.pcStat 3).pend = false ∧ (s.pcStat 3).w16 = false := by decide +kernel
theorem test_witness_PortsAndLinks_fill : let s := portLab false
    s.cached (2 ^ 38 + 1) = none ∧ (s.heads.get (portOf (2 ^ 38 + 1))).cache.all (fun l => !l.dirty) = true ∧ 2 ^ 38 + 1 ∉ s.spoiled (2 ^ 38 + 1)
    ∧ s.bytesAt ((2 ^ 38 + 1) * 64) 64 = List.replicate 64 0 ∧ s.bytesAt ((2 ^ 38 + 1) * 64) 64 ≠ List.replicate 64 1 := by decide +kernel
/-- The compute role stalled at its MEET with queue misuse. -/
def meetLab : State :=
  (lab [] (aLine (encode .meet))).onRole who fun k => { k with stalled := true, cause := 0x0D, faultPc := 4 }
theorem test_witness_RoleCommands_meet : meetLab.repeatingMeet who (grp meetLab) ((grp meetLab).role .compute) = true
    ∧ (meetLab.faultLine who (grp meetLab) ((grp meetLab).role .compute)).any (fun ws => match decodeAt ws 4 with
      | .ok i => i == .meet
      | .error _ => false) = true ∧ (roleLab true false).repeatingMeet who (grp (roleLab true false)) ((grp (roleLab true false)).role .compute) = false := by decide +kernel
theorem test_witness_RoleCommands_restore : let s := startLab .starting (recordFlags 0 false true false)
    (grp s).state = .starting ∧ (grp s).record.ckpt = true ∧ (grp s).drainAt = none ∧ (grp s).squashed = [] ∧ s.streamsOf who (grp s) = []
    ∧ (grp (startLab (.replaying 0 0 0x40) 0)).state = .replaying 0 0 0x40 ∧ (grp (lab [])).state = .running := by decide +kernel
theorem test_witness_FaultSteps_sequence : let s := gsLab (.saving 0x40 (sp 0)) |> fun s => s.onRole who fun k => { k with ended := true }
    ((grp s).role .compute).ended = true ∧ (grp s).inSequence = true ∧ s.cur.role = .compute ∧ (grp (lab [])).inSequence = false := by decide +kernel
theorem test_witness_FaultSteps_hits : (stallLab.stallHits.map fun h => (h.1, h.2.1.role)) = [(.role 0 0 3, .fetch), (.role 0 0 1, .compute)] := by decide +kernel
/-- Bring-up in step n. -/
def stageLab (n : BitVec 4) (torn : Bool) : State := { State.reset with ctl := { State.reset.ctl with stage := n, torn := torn } }
theorem test_witness_PowerAndSafety_stages : (stageLab 1 false).power = true ∧ (stageLab 2 true).ctl.torn = true ∧ (stageLab 6 false).ctl.stage.toNat = 6 ∧ (stageLab 7 false).ctl.stage.toNat = 7
    ∧ (stageLab 4 false).bringingUp = true ∧ (stageLab 7 false).bringingUp = false ∧ (∃ m : Fin 7, some m = some (5 : Fin 7) ∧ m.val = (stageLab 5 false).ctl.stage.toNat)
    ∧ ((2 : Nat), (0x01 : BitVec 8)) ∈ [((2 : Nat), (0x01 : BitVec 8)), (3, 0x02), (4, 0x03), (6, 0x05)] := by
  refine ⟨by decide, by decide, by decide, by decide, by decide, by decide, ⟨5, rfl, by decide⟩, by decide⟩
theorem test_witness_PowerAndSafety_tampered : ∃ s : State, s.ctl.stage = 8 ∧ s.ctl.code = 0x10 ∧ s.mb.begun = false ∧ s.mbPending 0x02 = true ∧ s.power = true :=
  ⟨mbLab 0x02 0 0 fun s => { s with ctl := { s.ctl with stage := 8, code := 0x10 } }, by decide⟩
theorem test_witness_MailboxController_reset : let s := mbLab 0x02 0 0
    let t : State := { s with mb := { s.mb with begun := true }, ctl := { s.ctl with stage := 3 } }
    s.mbPending 0x02 = true ∧ s.mb.begun = false ∧ ¬ (s.ctl.stage = 8 ∧ s.ctl.code = 0x10) ∧ t.mbPending 0x02 = true ∧ t.bringingUp = true
    ∧ ({ t with ctl := s.ctl } : State).bringingUp = false ∧ (mbLab 0x01 0 0).mbPending 0x01 = true := by decide +kernel
theorem test_witness_StepRunsInstruction_counting : State.reset.ctl.counting = true ∧ (stageLab 3 false).ctl.counting = true
    ∧ ({ State.reset with ctl := { State.reset.ctl with counting := false } } : State).ctl.counting = false := by decide

/-! ### Results of single steps, from the spec's worked examples -/

/-- The value of a register of the role whose turn it was after an instruction. -/
def regAfter (i : Instr) (s : State) (r : SReg) : Word := ((grp (after i s)).role .compute).reg r
/-- The code of the fault that a role has taken, and its address. -/
def faultOf (s : State) : Bool × Word × Word := let k := (grp s).role .compute; (k.stalled, k.cause &&& 0xFF, k.faultVa)

/-- 05_scalar.md, the example of R98. -/
theorem test_div : regAfter (.div 7 5 6) (lab [(5, -7), (6, 2)]) 7 = -3 ∧ regAfter (.rem 7 5 6) (lab [(5, -7), (6, 2)]) 7 = -1 := by decide +kernel
theorem test_divn : regAfter (.divn 7 5 6) (lab [(5, -7), (6, 2)]) 7 = 0x7FFFFFFFFFFFFFFC ∧ regAfter (.remn 7 5 6) (lab [(5, -7), (6, 2)]) 7 = 1 := by decide +kernel
theorem test_div_corners : regAfter (.div 7 5 6) (lab [(5, 0x8000000000000000), (6, -1)]) 7 = 0x8000000000000000 ∧ regAfter (.rem 7 5 6) (lab [(5, 0x8000000000000000), (6, -1)]) 7 = 0
    ∧ regAfter (.div 7 5 6) (lab [(5, 5)]) 7 = -1 ∧ regAfter (.rem 7 5 6) (lab [(5, 5)]) 7 = 5 := by decide +kernel
/-- The examples of R100, R103, R104. -/
theorem test_sari : regAfter (.sari 8 9 3) (lab [(9, -20)]) 8 = -3 := by decide +kernel
theorem test_bfx : regAfter (.bfx 8 9 8 11) (lab [(9, 0xABCDEF)]) 8 = 0xBCD := by decide +kernel
theorem test_mkptr : regAfter (.mkptr 8 10 11 .scratch) (lab [(10, 0x1000), (11, 87)]) 8 = 0x1AE0000000001000
    ∧ faultOf (after (.mkptr 8 10 11 .scratch) (lab [(10, 0x300000), (11, 87)])) = (true, 0x05, 0x300000) := by decide +kernel
/-- A result whose source is also its destination, and that wraps. -/
theorem test_add_wraps : regAfter (.add 5 5 5) (lab [(5, 0x8000000000000001)]) 5 = 2 := by decide +kernel
/-- The example of R109: a comparison that holds writes 9; one that does not writes nothing. -/
theorem test_acas : let s := stateAfter (memWriteBytes ⟨0, some 0, some 0⟩ (2 ^ 60) [5]) (lab [(10, sp 0), (9, 5), (11, 9)])
    regAfter (.acas .device .acqRel 9 10 11) s 9 = 5 ∧ (after (.acas .device .acqRel 9 10 11) s).byteAt (2 ^ 60) = 9 := by decide +kernel
theorem test_acas_other : let s := stateAfter (memWriteBytes ⟨0, some 0, some 0⟩ (2 ^ 60) [9]) (lab [(10, sp 0), (9, 4), (11, 7)])
    regAfter (.acas .device .acqRel 9 10 11) s 9 = 9 ∧ (after (.acas .device .acqRel 9 10 11) s).byteAt (2 ^ 60) = 9 := by decide +kernel
/-- The sign extension of LD and the zero extension of LDZ (R106), at a misaligned address the alignment fault. -/
theorem test_ld_sign : let s := stateAfter (memWriteBytes ⟨0, some 0, some 0⟩ (2 ^ 60 + 2) [0x34, 0xF2]) (lab [(5, sp 0), (6, sp 1)])
    regAfter (.ld .h 7 5 1) s 7 = 0xFFFFFFFFFFFFF234 ∧ regAfter (.ldz .h 7 5 1) s 7 = 0xF234 ∧ faultOf (after (.ld .h 7 6 0) s) = (true, 0x04, sp 1) := by decide +kernel
theorem test_st_bytes : ((after (.st .w 7 5 (-1)) (lab [(5, sp 8), (7, 0x11223344)])).bytesAt (2 ^ 60 + 4) 5) = [0x44, 0x33, 0x22, 0x11, 0] := by decide +kernel
/-- A branch to the line behind this one, and one that is not taken (R58, R111). -/
theorem test_beq : ((grp (after (.beq 5 6 ⟨1, 3⟩) (lab [(5, 7), (6, 7)] (aLine [0, 0])))).role .compute).pc = 0x4C
    ∧ ((grp (after (.bne 5 6 ⟨1, 3⟩) (lab [(5, 7), (6, 7)] (aLine [0, 0])))).role .compute).pc = 8 := by decide +kernel
/-- The example of CSRC, and the PLACE of R123. -/
theorem test_csrc : (grp (after (.csrc 6 0x010) (inGroup (lab [(6, 0x10)]) fun g => { g with flags := 0x30 }))).flags = 0x20 := by decide +kernel
theorem test_place : (({ State.reset with encProc := 7 } : State).placeWord 87 2 3) = 0x0E7B57 := by decide +kernel
/-- A trap retires, and its code stands in CAUSE (R118, R124). -/
theorem test_trap : let k := (grp (after (.trap 0x12345) (lab []))).role .compute
    k.stalled = true ∧ k.cause = 0x11 + 0x12345 * 2 ^ 8 + 1 * 2 ^ 28 ∧ k.faultPc = 4 ∧ k.retired = true := by decide +kernel
/-- The example of TFENCE in 19_faults.md. -/
theorem test_tfence : faultOf (after .tfence (inGroup (lab []) fun g => { g with tfctl := 0x05, flags := 0x14 })) = (true, 0x10, 0x04)
    ∧ (faultOf (after .tfence (inGroup (lab []) fun g => { g with tfctl := 0x01, flags := 0x14 }))).1 = false := by decide +kernel
/-- The examples of R35. -/
theorem test_round_bf16 : convertElem .f32 .bf16 .rne 0x3FC08000 = (0x3FC0, Flags.nx) ∧ (convertElem .f32 .bf16 .rup 0x3FC08000).1 = 0x3FC1
    ∧ (convertElem .f32 .bf16 .rtz 0x3FC08000).1 = 0x3FC0 ∧ (convertElem .f32 .bf16 .rdn 0x3FC08000).1 = 0x3FC0 := by decide +kernel
theorem test_round_e4m3 : convertElem .f32 .e4m3 .rne 0x3DCCCCCD = (0x1D, Flags.nx) ∧ convertElem .f32 .e4m3 .rne 0x43FA0000 = (0x7E, Flags.of ||| Flags.nx)
    ∧ convertElem .f32 .e4m3 .rne 0x3A83126F = (0x01, Flags.uf ||| Flags.nx) := by decide +kernel
theorem test_round_e2m1 : convertElem .f32 .e2m1 .rne 0x40200000 = (4, Flags.nx) ∧ convertElem .f32 .e2m1 .rne 0x40A00000 = (6, Flags.nx)
    ∧ convertElem .f32 .e2m1 .rne 0x40E00000 = (7, Flags.of ||| Flags.nx) ∧ convertElem .f32 .e2m1 .rne 0xBE800000 = (8, Flags.uf ||| Flags.nx) := by decide +kernel
/-- The example of R38. -/
theorem test_vredsum_tree : sumOf .f32 .rne [0x3F800000, 0x4B800000, 0x3F800000, 0x3F800000, 0x3F800000] = (0x4B800002, Flags.nx) := by decide +kernel
/-- The examples of R40 to R43. -/
theorem test_residue : residueSum [1536, 384, 516, 0] [256, 512, -128, 1024] = 523776 ∧ residueSum [-1, -1, -1, -1] [1, 1, 1, 1] = -4 := by decide +kernel
theorem test_accumulate : accumulate true .rne 0x7FFFFFFE (.sum (-4) 0) = (0x7FFFFFFA, 0) ∧ accumulate true .rne 0x80000002 (.sum (-4) 0) = (0x80000000, Flags.sat)
    ∧ accumulate false .rne 0 (.sum 523776 (-16)) = (0x40FFC000, 0) := by decide +kernel
/-- KSET of the example of R128: 300 elements of 16 bits. -/
theorem test_kset : (grp (after (.kset 1 9 .w16) (lab [(9, 300)]))).preds.get 1 = ⟨300, .w16⟩ ∧ activeCount (grp (after (.kset 1 9 .w16) (lab [(9, 300)]))) 1 32 128 = 128 := by decide +kernel
/-- A vector addition of two elements: the destination and the lanes beyond them. -/
theorem test_vadd : let s := (vlab 2).chipWrite (rowKeyOf 0 (grp (vlab 2)) 4) (leBytes 4 0x7FFFFFFF ++ leBytes 4 5)
    let t := after (.vadd (vop (.reg 4) false)) s
    t.lanes (grp t) 2 3 .i32 = [0x7FFFFFFF, 10, 0] ∧ (grp t).flags = Flags.sat := by decide +kernel
/-- The example of BINIT in 14_barrier.md, on core 8. -/
theorem test_binit : let s := ((lab []).onCore 8 fun c => { c with
      slots := vset c.slots 0 (some { placedGroup.onRole .compute (fun k => { k with regs := vset (vset k.regs 10 0) 11 0x10004 }) with ctx := 2, bars := [5] })
      bars := vset c.bars 5 ⟨6, 0, 0, 0, 0⟩ })
    (((after (.binit 9 10 11) { s with cur := ⟨8, 0, .compute⟩ }).role ⟨8, 0, .compute⟩).map fun k => k.reg 9) = some 0x1C8885 := by decide +kernel
/-- The examples of R15 and R345. -/
theorem test_interleaving : backing 0 0x12C00 = .hbm 300 0 ∧ backing 4096 0x8004A12345 = .hbm 88 1044612 ∧ calEntry [] 300 89 = 128 + 5 := by decide +kernel
/-- The example of R359: sixteen half-words in one atom. -/
theorem test_compress : let r := compress ((List.range 16).flatMap fun _ => [0x00, 0x40] ++ List.replicate 14 0)
    r.2 = 3 ∧ (r.1.take 20) = List.replicate 16 1 ++ [0, 0x40, 0, 0x40] := by decide +kernel
/-- LAUNCH gives the handle of its level: entry 1, as entry 0 is never used, at generation 0 (R250). -/
theorem test_launch : regAfter (.launch 7 5) (stateAfter (memWriteBytes ⟨0, some 0, some 0⟩ (2 ^ 60) (launchBytes 2)) (lab [(5, sp 0)])) 7 = 1 := by decide +kernel
/-- A copy takes the channel's first transfer ID (R330). -/
theorem test_cpy : regAfter (.cpy (eop)) (clab 4) 7 = 1 ∧ ((after (.cpy (eop)) (clab 4)).core 0).nextId.get 1 = 2 := by decide +kernel
/-- An empty role queue keeps its consumer waiting; what its producer pushes stands in it (R62, R290). -/
theorem test_port_push : (grp (after (.addi 62 5 1) (lab [(5, 8)]))).roleq.get 2 = [9] ∧ ((grp (after (.add 7 61 5) (lab [(5, 8)]))).role .compute).pc = 4 := by decide +kernel

end Sys2Proof.Tests
end

section
/-! PROOFS. Rules about roles and plain operands: what an update of one role leaves, what plain source and destination fields take
and give (R61). -/

namespace Sys2Proof.Machine

open Sys2Proof

/-! ### Vectors, registers, roles -/

@[simp] theorem vget_vset_same {α : Type} {n : Nat} (v : Vector α n) (i : Fin n) (x : α) : vget (vset v i x) i = x := by
  simp [vget, vset, Vector.get_eq_getElem]

theorem vget_vset_other {α : Type} {n : Nat} (v : Vector α n) {i j : Fin n} (x : α) (h : j ≠ i) :
    vget (vset v i x) j = vget v j := by
  simp [vget, vset, Vector.get_eq_getElem, Vector.getElem_set_ne _ _ (fun e => h (Fin.ext e.symm))]

@[simp] theorem vset_vset_same {α : Type} {n : Nat} (v : Vector α n) (i : Fin n) (x y : α) :
    vset (vset v i x) i y = vset v i y := by
  simp [vset]

theorem Role.reg_setReg_other (k : Role) {d r : SReg} (v : Word) (h : r ≠ d) : (k.setReg d v).reg r = k.reg r := by
  unfold Role.setReg
  split
  · rfl
  · simp [Role.reg, vget_vset_other _ _ h]

/-- A role's registers are read from the vector of registers alone. -/
theorem Role.reg_congr {k k' : Role} (h : k'.regs = k.regs) (r : SReg) : k'.reg r = k.reg r := by
  simp [Role.reg, h]

@[simp] theorem Group.onRole_onRole (g : Group) (x : RoleKind) (f h : Role → Role) :
    (g.onRole x f).onRole x h = g.onRole x fun k => h (f k) := by
  simp [Group.onRole, Group.role]

@[simp] theorem State.group_setGroup_same (s : State) (c : CoreId) (g : SlotId) (x : Option Group) :
    (s.setGroup c g x).group c g = x := by
  simp [State.setGroup, State.onCore, State.group, State.core]

@[simp] theorem State.setGroup_setGroup (s : State) (c : CoreId) (g : SlotId) (x y : Option Group) :
    (s.setGroup c g x).setGroup c g y = s.setGroup c g y := by
  simp [State.setGroup, State.onCore, State.core]

theorem State.onGroup_of_group {s : State} {c : CoreId} {n : SlotId} {g : Group} (h : s.group c n = some g)
    (f : Group → Group) : s.onGroup c n f = s.setGroup c n (some (f g)) := by
  simp [State.onGroup, h]

/-- Two updates of a role in a row are one. -/
theorem State.onRole_onRole (s : State) (r : RoleId) (f h : Role → Role) :
    (s.onRole r f).onRole r h = s.onRole r fun k => h (f k) := by
  unfold State.onRole
  cases hg : s.group r.core r.slot with
  | none => simp [State.onGroup, hg]
  | some g => simp [State.onGroup_of_group hg, State.onGroup_of_group (State.group_setGroup_same ..)]

theorem State.onRole_of_acts {s : State} {g : Group} {k : Role} (h : Acts s g k) (f : Role → Role) :
    s.onRole s.cur f = s.setGroup s.cur.core s.cur.slot (some (g.onRole s.cur.role f)) :=
  State.onGroup_of_group h.1 _

/-- An update of the acting role depends on what it makes of that role alone. -/
theorem State.onRole_eq_const {s : State} {g : Group} {k : Role} (h : Acts s g k) (f : Role → Role) :
    s.onRole s.cur f = s.onRole s.cur fun _ => f k := by
  rw [State.onRole_of_acts h, State.onRole_of_acts h, Group.onRole, Group.onRole, h.2]

/-- The acting role after an update of it. -/
theorem State.role_onRole {s : State} {g : Group} {k : Role} (h : Acts s g k) (f : Role → Role) :
    (s.onRole s.cur f).role s.cur = some (f k) := by
  simp [State.onRole_of_acts h, State.role, Group.role, Group.onRole, ← h.2]

@[simp] theorem State.byteAt_onRole (s : State) (r : RoleId) (f : Role → Role) (j : Nat) :
    (s.onRole r f).byteAt j = s.byteAt j := by
  simp [State.byteAt]

/-! ### Plain operands (R61) -/

theorem misuse_plain (x : RoleKind) (k : Role) {srcs dsts : List SReg} (hs : ∀ r ∈ srcs, r.isPort = false)
    (hd : ∀ r ∈ dsts, r.isPort = false) : misuse x k srcs dsts = none := by
  unfold misuse
  rw [List.findSome?_eq_none_iff]
  intro p hp
  have hport : p.1.isPort = false := by
    rcases List.mem_append.mp hp with hp | hp
    · obtain ⟨r, hr, rfl⟩ := List.mem_map.mp hp; exact hs r hr
    · obtain ⟨r, hr, rfl⟩ := List.mem_map.mp hp; exact hd r hr
  simp [hport]

theorem runs_checkMisuse_plain {s : State} {g : Group} {k : Role} (h : Acts s g k) {srcs dsts : List SReg}
    (hs : ∀ r ∈ srcs, r.isPort = false) (hd : ∀ r ∈ dsts, r.isPort = false) : Runs (checkMisuse srcs dsts) s () s := by
  refine runs_bind (runs_me h) ?_
  rw [misuse_plain _ _ hs hd]
  rfl

/-- A loop of checks that all pass. -/
theorem runs_forM {α : Type} {f : α → X Unit} {s : State} {xs : List α} (h : ∀ x ∈ xs, Runs (f x) s () s) :
    Runs (xs.forM f) s () s := by
  induction xs with
  | nil => rfl
  | cons x xs ih =>
    exact runs_bind (h x (List.mem_cons_self ..)) (ih fun y hy => h y (List.mem_cons_of_mem _ hy))

theorem runs_checkRoom_plain {s : State} {g : Group} {k : Role} (h : Acts s g k) {dsts : List SReg}
    (hd : ∀ r ∈ dsts, r.isPort = false) : Runs (checkRoom dsts) s () s := by
  refine runs_bind (runs_me h) (runs_bind (runs_get s) (runs_forM fun d hm => ?_))
  dsimp only
  rw [hd d hm]
  exact runs_waitIf s

theorem runs_readSrc_plain {s : State} {g : Group} {k : Role} (h : Acts s g k) {r : SReg} (hr : r.isPort = false) :
    Runs (readSrc r) s (k.reg r) s := by
  refine runs_bind (runs_me h) ?_
  simp only [hr]
  exact runs_pure _ s

theorem runs_readSrcs_plain {s : State} {g : Group} {k : Role} (h : Acts s g k) {srcs : List SReg}
    (hs : ∀ r ∈ srcs, r.isPort = false) : Runs (readSrcs srcs) s (srcs.map k.reg) s := by
  induction srcs with
  | nil => rfl
  | cons r rs ih =>
    exact runs_bind (runs_readSrc_plain h (hs r (List.mem_cons_self ..)))
      (runs_bind (ih fun x hx => hs x (List.mem_cons_of_mem _ hx)) rfl)

/-- Plain operands are taken with the values of their registers, and nothing changes. -/
theorem taken_plain {s : State} {g : Group} {k : Role} (h : Acts s g k) {srcs dsts : List SReg}
    (hs : ∀ r ∈ srcs, r.isPort = false) (hd : ∀ r ∈ dsts, r.isPort = false) : Taken srcs dsts s (srcs.map k.reg) s :=
  runs_bind (runs_checkMisuse_plain h hs hd) (runs_bind (runs_checkRoom_plain h hd) (runs_readSrcs_plain h hs))

theorem gives_plain {s : State} {g : Group} {k : Role} (h : Acts s g k) {d : SReg} (hd : d.isPort = false) (v : Word) :
    Gives d v s (s.onRole s.cur fun k => k.setReg d v) := by
  refine runs_bind (runs_me h) ?_
  simp only [hd]
  exact runs_modify _ s

end Sys2Proof.Machine
end

section
/-! PROOFS. The frame of the scalar instructions with plain registers (O4). -/

namespace Sys2Proof.Machine

open Sys2Proof

/-! ### What retirement leaves of a role (R56, R114) -/

/-- Moving the flow on changes where the role continues, and nothing else. -/
theorem Role.follow_frame (k : Role) (pc size : Nat) :
    ∃ p e l c b, k.follow pc size = { k with pc := p, ended := e, line := l, chained := c, blocked := b } := by
  unfold Role.follow
  split
  · exact ⟨_, _, _, _, _, rfl⟩
  · exact ⟨_, _, _, _, _, rfl⟩

theorem Role.setReg_frame (k : Role) (r : SReg) (v : Word) : ∃ rs, k.setReg r v = { k with regs := rs } := by
  unfold Role.setReg
  split
  · exact ⟨_, rfl⟩
  · exact ⟨_, rfl⟩

/-- Retirement changes where the role continues, its loops and its registers, and nothing else. -/
theorem Role.retire_frame (k : Role) (size : Nat) :
    ∃ p e l c b ls rs, k.retire size =
      { k with pc := p, ended := e, line := l, chained := c, blocked := b, loops := ls, regs := rs } := by
  have follows (k' : Role) (pc : Nat) : ∃ p e l c b ls rs, k'.follow pc size =
      { k' with pc := p, ended := e, line := l, chained := c, blocked := b, loops := ls, regs := rs } := by
    obtain ⟨p, e, l, c, b, h⟩ := k'.follow_frame pc size
    exact ⟨p, e, l, c, b, _, _, h⟩
  unfold Role.retire
  dsimp only
  split
  case h_1 => exact follows k _
  case h_2 top rest _ =>
    obtain ⟨rs, hrs⟩ := k.setReg_frame top.count (k.reg top.count - 1)
    rw [hrs]
    split
    · split
      · exact ⟨_, _, _, _, _, _, _, rfl⟩
      · obtain ⟨p, e, l, c, b, ls, rs, h⟩ := follows { k with regs := rs, loops := rest } k.pc.toNat
        exact ⟨p, e, l, c, b, ls, rs, h⟩
    · exact follows k _

/-- Retirement leaves every register but the count register of the innermost loop. -/
theorem Role.reg_retire_other (k : Role) (size : Nat) {r : SReg} (h : ∀ e ∈ k.loops.head?, r ≠ e.count) :
    (k.retire size).reg r = k.reg r := by
  unfold Role.retire
  dsimp only
  split
  case h_1 => exact Role.reg_congr (Role.follow_regs ..) r
  case h_2 top rest hl =>
    have hr : r ≠ top.count := h top (by simp [hl])
    split
    · split
      · exact (Role.reg_congr (Role.goto_regs ..) r).trans (Role.reg_setReg_other k _ hr)
      · exact (Role.reg_congr (Role.follow_regs ..) r).trans (Role.reg_setReg_other k _ hr)
    · exact Role.reg_congr (Role.follow_regs ..) r

/-- A write of one register and the retirement behind it stay inside the frame of that register. -/
theorem roleFrame_setReg_retire (d : SReg) (v : Word) (k : Role) (size : Nat) :
    RoleFrame d k { (k.setReg d v).retire size with blocked := [] } := by
  constructor
  · intro r hd hl
    calc _ = ((k.setReg d v).retire size).reg r := Role.reg_congr rfl r
      _ = (k.setReg d v).reg r := Role.reg_retire_other _ _ (by simpa using hl)
      _ = k.reg r := Role.reg_setReg_other k v hd
  · obtain ⟨p, e, l, c, b, ls, rs, h⟩ := (k.setReg d v).retire_frame size
    simp [h]

/-! ### Instructions that write one plain register -/

/-- The outcome is the state with some value in register d, with the role behind an instruction of one word. -/
def WritesPlain (d : SReg) (s : State) (o : Host.Outcome State Fault Refusal) : Prop :=
  ∃ v, o = .next ((s.onRole s.cur fun k => k.setReg d v).continue_ 1 .seq)

/-- Operands that fit pass the checks of MKPTR (R104). -/
theorem runs_makePtr {sp : Space} {x y : Nat} (hf : MkptrFits sp x y) (s : State) : ∃ v, Runs (makePtr sp x y) s v s := by
  obtain ⟨hv, hq, hs, ha, hw, hc⟩ := hf
  have pass (c : Prop) [Decidable c] (v : Word) (hn : ¬ c) : ∃ w, Runs (if c then fault 0x05 x else pure v) s w s :=
    ⟨v, by rw [if_neg hn]; exact runs_pure v s⟩
  have fits (code : Nat) (hx : x < spaceLimit code) (hy : y ≤ 127) :
      ¬ (decide (127 < y) || decide (spaceLimit code ≤ x)) = true := by
    simp; omega
  cases sp with
  | virt => exact pass _ _ (by have := hv rfl; omega)
  | queue => exact pass _ _ (by have := hq rfl; omega)
  | scratch => exact pass _ _ (fits _ (hs rfl) (hc nofun nofun))
  | acc => exact pass _ _ (fits _ (ha rfl) (hc nofun nofun))
  | weight => exact pass _ _ (fits _ (hw rfl) (hc nofun nofun))

section
variable {s t : State} {g : Group} {k : Role} {d a b : SReg} (h : Acts s g k) (hd : d.isPort = false)
include h hd

/-- An instruction whose operands are plain and whose body gives its destination a value. -/
theorem instr_writesPlain {srcs : List SReg} {body : List Word → X Unit} (hs : ∀ r ∈ srcs, r.isPort = false) {v : Word}
    (hb : Runs (body (srcs.map k.reg)) s () (s.onRole s.cur fun k => k.setReg d v)) :
    WritesPlain d s (instr 1 srcs [d] noPre (seqBody body) s) :=
  ⟨v, instr_seq (runs_pure () s) (taken_plain h hs (by simpa using hd)) hb⟩

theorem alu2_writesPlain (ha : a.isPort = false) (hb : b.isPort = false) (f : Word → Word → Word) :
    WritesPlain d s (alu2 f d a b s) :=
  instr_writesPlain h hd (by simp [ha, hb]) (gives_plain h hd _)

theorem alu1_writesPlain (ha : a.isPort = false) (f : Word → Word) : WritesPlain d s (alu1 f d a s) :=
  instr_writesPlain h hd (by simp [ha]) (gives_plain h hd _)

theorem execBfi_writesPlain (ha : a.isPort = false) (p w : BitVec 6) : WritesPlain d s (execBfi d a p w s) :=
  instr_writesPlain h hd (by simp [ha, hd]) (gives_plain h hd _)

theorem execSel_writesPlain (ha : a.isPort = false) (hb : b.isPort = false) : WritesPlain d s (execSel d a b s) :=
  instr_writesPlain h hd (by simp [ha, hb, hd]) (gives_plain h hd _)

theorem execLdi_writesPlain (v : BitVec 20) : WritesPlain d s (execLdi d v s) :=
  instr_writesPlain h hd (by simp) (gives_plain h hd _)

theorem execLdih_writesPlain (v : BitVec 20) : WritesPlain d s (execLdih d v s) :=
  instr_writesPlain h hd (by simp [hd]) (gives_plain h hd _)

theorem execCyc_writesPlain : WritesPlain d s (execCyc d s) :=
  instr_writesPlain h hd (by simp) (gives_plain h hd _)

/-- MKPTR where its operands fit; the core id of the virtual and the queue space is not read. -/
theorem execMkptr_writesPlain (ha : a.isPort = false) (hb : b.isPort = false) {sp : Space}
    (hf : MkptrFits sp (k.reg a).toNat (k.reg b).toNat) : WritesPlain d s (execMkptr d a b sp s) := by
  unfold execMkptr
  by_cases hsp : sp = .virt ∨ sp = .queue
  · have hf0 : MkptrFits sp (k.reg a).toNat 0 := by
      obtain ⟨hv, hq, hs, hacc, hw, -⟩ := hf
      exact ⟨hv, hq, hs, hacc, hw, fun _ _ => Nat.zero_le _⟩
    obtain ⟨v, hv⟩ := runs_makePtr hf0 s
    rw [if_pos hsp]
    exact instr_writesPlain h hd (by simp [ha]) (runs_bind hv (gives_plain h hd v))
  · obtain ⟨v, hv⟩ := runs_makePtr hf s
    rw [if_neg hsp]
    exact instr_writesPlain h hd (by simp [ha, hb]) (runs_bind hv (gives_plain h hd v))

omit hd in
/-- The frame of an instruction that writes one plain register. -/
theorem frame_of_writesPlain {o : Host.Outcome State Fault Refusal} (ho : WritesPlain d s o) (ht : o = .next t) :
    OnlyRole s t s.cur ∧ (∀ j, t.byteAt j = s.byteAt j) ∧ ∀ k', t.role s.cur = some k' → RoleFrame d k k' := by
  obtain ⟨v, rfl⟩ := ho
  obtain rfl : s.onRole s.cur (fun k => { (k.setReg d v).retire 1 with blocked := [] }) = t := by
    rw [← Host.Outcome.next.inj ht]
    simp [State.continue_, State.onRole_onRole]
  refine ⟨⟨_, State.onRole_eq_const h _⟩, State.byteAt_onRole s _ _, fun k' hk => ?_⟩
  obtain rfl := Option.some.inj ((State.role_onRole h _).symm.trans hk)
  exact roleFrame_setReg_retire d v k 1

end

/-- Settles O4: every instruction of the list writes one plain register and retires, and both stay inside the frame. -/
theorem scalarFrame : Obligations.ScalarFrame := by
  unfold Obligations.ScalarFrame
  intro s t g k i d a b m n w v f sp h hd ha hb hi hfit ht
  refine frame_of_writesPlain h (o := exec i s) ?_ ht
  have two {p : Prop} {i f} (hi : exec i s = alu2 f d a b s) (_ : p) : WritesPlain d s (exec i s) :=
    hi ▸ alu2_writesPlain h hd ha hb f
  have one {p : Prop} {i f} (hi : exec i s = alu1 f d a s) (_ : p) : WritesPlain d s (exec i s) :=
    hi ▸ alu1_writesPlain h hd ha f
  clear ht
  revert i
  simp only [List.forall_mem_cons]
  exact ⟨two (exec_add ..), two (exec_sub ..), two (exec_mul ..), two (exec_mulh ..), two (exec_mulhn ..), two (exec_div ..),
    two (exec_divn ..), two (exec_rem ..), two (exec_remn ..), two (exec_and ..), two (exec_or ..), two (exec_xor ..),
    two (exec_andn ..), two (exec_shl ..), two (exec_shr ..), two (exec_sar ..), two (exec_rol ..), two (exec_min ..),
    two (exec_max ..), two (exec_minn ..), two (exec_maxn ..), two (exec_seq ..), two (exec_sne ..), two (exec_slt ..),
    two (exec_sltn ..), two (exec_sle ..), two (exec_slen ..), two (exec_addsh1 ..), two (exec_addsh2 ..),
    two (exec_addsh3 ..), fun _ => execSel_writesPlain h hd ha hb, one (exec_clz ..), one (exec_ctz ..), one (exec_popc ..),
    one (exec_addi ..), one (exec_andi ..), one (exec_ori ..), one (exec_xori ..), one (exec_slti ..), one (exec_shli ..),
    one (exec_shri ..), one (exec_sari ..), fun _ => execLdi_writesPlain h hd v, fun _ => execLdih_writesPlain h hd v,
    one (exec_bfx ..), fun _ => execBfi_writesPlain h hd ha n w, one (exec_ptrx ..), fun _ => execCyc_writesPlain h hd,
    fun fits => execMkptr_writesPlain h hd ha hb (fits trivial), List.forall_mem_nil _⟩

end Sys2Proof.Machine
end

section
/-! PROOFS. The decoder's checks, codes and fields: what each lets through, and how a field splits. -/

namespace Sys2Proof

/-! ### What the decoder's checks let through -/

theorem mustBeZero_eq_ok {x : Nat} {r : Except DecodeError Instr} {i : Instr} :
    mustBeZero x r = .ok i ↔ x = 0 ∧ r = .ok i := by
  unfold mustBeZero
  split <;> simp_all

theorem coded_eq_ok {α : Type} {x : Option α} {f : α → Except DecodeError Instr} {i : Instr} :
    coded x f = .ok i ↔ ∃ v, x = some v ∧ f v = .ok i := by
  cases x <;> simp [coded]

theorem sub_eq_ok {α : Type} {x : Option (α → Instr)} {k : (α → Except DecodeError Instr) → Except DecodeError Instr}
    {i : Instr} :
    sub x k = .ok i ↔ ∃ g, x = some g ∧ k (fun o => .ok (g o)) = .ok i := by
  cases x <;> simp [sub]

theorem checkWf_eq_ok {r : Except DecodeError Instr} {i : Instr} : checkWf r = .ok i ↔ r = .ok i ∧ i.wf = true := by
  cases r with
  | error e => simp [checkWf]
  | ok j =>
    by_cases hj : j.wf = true
    · simp only [checkWf, if_pos hj, Except.ok.injEq, iff_self_and]
      rintro rfl
      exact hj
    · simp only [checkWf, if_neg hj, reduceCtorEq, Except.ok.injEq, false_iff, not_and]
      rintro rfl
      exact hj

/-! ### A decoded code is the code that was read -/

theorem Scope.code_of_ofCode {n : Nat} {v : Scope} (h : Scope.ofCode n = some v) : n = v.code := by
  unfold Scope.ofCode at h
  split at h <;> cases h <;> rfl

theorem FenceKind.code_of_ofCode {n : Nat} {v : FenceKind} (h : FenceKind.ofCode n = some v) : n = v.code := by
  unfold FenceKind.ofCode at h
  split at h <;> cases h <;> rfl

theorem MemOrder.code_of_ofCode {n : Nat} {v : MemOrder} (h : MemOrder.ofCode n = some v) : n = v.code := by
  unfold MemOrder.ofCode at h
  split at h <;> cases h <;> rfl

theorem Size.code_of_ofCode {n : Nat} {v : Size} (h : Size.ofCode n = some v) : n = v.code := by
  unfold Size.ofCode at h
  split at h <;> cases h <;> rfl

theorem ElemTy.code_of_ofCode {n : Nat} {v : ElemTy} (h : ElemTy.ofCode n = some v) : n = v.code := by
  unfold ElemTy.ofCode at h
  split at h <;> cases h <;> rfl

theorem RM.code_of_ofCode {n : Nat} {v : RM} (h : RM.ofCode n = some v) : n = v.code := by
  unfold RM.ofCode at h
  split at h <;> cases h <;> rfl

theorem PWidth.code_of_ofCode {n : Nat} {v : PWidth} (h : PWidth.ofCode n = some v) : n = v.code := by
  unfold PWidth.ofCode at h
  split at h <;> cases h <;> rfl

theorem Space.code_of_ofCode {n : Nat} {v : Space} (h : Space.ofCode n = some v) : n = v.code := by
  unfold Space.ofCode at h
  split at h <;> cases h <;> rfl

theorem BSrc.codes_of_ofCode {bs b : Nat} {v : BSrc} (hb : b < 2 ^ 11) (h : BSrc.ofCode bs b = some v) :
    bs = v.bs ∧ b = v.field := by
  unfold BSrc.ofCode at h
  split at h
  case h_1 => cases h; exact ⟨rfl, (Nat.mod_eq_of_lt hb).symm⟩
  case h_2 =>
    split at h
    · cases h; exact ⟨rfl, (Nat.mod_eq_of_lt ‹_›).symm⟩
    · cases h
  case h_3 => cases h; exact ⟨rfl, (Nat.mod_eq_of_lt hb).symm⟩
  case h_4 => cases h

theorem TSrc.codes_of_ofCode {kind x : Nat} {v : TSrc} (hk : kind < 2) (hx : x < 64) (h : TSrc.ofCode kind x = some v) :
    kind = v.kind ∧ x = v.field := by
  unfold TSrc.ofCode at h
  split at h
  · cases h; exact ⟨‹_›, (Nat.mod_eq_of_lt hx).symm⟩
  · split at h
    · cases h
      have : kind = 1 := by omega
      exact ⟨this, (Nat.mod_eq_of_lt ‹_›).symm⟩
    · cases h

/-! ### Fields -/

theorem fld_lt (w lo n : Nat) : fld w lo n < 2 ^ n := Nat.mod_lt _ (Nat.two_pow_pos n)

/-- A field is its low bits with its high bits above them. -/
theorem fld_add (w lo m n : Nat) : fld w lo (m + n) = fld w (lo + m) n * 2 ^ m + fld w lo m := by
  unfold fld
  rw [Nat.pow_add 2 m n, Nat.mod_mul, Nat.pow_add, Nat.div_div_eq_div_mul]
  ring

theorem fld_bool (w lo : Nat) : (fld w lo 1 == 1).toNat = fld w lo 1 := by
  rcases Nat.lt_succ_iff_lt_or_eq.mp (fld_lt w lo 1) with h | h
  · simp [Nat.lt_one_iff.mp h]
  · simp [h]

theorem fld_ofNat (w n : Nat) : fld w 0 n = (BitVec.ofNat n w).toNat := by
  simp [fld]

/-- A field whose high bits are zero is its low bits. -/
theorem fld_of_high_zero {w lo : Nat} (m n : Nat) (h : fld w (lo + m) n = 0) : fld w lo (m + n) = fld w lo m := by
  simp [fld_add, h]

/-- A field whose low bits are zero is its high bits, shifted. -/
theorem fld_of_low_zero {w lo : Nat} (m n : Nat) (h : fld w lo m = 0) : fld w lo (m + n) = fld w (lo + m) n * 2 ^ m := by
  simp [fld_add, h]

end Sys2Proof
end

section
/-! PROOFS. Short words: what each decoder of a short word reads encodes to that word (R65 to R68, R77). -/

namespace Sys2Proof

/-! ### The formats of short words (R65) -/

section
variable {w op : Nat} (hw : w < 2 ^ 32) (hop : fld w 26 6 = op)
include hw hop

theorem encA_word {d a b fn : Nat} (hd : fld w 20 6 = d) (ha : fld w 14 6 = a) (hb : fld w 8 6 = b) (hf : fld w 0 8 = fn) :
    encA op d a b fn = [w] := by
  simp only [encA, fld] at *; congr 1; omega

theorem encI_word {d a imm : Nat} (hd : fld w 20 6 = d) (ha : fld w 14 6 = a) (hi : fld w 0 14 = imm) :
    encI op d a imm = [w] := by
  simp only [encI, fld] at *; congr 1; omega

theorem encL_word {d imm : Nat} (hd : fld w 20 6 = d) (hi : fld w 0 20 = imm) : encL op d imm = [w] := by
  simp only [encL, fld] at *; congr 1; omega

theorem encB_word {a b : Nat} (ha : fld w 20 6 = a) (hb : fld w 14 6 = b) : encB op a b (targetBAt w) = [w] := by
  simp only [encB, targetBAt, fld, BitVec.toNat_ofNat, Fin.val_ofNat] at *; congr 1; omega

theorem encJ_word {d : Nat} (hd : fld w 20 6 = d) : encJ op d (targetJAt w) = [w] := by
  simp only [encJ, targetJAt, fld, BitVec.toNat_ofNat, Fin.val_ofNat] at *; congr 1; omega

theorem encM_word {sz : Size} (hs : fld w 2 2 = sz.code) (hz : fld w 0 2 = 0) :
    encM op sz (sregAt w 20) (sregAt w 14) (BitVec.ofNat 10 (w / 16)) = [w] := by
  simp only [encM, sregAt, fld, BitVec.toNat_ofNat, Fin.val_ofNat] at *; congr 1; omega

end

/-! ### Short instructions (R67, R68, R77) -/

section
variable {w : Nat} (hw : w < 2 ^ 32)
include hw

theorem decodeSys_encode {i : Instr} (hop : fld w 26 6 = 0) (h : decodeSys w = .ok i) : encode i = [w] := by
  unfold decodeSys at h
  split at h
  all_goals simp only [mustBeZero_eq_ok, coded_eq_ok, Except.ok.injEq, reduceCtorEq] at h
  case h_1 _ hsel | h_2 _ hsel | h_3 _ hsel =>
    obtain ⟨hz, rfl⟩ := h
    exact encL_word hw hop hsel hz
  case h_4 _ hsel | h_5 _ hsel =>
    subst h
    exact encL_word hw hop hsel (fld_ofNat w 20)
  case h_6 _ hsel =>
    obtain ⟨sc, hsc, k, hk, hz, rfl⟩ := h
    have hlow : fld w 0 20 = fld w 15 5 * 2 ^ 15 := fld_of_low_zero 15 5 hz
    have hhigh : fld w 15 5 = fld w 17 3 * 2 ^ 2 + fld w 15 2 := fld_add w 15 2 3
    have himm : fld w 0 20 = sc.code * 2 ^ 17 + k.code * 2 ^ 15 := by
      rw [hlow, hhigh, Scope.code_of_ofCode hsc, FenceKind.code_of_ofCode hk]
      ring
    exact encL_word hw hop hsel himm
  case h_7 _ hsel =>
    obtain ⟨hz, rfl⟩ := h
    have himm : fld w 0 20 = fld w 14 6 * 2 ^ 14 := fld_of_low_zero 14 6 hz
    exact encL_word hw hop hsel himm
  all_goals
    subst h
    have himm : fld w 0 20 = fld w 14 6 * 2 ^ 14 + fld w 0 14 := fld_add w 0 14 6
    exact encL_word hw hop (by assumption) (fld_ofNat w 14 ▸ himm)

theorem decodeAlu3_encode {i : Instr} (hop : fld w 26 6 = 1) (h : decodeAlu3 w = .ok i) : encode i = [w] := by
  unfold decodeAlu3 at h
  split at h
  all_goals simp only [mustBeZero_eq_ok, Except.ok.injEq, reduceCtorEq] at h
  case h_28 | h_29 | h_30 =>
    obtain ⟨hb, rfl⟩ := h
    exact encA_word hw hop rfl rfl hb (by assumption)
  all_goals
    subst h
    exact encA_word hw hop rfl rfl rfl (by assumption)

theorem decodeShifti_encode {i : Instr} (hop : fld w 26 6 = 7) (h : decodeShifti w = .ok i) : encode i = [w] := by
  unfold decodeShifti at h
  have himm : fld w 0 14 = fld w 12 2 * 2 ^ 12 + fld w 0 12 := fld_add w 0 12 2
  split at h
  all_goals simp only [mustBeZero_eq_ok, Except.ok.injEq, reduceCtorEq] at h
  all_goals
    obtain ⟨hz, rfl⟩ := h
    have hn : fld w 0 12 = fld w 0 6 := fld_of_high_zero 6 6 hz
    exact encI_word hw hop rfl rfl (by rw [himm, hn, fld_ofNat w 6, ‹fld w 12 2 = _›])

theorem decodeBitf_encode {i : Instr} (hop : fld w 26 6 = 0x0A) (h : decodeBitf w = .ok i) : encode i = [w] := by
  unfold decodeBitf at h
  have himm : fld w 0 14 = fld w 12 2 * 2 ^ 12 + (fld w 6 6 * 2 ^ 6 + fld w 0 6) :=
    (fld_add w 0 12 2).trans (congrArg _ (fld_add w 0 6 6))
  split at h
  all_goals simp only [Except.ok.injEq, reduceCtorEq] at h
  case h_1 =>
    subst h
    exact encI_word hw hop rfl rfl (by rw [himm, fld_ofNat w 6, ‹fld w 12 2 = _›, Nat.zero_mul, Nat.zero_add]; rfl)
  case h_2 =>
    subst h
    exact encI_word hw hop rfl rfl (by rw [himm, fld_ofNat w 6, ‹fld w 12 2 = _›, Nat.add_assoc]; rfl)

theorem decodePtr_encode {i : Instr} (hop : fld w 26 6 = 0x0B) (h : decodePtr w = .ok i) : encode i = [w] := by
  unfold decodePtr at h
  have hfn : fld w 0 8 = fld w 7 1 * 2 ^ 7 + fld w 0 7 := fld_add w 0 7 1
  have hlt := fld_lt w 7 1
  split at h
  all_goals simp only [mustBeZero_eq_ok, coded_eq_ok, Except.ok.injEq] at h
  case isTrue hsel =>
    obtain ⟨hz, sp, hsp, rfl⟩ := h
    have hlow : fld w 0 7 = fld w 0 4 := fld_of_high_zero 4 3 hz
    have := Space.code_of_ofCode hsp
    exact encA_word hw hop rfl rfl rfl (by omega)
  case isFalse hsel =>
    obtain ⟨hb, hz, rfl⟩ := h
    have hlow : fld w 0 7 = fld w 0 2 := fld_of_high_zero 2 5 hz
    exact encA_word hw hop rfl rfl hb (by rw [hfn, hlow, fld_ofNat w 2, show fld w 7 1 = 1 by omega]; rfl)

theorem decodePred_encode {i : Instr} (hop : fld w 26 6 = 0x0C) (h : decodePred w = .ok i) : encode i = [w] := by
  unfold decodePred at h
  split at h
  all_goals simp only [mustBeZero_eq_ok, coded_eq_ok, Except.ok.injEq, reduceCtorEq] at h
  case h_1 =>
    obtain ⟨hd, p, hp, rfl⟩ := h
    exact encA_word hw hop (fld_of_high_zero 3 3 hd) rfl (PWidth.code_of_ofCode hp) (by assumption)
  case h_2 =>
    obtain ⟨ha, p, hp, rfl⟩ := h
    exact encA_word hw hop rfl (fld_of_high_zero 3 3 ha) (PWidth.code_of_ofCode hp) (by assumption)
  case h_3 =>
    obtain ⟨hd, ha, hb, rfl⟩ := h
    exact encA_word hw hop (fld_of_high_zero 3 3 hd) (fld_of_high_zero 3 3 ha)
      (fld_of_high_zero 3 3 hb) (by assumption)
  case h_4 =>
    obtain ⟨ha, hb, rfl⟩ := h
    exact encA_word hw hop rfl (fld_of_high_zero 3 3 ha) hb (by assumption)

theorem decodeM_encode {op : Nat} {i : Instr} {f : Size → SReg → SReg → BitVec 10 → Instr} (hop : fld w 26 6 = op)
    (hf : ∀ sz d a o, encode (f sz d a o) = encM op sz d a o) (h : decodeM w f = .ok i) : encode i = [w] := by
  unfold decodeM at h
  simp only [mustBeZero_eq_ok, coded_eq_ok, Except.ok.injEq] at h
  obtain ⟨sz, hsz, hz, rfl⟩ := h
  rw [hf]
  exact encM_word hw hop (Size.code_of_ofCode hsz) hz

omit hw in
/-- What LDAQ and STRL read of fn: the scope and the size (R68). -/
theorem decodeAcqRel_eq_ok {i : Instr} {f : Size → Scope → Except DecodeError Instr} (h : decodeAcqRel w f = .ok i) :
    ∃ sz sc, fld w 0 8 = sc.code * 2 ^ 5 + sz.code ∧ f sz sc = .ok i := by
  unfold decodeAcqRel at h
  simp only [mustBeZero_eq_ok, coded_eq_ok] at h
  obtain ⟨sc, hsc, sz, hsz, hz, h⟩ := h
  have hfn : fld w 0 8 = fld w 5 3 * 2 ^ 5 + fld w 0 5 := fld_add w 0 5 3
  have hlow : fld w 0 5 = fld w 0 2 := fld_of_high_zero 2 3 hz
  exact ⟨sz, sc, by rw [hfn, hlow, Scope.code_of_ofCode hsc, Size.code_of_ofCode hsz], h⟩

theorem decodeAtom_encode {op : Nat} {i : Instr} {fns : Nat → Option (Scope → MemOrder → SReg → SReg → SReg → Instr)}
    (hop : fld w 26 6 = op) (hf : ∀ n f, fns n = some f → ∀ sc o d a b, encode (f sc o d a b) = encAtom op n sc o d a b)
    (h : decodeAtom w fns = .ok i) : encode i = [w] := by
  unfold decodeAtom at h
  split at h
  · cases h
  · simp only [coded_eq_ok, Except.ok.injEq] at h
    obtain ⟨sc, hsc, o, ho, rfl⟩ := h
    have hfn : fld w 0 8 = fld w 5 3 * 2 ^ 5 + (fld w 3 2 * 2 ^ 3 + fld w 0 3) :=
      (fld_add w 0 5 3).trans (congrArg _ (fld_add w 0 3 2))
    rw [hf _ _ (by assumption)]
    exact encA_word hw hop rfl rfl rfl (by rw [hfn, Scope.code_of_ofCode hsc, MemOrder.code_of_ofCode ho, Nat.add_assoc])

omit hw in
theorem atom1Fn_encode (n : Nat) (f : Scope → MemOrder → SReg → SReg → SReg → Instr) (h : atom1Fn n = some f)
    (sc : Scope) (o : MemOrder) (d a b : SReg) : encode (f sc o d a b) = encAtom 0x15 n sc o d a b := by
  unfold atom1Fn at h
  split at h <;> cases h <;> rfl

omit hw in
theorem atom2Fn_encode (n : Nat) (f : Scope → MemOrder → SReg → SReg → SReg → Instr) (h : atom2Fn n = some f)
    (sc : Scope) (o : MemOrder) (d a b : SReg) : encode (f sc o d a b) = encAtom 0x16 n sc o d a b := by
  unfold atom2Fn at h
  split at h <;> cases h <;> rfl

theorem decodeBzBnz_encode {i : Instr} (hop : fld w 26 6 = 0x1E) (h : decodeBzBnz w = .ok i) : encode i = [w] := by
  unfold decodeBzBnz at h
  split at h
  all_goals simp only [Except.ok.injEq, reduceCtorEq] at h
  all_goals
    subst h
    exact encB_word hw hop rfl (by assumption)

theorem decodeQue_encode {i : Instr} (hop : fld w 26 6 = 0x24) (h : decodeQue w = .ok i) : encode i = [w] := by
  unfold decodeQue at h
  split at h
  all_goals simp only [mustBeZero_eq_ok, Except.ok.injEq, reduceCtorEq] at h
  case h_1 =>
    obtain ⟨hz, rfl⟩ := h
    have hb : fld w 8 6 = fld w 8 4 := fld_of_high_zero 4 2 hz
    have hhigh : fld w 8 4 = fld w 10 2 * 2 ^ 2 + fld w 8 2 := fld_add w 8 2 2
    have hbits : fld w 10 2 = fld w 11 1 * 2 ^ 1 + fld w 10 1 := fld_add w 10 1 1
    refine encA_word hw hop rfl rfl ?_ (by assumption)
    rw [fld_bool, fld_bool, show (Fin.ofNat 4 (w / 256)).val = fld w 8 2 from rfl]
    omega
  case h_2 | h_3 =>
    obtain ⟨ha, hz, rfl⟩ := h
    exact encA_word hw hop rfl ha (fld_of_high_zero 3 3 hz) (by assumption)
  case h_4 | h_5 =>
    obtain ⟨hz, rfl⟩ := h
    exact encA_word hw hop rfl rfl (fld_of_high_zero 3 3 hz) (by assumption)
  case h_6 | h_7 =>
    obtain ⟨hb, rfl⟩ := h
    exact encA_word hw hop rfl rfl hb (by assumption)

theorem decodeGen_encode {i : Instr} (hop : fld w 26 6 = 0x25) (h : decodeGen w = .ok i) : encode i = [w] := by
  unfold decodeGen at h
  rw [mustBeZero_eq_ok] at h
  obtain ⟨hz, h⟩ := h
  have hg : fld w 20 6 = fld w 20 5 := fld_of_high_zero 5 1 hz
  split at h
  case h_1 | h_2 =>
    simp only [mustBeZero_eq_ok, Except.ok.injEq] at h
    obtain ⟨hb, rfl⟩ := h
    exact encA_word hw hop hg rfl hb (by assumption)
  case h_3 | h_4 =>
    split at h
    · cases h
      exact encA_word hw hop hg rfl (Nat.mod_eq_of_lt (by assumption)).symm (by assumption)
    · cases h
  case h_5 => cases h

theorem decodeBar_encode {i : Instr} (hop : fld w 26 6 = 0x27) (h : decodeBar w = .ok i) : encode i = [w] := by
  unfold decodeBar at h
  split at h
  all_goals simp only [mustBeZero_eq_ok, Except.ok.injEq, reduceCtorEq] at h
  case h_2 | h_4 =>
    obtain ⟨hb, rfl⟩ := h
    exact encA_word hw hop rfl rfl hb (by assumption)
  all_goals
    subst h
    exact encA_word hw hop rfl rfl rfl (by assumption)

theorem decodeTask_encode {i : Instr} (hop : fld w 26 6 = 0x28) (h : decodeTask w = .ok i) : encode i = [w] := by
  unfold decodeTask at h
  split at h
  all_goals simp only [mustBeZero_eq_ok, Except.ok.injEq, reduceCtorEq] at h
  case h_1 =>
    obtain ⟨hb, rfl⟩ := h
    exact encA_word hw hop rfl rfl hb (by assumption)
  case h_2 | h_3 | h_5 =>
    obtain ⟨hd, hb, rfl⟩ := h
    exact encA_word hw hop hd rfl hb (by assumption)
  case h_4 =>
    subst h
    exact encA_word hw hop rfl rfl rfl (by assumption)
  case h_6 =>
    obtain ⟨hz, rfl⟩ := h
    have hlow : fld w 8 18 = fld w 14 12 * 2 ^ 6 + fld w 8 6 := fld_add w 8 6 12
    have hhigh : fld w 14 12 = fld w 20 6 * 2 ^ 6 + fld w 14 6 := fld_add w 14 6 6
    exact encA_word hw hop (by omega) (by omega) (by omega) (by assumption)

theorem decodePool_encode {i : Instr} (hop : fld w 26 6 = 0x2C) (h : decodePool w = .ok i) : encode i = [w] := by
  unfold decodePool at h
  split at h
  all_goals simp only [mustBeZero_eq_ok, Except.ok.injEq, reduceCtorEq] at h
  case h_1 | h_2 =>
    obtain ⟨hd, rfl⟩ := h
    exact encA_word hw hop hd rfl rfl (by assumption)
  all_goals
    subst h
    exact encA_word hw hop rfl rfl rfl (by assumption)

theorem decodePage_encode {i : Instr} (hop : fld w 26 6 = 0x2E) (h : decodePage w = .ok i) : encode i = [w] := by
  unfold decodePage at h
  split at h
  all_goals simp only [mustBeZero_eq_ok, Except.ok.injEq, reduceCtorEq] at h
  case h_1 =>
    obtain ⟨hd, rfl⟩ := h
    exact encA_word hw hop hd rfl rfl (by assumption)
  case h_2 =>
    subst h
    exact encA_word hw hop rfl rfl rfl (by assumption)

theorem decodeShort_encode {i : Instr} (h : decodeShort w = .ok i) : encode i = [w] := by
  dsimp only [decodeShort] at h
  split at h
  case h_1 _ hop => exact decodeSys_encode hw hop h
  case h_2 _ hop => exact decodeAlu3_encode hw hop h
  case h_3 _ hop | h_4 _ hop | h_5 _ hop | h_6 _ hop | h_7 _ hop =>
    cases h
    exact encI_word hw hop rfl rfl (fld_ofNat w 14)
  case h_8 _ hop => exact decodeShifti_encode hw hop h
  case h_9 _ hop | h_10 _ hop =>
    cases h
    exact encL_word hw hop rfl (fld_ofNat w 20)
  case h_11 _ hop => exact decodeBitf_encode hw hop h
  case h_12 _ hop => exact decodePtr_encode hw hop h
  case h_13 _ hop => exact decodePred_encode hw hop h
  case h_14 _ hop | h_15 _ hop | h_16 _ hop => exact decodeM_encode hw hop (fun _ _ _ _ => rfl) h
  case h_17 _ hop =>
    obtain ⟨sz, sc, hfn, h⟩ := decodeAcqRel_eq_ok h
    simp only [mustBeZero_eq_ok, Except.ok.injEq] at h
    obtain ⟨hb, rfl⟩ := h
    exact encA_word hw hop rfl rfl hb hfn
  case h_18 _ hop =>
    obtain ⟨sz, sc, hfn, h⟩ := decodeAcqRel_eq_ok h
    simp only [mustBeZero_eq_ok, Except.ok.injEq] at h
    obtain ⟨hd, rfl⟩ := h
    exact encA_word hw hop hd rfl rfl hfn
  case h_19 _ hop => exact decodeAtom_encode hw hop atom1Fn_encode h
  case h_20 _ hop => exact decodeAtom_encode hw hop atom2Fn_encode h
  case h_21 _ hop | h_22 _ hop | h_23 _ hop | h_24 _ hop | h_25 _ hop | h_26 _ hop =>
    cases h
    exact encB_word hw hop rfl rfl
  case h_27 _ hop => exact decodeBzBnz_encode hw hop h
  case h_28 _ hop | h_30 _ hop =>
    cases h
    exact encJ_word hw hop rfl
  case h_29 _ hop =>
    simp only [mustBeZero_eq_ok, Except.ok.injEq] at h
    obtain ⟨hz, rfl⟩ := h
    have hlow : fld w 0 14 = fld w 8 6 * 2 ^ 8 + fld w 0 8 := fld_add w 0 8 6
    exact encA_word hw hop rfl rfl (by omega) (by omega)
  case h_31 _ hop => exact decodeQue_encode hw hop h
  case h_32 _ hop => exact decodeGen_encode hw hop h
  case h_33 _ hop => exact decodeBar_encode hw hop h
  case h_34 _ hop => exact decodeTask_encode hw hop h
  case h_35 _ hop => exact decodePool_encode hw hop h
  case h_36 _ hop => exact decodePage_encode hw hop h
  case h_37 => cases h

end

end Sys2Proof
end

section
/-! PROOFS. Long words, and the whole decoder (R69 to R74, R78; O54). -/

namespace Sys2Proof

/-! ### The formats of long words (R69 to R74) -/

section
variable {w0 w1 : Nat} (h0 : w0 < 2 ^ 32) (h1 : w1 < 2 ^ 32)
include h0 h1

/-- Format V: what stands between the sub-op and the operands is what was read. -/
theorem vopAt_eq_ok {i : Instr} {f : VOp → Instr} (hop : fld w0 26 6 = 0x38)
    (h : vopAt w0 w1 (fun o => .ok (f o)) = .ok i) : ∃ o, f o = i ∧ encV (fld w0 20 6) o = [w0, w1] := by
  simp only [vopAt, coded_eq_ok, Except.ok.injEq] at h
  obtain ⟨b, hb, rm, hrm, ty, hty, ty2, hty2, rfl⟩ := h
  obtain ⟨hbs, hfield⟩ := BSrc.codes_of_ofCode (fld_lt _ _ _) hb
  have := RM.code_of_ofCode hrm
  have := ElemTy.code_of_ofCode hty
  have := ElemTy.code_of_ofCode hty2
  refine ⟨_, rfl, ?_⟩
  simp only [encV, fld_bool]
  simp only [fld, kregAt, vregAt, Fin.val_ofNat] at *
  congr 1
  · omega
  · congr 1; omega

/-- Format VM. -/
theorem vmopAt_eq_ok {i : Instr} {f : VMOp → Instr} (hop : fld w0 26 6 = 0x39)
    (h : vmopAt w0 w1 (fun o => .ok (f o)) = .ok i) : ∃ o, f o = i ∧ encVM (fld w0 20 6) o = [w0, w1] := by
  simp only [vmopAt, coded_eq_ok, mustBeZero_eq_ok, Except.ok.injEq] at h
  obtain ⟨ty, hty, hz, rfl⟩ := h
  have := ElemTy.code_of_ofCode hty
  refine ⟨_, rfl, ?_⟩
  simp only [encVM]
  simp only [fld, kregAt, vregAt, gregAt, sregAt, Fin.val_ofNat, BitVec.toNat_ofNat] at *
  congr 1
  · omega
  · congr 1; omega

/-- Format X. -/
theorem xopAt_eq_ok {i : Instr} {f : XOp → Instr} (hop : fld w0 26 6 = 0x3A)
    (h : xopAt w0 w1 (fun o => .ok (f o)) = .ok i) : ∃ o, f o = i ∧ encX (fld w0 20 6) o = [w0, w1] := by
  simp only [xopAt, coded_eq_ok, mustBeZero_eq_ok, Except.ok.injEq] at h
  obtain ⟨rm, hrm, ty, hty, hz, rfl⟩ := h
  have := RM.code_of_ofCode hrm
  have := ElemTy.code_of_ofCode hty
  refine ⟨_, rfl, ?_⟩
  simp only [encX, fld_bool]
  simp only [fld, vregAt, gregAt, sregAt, Fin.val_ofNat] at *
  congr 1
  · omega
  · congr 1; omega

/-- Format T. -/
theorem topAt_eq_ok {i : Instr} {f : TOp → Instr} (hop : fld w0 26 6 = 0x3B)
    (h : topAt w0 w1 (fun o => .ok (f o)) = .ok i) : ∃ o, f o = i ∧ encT (fld w0 20 6) o = [w0, w1] := by
  simp only [topAt, coded_eq_ok, mustBeZero_eq_ok, Except.ok.injEq] at h
  obtain ⟨x, hx, y, hy, z, hz, ty, hty, rm, hrm, hlow, rfl⟩ := h
  obtain ⟨hxk, hxf⟩ := TSrc.codes_of_ofCode (fld_lt _ _ _) (fld_lt _ _ _) hx
  obtain ⟨hyk, hyf⟩ := TSrc.codes_of_ofCode (fld_lt _ _ _) (fld_lt _ _ _) hy
  obtain ⟨hzk, hzf⟩ := TSrc.codes_of_ofCode (fld_lt _ _ _) (fld_lt _ _ _) hz
  have := RM.code_of_ofCode hrm
  have := ElemTy.code_of_ofCode hty
  refine ⟨_, rfl, ?_⟩
  simp only [encT]
  simp only [fld, hregAt, sregAt, Fin.val_ofNat, BitVec.toNat_ofNat] at *
  congr 1
  · omega
  · congr 1; omega

/-- Format E: every value of every field is a value of its operand. -/
theorem encE_eopAt (hop : fld w0 26 6 = 0x3C) : encE (fld w0 20 6) (eopAt w0 w1) = [w0, w1] := by
  simp only [encE, eopAt]
  simp only [fld, gregAt, sregAt, Fin.val_ofNat, BitVec.toNat_ofNat] at *
  congr 1
  · omega
  · congr 1; omega

/-- Format K. -/
theorem encK_words {s x y d a : Nat} (hop : fld w0 26 6 = 0x3D) (hs : fld w0 20 6 = s) (hx : fld w0 0 20 = x)
    (hy : fld w1 12 20 = y) (hd : fld w1 6 6 = d) (ha : fld w1 0 6 = a) : encK s x y d a = [w0, w1] := by
  simp only [encK, fld] at *
  congr 1
  · omega
  · congr 1; omega

/-! ### Long instructions (R74, R78) -/

omit h0 h1 in
theorem vSub_encode {n : Nat} {f : VOp → Instr} (h : vSub n = some f) (o : VOp) : encode (f o) = encV n o := by
  unfold vSub at h
  split at h <;> cases h <;> rfl

omit h0 h1 in
theorem vmSub_encode {n : Nat} {f : VMOp → Instr} (h : vmSub n = some f) (o : VMOp) : encode (f o) = encVM n o := by
  unfold vmSub at h
  split at h <;> cases h <;> rfl

omit h0 h1 in
theorem xSub_encode {n : Nat} {f : XOp → Instr} (h : xSub n = some f) (o : XOp) : encode (f o) = encX n o := by
  unfold xSub at h
  split at h <;> cases h <;> rfl

omit h0 h1 in
theorem tSub_encode {n : Nat} {f : TOp → Instr} (h : tSub n = some f) (o : TOp) : encode (f o) = encT n o := by
  unfold tSub at h
  split at h <;> cases h <;> rfl

omit h0 h1 in
theorem eSub_encode {n : Nat} {f : EOp → Instr} (h : eSub n = some f) (o : EOp) : encode (f o) = encE n o := by
  unfold eSub at h
  split at h <;> cases h <;> rfl

theorem decodeK_encode {i : Instr} (hop : fld w0 26 6 = 0x3D) (h : decodeK w0 w1 = .ok i) : encode i = [w0, w1] := by
  unfold decodeK at h
  split at h
  case h_1 _ hsel | h_2 _ hsel =>
    simp only [mustBeZero_eq_ok, Except.ok.injEq] at h
    obtain ⟨hz, rfl⟩ := h
    have hlow : fld w1 0 12 = fld w1 6 6 * 2 ^ 6 + fld w1 0 6 := fld_add w1 0 6 6
    exact encK_words h0 h1 hop hsel (fld_ofNat w0 20) rfl (by omega) (by omega)
  case h_3 _ hsel =>
    simp only [mustBeZero_eq_ok, Except.ok.injEq] at h
    obtain ⟨hx, hy, rfl⟩ := h
    exact encK_words h0 h1 hop hsel hx hy rfl rfl
  case h_4 => cases h

theorem decodeLong_encode {i : Instr} (h : decodeLong w0 w1 = .ok i) : encode i = [w0, w1] := by
  unfold decodeLong at h
  split at h
  case h_1 _ hop =>
    obtain ⟨f, hf, h⟩ := sub_eq_ok.mp h
    obtain ⟨o, rfl, ho⟩ := vopAt_eq_ok h0 h1 hop h
    rw [vSub_encode hf, ho]
  case h_2 _ hop =>
    obtain ⟨f, hf, h⟩ := sub_eq_ok.mp h
    obtain ⟨o, rfl, ho⟩ := vmopAt_eq_ok h0 h1 hop h
    rw [vmSub_encode hf, ho]
  case h_3 _ hop =>
    obtain ⟨f, hf, h⟩ := sub_eq_ok.mp h
    obtain ⟨o, rfl, ho⟩ := xopAt_eq_ok h0 h1 hop h
    rw [xSub_encode hf, ho]
  case h_4 _ hop =>
    obtain ⟨f, hf, h⟩ := sub_eq_ok.mp h
    obtain ⟨o, rfl, ho⟩ := topAt_eq_ok h0 h1 hop h
    rw [tSub_encode hf, ho]
  case h_5 _ hop =>
    obtain ⟨f, hf, h⟩ := sub_eq_ok.mp h
    cases h
    rw [eSub_encode hf, encE_eopAt h0 h1 hop]
  case h_6 _ hop => exact decodeK_encode h0 h1 hop h
  case h_7 => cases h

end

/-- Settles O54: each format's fields, with the bits that must be zero, add up to the words read. -/
theorem encodeOfDecode : Obligations.EncodeOfDecode := by
  unfold Obligations.EncodeOfDecode
  intro w0 w1 more i h0 h1 h
  by_cases hl : isLong w0 = true
  · simp only [decodeWords, if_pos hl, checkWf_eq_ok] at h
    simp only [wordsOf, if_pos hl]
    exact ⟨h.2, decodeLong_encode h0 h1 h.1⟩
  · simp only [decodeWords, if_neg hl, checkWf_eq_ok] at h
    simp only [wordsOf, if_neg hl]
    exact ⟨h.2, decodeShort_encode h0 h.1⟩

end Sys2Proof
end

section
/-! PROOFS. MemRead and MemWrite inside one granule of scratchpad or one atom of local HBM (O7). -/

namespace Sys2Proof.Machine

open Sys2Proof

/-! ### Accesses inside one unit -/

theorem pieces_single {u a : Nat} {bs : List Byte} (hb : bs ≠ []) (h : a % u + bs.length ≤ u) :
    pieces u a bs = [(a, bs)] := by
  obtain ⟨b, bs, rfl⟩ := List.exists_cons_of_ne_nil hb
  have hn : (b :: bs).length ≤ u - a % u := by omega
  simp [pieces, piecesAux, List.take_of_length_le hn, List.drop_of_length_le hn]

theorem spans_single {u a n : Nat} (hn : 1 ≤ n) (h : a % u + n ≤ u) : spans u a n = [(a, n)] := by
  simp [spans, spansAux, show n ≠ 0 by omega, show min n (u - a % u) = n by omega]

theorem add_div_same_unit {a i n u : Nat} (hu : a % u + n ≤ u) (hi : i < n) : (a + i) / u = a / u := by
  have h : a + i = a % u + i + u * (a / u) := by have := Nat.mod_add_div a u; omega
  rw [h, Nat.add_mul_div_left _ _ (by omega), Nat.div_eq_of_lt (by omega), Nat.zero_add]

theorem State.bytesAt_eq_map (s : State) (k n : Nat) : s.bytesAt k n = (List.range n).map fun i => s.byteAt (k + i) := by
  unfold State.bytesAt State.byteAt
  induction n generalizing k with
  | zero => rfl
  | succ n ih => simp [memRead, ih, List.range_succ_eq_map, Nat.add_assoc, Nat.add_comm 1]

/-! ### MemRead and MemWrite through a resolved place (R8, R214) -/

section
variable {w : Who} {p n : Nat} {a : Acc} {s s1 s2 : State} {pl : Place} {bs : List Byte} {t : Trap} {k : Option State}

theorem runs_memReadBytes (hr : Runs (resolve w p n a) s pl s1) (hb : s.boardHits w p n = false)
    (hp : Runs (readPlace p n pl) s1 (bs, false) s2) : Runs (memReadBytes w p n a) s bs s2 := by
  refine runs_bind (runs_get s) (runs_bind hr (runs_bind (a := ()) (t := s1) ?_ (runs_bind hp (runs_pure bs s2))))
  rw [hb]
  exact runs_waitIf s1

theorem runs_memWriteBytes (hr : Runs (resolve w p bs.length a) s pl s1) (hb : s.boardHits w p bs.length = false)
    (hp : Runs (writePlace p pl bs) s1 () s2) : Runs (memWriteBytes w p bs a) s () s2 := by
  refine runs_bind (runs_get s) (runs_bind hr (runs_bind (a := ()) (t := s1) ?_ hp))
  rw [hb]
  exact runs_waitIf s1

theorem raises_memReadBytes (hr : Raises (resolve w p n a) s t k) : Raises (memReadBytes w p n a) s t k :=
  raises_bind_right (runs_get s) (raises_bind hr)

theorem raises_memWriteBytes (hr : Raises (resolve w p bs.length a) s t k) : Raises (memWriteBytes w p bs a) s t k :=
  raises_bind_right (runs_get s) (raises_bind hr)

end

/-! ### Scratchpad pointers (R208, R211) -/

section
variable {w : Who} {p n : Nat} {a : Acc} {s : State} (hp : p / 2 ^ 60 = 1)
include hp

theorem ptrSpace_scratch : ptrSpace p = 1 := by
  unfold ptrSpace
  rw [hp]

theorem onChipOk_scratch : onChipOk p = true ↔ p / 2 ^ 23 % 2 ^ 30 = 0 ∧ p % 2 ^ 23 < 3 * 2 ^ 20 := by
  simp [onChipOk, ptrSpace_scratch hp, spaceLimit, ptrOff]

theorem raises_resolve_space (h : p / 2 ^ 23 % 2 ^ 30 ≠ 0 ∨ 3 * 2 ^ 20 ≤ p % 2 ^ 23) :
    Raises (resolve w p n a) s { code := 0x05, va := BitVec.ofNat 64 p } none := by
  have hok : onChipOk p = false := by
    rw [← Bool.not_eq_true, onChipOk_scratch hp]; omega
  refine raises_bind_right (runs_get s) ?_
  simp only [ptrSpace_scratch hp, hok]
  exact raises_bind (raises_faultIf _ _ _)

variable (hz : p / 2 ^ 23 % 2 ^ 30 = 0) (hl : p % 2 ^ 23 < 3 * 2 ^ 20)
include hz hl

theorem raises_resolve_owner (ho : s.ownsUnit w.ctx (ptrCore p) (ptrOff p) = false) :
    Raises (resolve w p n a) s { code := 0x07, va := BitVec.ofNat 64 p } none := by
  have hok : onChipOk p = true := (onChipOk_scratch hp).mpr ⟨hz, hl⟩
  refine raises_bind_right (runs_get s) ?_
  simp only [ptrSpace_scratch hp, hok, ho]
  exact raises_bind_right (runs_faultIf _ _ _) (raises_bind (raises_faultIf _ _ _))

/-- An access inside one granule of an owned unit is inside that unit. -/
theorem runs_resolve_scratch (hn : 1 ≤ n) (hg : p % 64 + n ≤ 64) (ho : s.ownsUnit w.ctx (ptrCore p) (ptrOff p) = true) :
    Runs (resolve w p n a) s (.chip p) s := by
  have hok : onChipOk p = true := (onChipOk_scratch hp).mpr ⟨hz, hl⟩
  have hunit : (ptrOff p + n - 1) / 2 ^ 16 = ptrOff p / 2 ^ 16 := by unfold ptrOff; omega
  have hlast : s.ownsUnit w.ctx (ptrCore p) (ptrOff p + n - 1) = true := by
    rw [← ho]; unfold State.ownsUnit; rw [hunit]
  refine runs_bind (runs_get s) ?_
  simp only [ptrSpace_scratch hp, hok, ho, hlast]
  exact runs_bind (runs_faultIf _ _ _) (runs_bind (runs_faultIf _ _ _) (runs_pure _ _))

end

theorem State.chipRead_granule {s : State} {k n : Nat} (hn : 1 ≤ n) (hg : k % 64 + n ≤ 64) :
    s.chipRead k n = (s.bytesAt k n, s.isPoison (k / 64)) := by
  simp [State.chipRead, spans_single hn hg]

theorem State.chipWrite_granule {s : State} {k : Nat} {bs : List Byte} (hb : bs ≠ []) (hg : k % 64 + bs.length ≤ 64)
    (hp : s.isPoison (k / 64) = false) : s.chipWrite k bs = (s.dropPoison (k / 64)).putBytes k bs := by
  simp [State.chipWrite, pieces_single hb hg, State.chipWriteGranule, hp]

/-! ### Atoms of local HBM (R241, R361) -/

/-- No other key than this one has marked the atom at a physical address: what reads as its plain bytes under the key (log 12). -/
def State.KeyFits (s : State) (key : KeyRef) (pa : Nat) : Prop := ∀ t, SMap.get s.keyTag (pa / 64) = some t → t = key

section
variable {s : State} {key : KeyRef} {pa va n : Nat} {bs : List Byte}

theorem State.hbmByte_of_keyFits (h : s.KeyFits key pa) : s.hbmByte key pa = s.byteAt pa := by
  unfold State.hbmByte
  split
  · rfl
  · rename_i t ht
    rw [if_pos (h t ht)]

/-- A read inside one sound atom gives the plain bytes, and none is lost. -/
theorem State.hbmRead_atom (hn : 1 ≤ n) (hg : pa % 64 + n ≤ 64) (hk : s.KeyFits key pa) (hp : s.isPoison (pa / 64) = false)
    (hr : s.inRetired pa = false) (hd : pa / 64 ∉ s.decayed) : s.hbmRead key pa n = (s.bytesAt pa n, false) := by
  have hbytes : (List.range n).map (fun i => s.hbmByte key (pa + i)) = s.bytesAt pa n := by
    rw [State.bytesAt_eq_map]
    refine List.map_congr_left fun i hi => State.hbmByte_of_keyFits ?_
    unfold State.KeyFits
    rw [add_div_same_unit hg (List.mem_range.mp hi)]
    exact hk
  simp [State.hbmRead, hbytes, spans_single hn hg, hp, hr, hd]

theorem State.meetErrors_atom (hn : 1 ≤ n) (hg : pa % 64 + n ≤ 64) (hd : pa / 64 ∉ s.decayed) : s.meetErrors pa n = s := by
  have hit : s.decayed.filter (fun a => (spans 64 pa n).any fun p => p.1 / 64 == a) = [] := by
    rw [List.filter_eq_nil_iff]
    intro a ha
    simp only [spans_single hn hg, List.any_cons, List.any_nil, Bool.or_false, beq_iff_eq]
    rintro rfl
    exact hd ha
  simp [State.meetErrors, hit]

theorem runs_rawRead_atom (hback : ∃ pc row, backing s.srows pa = .hbm pc row) (hn : 1 ≤ n) (hg : pa % 64 + n ≤ 64)
    (hk : s.KeyFits key pa) (hp : s.isPoison (pa / 64) = false) (hr : s.inRetired pa = false) (hd : pa / 64 ∉ s.decayed) :
    Runs (rawRead key va pa n) s (s.bytesAt pa n, false) s := by
  obtain ⟨pc, row, hback⟩ := hback
  refine runs_bind (runs_get s) ?_
  simp only [hback, State.meetErrors_atom hn hg hd, State.hbmRead_atom hn hg hk hp hr hd]
  exact runs_bind (runs_set s s) (runs_pure _ s)

/-- A write inside one sound atom stores the bytes and marks the atom with the key. -/
theorem State.hbmWriteAtom_sound (hk : s.KeyFits key pa) (hp : s.isPoison (pa / 64) = false) (hr : s.inRetired pa = false)
    (hd : pa / 64 ∉ s.decayed) : ∃ u : State, u.mem = s.mem ∧ u.opened = s.opened ∧
      s.hbmWriteAtom key pa bs = { u.putBytes pa bs with keyTag := SMap.set s.keyTag (pa / 64) key } := by
  unfold State.hbmWriteAtom
  by_cases hl : bs.length < 64
  · refine ⟨s, rfl, rfl, ?_⟩
    cases ht : SMap.get s.keyTag (pa / 64) with
    | none => simp [hr, hl, hp, hd, ht]
    | some t => simp [hr, hl, hp, hd, ht, hk t ht]
  · refine ⟨{ s.dropPoison (pa / 64) with decayed := s.decayed.filter fun a => a != pa / 64 }, rfl, rfl, ?_⟩
    simp [hr, hl, State.dropPoison]

/-- What a write inside one sound atom leaves: the bytes where they were written, the key's mark, and every other byte. -/
theorem State.hbmWriteAtom_spec (hk : s.KeyFits key pa) (hp : s.isPoison (pa / 64) = false) (hr : s.inRetired pa = false)
    (hd : pa / 64 ∉ s.decayed) (hm : s.MemOk) (bs : List Byte) :
    (s.hbmWriteAtom key pa bs).bytesAt pa bs.length = bs ∧ (s.hbmWriteAtom key pa bs).MemOk
      ∧ SMap.get (s.hbmWriteAtom key pa bs).keyTag (pa / 64) = some key
      ∧ ∀ j, j < pa ∨ pa + bs.length ≤ j → (s.hbmWriteAtom key pa bs).byteAt j = s.byteAt j := by
  obtain ⟨u, hmem, hopened, hu⟩ := State.hbmWriteAtom_sound (bs := bs) hk hp hr hd
  have hum : u.MemOk := by unfold State.MemOk; rw [hmem, hopened]; exact hm
  rw [hu]
  refine ⟨State.bytesAt_putBytes_same pa bs hum, State.putBytes_memOk pa bs hum, SMap.get_set_same .., fun j hj => ?_⟩
  calc _ = u.byteAt j := State.byteAt_putBytes_other u bs hj
    _ = s.byteAt j := by unfold State.byteAt; rw [hmem, hopened]

theorem runs_rawWrite_atom (hback : ∃ pc row, backing s.srows pa = .hbm pc row) (hb : bs ≠ []) (hg : pa % 64 + bs.length ≤ 64) :
    Runs (rawWrite key va pa bs) s () (s.hbmWriteAtom key pa bs) := by
  obtain ⟨pc, row, hback⟩ := hback
  refine runs_bind (runs_get s) ?_
  simp only [hback, pieces_single hb hg]
  exact runs_set _ _

end

/-! ### Virtual pointers (R208, R349) -/

theorem runs_resolve_virt {w : Who} {p n : Nat} {a : Acc} {s s1 : State} {x : Xlat} (hp : p < 2 ^ 55)
    (ht : Runs (translate w p a) s x s1) : Runs (resolve w p n a) s (.virt x) s1 := by
  have hsp : ptrSpace p = 0 := by unfold ptrSpace; omega
  have hz : (p / 2 ^ 55 != 0) = false := by simp; omega
  refine runs_bind (runs_get s) ?_
  simp only [hsp, hz]
  exact runs_bind (runs_faultIf _ _ _) (runs_bind ht (runs_pure _ _))

/-! ### MemRead and MemWrite, whole (R8) -/

/-- MemWrite inside one sound granule of scratchpad (R361). -/
theorem memWriteBytes_scratch {s : State} {w : Who} {p : Nat} {bs : List Byte} (hm : s.MemOk) (hb : bs ≠ [])
    (hg : p % 64 + bs.length ≤ 64) (hr : Runs (resolve w p bs.length .write) s (.chip p) s)
    (hh : s.boardHits w p bs.length = false) (hs : s.isPoison (p / 64) = false) :
    ∃ t, Runs (memWriteBytes w p bs) s () t ∧ t.bytesAt p bs.length = bs ∧ t.MemOk
      ∧ ∀ j, j < p ∨ p + bs.length ≤ j → t.byteAt j = s.byteAt j := by
  have hm' : (s.dropPoison (p / 64)).MemOk := hm
  refine ⟨(s.dropPoison (p / 64)).putBytes p bs, runs_memWriteBytes hr hh ?_, State.bytesAt_putBytes_same p bs hm',
    State.putBytes_memOk p bs hm', fun j hj => State.byteAt_putBytes_other _ bs hj⟩
  rw [← State.chipWrite_granule hb hg hs]
  exact runs_bind (runs_get s) (runs_set s _)

/-- MemRead of a virtual pointer reads the physical address, on a page without C (R360) and without the poison bit. -/
theorem memReadBytes_virt {s s1 : State} {w : Who} {p n : Nat} {a : Acc} {x : Xlat} {bs : List Byte}
    (hp : p < 2 ^ 55) (ht : Runs (translate w p a) s x s1) (hh : s.boardHits w p n = false) (hc : leafC x.leaf = false)
    (hbit : x.leaf / 2 ^ 11 % 2 = 0) (hraw : Runs (rawRead (s1.leafKeyRef x.leaf) p x.pa n) s1 (bs, false) s1) :
    Runs (memReadBytes w p n a) s bs s1 := by
  refine runs_memReadBytes (runs_resolve_virt hp ht) hh (runs_bind (runs_get s1) ?_)
  have hl : lbit x.leaf 11 = false := by unfold lbit; rw [hbit]; rfl
  simp only [hc]
  refine runs_bind hraw ?_
  simp only [hl]
  exact runs_pure _ s1

/-- MemWrite of a virtual pointer writes the physical address, on a page without C. -/
theorem memWriteBytes_virt {s s1 s2 : State} {w : Who} {p : Nat} {bs : List Byte} {a : Acc} {x : Xlat} (hp : p < 2 ^ 55)
    (ht : Runs (translate w p a) s x s1) (hh : s.boardHits w p bs.length = false) (hc : leafC x.leaf = false)
    (hraw : Runs (rawWrite (s1.leafKeyRef x.leaf) p x.pa bs) s1 () s2) : Runs (memWriteBytes w p bs a) s () s2 := by
  refine runs_memWriteBytes (runs_resolve_virt hp ht) hh (runs_bind (runs_get s1) ?_)
  simp only [hc]
  exact hraw

/-- Settles O7: an access inside one granule or atom is one piece, at the key or the physical address that the pointer resolves to. -/
theorem memoryAccess : Obligations.MemoryAccess := by
  unfold Obligations.MemoryAccess
  constructor
  · rintro s w p n bs hm hp hn hg rfl
    have hb : bs ≠ [] := by rintro rfl; simp at hn
    refine ⟨fun h => raises_memReadBytes (raises_resolve_space hp h), fun hz hl ho => ?_, fun hz hl ho hh hs => ?_⟩
    · exact ⟨raises_memReadBytes (raises_resolve_owner hp hz hl ho),
        raises_memWriteBytes (raises_resolve_owner hp hz hl ho)⟩
    · refine ⟨runs_memReadBytes (runs_resolve_scratch hp hz hl hn hg ho) hh ?_,
        memWriteBytes_scratch hm hb hg (runs_resolve_scratch hp hz hl hn hg ho) hh hs⟩
      rw [← hs, ← State.chipRead_granule hn hg]
      exact runs_bind (runs_get s) (runs_pure _ s)
  · rintro s s1 w p n bs x hp hn hg rfl hpa hm hback hc hh hs hr hd hk
    have hb : bs ≠ [] := by rintro rfl; simp at hn
    rw [← hpa] at hg
    refine ⟨fun ht hbit => memReadBytes_virt hp ht hh hc hbit (runs_rawRead_atom hback hn hg hk hs hr hd), fun ht => ?_⟩
    exact ⟨_, memWriteBytes_virt hp ht hh hc (runs_rawWrite_atom hback hb hg), State.hbmWriteAtom_spec hk hs hr hd hm bs⟩

end Sys2Proof.Machine
end

section
/-! PROOFS. A representable value is rounded to itself (O18). -/

namespace Sys2Proof

/-! ### Lengths and cuts -/

theorem bitLen_eq_succ {m k : Nat} (hlo : 2 ^ k ≤ m) (hhi : m < 2 ^ (k + 1)) : bitLen m = k + 1 := by
  have hm : m ≠ 0 := by have := Nat.two_pow_pos k; omega
  rw [bitLen, if_neg hm, (Nat.log2_eq_iff hm).mpr ⟨hlo, hhi⟩]

theorem bitLen_le {m k : Nat} (h : m < 2 ^ k) : bitLen m ≤ k := by
  unfold bitLen
  split
  · exact Nat.zero_le k
  · exact (Nat.log2_lt ‹_›).mpr h

/-- A cut at the unit of the mantissa discards nothing. -/
@[simp] theorem cutAt_self (m : Nat) (e : Int) : cutAt m e e false = (m, .exact) := by simp [cutAt]

@[simp] theorem roundsUp_exact (rm : RM) (neg : Bool) (n : Nat) : roundsUp rm neg n .exact = false := by
  cases rm <;> simp [roundsUp]

/-! ### Floating-point layouts (R25, R26, R33) -/

/-- The largest finite value of a layout is the one below its infinity, or below its NaN where it has no infinity, or else
the largest encoding. -/
abbrev FFmt.MaxFits (f : FFmt) : Prop :=
  1 < f.ebits ∧ f.maxLsb = 2 ^ f.ebits - (if f.hasInf then 2 else 1) - f.bias - f.fbits
    ∧ f.maxSig = 2 ^ (f.fbits + 1) - (if !f.hasInf && f.hasNan then 2 else 1)

section
variable {f : FFmt} {rm : RM} {neg : Bool} {m x : Nat} {e : Int}

/-- Rounding gives a value that is a multiple of its unit back, where it is not beyond the largest finite value. -/
theorem roundFloat_of_unit (hm : m ≠ 0) (hu : max (e + bitLen m - 1) (1 - f.bias) - f.fbits = e)
    (hmax : e < f.maxLsb ∨ e = f.maxLsb ∧ m ≤ f.maxSig) :
    roundFloat f rm neg m e = (f.signed neg ((e + f.fbits + f.bias - 1).toNat * 2 ^ f.fbits + m), 0) := by
  have hover : ¬ (f.maxLsb < e ∨ e = f.maxLsb ∧ f.maxSig < m) := by omega
  simp [roundFloat, hm, hu, hover, Flags.when]

theorem roundFloat_zero : roundFloat f rm neg 0 e = (f.signed neg 0, 0) := by simp [roundFloat]

/-- A value with exponent field 0. -/
theorem roundFloat_subnormal (hf : f.MaxFits) (hm : m < 2 ^ f.fbits) :
    roundFloat f rm neg m (1 - f.bias - f.fbits) = (f.signed neg m, 0) := by
  obtain ⟨he, hlsb, -⟩ := hf
  by_cases h0 : m = 0
  · rw [h0, roundFloat_zero]
  · have hlen := bitLen_le hm
    have hpow : (2 : Int) ^ 2 ≤ 2 ^ f.ebits := pow_le_pow_right₀ (by norm_num) he
    rw [roundFloat_of_unit h0 (by omega) (.inl (by rw [hlsb]; split <;> omega))]
    simp

/-- A normal value is not beyond the largest finite one, where its fields are neither those of an infinity nor those of the
NaN. -/
theorem FFmt.MaxFits.normal_le {ex : Nat} (hf : f.MaxFits) (hex : ex < 2 ^ f.ebits) (hm : m < 2 ^ f.fbits)
    (hinf : ¬ (f.hasInf && ex == 2 ^ f.ebits - 1) = true)
    (hnan : ¬ (!f.hasInf && f.hasNan && ex == 2 ^ f.ebits - 1 && m == 2 ^ f.fbits - 1) = true) :
    (ex : Int) - f.bias - f.fbits < f.maxLsb
      ∨ (ex : Int) - f.bias - f.fbits = f.maxLsb ∧ 2 ^ f.fbits + m ≤ f.maxSig := by
  obtain ⟨-, hlsb, hsig⟩ := hf
  have hpow : ((2 ^ f.ebits : Nat) : Int) = 2 ^ f.ebits := by norm_num
  rw [hlsb, hsig, ← hpow, Nat.pow_succ]
  cases hi : f.hasInf with
  | true =>
    have below : ex ≠ 2 ^ f.ebits - 1 := by simpa [hi] using hinf
    simp only [Bool.not_true, Bool.false_and, Bool.false_eq_true, if_true, if_false]
    omega
  | false =>
    cases hn : f.hasNan with
    | true =>
      have below : ex = 2 ^ f.ebits - 1 → m ≠ 2 ^ f.fbits - 1 := by simpa [hi, hn] using hnan
      simp only [Bool.false_eq_true, Bool.not_false, Bool.and_self, if_true, if_false]
      omega
    | false =>
      simp only [Bool.false_eq_true, Bool.and_false, if_false]
      omega

/-- A value with an exponent field that is not 0: its unit is that of its encoding. -/
theorem roundFloat_normal {ex : Nat} (h0 : ex ≠ 0) (hm : m < 2 ^ f.fbits)
    (hmax : (ex : Int) - f.bias - f.fbits < f.maxLsb
      ∨ (ex : Int) - f.bias - f.fbits = f.maxLsb ∧ 2 ^ f.fbits + m ≤ f.maxSig) :
    roundFloat f rm neg (2 ^ f.fbits + m) (ex - f.bias - f.fbits) = (f.signed neg (ex * 2 ^ f.fbits + m), 0) := by
  have hlen : bitLen (2 ^ f.fbits + m) = f.fbits + 1 := bitLen_eq_succ (by omega) (by rw [Nat.pow_succ]; omega)
  rw [roundFloat_of_unit (by omega) (by omega) hmax]
  have hcode : ((ex : Int) - f.bias - f.fbits + f.fbits + f.bias - 1).toNat = ex - 1 := by omega
  obtain ⟨ex, rfl⟩ := Nat.exists_eq_succ_of_ne_zero h0
  rw [hcode, Nat.succ_sub_one, ← Nat.add_assoc, ← Nat.succ_mul]

/-- An encoding is its sign, its exponent field and its fraction. -/
theorem FFmt.signed_fields (hx : x < 2 ^ (1 + f.ebits + f.fbits)) :
    f.signed (x / 2 ^ (f.ebits + f.fbits) % 2 == 1) (x / 2 ^ f.fbits % 2 ^ f.ebits * 2 ^ f.fbits + x % 2 ^ f.fbits) = x := by
  have hlow : x / 2 ^ f.fbits % 2 ^ f.ebits * 2 ^ f.fbits + x % 2 ^ f.fbits = x % 2 ^ (f.ebits + f.fbits) := by
    rw [Nat.add_comm f.ebits, Nat.pow_add, Nat.mod_mul]; ring
  have hsign : x / 2 ^ (f.ebits + f.fbits) < 2 := by
    rw [Nat.div_lt_iff_lt_mul (by positivity)]
    calc x < _ := hx
      _ = _ := by ring
  have hsplit := Nat.div_add_mod x (2 ^ (f.ebits + f.fbits))
  rw [hlow, FFmt.signed]
  obtain h | h := Nat.le_one_iff_eq_zero_or_eq_one.mp (Nat.le_of_lt_succ hsign)
  · rw [h] at hsplit ⊢
    exact (Nat.zero_add _).symm.trans hsplit
  · rw [h, Nat.mul_one] at hsplit
    rw [h]
    exact hsplit

/-- Every encoding of a layout that is no NaN is the rounding of its value. -/
theorem toFloatTy_decodeFloat (rm : RM) (hf : f.MaxFits) (hx : x < 2 ^ (1 + f.ebits + f.fbits))
    (hn : (decodeFloat f x).isNan = false) : toFloatTy f rm (decodeFloat f x) = (x, 0) := by
  have hfields := FFmt.signed_fields hx
  have hm : x % 2 ^ f.fbits < 2 ^ f.fbits := Nat.mod_lt _ (by positivity)
  have hex : x / 2 ^ f.fbits % 2 ^ f.ebits < 2 ^ f.ebits := Nat.mod_lt _ (by positivity)
  revert hn
  unfold decodeFloat
  dsimp only
  split
  case isTrue h0 =>
    intro _
    rw [h0, Nat.zero_mul, Nat.zero_add] at hfields
    exact (roundFloat_subnormal hf hm).trans (by rw [hfields])
  case isFalse h0 =>
    split
    case isTrue hinf =>
      split
      case isTrue hz =>
        intro _
        obtain ⟨hi, he⟩ := Bool.and_eq_true_iff.mp hinf
        rw [hz, beq_iff_eq.mp he] at hfields
        simp only [toFloatTy, hi, if_true, FFmt.infCode]
        rw [← Nat.add_zero (_ * _), hfields]
      case isFalse => exact fun hn => absurd hn (by simp [Num.isNan])
    case isFalse hinf =>
      split
      case isTrue => exact fun hn => absurd hn (by simp [Num.isNan])
      case isFalse hnan => exact fun _ => (roundFloat_normal h0 hm (hf.normal_le hex hm hinf hnan)).trans (by rw [hfields])

end

/-! ### Integer types (R34) -/

theorem roundInteger_ofInt (rm : RM) (i : Int) : roundInteger rm (decide (i < 0)) i.natAbs 0 = (i, true) := by
  simp only [roundInteger, cutAt_self, roundsUp_exact]
  by_cases h : i < 0
  · simp [h, abs_of_neg]
  · simp [h, abs_of_nonneg (not_lt.mp h)]

theorem toIntTy_ofInt {t : ElemTy} (rm : RM) {i : Int} (hlo : t.intRange.1 ≤ i) (hhi : i ≤ t.intRange.2) :
    toIntTy t rm (.ofInt i) = (t.encInt i, 0) := by
  simp [toIntTy, Num.ofInt, roundInteger_ofInt, satInt, not_lt.mpr hlo, not_lt.mpr hhi, Flags.when]

theorem toIntTy_signed {t : ElemTy} (rm : RM) {n x : Nat} (hb : t.laneBits = n)
    (hr : t.intRange = (-(2 ^ (n - 1)), 2 ^ (n - 1) - 1)) (hx : x < 2 ^ n) :
    toIntTy t rm (.ofInt (signedOf n x)) = (x, 0) := by
  have hlo := BitVec.le_toInt (BitVec.ofNat n x)
  have hhi := BitVec.toInt_lt (x := BitVec.ofNat n x)
  rw [toIntTy_ofInt rm (by rw [hr]; exact hlo) (by rw [hr]; exact Int.le_sub_one_of_lt hhi), ElemTy.encInt, hb, signedOf,
    BitVec.ofInt_toInt, BitVec.toNat_ofNat, Nat.mod_eq_of_lt hx]

theorem toIntTy_unsigned {t : ElemTy} (rm : RM) {n x : Nat} (hb : t.laneBits = n) (hr : t.intRange = (0, 2 ^ n - 1))
    (hx : x < 2 ^ n) : toIntTy t rm (.ofInt ((x : Int) % 2 ^ n)) = (x, 0) := by
  have hlt : (x : Int) < 2 ^ n := by exact_mod_cast hx
  rw [Int.emod_eq_of_lt (by omega) hlt, toIntTy_ofInt rm (by rw [hr]; omega) (by rw [hr]; omega), ElemTy.encInt, hb,
    BitVec.ofInt_natCast, BitVec.toNat_ofNat, Nat.mod_eq_of_lt hx]

/-! ### Scales (R35) -/

theorem toE8m0_pow {x : Nat} (hx : x < 255) : toE8m0 (.fin false 1 ((x : Int) - 127)) = (x, 0) := by
  have hlen : bitLen 1 = 1 := bitLen_eq_succ (k := 0) le_rfl (by norm_num)
  have hhi : ¬ (128 : Int) ≤ x - 127 := by omega
  simp [toE8m0, hlen, hhi, Flags.when]

/-- Settles O18: in a floating-point type the unit of the rounding is that of the encoding, in an integer type the value is
in range, and a scale is a power of two. -/
theorem representableValuesRoundToThemselves : Obligations.RepresentableValuesRoundToThemselves := by
  unfold Obligations.RepresentableValuesRoundToThemselves
  intro t rm x hx hn
  cases t with
  | f32 => exact toFloatTy_decodeFloat rm (by decide) hx hn
  | bf16 => exact toFloatTy_decodeFloat rm (by decide) hx hn
  | f16 => exact toFloatTy_decodeFloat rm (by decide) hx hn
  | e4m3 => exact toFloatTy_decodeFloat rm (by decide) hx hn
  | e5m2 => exact toFloatTy_decodeFloat rm (by decide) hx hn
  | e2m1 => exact toFloatTy_decodeFloat rm (by decide) hx hn
  | i32 => exact toIntTy_signed rm rfl rfl hx
  | i16 => exact toIntTy_signed rm rfl rfl hx
  | i8 => exact toIntTy_signed rm rfl rfl hx
  | n32 => exact toIntTy_unsigned rm rfl rfl hx
  | n16 => exact toIntTy_unsigned rm rfl rfl hx
  | n8 => exact toIntTy_unsigned rm rfl rfl hx
  | e8m0 =>
    have hmod : x % 256 = x := Nat.mod_eq_of_lt hx
    have hnan : x ≠ 255 := by
      rintro rfl
      cases hn
    have hdec : ElemTy.e8m0.decode x = .fin false 1 ((x : Int) - 127) := by simp [ElemTy.decode, hmod, hnan]
    rw [hdec]
    exact toE8m0_pow (by have : x < 256 := hx; omega)

end Sys2Proof
end

section
/-! PROOFS. The residue channels of the array and their reconstruction (O20). -/

namespace Sys2Proof.Machine

open Sys2Proof

/-! ### The channels (R42) -/

/-- The sum that a channel folds, before its last reduction. -/
theorem foldl_residues (m : Nat) (hm : 0 < m) (ps : List (Int × Int)) (n : Nat) :
    ((ps.foldl (fun (s : Nat) (p : Int × Int) => s + (p.1 % m).toNat * (p.2 % m).toNat) n : Nat) : Int)
      = n + (ps.map fun p => p.1 % (m : Int) * (p.2 % m)).sum := by
  induction ps generalizing n with
  | nil => simp
  | cons p ps ih =>
    have h (i : Int) : 0 ≤ i % m := Int.emod_nonneg i (by omega)
    rw [List.foldl_cons, ih]
    simp only [Nat.cast_add, Nat.cast_mul, Int.toNat_of_nonneg (h _), List.map_cons, List.sum_cons]
    ring

/-- A channel holds the sum of the products of the residues, modulo its modulus. -/
theorem channel_eq_sum {m : Nat} (hm : 0 < m) (a b : List Int) :
    (channel m a b : Int) = (List.zipWith (fun p q => p % (m : Int) * (q % m)) a b).sum % m := by
  rw [channel, Int.natCast_emod, foldl_residues m hm]
  simp [List.zip, List.map_zipWith]

/-- Reducing the factors first does not change a sum of products modulo m. -/
theorem sum_residues_emod (m : Int) (a b : List Int) :
    (List.zipWith (fun p q => p % m * (q % m)) a b).sum % m = (List.zipWith (· * ·) a b).sum % m := by
  induction a generalizing b with
  | nil => rfl
  | cons p a ih =>
    cases b with
    | nil => rfl
    | cons q b =>
      simp only [List.zipWith_cons_cons, List.sum_cons]
      exact Int.ModEq.add (by simp [Int.ModEq, Int.mul_emod]) (ih b)

/-- A channel does not depend on the order of the products. -/
theorem channel_perm {m : Nat} {a b a' b' : List Int} (h : (a'.zip b').Perm (a.zip b)) : channel m a' b' = channel m a b := by
  unfold channel
  rw [h.foldl_eq' fun _ _ _ _ z => by omega]

theorem residueSum_perm {a b a' b' : List Int} (h : (a'.zip b').Perm (a.zip b)) : residueSum a' b' = residueSum a b := by
  simp only [residueSum, channel_perm h]

/-! ### The reconstruction -/

/-- The reconstruction over the integers. -/
theorem reconstruct_eq (r5 r6 r7 : Nat) :
    reconstruct r5 r6 r7 =
      let s := ((r5 : Int) * 16781312 * 2048 + r6 * 16777215 * 4095 + r7 * 16773120 * 2049) % 68719472640
      if 68719472640 / 2 < s then s - 68719472640 else s := by
  unfold reconstruct bigM
  dsimp only
  split_ifs <;> omega

/-- The reconstruction of the three residues of a number below M / 2 in magnitude is that number. -/
theorem reconstruct_residues {r5 r6 r7 : Nat} {i : Int} (h5 : (r5 : Int) = i % 4095) (h6 : (r6 : Int) = i % 4096)
    (h7 : (r7 : Int) = i % 4097) (hi : 2 * i.natAbs < 68719472640) : reconstruct r5 r6 r7 = i := by
  rw [reconstruct_eq]
  have hs : ((r5 : Int) * 16781312 * 2048 + r6 * 16777215 * 4095 + r7 * 16773120 * 2049) % 68719472640 = i % 68719472640 := by
    omega
  simp only [hs]
  split <;> omega

/-- The bound of R42 on a sum of products of aligned integers. -/
theorem natAbs_sum_products_le {c : Nat} {a b : List Int} (ha : ∀ q ∈ a, q.natAbs ≤ c) (hb : ∀ q ∈ b, q.natAbs ≤ c) :
    (List.zipWith (· * ·) a b).sum.natAbs ≤ a.length * (c * c) := by
  induction a generalizing b with
  | nil => simp
  | cons p a ih =>
    cases b with
    | nil => simp
    | cons q b =>
      obtain ⟨hp, ha⟩ := List.forall_mem_cons.mp ha
      obtain ⟨hq, hb⟩ := List.forall_mem_cons.mp hb
      rw [List.zipWith_cons_cons, List.sum_cons, List.length_cons]
      calc (p * q + (List.zipWith (· * ·) a b).sum).natAbs
          ≤ p.natAbs * q.natAbs + (List.zipWith (· * ·) a b).sum.natAbs := by
            rw [← Int.natAbs_mul]; exact Int.natAbs_add_le _ _
        _ ≤ c * c + a.length * (c * c) := Nat.add_le_add (Nat.mul_le_mul hp hq) (ih ha hb)
        _ = (a.length + 1) * (c * c) := by ring

/-- The array's sum over lists of at most 4,096 aligned integers is the exact sum of the products. -/
theorem residueSum_eq_sum {a b : List Int} (hl : a.length ≤ 4096) (ha : ∀ q ∈ a, q.natAbs ≤ 2048)
    (hb : ∀ q ∈ b, q.natAbs ≤ 2048) : residueSum a b = (List.zipWith (· * ·) a b).sum := by
  have residue (m : Nat) (hm : 0 < m) : (channel m a b : Int) = (List.zipWith (· * ·) a b).sum % m :=
    (channel_eq_sum hm a b).trans (sum_residues_emod m a b)
  have bound := natAbs_sum_products_le ha hb
  exact reconstruct_residues (residue 4095 (by omega)) (residue 4096 (by omega)) (residue 4097 (by omega)) (by omega)

/-! ### The lines of the array (R44) -/

/-- Finite values have no product that is not finite. -/
theorem infProducts_of_finite {a b : Line} (h : ∀ v ∈ a.vals ++ b.vals, ∃ neg m e, v = .fin neg m e) :
    infProducts a b = [] := by
  unfold infProducts
  rw [List.filterMap_eq_nil_iff]
  rintro ⟨⟨x, mx⟩, y, my⟩ hp
  obtain ⟨hx, hy⟩ := List.of_mem_zip hp
  obtain ⟨_, _, _, rfl⟩ := h x (List.mem_append_left _ (List.of_mem_zip hx).1)
  obtain ⟨_, _, _, rfl⟩ := h y (List.mem_append_right _ (List.of_mem_zip hy).1)
  simp

/-- Two lines of finite values add S at the exponent of R43. -/
theorem outputOf_of_finite {a b : Line} (ha : a.nan = false) (hb : b.nan = false)
    (h : ∀ v ∈ a.vals ++ b.vals, ∃ neg m e, v = .fin neg m e) : outputOf a b = .sum (residueSum a.q b.q) (a.e + b.e - 20) := by
  simp [outputOf, ha, hb, infProducts_of_finite h]

/-- Settles O20: a channel reduces the exact sum by its modulus, and three residues determine a number below M / 2 in magnitude. -/
theorem residueReconstruction : Obligations.ResidueReconstruction := by
  unfold Obligations.ResidueReconstruction
  refine ⟨fun a b => ⟨?_, fun _ hl ha hb => residueSum_eq_sum hl ha hb, fun _ _ h => residueSum_perm h⟩,
    fun a b ha hb h => outputOf_of_finite ha hb h, by decide⟩
  rw [residueSum, reconstruct_eq]
  simp only [channel_eq_sum (m := 4095) (by omega), channel_eq_sum (m := 4096) (by omega), channel_eq_sum (m := 4097) (by omega)]
  norm_num

end Sys2Proof.Machine
end

section
/-! PROOFS. Reads and writes of control registers (O12). -/

namespace Sys2Proof.Machine

open Sys2Proof

/-! ### Updates of the group whose role acts -/

@[simp] theorem vset_vget {α : Type} {n : Nat} (v : Vector α n) (i : Fin n) : vset v i (vget v i) = v := by
  simp [vset, vget, Vector.get_eq_getElem]

theorem State.setGroup_self {s : State} {c : CoreId} {n : SlotId} {x : Option Group} (h : s.group c n = x) :
    s.setGroup c n x = s := by
  have hslots : vset (s.core c).slots n x = (s.core c).slots := by rw [← h]; exact vset_vget ..
  unfold State.setGroup State.onCore
  dsimp only
  rw [hslots]
  exact congrArg (fun v => { s with cores := v }) (vset_vget s.cores c)

/-- An update that gives the acting role's group as it was changes nothing. -/
theorem State.onGroup_eq_self {s : State} {g : Group} {k : Role} (h : Acts s g k) {f : Group → Group} (hf : f g = g) :
    s.onGroup s.cur.core s.cur.slot f = s := by
  rw [State.onGroup_of_group h.1, hf, State.setGroup_self h.1]

/-! ### The checks of a control register's number (R80, R121) -/

section
variable {s : State} {g : Group} {k : Role} {n : Nat} (h : Acts s g k)

theorem raises_csrPre_unassigned (hn : csrAssigned n = false) :
    Raises (csrPre n) s { code := 0x01, va := 0 } none := by
  unfold csrPre
  rw [hn]
  exact raises_bind (raises_faultIf ..)

include h

theorem raises_csrPre_unprivileged (hn : csrAssigned n = true) (hsys : 0x1000 ≤ n) (hp : (s.ctx g.ctx).desc.sys = false) :
    Raises (csrPre n) s { code := 0x03, va := BitVec.ofNat 64 n } none := by
  unfold csrPre
  rw [hn, if_pos hsys]
  refine raises_bind_right (runs_faultIf ..) (raises_bind_right (runs_me h) (raises_bind_right (runs_get s) ?_))
  dsimp only
  rw [hp]
  exact raises_faultIf ..

theorem runs_csrPre (hn : csrAssigned n = true) (hp : 0x1000 ≤ n → (s.ctx g.ctx).desc.sys = true) : Runs (csrPre n) s () s := by
  unfold csrPre
  rw [hn]
  refine runs_bind (runs_faultIf ..) ?_
  split
  case isTrue hsys =>
    refine runs_bind (runs_me h) (runs_bind (runs_get s) ?_)
    dsimp only
    rw [hp hsys]
    exact runs_faultIf ..
  case isFalse => exact runs_pure () s

end

/-! ### What a write does (R46, R48, R121) -/

/-- What a writing instruction makes of a register of seven bits. -/
def CsrOp.sevenBits (op : CsrOp) (old : BitVec 7) (v : Word) : BitVec 7 :=
  match op with
  | .write => v.setWidth 7
  | .setBits => old ||| v.setWidth 7
  | .clearBits => old &&& ~~~v.setWidth 7

theorem CsrOp.setWidth_value (op : CsrOp) (old : BitVec 7) (v : Word) :
    (op.value (old.setWidth 64) v).setWidth 7 = op.sevenBits old v := by
  cases op with
  | write => rfl
  | setBits => simp [CsrOp.value, CsrOp.sevenBits]
  | clearBits => simp [CsrOp.value, CsrOp.sevenBits]

theorem Group.clearNan_valid (g : Group) {v : Word} (hv : v.getLsbD 0 = true) :
    g.clearNan v = { g with nanrec := 0, nanrecPc := 0 } := if_pos hv

theorem Group.clearNan_not_valid (g : Group) {v : Word} (hv : v.getLsbD 0 = false) : g.clearNan v = g := by
  rw [Group.clearNan, if_neg (by rw [hv]; exact Bool.false_ne_true)]

theorem runs_within {f : State → Host.Outcome State Fault Refusal} {s t : State} (h : f s = .next t) :
    Runs (within f) s () t := by
  unfold Runs within
  rw [h]

section
variable {s : State} {g : Group} {k : Role} {n : Nat} (h : Acts s g k) (op : CsrOp) (v : Word)
include h

theorem runs_csrWrite_flags : Runs (csrWrite op 0x010 v) s ()
    (s.onGroup s.cur.core s.cur.slot fun x => { x with flags := op.sevenBits x.flags v }) := by
  simp only [← CsrOp.setWidth_value]
  exact runs_bind (runs_me h) (runs_bind (runs_get s) (runs_modify _ s))

theorem runs_csrWrite_tfctl : Runs (csrWrite op 0x011 v) s ()
    (s.onGroup s.cur.core s.cur.slot fun x => { x with tfctl := op.sevenBits x.tfctl v }) := by
  simp only [← CsrOp.setWidth_value]
  exact runs_bind (runs_me h) (runs_bind (runs_get s) (runs_modify _ s))

omit op in
theorem runs_csrWrite_nanrec : Runs (csrWrite .write 0x012 v) s ()
    (s.onGroup s.cur.core s.cur.slot fun x => x.clearNan v) :=
  runs_bind (runs_me h) (runs_bind (runs_get s) (runs_modify _ s))

/-- A register of the device, group or role other than FLAGS, TFCTL and NANREC is read-only. -/
theorem runs_csrWrite_readOnly (hn : n < 0x1000) (h10 : n ≠ 0x010) (h11 : n ≠ 0x011)
    (h12 : n ≠ 0x012) : Runs (csrWrite op n v) s () s := by
  refine runs_bind (runs_me h) (runs_bind (runs_get s) ?_)
  dsimp only
  rw [if_neg h10, if_neg h11, if_neg h12, if_pos hn]
  exact runs_pure () s

/-- CSRW of a register of the system block writes the register; CSRS and CSRC do where it has RW fields. -/
theorem runs_csrWrite_system {t : State} (hn : 0x1000 ≤ n) (hm : op = .write ∨ sysRwMask n ≠ 0)
    (hw : sysWrite (.role s.cur) n (op.value (s.sysRead (.role s.cur) n) v) s = .next t) : Runs (csrWrite op n v) s () t := by
  refine runs_bind (runs_me h) (runs_bind (runs_get s) ?_)
  dsimp only
  rw [if_neg (by omega), if_neg (by omega), if_neg (by omega), if_neg (by omega)]
  cases op with
  | write => exact runs_within hw
  | setBits => simp only [bne_iff_ne.mpr (hm.resolve_left nofun), if_true]; exact runs_within hw
  | clearBits => simp only [bne_iff_ne.mpr (hm.resolve_left nofun), if_true]; exact runs_within hw

end

/-! ### The instructions -/

/-- The instruction of a kind of write. -/
def CsrOp.instr (op : CsrOp) (a : SReg) (n : BitVec 14) : Instr :=
  match op with
  | .write => .csrw a n
  | .setBits => .csrs a n
  | .clearBits => .csrc a n

theorem exec_csrOp (op : CsrOp) (a : SReg) (n : BitVec 14) (s : State) : exec (op.instr a n) s = csrInstr op a n s := by
  cases op with
  | write => exact exec_csrw ..
  | setBits => exact exec_csrs ..
  | clearBits => exact exec_csrc ..

/-- An instruction that writes a control register retires with the register written. -/
theorem csrOp_retires {s s1 t : State} {g : Group} {k : Role} {a : SReg} {n : BitVec 14} {v : Word} {op : CsrOp}
    (h : Acts s g k) (hn : csrAssigned n.toNat = true) (hp : 0x1000 ≤ n.toNat → (s.ctx g.ctx).desc.sys = true)
    (ht : Taken [a] [] s [v] s1) (hw : Runs (csrWrite op n.toNat v) s1 () t) : Retires (op.instr a n) s t :=
  (exec_csrOp ..).trans (instr_seq (runs_csrPre h hn hp) ht hw)

theorem csrOp_traps_unprivileged {s : State} {g : Group} {k : Role} (op : CsrOp) (a : SReg) {n : BitVec 14} (h : Acts s g k)
    (hn : csrAssigned n.toNat = true) (hsys : 0x1000 ≤ n.toNat) (hp : (s.ctx g.ctx).desc.sys = false) :
    Traps (op.instr a n) s s 0x03 n.toNat :=
  (exec_csrOp ..).trans (instr_trap_pre (raises_csrPre_unprivileged h hn hsys hp))

/-- The numbers of the read-only registers of the device, the group and the role (R122 to R124). -/
theorem readOnly_numbers : ∀ n ∈ [(0x000 : BitVec 14), 0x001, 0x002, 0x013, 0x020, 0x021, 0x022, 0x023, 0x024, 0x030,
      0x031, 0x032, 0x033],
    (csrAssigned n.toNat = true ∧ n.toNat < 0x1000) ∧ n.toNat ≠ 0x010 ∧ n.toNat ≠ 0x011 ∧ n.toNat ≠ 0x012 := by
  simp [csrAssigned]

/-- Settles O12: the checks of the number first, then each register's own write. -/
theorem controlRegisters : Obligations.ControlRegisters := by
  unfold Obligations.ControlRegisters
  refine ⟨fun s s1 s2 g0 g k0 k d n h => ⟨fun hn => ?_, fun hn hsys hp => ?_, fun hn hp ht h1 hg => ?_, ?_⟩,
    fun s s1 g0 g k0 k a v h ht h1 => ?_, fun s s1 s2 g0 g k0 k a v n h hn hsys => ⟨fun hp => ?_, fun hp ht h1 => ?_⟩⟩
  · exact instr_trap_pre (raises_csrPre_unassigned hn)
  · exact instr_trap_pre (raises_csrPre_unprivileged h hn hsys hp)
  · exact instr_seq (runs_csrPre h hn hp) ht (runs_bind (runs_me h1) (runs_bind (runs_get s1) hg))
  · exact ⟨rfl, rfl, rfl, rfl, rfl, rfl, rfl, rfl, rfl, rfl⟩
  · have low {op : CsrOp} {n : BitVec 14} {t : State} (hn : csrAssigned n.toNat = true ∧ n.toNat < 0x1000)
        (hw : Runs (csrWrite op n.toNat v) s1 () t) : Retires (op.instr a n) s t :=
      csrOp_retires h hn.1 (fun hsys => absurd hn.2 (by omega)) ht hw
    have flags (op : CsrOp) := low (n := 0x010) (by decide) (runs_csrWrite_flags h1 op v)
    have tfctl (op : CsrOp) := low (n := 0x011) (by decide) (runs_csrWrite_tfctl h1 op v)
    have nanrec := low (op := .write) (n := 0x012) (by decide) (runs_csrWrite_nanrec h1 v)
    refine ⟨flags .write, flags .setBits, flags .clearBits, tfctl .write, tfctl .setBits, tfctl .clearBits,
      fun hv => ?_, fun hv => ?_, fun n hn => ?_⟩
    · simp only [Group.clearNan_valid _ hv] at nanrec
      exact nanrec
    · simp only [Group.clearNan_not_valid _ hv] at nanrec
      rw [State.onGroup_eq_self h1 rfl] at nanrec
      exact nanrec
    · obtain ⟨hlow, h10, h11, h12⟩ := readOnly_numbers n hn
      have keeps (op : CsrOp) := low hlow (runs_csrWrite_readOnly h1 op v hlow.2 h10 h11 h12)
      exact ⟨keeps .write, keeps .setBits, keeps .clearBits⟩
  · exact ⟨csrOp_traps_unprivileged .write a h hn hsys hp, csrOp_traps_unprivileged .setBits a h hn hsys hp,
      csrOp_traps_unprivileged .clearBits a h hn hsys hp⟩
  · have does {op : CsrOp} (hm : op = .write ∨ sysRwMask n.toNat ≠ 0)
        (hw : sysWrite (.role s1.cur) n.toNat (op.value (s1.sysRead (.role s1.cur) n.toNat) v) s1 = .next s2) :
        Retires (op.instr a n) s s2 :=
      csrOp_retires h hn (fun _ => hp) ht (runs_csrWrite_system h1 _ _ hsys hm hw)
    exact ⟨does (op := .write) (.inl rfl), fun hm => does (op := .setBits) (.inr hm),
      fun hm => does (op := .clearBits) (.inr hm)⟩

end Sys2Proof.Machine
end

section
/-! PROOFS. The words of an instruction decode to it (R65 to R78, O53): the fields of each format hold the operands' values. -/

namespace Sys2Proof

/-! ### Fields of a register, a code, an immediate -/

theorem fld_low (w lo m n : Nat) : fld w lo m = fld w lo (m + n) % 2 ^ m := by
  rw [fld_add, Nat.mul_add_mod_self_right, Nat.mod_eq_of_lt (fld_lt w lo m)]

theorem fld_high (w lo m n : Nat) : fld w (lo + m) n = fld w lo (m + n) / 2 ^ m := by
  rw [fld_add, Nat.mul_comm, Nat.mul_add_div (Nat.two_pow_pos m), Nat.div_eq_of_lt (fld_lt w lo m), Nat.add_zero]

theorem fld_eq_zero {w lo : Nat} (m n : Nat) (hl : fld w lo m = 0) (hh : fld w (lo + m) n = 0) : fld w lo (m + n) = 0 := by
  rw [fld_add, hl, hh, Nat.zero_mul]

section
variable {w lo : Nat}

theorem sregAt_eq {r : SReg} (h : fld w lo 6 = r.val) : sregAt w lo = r := Fin.ext h

theorem kregAt_eq {r : KReg} (h : fld w lo 3 = r.val) : kregAt w lo = r := Fin.ext h

theorem gregAt_eq {r : GReg} (h : fld w lo 5 = r.val) : gregAt w lo = r := Fin.ext h

theorem hregAt_eq {r : HReg} (h : fld w lo 6 = r.val) : hregAt w lo = r := Fin.ext h

theorem vregAt_eq {r : VReg} (h : fld w lo 11 = r.val) : vregAt w lo = r := Fin.ext h

theorem ofNat_eq_of_fld {n : Nat} {v : BitVec n} (h : fld w lo n = v.toNat) : BitVec.ofNat n (w / 2 ^ lo) = v :=
  BitVec.eq_of_toNat_eq (by rw [BitVec.toNat_ofNat]; exact h)

theorem ofNat_eq_of_fld_zero {n : Nat} {v : BitVec n} (h : fld w 0 n = v.toNat) : BitVec.ofNat n w = v :=
  BitVec.eq_of_toNat_eq ((fld_ofNat w n).symm.trans h)

end

/-! ### A code is read as what it codes -/

@[simp] theorem Scope.ofCode_code (v : Scope) : Scope.ofCode v.code = some v := by cases v <;> rfl

@[simp] theorem FenceKind.ofCode_code (v : FenceKind) : FenceKind.ofCode v.code = some v := by cases v <;> rfl

@[simp] theorem MemOrder.ofCode_code (v : MemOrder) : MemOrder.ofCode v.code = some v := by cases v <;> rfl

@[simp] theorem Size.ofCode_code (v : Size) : Size.ofCode v.code = some v := by cases v <;> rfl

@[simp] theorem ElemTy.ofCode_code (v : ElemTy) : ElemTy.ofCode v.code = some v := by cases v <;> rfl

@[simp] theorem RM.ofCode_code (v : RM) : RM.ofCode v.code = some v := by cases v <;> rfl

@[simp] theorem PWidth.ofCode_code (v : PWidth) : PWidth.ofCode v.code = some v := by cases v <;> rfl

@[simp] theorem Space.ofCode_code (v : Space) : Space.ofCode v.code = some v := by cases v <;> rfl

@[simp] theorem BSrc.ofCode_codes (v : BSrc) : BSrc.ofCode v.bs v.field = some v := by
  cases v with
  | reg r => simp [BSrc.ofCode, BSrc.bs, BSrc.field]
  | scalar r => simp [BSrc.ofCode, BSrc.bs, BSrc.field]
  | imm i => simp [BSrc.ofCode, BSrc.bs, BSrc.field]

@[simp] theorem TSrc.ofCode_codes (v : TSrc) : TSrc.ofCode v.kind v.field = some v := by
  cases v with
  | handle h => simp [TSrc.ofCode, TSrc.kind, TSrc.field]
  | gen g => simp [TSrc.ofCode, TSrc.kind, TSrc.field]

theorem Scope.code_lt (v : Scope) : v.code < 5 := by cases v <;> decide
theorem FenceKind.code_lt (v : FenceKind) : v.code < 3 := by cases v <;> decide
theorem MemOrder.code_lt (v : MemOrder) : v.code < 4 := by cases v <;> decide
theorem Size.code_lt (v : Size) : v.code < 4 := by cases v <;> decide
theorem ElemTy.code_lt (v : ElemTy) : v.code < 13 := by cases v <;> decide
theorem RM.code_lt (v : RM) : v.code < 4 := by cases v <;> decide
theorem PWidth.code_lt (v : PWidth) : v.code < 3 := by cases v <;> decide
theorem Space.code_lt (v : Space) : v.code < 5 := by cases v <;> decide
theorem BSrc.bs_lt (v : BSrc) : v.bs < 3 := by cases v <;> simp [BSrc.bs]
theorem TSrc.kind_lt (v : TSrc) : v.kind < 2 := by cases v <;> simp [TSrc.kind]

theorem BSrc.field_lt (v : BSrc) : v.field < 2 ^ 11 := by
  cases v with
  | reg r => exact r.isLt
  | scalar r => exact Nat.lt_trans r.isLt (by decide)
  | imm i => exact i.isLt

theorem TSrc.field_lt (v : TSrc) : v.field < 64 := by
  cases v with
  | handle h => exact h.isLt
  | gen g => exact Nat.lt_trans g.isLt (by decide)

/-! ### What it takes for an instruction to be read back -/

/-- The words of an instruction are words of 32 bits, as many as the first one says, and decode to it whatever follows. -/
def RoundTrips (i : Instr) : Prop :=
  ∀ more, decodeWords (encode i ++ more) = .ok i ∧ (∀ w ∈ encode i, w < 2 ^ 32)
    ∧ (encode i).length = wordsOf ((encode i).headD 0)

theorem isLong_eq_true_iff {w : Nat} : isLong w = true ↔ 0x38 ≤ fld w 26 6 ∧ fld w 26 6 ≤ 0x3D := by
  simp [isLong]

theorem checkWf_ok {i : Instr} (h : i.wf = true) : checkWf (.ok i) = .ok i := by simp [checkWf, h]

section
variable {i : Instr} (hwf : i.wf = true)
include hwf

theorem roundTrips_short {w : Nat} (he : encode i = [w]) (hw : w < 2 ^ 32) (hop : fld w 26 6 < 0x38)
    (h : decodeShort w = .ok i) : RoundTrips i := by
  have hl : ¬ isLong w = true := by rw [isLong_eq_true_iff]; omega
  intro more
  simpa [he, decodeWords, wordsOf, hl, h, checkWf_ok hwf] using hw

theorem roundTrips_long {w0 w1 : Nat} (he : encode i = [w0, w1]) (h0 : w0 < 2 ^ 32) (h1 : w1 < 2 ^ 32)
    (hop : 0x38 ≤ fld w0 26 6 ∧ fld w0 26 6 ≤ 0x3D) (h : decodeLong w0 w1 = .ok i) : RoundTrips i := by
  have hl : isLong w0 = true := isLong_eq_true_iff.mpr hop
  intro more
  simpa [he, decodeWords, wordsOf, hl, h, checkWf_ok hwf] using And.intro h0 h1

/-! ### The formats of short words (R65) -/

theorem roundTrips_encL {op d imm : Nat} (he : encode i = encL op d imm) (hop : op < 0x38) (hd : d < 64) (hi : imm < 2 ^ 20)
    (h : ∀ w, fld w 26 6 = op → fld w 20 6 = d → fld w 0 20 = imm → decodeShort w = .ok i) : RoundTrips i := by
  have major : fld (op * 2 ^ 26 + d * 2 ^ 20 + imm) 26 6 = op := by unfold fld; omega
  exact roundTrips_short hwf he (by omega) (by omega) (h _ major (by unfold fld; omega) (by unfold fld; omega))

theorem roundTrips_encI {op d a imm : Nat} (he : encode i = encI op d a imm) (hop : op < 0x38) (hd : d < 64) (ha : a < 64)
    (hi : imm < 2 ^ 14)
    (h : ∀ w, fld w 26 6 = op → fld w 20 6 = d → fld w 14 6 = a → fld w 0 14 = imm → decodeShort w = .ok i) :
    RoundTrips i := by
  have hl : encI op d a imm = encL op d (a * 2 ^ 14 + imm) := by simp only [encI, encL, List.cons.injEq, and_true]; omega
  refine roundTrips_encL hwf (he.trans hl) hop hd (by omega) fun w h26 h20 h0 => h w h26 h20 ?_ ?_
  · rw [fld_high w 0 14 6, h0]; omega
  · rw [fld_low w 0 14 6, h0]; omega

theorem roundTrips_encA {op d a b fn : Nat} (he : encode i = encA op d a b fn) (hop : op < 0x38) (hd : d < 64) (ha : a < 64)
    (hb : b < 64) (hf : fn < 256)
    (h : ∀ w, fld w 26 6 = op → fld w 20 6 = d → fld w 14 6 = a → fld w 8 6 = b → fld w 0 8 = fn → decodeShort w = .ok i) :
    RoundTrips i := by
  have hl : encA op d a b fn = encI op d a (b * 2 ^ 8 + fn) := by simp only [encA, encI, List.cons.injEq, and_true]; omega
  refine roundTrips_encI hwf (he.trans hl) hop hd ha (by omega) fun w h26 h20 h14 h0 => h w h26 h20 h14 ?_ ?_
  · rw [fld_high w 0 8 6, h0]; omega
  · rw [fld_low w 0 8 6, h0]; omega

theorem roundTrips_encB {op a b : Nat} {t : TargetB} (he : encode i = encB op a b t) (hop : op < 0x38) (ha : a < 64) (hb : b < 64)
    (h : ∀ w, fld w 26 6 = op → fld w 20 6 = a → fld w 14 6 = b → targetBAt w = t → decodeShort w = .ok i) :
    RoundTrips i := by
  have hdelta := t.delta.isLt
  have hword := t.word.isLt
  have hl : encB op a b t = encI op a b (t.delta.toNat * 2 ^ 4 + t.word.val) := by
    simp only [encB, encI, List.cons.injEq, and_true]; omega
  refine roundTrips_encI hwf (he.trans hl) hop ha hb (by omega) fun w h26 h20 h14 h0 => h w h26 h20 h14 ?_
  have h4 : fld w 4 10 = t.delta.toNat := by rw [fld_high w 0 4 10, h0]; omega
  have hw : fld w 0 4 = t.word.val := by rw [fld_low w 0 4 10, h0]; omega
  exact congrArg₂ TargetB.mk (ofNat_eq_of_fld h4) (Fin.ext ((congrArg (· % 16) (Nat.div_one w).symm).trans hw))

theorem roundTrips_encJ {op d : Nat} {t : TargetJ} (he : encode i = encJ op d t) (hop : op < 0x38) (hd : d < 64)
    (h : ∀ w, fld w 26 6 = op → fld w 20 6 = d → targetJAt w = t → decodeShort w = .ok i) : RoundTrips i := by
  have hdelta := t.delta.isLt
  have hword := t.word.isLt
  have hl : encJ op d t = encL op d (t.delta.toNat * 2 ^ 4 + t.word.val) := by
    simp only [encJ, encL, List.cons.injEq, and_true]; omega
  refine roundTrips_encL hwf (he.trans hl) hop hd (by omega) fun w h26 h20 h0 => h w h26 h20 ?_
  have h4 : fld w 4 16 = t.delta.toNat := by rw [fld_high w 0 4 16, h0]; omega
  have hw : fld w 0 4 = t.word.val := by rw [fld_low w 0 4 16, h0]; omega
  exact congrArg₂ TargetJ.mk (ofNat_eq_of_fld h4) (Fin.ext ((congrArg (· % 16) (Nat.div_one w).symm).trans hw))

/-- Format M (R66). -/
theorem roundTrips_encM {op : Nat} {sz : Size} {d a : SReg} {off : BitVec 10} {f : Size → SReg → SReg → BitVec 10 → Instr}
    (hi : f sz d a off = i) (he : encode i = encM op sz d a off) (hop : op < 0x38)
    (h : ∀ w, fld w 26 6 = op → decodeShort w = decodeM w f) : RoundTrips i := by
  have hsz := sz.code_lt
  have hoff := off.isLt
  have hl : encM op sz d a off = encI op d a (off.toNat * 2 ^ 4 + sz.code * 2 ^ 2) := by
    simp only [encM, encI, List.cons.injEq, and_true]; omega
  refine roundTrips_encI hwf (he.trans hl) hop d.isLt a.isLt (by omega) fun w h26 h20 h14 h0 => (h w h26).trans ?_
  have h4 : fld w 4 10 = off.toNat := by rw [fld_high w 0 4 10, h0]; omega
  have hlow : fld w 0 4 = sz.code * 2 ^ 2 := by rw [fld_low w 0 4 10, h0]; omega
  have h2 : fld w 2 2 = sz.code := by rw [fld_high w 0 2 2, hlow]; omega
  have hz : fld w 0 2 = 0 := by rw [fld_low w 0 2 2, hlow]; omega
  simp [decodeM, h2, hz, coded, mustBeZero, sregAt_eq h20, sregAt_eq h14, show BitVec.ofNat 10 (w / 16) = off from ofNat_eq_of_fld h4, hi]

/-- ATOM1 and ATOM2 (R68). -/
theorem roundTrips_encAtom {op n : Nat} {sc : Scope} {o : MemOrder} {d a b : SReg}
    {fns : Nat → Option (Scope → MemOrder → SReg → SReg → SReg → Instr)} {f : Scope → MemOrder → SReg → SReg → SReg → Instr}
    (hi : f sc o d a b = i) (he : encode i = encAtom op n sc o d a b) (hf : fns n = some f) (hn : n < 8) (hop : op < 0x38)
    (h : ∀ w, fld w 26 6 = op → decodeShort w = decodeAtom w fns) : RoundTrips i := by
  have hsc := sc.code_lt
  have ho := o.code_lt
  refine roundTrips_encA hwf he hop d.isLt a.isLt b.isLt (by omega) fun w h26 h20 h14 h8 h0 => (h w h26).trans ?_
  have h5 : fld w 5 3 = sc.code := by rw [fld_high w 0 5 3, h0]; omega
  have hlow : fld w 0 5 = o.code * 2 ^ 3 + n := by rw [fld_low w 0 5 3, h0]; omega
  have h3 : fld w 3 2 = o.code := by rw [fld_high w 0 3 2, hlow]; omega
  have hfn : fld w 0 3 = n := by rw [fld_low w 0 3 2, hlow]; omega
  simp [decodeAtom, hfn, hf, h5, h3, coded, sregAt_eq h20, sregAt_eq h14, sregAt_eq h8, hi]

omit hwf in
/-- LDAQ and STRL (R68). -/
theorem decodeAcqRel_of_fn {w : Nat} {sc : Scope} {sz : Size} {f : Size → Scope → Except DecodeError Instr}
    (h : fld w 0 8 = sc.code * 2 ^ 5 + sz.code) : decodeAcqRel w f = f sz sc := by
  have hsc := sc.code_lt
  have hsz := sz.code_lt
  have h5 : fld w 5 3 = sc.code := by rw [fld_high w 0 5 3, h]; omega
  have hlow : fld w 0 5 = sz.code := by rw [fld_low w 0 5 3, h]; omega
  have h2 : fld w 2 3 = 0 := by rw [fld_high w 0 2 3, hlow]; omega
  have h0 : fld w 0 2 = sz.code := by rw [fld_low w 0 2 3, hlow]; omega
  simp [decodeAcqRel, h5, h0, h2, coded, mustBeZero]

end

/-! ### The formats of long words (R69 to R74) -/

theorem bit_of_fld {w lo : Nat} {z : Bool} (h : fld w lo 1 = z.toNat) : (fld w lo 1 == 1) = z := by
  rw [h]
  cases z <;> rfl

section
variable {i : Instr} (hwf : i.wf = true) {n : Nat} (hn : n < 64)
include hwf hn

/-- Format V (R69). -/
theorem roundTrips_encV {o : VOp} (he : encode i = encV n o) (hs : (vSub n).map (fun f => f o) = some i) : RoundTrips i := by
  obtain ⟨w0, w1, hw⟩ : ∃ w0 w1, encV n o = [w0, w1] := ⟨_, _, rfl⟩
  rw [hw] at he
  simp only [encV, List.cons.injEq, and_true] at hw
  obtain ⟨hw0, hw1⟩ := hw
  obtain ⟨f, hf, hi⟩ := Option.map_eq_some_iff.mp hs
  have hk := o.k.isLt
  have hlen := o.len.isLt
  have hb := o.b.field_lt
  have hbs := o.b.bs_lt
  have hrm := o.rm.code_lt
  have hz := o.z.toNat_lt
  have hd := o.d.isLt
  have ha := o.a.isLt
  have hty := o.ty.code_lt
  have hty2 := o.ty2.code_lt
  have major : fld w0 26 6 = 0x38 := by unfold fld; omega
  have subop : fld w0 20 6 = n := by unfold fld; omega
  have fk : fld w0 17 3 = o.k.val := by unfold fld; omega
  have flen : fld w0 14 3 = o.len.val := by unfold fld; omega
  have fb : fld w0 3 11 = o.b.field := by unfold fld; omega
  have frm : fld w0 1 2 = o.rm.code := by unfold fld; omega
  have fz : fld w0 0 1 = o.z.toNat := by unfold fld; omega
  have fd : fld w1 21 11 = o.d.val := by unfold fld; omega
  have fa : fld w1 10 11 = o.a.val := by unfold fld; omega
  have fty : fld w1 6 4 = o.ty.code := by unfold fld; omega
  have fty2 : fld w1 2 4 = o.ty2.code := by unfold fld; omega
  have fbs : fld w1 0 2 = o.b.bs := by unfold fld; omega
  have hop : vopAt w0 w1 (fun o => .ok (f o)) = .ok (f o) := by
    simp only [vopAt, coded, fb, fbs, frm, fty, fty2, BSrc.ofCode_codes, RM.ofCode_code, ElemTy.ofCode_code, kregAt_eq fk,
      vregAt_eq fd, vregAt_eq fa, bit_of_fld fz, show Fin.ofNat 8 (w0 / 2 ^ 14) = o.len from Fin.ext flen]
  exact roundTrips_long hwf he (by omega) (by omega) (by omega) (by simp [decodeLong, major, subop, hf, sub, hop, hi])

/-- Format VM (R70). -/
theorem roundTrips_encVM {o : VMOp} (he : encode i = encVM n o) (hs : (vmSub n).map (fun f => f o) = some i) : RoundTrips i := by
  obtain ⟨w0, w1, hw⟩ : ∃ w0 w1, encVM n o = [w0, w1] := ⟨_, _, rfl⟩
  rw [hw] at he
  simp only [encVM, List.cons.injEq, and_true] at hw
  obtain ⟨hw0, hw1⟩ := hw
  obtain ⟨f, hf, hi⟩ := Option.map_eq_some_iff.mp hs
  have hk := o.k.isLt
  have hlen := o.len.isLt
  have hg := o.g.isLt
  have hty := o.ty.code_lt
  have hd := o.d.isLt
  have ha := o.a.isLt
  have himm := o.imm.isLt
  have major : fld w0 26 6 = 0x39 := by unfold fld; omega
  have subop : fld w0 20 6 = n := by unfold fld; omega
  have fk : fld w0 17 3 = o.k.val := by unfold fld; omega
  have flen : fld w0 14 3 = o.len.val := by unfold fld; omega
  have fg : fld w0 9 5 = o.g.val := by unfold fld; omega
  have fty : fld w0 5 4 = o.ty.code := by unfold fld; omega
  have zero : fld w0 0 5 = 0 := by unfold fld; omega
  have fd : fld w1 21 11 = o.d.val := by unfold fld; omega
  have fa : fld w1 15 6 = o.a.val := by unfold fld; omega
  have fimm : fld w1 0 15 = o.imm.toNat := by unfold fld; omega
  have hop : vmopAt w0 w1 (fun o => .ok (f o)) = .ok (f o) := by
    simp only [vmopAt, coded, mustBeZero, zero, fty, ElemTy.ofCode_code, kregAt_eq fk, gregAt_eq fg, vregAt_eq fd, sregAt_eq fa,
      ofNat_eq_of_fld_zero fimm, if_true, show Fin.ofNat 8 (w0 / 2 ^ 14) = o.len from Fin.ext flen]
  exact roundTrips_long hwf he (by omega) (by omega) (by omega) (by simp [decodeLong, major, subop, hf, sub, hop, hi])

/-- Format X (R71). -/
theorem roundTrips_encX {o : XOp} (he : encode i = encX n o) (hs : (xSub n).map (fun f => f o) = some i) : RoundTrips i := by
  obtain ⟨w0, w1, hw⟩ : ∃ w0 w1, encX n o = [w0, w1] := ⟨_, _, rfl⟩
  rw [hw] at he
  simp only [encX, List.cons.injEq, and_true] at hw
  obtain ⟨hw0, hw1⟩ := hw
  obtain ⟨f, hf, hi⟩ := Option.map_eq_some_iff.mp hs
  have hga := o.ga.isLt
  have hgb := o.gb.isLt
  have hslab := o.slab.isLt
  have hacc := o.i32acc.toNat_lt
  have hrm := o.rm.code_lt
  have hma := o.ma.toNat_lt
  have hmb := o.mb.toNat_lt
  have hd := o.d.isLt
  have hee := o.e.isLt
  have hss := o.s.isLt
  have hty := o.ty.code_lt
  have major : fld w0 26 6 = 0x3A := by unfold fld; omega
  have subop : fld w0 20 6 = n := by unfold fld; omega
  have fga : fld w0 15 5 = o.ga.val := by unfold fld; omega
  have fgb : fld w0 10 5 = o.gb.val := by unfold fld; omega
  have fslab : fld w0 6 4 = o.slab.val := by unfold fld; omega
  have facc : fld w0 5 1 = o.i32acc.toNat := by unfold fld; omega
  have frm : fld w0 3 2 = o.rm.code := by unfold fld; omega
  have fma : fld w0 2 1 = o.ma.toNat := by unfold fld; omega
  have fmb : fld w0 1 1 = o.mb.toNat := by unfold fld; omega
  have zero : fld w0 0 1 = 0 := by unfold fld; omega
  have fd : fld w1 21 11 = o.d.val := by unfold fld; omega
  have fe : fld w1 10 11 = o.e.val := by unfold fld; omega
  have fs : fld w1 4 6 = o.s.val := by unfold fld; omega
  have fty : fld w1 0 4 = o.ty.code := by unfold fld; omega
  have hop : xopAt w0 w1 (fun o => .ok (f o)) = .ok (f o) := by
    simp only [xopAt, coded, mustBeZero, zero, frm, fty, RM.ofCode_code, ElemTy.ofCode_code, gregAt_eq fga, gregAt_eq fgb,
      bit_of_fld facc, bit_of_fld fma, bit_of_fld fmb, vregAt_eq fd, vregAt_eq fe, sregAt_eq fs, if_true,
      show Fin.ofNat 16 (w0 / 2 ^ 6) = o.slab from Fin.ext fslab]
  exact roundTrips_long hwf he (by omega) (by omega) (by omega) (by simp [decodeLong, major, subop, hf, sub, hop, hi])

/-- Format T (R72). -/
theorem roundTrips_encT {o : TOp} (he : encode i = encT n o) (hs : (tSub n).map (fun f => f o) = some i) : RoundTrips i := by
  obtain ⟨w0, w1, hw⟩ : ∃ w0 w1, encT n o = [w0, w1] := ⟨_, _, rfl⟩
  rw [hw] at he
  simp only [encT, List.cons.injEq, and_true] at hw
  obtain ⟨hw0, hw1⟩ := hw
  obtain ⟨f, hf, hi⟩ := Option.map_eq_some_iff.mp hs
  have hh := o.h.isLt
  have hx := o.x.field_lt
  have hxk := o.x.kind_lt
  have hy := o.y.field_lt
  have hyk := o.y.kind_lt
  have hz := o.z.field_lt
  have hzk := o.z.kind_lt
  have hfn := o.fn.isLt
  have hty := o.ty.code_lt
  have hrm := o.rm.code_lt
  have hss := o.s.isLt
  have ht := o.t.isLt
  have major : fld w0 26 6 = 0x3B := by unfold fld; omega
  have subop : fld w0 20 6 = n := by unfold fld; omega
  have fh : fld w0 14 6 = o.h.val := by unfold fld; omega
  have fx : fld w0 8 6 = o.x.field := by unfold fld; omega
  have fxk : fld w0 1 1 = o.x.kind := by unfold fld; omega
  have fy : fld w0 2 6 = o.y.field := by unfold fld; omega
  have fyk : fld w0 0 1 = o.y.kind := by unfold fld; omega
  have fz : fld w1 26 6 = o.z.field := by unfold fld; omega
  have fzk : fld w1 25 1 = o.z.kind := by unfold fld; omega
  have ffn : fld w1 19 6 = o.fn.toNat := by unfold fld; omega
  have fty : fld w1 15 4 = o.ty.code := by unfold fld; omega
  have frm : fld w1 13 2 = o.rm.code := by unfold fld; omega
  have fs : fld w1 7 6 = o.s.val := by unfold fld; omega
  have ft : fld w1 1 6 = o.t.val := by unfold fld; omega
  have zero : fld w1 0 1 = 0 := by unfold fld; omega
  have hop : topAt w0 w1 (fun o => .ok (f o)) = .ok (f o) := by
    simp only [topAt, coded, mustBeZero, zero, fx, fxk, fy, fyk, fz, fzk, fty, frm, TSrc.ofCode_codes, RM.ofCode_code,
      ElemTy.ofCode_code, hregAt_eq fh, ofNat_eq_of_fld ffn, sregAt_eq fs, sregAt_eq ft, if_true]
  exact roundTrips_long hwf he (by omega) (by omega) (by omega) (by simp [decodeLong, major, subop, hf, sub, hop, hi])

/-- Format E (R73). -/
theorem roundTrips_encE {o : EOp} (he : encode i = encE n o) (hs : (eSub n).map (fun f => f o) = some i) : RoundTrips i := by
  obtain ⟨w0, w1, hw⟩ : ∃ w0 w1, encE n o = [w0, w1] := ⟨_, _, rfl⟩
  rw [hw] at he
  simp only [encE, List.cons.injEq, and_true] at hw
  obtain ⟨hw0, hw1⟩ := hw
  obtain ⟨f, hf, hi⟩ := Option.map_eq_some_iff.mp hs
  have hgs := o.gs.isLt
  have hgd := o.gd.isLt
  have hch := o.ch.isLt
  have hfl := o.fl.isLt
  have hd := o.d.isLt
  have ha := o.a.isLt
  have hb := o.b.isLt
  have hc := o.c.isLt
  have himm := o.imm.isLt
  have major : fld w0 26 6 = 0x3C := by unfold fld; omega
  have subop : fld w0 20 6 = n := by unfold fld; omega
  have fgs : fld w0 15 5 = o.gs.val := by unfold fld; omega
  have fgd : fld w0 10 5 = o.gd.val := by unfold fld; omega
  have fch : fld w0 8 2 = o.ch.val := by unfold fld; omega
  have ffl : fld w0 0 8 = o.fl.toNat := by unfold fld; omega
  have fd : fld w1 26 6 = o.d.val := by unfold fld; omega
  have fa : fld w1 20 6 = o.a.val := by unfold fld; omega
  have fb : fld w1 14 6 = o.b.val := by unfold fld; omega
  have fc : fld w1 8 6 = o.c.val := by unfold fld; omega
  have fimm : fld w1 0 8 = o.imm.toNat := by unfold fld; omega
  have hop : eopAt w0 w1 = o := by
    simp only [eopAt, gregAt_eq fgs, gregAt_eq fgd, ofNat_eq_of_fld_zero ffl, sregAt_eq fd, sregAt_eq fa, sregAt_eq fb,
      sregAt_eq fc, ofNat_eq_of_fld_zero fimm, show Fin.ofNat 4 (w0 / 2 ^ 8) = o.ch from Fin.ext fch]
  exact roundTrips_long hwf he (by omega) (by omega) (by omega) (by simp [decodeLong, major, subop, hf, sub, hop, hi])

/-- Format K (R74). -/
theorem roundTrips_encK {x y d a : Nat} (he : encode i = encK n x y d a) (hx : x < 2 ^ 20) (hy : y < 2 ^ 20) (hd : d < 64)
    (ha : a < 64)
    (h : ∀ w0 w1, fld w0 20 6 = n → fld w0 0 20 = x → fld w1 12 20 = y → fld w1 6 6 = d → fld w1 0 6 = a →
      decodeK w0 w1 = .ok i) : RoundTrips i := by
  obtain ⟨w0, w1, hw⟩ : ∃ w0 w1, encK n x y d a = [w0, w1] := ⟨_, _, rfl⟩
  rw [hw] at he
  simp only [encK, List.cons.injEq, and_true] at hw
  obtain ⟨hw0, hw1⟩ := hw
  have major : fld w0 26 6 = 0x3D := by unfold fld; omega
  have hdec : decodeK w0 w1 = .ok i := h w0 w1 (by unfold fld; omega) (by unfold fld; omega) (by unfold fld; omega)
    (by unfold fld; omega) (by unfold fld; omega)
  exact roundTrips_long hwf he (by omega) (by omega) (by omega) (by simp [decodeLong, major, hdec])

end

/-! ### Every instruction -/

section
variable {i : Instr} (hwf : i.wf = true)
include hwf

/-- CSRR, CSRW, CSRS and CSRC: the register and the number in the place of imm (R67). -/
theorem roundTrips_csr {n : Nat} {r : SReg} {c : BitVec 14} (he : encode i = encL 0 n (r.val * 2 ^ 14 + c.toNat)) (hn : n < 64)
    (h : ∀ w, fld w 20 6 = n → sregAt w 14 = r → BitVec.ofNat 14 w = c → decodeSys w = .ok i) : RoundTrips i := by
  have hr := r.isLt
  have hc := c.isLt
  refine roundTrips_encL hwf he (by decide) hn (by omega) fun w h26 h20 h0 => ?_
  have h14 : fld w 14 6 = r.val := by rw [fld_high w 0 14 6, h0]; omega
  have hlow : fld w 0 14 = c.toNat := by rw [fld_low w 0 14 6, h0]; omega
  simp [decodeShort, h26, h w h20 (sregAt_eq h14) (ofNat_eq_of_fld_zero hlow)]

/-- ALU3 (R77). -/
theorem roundTrips_alu3 {d a : SReg} {b fn : Nat} (he : encode i = encA 1 d a b fn) (hb : b < 64) (hf : fn < 256)
    (h : ∀ w, fld w 0 8 = fn → sregAt w 20 = d → sregAt w 14 = a → fld w 8 6 = b → decodeAlu3 w = .ok i) : RoundTrips i :=
  roundTrips_encA hwf he (by decide) d.isLt a.isLt hb hf fun w h26 h20 h14 h8 h0 => by
    simp [decodeShort, h26, h w h0 (sregAt_eq h20) (sregAt_eq h14) h8]

/-- The immediate instructions of format I. -/
theorem roundTrips_imm {op : Nat} {d a : SReg} {v : BitVec 14} (he : encode i = encI op d a v.toNat) (hop : op < 0x38)
    (h : ∀ w, fld w 26 6 = op → sregAt w 20 = d → sregAt w 14 = a → BitVec.ofNat 14 w = v → decodeShort w = .ok i) : RoundTrips i :=
  roundTrips_encI hwf he hop d.isLt a.isLt v.isLt fun w h26 h20 h14 h0 =>
    h w h26 (sregAt_eq h20) (sregAt_eq h14) (ofNat_eq_of_fld_zero h0)

/-- SHIFTI (R68). -/
theorem roundTrips_shifti {d a : SReg} {n : BitVec 6} {k : Nat} (he : encode i = encI 7 d a (k * 2 ^ 12 + n.toNat)) (hk : k < 4)
    (h : ∀ w, fld w 12 2 = k → fld w 6 6 = 0 → sregAt w 20 = d → sregAt w 14 = a → BitVec.ofNat 6 w = n → decodeShifti w = .ok i) :
    RoundTrips i := by
  have hn := n.isLt
  refine roundTrips_encI hwf he (by decide) d.isLt a.isLt (by omega) fun w h26 h20 h14 h0 => ?_
  have h12 : fld w 12 2 = k := by rw [fld_high w 0 12 2, h0]; omega
  have hlow : fld w 0 12 = n.toNat := by rw [fld_low w 0 12 2, h0]; omega
  have h6 : fld w 6 6 = 0 := by rw [fld_high w 0 6 6, hlow]; omega
  have hn' : fld w 0 6 = n.toNat := by rw [fld_low w 0 6 6, hlow]; omega
  simp [decodeShort, h26, h w h12 h6 (sregAt_eq h20) (sregAt_eq h14) (ofNat_eq_of_fld_zero hn')]

/-- BITF (R68). -/
theorem roundTrips_bitf {d a : SReg} {p n : BitVec 6} {k : Nat} (he : encode i = encI 0x0A d a (k * 2 ^ 12 + p.toNat * 2 ^ 6 + n.toNat))
    (hk : k < 4)
    (h : ∀ w, fld w 12 2 = k → sregAt w 20 = d → sregAt w 14 = a → BitVec.ofNat 6 (w / 64) = p → BitVec.ofNat 6 w = n →
      decodeBitf w = .ok i) : RoundTrips i := by
  have hp := p.isLt
  have hn := n.isLt
  refine roundTrips_encI hwf he (by decide) d.isLt a.isLt (by omega) fun w h26 h20 h14 h0 => ?_
  have h12 : fld w 12 2 = k := by rw [fld_high w 0 12 2, h0]; omega
  have hlow : fld w 0 12 = p.toNat * 2 ^ 6 + n.toNat := by rw [fld_low w 0 12 2, h0]; omega
  have h6 : fld w 6 6 = p.toNat := by rw [fld_high w 0 6 6, hlow]; omega
  have hn' : fld w 0 6 = n.toNat := by rw [fld_low w 0 6 6, hlow]; omega
  simp [decodeShort, h26, h w h12 (sregAt_eq h20) (sregAt_eq h14) (ofNat_eq_of_fld h6) (ofNat_eq_of_fld_zero hn')]

end

/-- A field of six bits with a predicate in its low three (R61). -/
theorem kregAt_of_fld {w lo : Nat} {k : KReg} (h : fld w lo 6 = k.val) : kregAt w lo = k ∧ fld w (lo + 3) 3 = 0 := by
  have hk := k.isLt
  refine ⟨kregAt_eq ?_, ?_⟩
  · rw [fld_low w lo 3 3, h]; omega
  · rw [fld_high w lo 3 3, h]; omega

/-- A field of six bits with the name of a port in its low three (R296). -/
theorem portAt_of_fld {w : Nat} {p : PortName} (h : fld w 8 6 = p.val) : Fin.ofNat 8 (w / 256) = p ∧ fld w 11 3 = 0 :=
  kregAt_of_fld h

/-- A field of six bits with a generator in its low five (R61). -/
theorem gregAt_of_fld {w lo : Nat} {g : GReg} (h : fld w lo 6 = g.val) : gregAt w lo = g ∧ fld w (lo + 5) 1 = 0 := by
  have hg := g.isLt
  refine ⟨gregAt_eq ?_, ?_⟩
  · rw [fld_low w lo 5 1, h]; omega
  · rw [fld_high w lo 5 1, h]; omega

/-- Settles O53: the fields of an instruction's words are its operands' values, and the decoder reads them back. -/
theorem decodeOfEncode : Obligations.DecodeOfEncode := by
  unfold Obligations.DecodeOfEncode
  intro i more hwf hev
  refine (?_ : RoundTrips i) more
  cases i with
  | nop | endGroup | tfence =>
    exact roundTrips_encL hwf rfl (by decide) (by decide) (by decide) fun w h26 h20 h0 => by
      simp [decodeShort, h26, decodeSys, h20, mustBeZero, h0]
  | trap c | brk c =>
    exact roundTrips_encL hwf rfl (by decide) (by decide) c.isLt fun w h26 h20 h0 => by
      simp [decodeShort, h26, decodeSys, h20, ofNat_eq_of_fld_zero h0]
  | fence sc k =>
    have hsc := sc.code_lt
    have hk := k.code_lt
    refine roundTrips_encL hwf rfl (by decide) (by decide) (by omega) fun w h26 h20 h0 => ?_
    have h15 : fld w 15 5 = sc.code * 2 ^ 2 + k.code := by rw [fld_high w 0 15 5, h0]; omega
    have hz : fld w 0 15 = 0 := by rw [fld_low w 0 15 5, h0]; omega
    have h17 : fld w 17 3 = sc.code := by rw [fld_high w 15 2 3, h15]; omega
    have hk' : fld w 15 2 = k.code := by rw [fld_low w 15 2 3, h15]; omega
    simp [decodeShort, h26, decodeSys, h20, h17, hk', hz, coded, mustBeZero]
  | cyc d =>
    have hd := d.isLt
    refine roundTrips_encL hwf rfl (by decide) (by decide) (by omega) fun w h26 h20 h0 => ?_
    have h14 : fld w 14 6 = d.val := by rw [fld_high w 0 14 6, h0]; omega
    have hz : fld w 0 14 = 0 := by rw [fld_low w 0 14 6, h0]; omega
    simp [decodeShort, h26, decodeSys, h20, sregAt_eq h14, hz, mustBeZero]
  | csrr r n | csrw r n | csrs r n | csrc r n =>
    exact roundTrips_csr hwf rfl (by decide) fun w h20 hr hn => by simp [decodeSys, h20, hr, hn]
  | add d a b | sub d a b | mul d a b | mulh d a b | mulhn d a b | div d a b | divn d a b | rem d a b | remn d a b | and d a b
  | or d a b | xor d a b | andn d a b | shl d a b | shr d a b | sar d a b | rol d a b | min d a b | max d a b | minn d a b
  | maxn d a b | seq d a b | sne d a b | slt d a b | sltn d a b | sle d a b | slen d a b | sel d a b | addsh1 d a b
  | addsh2 d a b | addsh3 d a b =>
    exact roundTrips_alu3 hwf rfl b.isLt (by decide) fun w h0 hd ha hb => by simp [decodeAlu3, h0, hd, ha, sregAt_eq hb]
  | clz d a | ctz d a | popc d a =>
    exact roundTrips_alu3 hwf rfl (by decide) (by decide) fun w h0 hd ha hb => by simp [decodeAlu3, h0, hd, ha, hb, mustBeZero]
  | addi d a v | andi d a v | ori d a v | xori d a v | slti d a v =>
    exact roundTrips_imm hwf rfl (by decide) fun w h26 hd ha hv => by simp [decodeShort, h26, hd, ha, hv]
  | shli d a n | shri d a n | sari d a n =>
    exact roundTrips_shifti hwf rfl (by decide) fun w h12 h6 hd ha hn => by simp [decodeShifti, h12, h6, hd, ha, hn, mustBeZero]
  | ldi d v | ldih d v =>
    exact roundTrips_encL hwf rfl (by decide) d.isLt v.isLt fun w h26 h20 h0 => by
      simp [decodeShort, h26, sregAt_eq h20, ofNat_eq_of_fld_zero h0]
  | bfx d a p n =>
    exact roundTrips_bitf (d := d) (a := a) (p := p) (n := n) (k := 0) hwf (by simp [encode]) (by decide) fun w h12 hd ha hp hn => by
      simp [decodeBitf, h12, hd, ha, hp, hn]
  | bfi d a p n =>
    exact roundTrips_bitf hwf rfl (by decide) fun w h12 hd ha hp hn => by simp [decodeBitf, h12, hd, ha, hp, hn]
  | mkptr d a b sp =>
    have hsp := sp.code_lt
    refine roundTrips_encA hwf rfl (by decide) d.isLt a.isLt b.isLt (by omega) fun w h26 h20 h14 h8 h0 => ?_
    have h7 : fld w 7 1 = 0 := by rw [fld_high w 0 7 1, h0]; omega
    have hlow : fld w 0 7 = sp.code := by rw [fld_low w 0 7 1, h0]; omega
    have h4 : fld w 4 3 = 0 := by rw [fld_high w 0 4 3, hlow]; omega
    have hsp' : fld w 0 4 = sp.code := by rw [fld_low w 0 4 3, hlow]; omega
    simp [decodeShort, h26, decodePtr, h7, h4, hsp', coded, mustBeZero, sregAt_eq h20, sregAt_eq h14, sregAt_eq h8]
  | ptrx d a f =>
    have hf := f.isLt
    refine roundTrips_encA hwf rfl (by decide) d.isLt a.isLt (by decide) (by omega) fun w h26 h20 h14 h8 h0 => ?_
    have h7 : fld w 7 1 = 1 := by rw [fld_high w 0 7 1, h0]; omega
    have hlow : fld w 0 7 = f.val := by rw [fld_low w 0 7 1, h0]; omega
    have h2 : fld w 2 5 = 0 := by rw [fld_high w 0 2 5, hlow]; omega
    have hf' : fld w 0 2 = f.val := by rw [fld_low w 0 2 5, hlow]; omega
    have hfin : Fin.ofNat 4 w = f := Fin.ext ((congrArg (· % 4) (Nat.div_one w).symm).trans hf')
    simp only [decodeShort, h26, decodePtr, h7, h8, h2, hfin, mustBeZero, sregAt_eq h20, sregAt_eq h14, if_true, Nat.one_ne_zero, if_false]
  | kset d a p =>
    exact roundTrips_encA hwf rfl (by decide) (by omega) a.isLt (by have := p.code_lt; omega) (by decide)
      fun w h26 h20 h14 h8 h0 => by
        obtain ⟨hd, hz⟩ := kregAt_of_fld h20
        simp [decodeShort, h26, decodePred, h0, hd, hz, h8, coded, mustBeZero, sregAt_eq h14]
  | kcnt d a p =>
    exact roundTrips_encA hwf rfl (by decide) d.isLt (by omega) (by have := p.code_lt; omega) (by decide)
      fun w h26 h20 h14 h8 h0 => by
        obtain ⟨ha, hz⟩ := kregAt_of_fld h14
        simp [decodeShort, h26, decodePred, h0, ha, hz, h8, coded, mustBeZero, sregAt_eq h20]
  | kmin d a b =>
    exact roundTrips_encA hwf rfl (by decide) (by omega) (by omega) (by omega) (by decide) fun w h26 h20 h14 h8 h0 => by
      obtain ⟨hd, hdz⟩ := kregAt_of_fld h20
      obtain ⟨ha, haz⟩ := kregAt_of_fld h14
      obtain ⟨hb, hbz⟩ := kregAt_of_fld h8
      simp [decodeShort, h26, decodePred, h0, hd, hdz, ha, haz, hb, hbz, mustBeZero]
  | kget d a =>
    exact roundTrips_encA hwf rfl (by decide) d.isLt (by omega) (by decide) (by decide) fun w h26 h20 h14 h8 h0 => by
      obtain ⟨ha, hz⟩ := kregAt_of_fld h14
      simp [decodeShort, h26, decodePred, h0, ha, hz, h8, mustBeZero, sregAt_eq h20]
  | ld sz d a o | ldz sz d a o | st sz d a o =>
    exact roundTrips_encM hwf rfl rfl (by decide) fun w h26 => by simp [decodeShort, h26]
  | ldaq sz sc d a =>
    exact roundTrips_encA hwf rfl (by decide) d.isLt a.isLt (by decide) (by have := sc.code_lt; have := sz.code_lt; omega)
      fun w h26 h20 h14 h8 h0 => by
        simp [decodeShort, h26, decodeAcqRel_of_fn h0, h8, mustBeZero, sregAt_eq h20, sregAt_eq h14]
  | strl sz sc a b =>
    exact roundTrips_encA hwf rfl (by decide) (by decide) a.isLt b.isLt (by have := sc.code_lt; have := sz.code_lt; omega)
      fun w h26 h20 h14 h8 h0 => by
        simp [decodeShort, h26, decodeAcqRel_of_fn h0, h20, mustBeZero, sregAt_eq h14, sregAt_eq h8]
  | aadd sc o d a b | aand sc o d a b | aor sc o d a b | axor sc o d a b | amin sc o d a b | amax sc o d a b | aminn sc o d a b
  | amaxn sc o d a b =>
    exact roundTrips_encAtom (fns := atom1Fn) hwf rfl rfl rfl (by decide) (by decide) fun w h26 => by simp [decodeShort, h26]
  | axchg sc o d a b | acas sc o d a b =>
    exact roundTrips_encAtom (fns := atom2Fn) hwf rfl rfl rfl (by decide) (by decide) fun w h26 => by simp [decodeShort, h26]
  | beq a b t | bne a b t | blt a b t | bge a b t | bltn a b t | bgen a b t =>
    exact roundTrips_encB hwf rfl (by decide) a.isLt b.isLt fun w h26 h20 h14 ht => by
      simp [decodeShort, h26, sregAt_eq h20, sregAt_eq h14, ht]
  | bz a t | bnz a t =>
    exact roundTrips_encB hwf rfl (by decide) a.isLt (by decide) fun w h26 h20 h14 ht => by
      simp [decodeShort, h26, decodeBzBnz, h14, sregAt_eq h20, ht]
  | jl d t | loop d t =>
    exact roundTrips_encJ hwf rfl (by decide) d.isLt fun w h26 h20 ht => by simp [decodeShort, h26, sregAt_eq h20, ht]
  | jr d a =>
    exact roundTrips_encA hwf rfl (by decide) d.isLt a.isLt (by decide) (by decide) fun w h26 h20 h14 h8 h0 => by
      have hz : fld w 0 14 = 0 := fld_eq_zero 8 6 h0 h8
      simp [decodeShort, h26, hz, mustBeZero, sregAt_eq h20, sregAt_eq h14]
  | qbind d a p push unbind =>
    have hp := p.isLt
    have hpush := push.toNat_lt
    have hunbind := unbind.toNat_lt
    refine roundTrips_encA hwf rfl (by decide) d.isLt a.isLt (by omega) (by decide) fun w h26 h20 h14 h8 h0 => ?_
    have h12 : fld w 12 2 = 0 := by rw [fld_high w 8 4 2, h8]; omega
    have hlow : fld w 8 4 = p.val + push.toNat * 2 ^ 2 + unbind.toNat * 2 ^ 3 := by rw [fld_low w 8 4 2, h8]; omega
    have h10 : fld w 10 2 = push.toNat + unbind.toNat * 2 := by rw [fld_high w 8 2 2, hlow]; omega
    have hp' : fld w 8 2 = p.val := by rw [fld_low w 8 2 2, hlow]; omega
    have h11 : fld w 11 1 = unbind.toNat := by rw [fld_high w 10 1 1, h10]; omega
    have hpush' : fld w 10 1 = push.toNat := by rw [fld_low w 10 1 1, h10]; omega
    have hfin : Fin.ofNat 4 (w / 256) = p := Fin.ext hp'
    simp only [decodeShort, h26, decodeQue, h0, h12, mustBeZero, hfin, bit_of_fld h11, bit_of_fld hpush', sregAt_eq h20,
      sregAt_eq h14, if_true]
  | qlen d p | qpeek d p =>
    exact roundTrips_encA hwf rfl (by decide) d.isLt (by decide) (by omega) (by decide) fun w h26 h20 h14 h8 h0 => by
      obtain ⟨hp, hz⟩ := portAt_of_fld h8
      simp only [decodeShort, h26, decodeQue, h0, h14, hz, mustBeZero, sregAt_eq h20, hp, if_true]
  | qtry d a p | qpusht d a p =>
    exact roundTrips_encA hwf rfl (by decide) d.isLt a.isLt (by omega) (by decide) fun w h26 h20 h14 h8 h0 => by
      obtain ⟨hp, hz⟩ := portAt_of_fld h8
      simp only [decodeShort, h26, decodeQue, h0, hz, mustBeZero, sregAt_eq h20, sregAt_eq h14, hp, if_true]
  | qcreate d a | qdel d a =>
    exact roundTrips_encA hwf rfl (by decide) d.isLt a.isLt (by decide) (by decide) fun w h26 h20 h14 h8 h0 => by
      simp [decodeShort, h26, decodeQue, h0, h8, mustBeZero, sregAt_eq h20, sregAt_eq h14]
  | gld g a | gst g a =>
    exact roundTrips_encA hwf rfl (by decide) (by omega) a.isLt (by decide) (by decide) fun w h26 h20 h14 h8 h0 => by
      obtain ⟨hg, hz⟩ := gregAt_of_fld h20
      simp [decodeShort, h26, decodeGen, h0, hg, hz, h8, mustBeZero, sregAt_eq h14]
  | gadv g a n | gset g a n =>
    exact roundTrips_encA hwf rfl (by decide) (by omega) a.isLt (by omega) (by decide) fun w h26 h20 h14 h8 h0 => by
      obtain ⟨hg, hz⟩ := gregAt_of_fld h20
      simp [decodeShort, h26, decodeGen, h0, hg, hz, h8, mustBeZero, sregAt_eq h14]
  | binit d a b | bwait d a b | btest d a b =>
    exact roundTrips_encA hwf rfl (by decide) d.isLt a.isLt b.isLt (by decide) fun w h26 h20 h14 h8 h0 => by
      simp [decodeShort, h26, decodeBar, h0, sregAt_eq h20, sregAt_eq h14, sregAt_eq h8]
  | barr d a | bsync d a =>
    exact roundTrips_encA hwf rfl (by decide) d.isLt a.isLt (by decide) (by decide) fun w h26 h20 h14 h8 h0 => by
      simp [decodeShort, h26, decodeBar, h0, h8, mustBeZero, sregAt_eq h20, sregAt_eq h14]
  | spawn d a =>
    exact roundTrips_encA hwf rfl (by decide) d.isLt a.isLt (by decide) (by decide) fun w h26 h20 h14 h8 h0 => by
      simp [decodeShort, h26, decodeTask, h0, h8, mustBeZero, sregAt_eq h20, sregAt_eq h14]
  | park a | cancel a | prog a =>
    exact roundTrips_encA hwf rfl (by decide) (by decide) a.isLt (by decide) (by decide) fun w h26 h20 h14 h8 h0 => by
      simp [decodeShort, h26, decodeTask, h0, h8, h20, mustBeZero, sregAt_eq h14]
  | waitl d a b =>
    exact roundTrips_encA hwf rfl (by decide) d.isLt a.isLt b.isLt (by decide) fun w h26 h20 h14 h8 h0 => by
      simp [decodeShort, h26, decodeTask, h0, sregAt_eq h20, sregAt_eq h14, sregAt_eq h8]
  | meet =>
    exact roundTrips_encA hwf rfl (by decide) (by decide) (by decide) (by decide) (by decide) fun w h26 h20 h14 h8 h0 => by
      have hz : fld w 8 18 = 0 := fld_eq_zero 6 12 h8 (fld_eq_zero 6 6 h14 h20)
      simp [decodeShort, h26, decodeTask, h0, hz, mustBeZero]
  | pflush a b | pinv a b =>
    exact roundTrips_encA hwf rfl (by decide) (by decide) a.isLt b.isLt (by decide) fun w h26 h20 h14 h8 h0 => by
      simp [decodeShort, h26, decodePool, h0, h20, mustBeZero, sregAt_eq h14, sregAt_eq h8]
  | nqpost d a b | nqpop d a b | nqwait d a b =>
    exact roundTrips_encA hwf rfl (by decide) d.isLt a.isLt b.isLt (by decide) fun w h26 h20 h14 h8 h0 => by
      simp [decodeShort, h26, decodePool, h0, sregAt_eq h20, sregAt_eq h14, sregAt_eq h8]
  | tlbi a b =>
    exact roundTrips_encA hwf rfl (by decide) (by decide) a.isLt b.isLt (by decide) fun w h26 h20 h14 h8 h0 => by
      simp [decodeShort, h26, decodePage, h0, h20, mustBeZero, sregAt_eq h14, sregAt_eq h8]
  | pgmig d a b =>
    exact roundTrips_encA hwf rfl (by decide) d.isLt a.isLt b.isLt (by decide) fun w h26 h20 h14 h8 h0 => by
      simp [decodeShort, h26, decodePage, h0, sregAt_eq h20, sregAt_eq h14, sregAt_eq h8]
  | vadd o | vsub o | vmul o | vfma o | vfms o | vmax o | vmin o | vabs o | vneg o | vscl o | vand o | vor o | vxor o | vshl o
  | vshr o | vsar o | vcmpeq o | vcmplt o | vcmple o | vsel o | vcvt o | vmov o | vsplat o | viota o | vexp2 o | vlog2 o | vrcp o
  | vrsq o | vsqrt o | vtanh o | vsigm o | vredsum o | vredmax o | vredmin o | vscan o | vperm o | vbcast o | vclamp o =>
    exact roundTrips_encV hwf (by decide) rfl rfl
  | vld o | vst o | vlds o | vsts o | vgath o | vscat o | vpack o | vunpk o => exact roundTrips_encVM hwf (by decide) rfl rfl
  | mma o | mmas o | mmac o | bld o | zacc o | acvt o => exact roundTrips_encX hwf (by decide) rfl rfl
  | tload o | tmul o | tew o | tred o | tcvt o | tview o | tgath o | tsel o | force o | tst o | tdrop o | tstat o | tpol o =>
    exact roundTrips_encT hwf (by decide) rfl rfl
  | cpy o | cpyt o | cpym o | enq o | waitid o | tidr o | publish o | lfload o | lbind o | lstart o | lbar o | lstat o | lstop o
  | cred o | csend o | crecv o | mcst o => exact roundTrips_encE hwf (by decide) rfl rfl
  | fork x y | yield x y =>
    exact roundTrips_encK hwf (by decide) rfl x.isLt y.isLt (by decide) (by decide) fun w0 w1 h20 hx hy hd ha => by
      have hz : fld w1 0 12 = 0 := fld_eq_zero 6 6 ha hd
      simp only [decodeK, h20, hz, mustBeZero, ofNat_eq_of_fld_zero hx, ofNat_eq_of_fld hy, if_true]
  | launch d a =>
    exact roundTrips_encK hwf (by decide) rfl (by decide) (by decide) d.isLt a.isLt fun w0 w1 h20 hx hy hd ha => by
      simp [decodeK, h20, hx, hy, mustBeZero, sregAt_eq hd, sregAt_eq ha]
  | _ => cases hev

end Sys2Proof
end

section
/-! PROOFS. The codes that no instruction has (O55), the spec's worked lines (O52). -/

namespace Sys2Proof

section
variable {w w0 w1 : Nat} {i : Instr}

/-- The majors of short words (R76). -/
theorem decodeShort_major (h : decodeShort w = .ok i) :
    fld w 26 6 ∉ [0x0D, 0x0E, 0x0F, 0x17, 0x1F, 0x23, 0x26, 0x29, 0x2A, 0x2B, 0x2D, 0x2F, 0x30, 0x31, 0x32, 0x33, 0x34, 0x35, 0x36,
      0x37, 0x3E, 0x3F] := by
  dsimp only [decodeShort] at h
  split at h
  case h_37 => cases h
  all_goals simp_all

/-- The functions of SYS (R67). -/
theorem decodeSys_function (h : decodeSys w = .ok i) : fld w 20 6 ≤ 0x0A := by
  unfold decodeSys at h
  split at h
  case h_12 => cases h
  all_goals omega

/-- The functions of ALU3 (R77). -/
theorem decodeAlu3_function (h : decodeAlu3 w = .ok i) : fld w 0 8 ≤ 0x1E ∨ 0x21 ≤ fld w 0 8 ∧ fld w 0 8 ≤ 0x23 := by
  dsimp only [decodeAlu3] at h
  split at h
  case h_35 => cases h
  all_goals omega

/-! ### Sub-ops (R78) -/

theorem vSub_le {n : Nat} {f : VOp → Instr} (h : vSub n = some f) : n ≤ 0x25 := by
  unfold vSub at h
  split at h
  case h_39 => cases h
  all_goals omega

theorem vmSub_le {n : Nat} {f : VMOp → Instr} (h : vmSub n = some f) : n ≤ 0x07 := by
  unfold vmSub at h
  split at h
  case h_9 => cases h
  all_goals omega

theorem xSub_le {n : Nat} {f : XOp → Instr} (h : xSub n = some f) : n ≤ 0x05 := by
  unfold xSub at h
  split at h
  case h_7 => cases h
  all_goals omega

theorem tSub_le {n : Nat} {f : TOp → Instr} (h : tSub n = some f) : n ≤ 0x0C := by
  unfold tSub at h
  split at h
  case h_14 => cases h
  all_goals omega

theorem eSub_le {n : Nat} {f : EOp → Instr} (h : eSub n = some f) : n ≤ 0x10 := by
  unfold eSub at h
  split at h
  case h_18 => cases h
  all_goals omega

theorem decodeK_sub (h : decodeK w0 w1 = .ok i) : fld w0 20 6 ≤ 0x02 := by
  unfold decodeK at h
  split at h
  case h_4 => cases h
  all_goals omega

/-! ### Lengths (R69, R70) -/

theorem lenWf_iff {n : Fin 8} : lenWf n = true ↔ 1 ≤ n.val ∧ n.val ≤ 6 := by simp [lenWf]

theorem vSub_len {n : Nat} {f : VOp → Instr} {o : VOp} (h : vSub n = some f) (hwf : (f o).wf = true) : lenWf o.len = true := by
  unfold vSub at h
  split at h
  case h_39 => cases h
  all_goals
    cases h
    simp only [Instr.wf, VOp.base, Bool.and_eq_true] at hwf
    simp only [hwf]

theorem vmSub_len {n : Nat} {f : VMOp → Instr} {o : VMOp} (h : vmSub n = some f) (hwf : (f o).wf = true) : lenWf o.len = true := by
  unfold vmSub at h
  split at h
  case h_9 => cases h
  all_goals
    cases h
    simp only [Instr.wf, Bool.and_eq_true] at hwf
    simp only [hwf]

/-- What a word of major 0x38 says of itself. -/
theorem decodeLong_vector (hop : fld w0 26 6 = 0x38) (h : decodeLong w0 w1 = .ok i) (hwf : i.wf = true) :
    fld w0 20 6 ≤ 0x25 ∧ (1 ≤ fld w0 14 3 ∧ fld w0 14 3 ≤ 6) ∧ fld w1 0 2 ≠ 3 ∧ fld w1 6 4 ≤ 12 := by
  simp only [decodeLong, hop, sub_eq_ok, vopAt, coded_eq_ok, Except.ok.injEq] at h
  obtain ⟨f, hf, b, hb, rm, -, ty, hty, ty2, -, rfl⟩ := h
  have hbs := b.bs_lt
  have htyc := ty.code_lt
  have hcode := ElemTy.code_of_ofCode hty
  obtain ⟨hsrc, -⟩ := BSrc.codes_of_ofCode (fld_lt _ _ _) hb
  exact ⟨vSub_le hf, lenWf_iff.mp (vSub_len hf hwf), by omega, by omega⟩

/-- What a word of major 0x39 says of itself. -/
theorem decodeLong_vectorMemory (hop : fld w0 26 6 = 0x39) (h : decodeLong w0 w1 = .ok i) (hwf : i.wf = true) :
    fld w0 20 6 ≤ 0x07 ∧ 1 ≤ fld w0 14 3 ∧ fld w0 14 3 ≤ 6 := by
  simp only [decodeLong, hop, sub_eq_ok, vmopAt, coded_eq_ok, mustBeZero_eq_ok, Except.ok.injEq] at h
  obtain ⟨f, hf, ty, -, -, rfl⟩ := h
  exact ⟨vmSub_le hf, lenWf_iff.mp (vmSub_len hf hwf)⟩

/-- The sub-ops of the other majors of two words. -/
theorem decodeLong_sub (h : decodeLong w0 w1 = .ok i) :
    (fld w0 26 6 = 0x3A → fld w0 20 6 ≤ 0x05) ∧ (fld w0 26 6 = 0x3B → fld w0 20 6 ≤ 0x0C)
      ∧ (fld w0 26 6 = 0x3C → fld w0 20 6 ≤ 0x10) ∧ (fld w0 26 6 = 0x3D → fld w0 20 6 ≤ 0x02) := by
  refine ⟨fun hop => ?_, fun hop => ?_, fun hop => ?_, fun hop => ?_⟩
  all_goals simp only [decodeLong, hop, sub_eq_ok] at h
  · obtain ⟨f, hf, -⟩ := h
    exact xSub_le hf
  · obtain ⟨f, hf, -⟩ := h
    exact tSub_le hf
  · obtain ⟨f, hf, -⟩ := h
    exact eSub_le hf
  · exact decodeK_sub h

/-- A short instruction, or a long one whose second word follows (R54). -/
theorem decodeWords_cons_eq_ok {w : Nat} {more : List Nat} (h : decodeWords (w :: more) = .ok i) :
    i.wf = true ∧ (¬ (0x38 ≤ fld w 26 6 ∧ fld w 26 6 ≤ 0x3D) ∧ decodeShort w = .ok i
      ∨ (0x38 ≤ fld w 26 6 ∧ fld w 26 6 ≤ 0x3D) ∧ ∃ w1 t, more = w1 :: t ∧ decodeLong w w1 = .ok i) := by
  rw [← isLong_eq_true_iff]
  by_cases hl : isLong w = true
  · cases more with
    | nil => simp [decodeWords, hl] at h
    | cons w1 t =>
      simp only [decodeWords, hl, if_true, checkWf_eq_ok] at h
      exact ⟨h.2, .inr ⟨hl, w1, t, rfl, h.1⟩⟩
  · simp only [decodeWords, hl, if_false, checkWf_eq_ok, Bool.false_eq_true] at h
    exact ⟨h.2, .inl ⟨hl, h.1⟩⟩

end

/-- Settles O55: no branch of a table answers a reserved code. -/
theorem reservedEncodings : Obligations.ReservedEncodings := by
  unfold Obligations.ReservedEncodings
  intro w0 more i hw h
  have hmajor : w0 / 2 ^ 26 = fld w0 26 6 := by unfold fld; omega
  have hsub : w0 / 2 ^ 20 % 2 ^ 6 = fld w0 20 6 := rfl
  have hfn : w0 % 2 ^ 8 = fld w0 0 8 := by simp [fld]
  have hlen : w0 / 2 ^ 14 % 8 = fld w0 14 3 := rfl
  dsimp only
  rw [hmajor, hsub, hfn, hlen]
  obtain ⟨hwf, ⟨hl, hs⟩ | ⟨hl, w1, t, rfl, hs⟩⟩ := decodeWords_cons_eq_ok h
  · have hmem := decodeShort_major hs
    have hle := fld_lt w0 26 6
    have hshort : fld w0 26 6 < 0x38 := by
      simp only [List.mem_cons, List.not_mem_nil, or_false, not_or] at hmem
      omega
    refine ⟨hmem, fun hop => decodeSys_function (i := i) ?_, fun hop => decodeAlu3_function (i := i) ?_, ?_⟩
    · simpa [decodeShort, hop] using hs
    · simpa [decodeShort, hop] using hs
    · exact ⟨by omega, by omega, by omega, by omega, by omega, by omega, by omega, by omega, by omega⟩
  · obtain ⟨h3A, h3B, h3C, h3D⟩ := decodeLong_sub hs
    have hbs : w1 % 4 = fld w1 0 2 := by simp [fld]
    have hty : w1 / 2 ^ 6 % 16 = fld w1 6 4 := rfl
    refine ⟨?_, by omega, by omega, fun hop => ?_, fun hop => ?_, h3A, h3B, h3C, h3D, fun hop => ?_, fun hop => ?_, fun _ => by simp⟩
    · simp only [List.mem_cons, List.not_mem_nil, or_false, not_or]
      omega
    · exact (decodeLong_vector hop hs hwf).1
    · exact (decodeLong_vectorMemory hop hs hwf).1
    · obtain hop | hop := hop
      · exact (decodeLong_vector hop hs hwf).2.1
      · exact (decodeLong_vectorMemory hop hs hwf).2
    · refine ⟨w1, t, rfl, ?_⟩
      rw [hbs, hty]
      exact (decodeLong_vector hop hs hwf).2.2

/-- Settles O52, by evaluating the decoder. -/
theorem decodeKnownWords : Obligations.DecodeKnownWords := by
  unfold Obligations.DecodeKnownWords
  exact ⟨rfl, rfl, rfl, rfl, rfl, rfl, rfl, rfl, rfl, rfl, rfl, rfl, rfl, rfl⟩

end Sys2Proof
end

section
/-! PROOFS. Compact predicates (R128, R129, O14). -/

namespace Sys2Proof.Machine

open Sys2Proof

theorem PWidthBits_eq (w : PWidth) : PWidthBits w = 8 * 2 ^ w.code := by cases w <;> rfl

theorem runs_onMyGroup {s : State} {g : Group} {k : Role} (h : Acts s g k) (f : Group → Group) :
    Runs (onMyGroup f) s () (s.onGroup s.cur.core s.cur.slot f) :=
  runs_bind (runs_me h) (runs_modify _ s)

/-- Updates that make the same of the acting role's group are the same. -/
theorem State.onGroup_congr {s : State} {g : Group} {k : Role} (h : Acts s g k) {f f' : Group → Group} (hf : f g = f' g) :
    s.onGroup s.cur.core s.cur.slot f = s.onGroup s.cur.core s.cur.slot f' := by
  rw [State.onGroup_of_group h.1, State.onGroup_of_group h.1, hf]

/-- Settles O14: the functions of the model are the statement's, with the width's bits written out. -/
theorem predicateResult : Obligations.PredicateResult := by
  unfold Obligations.PredicateResult
  intro s s1 s2 g k d p q r a w x h bits val Sets
  have hbits (w : PWidth) : bits w = PWidthBits w := (PWidthBits_eq w).symm
  refine ⟨fun ht => ?_, fun ht => ?_, fun ht hg => ?_, fun ht hg => ?_⟩
  · exact instr_seq (runs_pure () s) ht (runs_onMyGroup h _)
  · simp only [hbits]
    refine instr_seq (runs_pure () s) ht ?_
    rw [State.onGroup_congr h (f' := fun y => y.setPred p ⟨min (y.pred q).bytes (y.pred r).bytes * 8 / PWidthBits (y.pred q).width,
      (y.pred q).width⟩) rfl]
    exact runs_onMyGroup h _
  · simp only [hbits] at hg
    exact instr_seq (runs_pure () s) ht (runs_bind (runs_me h) hg)
  · exact instr_seq (runs_pure () s) ht (runs_bind (runs_me h) hg)

end Sys2Proof.Machine
end

section
/-! PROOFS. Immediates, bit fields and pointers (R100 to R105, O2). -/

namespace Sys2Proof.Machine

open Sys2Proof

/-! ### Immediates and bit fields (R100, R103) -/

/-- An instruction of one source whose function is the statement's. -/
theorem results1_alu1 {i : Instr} {d a : SReg} {f f' : Word → Word} (hi : ∀ s, exec i s = alu1 f' d a s) (hf : ∀ x, f' x = f x) :
    Results1 i d a f := fun s x s1 s2 ht hg =>
  (hi s).trans (instr_seq (runs_pure () s) ht (by rw [← hf] at hg; exact hg))

theorem ofBool_slt (x y : Word) : ofBool (x.slt y) = if x.toInt < y.toInt then 1 else 0 := by
  simp [ofBool, BitVec.slt]

theorem toInt_imm14 (i : BitVec 14) : (imm14 i).toInt = i.toInt := BitVec.toInt_signExtend_of_le (by decide)

/-- A mask of n low bits. -/
theorem toNat_lowMask {n : Nat} (hn : n ≤ 64) : (((1 <<< n : Nat) : Word) - 1).toNat = 2 ^ n - 1 := by
  rcases Nat.lt_or_eq_of_le hn with h | rfl
  · have hlt : 2 ^ n < 2 ^ 64 := Nat.pow_lt_pow_right (by decide) h
    have hpos := Nat.two_pow_pos n
    rw [Nat.one_shiftLeft, BitVec.natCast_eq_ofNat, BitVec.toNat_sub, BitVec.toNat_ofNat, Nat.mod_eq_of_lt hlt,
      show (1 : Word).toNat = 1 from rfl]
    omega
  · rfl

theorem bitField_eq_mask (x : Word) {p n : Nat} (hn : n ≤ 64) : bitField x p n = (x >>> p) &&& (((1 <<< n : Nat) : Word) - 1) := by
  have hlt : x.toNat / 2 ^ p % 2 ^ n < 2 ^ 64 := Nat.lt_of_le_of_lt ((Nat.mod_le _ _).trans (Nat.div_le_self _ _)) x.isLt
  apply BitVec.eq_of_toNat_eq
  rw [bitField, BitVec.toNat_and, BitVec.toNat_ofNat, Nat.mod_eq_of_lt hlt, toNat_lowMask hn, Nat.and_two_pow_sub_one_eq_mod,
    BitVec.toNat_ushiftRight, Nat.shiftRight_eq_div_pow]

theorem getLsbD_fieldMask {p n j : Nat} (hj : j < 64) :
    (BitVec.ofNat 64 ((2 ^ n - 1) * 2 ^ p)).getLsbD j = decide (p ≤ j ∧ j < p + n) := by
  rw [BitVec.getLsbD_ofNat, Nat.testBit_mul_two_pow, Nat.testBit_two_pow_sub_one, Bool.eq_iff_iff]
  simp only [Bool.and_eq_true, decide_eq_true_eq]
  omega

/-- BFI's value, bit by bit. -/
theorem getLsbD_insertField (d a : Word) {p n j : Nat} (hj : j < 64) :
    (insertField d a p n).getLsbD j = if p ≤ j ∧ j < p + n then a.getLsbD (j - p) else d.getLsbD j := by
  simp only [insertField, BitVec.getLsbD_or, BitVec.getLsbD_and, BitVec.getLsbD_not, getLsbD_fieldMask hj, BitVec.getLsbD_shiftLeft, hj,
    decide_true, Bool.true_and]
  by_cases h : p ≤ j ∧ j < p + n
  · simp [h, Nat.not_lt.mpr h.1]
  · simp [h]

/-! ### The fields of a pointer (R105, R208) -/

theorem toNat_space (x : Word) : (x >>> 60).toNat = ptrSpace x.toNat := by
  have := x.isLt
  rw [BitVec.toNat_ushiftRight, Nat.shiftRight_eq_div_pow, ptrSpace]
  omega

/-- The n low bits of a word. -/
theorem and_lowMask {n : Nat} (x m : Word) (hm : m.toNat = 2 ^ n - 1) : x &&& m = BitVec.ofNat 64 (x.toNat % 2 ^ n) := by
  have hlt : x.toNat % 2 ^ n < 2 ^ 64 := Nat.lt_of_le_of_lt (Nat.mod_le _ _) x.isLt
  apply BitVec.eq_of_toNat_eq
  rw [BitVec.toNat_and, hm, Nat.and_two_pow_sub_one_eq_mod, BitVec.toNat_ofNat, Nat.mod_eq_of_lt hlt]

theorem ptrField_space (x : Word) : BitVec.ofNat 64 (ptrField x.toNat 0) = x >>> 60 := by
  rw [ptrField, ← toNat_space, BitVec.ofNat_toNat, BitVec.setWidth_eq]

theorem ptrField_core (x : Word) : BitVec.ofNat 64 (ptrField x.toNat 1) =
    if 1 ≤ (x >>> 60).toNat ∧ (x >>> 60).toNat ≤ 3 then (x >>> 53) &&& 127 else 0 := by
  have hcore : (x >>> 53) &&& 127 = BitVec.ofNat 64 (x.toNat / 2 ^ 53 % 2 ^ 7) := by
    rw [and_lowMask (n := 7) _ _ rfl, BitVec.toNat_ushiftRight, Nat.shiftRight_eq_div_pow]
  rw [hcore, toNat_space, ptrField]
  split <;> rfl

theorem ptrField_offset (x : Word) : BitVec.ofNat 64 (ptrField x.toNat 2) =
    if x >>> 60 = 0 then x &&& (2 ^ 55 - 1) else if x >>> 60 = 4 then x &&& (2 ^ 60 - 1)
    else if (x >>> 60).toNat ≤ 3 then x &&& (2 ^ 23 - 1) else 0 := by
  have hspace (n : Nat) (hn : n < 2 ^ 64) : x >>> 60 = BitVec.ofNat 64 n ↔ ptrSpace x.toNat = n := by
    rw [← BitVec.toNat_inj, toNat_space, BitVec.toNat_ofNat, Nat.mod_eq_of_lt hn]
  rw [and_lowMask (n := 55) x _ rfl, and_lowMask (n := 60) x _ rfl, and_lowMask (n := 23) x _ rfl, toNat_space]
  simp only [show (0 : BitVec 64) = BitVec.ofNat 64 0 from rfl, show (4 : BitVec 64) = BitVec.ofNat 64 4 from rfl,
    hspace 0 (by decide), hspace 4 (by decide), ptrField]
  split
  · rfl
  · split
    · rfl
    · split <;> rfl

theorem ptrField_wellFormed (x : Word) : BitVec.ofNat 64 (ptrField x.toNat 3) = if ptrWellFormed x.toNat then 1 else 0 := by
  rw [ptrField]
  split <;> rfl

/-! ### MKPTR (R104) -/

/-- A fault in the body of an instruction that would retire in sequence. -/
theorem instr_seq_trap {size : Nat} {srcs dsts : List SReg} {pre : X Unit} {b : List Word → X Unit} {s s1 : State} {vs : List Word}
    {t : Trap} (hp : Runs pre s () s) (ht : Taken srcs dsts s vs s1) (hb : Raises (b vs) s1 t none) :
    instr size srcs dsts pre (seqBody b) s = .next (s1.takeFault s.cur t s.curPc false) :=
  instr_trap (k := none) hp ht (raises_bind (k := none) hb)

section
variable {c : Prop} [Decidable c]

theorem runs_faultUnless {α : Type} (h : ¬ c) (code va : Nat) (v : α) (s : State) : Runs (if c then fault code va else pure v) s v s := by
  rw [if_neg h]
  exact runs_pure v s

theorem raises_faultUnless {α : Type} (h : c) (code va : Nat) (v : α) (s : State) :
    Raises (if c then fault code va else pure v) s { code := code, va := BitVec.ofNat 64 va } none := by
  rw [if_pos h]
  exact raises_fault code va s

end

/-- The value of a pointer into the virtual space or of a queue designator. -/
theorem or_space_eq_add {x : Word} (c : Nat) (hx : x.toNat < 2 ^ 60) :
    x ||| BitVec.ofNat 64 (c * 2 ^ 60) = BitVec.ofNat 64 (c * 2 ^ 60 + x.toNat) := by
  apply BitVec.eq_of_toNat_eq
  have h : c * 2 ^ 60 % 2 ^ 64 = 2 ^ 60 * (c % 2 ^ 4) := by omega
  rw [BitVec.toNat_or, BitVec.toNat_ofNat, BitVec.toNat_ofNat, h, Nat.or_comm, ← Nat.two_pow_add_eq_or_of_lt hx]
  omega

theorem makePtr_onChip {sp : Space} (hv : sp ≠ .virt) (hq : sp ≠ .queue) (x y : Nat) : makePtr sp x y =
    if 127 < y || spaceLimit sp.code ≤ x then fault 0x05 x else pure (BitVec.ofNat 64 (sp.code * 2 ^ 60 + y * 2 ^ 53 + x)) := by
  cases sp with
  | virt => exact absurd rfl hv
  | queue => exact absurd rfl hq
  | scratch | acc | weight => rfl

section
variable {s s1 s2 : State} {d a b : SReg} {sp : Space} {srcs : List SReg} {vs : List Word}
  (hs : (if sp = .virt ∨ sp = .queue then [a] else [a, b]) = srcs) (ht : Taken srcs [d] s vs s1)
include hs ht

theorem mkptr_retires {v : Word} (hm : Runs (makePtr sp (arg vs 0).toNat (arg vs 1).toNat) s1 v s1) (hg : Gives d v s1 s2) :
    Retires (.mkptr d a b sp) s s2 := by
  subst hs
  exact (exec_mkptr ..).trans (instr_seq (runs_pure () s) ht (runs_bind hm hg))

theorem mkptr_traps {va : Nat}
    (hm : Raises (makePtr sp (arg vs 0).toNat (arg vs 1).toNat) s1 { code := 0x05, va := BitVec.ofNat 64 va } none) :
    Traps (.mkptr d a b sp) s s1 0x05 va := by
  subst hs
  exact (exec_mkptr ..).trans (instr_seq_trap (runs_pure () s) ht (raises_bind hm))

end

/-- MKPTR of the virtual space and of a queue designator. -/
theorem mkptr_unplaced {s s1 s2 : State} {d a b : SReg} {sp : Space} {x : Word} (hsp : sp = .virt ∨ sp = .queue)
    (ht : Taken [a] [d] s [x] s1) :
    ((sp = .virt → x.toNat < 2 ^ 55) → (sp = .queue → x.toNat < 2 ^ 60) →
      Gives d (x ||| BitVec.ofNat 64 (sp.code * 2 ^ 60)) s1 s2 → Retires (.mkptr d a b sp) s s2)
    ∧ (sp = .virt ∧ 2 ^ 55 ≤ x.toNat ∨ sp = .queue ∧ 2 ^ 60 ≤ x.toNat → Traps (.mkptr d a b sp) s s1 0x05 x.toNat) := by
  have hs : (if sp = .virt ∨ sp = .queue then [a] else [a, b]) = [a] := if_pos hsp
  refine ⟨fun hv hq hg => ?_, ?_⟩
  · rw [or_space_eq_add _ (by rcases hsp with h | h; exacts [Nat.lt_trans (hv h) (by decide), hq h])] at hg
    refine mkptr_retires hs ht ?_ hg
    rcases hsp with rfl | rfl
    · have hx := hv rfl
      rw [Space.code, Nat.zero_mul, Nat.zero_add]
      exact runs_faultUnless (c := x.toNat / 2 ^ 55 ≠ 0) (by omega) ..
    · have hx := hq rfl
      exact runs_faultUnless (c := x.toNat / 2 ^ 60 ≠ 0) (by omega) ..
  · rintro (⟨rfl, hx⟩ | ⟨rfl, hx⟩)
    · exact mkptr_traps hs ht (raises_faultUnless (c := x.toNat / 2 ^ 55 ≠ 0) (by omega) ..)
    · exact mkptr_traps hs ht (raises_faultUnless (c := x.toNat / 2 ^ 60 ≠ 0) (by omega) ..)

/-- MKPTR of the on-chip spaces, with a core id. -/
theorem mkptr_placed {s s1 s2 : State} {d a b : SReg} {sp : Space} {x y : Word} (hsp : sp = .scratch ∨ sp = .acc ∨ sp = .weight)
    (ht : Taken [a, b] [d] s [x, y] s1) :
    (x.toNat < spaceLimit sp.code → y.toNat ≤ 127 → Gives d (BitVec.ofNat 64 (sp.code * 2 ^ 60) + y * 2 ^ 53 + x) s1 s2 →
      Retires (.mkptr d a b sp) s s2)
    ∧ (spaceLimit sp.code ≤ x.toNat ∨ 127 < y.toNat → Traps (.mkptr d a b sp) s s1 0x05 x.toNat) := by
  have hv : sp ≠ .virt := by rintro rfl; simp at hsp
  have hq : sp ≠ .queue := by rintro rfl; simp at hsp
  have hs : (if sp = .virt ∨ sp = .queue then [a] else [a, b]) = [a, b] := if_neg (by simp [hv, hq])
  have hval : BitVec.ofNat 64 (sp.code * 2 ^ 60) + y * 2 ^ 53 + x = BitVec.ofNat 64 (sp.code * 2 ^ 60 + y.toNat * 2 ^ 53 + x.toNat) := by
    simp only [BitVec.ofNat_add, BitVec.ofNat_mul, BitVec.ofNat_toNat, BitVec.setWidth_eq]
    rfl
  refine ⟨fun hx hy hg => mkptr_retires hs ht ?_ (hval ▸ hg), fun h => mkptr_traps hs ht ?_⟩
  · rw [makePtr_onChip hv hq]
    exact runs_faultUnless (by simp [arg]; omega) ..
  · rw [makePtr_onChip hv hq]
    exact raises_faultUnless (by simp [arg]; omega) ..

/-- Settles O2: each value of the model is the statement's, and MKPTR faults where its operands do not fit. -/
theorem immediateResults : Obligations.ImmediateResults := by
  unfold Obligations.ImmediateResults
  refine ⟨fun d a i n v p w => ⟨?_, ?_, ?_, ?_, ?_, ?_, ?_, ?_, ?_, ?_, fun hpw => ⟨?_, ?_⟩, ?_, ?_, ?_, ?_⟩,
    fun d a b s s1 s2 x y sp => ⟨?_, ?_, ?_⟩⟩
  · exact results1_alu1 (exec_addi d a i) fun _ => rfl
  · exact results1_alu1 (exec_andi d a i) fun _ => rfl
  · exact results1_alu1 (exec_ori d a i) fun _ => rfl
  · exact results1_alu1 (exec_xori d a i) fun _ => rfl
  · exact results1_alu1 (exec_slti d a i) fun x => by rw [ofBool_slt, toInt_imm14]
  · exact results1_alu1 (exec_shli d a n) fun _ => rfl
  · exact results1_alu1 (exec_shri d a n) fun _ => rfl
  · exact results1_alu1 (exec_sari d a n) fun _ => rfl
  · exact fun s s1 s2 ht hg => (exec_ldi ..).trans (instr_seq (runs_pure () s) ht hg)
  · exact fun s x s1 s2 ht hg => (exec_ldih ..).trans (instr_seq (runs_pure () s) ht hg)
  · exact results1_alu1 (exec_bfx d a p w) fun x => bitField_eq_mask x (by omega)
  · intro s x old r s1 s2 ht hr hg
    have hval : insertField old x p.toNat (w.toNat + 1) = r := BitVec.eq_of_getLsbD_eq fun j hj => by
      rw [getLsbD_insertField old x hj, hr j hj]
      simp only [show j < p.toNat + (w.toNat + 1) ↔ j ≤ p.toNat + w.toNat by omega]
    subst hval
    exact (exec_bfi ..).trans (instr_seq (runs_pure () s) ht hg)
  · exact results1_alu1 (exec_ptrx d a 0) ptrField_space
  · exact results1_alu1 (exec_ptrx d a 1) ptrField_core
  · exact results1_alu1 (exec_ptrx d a 2) ptrField_offset
  · exact results1_alu1 (exec_ptrx d a 3) ptrField_wellFormed
  · exact mkptr_unplaced
  · rintro (⟨rfl, hx⟩ | ⟨rfl, hx⟩ | ⟨rfl, hx⟩) hy ht hg
    · exact (mkptr_placed (by simp) ht).1 hx hy hg
    · exact (mkptr_placed (by simp) ht).1 hx hy hg
    · exact (mkptr_placed (by simp) ht).1 hx hy hg
  · rintro (⟨rfl, hx⟩ | ⟨rfl, hx⟩ | ⟨rfl, hx⟩ | ⟨hsp, hy⟩) ht
    · exact (mkptr_placed (s2 := s2) (by simp) ht).2 (.inl hx)
    · exact (mkptr_placed (s2 := s2) (by simp) ht).2 (.inl hx)
    · exact (mkptr_placed (s2 := s2) (by simp) ht).2 (.inl hx)
    · exact (mkptr_placed (s2 := s2) hsp ht).2 (.inr hy)

end Sys2Proof.Machine
end

section
/-! PROOFS. Branches, jumps and LOOP (R111 to R114, O9). -/

namespace Sys2Proof.Machine

open Sys2Proof

/-! ### Direct targets and link values (R58, R112) -/

theorem jumpTo_eq_goto {pc : Word} {delta : Int} {word : Fin 16} {n : Nat}
    (h : (n : Int) = (pc.toNat / 64 * 64 : Nat) + 64 * delta + 4 * word.val) (hn : n < 2 ^ 55) : jumpTo pc delta word = .goto n := by
  unfold jumpTo
  rw [← h, if_pos ⟨by omega, by omega⟩]
  rfl

theorem linkValue_of_acts {s : State} {g : Group} {k : Role} (h : Acts s g k) :
    linkValue s = BitVec.ofNat 64 ((nextPc k.line k.pc.toNat 1).getD (k.pc.toNat + 4)) := by
  unfold linkValue
  rw [role_of_acts h]

/-! ### Branches (R111) -/

section
variable {s s1 : State} {g : Group} {k : Role} {a b : SReg} {t : TargetB} {x y : Word} {n : Nat} (h : Acts s g k)
  (hn : (n : Int) = (k.pc.toNat / 64 * 64 : Nat) + 64 * t.delta.toInt + 4 * t.word.val) (hlt : n < 2 ^ 55)

include h hn hlt

/-- An instruction that goes to its direct target where a condition on its sources holds. -/
theorem instr_branches {srcs : List SReg} {vs : List Word} (ht : Taken srcs [] s vs s1) {p : List Word → Prop} [DecidablePred p] {c : Prop}
    (hc : p vs ↔ c) {i : Instr}
    (hi : exec i s = instr 1 srcs [] noPre (fun vs => pure (if p vs then jumpTo s.curPc t.delta.toInt t.word else .seq)) s) :
    (c → exec i s = .next (s1.continue_ 1 (.goto n))) ∧ (¬ c → exec i s = .next (s1.continue_ 1 .seq)) := by
  rw [curPc_of_acts h, jumpTo_eq_goto hn hlt] at hi
  have hnext {f : Flow} (hf : (if p vs then Flow.goto n else .seq) = f) : exec i s = .next (s1.continue_ 1 f) :=
    hi.trans (instr_next (runs_pure () s) ht (by rw [hf]; exact runs_pure f s1))
  exact ⟨fun hp => hnext (if_pos (hc.mpr hp)), fun hp => hnext (if_neg fun hn => hp (hc.mp hn))⟩

/-- A compare branch. -/
theorem branch_goes (ht : Taken [a, b] [] s [x, y] s1) {taken : Word → Word → Bool} {c : Prop} (hc : taken x y = true ↔ c) {i : Instr}
    (hi : exec i s = branch taken a b t s) :
    (c → exec i s = .next (s1.continue_ 1 (.goto n))) ∧ (¬ c → exec i s = .next (s1.continue_ 1 .seq)) :=
  instr_branches h hn hlt ht (p := fun vs => taken (arg vs 0) (arg vs 1) = true) hc hi

end

/-- JR's check of its target's space. -/
theorem runs_inSpace {s : State} {n : Nat} (h : n < 2 ^ 55) : Runs (faultIf (n / 2 ^ 55 != 0) 5 n) s () s := by
  rw [Nat.div_eq_of_lt h]
  exact runs_faultIf ..

/-! ### LOOP (R114) -/

/-- A part of a body that runs is not told apart from its result. -/
theorem runs_attempt {α : Type} {x : X α} {s t : State} {v : α} (h : Runs x s v t) : Runs (attempt x) s (.ok v) t := by
  unfold Runs attempt
  rw [show x s = _ from h]

theorem loopStop_eq {pc : Word} {t : TargetJ} {n : Nat} (h : (n : Int) = (pc.toNat / 64 * 64 : Nat) + 64 * t.delta.toInt + 4 * t.word.val)
    (hn : n < 2 ^ 55) : loopStop pc t = n := by
  unfold loopStop
  rw [← h]
  omega

/-- The way past a body whose last line is in order. -/
theorem runs_loopSkip {w : Who} {k : Role} {stop : Nat} {ws : List Nat} {s s1 : State} (hlt : stop < 2 ^ 55)
    (hown : stop / 64 = k.pc.toNat / 64 → ws = k.line ∧ s1 = s)
    (hother : stop / 64 ≠ k.pc.toNat / 64 → Runs (fetchLine w (stop / 64 * 64)) s ws s1) (hline : lineIllegal ws = false)
    (hword : wordLegal ws (stop % 64 / 4) = true) : Runs (loopSkip w k stop) s (.after ws stop (sizeAt ws stop)) s1 := by
  have hin : (stop / 2 ^ 55 != 0) = false := by simp; omega
  have hform : Runs (do faultIf (lineIllegal ws) 2 (stop / 64 * 64); faultIf (!wordLegal ws (stop % 64 / 4)) 21 0; pure ws) s1 ws s1 := by
    rw [hline, hword]
    exact runs_bind (runs_faultIf ..) (runs_bind (runs_faultIf ..) (runs_pure ws s1))
  refine runs_bind (runs_attempt (v := ws) (t := s1) ?_) (runs_pure _ s1)
  rw [hin]
  refine runs_bind (runs_faultIf ..) ?_
  dsimp only
  split
  case isTrue heq =>
    obtain ⟨rfl, rfl⟩ := hown heq
    exact runs_bind (runs_pure k.line s1) hform
  case isFalse hne => exact runs_bind (hother hne) hform

section
variable {s s1 : State} {g : Group} {k : Role} {c : SReg} {t : TargetJ} {stop : Nat} (h : Acts s g k)
  (hstop : (stop : Int) = (k.pc.toNat / 64 * 64 : Nat) + 64 * t.delta.toInt + 4 * t.word.val) (hlt : stop < 2 ^ 55)
include h hstop hlt

/-- LOOP with a count enters the body. -/
theorem loop_enters {start : Nat} (hp : c.isPort = false) (hc : k.reg c ≠ 0) (hstart : nextPc k.line k.pc.toNat 1 = some start) :
    exec (.loop c t) s = .next ((s.onRole s.cur fun k =>
      { k with loops := (⟨BitVec.ofNat 64 start, BitVec.ofNat 64 stop, c⟩ :: k.loops).take 4 }).continue_ 1 (.after k.line k.pc.toNat 1)) := by
  refine (exec_loop ..).trans (instr_next (vs := []) (s1 := s) (by rw [hp]; exact runs_faultIf ..) (taken_plain h (by simp) (by simp)) ?_)
  refine runs_bind (runs_me h) ?_
  simp only [loopStop_eq hstop hlt, hc, if_false, hstart]
  exact runs_bind (runs_modify _ s) (runs_pure _ _)

/-- LOOP with a count of zero goes past the body. -/
theorem loop_skips {ws : List Nat} (hp : c.isPort = false) (hc : k.reg c = 0) (hown : stop / 64 = k.pc.toNat / 64 → ws = k.line ∧ s1 = s)
    (hother : stop / 64 ≠ k.pc.toNat / 64 → Runs (fetchLine (s.self g) (stop / 64 * 64)) s ws s1) (hline : lineIllegal ws = false)
    (hword : wordLegal ws (stop % 64 / 4) = true) :
    exec (.loop c t) s = .next (s1.continue_ 1 (.after ws stop (wordsOf (ws.getD (stop % 64 / 4) 0)))) := by
  refine (exec_loop ..).trans (instr_next (vs := []) (s1 := s) (by rw [hp]; exact runs_faultIf ..) (taken_plain h (by simp) (by simp)) ?_)
  refine runs_bind (runs_me h) ?_
  simp only [loopStop_eq hstop hlt, hc, if_true]
  exact runs_bind (runs_whoami h) (runs_loopSkip hlt hown hother hline hword)

end

/-- Settles O9: the conditions are the model's comparisons, the targets those of R58, and LOOP's body ends where the statement says. -/
theorem branchJumpLoopResult : Obligations.BranchJumpLoopResult := by
  unfold Obligations.BranchJumpLoopResult
  refine ⟨fun a b t s s1 g k x y n h hn hlt => ⟨fun ht => ⟨?_, ?_, ?_, ?_, ?_, ?_⟩, fun ht => ⟨?_, ?_⟩⟩,
    fun d a t s s1 s2 g k x link n h hlink => ⟨fun hn hlt ht hg => ?_, fun ht => ⟨fun hx => ?_, fun hx hal => ?_, fun hx hal hg => ?_⟩⟩,
    fun c t s s1 g k stop start ws h hstop hlt => ⟨fun hp => ?_, fun hp hc hstart => ?_, fun hp hc hown hother hline hword => ?_⟩⟩
  · exact branch_goes h hn hlt ht (by simp) (exec_beq ..)
  · exact branch_goes h hn hlt ht (by simp) (exec_bne ..)
  · exact branch_goes h hn hlt ht (by simp [BitVec.slt]) (exec_blt ..)
  · exact branch_goes h hn hlt ht (by simp [BitVec.slt]) (exec_bge ..)
  · exact branch_goes h hn hlt ht (by simp [BitVec.ult]) (exec_bltn ..)
  · exact branch_goes h hn hlt ht (by simp [BitVec.ult]) (exec_bgen ..)
  · exact instr_branches h hn hlt ht (p := fun vs => arg vs 0 = 0) Iff.rfl (exec_bz ..)
  · exact instr_branches h hn hlt ht (p := fun vs => arg vs 0 ≠ 0) Iff.rfl (exec_bnz ..)
  · rw [hlink, ← linkValue_of_acts h] at hg
    refine (exec_jl ..).trans (instr_next (runs_pure () s) ht (runs_bind hg ?_))
    rw [curPc_of_acts h, jumpTo_eq_goto hn hlt]
    exact runs_pure _ s2
  · refine (exec_jr ..).trans (instr_trap (k := none) (runs_pure () s) ht ?_)
    have hout : (x.toNat / 2 ^ 55 != 0) = true := by simp; omega
    exact raises_bind (hout ▸ raises_faultIf ..)
  · refine (exec_jr ..).trans (instr_trap (k := none) (runs_pure () s) ht (raises_bind_right (runs_inSpace hx) ?_))
    have hodd : (x.toNat % 4 != 0) = true := by simpa using hal
    exact raises_bind (hodd ▸ raises_faultIf ..)
  · rw [hlink, ← linkValue_of_acts h] at hg
    have heven : (x.toNat % 4 != 0) = false := by simpa using hal
    have halign : Runs (faultIf (x.toNat % 4 != 0) 4 x.toNat) s1 () s1 := heven ▸ runs_faultIf ..
    exact (exec_jr ..).trans
      (instr_next (runs_pure () s) ht (runs_bind (runs_inSpace hx) (runs_bind halign (runs_bind hg (runs_pure _ s2)))))
  · exact (exec_loop ..).trans (instr_trap_pre (k := none) (by rw [hp]; exact raises_faultIf ..))
  · exact loop_enters h hstop hlt hp hc hstart
  · exact loop_skips h hstop hlt hp hc hown hother hline hword

end Sys2Proof.Machine
end

section
/-! PROOFS. A step runs the instruction at the PC (O56). -/

namespace Sys2Proof.Machine

open Sys2Proof

/-! ### The turn of a role -/

section
variable {s u : State} {g : Group} {k : Role} {ws : List Nat} (h : Acts s g k) (hi : s.mayIssue s.cur = true) (he : k.ended = false)
  (ha : Runs arrive s ws u)
include h hi he ha

/-- A role that may issue and whose flow goes on has arrived at an instruction. -/
theorem fetchTurn_of_ok {i : Instr} (hd : decodeAt ws k.pc.toNat = .ok i) : fetchTurn s = .instr i u := by
  obtain ⟨hg, hk⟩ := h
  unfold fetchTurn
  simp only [hg, hk, hi, he, Bool.not_true, Bool.false_eq_true, if_false, show arrive s = .ok (ws, u) from ha, hd]

/-- A role that may issue and whose flow goes on has arrived at words that are no instruction. -/
theorem fetchTurn_of_error {e : DecodeError} (hd : decodeAt ws k.pc.toNat = .error e) :
    fetchTurn s = .over_ (.next (u.takeFault s.cur { code := 0x01, va := 0 } k.pc false)) := by
  obtain ⟨hg, hk⟩ := h
  unfold fetchTurn
  simp only [hg, hk, hi, he, Bool.not_true, Bool.false_eq_true, if_false, show arrive s = .ok (ws, u) from ha, hd]

end

theorem perform_of_instr {s u : State} {r : RoleId} {i : Instr} (h : fetchTurn { s with cur := r } = .instr i u) :
    perform (.role r) s = exec i u := by
  rw [perform, h]

theorem perform_of_over {s : State} {r : RoleId} {o : Host.Outcome State Fault Refusal} (h : fetchTurn { s with cur := r } = .over_ o) :
    perform (.role r) s = o := by
  rw [perform, h]

/-- A step with power that is the turn of a role, by the agenda or by the default order (log 1). -/
theorem step_of_role {s : State} {r : RoleId} {more : List Turn} {o : Host.Outcome State Fault Refusal} (hp : s.power = true)
    (ht : s.agenda = .role r :: more ∨ s.agenda = [] ∧ more = [] ∧ s.defaultTurn = some (.role r))
    (ho : perform (.role r) { s with agenda := more, engineTurn := if s.agenda = [] then !s.engineTurn else s.engineTurn } = o) :
    step s = Outcome.after State.advance o := by
  rw [← ho]
  unfold step
  rcases ht with ha | ⟨ha, rfl, hd⟩
  · rw [ha, if_neg (List.cons_ne_nil _ _)]
    exact congrArg (Outcome.after State.advance) (if_pos hp)
  · rw [if_pos ha, hd, hp, ← ha]
    simp only [ha, Bool.not_true, Bool.false_eq_true, if_false]

/-- Settles O56: the turn of the role is its fetch, the decoded instruction and the clock. -/
theorem stepRunsInstruction : Obligations.StepRunsInstruction := by
  unfold Obligations.StepRunsInstruction
  intro s u r more g k ws hp ht at_ h hi he ha
  have hissue : at_.mayIssue at_.cur = true := hi
  refine ⟨fun i hd => ?_, fun e hd => ?_, fun t => ⟨rfl, rfl, rfl, rfl⟩⟩
  · have hturn : fetchTurn at_ = .instr i u := fetchTurn_of_ok h hissue he ha hd
    exact step_of_role hp ht (perform_of_instr hturn)
  · have hturn : fetchTurn at_ = .over_ (.next (u.takeFault r { code := 0x01, va := 0 } k.pc false)) :=
      fetchTurn_of_error h hissue he ha hd
    have hstep := step_of_role hp ht (perform_of_over hturn)
    exact hstep

end Sys2Proof.Machine
end

section
/-! PROOFS. Scalar operands: plain registers, s0 and role queue ports (R61, R62, R290, O3). -/

namespace Sys2Proof.Machine

open Sys2Proof

/-- The identity as an update of the acting role. -/
theorem State.onRole_self {s : State} {g : Group} {k : Role} (h : Acts s g k) : s.onRole s.cur (fun k => k) = s :=
  State.onGroup_eq_self h (by simp [Group.onRole, Group.role])

/-! ### Operands that do not let an instruction issue (R62) -/

/-- A fault of the operands' checks: nothing has been popped. -/
theorem instr_trap_operands {size : Nat} {srcs dsts : List SReg} {pre : X Unit} {body : List Word → X Flow} {s : State} {t : Trap}
    (hp : Runs pre s () s) (hm : Raises (checkMisuse srcs dsts) s t none) :
    instr size srcs dsts pre body s = .next (s.takeFault s.cur t s.curPc false) := by
  have h : Raises (do pre; checkMisuse srcs dsts; checkRoom dsts; readSrcs srcs) s t none := raises_bind_right hp (raises_bind hm)
  unfold instr
  rw [h]
  rfl

/-- A wait for an operand. -/
theorem instr_wait_operands {size : Nat} {srcs dsts : List SReg} {pre : X Unit} {body : List Word → X Flow} {s : State}
    (hp : Runs pre s () s) (ho : Waits (do checkMisuse srcs dsts; checkRoom dsts; readSrcs srcs) s) :
    instr size srcs dsts pre body s = .next (s.noteWait srcs dsts) := by
  have h : Waits (do pre; checkMisuse srcs dsts; checkRoom dsts; readSrcs srcs) s := waits_bind_right hp ho
  unfold instr
  rw [h]
  rfl

/-! ### The ports of role queues -/

section
variable {p : SReg} {n : Fin 4} (hp : p.val = 60 + n.val)
include hp

theorem isPort_of_roleq : p.isPort = true := by
  simp [SReg.isPort]
  omega

theorem ne_of_roleq {r : SReg} (hr : r.isPort = false) : r ≠ p := by
  rintro rfl
  rw [isPort_of_roleq hp] at hr
  cases hr

theorem portOfReg_of_roleq : (portOfReg p).val = 4 + n.val := by
  simp [portOfReg, hp]
  omega

theorem portUsable_of_roleq (x : RoleKind) (k : Role) (push : Bool) :
    portUsable x k (portOfReg p) push = if push then producer n.val == x else consumer n.val == x := by
  unfold portUsable
  rw [portOfReg_of_roleq hp, if_neg (by omega), show 4 + n.val - 4 = n.val by omega]

theorem portQueue_of_roleq (id : RoleId) (x : CtxId) (k : Role) : portQueue id x k (portOfReg p) = .role id.core id.slot n := by
  unfold portQueue
  rw [portOfReg_of_roleq hp, if_neg (by omega)]
  exact congrArg _ (Fin.ext (by simp))

end

/-! ### A role queue as the second source -/

section
variable {s : State} {g : Group} {k : Role} {d a p : SReg} {n : Fin 4} (h : Acts s g k) (hd : d.isPort = false) (ha : a.isPort = false)
  (hp : p.val = 60 + n.val)
include h hd ha hp

theorem runs_checkMisuse_pop (hc : consumer n.val = s.cur.role) : Runs (checkMisuse [a, p] [d]) s () s := by
  refine runs_bind (runs_me h) ?_
  have hm : misuse s.cur.role k [a, p] [d] = none := by
    simp [misuse, hd, ha, portUsable_of_roleq hp, hc, (ne_of_roleq hp hd).symm]
  dsimp only
  rw [hm]
  exact runs_pure () s

omit hd in
theorem raises_checkMisuse_pop (hc : consumer n.val ≠ s.cur.role) :
    Raises (checkMisuse [a, p] [d]) s { code := 0x0D, va := BitVec.ofNat 64 p.val } none := by
  refine raises_bind_right (runs_me h) ?_
  have hm : misuse s.cur.role k [a, p] [d] = some p := by
    simp [misuse, ha, isPort_of_roleq hp, portUsable_of_roleq hp, hc]
  dsimp only
  rw [hm]
  exact raises_fault ..

/-- The source's value, and the queue without it. -/
theorem taken_pop (hc : consumer n.val = s.cur.role) {v : Word} {rest : List Word} (hq : g.roleq.get n = v :: rest) :
    Taken [a, p] [d] s [k.reg a, v] (s.onGroup s.cur.core s.cur.slot fun x =>
      { x with roleq := x.roleq.set n.val rest n.isLt, roleqMoved := x.roleqMoved.set n.val s.cycle.toNat n.isLt }) := by
  have hpeek : Runs (queuePeek (s.self g) (.role s.cur.core s.cur.slot n)) s v s := by
    refine runs_bind (runs_get s) ?_
    simp only [h.1, show vget g.roleq n = v :: rest from hq]
    exact runs_pure v s
  have hpop : Runs (readSrc p) s v (s.queueDrop (.role s.cur.core s.cur.slot n)) := by
    refine runs_bind (runs_me h) ?_
    simp only [isPort_of_roleq hp, if_true, portQueue_of_roleq hp]
    exact runs_bind hpeek (runs_bind (runs_modify _ s) (runs_pure v _))
  rw [State.onGroup_congr h (f' := fun x =>
    { x with roleq := vset x.roleq n ((vget x.roleq n).drop 1), roleqMoved := vset x.roleqMoved n s.cycle.toNat })
    (by simp [vget, vset, hq])]
  exact runs_bind (runs_checkMisuse_pop h hd ha hp hc) (runs_bind (runs_checkRoom_plain h (by simpa using hd))
    (runs_bind (runs_readSrc_plain h ha) (runs_bind (runs_bind hpop (runs_pure _ _)) (runs_pure _ _))))

theorem waits_pop (hc : consumer n.val = s.cur.role) (hq : g.roleq.get n = []) :
    Waits (do checkMisuse [a, p] [d]; checkRoom [d]; readSrcs [a, p]) s := by
  have hpeek : Waits (queuePeek (s.self g) (.role s.cur.core s.cur.slot n)) s := by
    refine waits_bind_right (runs_get s) ?_
    simp only [h.1, show vget g.roleq n = [] from hq]
    rfl
  have hpop : Waits (readSrc p) s := by
    refine waits_bind_right (runs_me h) ?_
    simp only [isPort_of_roleq hp, if_true, portQueue_of_roleq hp]
    exact waits_bind hpeek
  exact waits_bind_right (runs_checkMisuse_pop h hd ha hp hc) (waits_bind_right (runs_checkRoom_plain h (by simpa using hd))
    (waits_bind_right (runs_readSrc_plain h ha) (waits_bind (waits_bind hpop))))

/-! ### A role queue as the destination -/

theorem runs_checkMisuse_push (hc : producer n.val = s.cur.role) : Runs (checkMisuse [a, d] [p]) s () s := by
  refine runs_bind (runs_me h) ?_
  have hm : misuse s.cur.role k [a, d] [p] = none := by
    simp [misuse, hd, ha, portUsable_of_roleq hp, hc, (ne_of_roleq hp hd).symm, (ne_of_roleq hp ha).symm]
  dsimp only
  rw [hm]
  exact runs_pure () s

theorem raises_checkMisuse_push (hc : producer n.val ≠ s.cur.role) :
    Raises (checkMisuse [a, d] [p]) s { code := 0x0D, va := BitVec.ofNat 64 p.val } none := by
  refine raises_bind_right (runs_me h) ?_
  have hm : misuse s.cur.role k [a, d] [p] = some p := by
    simp [misuse, ha, hd, isPort_of_roleq hp, portUsable_of_roleq hp, hc]
  dsimp only
  rw [hm]
  exact raises_fault ..

end

theorem waitIf_bind_pure (b : Bool) (s : State) : (waitIf b >>= fun _ => pure ()) s = waitIf b s := by
  cases b <;> rfl

/-- What a push waits for: room in its queue, and the matrix results of its role. -/
theorem checkRoom_push {s : State} {g : Group} {k : Role} {p : SReg} {n : Fin 4} (h : Acts s g k) (hp : p.val = 60 + n.val) :
    checkRoom [p] s = waitIf (decide (16 ≤ (g.roleq.get n).length) || s.resultsPending s.cur) s := by
  have hme := runs_me h
  unfold Runs at hme
  unfold checkRoom
  rw [bind_apply, hme]
  show (waitIf (p.isPort && _) >>= fun _ => pure ()) s = _
  rw [isPort_of_roleq hp, portQueue_of_roleq hp]
  simp only [State.queueCap, State.queueLen, h.1]
  exact waitIf_bind_pure ..

section
variable {s : State} {g : Group} {k : Role} {d a p : SReg} {n : Fin 4} (h : Acts s g k) (hd : d.isPort = false) (ha : a.isPort = false)
  (hp : p.val = 60 + n.val) (hc : producer n.val = s.cur.role)
include h hd ha hp hc

theorem taken_push (hlen : (g.roleq.get n).length < 16) (hres : s.resultsPending s.cur = false) :
    Taken [a, d] [p] s [k.reg a, k.reg d] s := by
  have hroom : Runs (checkRoom [p]) s () s := by
    unfold Runs
    rw [checkRoom_push h hp, hres, decide_eq_false (by omega)]
    exact runs_waitIf s
  exact runs_bind (runs_checkMisuse_push h hd ha hp hc) (runs_bind hroom (runs_readSrcs_plain h (by simp [ha, hd])))

theorem waits_push (hb : 16 ≤ (g.roleq.get n).length ∨ s.resultsPending s.cur = true) :
    Waits (do checkMisuse [a, d] [p]; checkRoom [p]; readSrcs [a, d]) s := by
  have hroom : Waits (checkRoom [p]) s := by
    unfold Waits
    rw [checkRoom_push h hp, show (decide (16 ≤ (g.roleq.get n).length) || s.resultsPending s.cur) = true by simpa using hb]
    exact waits_waitIf s
  exact waits_bind_right (runs_checkMisuse_push h hd ha hp hc) (waits_bind hroom)

end

/-- A push appends its value. -/
theorem gives_push {s : State} {g : Group} {k : Role} {p : SReg} {n : Fin 4} (h : Acts s g k) (hp : p.val = 60 + n.val) (v : Word) :
    Gives p v s (s.onGroup s.cur.core s.cur.slot fun x =>
      { x with roleq := x.roleq.set n.val (x.roleq.get n ++ [v]) n.isLt
               roleqMoved := x.roleqMoved.set n.val s.cycle.toNat n.isLt }) := by
  refine runs_bind (runs_me h) ?_
  simp only [isPort_of_roleq hp, if_true, portQueue_of_roleq hp]
  exact runs_bind (runs_get s) (runs_set s _)

/-- Settles O3: plain operands by the rules of O4; a role queue's port by what it is as a source and as a destination. -/
theorem scalarOperands : Obligations.ScalarOperands := by
  unfold Obligations.ScalarOperands
  refine ⟨fun s g k srcs dsts h hs hd => ⟨taken_plain h hs hd, fun d hm v => ?_⟩, fun s g k d a p n h hd ha hp => ⟨?_, ?_, ?_, ?_, ?_, ?_, ?_⟩⟩
  · have hg := gives_plain h (hd d hm) v
    by_cases h0 : d = 0
    · rw [if_pos h0]
      simpa only [Role.setReg, if_pos h0, State.onRole_self h] using hg
    · rw [if_neg h0]
      simp only [Role.setReg, if_neg h0] at hg
      exact hg
  · exact fun hc v rest hq => taken_pop h hd ha hp hc hq
  · exact fun hc hq => (exec_add ..).trans (instr_wait_operands (runs_pure () s) (waits_pop h hd ha hp hc hq))
  · exact fun hc => (exec_add ..).trans (instr_trap_operands (runs_pure () s) (raises_checkMisuse_pop h ha hp hc))
  · exact fun hc hlen hres => ⟨taken_push h hd ha hp hc hlen hres, gives_push h hp⟩
  · exact fun hc hres => (exec_add ..).trans (instr_wait_operands (runs_pure () s) (waits_push h hd ha hp hc (.inr hres)))
  · exact fun hc hlen => (exec_add ..).trans (instr_wait_operands (runs_pure () s) (waits_push h hd ha hp hc (.inl hlen)))
  · exact fun hc => (exec_add ..).trans (instr_trap_operands (runs_pure () s) (raises_checkMisuse_push h hd ha hp hc))

end Sys2Proof.Machine
end

section
/-! PROOFS. The flow of a role, and its arrival at a line (R50 to R58, R114, O10). -/

namespace Sys2Proof.Machine

open Sys2Proof

/-! ### The successor of an instruction (R56) -/

theorem nextPc_in_line {line : List Nat} {pc size : Nat} (h : pc % 64 / 4 + size ≤ linkCount (line.headD 0)) :
    nextPc line pc size = some (pc + 4 * size) := by
  unfold nextPc
  exact if_pos h

theorem linkNext_eq_zero {n : Nat} : linkNext n = 0 ↔ n % 2 ^ 25 = 0 := by
  unfold linkNext linkNext.signedOf25
  rw [show (0 : Int) = (0 : BitVec 25).toInt from rfl, BitVec.toInt_inj, ← BitVec.toNat_inj, BitVec.toNat_ofNat]
  rfl

theorem nextPc_at_end {line : List Nat} {pc size : Nat} (h : linkCount (line.headD 0) < pc % 64 / 4 + size)
    (hn : line.headD 0 % 2 ^ 25 = 0) : nextPc line pc size = none := by
  unfold nextPc
  dsimp only
  rw [if_neg (by omega), if_pos (linkNext_eq_zero.mpr hn)]

theorem nextPc_by_next {line : List Nat} {pc size n : Nat} (h : linkCount (line.headD 0) < pc % 64 / 4 + size)
    (hn : line.headD 0 % 2 ^ 25 ≠ 0) (ht : (n : Int) = (pc / 64 * 64 : Nat) + 64 * linkNext (line.headD 0)) (hlt : n < 2 ^ 55) :
    nextPc line pc size = some (n + 4) := by
  unfold nextPc
  dsimp only
  rw [if_neg (by omega), if_neg (mt linkNext_eq_zero.mp hn), ← ht, if_pos (by simp; omega), Int.toNat_natCast]

/-! ### Retirement (R114) -/

theorem Role.reg_setReg_same (k : Role) {r : SReg} (h : r ≠ 0) (v : Word) : (k.setReg r v).reg r = v := by
  simp [Role.reg, Role.setReg, h]

section
variable {k : Role} {e : LoopEntry} {rest : List LoopEntry} (size : Nat) (hl : k.loops = e :: rest) (hs : e.stop = k.pc)
include hl hs

/-- The end of a body that is not done: back to its start. -/
theorem Role.retire_again (hc : k.reg e.count ≠ 1) : k.retire size = (k.setReg e.count (k.reg e.count - 1)).goto e.start.toNat := by
  have hn : k.reg e.count - 1 ≠ 0 := fun h0 => hc (by bv_omega)
  simp only [Role.retire, hl, hs, if_true, if_pos hn]

/-- The end of a body that is done: the loop is left. -/
theorem Role.retire_last (hc : k.reg e.count = 1) :
    k.retire size = { k.setReg e.count 0 with loops := rest }.follow k.pc.toNat size := by
  have hn : ¬ (1 - 1 : Word) ≠ 0 := by decide
  simp only [Role.retire, hl, hs, hc, if_true, if_neg hn]
  rfl

end

/-- Behind another instruction no loop counts. -/
theorem Role.retire_in_body {k : Role} (size : Nat) (h : k.loops = [] ∨ ∃ e rest, k.loops = e :: rest ∧ e.stop ≠ k.pc) :
    k.retire size = k.follow k.pc.toNat size := by
  rcases h with hl | ⟨e, rest, hl, hs⟩
  · simp only [Role.retire, hl]
  · simp only [Role.retire, hl, if_neg hs]

/-! ### The checks of a line (R53, R55, R57) -/

theorem lineIllegal_eq_false {ws : List Nat} : lineIllegal ws = false ↔
    linkOwner (ws.headD 0) ≤ 4 ∧ linkCount (ws.headD 0) ≠ 0 ∧ ∀ w ∈ ws.drop (linkCount (ws.headD 0) + 1), w = 0 := by
  have howner : linkOwner (ws.headD 0) < 8 := Nat.mod_lt _ (by decide)
  simp only [lineIllegal, Bool.or_eq_false_iff, beq_eq_false_iff_ne, List.any_eq_false, bne_iff_ne, ne_eq, not_not, and_assoc]
  constructor
  · rintro ⟨h5, h6, h7, hc, hz⟩
    exact ⟨by omega, hc, hz⟩
  · rintro ⟨ho, hc, hz⟩
    exact ⟨by omega, by omega, by omega, hc, hz⟩

theorem Group.inSequence_iff {g : Group} : g.inSequence = true ↔ (∃ a b, g.state = .saving a b) ∨ ∃ a m, g.state = .restoring a m := by
  unfold Group.inSequence
  cases g.state <;> simp

theorem ownerOk_iff {r : RoleKind} {seq : Bool} {owner : Nat} : ownerOk r seq owner = true ↔
    (r = .fetch ∧ (owner = 0 ∨ owner = 3)) ∨ (r = .drain ∧ (owner = 2 ∨ owner = 3))
      ∨ (r = .compute ∧ (seq = true ∧ owner = 4 ∨ ¬ seq = true ∧ (owner = 1 ∨ owner = 3))) := by
  cases r <;> cases seq <;> simp [ownerOk]

theorem wordLegal_zero (ws : List Nat) : wordLegal ws 0 = false := rfl

theorem wordLegal_behind {ws : List Nat} {w : Nat} (h : linkCount (ws.headD 0) < w) : wordLegal ws w = false := by
  rw [wordLegal, decide_eq_false (Nat.not_le.mpr h), Bool.and_false, Bool.false_and]

/-! ### Arrival (R80 steps 1 to 3) -/

/-- The checks of a line that the role has in hand, in their order. -/
def arrivalChecks (r : RoleKind) (g : Group) (k : Role) (ws : List Nat) : X Unit := do
  faultIf (lineIllegal ws) 0x02 (k.pc.toNat / 64 * 64)
  faultIf (!ownerOk r g.inSequence (linkOwner (ws.headD 0))) 0x15 0
  faultIf (k.chained && linkOwner (ws.headD 0) != 3) 0x15 0
  faultIf (k.pc.toNat % 4 != 0 || !wordLegal ws (k.pc.toNat % 64 / 4)) 0x15 0

/-- What arrival changes: the role has the line in hand, and the next line is looked for where this one was fetched. -/
def arrived (r : RoleId) (w : Who) (k : Role) (ws : List Nat) (s : State) : State :=
  let s1 := s.onRole r fun k => { k with line := ws, chained := false }
  if k.line.isEmpty then s1.prefetch w ws (k.pc.toNat / 64 * 64) else s1

section
variable {s s1 : State} {g : Group} {k : Role} {ws : List Nat} (h : Acts s g k)
include h

/-- A PC outside the 55-bit space. -/
theorem arrive_outside (hout : 2 ^ 55 ≤ k.pc.toNat) : Raises arrive s { code := 0x15, va := 0 } none := by
  have hd : (k.pc.toNat / 2 ^ 55 != 0) = true := by simp; omega
  exact raises_bind_right (runs_me h) (raises_bind (hd ▸ raises_faultIf ..))

/-- Arrival inside the space is the checks of the line that the role executes or fetches. -/
theorem arrive_of_hand (hin : k.pc.toNat < 2 ^ 55)
    (hand : Runs (if k.line.isEmpty then fetchLine (s.self g) (k.pc.toNat / 64 * 64) else pure k.line) s ws s1) :
    arrive s = (arrivalChecks s.cur.role g k ws >>= fun _ => modify (arrived s.cur (s.self g) k ws) >>= fun _ => pure ws) s1 := by
  have hme : me s = .ok ((s.cur, g, k), s) := runs_me h
  have hspace : faultIf (k.pc.toNat / 2 ^ 55 != 0) 0x15 0 s = .ok ((), s) := by
    rw [Nat.div_eq_of_lt hin]
    rfl
  unfold arrive
  rw [bind_apply, hme]
  dsimp only
  rw [bind_apply, hspace]
  dsimp only
  simp only [arrivalChecks, bind_assoc]
  split at hand
  case isTrue he =>
    have hline : fetchLine ⟨g.ctx, some s.cur.core, some s.cur.slot⟩ (k.pc.toNat / 64 * 64) s = .ok (ws, s1) := hand
    rw [if_pos he, bind_apply, hline]
    rfl
  case isFalse he =>
    have hline : (pure k.line : X (List Nat)) s = .ok (ws, s1) := hand
    rw [if_neg he, bind_apply, hline]
    rfl

/-- A check of the line in hand fails. -/
theorem arrive_raises (hin : k.pc.toNat < 2 ^ 55)
    (hand : Runs (if k.line.isEmpty then fetchLine (s.self g) (k.pc.toNat / 64 * 64) else pure k.line) s ws s1) {t : Trap}
    (hc : Raises (arrivalChecks s.cur.role g k ws) s1 t none) : Raises arrive s t none := by
  unfold Raises
  rw [arrive_of_hand h hin hand]
  exact raises_bind hc

/-- The checks of the line in hand pass. -/
theorem arrive_runs (hin : k.pc.toNat < 2 ^ 55)
    (hand : Runs (if k.line.isEmpty then fetchLine (s.self g) (k.pc.toNat / 64 * 64) else pure k.line) s ws s1)
    (hc : Runs (arrivalChecks s.cur.role g k ws) s1 () s1) : Runs arrive s ws (arrived s.cur (s.self g) k ws s1) := by
  unfold Runs
  rw [arrive_of_hand h hin hand]
  exact runs_bind hc (runs_bind (runs_modify _ s1) (runs_pure ws _))

end

section
variable {r : RoleKind} {g : Group} {k : Role} {ws : List Nat} (s : State)

theorem raises_arrivalChecks_line (hl : lineIllegal ws = true) :
    Raises (arrivalChecks r g k ws) s { code := 0x02, va := BitVec.ofNat 64 (k.pc.toNat / 64 * 64) } none :=
  raises_bind (hl ▸ raises_faultIf ..)

variable (hl : lineIllegal ws = false)
include hl

theorem raises_arrivalChecks_owner (ho : ownerOk r g.inSequence (linkOwner (ws.headD 0)) = false) :
    Raises (arrivalChecks r g k ws) s { code := 0x15, va := 0 } none := by
  unfold arrivalChecks
  rw [hl, ho]
  exact raises_bind_right (runs_faultIf ..) (raises_bind (raises_faultIf ..))

variable (ho : ownerOk r g.inSequence (linkOwner (ws.headD 0)) = true)
include ho

theorem raises_arrivalChecks_chained (hc : k.chained = true) (h3 : linkOwner (ws.headD 0) ≠ 3) :
    Raises (arrivalChecks r g k ws) s { code := 0x15, va := 0 } none := by
  unfold arrivalChecks
  rw [hl, ho, hc, bne_iff_ne.mpr h3]
  exact raises_bind_right (runs_faultIf ..) (raises_bind_right (runs_faultIf ..) (raises_bind (raises_faultIf ..)))

variable (hc : k.chained = true → linkOwner (ws.headD 0) = 3)
include hc

/-- Past the checks of the line, the word decides. -/
theorem arrivalChecks_word : arrivalChecks r g k ws s = faultIf (k.pc.toNat % 4 != 0 || !wordLegal ws (k.pc.toNat % 64 / 4)) 0x15 0 s := by
  have hch : (k.chained && linkOwner (ws.headD 0) != 3) = false := by
    rw [Bool.and_eq_false_iff, bne_eq_false_iff_eq]
    cases hk : k.chained
    · exact .inl rfl
    · exact .inr (hc hk)
  unfold arrivalChecks
  rw [hl, ho, hch]
  rfl

theorem raises_arrivalChecks_word (hw : k.pc.toNat % 4 ≠ 0 ∨ wordLegal ws (k.pc.toNat % 64 / 4) = false) :
    Raises (arrivalChecks r g k ws) s { code := 0x15, va := 0 } none := by
  unfold Raises
  rw [arrivalChecks_word s hl ho hc, show (k.pc.toNat % 4 != 0 || !wordLegal ws (k.pc.toNat % 64 / 4)) = true by simpa using hw]
  exact raises_faultIf ..

theorem runs_arrivalChecks (ha : k.pc.toNat % 4 = 0) (hw : wordLegal ws (k.pc.toNat % 64 / 4) = true) :
    Runs (arrivalChecks r g k ws) s () s := by
  unfold Runs
  rw [arrivalChecks_word s hl ho hc, ha, hw]
  exact runs_faultIf ..

end

/-- A role that has a line in hand fetches none. -/
theorem runs_lineInHand {k : Role} {w : Who} {va : Nat} (hl : k.line ≠ []) (s : State) :
    Runs (if k.line.isEmpty then fetchLine w va else pure k.line) s k.line s := by
  rw [if_neg (by simpa using hl)]
  exact runs_pure k.line s

/-- Settles O10: retirement by the place of the instruction in its loop's body, arrival by the checks in their order. -/
theorem roleFlow : Obligations.RoleFlow := by
  unfold Obligations.RoleFlow
  refine ⟨fun k size e rest => ⟨nextPc_in_line, nextPc_at_end, fun n => nextPc_by_next, fun hl hs hc h0 => ?_, fun hl hs hc => ?_,
    fun hl => ?_⟩, ?_⟩
  · rw [Role.retire_again size hl hs hc]
    exact ⟨rfl, Role.setReg_loops .., Role.reg_setReg_same k h0 _⟩
  · have h0 : e.count ≠ 0 := fun h0 => by simp [Role.reg, h0] at hc
    rw [Role.retire_last size hl hs hc]
    refine ⟨Role.follow_loops .., ?_⟩
    rw [Role.reg, Role.follow_regs]
    exact Role.reg_setReg_same k h0 0
  · rw [Role.retire_in_body size hl]
    exact ⟨Role.follow_loops .., Role.follow_regs ..⟩
  intro s g k ws pc h hws hne hpc link owner count seq owned legal
  subst hws hpc
  have hlegal : legal ↔ lineIllegal k.line = false := lineIllegal_eq_false.symm
  have howned : owned ↔ ownerOk s.cur.role g.inSequence owner = true := by
    rw [ownerOk_iff, Group.inSequence_iff]
  have hand := runs_lineInHand (w := s.self g) (va := k.pc.toNat / 64 * 64) hne s
  rw [hlegal, howned, Bool.not_eq_true, Bool.not_eq_false]
  refine ⟨arrive_outside h, fun hin hl => arrive_raises h hin hand (raises_arrivalChecks_line s hl),
    fun hin hl => ⟨fun ho => arrive_raises h hin hand (raises_arrivalChecks_owner s hl ho),
      fun ho hc h3 => arrive_raises h hin hand (raises_arrivalChecks_chained s hl ho hc h3),
      fun ho hc => ⟨fun hw => arrive_raises h hin hand (raises_arrivalChecks_word s hl ho hc hw), fun ha hw => ?_⟩⟩,
    wordLegal_zero _, fun w => wordLegal_behind⟩
  have hrun := arrive_runs h hin hand (runs_arrivalChecks s hl ho hc ha hw)
  simpa only [arrived, if_neg (show ¬ k.line.isEmpty = true by simpa using hne)] using hrun

end Sys2Proof.Machine
end

section
/-! PROOFS. Translation through a TLB entry, and what a line holds (R349 to R353, R457, O8). -/

namespace Sys2Proof.Machine

open Sys2Proof

/-! ### Translation through a TLB entry (R349, R350, R353) -/

section
variable {s : State} {w : Who} {c : CoreId} {va : Nat} {a : Acc} {e : TlbEntry} (hc : w.core = some c)
  (he : (s.core c).tlb.find? (fun x => x.holds w.ctx va) = some e)
include hc he

theorem tlbFind_of_core : s.tlbFind w va = some e := by
  simp only [State.tlbFind, hc, he]

variable (hr : s.regionOk e.leaf va = true)
include hr

theorem raises_leafOf_hit (hg : grants e.leaf a = false) :
    Raises (leafOf w va a) s { code := 0x07, va := BitVec.ofNat 64 va } none := by
  refine raises_bind_right (runs_get s) ?_
  simp only [tlbFind_of_core hc he, hr, hg]
  exact raises_bind_right (runs_faultIf ..) (raises_bind (raises_faultIf ..))

theorem runs_leafOf_hit (hg : grants e.leaf a = true) : Runs (leafOf w va a) s e.leaf (s.tlbUse w.core e) := by
  refine runs_bind (runs_get s) ?_
  simp only [tlbFind_of_core hc he, hr, hg]
  exact runs_bind (runs_faultIf ..) (runs_bind (runs_faultIf ..) (runs_bind (runs_set s _) (runs_pure ..)))

end

/-- The use of an entry changes the order of TLBs, and nothing else. -/
theorem State.tlbUse_frame (s : State) (core : Option CoreId) (e : TlbEntry) :
    ∃ cs ds, s.tlbUse core e = { s with cores := cs, dieTlb := ds } := by
  unfold State.tlbUse
  split
  · exact ⟨_, _, rfl⟩
  · split
    · exact ⟨_, _, rfl⟩
    · exact ⟨_, _, rfl⟩

theorem leafAddr_eq (f va : Nat) : leafAddr f va =
    if f / 2 ^ 10 % 2 = 1 then f / 2 ^ 16 % 2 ^ 36 * 2 ^ 16 / 2 ^ 21 * 2 ^ 21 + va % 2 ^ 21
    else f / 2 ^ 16 % 2 ^ 36 * 2 ^ 16 + va % 2 ^ 16 := by
  simp only [leafAddr, lbit, leafPa, beq_iff_eq]

/-! ### What a line holds (R457) -/

section
variable {s s1 s2 : State} {w : Who} {va : Nat}

theorem runs_fetchLine_held {ws : List Nat} (h : s.lineHeld w va = some ws) : Runs (fetchLine w va) s ws (s.lineFill w va ws) := by
  refine runs_bind (runs_get s) ?_
  simp only [h]
  exact runs_bind (runs_set s _) (runs_pure ws _)

variable {x : Xlat} {r : List Byte × Bool} (hva : va < 2 ^ 55) (h : s.lineHeld w va = none) (ht : Runs (translate w va .fetch) s x s1)
  (hr : Runs (physRead (s1.leafKeyRef x.leaf) (leafC x.leaf) va x.pa 64) s1 r s2)
include hva h ht hr

theorem raises_fetchLine_lost (hl : (r.2 || lbit x.leaf 11) = true) :
    Raises (fetchLine w va) s { code := 0x08, va := BitVec.ofNat 64 va } none := by
  refine raises_bind_right (runs_get s) ?_
  simp only [h, Nat.div_eq_of_lt hva]
  refine raises_bind_right (runs_faultIf ..) (raises_bind_right ht (raises_bind_right (runs_get s1) (raises_bind_right hr ?_)))
  rw [hl]
  exact raises_bind (raises_faultIf ..)

theorem runs_fetchLine (hl : (r.2 || lbit x.leaf 11) = false) :
    Runs (fetchLine w va) s (lineWords r.1) (s2.lineFill w va (lineWords r.1)) := by
  refine runs_bind (runs_get s) ?_
  simp only [h, Nat.div_eq_of_lt hva]
  refine runs_bind (runs_faultIf ..) (runs_bind ht (runs_bind (runs_get s1) (runs_bind hr ?_)))
  rw [hl]
  exact runs_bind (runs_faultIf ..) (runs_bind (runs_modify _ s2) (runs_pure ..))

end

/-- A line entered into the buffer is held. -/
theorem State.lineHeld_lineFill (s : State) {w : Who} {c : CoreId} (hc : w.core = some c) (va : Nat) (ws : List Nat) :
    (s.lineFill w va ws).lineHeld w va = some ws := by
  simp [State.lineFill, State.lineHeld, hc, State.onCore, State.core, linePut]

/-- Settles O8: a hit is checked for its region and its permission before it is used; a line comes from the buffer or from memory. -/
theorem translationAndFetch : Obligations.TranslationAndFetch := by
  unfold Obligations.TranslationAndFetch
  refine ⟨fun s w c va a e hc he hr hb => ⟨fun hg => raises_bind (raises_leafOf_hit hc he hr hg), fun hg => ?_⟩,
    fun s s1 s2 w c va x r hc hva => ⟨fun ws => runs_fetchLine_held, fun h ht hr => ⟨fun hl => ?_, fun h2 h11 => ?_⟩,
      s.lineHeld_lineFill hc va⟩⟩
  · obtain ⟨cs, ds, hu⟩ := s.tlbUse_frame w.core e
    refine ⟨s.tlbUse w.core e, by rw [hu], by rw [hu], ?_⟩
    rw [← leafAddr_eq]
    refine runs_bind (runs_leafOf_hit hc he hr hg) (runs_bind (runs_get _) ?_)
    have hbuf : (s.tlbUse w.core e).bufOf w.ctx va = none := by rw [hu]; exact hb
    simp only [State.placeIn, hbuf]
    exact runs_pure ..
  · exact raises_fetchLine_lost hva h ht hr (by simpa [lbit] using hl)
  · exact runs_fetchLine hva h ht hr (by simpa [lbit, h2] using h11)

end Sys2Proof.Machine
end

section
/-! PROOFS. Vector registers: the bounds check, and where results stand (R64, R81, R126, R131, O17). -/

namespace Sys2Proof.Machine

open Sys2Proof

/-! ### The register check (R64) -/

/-- The lowest register of the fields at or beyond the allocation is raised. -/
theorem raises_needRows {s : State} {g : Group} {k : Role} {fields : List (Nat × Nat)} {v : Nat} (h : Acts s g k) (hv : g.rows ≤ v)
    (hm : ∃ f ∈ fields, f.1 ≤ v ∧ v < f.1 + f.2)
    (hmin : ∀ u, g.rows ≤ u → (∃ f ∈ fields, f.1 ≤ u ∧ u < f.1 + f.2) → v ≤ u) :
    Raises (needRows fields) s { code := 0x16, va := BitVec.ofNat 64 v } none := by
  refine raises_bind_right (runs_me h) ?_
  dsimp only
  generalize hbad : (fields.filterMap fun f => if g.rows < f.1 + f.2 && f.2 != 0 then some (max f.1 g.rows) else none) = bad
  have hmem (u : Nat) : u ∈ bad ↔ ∃ f ∈ fields, (g.rows < f.1 + f.2 ∧ f.2 ≠ 0) ∧ max f.1 g.rows = u := by
    simp [← hbad, List.mem_filterMap]
  have hlow : bad.min? = some v := by
    rw [List.min?_eq_some_iff]
    constructor
    · obtain ⟨f, hf, hlo, hhi⟩ := hm
      have := hmin (max f.1 g.rows) (by omega) ⟨f, hf, by omega, by omega⟩
      exact (hmem v).mpr ⟨f, hf, by omega, by omega⟩
    · intro u hu
      obtain ⟨f, hf, hr, rfl⟩ := (hmem u).mp hu
      exact hmin _ (by omega) ⟨f, hf, by omega, by omega⟩
  cases bad with
  | nil => cases hlow
  | cons x r =>
    obtain rfl : r.foldl min x = v := Option.some.inj hlow
    exact raises_fault ..

/-- The frame of a vector instruction checks its fields. -/
theorem boundsChecked_of_instr {i : Instr} {fields : List (Nat × Nat)} {srcs : List SReg} {body : List Word → X Flow}
    (hi : ∀ s, exec i s = instr 2 srcs [] (needRows fields) body s) : BoundsChecked i fields := by
  intro s g k v h hv hm hmin
  exact (hi s).trans (instr_trap_pre (raises_needRows h hv hm hmin))

section
variable {i : Instr} {o : VOp}

theorem vecElem_boundsChecked {f : VFn} {signed imm : Bool} (hi : ∀ s, exec i s = vecElem f signed imm o s) :
    BoundsChecked i ([(o.d.val, o.len.val), (o.a.val, o.len.val)] ++ vecBRows o) := boundsChecked_of_instr hi

theorem vecUnary_boundsChecked {f : Nat → Nat × Flags} (hi : ∀ s, exec i s = vecUnary f o s) :
    BoundsChecked i [(o.d.val, o.len.val), (o.a.val, o.len.val)] := boundsChecked_of_instr hi

theorem vecFill_boundsChecked {f : List Word → Nat → Nat × Flags} (hi : ∀ s, exec i s = vecFill o f s) :
    BoundsChecked i [(o.d.val, o.len.val)] := boundsChecked_of_instr hi

theorem vecReduce_boundsChecked {f : List Nat → Nat × Flags} (hi : ∀ s, exec i s = vecReduce f o s) :
    BoundsChecked i [(o.d.val, 1), (o.a.val, o.len.val)] := boundsChecked_of_instr hi

end

theorem vector_boundsChecked (o : VOp) (v : VMOp) :
    let two := [(o.d.val, o.len.val), (o.a.val, o.len.val)]
    let wide := o.len.val * (256 / max o.ty.laneBytes o.ty2.laneBytes)
    (∀ i ∈ [Instr.vadd o, .vsub o, .vmul o, .vfma o, .vfms o, .vmax o, .vmin o, .vscl o, .vand o, .vor o, .vxor o, .vshl o, .vshr o, .vsar o,
        .vcmpeq o, .vcmplt o, .vcmple o, .vsel o, .vclamp o, .vperm o], BoundsChecked i (two ++ vecBRows o))
    ∧ (∀ i ∈ [Instr.vabs o, .vneg o, .vmov o, .vexp2 o, .vlog2 o, .vrcp o, .vrsq o, .vsqrt o, .vtanh o, .vsigm o, .vscan o, .vbcast o],
        BoundsChecked i two)
    ∧ (∀ i ∈ [Instr.vsplat o, .viota o], BoundsChecked i [(o.d.val, o.len.val)])
    ∧ (∀ i ∈ [Instr.vredsum o, .vredmax o, .vredmin o], BoundsChecked i [(o.d.val, 1), (o.a.val, o.len.val)])
    ∧ BoundsChecked (.vcvt o) [(o.d.val, (wide * o.ty.laneBytes + 255) / 256), (o.a.val, (wide * o.ty2.laneBytes + 255) / 256)]
    ∧ (∀ i ∈ [Instr.vld v, .vst v, .vlds v, .vsts v, .vpack v, .vunpk v], BoundsChecked i [(v.d.val, v.len.val)])
    ∧ (∀ i ∈ [Instr.vgath v, .vscat v], BoundsChecked i (gathRows v)) := by
  intro two wide
  simp only [List.forall_mem_cons, List.not_mem_nil, false_implies, implies_true, and_true]
  exact ⟨⟨vecElem_boundsChecked (exec_vadd o), vecElem_boundsChecked (exec_vsub o), vecElem_boundsChecked (exec_vmul o),
    vecElem_boundsChecked (exec_vfma o), vecElem_boundsChecked (exec_vfms o), vecElem_boundsChecked (exec_vmax o),
    vecElem_boundsChecked (exec_vmin o), vecElem_boundsChecked (exec_vscl o), vecElem_boundsChecked (exec_vand o),
    vecElem_boundsChecked (exec_vor o), vecElem_boundsChecked (exec_vxor o), vecElem_boundsChecked (exec_vshl o),
    vecElem_boundsChecked (exec_vshr o), vecElem_boundsChecked (exec_vsar o), vecElem_boundsChecked (exec_vcmpeq o),
    vecElem_boundsChecked (exec_vcmplt o), vecElem_boundsChecked (exec_vcmple o), vecElem_boundsChecked (exec_vsel o),
    vecElem_boundsChecked (exec_vclamp o), boundsChecked_of_instr (exec_vperm o)⟩,
    ⟨vecUnary_boundsChecked (exec_vabs o), vecUnary_boundsChecked (exec_vneg o), vecUnary_boundsChecked (exec_vmov o),
    vecUnary_boundsChecked (exec_vexp2 o), vecUnary_boundsChecked (exec_vlog2 o), vecUnary_boundsChecked (exec_vrcp o),
    vecUnary_boundsChecked (exec_vrsq o), vecUnary_boundsChecked (exec_vsqrt o), vecUnary_boundsChecked (exec_vtanh o),
    vecUnary_boundsChecked (exec_vsigm o), boundsChecked_of_instr (exec_vscan o), boundsChecked_of_instr (exec_vbcast o)⟩,
    ⟨vecFill_boundsChecked (exec_vsplat o), vecFill_boundsChecked (exec_viota o)⟩, ⟨vecReduce_boundsChecked (exec_vredsum o),
    vecReduce_boundsChecked (exec_vredmax o), vecReduce_boundsChecked (exec_vredmin o)⟩,
    boundsChecked_of_instr (exec_vcvt o), ⟨boundsChecked_of_instr (exec_vld v), boundsChecked_of_instr (exec_vst v),
    boundsChecked_of_instr (exec_vlds v), boundsChecked_of_instr (exec_vsts v), boundsChecked_of_instr (exec_vpack v),
    boundsChecked_of_instr (exec_vunpk v)⟩,
    ⟨boundsChecked_of_instr (exec_vgath v), boundsChecked_of_instr (exec_vscat v)⟩⟩

/-! ### Bytes of numbers (R4) -/

@[simp] theorem leBytes_length (n v : Nat) : (leBytes n v).length = n := by
  induction n generalizing v with
  | zero => rfl
  | succ n ih => simp [leBytes, ih]

theorem leNat_leBytes (n v : Nat) : leNat (leBytes n v) = v % 2 ^ (8 * n) := by
  induction n generalizing v with
  | zero => simp [leBytes, leNat, Nat.mod_one]
  | succ n ih =>
    simp only [leBytes, leNat, ih, BitVec.toNat_ofNat]
    rw [show 8 * (n + 1) = 8 + 8 * n by omega, Nat.pow_add, Nat.mod_mul]

/-- One of the equal parts of a list. -/
theorem take_drop_flatMap {α β : Type} {f : α → List β} {m : Nat} (hf : ∀ x, (f x).length = m) {xs : List α} {i : Nat} (h : i < xs.length) :
    ((xs.flatMap f).drop (i * m)).take m = f xs[i] := by
  induction xs generalizing i with
  | nil => cases h
  | cons x xs ih =>
    cases i with
    | zero => simp [hf x]
    | succ i =>
      have hdrop : (f x ++ xs.flatMap f).drop ((i + 1) * m) = (xs.flatMap f).drop (i * m) := by
        rw [Nat.succ_mul, Nat.add_comm, ← List.drop_drop, ← hf x, List.drop_left]
      simpa [hdrop] using ih (Nat.lt_of_succ_lt_succ h)

theorem length_flatMap_leBytes (n : Nat) (xs : List Nat) : (xs.flatMap (leBytes n)).length = xs.length * n := by
  induction xs with
  | nil => simp
  | cons x xs ih => simp [ih, Nat.succ_mul, Nat.add_comm]

/-! ### Lanes (R126) -/

theorem getD_lanesOf {k n i : Nat} {bs : List Byte} (h : i < n) : (lanesOf k n bs).getD i 0 = leNat ((bs.drop (i * k)).take k) := by
  induction n generalizing i bs with
  | zero => cases h
  | succ n ih =>
    cases i with
    | zero => simp [lanesOf]
    | succ i =>
      rw [lanesOf, List.getD_cons_succ, ih (Nat.lt_of_succ_lt_succ h), List.drop_drop, Nat.succ_mul, Nat.add_comm k]

/-- Bytes inside a range. -/
theorem State.bytesAt_inside (s : State) (k : Nat) {n off m : Nat} (h : off + m ≤ n) :
    ((s.bytesAt k n).drop off).take m = s.bytesAt (k + off) m := by
  rw [State.bytesAt_eq_map, State.bytesAt_eq_map]
  apply List.ext_getElem
  · simp; omega
  · intro i h1 h2
    simp [Nat.add_assoc]

/-- A lane is the number of its bytes. -/
theorem State.getD_lanes (s : State) (g : Group) (v : Nat) {n i : Nat} (t : ElemTy) (h : i < n) :
    (s.lanes g v n t).getD i 0 = leNat (s.bytesAt (rowKeyOf s.cur.core g v + i * t.laneBytes) t.laneBytes) := by
  have hin : i * t.laneBytes + t.laneBytes ≤ n * t.laneBytes := by
    rw [← Nat.succ_mul]
    exact Nat.mul_le_mul_right _ h
  rw [State.lanes, getD_lanesOf h, State.bytesAt_inside _ _ hin]

/-! ### Writing a run of an on-chip space (R361) -/

/-- Bytes in parts. -/
theorem memWrite_append (os : List Opened) (m : List Host.Cell) (k : Nat) (xs ys : List Byte) :
    memWrite os m k (xs ++ ys) = memWrite os (memWrite os m k xs) (k + xs.length) ys := by
  induction xs generalizing m k with
  | nil => rfl
  | cons x xs ih => simp [memWrite, ih, Nat.add_assoc, Nat.add_comm 1]

theorem State.putBytes_append (s : State) (k : Nat) (xs ys : List Byte) :
    s.putBytes k (xs ++ ys) = (s.putBytes k xs).putBytes (k + xs.length) ys :=
  congrArg (fun m => { s with mem := m }) (memWrite_append ..)

theorem State.chipWriteGranule_clean {s : State} {k : Nat} (bs : List Byte) (h : k / 64 ∉ s.poison) :
    s.chipWriteGranule k bs = s.putBytes k bs := by
  have hp : s.isPoison (k / 64) = false := by simpa [State.isPoison] using h
  have hd : s.dropPoison (k / 64) = s := by
    have hf : s.poison.filter (· != k / 64) = s.poison :=
      List.filter_eq_self.mpr fun q hq => bne_iff_ne.mpr fun e => h (e ▸ hq)
    unfold State.dropPoison
    rw [hf]
  rw [State.chipWriteGranule, hp, Bool.and_false, hd]
  rfl

/-- The granules of a run in turn are the run, where none of them is lost. -/
theorem foldl_piecesAux_clean {f k : Nat} {bs : List Byte} {s : State} (hf : bs.length + k % 64 ≤ 64 * f)
    (h : ∀ q ∈ s.poison, q < k / 64 ∨ k + bs.length ≤ 64 * q) :
    (piecesAux 64 f k bs).foldl (fun t p => t.chipWriteGranule p.1 p.2) s = s.putBytes k bs := by
  induction f generalizing k bs s with
  | zero =>
    obtain rfl : bs = [] := List.eq_nil_of_length_eq_zero (by omega)
    rfl
  | succ f ih =>
    cases bs with
    | nil => rfl
    | cons b bs =>
      have hlost : k / 64 ∉ s.poison := fun hq => by
        have := h _ hq
        simp only [List.length_cons] at this
        omega
      simp only [piecesAux, List.foldl_cons]
      rw [State.chipWriteGranule_clean _ hlost]
      generalize b :: bs = xs at *
      rw [ih (by simp; omega) (fun q hq => by have := h q hq; simp; omega)]
      by_cases hlen : xs.length ≤ 64 - k % 64
      · rw [List.take_of_length_le hlen, List.drop_of_length_le hlen]
        rfl
      · have htake : (xs.take (64 - k % 64)).length = 64 - k % 64 := by simp; omega
        have happ := s.putBytes_append k (xs.take (64 - k % 64)) (xs.drop (64 - k % 64))
        rw [htake, List.take_append_drop] at happ
        exact happ.symm

/-- A run in which no granule is lost is written as it is. -/
theorem State.chipWrite_clean {s : State} {k : Nat} {bs : List Byte} (h : ∀ q ∈ s.poison, q < k / 64 ∨ k + bs.length ≤ 64 * q) :
    s.chipWrite k bs = s.putBytes k bs :=
  foldl_piecesAux_clean (by omega) h

/-! ### The results of a vector instruction (R131) -/

theorem laneBytes_cases (t : ElemTy) : t.laneBytes = 1 ∨ t.laneBytes = 2 ∨ t.laneBytes = 4 := by
  cases t <;> decide

theorem laneBits_eq (t : ElemTy) : t.laneBits = 8 * t.laneBytes := by
  cases t <;> rfl

/-- The lanes of a register group fill it. -/
theorem vecLen_mul (o : VOp) : vecLen o * o.ty.laneBytes = o.len.val * 256 := by
  unfold vecLen
  rcases laneBytes_cases o.ty with h | h | h <;> rw [h] <;> omega

theorem rowKeyOf_add (c : CoreId) (g : Group) (v n : Nat) : rowKeyOf c g (v + n) = rowKeyOf c g v + n * 256 := by
  unfold rowKeyOf onChipKey
  omega

theorem rowKeyOf_aligned (c : CoreId) (g : Group) (v : Nat) : rowKeyOf c g v % 64 = 0 := by
  unfold rowKeyOf onChipKey
  omega

/-- What the write-back stores from the first lane on: the results, and with z zeros behind them. -/
def backLanes (o : VOp) (rs : List (Nat × Flags)) : List Nat :=
  rs.map Prod.fst ++ if o.z then List.replicate (vecLen o - rs.length) 0 else []

section
variable {s t : State} {g : Group} {k : Role} {o : VOp} {rs : List (Nat × Flags)} (h : Acts s g k) (hlen : rs.length ≤ vecLen o)

include hlen in
theorem length_backLanes : (backLanes o rs).length = if o.z then vecLen o else rs.length := by
  unfold backLanes
  split
  · simp; omega
  · simp

include hlen in
theorem length_backLanes_le : (backLanes o rs).length ≤ vecLen o := by
  rw [length_backLanes hlen]
  split <;> omega

variable (hp : ∀ q ∈ s.poison, q < rowKeyOf s.cur.core g o.d.val / 64 ∨ rowKeyOf s.cur.core g (o.d.val + o.len.val) / 64 ≤ q)
include hp

/-- A run of lanes inside a register group of which nothing is lost. -/
theorem chipWrite_lanes {i : Nat} {xs : List Nat} (hn : i + xs.length ≤ vecLen o) :
    s.chipWrite (rowKeyOf s.cur.core g o.d.val + i * o.ty.laneBytes) (xs.flatMap (leBytes o.ty.laneBytes))
      = s.putBytes (rowKeyOf s.cur.core g o.d.val + i * o.ty.laneBytes) (xs.flatMap (leBytes o.ty.laneBytes)) := by
  refine State.chipWrite_clean fun q hq => ?_
  have hfit : i * o.ty.laneBytes + xs.length * o.ty.laneBytes ≤ o.len.val * 256 := by
    rw [← vecLen_mul, ← Nat.add_mul]
    exact Nat.mul_le_mul_right _ hn
  have hend := rowKeyOf_add s.cur.core g o.d.val o.len.val
  have halign := rowKeyOf_aligned s.cur.core g o.d.val
  have hq := hp q hq
  rw [length_flatMap_leBytes]
  omega

include h

theorem runs_writeElems {i : Nat} {xs : List Nat} (hn : i + xs.length ≤ vecLen o) : Runs (writeElems o.d.val i o.ty xs) s ()
    (s.putBytes (rowKeyOf s.cur.core g o.d.val + i * o.ty.laneBytes) (xs.flatMap (leBytes o.ty.laneBytes))) := by
  rw [← chipWrite_lanes hp hn]
  exact runs_bind (runs_me h) (runs_modify _ s)

include hlen

/-- The write-back is one run of lanes. -/
theorem runs_vecWriteBack : Runs (vecWriteBack o rs) s ()
    (s.putBytes (rowKeyOf s.cur.core g o.d.val) ((backLanes o rs).flatMap (leBytes o.ty.laneBytes))) := by
  have hfirst := runs_writeElems h hp (i := 0) (xs := rs.map Prod.fst) (by simpa using hlen)
  rw [Nat.zero_mul, Nat.add_zero] at hfirst
  refine runs_bind hfirst ?_
  unfold backLanes
  split
  case isTrue hz =>
    have hsecond := runs_writeElems (s := s.putBytes (rowKeyOf s.cur.core g o.d.val) ((rs.map Prod.fst).flatMap (leBytes o.ty.laneBytes)))
      (o := o) (i := rs.length) (xs := List.replicate (vecLen o - rs.length) 0) h hp (by simp; omega)
    rw [List.flatMap_append, State.putBytes_append, length_flatMap_leBytes, List.length_map]
    exact hsecond
  case isFalse hz =>
    rw [List.append_nil]
    exact runs_pure ..

end

/-! ### What reads back -/

section
variable {s : State} {g : Group} {v n : Nat} {t : ElemTy} {xs : List Nat}

/-- A lane that was written. -/
theorem getD_lanes_written (hm : s.MemOk) (hn : xs.length ≤ n) {i : Nat} (hi : i < xs.length) :
    ((s.putBytes (rowKeyOf s.cur.core g v) (xs.flatMap (leBytes t.laneBytes))).lanes g v n t).getD i 0 = xs[i] % 2 ^ t.laneBits := by
  have hin : i * t.laneBytes + t.laneBytes ≤ (xs.flatMap (leBytes t.laneBytes)).length := by
    rw [length_flatMap_leBytes, ← Nat.succ_mul]
    exact Nat.mul_le_mul_right _ hi
  rw [State.getD_lanes _ _ _ _ (by omega), laneBits_eq, ← leNat_leBytes, ← State.bytesAt_inside _ _ hin,
    State.putBytes_cur, State.bytesAt_putBytes_same _ _ hm, take_drop_flatMap (leBytes_length _) hi]

/-- A lane behind those that were written. -/
theorem getD_lanes_kept {i : Nat} (hi : xs.length ≤ i) (hn : i < n) :
    ((s.putBytes (rowKeyOf s.cur.core g v) (xs.flatMap (leBytes t.laneBytes))).lanes g v n t).getD i 0 = (s.lanes g v n t).getD i 0 := by
  have hbehind := Nat.mul_le_mul_right t.laneBytes hi
  rw [State.getD_lanes _ _ _ _ hn, State.getD_lanes _ _ _ _ hn, State.bytesAt_eq_map, State.bytesAt_eq_map, State.putBytes_cur]
  refine congrArg leNat (List.map_congr_left fun j _ => State.byteAt_putBytes_other _ _ (.inr ?_))
  rw [length_flatMap_leBytes]
  omega

end

/-- Settles O17: the checks of the frames; the write-back as one run of lanes, read back lane by lane. -/
theorem vectorRegisterRules : Obligations.VectorRegisterRules := by
  unfold Obligations.VectorRegisterRules
  refine ⟨vector_boundsChecked, fun s t g k o rs h hm hlen hp ht => ?_⟩
  obtain ⟨-, rfl⟩ := runs_det ht (runs_vecWriteBack h hlen hp)
  have hback := length_backLanes_le hlen
  have hres (i : Nat) (hi : i < rs.length) : i < (backLanes o rs).length := by
    rw [length_backLanes hlen]
    split <;> omega
  refine ⟨fun i hi => ?_, fun i hlo hhi => ?_, fun j hj => ?_, rfl, rfl⟩
  · rw [getD_lanes_written hm hback (hres i hi)]
    simp [backLanes, List.getElem_append_left, hi]
  · split
    case isTrue hz =>
      have hi : i < (backLanes o rs).length := by rwa [length_backLanes hlen, if_pos hz]
      rw [getD_lanes_written hm hback hi]
      simp [backLanes, hz, List.getElem_append_right, hlo]
    case isFalse hz =>
      exact getD_lanes_kept (by rwa [length_backLanes hlen, if_neg hz]) hhi
  · have hend := rowKeyOf_add s.cur.core g o.d.val o.len.val
    have hfit := Nat.mul_le_mul_right o.ty.laneBytes hback
    rw [vecLen_mul] at hfit
    refine State.byteAt_putBytes_other _ _ ?_
    rw [length_flatMap_leBytes]
    omega

end Sys2Proof.Machine
end

section
/-! PROOFS. What no access to memory changes: the groups in their slots, the contexts but for their free-page queues, whose turn it is, and the
device-level fault registers (O47). -/

namespace Sys2Proof.Machine

open Sys2Proof

/-! ### Bodies that keep a view of the state -/

/-- The state that a body leaves: at its end, or where a fault keeps one. -/
def left {α : Type} : Except Stop (α × State) → Option State
  | .ok p => some p.2
  | .error (.trap _ keep) => keep
  | .error .wait => none
  | .error (.ask _) => none
  | .error (.halt _) => none

/-- A body from a state leaves a view of it as it was. -/
structure Keeps {α β : Type} (v : State → β) (x : X α) (s : State) : Prop where
  keep : ∀ t, left (x s) = some t → v t = v s

section
variable {α β γ : Type} {v : State → γ} {s : State}

theorem Keeps.runs {x : X α} (h : Keeps v x s) {a : α} {t : State} (hr : Runs x s a t) : v t = v s :=
  h.keep t (by rw [show x s = _ from hr]; rfl)

/-- What a kept view determines is kept too. -/
theorem Keeps.of_view {δ : Type} {w : State → δ} {x : X α} (h : Keeps v x s) (hw : ∀ t, v t = v s → w t = w s) : Keeps w x s :=
  ⟨fun t ht => hw t (h.keep t ht)⟩

theorem keeps_pure (a : α) : Keeps v (pure a) s := ⟨fun t ht => by
  cases ht
  rfl⟩

theorem keeps_fault (code va : Nat) : Keeps v (fault code va : X α) s := ⟨fun t ht => by cases ht⟩

theorem keeps_throw {e : Stop} (he : ∀ u, left (.error e : Except Stop (α × State)) = some u → v u = v s) : Keeps v (throw e : X α) s := ⟨he⟩

theorem keeps_set {t : State} (h : v t = v s) : Keeps v (set t) s := ⟨fun u hu => by
  cases hu
  exact h⟩

theorem keeps_modify {f : State → State} (h : v (f s) = v s) : Keeps v (modify f) s := ⟨fun u hu => by
  cases hu
  exact h⟩

theorem keeps_bind {x : X α} {f : α → X β} (hx : Keeps v x s) (hf : ∀ a t, Keeps v (f a) t) : Keeps v (x >>= f) s := by
  refine ⟨fun u hu => ?_⟩
  rw [bind_apply] at hu
  cases hxs : x s with
  | ok p =>
    rw [hxs] at hu
    exact ((hf p.1 p.2).keep u hu).trans (hx.keep p.2 (by rw [hxs]; rfl))
  | error e =>
    rw [hxs] at hu
    exact hx.keep u (by rw [hxs, ← hu]; cases e <;> rfl)

theorem keeps_get_bind {f : State → X α} (hf : Keeps v (f s) s) : Keeps v (get >>= f) s := by
  refine ⟨fun u hu => ?_⟩
  rw [bind_apply] at hu
  exact hf.keep u hu

theorem keeps_faultIf (c : Bool) (code va : Nat) : Keeps v (faultIf c code va) s := by
  unfold faultIf
  split
  · exact keeps_fault code va
  · exact keeps_pure ()

/-- A check that passes changes nothing. -/
theorem keeps_faultIf_bind {c : Bool} {code va : Nat} {f : Unit → X α} (hf : Keeps v (f ()) s) : Keeps v (faultIf c code va >>= f) s := by
  cases c with
  | false => exact hf
  | true => exact ⟨fun t ht => by cases ht⟩

theorem keeps_waitIf (c : Bool) : Keeps v (waitIf c) s := by
  unfold waitIf
  split
  · exact keeps_throw fun u hu => by cases hu
  · exact keeps_pure ()

theorem keeps_forM {f : α → X Unit} (hf : ∀ a t, Keeps v (f a) t) (xs : List α) : Keeps v (xs.forM f) s := by
  induction xs generalizing s with
  | nil => exact keeps_pure ()
  | cons x xs ih => exact keeps_bind (hf x s) fun _ _ => ih

theorem keeps_foldlM {f : β → α → X β} (hf : ∀ b a t, Keeps v (f b a) t) (b : β) (xs : List α) : Keeps v (xs.foldlM f b) s := by
  induction xs generalizing b s with
  | nil => exact keeps_pure b
  | cons x xs ih => exact keeps_bind (hf b x s) fun _ _ => ih _

theorem keeps_mapM {f : α → X β} (hf : ∀ a t, Keeps v (f a) t) (xs : List α) : Keeps v (xs.mapM f) s := by
  induction xs generalizing s with
  | nil =>
    rw [List.mapM_nil]
    exact keeps_pure []
  | cons x xs ih =>
    rw [List.mapM_cons]
    exact keeps_bind (hf x s) fun _ _ => keeps_bind ih fun _ _ => keeps_pure _

theorem keeps_faultsAt {x : X α} (va : Nat) (hx : Keeps v x s) : Keeps v (faultsAt va x) s := by
  refine ⟨fun u hu => hx.keep u ?_⟩
  rw [← hu]
  unfold faultsAt
  split
  case h_1 t keep hxs => rw [hxs]; rfl
  case h_2 => rfl

theorem keeps_attempt {x : X α} (hx : Keeps v x s) : Keeps v (attempt x) s := by
  refine ⟨fun u hu => ?_⟩
  unfold attempt at hu
  cases hxs : x s with
  | ok p =>
    rw [hxs] at hu
    cases hu
    exact hx.keep p.2 (by rw [hxs]; rfl)
  | error e =>
    rw [hxs] at hu
    cases e with
    | trap t keep =>
      cases keep with
      | none => cases hu; rfl
      | some w =>
        cases hu
        exact hx.keep w (by rw [hxs]; rfl)
    | wait => cases hu
    | ask f => cases hu
    | halt f => cases hu

/-- A part of a step that keeps a view keeps it where it is tried. -/
theorem view_tryDo {x : X Unit} (hx : Keeps v x s) : v (s.tryDo x) = v s := by
  unfold State.tryDo
  split
  case h_1 t hxs => exact hx.keep t (by rw [hxs]; rfl)
  case h_2 => rfl

/-- Updates in a row that each keep a view. -/
theorem view_foldl {f : State → α → State} (hf : ∀ t a, v (f t a) = v t) (xs : List α) : v (xs.foldl f s) = v s := by
  induction xs generalizing s with
  | nil => rfl
  | cons x xs ih => exact (ih (s := f s x)).trans (hf s x)

end

/-! ### The view that accesses to memory keep -/

/-- The groups in their slots, the contexts but for their free-page queues, whose turn it is, and what a device-level fault sets (R433). -/
structure MemView where
  slots : CoreId → Vector (Option Group) 4
  ctxs : CtxId → Context
  cur : RoleId
  df : Bool
  cls : BitVec 4
  unit : BitVec 8
  count : BitVec 32
  lost : BitVec 8

/-- The view of a state. -/
def memView (s : State) : MemView :=
  { slots := fun c => (s.core c).slots
    ctxs := fun x => { s.ctx x with fpqs := [] }
    cur := s.cur, df := s.devDf, cls := s.devClass, unit := s.devUnit, count := s.devCount, lost := s.lostStacks }

theorem memView_onCore (s : State) (c : CoreId) {f : Core → Core} (hf : ∀ k, (f k).slots = k.slots) : memView (s.onCore c f) = memView s := by
  have hslots : (fun d => ((s.onCore c f).core d).slots) = fun d => (s.core d).slots := by
    funext d
    by_cases hd : d = c
    · subst hd
      simp [State.onCore, State.core, hf]
    · simp [State.onCore, State.core, vget_vset_other _ _ hd]
  exact congrArg (fun v => { memView s with slots := v }) hslots

theorem memView_onCtx (s : State) (x : CtxId) {f : Context → Context} (hf : ∀ c, { f c with fpqs := [] } = { c with fpqs := [] }) :
    memView (s.onCtx x f) = memView s := by
  have hctxs : (fun y => ({ (s.onCtx x f).ctx y with fpqs := [] } : Context)) = fun y => { s.ctx y with fpqs := [] } := by
    funext y
    by_cases hy : y = x
    · subst hy
      simpa [State.onCtx, State.ctx] using hf _
    · simp [State.onCtx, State.ctx, vget_vset_other _ _ hy]
  exact congrArg (fun v => { memView s with ctxs := v }) hctxs

/-! ### Bytes, atoms and lines -/

section
variable (s : State)

theorem memView_addPoison (g : Nat) : memView (s.addPoison g) = memView s := by
  unfold State.addPoison
  split <;> rfl

theorem memView_meetErrors (pa n : Nat) : memView (s.meetErrors pa n) = memView s :=
  view_foldl memView_addPoison _

theorem memView_hbmWriteAtom (key : KeyRef) (pa : Nat) (bs : List Byte) : memView (s.hbmWriteAtom key pa bs) = memView s := by
  have hput (t : State) (c : Bool) (xs : List Byte) (m : SMap KeyRef) :
      memView { (if c then t.putBytes (pa / 64 * 64) xs else t).putBytes pa bs with keyTag := m } = memView t := by
    cases c <;> rfl
  unfold State.hbmWriteAtom
  dsimp only
  split
  · rfl
  · split
    · rfl
    · refine (hput _ _ _ _).trans ?_
      split <;> rfl

theorem memView_chipWriteGranule (k : Nat) (bs : List Byte) : memView (s.chipWriteGranule k bs) = memView s := by
  unfold State.chipWriteGranule
  split <;> rfl

theorem memView_chipWrite (k : Nat) (bs : List Byte) : memView (s.chipWrite k bs) = memView s :=
  view_foldl (fun t _ => memView_chipWriteGranule t _ _) _

theorem memView_setDeviceLine (l : CacheLine) : memView (s.setDeviceLine l) = memView s := by
  unfold State.setDeviceLine
  dsimp only
  split
  · rw [memView_addPoison]
    split <;> rfl
  · split <;> rfl

theorem memView_transmit (i : Fin 8) (o : Outgoing) : memView (s.transmit i o) = memView s := by
  obtain ⟨ls, ws, xs, h⟩ := s.transmit_frame i o
  rw [h]
  rfl

theorem memView_sendRequest (line : Nat) (store : Option LineData) : memView (s.sendRequest line store) = memView s := by
  unfold State.sendRequest
  split
  · rfl
  · exact memView_transmit ..

theorem memView_writeBack (l : CacheLine) : memView (s.writeBack l) = memView s := by
  unfold State.writeBack
  dsimp only
  split
  · rfl
  · split
    · exact (memView_setDeviceLine _ l).trans (memView_sendRequest ..)
    · exact (memView_setDeviceLine _ l).trans (memView_sendRequest ..)

theorem memView_cachePut (l : CacheLine) : memView (s.cachePut l) = memView s := by
  unfold State.cachePut
  dsimp only
  split
  · rfl
  · split
    · rfl
    · split
      · exact memView_writeBack s _
      · rfl

theorem memView_putMac (key : KeyRef) (blk l line : Nat) : memView (s.putMac key blk l line) = memView s := rfl

theorem memView_countTree (key : KeyRef) (i : Nat) (r : Region) (pa : Nat) : memView (s.countTree key i r pa) = memView s := rfl

theorem memView_setSize (blk : Nat) (c : BitVec 2) : memView (s.setSize blk c) = memView s := by
  unfold State.setSize
  split
  · split <;> rfl
  · rfl
  · rfl

end

section
variable {s : State}

/-! ### The pool (R398 to R409) -/

theorem keeps_askHolders (line : Nat) (forWrite : Bool) : Keeps memView (askHolders line forWrite) s := by
  refine keeps_get_bind ?_
  split
  · exact keeps_pure ()
  · exact keeps_throw fun u hu => by cases hu

theorem keeps_askDevice (va line : Nat) : Keeps memView (askDevice va line) s := by
  refine keeps_get_bind ?_
  split
  · exact keeps_throw fun u hu => by cases hu; rfl
  · exact keeps_set (memView_sendRequest ..)

theorem keeps_poolLine (key : KeyRef) (va line : Nat) : Keeps memView (poolLine key va line) s := by
  refine keeps_get_bind ?_
  split
  · exact keeps_fault ..
  · dsimp only
    split
    · exact keeps_fault ..
    · split
      · exact keeps_bind (keeps_set (memView_cachePut ..)) fun _ _ => keeps_pure _
      · exact keeps_bind (keeps_askDevice ..) fun _ _ => keeps_bind (keeps_askHolders ..) fun _ t =>
          keeps_get_bind (keeps_bind (keeps_set (memView_cachePut t _)) fun _ _ => keeps_pure _)

theorem keeps_countWrite (key : KeyRef) (va pa : Nat) : Keeps memView (countWrite key va pa) s := by
  refine keeps_get_bind ?_
  split
  · exact keeps_pure ()
  · refine keeps_bind (keeps_faultIf ..) fun _ _ => keeps_bind (keeps_modify (memView_countTree ..)) fun _ t => keeps_get_bind ?_
    dsimp only
    split
    · exact keeps_set (memView_putMac ..)
    · split
      · exact keeps_set (view_foldl (fun u _ => memView_putMac u ..) _)
      · exact keeps_fault ..

/-- The end of a write to a line: the holders are asked, and the line goes to the cache. -/
theorem keeps_storeLine (line va : Nat) {f : State → State} (hf : ∀ t, memView (f t) = memView t) : Keeps memView (do
    askHolders line true
    let s1 ← get
    if !s1.headReaches (portOf line) then fault 0x13 va else set (f s1)) s := by
  refine keeps_bind (keeps_askHolders ..) fun _ t1 => keeps_get_bind ?_
  split
  · exact keeps_fault ..
  · exact keeps_set (hf t1)

theorem keeps_poolWriteLine (key : KeyRef) (va pa : Nat) (bs : List Byte) : Keeps memView (poolWriteLine key va pa bs) s := by
  refine keeps_get_bind ?_
  split
  · exact keeps_fault ..
  · refine keeps_bind (keeps_countWrite ..) fun _ t => ?_
    dsimp only
    split
    · exact keeps_bind (keeps_poolLine ..) fun old _ => keeps_storeLine _ _ fun t => memView_cachePut t _
    · split
      · exact keeps_bind (keeps_askDevice ..) fun _ _ => keeps_bind (keeps_pure _) fun old _ => keeps_storeLine _ _ fun t => memView_cachePut t _
      · exact keeps_bind (keeps_pure _) fun old _ => keeps_storeLine _ _ fun t => memView_cachePut t _

/-! ### Physical memory (R359 to R363) -/

theorem keeps_rawRead (key : KeyRef) (va pa n : Nat) : Keeps memView (rawRead key va pa n) s := by
  refine keeps_get_bind ?_
  split
  · exact keeps_bind (keeps_set (memView_meetErrors ..)) fun _ _ => keeps_pure _
  · exact keeps_foldlM (fun _ _ _ => keeps_bind (keeps_poolLine ..) fun _ _ => keeps_pure _) _ _
  · exact keeps_throw fun u hu => by cases hu

theorem keeps_rawWrite (key : KeyRef) (va pa : Nat) (bs : List Byte) : Keeps memView (rawWrite key va pa bs) s := by
  refine keeps_get_bind ?_
  split
  · exact keeps_set (view_foldl (fun t _ => memView_hbmWriteAtom t ..) _)
  · exact keeps_forM (fun _ _ => keeps_poolWriteLine ..) _
  · exact keeps_throw fun u hu => by cases hu

theorem keeps_poisonPa (key : KeyRef) (va pa : Nat) : Keeps memView (poisonPa key va pa) s := by
  refine keeps_get_bind ?_
  split
  · exact keeps_set (memView_addPoison ..)
  · refine keeps_bind (keeps_attempt (keeps_poolLine ..)) fun r t => ?_
    split
    · exact keeps_modify rfl
    · exact keeps_pure ()
  · exact keeps_throw fun u hu => by cases hu

theorem keeps_hardRead (key : KeyRef) (va pa n : Nat) : Keeps memView (hardRead key va pa n) s :=
  keeps_bind (keeps_rawRead ..) fun _ _ => keeps_pure _

theorem keeps_readAtoms (key : KeyRef) (va base k : Nat) : Keeps memView (readAtoms (hardRead key) va base k) s :=
  keeps_foldlM (fun _ _ _ => keeps_bind (keeps_hardRead ..) fun _ _ => keeps_pure _) _ _

theorem keeps_blockReadWith (key : KeyRef) (va pa n : Nat) : Keeps memView (blockReadWith (hardRead key) va pa n) s := by
  refine keeps_get_bind ?_
  dsimp only
  split
  · exact keeps_bind (keeps_mapM (fun _ _ => keeps_bind (keeps_hardRead ..) fun _ _ => keeps_pure _) _) fun _ _ => keeps_pure _
  · exact keeps_bind (keeps_readAtoms ..) fun _ _ => keeps_bind (keeps_readAtoms ..) fun _ _ => keeps_pure _

theorem keeps_blockReadHalves (key : KeyRef) (va pa n : Nat) : Keeps memView (blockReadHalves key va pa n) s :=
  keeps_bind (keeps_blockReadWith ..) fun _ _ => keeps_pure _

theorem keeps_blockRead (key : KeyRef) (va pa n : Nat) : Keeps memView (blockRead key va pa n) s :=
  keeps_bind (keeps_blockReadHalves ..) fun _ _ => keeps_pure _

theorem keeps_blockStore (key : KeyRef) (va base : Nat) (bs : List Byte) (cmp : Bool) : Keeps memView (blockStore key va base bs cmp) s :=
  keeps_bind (keeps_forM (fun _ _ => keeps_rawWrite ..) _) fun _ t => keeps_modify (memView_setSize t ..)

theorem keeps_blockWrite (key : KeyRef) (va pa : Nat) (bs : List Byte) (cmp : Bool) : Keeps memView (blockWrite key va pa bs cmp) s := by
  unfold blockWrite
  dsimp only
  split
  · exact keeps_blockStore ..
  · refine keeps_get_bind (keeps_bind (keeps_blockReadHalves ..) fun old t => ?_)
    split
    · exact keeps_blockStore ..
    · split
      · exact keeps_forM (fun _ _ => keeps_rawWrite ..) _
      · exact keeps_bind (keeps_blockStore ..) fun _ _ => keeps_forM (fun _ _ => keeps_poisonPa ..) _

theorem keeps_physRead (key : KeyRef) (c : Bool) (va pa n : Nat) : Keeps memView (physRead key c va pa n) s := by
  unfold physRead
  split
  · exact keeps_rawRead ..
  · exact keeps_foldlM (fun _ _ _ => keeps_bind (keeps_blockRead ..) fun _ _ => keeps_pure _) _ _

theorem keeps_physWrite (key : KeyRef) (c : Bool) (va pa : Nat) (bs : List Byte) (cmp : Bool) :
    Keeps memView (physWrite key c va pa bs cmp) s := by
  unfold physWrite
  split
  · exact keeps_rawWrite ..
  · exact keeps_forM (fun _ _ => keeps_blockWrite ..) _

/-! ### Translation (R349 to R358) -/

theorem keeps_tableRead (x : CtxId) (va pa : Nat) : Keeps memView (tableRead x va pa) s := by
  refine keeps_get_bind (keeps_bind (keeps_faultsAt _ (keeps_rawRead ..)) fun r _ => ?_)
  split
  · exact keeps_fault ..
  · exact keeps_pure _

theorem keeps_grow (x : CtxId) (va leafAt f : Nat) : Keeps memView (grow x va leafAt f) s := by
  refine keeps_bind (keeps_faultIf ..) fun _ t => keeps_get_bind ?_
  dsimp only
  split
  · exact keeps_fault ..
  · split
    · exact keeps_fault ..
    · split
      · exact keeps_fault ..
      · exact keeps_bind (keeps_tableRead ..) fun _ u => keeps_bind (keeps_modify (memView_onCtx u x fun _ => rfl)) fun _ _ =>
          keeps_bind (keeps_get_bind (keeps_rawWrite ..)) fun _ _ => keeps_pure _

theorem keeps_directory (x : CtxId) (va pa : Nat) : Keeps memView (directory x va pa) s := by
  refine keeps_bind (keeps_tableRead ..) fun d _ => ?_
  split
  · exact keeps_fault ..
  · split
    · exact keeps_fault ..
    · exact keeps_pure _

theorem keeps_leafAddress (x : CtxId) (va : Nat) : Keeps memView (leafAddress x va) s :=
  keeps_get_bind (keeps_bind (keeps_directory ..) fun _ _ => keeps_bind (keeps_directory ..) fun _ _ => keeps_pure _)

theorem keeps_leafOk (x : CtxId) (va f : Nat) : Keeps memView (leafOk x va f) s :=
  keeps_get_bind (keeps_bind (keeps_faultIf ..) fun _ _ => keeps_bind (keeps_faultIf ..) fun _ _ => keeps_faultIf ..)

theorem memView_tlbUse (s : State) (core : Option CoreId) (e : TlbEntry) : memView (s.tlbUse core e) = memView s := by
  unfold State.tlbUse
  split
  · rfl
  · split
    · exact memView_onCore s _ fun _ => rfl
    · rfl

theorem memView_tlbFill (s : State) (core : Option CoreId) (e : TlbEntry) : memView (s.tlbFill core e) = memView s := by
  unfold State.tlbFill
  split
  case h_1 => rfl
  case h_2 c =>
    exact memView_onCore { s with dieTlb := vset s.dieTlb (dieOf c) (tlbPut 16384 (vget s.dieTlb (dieOf c)) e) } c fun _ => rfl

theorem keeps_leafOf (w : Who) (va : Nat) (a : Acc) : Keeps memView (leafOf w va a) s := by
  have hend (f : Nat) (t : State) : Keeps memView (do
      leafOk w.ctx va f
      faultIf (!grants f a) 0x07 va
      modify fun s => s.tlbFill w.core ⟨w.ctx, if lbit f 10 then va / 2 ^ 21 * 32 else va / 2 ^ 16, lbit f 10, f % 2 ^ 52⟩
      pure f) t :=
    keeps_bind (keeps_leafOk ..) fun _ _ => keeps_bind (keeps_faultIf ..) fun _ u =>
      keeps_bind (keeps_modify (memView_tlbFill u ..)) fun _ _ => keeps_pure f
  refine keeps_get_bind ?_
  split
  · exact keeps_faultIf_bind (keeps_faultIf_bind (keeps_bind (keeps_set (memView_tlbUse ..)) fun _ _ => keeps_pure _))
  · refine keeps_bind (keeps_leafAddress ..) fun at3 _ => keeps_bind (keeps_tableRead ..) fun f _ => ?_
    dsimp only
    split
    · exact keeps_fault ..
    · split
      · exact keeps_bind (keeps_grow ..) fun f t => hend f t
      · exact hend f _

theorem keeps_translate (w : Who) (va : Nat) (a : Acc) (hidden : Bool) : Keeps memView (translate w va a hidden) s :=
  keeps_bind (keeps_leafOf ..) fun _ _ => keeps_get_bind (keeps_pure _)

/-! ### MemRead and MemWrite (R8) -/

theorem keeps_resolve (w : Who) (p n : Nat) (a : Acc) (hidden : Bool) : Keeps memView (resolve w p n a hidden) s := by
  refine keeps_get_bind ?_
  split
  · exact keeps_bind (keeps_faultIf ..) fun _ _ => keeps_bind (keeps_translate ..) fun _ _ => keeps_pure _
  · exact keeps_bind (keeps_faultIf ..) fun _ _ => keeps_bind (keeps_faultIf ..) fun _ _ => keeps_pure _
  · refine keeps_bind (keeps_faultIf ..) fun _ _ => ?_
    split
    · exact keeps_bind (keeps_faultIf ..) fun _ _ => keeps_bind (keeps_faultIf ..) fun _ _ => keeps_pure _
    · exact keeps_fault ..
    · exact keeps_fault ..
  · exact keeps_fault ..

theorem keeps_readPlace (p n : Nat) (pl : Place) : Keeps memView (readPlace p n pl) s := by
  refine keeps_get_bind ?_
  split
  · exact keeps_bind (keeps_physRead ..) fun _ _ => keeps_pure _
  · exact keeps_pure _

theorem keeps_writePlace (p : Nat) (pl : Place) (bs : List Byte) (cmp : Bool) : Keeps memView (writePlace p pl bs cmp) s := by
  refine keeps_get_bind ?_
  split
  · exact keeps_physWrite ..
  · exact keeps_set (memView_chipWrite ..)

theorem keeps_memReadBytes (w : Who) (p n : Nat) (a : Acc) : Keeps memView (memReadBytes w p n a) s := by
  refine keeps_get_bind (keeps_bind (keeps_resolve ..) fun pl _ => keeps_bind (keeps_waitIf _) fun _ _ =>
    keeps_bind (keeps_readPlace ..) fun r _ => ?_)
  split
  · exact keeps_fault ..
  · exact keeps_pure _

theorem keeps_memWriteBytes (w : Who) (p : Nat) (bs : List Byte) (a : Acc) : Keeps memView (memWriteBytes w p bs a) s :=
  keeps_get_bind (keeps_bind (keeps_resolve ..) fun _ _ => keeps_bind (keeps_waitIf _) fun _ _ => keeps_writePlace ..)

/-! ### The fault queue (R426, R428) -/

theorem keeps_pushFault (x : CtxId) (rcd : List Byte) (held : Nat) : Keeps memView (pushFault x rcd held) s := by
  refine keeps_get_bind (keeps_bind (keeps_faultIf ..) fun _ _ => keeps_bind (keeps_memReadBytes ..) fun h _ =>
    keeps_bind (keeps_faultIf ..) fun _ _ => ?_)
  dsimp only
  split
  · exact keeps_pure _
  · exact keeps_bind (keeps_memWriteBytes ..) fun _ _ => keeps_bind (keeps_memWriteBytes ..) fun _ _ =>
      keeps_bind (keeps_memWriteBytes ..) fun _ _ => keeps_pure _

/-! ### Fetching a line (R457) -/

theorem memView_lineFill (s : State) (w : Who) (va : Nat) (ws : List Nat) : memView (s.lineFill w va ws) = memView s := by
  unfold State.lineFill
  split
  · rfl
  · exact memView_onCore s _ fun _ => rfl

theorem keeps_fetchLine (w : Who) (va : Nat) : Keeps memView (fetchLine w va) s := by
  refine keeps_get_bind ?_
  split
  · exact keeps_bind (keeps_set (memView_lineFill ..)) fun _ _ => keeps_pure _
  · exact keeps_bind (keeps_faultIf ..) fun _ _ => keeps_bind (keeps_translate ..) fun _ _ => keeps_get_bind
      (keeps_bind (keeps_physRead ..) fun _ _ => keeps_bind (keeps_faultIf ..) fun _ t =>
        keeps_bind (keeps_modify (memView_lineFill t ..)) fun _ _ => keeps_pure _)

theorem memView_prefetch (s : State) (w : Who) (line : List Nat) (va : Nat) : memView (s.prefetch w line va) = memView s := by
  unfold State.prefetch
  dsimp only
  split
  · rfl
  · split
    · rfl
    · rfl
    · split
      · split
        case h_1 hf => exact (keeps_fetchLine ..).runs hf
        case h_2 => rfl
      · rfl

end
end Sys2Proof.Machine
end

section
/-! PROOFS. What taking a fault leaves unchanged, and queue stalls (R307, R423, R428, O47). -/

namespace Sys2Proof.Machine

open Sys2Proof

/-! ### Slots and contexts after an update -/

theorem State.group_setGroup_other (s : State) {c d : CoreId} {i j : SlotId} (x : Option Group) (h : ¬ (d = c ∧ j = i)) :
    (s.setGroup c i x).group d j = s.group d j := by
  unfold State.setGroup State.onCore State.group State.core
  dsimp only
  by_cases hd : d = c
  · subst hd
    rw [vget_vset_same]
    exact vget_vset_other _ _ fun hj => h ⟨rfl, hj⟩
  · rw [vget_vset_other _ _ hd]

@[simp] theorem State.ctx_onCtx_same (s : State) (x : CtxId) (f : Context → Context) : (s.onCtx x f).ctx x = f (s.ctx x) := by
  simp [State.onCtx, State.ctx]

theorem State.ctx_onCtx_other (s : State) {x y : CtxId} (f : Context → Context) (h : y ≠ x) : (s.onCtx x f).ctx y = s.ctx y := by
  simp [State.onCtx, State.ctx, vget_vset_other _ _ h]

theorem roleOfIx_roleIx (k : RoleKind) : roleOfIx (roleIx k) = k := by
  cases k <;> rfl

theorem Group.role_onRole_at (g : Group) (a b : RoleKind) (f : Role → Role) :
    (g.onRole a f).role b = if b = a then f (g.role b) else g.role b := by
  unfold Group.onRole Group.role
  dsimp only
  split
  case isTrue h => rw [h, vget_vset_same]
  case isFalse h =>
    refine vget_vset_other _ _ fun he => h ?_
    rw [← roleOfIx_roleIx a, ← he, roleOfIx_roleIx]

/-- Any role after an update of one. -/
theorem State.role_onRole_at (s : State) (r r' : RoleId) (f : Role → Role) :
    (s.onRole r f).role r' = (s.role r').map fun k => if r' = r then f k else k := by
  obtain ⟨c, i, a⟩ := r
  obtain ⟨d, j, b⟩ := r'
  unfold State.onRole State.role
  by_cases hslot : d = c ∧ j = i
  · obtain ⟨rfl, rfl⟩ := hslot
    cases hg : s.group d j with
    | none => simp [State.onGroup, hg]
    | some g => simp [State.onGroup_of_group hg, Group.role_onRole_at]
  · have hne : ¬ (⟨d, j, b⟩ : RoleId) = ⟨c, i, a⟩ := fun h => hslot ⟨congrArg RoleId.core h, congrArg RoleId.slot h⟩
    have hgroup : (s.onGroup c i fun g => g.onRole a f).group d j = s.group d j := by
      unfold State.onGroup
      split
      · rfl
      · exact State.group_setGroup_other s _ hslot
    simp only [hgroup, if_neg hne, Option.map_map]
    rfl

/-! ### The view that a record of a fault keeps (R428) -/

/-- A context without its free-page queues and the records it holds. -/
def Context.calm (c : Context) : Context := { c with fpqs := [], faultHeld := [], faultUnheld := [], faultSeq := 0 }

/-- What neither an access to memory nor a record of a fault changes. -/
def calmView (s : State) : MemView := { memView s with ctxs := fun x => (s.ctx x).calm }

theorem calmView_of_memView {s t : State} (h : memView t = memView s) : calmView t = calmView s :=
  congrArg (fun v : MemView => { v with ctxs := fun x => (v.ctxs x).calm }) h

theorem calmView_onCtx (s : State) (x : CtxId) {f : Context → Context} (hf : ∀ c, (f c).calm = c.calm) :
    calmView (s.onCtx x f) = calmView s := by
  have hctxs : (fun y => ((s.onCtx x f).ctx y).calm) = fun y => (s.ctx y).calm := by
    funext y
    by_cases hy : y = x
    · rw [hy, State.ctx_onCtx_same, hf]
    · rw [State.ctx_onCtx_other s f hy]
  exact congrArg (fun v => { calmView s with ctxs := v }) hctxs

theorem calmView_flushHeld (x : CtxId) (n : Nat) (s : State) : calmView (flushHeld x n s) = calmView s := by
  induction n generalizing s with
  | zero => rfl
  | succ n ih =>
    unfold flushHeld
    split
    · rfl
    · split
      case h_1 s1 hp =>
        refine (ih _).trans ((calmView_onCtx s1 x ?_).trans (calmView_of_memView ((keeps_pushFault ..).runs hp)))
        exact fun _ => rfl
      case h_2 => rfl
      case h_3 => rfl

theorem calmView_deliver (s : State) (x : CtxId) (rcd : List Byte) : calmView (s.deliver x rcd) = calmView s := by
  have hheld : calmView (s.onCtx x fun c => if c.faultHeld.length < 64 then { c with faultHeld := c.faultHeld ++ [rcd] }
      else { c with faultUnheld := c.faultUnheld ++ [rcd] }) = calmView s :=
    calmView_onCtx s x fun c => by split <;> rfl
  unfold State.deliver
  dsimp only
  split
  · exact (calmView_flushHeld ..).trans hheld
  · exact (calmView_flushHeld ..).trans hheld

theorem calmView_deliverOther (s : State) (x : CtxId) (origin code va : Nat) : calmView (s.deliverOther x origin code va) = calmView s :=
  (calmView_deliver ..).trans (calmView_onCtx s x fun _ => rfl)

theorem group_of_calmView {s t : State} (h : calmView t = calmView s) (c : CoreId) (i : SlotId) : t.group c i = s.group c i :=
  congrArg (fun v : MemView => vget (v.slots c) i) h

/-! ### Taking a fault (R423 to R428) -/

/-- A role that has taken a fault. -/
def Role.faulted (k : Role) (r : RoleKind) (t : Trap) (pc : Word) (retired : Bool) : Role :=
  { k with stalled := true, cause := causeWord t.code t.info r, faultPc := pc, faultVa := t.va, appendPc := t.appendPc
           nodeId := t.nodeId, retired := retired, blocked := [], drainAt := none }

/-- A fault changes the role that takes it, and the records of its context. -/
theorem calmView_takeFault (s : State) (r : RoleId) (t : Trap) (pc : Word) (retired : Bool) :
    calmView (s.takeFault r t pc retired) = calmView (s.onRole r fun k => k.faulted r.role t pc retired) := by
  unfold State.takeFault
  split
  case h_1 hg =>
    unfold State.onRole State.onGroup
    rw [hg]
  case h_2 g hg =>
    exact (calmView_deliver ..).trans (calmView_onCtx _ _ fun _ => rfl)

/-- Any role after a fault of one. -/
theorem State.role_takeFault (s : State) (r r' : RoleId) (t : Trap) (pc : Word) (retired : Bool) :
    (s.takeFault r t pc retired).role r' = (s.role r').map fun k => if r' = r then k.faulted r.role t pc retired else k := by
  rw [← State.role_onRole_at]
  unfold State.role
  rw [group_of_calmView (calmView_takeFault ..)]

/-! ### Faults in a row, of different roles -/

/-- The faults of queue stalls, one after another (R307). -/
def State.takeStalls (s : State) (hits : List (QueueName × RoleId × Word)) : State :=
  hits.foldl (fun t h => t.takeFault h.2.1 { code := 0x0E, va := stallVa h.1 } h.2.2 false) s

/-- A role that does not stall. -/
theorem State.role_takeStalls_other {hits : List (QueueName × RoleId × Word)} {r : RoleId} (h : r ∉ hits.map fun p => p.2.1) (s : State) :
    (s.takeStalls hits).role r = s.role r := by
  induction hits generalizing s with
  | nil => rfl
  | cons p hits ih =>
    simp only [List.map_cons, List.mem_cons, not_or] at h
    refine (ih h.2 _).trans ?_
    simp [State.role_takeFault, h.1]

/-- A role that stalls, once. -/
theorem State.role_takeStalls {hits : List (QueueName × RoleId × Word)} (hd : (hits.map fun p => p.2.1).Nodup) {p : QueueName × RoleId × Word}
    (h : p ∈ hits) (s : State) : (s.takeStalls hits).role p.2.1 =
      (s.role p.2.1).map fun k => k.faulted p.2.1.role { code := 0x0E, va := stallVa p.1 } p.2.2 false := by
  induction hits generalizing s with
  | nil => cases h
  | cons q hits ih =>
    simp only [List.map_cons, List.nodup_cons] at hd
    rcases List.mem_cons.mp h with rfl | hin
    · refine (State.role_takeStalls_other hd.1 _).trans ?_
      simp [State.role_takeFault]
    · have hne : p.2.1 ≠ q.2.1 := fun he => hd.1 (he ▸ List.mem_map_of_mem hin)
      refine (ih hd.2 hin _).trans ?_
      simp [State.role_takeFault, hne]

/-! ### The roles of the device, in the order of their numbers (R424) -/

theorem mem_allSlots (p : CoreId × SlotId) : p ∈ allSlots := by
  simp [allSlots]

/-- The roles of the group in a slot. -/
def State.rolesAt (s : State) (p : CoreId × SlotId) : List (RoleId × Group × Role) :=
  match s.group p.1 p.2 with
  | none => []
  | some g => [RoleKind.fetch, .compute, .drain].map fun k => (⟨p.1, p.2, k⟩, g, g.role k)

theorem State.allRoles_eq (s : State) : s.allRoles = allSlots.flatMap s.rolesAt := rfl

theorem State.mem_rolesAt {s : State} {p : CoreId × SlotId} {r : RoleId × Group × Role} :
    r ∈ s.rolesAt p ↔ p = (r.1.core, r.1.slot) ∧ s.group r.1.core r.1.slot = some r.2.1 ∧ r.2.2 = r.2.1.role r.1.role := by
  obtain ⟨c, i⟩ := p
  obtain ⟨⟨d, j, a⟩, g, k⟩ := r
  unfold State.rolesAt
  split
  case h_1 hg =>
    refine iff_of_false List.not_mem_nil ?_
    rintro ⟨hp, hs, -⟩
    cases hp
    cases hg.symm.trans hs
  case h_2 g' hg =>
    rw [List.mem_map]
    constructor
    · rintro ⟨b, -, hb⟩
      cases hb
      exact ⟨rfl, hg, rfl⟩
    · rintro ⟨hp, hs, hk⟩
      cases hp
      obtain rfl : g' = g := Option.some.inj (hg.symm.trans hs)
      exact ⟨a, by cases a <;> simp, congrArg (fun k => (_, g', k)) hk.symm⟩

theorem State.mem_allRoles {s : State} {r : RoleId × Group × Role} :
    r ∈ s.allRoles ↔ s.group r.1.core r.1.slot = some r.2.1 ∧ r.2.2 = r.2.1.role r.1.role := by
  rw [State.allRoles_eq, List.mem_flatMap]
  exact ⟨fun ⟨_, _, hp⟩ => (State.mem_rolesAt.mp hp).2, fun h => ⟨_, mem_allSlots _, State.mem_rolesAt.mpr ⟨rfl, h⟩⟩⟩

theorem allSlots_pairwise : allSlots.Pairwise fun p q => p.1.val * 4 + p.2.val < q.1.val * 4 + q.2.val := by
  unfold allSlots
  rw [List.pairwise_flatMap]
  refine ⟨fun c _ => ?_, (List.pairwise_lt_finRange 128).imp fun {c d} hcd p hp q hq => ?_⟩
  · rw [List.pairwise_map]
    exact (List.pairwise_lt_finRange 4).imp fun {i j} hij => by simpa using hij
  · obtain ⟨i, -, rfl⟩ := List.mem_map.mp hp
    obtain ⟨j, -, rfl⟩ := List.mem_map.mp hq
    have hcd : c.val < d.val := hcd
    dsimp only
    omega

theorem State.rolesAt_pairwise (s : State) (p : CoreId × SlotId) : (s.rolesAt p).Pairwise fun a b => roleNo a.1 < roleNo b.1 := by
  unfold State.rolesAt
  split
  · exact List.Pairwise.nil
  · simp [roleNo, roleIx]

theorem State.allRoles_pairwise (s : State) : (s.allRoles.map fun r => r.1).Pairwise fun a b => roleNo a < roleNo b := by
  rw [List.pairwise_map, State.allRoles_eq, List.pairwise_flatMap]
  refine ⟨fun p _ => s.rolesAt_pairwise p, allSlots_pairwise.imp fun {p q} hpq a ha b hb => ?_⟩
  obtain rfl := (State.mem_rolesAt.mp ha).1
  obtain rfl := (State.mem_rolesAt.mp hb).1
  have hlt := (roleIx a.1.role).isLt
  unfold roleNo
  dsimp only at hpq
  omega

/-! ### Queue stalls (R307) -/

/-- What a role that stalls reports, or nothing. -/
def State.stallOf (s : State) (r : RoleId × Group × Role) : Option (QueueName × RoleId × Word) :=
  (r.2.2.blocked.find? fun w => (s.blockedSince w.queue r.2.2).isSome && s.stalledQueue w.queue).map fun w => (w.queue, r.1, r.2.2.pc)

theorem State.stallHits_eq (s : State) : s.stallHits = s.allRoles.filterMap s.stallOf := rfl

theorem State.stallOf_eq_some {s : State} {r : RoleId × Group × Role} {p : QueueName × RoleId × Word} (h : s.stallOf r = some p) :
    r.1 = p.2.1 ∧ r.2.2.pc = p.2.2 ∧ s.stalledQueue p.1 = true ∧ ∃ w ∈ r.2.2.blocked, w.queue = p.1 := by
  obtain ⟨w, hw, rfl⟩ := Option.map_eq_some_iff.mp h
  have hcond := List.find?_some hw
  rw [Bool.and_eq_true] at hcond
  exact ⟨rfl, rfl, hcond.2, w, List.mem_of_find?_eq_some hw, rfl⟩

/-- The roles that stall, in the order of the roles. -/
theorem sublist_filterMap_map {α β γ : Type} {f : α → Option β} {g : β → γ} {h : α → γ} (hf : ∀ a b, f a = some b → g b = h a) (xs : List α) :
    ((xs.filterMap f).map g).Sublist (xs.map h) := by
  induction xs with
  | nil => exact List.Sublist.slnil
  | cons x xs ih =>
    rw [List.filterMap_cons]
    split
    case h_1 => exact ih.cons _
    case h_2 b hb =>
      rw [List.map_cons, List.map_cons, hf x b hb]
      exact ih.cons_cons _

theorem State.stallHits_sublist (s : State) : (s.stallHits.map fun p => p.2.1).Sublist (s.allRoles.map fun r => r.1) :=
  sublist_filterMap_map (fun _ _ h => (State.stallOf_eq_some h).1.symm) _

theorem State.stallHits_pairwise (s : State) : (s.stallHits.map fun p => p.2.1).Pairwise fun a b => roleNo a < roleNo b :=
  s.allRoles_pairwise.sublist s.stallHits_sublist

theorem State.stallHits_nodup (s : State) : (s.stallHits.map fun p => p.2.1).Nodup :=
  s.stallHits_pairwise.imp fun h he => by
    rw [he] at h
    exact Nat.lt_irrefl _ h

/-! ### A consumer alone at an empty role queue -/

section
variable {s : State} {c : CoreId} {i : SlotId} {n : Fin 4} {b : Group} {since : Nat} (hb : s.group c i = some b) (hq : b.roleq.get n = [])
  (hrun : (b.role (consumer n.val)).status = .running) (hgo : (b.role (consumer n.val)).stalled = false)
  (hblocked : (b.role (consumer n.val)).blocked = [⟨.role c i n, false, since⟩]) (hsince : since + 120000 ≤ s.cycle.toNat)
  (hmoved : b.roleqMoved.get n + 120000 ≤ s.cycle.toNat) (hrest : (b.role (producer n.val)).status ≠ .running)
  (hidle : (b.role (producer n.val)).restAt + 120000 ≤ s.cycle.toNat)

include hb hq in
theorem waitSince_of_empty : s.waitSince ⟨.role c i n, false, since⟩ = some (max since (b.roleqMoved.get n)) := by
  have hlen : s.queueLen (.role c i n) = 0 := by
    simp only [State.queueLen, hb]
    exact congrArg List.length hq
  simp only [State.waitSince, State.queueStuck, hlen, State.queueMoved, hb]
  rfl

include hb hq hrun hgo hblocked in
theorem blockedSince_of_empty : s.blockedSince (.role c i n) (b.role (consumer n.val)) = some (max since (b.roleqMoved.get n)) := by
  simp [State.blockedSince, hrun, hgo, hblocked, waitSince_of_empty hb hq]

include hb hq hrun hgo hblocked hsince hmoved hrest hidle

theorem stalledQueue_of_empty : s.stalledQueue (.role c i n) = true := by
  have hmem (k : RoleKind) : (⟨c, i, k⟩, b, b.role k) ∈ s.allRoles.filter fun r => r.1.core == c && r.1.slot == i := by
    simp [State.mem_allRoles, hb]
  have honly {r : RoleId × Group × Role} (hr : r ∈ s.allRoles.filter fun r => r.1.core == c && r.1.slot == i) : r.2.2 = b.role r.1.role := by
    rw [List.mem_filter, State.mem_allRoles] at hr
    obtain ⟨⟨hg, hk⟩, hslot⟩ := hr
    simp only [Bool.and_eq_true, beq_iff_eq] at hslot
    rw [hslot.1, hslot.2, hb] at hg
    rw [hk, Option.some.inj hg]
  have hlong : max since (b.roleqMoved.get n) + qstallLimit ≤ s.cycle.toNat := by
    unfold qstallLimit
    omega
  have huser : s.countsBlocked (.role c i n) (b.role (consumer n.val)) = true := by
    simp [State.countsBlocked, hrun, hgo, hblocked, waitSince_of_empty hb hq, hlong]
  have hother : s.countsBlocked (.role c i n) (b.role (producer n.val)) = true := by
    have hr : ((b.role (producer n.val)).status == .running) = false := beq_eq_false_iff_ne.mpr hrest
    simp [State.countsBlocked, hr, qstallLimit, hidle]
  have hnonempty {α : Type} {x : α} {xs : List α} (h : x ∈ xs) : (!xs.isEmpty) = true := by
    simpa using List.ne_nil_of_mem h
  have hproducer : (⟨c, i, producer n.val⟩, b, b.role (producer n.val)) ∈ (s.usersOf (.role c i n)).1 :=
    List.mem_filter.mpr ⟨hmem _, by simp⟩
  have hconsumer : (⟨c, i, consumer n.val⟩, b, b.role (consumer n.val)) ∈ (s.usersOf (.role c i n)).2 :=
    List.mem_filter.mpr ⟨hmem _, by simp⟩
  have hcounts : ((s.usersOf (.role c i n)).1 ++ (s.usersOf (.role c i n)).2).all (fun r => s.countsBlocked (.role c i n) r.2.2) = true := by
    rw [List.all_eq_true]
    intro r hr
    rcases List.mem_append.mp hr with hr | hr
    · obtain ⟨hm, hk⟩ := List.mem_filter.mp hr
      rw [honly hm, beq_iff_eq.mp hk]
      exact hother
    · obtain ⟨hm, hk⟩ := List.mem_filter.mp hr
      rw [honly hm, beq_iff_eq.mp hk]
      exact huser
  have hdue : ((s.usersOf (.role c i n)).1 ++ (s.usersOf (.role c i n)).2).any
      (fun r => (s.blockedSince (.role c i n) r.2.2).any fun t => decide (t + qstallLimit ≤ s.cycle.toNat)) = true := by
    rw [List.any_eq_true]
    refine ⟨_, List.mem_append_right _ hconsumer, ?_⟩
    simp [blockedSince_of_empty hb hq hrun hgo hblocked, hlong]
  have hleft : decide (s.queueLeft (.role c i n) + qstallLimit ≤ s.cycle.toNat) = true := by
    refine decide_eq_true ?_
    show 0 + 120000 ≤ s.cycle.toNat
    omega
  unfold State.stalledQueue
  dsimp only
  rw [hnonempty hproducer, hnonempty hconsumer, hleft, hcounts, hdue]
  rfl

/-- The consumer stalls. -/
theorem stall_of_empty : (.role c i n, ⟨c, i, consumer n.val⟩, (b.role (consumer n.val)).pc) ∈ s.stallHits := by
  rw [State.stallHits_eq, List.mem_filterMap]
  refine ⟨(⟨c, i, consumer n.val⟩, b, b.role (consumer n.val)), State.mem_allRoles.mpr ⟨hb, rfl⟩, ?_⟩
  simp [State.stallOf, hblocked, blockedSince_of_empty hb hq hrun hgo hblocked,
    stalledQueue_of_empty hb hq hrun hgo hblocked hsince hmoved hrest hidle]

/-- What the stall leaves in the consumer. -/
theorem queueStall_of_empty : ∃ t b', exec (.queueStall (.role c i n)) s = .next t ∧ t.group c i = some b'
    ∧ b'.role (consumer n.val) = (b.role (consumer n.val)).faulted (consumer n.val) { code := 0x0E, va := stallVa (.role c i n) }
      (b.role (consumer n.val)).pc false := by
  have hhit := stall_of_empty hb hq hrun hgo hblocked hsince hmoved hrest hidle
  have hrole := State.role_takeStalls s.stallHits_nodup hhit s
  have hold : s.role ⟨c, i, consumer n.val⟩ = some (b.role (consumer n.val)) := by simp [State.role, hb]
  rw [hold] at hrole
  obtain ⟨b', hb', hk⟩ := Option.map_eq_some_iff.mp hrole
  refine ⟨s.takeStalls s.stallHits, b', ?_, hb', hk⟩
  rw [exec_queueStall, execQueueStall, if_pos (stalledQueue_of_empty hb hq hrun hgo hblocked hsince hmoved hrest hidle)]
  rfl

end

theorem causeWord_code {code : Nat} (h : code < 2 ^ 8) (info : BitVec 20) (r : RoleKind) : (causeWord code info r).toNat % 256 = code := by
  have hinfo := info.isLt
  have hix := (roleIx r).isLt
  unfold causeWord
  rw [BitVec.toNat_ofNat]
  omega

end Sys2Proof.Machine
end

section
/-! PROOFS. The faults of a role's fetch (R51 to R58, R79, O47). -/

namespace Sys2Proof.Machine

open Sys2Proof

/-! ### The fault of the next fetch -/

section
variable {s u : State} {g : Group} {k : Role} (h : Acts s g k) (hr : k.status = .running) (hs : k.stalled = false)
include h hr hs

theorem curRuns_of_acts : s.curRuns = true := by
  simp [State.curRuns, role_of_acts h, hr, hs]

/-- Arrival faults: the fault is the fetch's. -/
theorem raiseFetch_of_raises {t : Trap} {keep : Option State} (ha : Raises arrive s t keep) {code : Nat} (hc : t.code = code) :
    raiseFetch code s = .next (s.takeFault s.cur t k.pc false) := by
  have hrun := curRuns_of_acts h hr hs
  unfold Raises at ha
  have htrap : s.fetchTrap = some t := by
    unfold State.fetchTrap
    rw [ha]
  unfold raiseFetch
  rw [htrap]
  simp only [hc, hrun, ha, curPc_of_acts h]
  simp

/-- Arrival succeeds, and the words are no instruction. -/
theorem raiseFetch_of_runs {ws : List Nat} (ha : Runs arrive s ws u) {k' : Role} (hk : u.role u.cur = some k') (hpc : k'.pc = k.pc)
    {e : DecodeError} (hd : decodeAt ws k.pc.toNat = .error e) :
    raiseFetch 0x01 s = .next (u.takeFault s.cur { code := 0x01, va := 0 } k.pc false) := by
  have hrun := curRuns_of_acts h hr hs
  unfold Runs at ha
  have htrap : s.fetchTrap = some { code := 0x01, va := 0 } := by
    unfold State.fetchTrap
    simp only [ha, hk, hpc, hd]
  unfold raiseFetch
  rw [htrap]
  simp only [hrun, ha, curPc_of_acts h]
  simp

omit hr hs in
/-- A flow that goes on is raised by its fetch. -/
theorem execIllegalFlow_going (he : k.ended = false) : execIllegalFlow s = raiseFetch 0x15 s := by
  simp [execIllegalFlow, role_of_acts h, he]

/-- A flow that has ended is raised at its marker, but for the end of a save or restore sequence. -/
theorem execIllegalFlow_ended (he : k.ended = true) : execIllegalFlow s =
    .next (if s.cur.role = .compute ∧ g.inSequence = true then s else s.takeFault s.cur { code := 0x15, va := 0 } k.pc true) := by
  have hrun := curRuns_of_acts h hr hs
  obtain ⟨hg, hk⟩ := h
  simp only [execIllegalFlow, role_of_acts ⟨hg, hk⟩, he, hrun, hg, State.endOfChain]
  by_cases hq : s.cur.role = .compute ∧ g.inSequence = true
  · simp [hq]
  · rw [if_neg hq]
    have : ¬ (s.cur.role == RoleKind.compute && g.inSequence) = true := by simpa using hq
    simp [this]

end

/-- The line in hand: the one that the role executes, or one that the core's buffer holds. -/
theorem runs_lineAtHand {s : State} {g : Group} {k : Role} {ws : List Nat}
    (hh : (k.line ≠ [] ∧ ws = k.line) ∨ (k.line = [] ∧ s.lineHeld (s.self g) (k.pc.toNat / 64 * 64) = some ws)) :
    ∃ s1, Runs (if k.line.isEmpty then fetchLine (s.self g) (k.pc.toNat / 64 * 64) else pure k.line) s ws s1 := by
  rcases hh with ⟨hl, rfl⟩ | ⟨hl, hw⟩
  · exact ⟨s, runs_lineInHand hl s⟩
  · rw [hl]
    exact ⟨_, runs_fetchLine_held hw⟩

/-! ### Arrival leaves the PC of the role -/

/-- The PC of the role whose turn it is. -/
def pcView (s : State) : Option Word := (s.role s.cur).map Role.pc

theorem pcView_of_memView {s t : State} (h : memView t = memView s) : pcView t = pcView s :=
  congrArg (fun v : MemView => ((vget (v.slots v.cur.core) v.cur.slot).map fun g : Group => g.role v.cur.role).map Role.pc) h

theorem pcView_onRole (s : State) (r : RoleId) {f : Role → Role} (hf : ∀ k, (f k).pc = k.pc) : pcView (s.onRole r f) = pcView s := by
  have hcur : (s.onRole r f).cur = s.cur := by simp
  unfold pcView
  rw [hcur, State.role_onRole_at, Option.map_map]
  refine congrArg (fun h => Option.map h _) (funext fun k => ?_)
  simp only [Function.comp]
  split
  · exact hf k
  · rfl

theorem keeps_me {β : Type} {v : State → β} {s : State} : Keeps v me s := by
  refine keeps_get_bind ?_
  split
  · exact keeps_throw fun u hu => by cases hu
  · exact keeps_pure _

theorem keeps_arrive {s : State} : Keeps pcView arrive s := by
  have hend (m : RoleId × Group × Role) (ws : List Nat) {f : State → State} (hf : ∀ t, pcView (f t) = pcView t) (t : State) :
      Keeps pcView (do
        faultIf (lineIllegal ws) 0x02 (m.2.2.pc.toNat / 64 * 64)
        faultIf (!ownerOk m.1.role m.2.1.inSequence (linkOwner (ws.headD 0))) 0x15 0
        faultIf (m.2.2.chained && linkOwner (ws.headD 0) != 3) 0x15 0
        faultIf (m.2.2.pc.toNat % 4 != 0 || !wordLegal ws (m.2.2.pc.toNat % 64 / 4)) 0x15 0
        modify f
        pure ws) t :=
    keeps_bind (keeps_faultIf ..) fun _ _ => keeps_bind (keeps_faultIf ..) fun _ _ => keeps_bind (keeps_faultIf ..) fun _ _ =>
      keeps_bind (keeps_faultIf ..) fun _ u => keeps_bind (keeps_modify (hf u)) fun _ _ => keeps_pure ws
  have hline (r : RoleId) (ws : List Nat) (t : State) : pcView (t.onRole r fun k => { k with line := ws, chained := false }) = pcView t :=
    pcView_onRole t r fun _ => rfl
  refine keeps_bind keeps_me fun m _ => keeps_bind (keeps_faultIf ..) fun _ t => ?_
  dsimp only
  split
  · exact keeps_bind ((keeps_fetchLine ..).of_view fun _ => pcView_of_memView) fun ws t1 =>
      hend m ws (fun t => (pcView_of_memView (memView_prefetch ..)).trans (hline m.1 ws t)) t1
  · exact keeps_bind (keeps_pure _) fun ws t1 => hend m ws (hline m.1 ws) t1

/-- Arrival leaves the PC of the role that arrives. -/
theorem role_of_arrive {s u : State} {g : Group} {k : Role} {ws : List Nat} (h : Acts s g k) (ha : Runs arrive s ws u) :
    ∃ k', u.role u.cur = some k' ∧ k'.pc = k.pc := by
  have hpc : pcView u = some k.pc := by
    rw [keeps_arrive.runs ha, pcView, role_of_acts h]
    rfl
  exact Option.map_eq_some_iff.mp hpc

end Sys2Proof.Machine
end

section
/-! PROOFS. The retry of the fault queue, and device-level faults (R428, R433, R434, O47). -/

namespace Sys2Proof.Machine

open Sys2Proof

/-! ### The retry of the fault queue (R428) -/

theorem State.onCtx_congr {s : State} {x : CtxId} {f f' : Context → Context} (h : f (s.ctx x) = f' (s.ctx x)) : s.onCtx x f = s.onCtx x f' :=
  congrArg (fun c => { s with ctxs := vset s.ctxs x c }) h

theorem flushHeld_nil {x : CtxId} {s : State} (h : (s.ctx x).faultHeld = []) (n : Nat) : flushHeld x n s = s := by
  cases n with
  | zero => rfl
  | succ n => simp only [flushHeld, h]

section
variable {x : CtxId} {s u : State} {rcd : List Byte} (h : (s.ctx x).faultHeld = [rcd])
include h

theorem flushHeld_full {n : Nat} (hp : Runs (pushFault x rcd 0) s false u) : flushHeld x n s = s := by
  cases n with
  | zero => rfl
  | succ n => simp only [flushHeld, h, List.length_nil, show pushFault x rcd 0 s = _ from hp]

/-- One record held, room for it, and none behind it. -/
theorem flushHeld_one {n : Nat} (hp : Runs (pushFault x rcd 0) s true u) (hu : (u.ctx x).faultUnheld = []) :
    flushHeld x (n + 1) s = u.onCtx x fun c => { c with faultHeld := [] } := by
  have hstate : (u.onCtx x fun c => { c with faultHeld := [] ++ c.faultUnheld.take 1, faultUnheld := c.faultUnheld.drop 1 })
      = u.onCtx x fun c => { c with faultHeld := [] } := State.onCtx_congr (by simp [hu])
  simp only [flushHeld, h, List.length_nil, show pushFault x rcd 0 s = _ from hp]
  rw [hstate]
  exact flushHeld_nil (by rw [State.ctx_onCtx_same]) n

theorem faultQueueRetry_full (hp : Runs (pushFault x rcd 0) s false u) : exec (.faultQueueRetry x) s = .next s :=
  (exec_faultQueueRetry ..).trans (congrArg Host.Outcome.next (flushHeld_full h hp))

theorem faultQueueRetry_one (hp : Runs (pushFault x rcd 0) s true u) (hu : (u.ctx x).faultUnheld = []) :
    exec (.faultQueueRetry x) s = .next (u.onCtx x fun c => { c with faultHeld := [] }) := by
  rw [exec_faultQueueRetry, execFaultQueueRetry, Nat.add_comm]
  exact congrArg Host.Outcome.next (flushHeld_one h hp hu)

end

/-! ### Writing one record (R426, R428) -/

section
variable {x : CtxId} {s s1 : State} {h rcd : List Byte} {held : Nat} (hq : (s.ctx x).desc.faultq.toNat / 2 ^ 55 = 0x82)
  (ha : (s.ctx x).desc.faultq.toNat % 64 = 0)
  (hr : Runs (memReadBytes ⟨x, none, none⟩ ((s.ctx x).desc.faultq.toNat % 2 ^ 55) 64 .queue) s h s1) (hok : faultHeaderOk h = true)
include hq ha hr hok

theorem runs_pushFault_full (hc : leNat ((h.drop 8).take 4) ≤ (leNat ((h.drop 24).take 8) + 2 ^ 64 - leNat ((h.drop 16).take 8)) % 2 ^ 64) :
    Runs (pushFault x rcd held) s false s1 := by
  refine runs_bind (runs_get s) ?_
  simp only [hq, ha]
  refine runs_bind (runs_faultIf ..) (runs_bind hr ?_)
  rw [hok]
  refine runs_bind (runs_faultIf ..) ?_
  rw [if_pos hc]
  exact runs_pure false s1

theorem runs_pushFault_room {s2 s3 s4 : State}
    (hc : (leNat ((h.drop 24).take 8) + 2 ^ 64 - leNat ((h.drop 16).take 8)) % 2 ^ 64 < leNat ((h.drop 8).take 4))
    (h2 : Runs (memWriteBytes ⟨x, none, none⟩ (leNat (h.take 8) + 64 * (leNat ((h.drop 24).take 8) % leNat ((h.drop 8).take 4))) rcd) s1 () s2)
    (h3 : Runs (memWriteNat ⟨x, none, none⟩ ((s.ctx x).desc.faultq.toNat % 2 ^ 55 + 24) 8 (leNat ((h.drop 24).take 8) + 1)) s2 () s3)
    (h4 : Runs (memWriteNat ⟨x, none, none⟩ ((s.ctx x).desc.faultq.toNat % 2 ^ 55 + 32) 8 held) s3 () s4) :
    Runs (pushFault x rcd held) s true s4 := by
  refine runs_bind (runs_get s) ?_
  simp only [hq, ha]
  refine runs_bind (runs_faultIf ..) (runs_bind hr ?_)
  rw [hok]
  refine runs_bind (runs_faultIf ..) ?_
  rw [if_neg (Nat.not_le.mpr hc)]
  exact runs_bind h2 (runs_bind h3 (runs_bind h4 (runs_pure true s4)))

end

end Sys2Proof.Machine
end

section
/-! PROOFS. What a device-level fault stops, keeps and records (R433, R434, O47). -/

namespace Sys2Proof.Machine

open Sys2Proof

/-! ### Discarding work (R434 steps 1 and 2) -/

section
variable {β : Type} {v : State → β}

/-- Leaving a page open changes memory, key marks and cached lines. -/
theorem view_loseWork (hv : ∀ (s : State) m o k h, v { s with mem := m, opened := o, keyTag := k, heads := h } = v s) (s : State) (x : CtxId) :
    v (s.loseWork x) = v s := by
  have htagged (t : State) (key : KeyRef) (pa : Nat) : v (State.losePage.tagged key pa t) = v t := hv t _ _ _ t.heads
  have hopen (t : State) (k n : Nat) : v (t.openRange k n) = v t := hv t _ _ t.keyTag t.heads
  have hpage (t : State) (key : KeyRef) (pa : Nat) : v (t.losePage key pa) = v t := by
    unfold State.losePage
    split
    · rfl
    · exact htagged t key pa
    · exact (view_foldl (fun u _ => hv u u.mem u.opened u.keyTag _) _).trans (htagged t key pa)
  unfold State.loseWork
  dsimp only
  split
  · rfl
  · refine (view_foldl (fun t c => ?_) _).trans (view_foldl (fun t l => view_foldl (fun u pa => hpage u _ pa) _) _)
    rw [hopen, hopen]
    refine view_foldl (fun u i => ?_) _
    split
    · exact hopen ..
    · rfl

/-- Freeing a slot changes cores, contexts and the selectors of roles. -/
theorem view_vacate (hv : ∀ (s : State) cs xs rp, v { s with cores := cs, ctxs := xs, rolePriv := rp } = v s) (s : State) (c : CoreId)
    (i : SlotId) : v (s.vacate c i) = v s := by
  have hcore (t : State) (d : CoreId) (f : Core → Core) : v (t.onCore d f) = v t := hv t _ t.ctxs t.rolePriv
  have hctx (t : State) (x : CtxId) (f : Context → Context) : v (t.onCtx x f) = v t := hv t t.cores _ t.rolePriv
  have hbars (t : State) (bars : List Nat) : v (t.releaseBars c bars) = v t := view_foldl (fun u _ => hcore u ..) _
  have hleave (t : State) (x : CtxId) (since : Nat) (bs : List PortBinding) : v (t.leaveQueues x since bs) = v t :=
    view_foldl (fun u b => by
      split
      · rfl
      · exact hctx ..) _
  unfold State.vacate
  split
  case h_1 => rfl
  case h_2 g hg =>
    refine (hcore ..).trans ((hv _ _ _ _).trans ?_)
    exact (view_foldl (fun t k => hleave t ..) _).trans (hbars ..)

end

/-! ### What is left after everything has stopped -/

/-- What of the contexts stopping leaves as it is: their states, their levels, their ready queues. -/
def workView (s : State) : CtxId → CtxState × SMap Level × Vector ReadyQueue 4 :=
  fun x => ((s.ctx x).state, (s.ctx x).levels, (s.ctx x).ready)

theorem workView_onCtx (s : State) (x : CtxId) {f : Context → Context}
    (hf : ∀ c, (f c).state = c.state ∧ (f c).levels = c.levels ∧ (f c).ready = c.ready) : workView (s.onCtx x f) = workView s := by
  funext y
  unfold workView
  by_cases hy : y = x
  · obtain ⟨hs, hl, hr⟩ := hf (s.ctx x)
    rw [hy, State.ctx_onCtx_same, hs, hl, hr]
  · rw [State.ctx_onCtx_other s f hy]

theorem workView_leaveQueues (s : State) (x : CtxId) (since : Nat) (bs : List PortBinding) :
    workView (s.leaveQueues x since bs) = workView s := by
  refine view_foldl (fun t b => ?_) _
  split
  · rfl
  · refine workView_onCtx t x fun c => ?_
    split <;> exact ⟨rfl, rfl, rfl⟩

theorem workView_releaseBars (s : State) (c : CoreId) (bars : List Nat) : workView (s.releaseBars c bars) = workView s := by
  refine view_foldl (fun t p => ?_) _
  rfl

theorem workView_vacate (s : State) (c : CoreId) (i : SlotId) : workView (s.vacate c i) = workView s := by
  unfold State.vacate
  split
  · rfl
  · exact (view_foldl (fun t k => workView_leaveQueues t ..) _).trans (workView_releaseBars ..)

theorem State.group_releaseBars (s : State) (c : CoreId) (bars : List Nat) (d : CoreId) (j : SlotId) :
    (s.releaseBars c bars).group d j = s.group d j := by
  have hview : memView (s.releaseBars c bars) = memView s := by
    refine view_foldl (fun t p => memView_onCore t c ?_) _
    exact fun _ => rfl
  exact congrArg (fun v : MemView => vget (v.slots d) j) hview

theorem State.group_leaveQueues (s : State) (x : CtxId) (since : Nat) (bs : List PortBinding) (d : CoreId) (j : SlotId) :
    (s.leaveQueues x since bs).group d j = s.group d j :=
  view_foldl (v := fun t : State => t.group d j) (fun _ b => by cases b <;> rfl) _

theorem State.group_onCore_other (s : State) {c d : CoreId} {i j : SlotId} {x : Option Group} {f : Core → Core}
    (hf : ∀ k, (f k).slots = vset k.slots i x) (h : ¬ (d = c ∧ j = i)) : (s.onCore c f).group d j = s.group d j := by
  unfold State.onCore State.group State.core
  dsimp only
  by_cases hd : d = c
  · subst hd
    rw [vget_vset_same, hf]
    exact vget_vset_other _ _ fun hj => h ⟨rfl, hj⟩
  · rw [vget_vset_other _ _ hd]

/-- A slot that is freed is empty, the others stay. -/
theorem State.group_vacate (s : State) (c : CoreId) (i : SlotId) (d : CoreId) (j : SlotId) :
    (s.vacate c i).group d j = if d = c ∧ j = i then none else s.group d j := by
  unfold State.vacate
  split
  case h_1 hg =>
    split
    case isTrue h => rw [h.1, h.2, hg]
    case isFalse => rfl
  case h_2 g hg =>
    have hkeep (since : Role → Nat) : (g.roles.toList.foldl (fun t k => t.leaveQueues g.ctx (since k) k.ports.toList)
        (s.releaseBars c g.bars)).group d j = s.group d j :=
      (view_foldl (v := fun t : State => t.group d j) (fun t k => t.group_leaveQueues ..) _).trans (s.group_releaseBars ..)
    dsimp only
    split
    case isTrue h =>
      simp [h.1, h.2, State.group, State.core, State.onCore]
    case isFalse h =>
      refine Eq.trans (State.group_onCore_other _ (x := none) ?_ h) (hkeep fun k => s.notBlockedAt k)
      exact fun _ => rfl

/-- Every slot is empty. -/
theorem State.group_foldl_vacate {ps : List (CoreId × SlotId)} {d : CoreId} {j : SlotId} (s : State)
    (h : (d, j) ∈ ps ∨ s.group d j = none) : (ps.foldl (fun t p => t.vacate p.1 p.2) s).group d j = none := by
  induction ps generalizing s with
  | nil => simpa using h
  | cons p ps ih =>
    refine ih _ ?_
    rw [State.group_vacate]
    by_cases hp : d = p.1 ∧ j = p.2
    · exact .inr (if_pos hp)
    · rw [if_neg hp]
      rcases h with hm | hn
      · refine .inl ((List.mem_cons.mp hm).resolve_left fun he => hp ?_)
        rw [← he]
        exact ⟨rfl, rfl⟩
      · exact .inr hn

section
variable (s : State)

/-- The state in which the slots are empty, before commands, requests and messages go. -/
def State.stopGroups : State :=
  allSlots.foldl (fun t p => t.vacate p.1 p.2) ((List.finRange 16).foldl (fun t x => t.loseWork x) s)

theorem State.group_stopGroups (c : CoreId) (i : SlotId) : s.stopGroups.group c i = none := by
  unfold State.stopGroups
  exact State.group_foldl_vacate _ (.inl (mem_allSlots _))

theorem view_stopGroups {β : Type} {v : State → β} (hl : ∀ (s : State) m o k h, v { s with mem := m, opened := o, keyTag := k, heads := h } = v s)
    (hv : ∀ t c i, v (State.vacate t c i) = v t) : v s.stopGroups = v s := by
  unfold State.stopGroups
  exact (view_foldl (fun t _ => hv t _ _) _).trans (view_foldl (fun t x => view_loseWork hl t x) _)

/-- Commands, requests and messages go (R434 step 2). -/
def State.dropTraffic (enc : Nat) : State :=
  { s with
    cores := s.cores.map fun (k : Core) => { k with cmds := [], array := [], board := [] }
    lats := s.lats.map fun (p : Nat × LatSlot) => (p.1, { p.2 with stream := none, acc := if p.2.stream.isSome then [] else p.2.acc })
    pcs := s.pcs.map fun (p : Nat × PcStat) => (p.1, { p.2 with burst := none, waiters := [] })
    reqs := [], inflight := [], walks := [], rx := [], coll := [], collOwed := []
    txWait := s.txWait.filter fun (w : TxWait) => match w.out with
      | .message m => m.srcProc.val != enc
      | .request _ _ | .answer _ _ | .snoop _ _ | .time _ => true }

theorem State.stopAll_eq : s.stopAll = s.stopGroups.dropTraffic s.encProc.toNat := by
  unfold State.stopAll State.stopGroups State.dropTraffic
  rfl

theorem State.core_dropTraffic (enc : Nat) (c : CoreId) : (s.dropTraffic enc).core c = { s.core c with cmds := [], array := [], board := [] } := by
  unfold State.core State.dropTraffic
  simp [vget, Vector.get_eq_getElem]

theorem State.group_dropTraffic (enc : Nat) (c : CoreId) (i : SlotId) : (s.dropTraffic enc).group c i = s.group c i := by
  unfold State.group
  rw [State.core_dropTraffic]

theorem workView_dropTraffic (enc : Nat) : workView (s.dropTraffic enc) = workView s := rfl

theorem State.tx_dropTraffic (enc : Nat) : (s.dropTraffic enc).tx = s.tx := rfl

theorem State.group_stopAll (c : CoreId) (i : SlotId) : s.stopAll.group c i = none := by
  rw [State.stopAll_eq, State.group_dropTraffic, State.group_stopGroups]

theorem workView_stopAll : workView s.stopAll = workView s := by
  rw [State.stopAll_eq, workView_dropTraffic]
  exact view_stopGroups s (fun _ _ _ _ _ => rfl) workView_vacate

theorem State.tx_stopAll : s.stopAll.tx = s.tx := by
  rw [State.stopAll_eq, State.tx_dropTraffic]
  exact view_stopGroups s (fun _ _ _ _ _ => rfl) (view_vacate fun _ _ _ _ => rfl)

theorem State.mem_txWait_dropTraffic {enc : Nat} {y : TxWait} (hy : y ∈ (s.dropTraffic enc).txWait) {m : Message} (hm : y.out = .message m) :
    m.srcProc.val ≠ enc := by
  have hkept := (List.mem_filter.mp hy).2
  rw [hm] at hkept
  exact bne_iff_ne.mp hkept

theorem State.mem_lats_dropTraffic {enc : Nat} {p : Nat × LatSlot} (hp : p ∈ (s.dropTraffic enc).lats) : p.2.stream = none := by
  obtain ⟨q, -, rfl⟩ := List.mem_map.mp hp
  rfl

end

end Sys2Proof.Machine
end

section
/-! PROOFS. What a device-level fault stops, keeps and records (R433, R434, O47), II: its steps for the contexts. -/

namespace Sys2Proof.Machine

open Sys2Proof

/-! ### The device-level fault registers (R433) -/

/-- The registers that only a device-level fault writes. -/
def devView (s : State) : BitVec 4 × BitVec 8 × BitVec 32 × BitVec 8 := (s.devClass, s.devUnit, s.devCount, s.lostStacks)

theorem devView_of_memView {s t : State} (h : memView t = memView s) : devView t = devView s :=
  congrArg (fun v : MemView => (v.cls, v.unit, v.count, v.lost)) h

theorem devView_of_calmView {s t : State} (h : calmView t = calmView s) : devView t = devView s :=
  congrArg (fun v : MemView => (v.cls, v.unit, v.count, v.lost)) h

theorem devView_dropTraffic (s : State) (enc : Nat) : devView (s.dropTraffic enc) = devView s := rfl

section
variable {s : State}

theorem keeps_devView_rawWrite (key : KeyRef) (va pa : Nat) (bs : List Byte) : Keeps devView (rawWrite key va pa bs) s :=
  (keeps_rawWrite key va pa bs).of_view fun _ => devView_of_memView

theorem keeps_ringWrite (x : CtxId) (prio : Fin 4) (n : Nat) (it : ReadyItem) : Keeps devView (ringWrite x prio n it) s := by
  unfold ringWrite
  split
  · exact keeps_pure ()
  · exact keeps_get_bind (keeps_devView_rawWrite ..)

theorem keeps_keepReady (x : CtxId) (keep : ReadyItem → Bool) : Keeps devView (keepReady x keep) s := by
  refine keeps_forM (fun p t => keeps_get_bind ?_) _
  dsimp only
  split
  · exact keeps_pure ()
  · exact keeps_bind (keeps_forM (fun it u => keeps_ringWrite ..) _) fun _ u => keeps_modify rfl

theorem keeps_putLevel (x : CtxId) (i : Nat) (l : Level) : Keeps devView (putLevel x i l) s :=
  keeps_bind (keeps_modify rfl) fun _ _ => keeps_get_bind (keeps_devView_rawWrite ..)

theorem keeps_cancelTree (x : CtxId) (n i : Nat) : Keeps devView (cancelTree x n i) s := by
  induction n generalizing i s with
  | zero => exact keeps_pure ()
  | succ n ih =>
    unfold cancelTree
    refine keeps_get_bind ?_
    split
    case h_1 => exact keeps_pure ()
    case h_2 l hl =>
      split
      · exact keeps_pure ()
      · refine keeps_get_bind (keeps_bind (keeps_forM (fun p t => ?_) _) fun _ t => ?_)
        · split
          · exact keeps_pure ()
          · refine keeps_bind (ih p.1) fun _ u => keeps_get_bind ?_
            split
            · exact keeps_pure ()
            · exact keeps_putLevel ..
        · split
          · have hkill (u : State) : Keeps devView (do
                keepReady x fun it => it.launch != levelHandle i l
                modify fun s => s.killLaunch x (levelHandle i l)) u := keeps_bind (keeps_keepReady ..) fun _ _ => keeps_modify rfl
            refine keeps_get_bind ?_
            split
            · exact hkill t
            · exact keeps_bind (keeps_putLevel ..) fun _ u => hkill u
          · refine keeps_get_bind ?_
            split
            · exact keeps_pure ()
            · exact keeps_bind (keeps_putLevel ..) fun _ _ => keeps_pure ()

theorem keeps_cancelAll (x : CtxId) : Keeps devView (cancelAll x) s :=
  keeps_get_bind (keeps_forM (fun p _ => keeps_cancelTree x 5 p.1) _)

end

/-! ### One context (R434 steps 3 and 4) -/

theorem devView_onCtx (s : State) (x : CtxId) (f : Context → Context) : devView (s.onCtx x f) = devView s := rfl

theorem devView_report (x : CtxId) (s : State) (drain : Bool) : devView (State.deviceFaultCtx.report x s drain) = devView s :=
  (devView_of_calmView (calmView_deliverOther ..)).trans (devView_onCtx ..)

theorem devView_deviceFaultCtx (s : State) (x : CtxId) : devView (s.deviceFaultCtx x) = devView s := by
  have hwork : devView (((s.tryDo (keepReady x fun _ => false)).tryDo (cancelAll x)).onCtx x fun c => { c with reserved := [], hostPending := [] })
      = devView s := (devView_onCtx ..).trans ((view_tryDo (keeps_cancelAll x)).trans (view_tryDo (keeps_keepReady x _)))
  unfold State.deviceFaultCtx
  dsimp only
  split
  · rfl
  · split
    · exact (devView_report ..).trans hwork
    · exact (devView_report ..).trans hwork
    · exact (devView_report ..).trans hwork
    · exact hwork
    · exact hwork
    · exact hwork
    · exact hwork

theorem deviceFaultCtx_free {s : State} {x : CtxId} (h : (s.ctx x).state = .free) : s.deviceFaultCtx x = s := by
  unfold State.deviceFaultCtx
  rw [h]
  rfl

/-! ### A context that runs alone, without levels and with empty ready queues -/

/-- The parts of the contexts that a step of R434 starts from: what x has, and that the others are free. -/
structure Alone (x : CtxId) (s : State) : Prop where
  others : ∀ y, y ≠ x → (s.ctx y).state = .free
  state : (s.ctx x).state = .running ∨ (s.ctx x).state = .suspended
  levels : (s.ctx x).levels = []
  ready : ∀ p, (s.readyQ x p).items = []

theorem State.tryDo_of_runs {s t : State} {f : X Unit} (h : Runs f s () t) : s.tryDo f = t := by
  unfold State.tryDo
  rw [show f s = _ from h]

section
variable {x : CtxId} {s : State} (h : Alone x s)
include h

theorem runs_keepReady_empty (keep : ReadyItem → Bool) : Runs (keepReady x keep) s () s := by
  refine runs_forM fun p _ => runs_bind (runs_get s) ?_
  dsimp only
  rw [h.ready p]
  exact runs_pure () s

theorem runs_cancelAll_empty : Runs (cancelAll x) s () s := by
  refine runs_bind (runs_get s) ?_
  rw [h.levels]
  exact runs_pure () s

theorem deviceFaultCtx_alone : s.deviceFaultCtx x =
    State.deviceFaultCtx.report x (s.onCtx x fun c => { c with reserved := [], hostPending := [] }) false := by
  unfold State.deviceFaultCtx
  dsimp only
  rw [State.tryDo_of_runs (runs_keepReady_empty h _), State.tryDo_of_runs (runs_cancelAll_empty h), State.ctx_onCtx_same]
  rcases h.state with hs | hs <;> rw [hs] <;> rfl

end

theorem workView_deliverOther (s : State) (x : CtxId) (origin code va : Nat) : workView (s.deliverOther x origin code va) = workView s :=
  congrArg (fun (v : MemView) y => ((v.ctxs y).state, (v.ctxs y).levels, (v.ctxs y).ready)) (calmView_deliverOther s x origin code va)

theorem state_of_workView {s t : State} (h : workView t = workView s) (x : CtxId) : (t.ctx x).state = (s.ctx x).state :=
  congrArg Prod.fst (congrFun h x)

/-- Whether a context is alone depends on the contexts' states, levels and ready queues. -/
theorem Alone.of_workView {x : CtxId} {s t : State} (h : Alone x s) (hv : workView t = workView s) : Alone x t := by
  have hctx (y : CtxId) : (t.ctx y).state = (s.ctx y).state ∧ (t.ctx y).levels = (s.ctx y).levels ∧ (t.ctx y).ready = (s.ctx y).ready := by
    have hy := congrFun hv y
    unfold workView at hy
    simpa only [Prod.mk.injEq] using hy
  obtain ⟨hs, hl, hr⟩ := hctx x
  refine ⟨fun y hy => (hctx y).1.trans (h.others y hy), ?_, hl.trans h.levels, fun p => ?_⟩
  · rw [hs]
    exact h.state
  · unfold State.readyQ
    rw [hr]
    exact h.ready p

/-- A context alone that the fault has reached is suspended, and still alone. -/
theorem alone_deviceFaultCtx {x : CtxId} {s : State} (h : Alone x s) :
    Alone x (s.deviceFaultCtx x) ∧ ((s.deviceFaultCtx x).ctx x).state = .suspended := by
  have hview := workView_deliverOther ((s.onCtx x fun c => { c with reserved := [], hostPending := [] }).onCtx x fun c =>
    { c with state := .suspended, busy := c.busy && c.state == .suspended, drainMark := c.drainMark || false }) x 3 0
    (s.onCtx x fun c => { c with reserved := [], hostPending := [] }).devstat
  rw [deviceFaultCtx_alone h]
  refine ⟨Alone.of_workView ?_ hview, ?_⟩
  · refine ⟨fun y hy => ?_, ?_, ?_, fun p => ?_⟩
    · rw [State.ctx_onCtx_other _ _ hy, State.ctx_onCtx_other _ _ hy]
      exact h.others y hy
    · rw [State.ctx_onCtx_same]
      exact .inr rfl
    · rw [State.ctx_onCtx_same, State.ctx_onCtx_same]
      exact h.levels
    · unfold State.readyQ
      rw [State.ctx_onCtx_same, State.ctx_onCtx_same]
      exact h.ready p
  · refine (state_of_workView hview x).trans ?_
    rw [State.ctx_onCtx_same]

theorem suspended_foldl_deviceFaultCtx {x : CtxId} {xs : List CtxId} {s : State} (h : Alone x s)
    (hx : x ∈ xs ∨ (s.ctx x).state = .suspended) : ((xs.foldl State.deviceFaultCtx s).ctx x).state = .suspended := by
  induction xs generalizing s with
  | nil => simpa using hx
  | cons y ys ih =>
    by_cases hy : y = x
    · rw [hy]
      obtain ⟨halone, hs⟩ := alone_deviceFaultCtx h
      exact ih halone (.inr hs)
    · rw [List.foldl_cons, deviceFaultCtx_free (h.others y hy)]
      exact ih h (hx.imp_left fun hm => (List.mem_cons.mp hm).resolve_left (Ne.symm hy))

theorem foldl_deviceFaultCtx_free {xs : List CtxId} {s : State} (h : ∀ x, (s.ctx x).state = .free) :
    xs.foldl State.deviceFaultCtx s = s := by
  induction xs with
  | nil => rfl
  | cons x xs ih => rw [List.foldl_cons, deviceFaultCtx_free (h x), ih]

/-! ### The fault as a whole (R433, R434) -/

/-- The state that the fault stops, with its class and unit. -/
def State.stopped (s : State) (cls : BitVec 4) (unit : BitVec 8) : State := { s.stopAll with devClass := cls, devUnit := unit }

/-- The state after steps 1 to 4 of R434. -/
def State.suspendAll (s : State) (cls : BitVec 4) (unit : BitVec 8) : State := (List.finRange 16).foldl State.deviceFaultCtx (s.stopped cls unit)

/-- Step 5 of R434: DF, the count, and the stack that class 3 loses. -/
def State.countFault (s : State) (cls : BitVec 4) (unit : BitVec 8) : State :=
  { s with devDf := true, devCount := s.devCount + 1
           lostStacks := if cls = 3 then s.lostStacks ||| BitVec.ofNat 8 (2 ^ (unit.toNat % 8)) else s.lostStacks }

theorem view_enterSafe {β : Type} {v : State → β} (hv : ∀ (t : State) c ks, v { t with ctl := c, keySlots := ks } = v t) (s : State)
    (code : BitVec 8) : v (s.enterSafe code) = v s := hv s _ _

/-- Step 5 of R434, and what follows a failed step of a boot test (R438). -/
def State.finishFault (s : State) (cls : BitVec 4) (unit : BitVec 8) : State :=
  match Config.retest (s.countFault cls unit).tick with
  | none => s.countFault cls unit
  | some n => if failCode n.val = 0 then s.countFault cls unit else (s.countFault cls unit).enterSafe (failCode n.val)

theorem view_finishFault {β : Type} {v : State → β} (hv : ∀ (t : State) c ks, v { t with ctl := c, keySlots := ks } = v t) (s : State)
    (cls : BitVec 4) (unit : BitVec 8) : v (s.finishFault cls unit) = v (s.countFault cls unit) := by
  unfold State.finishFault
  split
  · rfl
  · split
    · rfl
    · exact view_enterSafe hv ..

section
variable (s : State) (cls : BitVec 4) (unit : BitVec 8)

theorem deviceFault_eq : s.deviceFault cls unit = (s.suspendAll cls unit).finishFault cls unit := by
  unfold State.deviceFault State.finishFault State.suspendAll State.stopped
  rfl

theorem devView_suspendAll : devView (s.suspendAll cls unit) = (cls, unit, s.devCount, s.lostStacks) := by
  have hstop : devView s.stopAll = devView s := by
    rw [State.stopAll_eq]
    exact Eq.trans (devView_dropTraffic ..) (view_stopGroups s (fun _ _ _ _ _ => rfl) (view_vacate fun _ _ _ _ => rfl))
  refine (view_foldl devView_deviceFaultCtx _).trans ?_
  exact congrArg (fun d => (cls, unit, d.2.2.1, d.2.2.2)) hstop

theorem workView_stopped : workView (s.stopped cls unit) = workView s := by
  have hset (t : State) : workView { t with devClass := cls, devUnit := unit } = workView t := rfl
  unfold State.stopped
  rw [hset, workView_stopAll]

theorem devDf_deviceFault : (s.deviceFault cls unit).devDf = true := by
  rw [deviceFault_eq]
  exact view_finishFault (v := State.devDf) (fun _ _ _ => rfl) ..

/-- The class, the unit, the count and the lost stacks of a device-level fault (R433). -/
theorem devView_deviceFault : devView (s.deviceFault cls unit) = (cls, unit, s.devCount + 1,
    if cls = 3 then s.lostStacks ||| BitVec.ofNat 8 (2 ^ (unit.toNat % 8)) else s.lostStacks) := by
  have hcount (t : State) : devView (t.countFault cls unit) = ((devView t).1, (devView t).2.1, (devView t).2.2.1 + 1,
      if cls = 3 then (devView t).2.2.2 ||| BitVec.ofNat 8 (2 ^ (unit.toNat % 8)) else (devView t).2.2.2) := rfl
  rw [deviceFault_eq, view_finishFault (v := devView) (fun _ _ _ => rfl), hcount, devView_suspendAll]

/-- A context alone that runs is suspended by the fault (R434 step 3). -/
theorem state_deviceFault_alone {x : CtxId} (h : Alone x s) : ((s.deviceFault cls unit).ctx x).state = .suspended := by
  have hcount (t : State) : ((t.countFault cls unit).ctx x).state = (t.ctx x).state := rfl
  rw [deviceFault_eq, view_finishFault (v := fun t => (t.ctx x).state) (fun _ _ _ => rfl), hcount]
  exact suspended_foldl_deviceFaultCtx (h.of_workView (workView_stopped s cls unit)) (.inl (List.mem_finRange x))

/-- With every context free the groups stay gone. -/
theorem group_deviceFault_free (h : ∀ x, (s.ctx x).state = .free) (c : CoreId) (i : SlotId) : (s.deviceFault cls unit).group c i = none := by
  have hfree (x : CtxId) : ((s.stopped cls unit).ctx x).state = .free := 
    (state_of_workView (workView_stopped s cls unit) x).trans (h x)
  have hcount (t : State) : (t.countFault cls unit).group c i = t.group c i := rfl
  have hset (t : State) : ({ t with devClass := cls, devUnit := unit } : State).group c i = t.group c i := rfl
  rw [deviceFault_eq, view_finishFault (v := fun t => t.group c i) (fun _ _ _ => rfl), hcount]
  unfold State.suspendAll
  rw [foldl_deviceFaultCtx_free hfree]
  unfold State.stopped
  rw [hset, State.group_stopAll]

end

/-! ### What is gone after everything has stopped (R434 step 2) -/

section
variable (s : State)

theorem State.core_stopAll (c : CoreId) : (s.stopAll.core c).cmds = [] ∧ (s.stopAll.core c).array = [] := by
  rw [State.stopAll_eq, State.core_dropTraffic]
  exact ⟨rfl, rfl⟩

theorem State.traffic_dropTraffic (enc : Nat) : (s.dropTraffic enc).reqs = [] ∧ (s.dropTraffic enc).inflight = [] ∧ (s.dropTraffic enc).rx = []
    ∧ (s.dropTraffic enc).walks = [] := ⟨rfl, rfl, rfl, rfl⟩

theorem State.traffic_stopAll : s.stopAll.reqs = [] ∧ s.stopAll.inflight = [] ∧ s.stopAll.rx = [] ∧ s.stopAll.walks = [] := by
  rw [State.stopAll_eq]
  exact State.traffic_dropTraffic ..

theorem State.mem_txWait_stopAll {y : TxWait} (hy : y ∈ s.stopAll.txWait) {m : Message} (hm : y.out = .message m) :
    m.srcProc.val ≠ s.encProc.toNat := by
  rw [State.stopAll_eq] at hy
  exact State.mem_txWait_dropTraffic _ hy hm

theorem State.mem_lats_stopAll {p : Nat × LatSlot} (hp : p ∈ s.stopAll.lats) : p.2.stream = none := by
  rw [State.stopAll_eq] at hp
  exact State.mem_lats_dropTraffic _ hp

end

/-! ### DEVICE_LEVEL_FAULT -/

theorem deviceLevelFault_reserved {cls : Fin 16} (h : cls.val = 0 ∨ 7 ≤ cls.val) (unit : BitVec 8) (s : State) :
    exec (.deviceLevelFault cls unit) s = .next s := by
  rw [exec_deviceLevelFault]
  exact if_neg (by omega)

theorem deviceLevelFault_named {cls : Fin 16} (h1 : 1 ≤ cls.val) (h6 : cls.val ≤ 6) (unit : BitVec 8) (s : State) :
    exec (.deviceLevelFault cls unit) s = .next (s.deviceFault (BitVec.ofNat 4 cls.val) unit) := by
  rw [exec_deviceLevelFault]
  exact if_pos ⟨h1, h6⟩

section
variable (s : State) (cls : Fin 16) (unit : BitVec 8)

theorem registers_deviceFault : let t := s.deviceFault (BitVec.ofNat 4 cls.val) unit
    t.devClass.toNat = cls.val ∧ t.devUnit = unit ∧ t.devCount = s.devCount + 1
      ∧ (cls.val ≠ 3 → t.lostStacks = s.lostStacks)
      ∧ (cls.val = 3 → t.lostStacks = s.lostStacks ||| BitVec.ofNat 8 (2 ^ (unit.toNat % 8))) := by
  have hview := devView_deviceFault s (BitVec.ofNat 4 cls.val) unit
  have hcls : (BitVec.ofNat 4 cls.val).toNat = cls.val := by
    rw [BitVec.toNat_ofNat]
    exact Nat.mod_eq_of_lt cls.isLt
  have hthree : BitVec.ofNat 4 cls.val = 3 ↔ cls.val = 3 := by
    rw [← BitVec.toNat_inj, hcls]
    rfl
  unfold devView at hview
  simp only [Prod.mk.injEq] at hview
  obtain ⟨hc, hu, hn, hl⟩ := hview
  refine ⟨?_, hu, hn, fun h => ?_, fun h => ?_⟩
  · rw [hc, hcls]
  · exact hl.trans (if_neg (mt hthree.mp h))
  · exact hl.trans (if_pos (hthree.mpr h))

end

end Sys2Proof.Machine
end

section
/-! PROOFS. The steps that raise or record a fault (R51 to R58, R79, R80, R307, R423 to R428, R433, R434, O47). -/

namespace Sys2Proof.Machine

open Sys2Proof

/-! ### The faults at a line in hand -/

section
variable {s u : State} {g : Group} {k : Role} {ws : List Nat} (h : Acts s g k) (hr : k.status = .running) (hs : k.stalled = false)
include h hr hs

theorem illegalFlow_outside (he : k.ended = false) (hout : 2 ^ 55 ≤ k.pc.toNat) :
    exec .illegalFlow s = .next (s.takeFault s.cur { code := 0x15, va := 0 } k.pc false) := by
  rw [exec_illegalFlow, execIllegalFlow_going h he]
  exact raiseFetch_of_raises h hr hs (arrive_outside h hout) rfl

/-- Arrival succeeds at words that are no instruction. -/
theorem illegalInstruction_of_arrive (ha : Runs arrive s ws u) {e : DecodeError} (hd : decodeAt ws k.pc.toNat = .error e) :
    exec .illegalInstruction s = .next (u.takeFault s.cur { code := 0x01, va := 0 } k.pc false) := by
  obtain ⟨k', hk, hpc⟩ := role_of_arrive h ha
  exact raiseFetch_of_runs h hr hs ha hk hpc hd

/-- A fault of arrival is raised by the step of its code. -/
theorem exec_of_raises_arrive {t : Trap} {keep : Option State} (ha : Raises arrive s t keep) {i : Instr}
    (hi : (t.code, i) ∈ [(0x01, Instr.illegalInstruction), (0x02, .illegalLine), (0x15, .illegalFlow)])
    (he : t.code = 0x15 → k.ended = false) : exec i s = .next (s.takeFault s.cur t k.pc false) := by
  have hraise {code : Nat} (hc : t.code = code) := raiseFetch_of_raises h hr hs ha hc
  simp only [List.mem_cons, Prod.mk.injEq, List.not_mem_nil, or_false] at hi
  rcases hi with ⟨hc, rfl⟩ | ⟨hc, rfl⟩ | ⟨hc, rfl⟩
  · exact hraise hc
  · exact hraise hc
  · rw [exec_illegalFlow, execIllegalFlow_going h (he hc)]
    exact hraise hc

variable (hin : k.pc.toNat < 2 ^ 55)
include hin

theorem illegalLine_in_hand (hand : (k.line ≠ [] ∧ ws = k.line) ∨ (k.line = [] ∧ s.lineHeld (s.self g) (k.pc.toNat / 64 * 64) = some ws))
    (hl : lineIllegal ws = true) : exec .illegalLine s =
      .next (s.takeFault s.cur { code := 0x02, va := BitVec.ofNat 64 (k.pc.toNat / 64 * 64) } k.pc false) := by
  obtain ⟨s1, hrun⟩ := runs_lineAtHand hand
  exact raiseFetch_of_raises h hr hs (arrive_raises h hin hrun (raises_arrivalChecks_line s1 hl)) rfl

theorem illegalFlow_in_hand (he : k.ended = false)
    (hand : (k.line ≠ [] ∧ ws = k.line) ∨ (k.line = [] ∧ s.lineHeld (s.self g) (k.pc.toNat / 64 * 64) = some ws))
    (hl : lineIllegal ws = false) (hbad : ownerOk s.cur.role g.inSequence (linkOwner (ws.headD 0)) = false
      ∨ (k.chained = true ∧ linkOwner (ws.headD 0) ≠ 3) ∨ k.pc.toNat % 4 ≠ 0 ∨ wordLegal ws (k.pc.toNat % 64 / 4) = false) :
    exec .illegalFlow s = .next (s.takeFault s.cur { code := 0x15, va := 0 } k.pc false) := by
  obtain ⟨s1, hrun⟩ := runs_lineAtHand hand
  have hcheck : Raises (arrivalChecks s.cur.role g k ws) s1 { code := 0x15, va := 0 } none := by
    by_cases ho : ownerOk s.cur.role g.inSequence (linkOwner (ws.headD 0)) = true
    case neg => exact raises_arrivalChecks_owner s1 hl (Bool.eq_false_iff.mpr ho)
    case pos =>
      by_cases hc : k.chained = true ∧ linkOwner (ws.headD 0) ≠ 3
      · exact raises_arrivalChecks_chained s1 hl ho hc.1 hc.2
      · have hword := (hbad.resolve_left fun hf => Bool.false_ne_true (hf.symm.trans ho)).resolve_left hc
        exact raises_arrivalChecks_word s1 hl ho (fun hk => not_not.mp fun h3 => hc ⟨hk, h3⟩) hword
  rw [exec_illegalFlow, execIllegalFlow_going h he]
  exact raiseFetch_of_raises h hr hs (arrive_raises h hin hrun hcheck) rfl

/-- The line that the role executes has a word that is no instruction. -/
theorem illegalInstruction_in_hand (hne : k.line ≠ []) (hl : lineIllegal k.line = false)
    (ho : ownerOk s.cur.role g.inSequence (linkOwner (k.line.headD 0)) = true) (hc : k.chained = true → linkOwner (k.line.headD 0) = 3)
    (ha : k.pc.toNat % 4 = 0) (hw : wordLegal k.line (k.pc.toNat % 64 / 4) = true) {e : DecodeError}
    (hd : decodeAt k.line k.pc.toNat = .error e) : exec .illegalInstruction s =
      .next ((s.onRole s.cur fun j => { j with line := k.line, chained := false }).takeFault s.cur { code := 0x01, va := 0 } k.pc false) := by
  have hrun := arrive_runs h hin (runs_lineInHand hne s) (runs_arrivalChecks s hl ho hc ha hw)
  simp only [arrived, if_neg (show ¬ k.line.isEmpty = true by simpa using hne)] at hrun
  exact illegalInstruction_of_arrive h hr hs hrun hd

end

/-! ### Queue stalls and the fault queue -/

theorem queueStall_due {s : State} {q : QueueName} (h : s.stalledQueue q = true) : exec (.queueStall q) s = .next (s.takeStalls s.stallHits) := by
  rw [exec_queueStall]
  exact if_pos h

theorem queueStall_not_due {s : State} {q : QueueName} (h : s.stalledQueue q = false) : exec (.queueStall q) s = .next s := by
  rw [exec_queueStall]
  exact if_neg (Bool.eq_false_iff.mp h)

theorem State.of_mem_stallHits {s : State} {p : QueueName × RoleId × Word} (h : p ∈ s.stallHits) : ∃ b ∈ s.allRoles, b.1 = p.2.1 ∧ b.2.2.pc = p.2.2
    ∧ s.stalledQueue p.1 = true ∧ ∃ w ∈ b.2.2.blocked, w.queue = p.1 := by
  rw [State.stallHits_eq, List.mem_filterMap] at h
  obtain ⟨b, hb, hp⟩ := h
  exact ⟨b, hb, State.stallOf_eq_some hp⟩

theorem faultQueueRetry_nil {s : State} {x : CtxId} (h : (s.ctx x).faultHeld = []) : exec (.faultQueueRetry x) s = .next s :=
  (exec_faultQueueRetry ..).trans (congrArg Host.Outcome.next (flushHeld_nil h _))

/-- Settles O47: the fetch faults by the checks of arrival, the stalls role by role, the retry by the write of one record, and the device-level
fault by what each of its steps leaves of the state. -/
theorem faultSteps : Obligations.FaultSteps := by
  unfold Obligations.FaultSteps
  refine ⟨fun s u g k t keep x q h => ⟨?_, ?_, queueStall_due,
    fun p => State.of_mem_stallHits, ?_, s.stallHits_sublist, queueStall_not_due, exec_faultQueueRetry x s, faultQueueRetry_nil, ?_, ?_⟩,
    fun s cls unit => ⟨fun hc => deviceLevelFault_reserved hc unit s, fun h1 h6 => ?_, s.group_stopAll, s.core_stopAll, s.traffic_stopAll.1,
      s.traffic_stopAll.2.1, s.traffic_stopAll.2.2.1, s.traffic_stopAll.2.2.2, s.tx_stopAll, fun y hy m hm => s.mem_txWait_stopAll hy hm,
      fun p hp => s.mem_lats_stopAll hp, fun x drain => rfl⟩⟩
  case refine_1 =>
    intro hr hs ws pc link owner count legal inHand
    have hlegal : legal ↔ lineIllegal ws = false := lineIllegal_eq_false.symm
    rw [hlegal, Bool.not_eq_false]
    refine ⟨fun hin => illegalLine_in_hand h hr hs hin, illegalFlow_outside h hr hs, fun he hin => illegalFlow_in_hand h hr hs hin he, ?_,
      fun ha e hd => illegalInstruction_of_arrive h hr hs ha hd, fun ha i => exec_of_raises_arrive h hr hs ha, fun he hseq => ?_,
      fun he hc hq => ?_⟩
    · rintro hne rfl hin hl ho hc ha hw e hd
      exact illegalInstruction_in_hand h hr hs hin hne hl ho hc ha hw hd
    · have hend : ¬ (s.cur.role = .compute ∧ g.inSequence = true) := fun ⟨hc, hq⟩ => Bool.false_ne_true ((hseq hc).symm.trans hq)
      rw [exec_illegalFlow, execIllegalFlow_ended h hr hs he, if_neg hend]
    · rw [exec_illegalFlow, execIllegalFlow_ended h hr hs he, if_pos ⟨hc, hq⟩]
  case refine_2 =>
    intro c i n b since hb user other hq hrun hgo hblocked hsince hmoved hrest hidle
    obtain ⟨t, b', hexec, hb', hk⟩ := queueStall_of_empty hb hq hrun hgo hblocked hsince hmoved hrest hidle
    have hcode : 0x0E < 2 ^ 8 := by decide
    refine ⟨t, b', hexec, hb', ?_⟩
    intro hit
    rw [show hit = _ from hk]
    exact ⟨rfl, causeWord_code hcode .., rfl, rfl, rfl, rfl, rfl⟩
  case refine_3 =>
    have horder := s.stallHits_pairwise
    rw [List.pairwise_map] at horder ⊢
    exact horder
  case refine_4 =>
    intro rcd hd s1 s2 s3 s4 hheld fq va w cap head tail hspace halign hread hok
    refine ⟨fun hc => faultQueueRetry_full hheld (runs_pushFault_full hspace halign hread hok hc), fun hc h2 h3 h4 hu => ?_⟩
    exact faultQueueRetry_one hheld (runs_pushFault_room hspace halign hread hok hc h2 h3 h4) hu
  case refine_5 =>
    intro rcd hheld hun hp hu
    exact faultQueueRetry_one hheld hp (by rw [hu, hun])
  case refine_6 =>
    obtain ⟨hcls, hunit, hcount, hkeep, hlose⟩ := registers_deviceFault s cls unit
    exact ⟨_, deviceLevelFault_named h1 h6 unit s, devDf_deviceFault .., hcls, hunit, hcount, hkeep, hlose,
      fun x hrun hl hrd ho => state_deviceFault_alone s _ unit ⟨ho, .inl hrun, hl, hrd⟩,
      fun hfree => ⟨hcls, hunit, hcount, group_deviceFault_free s _ unit hfree, hkeep⟩⟩

end Sys2Proof.Machine
end

section
/-! PROOFS. Checks in the body of an instruction that pass, fault or wait; instructions without operands. -/

namespace Sys2Proof.Machine

open Sys2Proof

theorem runs_faultIf_of {b : Bool} (h : b = false) (code va : Nat) (s : State) : Runs (faultIf b code va) s () s := by
  rw [h]
  exact runs_faultIf ..

theorem raises_faultIf_of {b : Bool} (h : b = true) (code va : Nat) (s : State) :
    Raises (faultIf b code va) s { code := code, va := BitVec.ofNat 64 va } none := by
  rw [h]
  exact raises_faultIf ..

theorem runs_waitIf_of {b : Bool} (h : b = false) (s : State) : Runs (waitIf b) s () s := by
  rw [h]
  exact runs_waitIf s

theorem waits_waitIf_of {b : Bool} (h : b = true) (s : State) : Waits (waitIf b) s := by
  rw [h]
  exact waits_waitIf s

section
variable {s : State} {g : Group} {k : Role} (h : Acts s g k)
include h

/-- The release side of an edge, where the role's matrix results are written (R146). -/
theorem runs_performed (hr : s.resultsPending s.cur = false) : Runs performed s () s :=
  runs_bind (runs_me h) (runs_bind (runs_get s) (runs_waitIf_of hr s))

theorem waits_performed (hr : s.resultsPending s.cur = true) : Waits performed s :=
  waits_bind_right (runs_me h) (waits_bind_right (runs_get s) (waits_waitIf_of hr s))

/-- An instruction without operands is taken as it is. -/
theorem taken_nil : Taken [] [] s [] s := taken_plain h (by simp) (by simp)

end

end Sys2Proof.Machine
end

section
/-! PROOFS. Results of the scalar arithmetic and logic instructions (R98, R99, O1). -/

namespace Sys2Proof.Machine

open Sys2Proof

/-- An instruction of two sources whose function is the statement's. -/
theorem results2_alu2 {i : Instr} {d a b : SReg} {f f' : Word → Word → Word} (hi : ∀ s, exec i s = alu2 f' d a b s)
    (hf : ∀ x y, f' x y = f x y) : Results2 i d a b f := fun s x y s1 s2 ht hg =>
  (hi s).trans (instr_seq (runs_pure () s) ht (by rw [← hf] at hg; exact hg))

/-! ### Products (R98) -/

theorem mulHigh_eq_ediv (x y : Word) : mulHigh x y = BitVec.ofInt 64 (x.toInt * y.toInt / 2 ^ 64) := by
  rw [mulHigh, Int.fdiv_eq_ediv_of_nonneg _ (by decide)]

theorem mulHighU_eq_truncate (x y : Word) : mulHighU x y = ((x.zeroExtend 128 * y.zeroExtend 128) >>> 64).truncate 64 := by
  have hx : x.toNat < 2 ^ 128 := Nat.lt_of_lt_of_le x.isLt (by decide)
  have hy : y.toNat < 2 ^ 128 := Nat.lt_of_lt_of_le y.isLt (by decide)
  have hxy : x.toNat * y.toNat < 2 ^ 128 :=
    calc x.toNat * y.toNat < 2 ^ 64 * 2 ^ 64 := Nat.mul_lt_mul'' x.isLt y.isLt
      _ = 2 ^ 128 := by decide
  apply BitVec.eq_of_toNat_eq
  simp only [mulHighU, BitVec.truncate, BitVec.zeroExtend, BitVec.toNat_ofNat, BitVec.toNat_setWidth, BitVec.toNat_ushiftRight,
    BitVec.toNat_mul, Nat.mod_eq_of_lt hx, Nat.mod_eq_of_lt hy, Nat.mod_eq_of_lt hxy, Nat.shiftRight_eq_div_pow]

/-! ### Division and remainder (R99) -/

theorem divS_eq_sdiv (x y : Word) : divS x y = if y = 0 then BitVec.allOnes 64 else x.sdiv y := by
  have hq : BitVec.ofInt 64 (x.toInt.tdiv y.toInt) = x.sdiv y := BitVec.eq_of_toInt_eq (by rw [BitVec.toInt_ofInt, BitVec.toInt_sdiv])
  rw [divS, hq]

theorem remS_eq_srem (x y : Word) : remS x y = x.srem y := by
  unfold remS
  split
  case isTrue h => rw [h]; exact BitVec.srem_zero.symm
  case isFalse => rw [← BitVec.toInt_srem, BitVec.ofInt_toInt]

theorem remU_eq_umod (x y : Word) : remU x y = x % y := by
  unfold remU
  split
  case isTrue h => rw [h]; exact BitVec.umod_zero.symm
  case isFalse => rfl

/-! ### Shift amounts, comparisons, choices (R98) -/

theorem toNat_and_63 (y : Word) : (y &&& 63).toNat = shamt y := by
  rw [BitVec.toNat_and]
  exact Nat.and_two_pow_sub_one_eq_mod y.toNat 6

theorem minS_eq_ite (x y : Word) : minS x y = if x.toInt ≤ y.toInt then x else y := by
  simp only [minS, BitVec.slt, decide_eq_true_eq, ← Int.not_le, ite_not]

theorem maxS_eq_ite (x y : Word) : maxS x y = if x.toInt ≤ y.toInt then y else x := by
  unfold maxS
  simp only [BitVec.slt, decide_eq_true_eq]
  rcases Int.lt_trichotomy x.toInt y.toInt with h | h | h
  · rw [if_pos h, if_pos (Int.le_of_lt h)]
  · rw [BitVec.eq_of_toInt_eq h, ite_self, ite_self]
  · rw [if_neg (by omega), if_neg (by omega)]

theorem minU_eq_ite (x y : Word) : minU x y = if x.toNat ≤ y.toNat then x else y := by
  simp only [minU, BitVec.ult, decide_eq_true_eq, ← Nat.not_le, ite_not]

theorem maxU_eq_ite (x y : Word) : maxU x y = if x.toNat ≤ y.toNat then y else x := by
  unfold maxU
  simp only [BitVec.ult, decide_eq_true_eq]
  rcases Nat.lt_trichotomy x.toNat y.toNat with h | h | h
  · rw [if_pos h, if_pos (Nat.le_of_lt h)]
  · rw [BitVec.eq_of_toNat_eq h, ite_self, ite_self]
  · rw [if_neg (by omega), if_neg (by omega)]

/-- A truth value that is decided by a condition. -/
theorem ofBool_of_iff {b : Bool} {c : Prop} [Decidable c] (h : b = true ↔ c) : ofBool b = if c then 1 else 0 := by
  unfold ofBool
  exact ite_congr (propext h) (fun _ => rfl) fun _ => rfl

theorem ofBool_bne (x y : Word) : ofBool (x != y) = if x = y then 0 else 1 := by
  rw [ofBool_of_iff bne_iff_ne, ite_not]

theorem shiftLeft_eq_mul (y : Word) (n : Nat) : y <<< n = BitVec.ofNat 64 (2 ^ n) * y := by
  apply BitVec.eq_of_toNat_eq
  rw [BitVec.toNat_shiftLeft, Nat.shiftLeft_eq, BitVec.toNat_mul, BitVec.toNat_ofNat, Nat.mod_mul_mod, Nat.mul_comm]

/-! ### Bit counts (R98) -/

/-- Leading zeros: the first one bit from the top stands at the logarithm. -/
theorem clzW_eq_find (x : Word) : clzW x = BitVec.ofNat 64 (((List.range 64).find? fun i => x.getLsbD (63 - i)).getD 64) := by
  unfold clzW clzW.bitsIn
  by_cases h0 : x.toNat = 0
  · have hnone : ((List.range 64).find? fun i => x.getLsbD (63 - i)) = none := by
      simp [List.find?_eq_none, BitVec.getLsbD, h0]
    rw [hnone, if_pos h0]
    rfl
  · have hlog : x.toNat.log2 < 64 := (Nat.log2_lt h0).mpr x.isLt
    have hsome : ((List.range 64).find? fun i => x.getLsbD (63 - i)) = some (63 - x.toNat.log2) := by
      rw [List.find?_range_eq_some]
      refine ⟨?_, List.mem_range.mpr (by omega), fun j hj => ?_⟩
      · rw [show 63 - (63 - x.toNat.log2) = x.toNat.log2 by omega]
        exact Nat.testBit_log2 h0
      · have hhigh : x.toNat < 2 ^ (63 - j) := (Nat.log2_lt h0).mp (by omega)
        simp [BitVec.getLsbD, Nat.testBit_lt_two_pow hhigh]
    rw [hsome, if_neg h0, Option.getD_some, show 64 - (x.toNat.log2 + 1) = 63 - x.toNat.log2 by omega]

theorem ctzFrom_eq_find (x : Word) (n i : Nat) : ctzFrom x n i = ((List.range' i n).find? fun j => x.getLsbD j).getD (i + n) := by
  induction n generalizing i with
  | zero => rfl
  | succ n ih =>
    rw [ctzFrom, List.range'_succ, List.find?_cons]
    cases x.getLsbD i with
    | true => rfl
    | false => simp only [Bool.false_eq_true, if_false, ih (i + 1), Nat.add_assoc, Nat.add_comm 1 n]

theorem popcW_eq_countP (x : Word) : popcW x = BitVec.ofNat 64 ((List.range 64).countP fun i => x.getLsbD i) := by
  rw [popcW, List.countP_eq_length_filter]

/-- Settles O1: each function of the model is the statement's. -/
theorem scalarResults : Obligations.ScalarResults := by
  unfold Obligations.ScalarResults
  refine ⟨fun d a b => ⟨?_, ?_, ?_, ?_, ?_, ?_, ?_, ?_, ?_, ?_, ?_, ?_, ?_, ?_, ?_, ?_, ?_, ?_, ?_, ?_, ?_, ?_, ?_, ?_, ?_, ?_, ?_, ?_, ?_,
    ?_, ?_⟩, fun d a => ⟨?_, ?_, ?_⟩⟩
  · exact results2_alu2 (exec_add d a b) fun _ _ => rfl
  · exact results2_alu2 (exec_sub d a b) fun _ _ => rfl
  · exact results2_alu2 (exec_mul d a b) fun _ _ => rfl
  · exact results2_alu2 (exec_mulh d a b) mulHigh_eq_ediv
  · exact results2_alu2 (exec_mulhn d a b) mulHighU_eq_truncate
  · exact results2_alu2 (exec_div d a b) divS_eq_sdiv
  · exact results2_alu2 (exec_divn d a b) fun _ _ => rfl
  · exact results2_alu2 (exec_rem d a b) remS_eq_srem
  · exact results2_alu2 (exec_remn d a b) remU_eq_umod
  · exact results2_alu2 (exec_and d a b) fun _ _ => rfl
  · exact results2_alu2 (exec_or d a b) fun _ _ => rfl
  · exact results2_alu2 (exec_xor d a b) fun _ _ => rfl
  · exact results2_alu2 (exec_andn d a b) fun _ _ => rfl
  · exact results2_alu2 (exec_shl d a b) fun x y => by rw [BitVec.shiftLeft_eq', toNat_and_63]
  · exact results2_alu2 (exec_shr d a b) fun x y => by rw [BitVec.ushiftRight_eq', toNat_and_63]
  · exact results2_alu2 (exec_sar d a b) fun x y => by rw [toNat_and_63]
  · exact results2_alu2 (exec_rol d a b) fun x y => by rw [toNat_and_63]
  · exact results2_alu2 (exec_min d a b) minS_eq_ite
  · exact results2_alu2 (exec_max d a b) maxS_eq_ite
  · exact results2_alu2 (exec_minn d a b) minU_eq_ite
  · exact results2_alu2 (exec_maxn d a b) maxU_eq_ite
  · exact results2_alu2 (exec_seq d a b) fun x y => ofBool_of_iff beq_iff_eq
  · exact results2_alu2 (exec_sne d a b) ofBool_bne
  · exact results2_alu2 (exec_slt d a b) ofBool_slt
  · exact results2_alu2 (exec_sltn d a b) fun x y => ofBool_of_iff (by simp [BitVec.ult])
  · exact results2_alu2 (exec_sle d a b) fun x y => ofBool_of_iff (by simp [BitVec.slt])
  · exact results2_alu2 (exec_slen d a b) fun x y => ofBool_of_iff (by simp [BitVec.ult])
  · exact results2_alu2 (exec_addsh1 d a b) fun x y => by rw [shiftLeft_eq_mul]; rfl
  · exact results2_alu2 (exec_addsh2 d a b) fun x y => by rw [shiftLeft_eq_mul]; rfl
  · exact results2_alu2 (exec_addsh3 d a b) fun x y => by rw [shiftLeft_eq_mul]; rfl
  · intro s x y old s1 s2 ht hg
    have hval : (if old ≠ 0 then x else y) = if old = 0 then y else x := ite_not ..
    exact (exec_sel ..).trans (instr_seq (runs_pure () s) ht (by rw [← hval] at hg; exact hg))
  · exact results1_alu1 (exec_clz d a) clzW_eq_find
  · exact results1_alu1 (exec_ctz d a) fun x => by rw [ctzW, ctzFrom_eq_find, List.range_eq_range']
  · exact results1_alu1 (exec_popc d a) popcW_eq_countP

end Sys2Proof.Machine
end

section
/-! PROOFS. NOP, CYC, TFENCE, TRAP and BRK (R115, R117, R118, O11). -/

namespace Sys2Proof.Machine

open Sys2Proof

section
variable {s : State} {g : Group} {k : Role} (h : Acts s g k)
include h

/-- TRAP and BRK: retired, and then the fault at their own address. -/
theorem trapWith_faults (cause : Nat) (code : BitVec 20) : trapWith cause code s =
    .next ((s.onRole s.cur fun k => k.retire 1).takeFault s.cur { code := cause, va := 0, info := code } k.pc true) := by
  refine (instr_next (runs_pure () s) (taken_nil h) (runs_pure _ s)).trans ?_
  simp only [State.continue_, role_of_acts h]

end

/-- Settles O11: the body of each, and what its flow does. -/
theorem systemInstructionResult : Obligations.SystemInstructionResult := by
  unfold Obligations.SystemInstructionResult
  refine ⟨fun s s1 g k d h => ⟨?_, fun s0 ht hg hc => ?_, fun hr => ?_, fun hr hf => ?_, fun hr hf => ?_⟩, fun s g k code h => ⟨?_, ?_⟩⟩
  · exact (exec_nop s).trans (instr_seq (runs_pure () s) (taken_nil h) (runs_pure () s))
  · rw [hc] at hg
    exact (exec_cyc ..).trans (instr_seq (runs_pure () s) ht hg)
  · exact (exec_tfence s).trans (instr_wait (runs_pure () s) (taken_nil h)
      (waits_bind (waits_bind_right (runs_me h) (waits_bind (waits_performed h hr)))))
  · exact (exec_tfence s).trans (instr_seq (runs_pure () s) (taken_nil h)
      (runs_bind (runs_me h) (runs_bind (runs_performed h hr) (runs_faultIf_of (bne_eq_false_iff_eq.mpr hf) ..))))
  · exact (exec_tfence s).trans (instr_seq_trap (runs_pure () s) (taken_nil h)
      (raises_bind_right (runs_me h) (raises_bind_right (runs_performed h hr) (raises_faultIf_of (bne_iff_ne.mpr hf) ..))))
  · exact (exec_trap ..).trans (trapWith_faults h 0x11 code)
  · exact (exec_brk ..).trans (trapWith_faults h 0x12 code)

end Sys2Proof.Machine
end

section
/-! PROOFS. Scalar loads and stores (R106, R145, R191, O5). -/

namespace Sys2Proof.Machine

open Sys2Proof

/-! ### Sizes and effective addresses (R66, R106) -/

theorem sizeBytes_eq_pow (sz : Size) : sizeBytes sz = 2 ^ sz.code := by
  cases sz <;> rfl

theorem effAddr_eq (x : Word) (off : BitVec 10) (n : Nat) : effAddr x off n = (x + off.signExtend 64 * BitVec.ofNat 64 n).toNat := by
  rw [effAddr, BitVec.ofInt_mul, BitVec.signExtend, BitVec.ofInt_natCast]

theorem ptrSpace_eq_div {p : Nat} (h : p < 2 ^ 64) : ptrSpace p = p / 2 ^ 60 :=
  Nat.mod_eq_of_lt (Nat.div_lt_of_lt_mul h)

/-! ### The checks of a scalar access (R106, R108, R145) -/

section
variable {s : State} {g : Group} {k : Role} {ea n top : Nat} (hlt : ea < 2 ^ 64)
include hlt

theorem raises_scalarChecks_space (hs : top < ea / 2 ^ 60) :
    Raises (scalarChecks ea n top) s { code := 0x05, va := BitVec.ofNat 64 ea } none :=
  raises_bind (raises_faultIf_of (by rw [ptrSpace_eq_div hlt]; exact decide_eq_true hs) ..)

theorem runs_scalarSpace (hs : ea / 2 ^ 60 ≤ top) : Runs (faultIf (decide (top < ptrSpace ea)) 0x05 ea) s () s :=
  runs_faultIf_of (by rw [ptrSpace_eq_div hlt]; exact decide_eq_false (Nat.not_lt.mpr hs)) ..

theorem raises_scalarChecks_align (hs : ea / 2 ^ 60 ≤ top) (ha : ea % n ≠ 0) :
    Raises (scalarChecks ea n top) s { code := 0x04, va := BitVec.ofNat 64 ea } none :=
  raises_bind_right (runs_scalarSpace hlt hs) (raises_bind (raises_faultIf_of (bne_iff_ne.mpr ha) ..))

theorem runs_scalarChecks (h : Acts s g k) (hs : ea / 2 ^ 60 ≤ top) (ha : ea % n = 0)
    (hr : ea / 2 ^ 60 = 2 → s.resultsPending s.cur = false) : Runs (scalarChecks ea n top) s () s := by
  refine runs_bind (runs_scalarSpace hlt hs) (runs_bind (runs_faultIf_of (bne_eq_false_iff_eq.mpr ha) ..)
    (runs_bind (runs_me h) (runs_bind (runs_get s) (runs_waitIf_of ?_ s))))
  simpa [ptrSpace_eq_div hlt] using hr

theorem waits_scalarChecks (h : Acts s g k) (hs : ea / 2 ^ 60 = 2) (htop : 2 ≤ top) (ha : ea % n = 0)
    (hr : s.resultsPending s.cur = true) : Waits (scalarChecks ea n top) s := by
  refine waits_bind_right (runs_scalarSpace hlt (hs.le.trans htop)) (waits_bind_right (runs_faultIf_of (bne_eq_false_iff_eq.mpr ha) ..)
    (waits_bind_right (runs_me h) (waits_bind_right (runs_get s) (waits_waitIf_of ?_ s))))
  rw [ptrSpace_eq_div hlt, hs, hr]
  rfl

end

/-! ### Instructions that begin with these checks -/

section
variable {i : Instr} {srcs dsts : List SReg} {vs : List Word} {body : List Word → X Unit} {rest : Unit → X Unit} {s s1 : State} {g : Group}
  {k : Role} {ea n top : Nat} (hi : exec i s = instr 1 srcs dsts noPre (seqBody body) s) (ht : Taken srcs dsts s vs s1)
  (hb : body vs = scalarChecks ea n top >>= rest) (hlt : ea < 2 ^ 64)
include hi ht hb hlt

theorem access_traps_space (hs : top < ea / 2 ^ 60) : Traps i s s1 0x05 ea :=
  hi.trans (instr_seq_trap (runs_pure () s) ht (hb ▸ raises_bind (raises_scalarChecks_space hlt hs)))

theorem access_traps_align (hs : ea / 2 ^ 60 ≤ top) (ha : ea % n ≠ 0) : Traps i s s1 0x04 ea :=
  hi.trans (instr_seq_trap (runs_pure () s) ht (hb ▸ raises_bind (raises_scalarChecks_align hlt hs ha)))

/-- Accumulator rows are not accessed before the role's matrix results are written. -/
theorem access_waits (h : Acts s1 g k) (hs : ea / 2 ^ 60 = 2) (htop : 2 ≤ top) (ha : ea % n = 0)
    (hr : s1.resultsPending s1.cur = true) : exec i s = .next (s.noteWait srcs dsts) :=
  hi.trans (instr_wait (runs_pure () s) ht (waits_bind (hb ▸ waits_bind (waits_scalarChecks hlt h hs htop ha hr))))

theorem access_retires {s2 : State} (h : Acts s1 g k) (hs : ea / 2 ^ 60 ≤ top) (ha : ea % n = 0)
    (hr : ea / 2 ^ 60 = 2 → s1.resultsPending s1.cur = false) (hrest : Runs (rest ()) s1 () s2) : Retires i s s2 :=
  hi.trans (instr_seq (runs_pure () s) ht (hb ▸ runs_bind (runs_scalarChecks hlt h hs ha hr) hrest))

end

/-! ### The access itself -/

/-- A load: the value of the bytes, as a function of it, to the destination. -/
theorem runs_load {s s1 s2 : State} {g : Group} {k : Role} {ea n : Nat} {bs : List Byte} {f : Nat → Word} {d : SReg} (h : Acts s g k)
    (hr : Runs (memReadBytes (s.self g) ea n) s bs s1) (hg : Gives d (f (leNat bs)) s1 s2) :
    Runs (do let v ← memReadNat (← whoami) ea n; writeDst d (f v)) s () s2 :=
  runs_bind (runs_whoami h) (runs_bind (runs_bind hr (runs_pure _ s1)) hg)

section
variable {s s1 : State} {g : Group} {k : Role} {ea n v : Nat} {a : Acc} (h : Acts s g k)
  (hw : Runs (memWriteBytes (s.self g) ea (leBytes n v) a) s () s1)
include h hw

/-- A store over nothing that a deferred node has still to read. -/
theorem runs_storeNat (hn : NoAlias s g [(ea, ea + n - 1)]) : Runs (storeNat ea n v a) s () s1 := by
  refine runs_bind (runs_whoami h) (runs_bind (runs_me h) ?_)
  dsimp only
  rw [show g.tile.aliased s.cur.core [bytesAt ea n] = [] from hn]
  exact hw

/-- A store over a source of deferred nodes: they are forced after the store's own checks, and before it (R191). -/
theorem runs_storeNat_forced {s2 s3 : State} (hn : ¬ NoAlias s g [(ea, ea + n - 1)])
    (hf : Runs (aliasCheck { core := s.cur.core, slot := s.cur.slot } [(ea, ea + n - 1)]) s () s2)
    (hw2 : Runs (memWriteBytes (s.self g) ea (leBytes n v) a) s2 () s3) : Runs (storeNat ea n v a) s () s3 := by
  obtain ⟨m, ms, hm⟩ := List.exists_cons_of_ne_nil hn
  refine runs_bind (runs_whoami h) (runs_bind (runs_me h) ?_)
  dsimp only
  rw [show g.tile.aliased s.cur.core [bytesAt ea n] = m :: ms from hm]
  refine runs_bind (runs_get s) ?_
  rw [show memWriteNat (s.self g) ea n v a s = _ from hw]
  exact runs_bind hf hw2

end

/-- Settles O5: the checks of the access in their order, then the access. -/
theorem loadStoreResult : Obligations.LoadStoreResult := by
  unfold Obligations.LoadStoreResult
  refine ⟨fun sz d a off s s1 s2 s3 g k x bs ea n hn hea ht h => ?_, fun sz d a off s s1 s2 s3 s4 g k x v ea n hn hea ht h => ?_⟩
  · rw [← sizeBytes_eq_pow] at hn
    subst hn
    rw [← effAddr_eq] at hea
    subst hea
    have hlt : effAddr x off (sizeBytes sz) < 2 ^ 64 := BitVec.isLt _
    have hld := exec_ld sz d a off s
    have hldz := exec_ldz sz d a off s
    refine ⟨fun hs => ⟨?_, ?_⟩, fun hs ha => ⟨?_, ?_⟩, fun hs ha hr hm => ⟨fun hg => ?_, fun hg => ?_⟩, fun hs ha hr => ⟨?_, ?_⟩⟩
    · exact access_traps_space hld ht rfl hlt hs
    · exact access_traps_space hldz ht rfl hlt hs
    · exact access_traps_align hld ht rfl hlt hs ha
    · exact access_traps_align hldz ht rfl hlt hs ha
    · exact access_retires hld ht rfl hlt h hs ha hr (runs_load (f := signExtBytes (sizeBytes sz)) h hm hg)
    · exact access_retires hldz ht rfl hlt h hs ha hr (runs_load (f := BitVec.ofNat 64) h hm hg)
    · exact access_waits hld ht rfl hlt h hs le_rfl ha hr
    · exact access_waits hldz ht rfl hlt h hs le_rfl ha hr
  · rw [← sizeBytes_eq_pow] at hn
    subst hn
    rw [← effAddr_eq] at hea
    subst hea
    have hlt : effAddr x off (sizeBytes sz) < 2 ^ 64 := BitVec.isLt _
    have hst := exec_st sz d a off s
    refine ⟨fun hs => ?_, fun hs ha => ?_, fun hs ha hr hm => ⟨fun hn => ?_, fun hn hf hm2 => ?_⟩, fun hs ha hr => ?_⟩
    · exact access_traps_space hst ht rfl hlt hs
    · exact access_traps_align hst ht rfl hlt hs ha
    · exact access_retires hst ht rfl hlt h hs ha hr (runs_storeNat h hm hn)
    · exact access_retires hst ht rfl hlt h hs ha hr (runs_storeNat_forced h hm hn hf hm2)
    · exact access_waits hst ht rfl hlt h hs le_rfl ha hr

end Sys2Proof.Machine
end

section
/-! PROOFS. Acquire loads, release stores, FENCE and the atomics (R108, R109, R119, O6). -/

namespace Sys2Proof.Machine

open Sys2Proof

/-! ### A body that begins with a step of some instructions only -/

section
variable {α : Type} {c : Prop} [Decidable c] {x : X Unit} {f : Unit → X α} {s t u : State} {a : α}

/-- A step that is made where a condition holds, with what follows it. -/
theorem runs_stepIf (hc : c → Runs x s () t) (hn : ¬ c → t = s) (hf : Runs (f ()) t a u) :
    Runs (if c then (do let r ← x; f r) else f ()) s a u := by
  split
  case isTrue h => exact runs_bind (hc h) hf
  case isFalse h => rw [hn h] at hf; exact hf

end

/-- The accesses that order are made in the spaces 0x0 and 0x1, which hold no accumulator rows (R108). -/
theorem noRows {ea : Nat} (hs : ea / 2 ^ 60 ≤ 1) {p : Prop} (h : ea / 2 ^ 60 = 2) : p := by
  omega

/-! ### The atomics (R109) -/

section
variable {sc : Scope} {o : MemOrder} {srcs : List SReg} {f : Word → List Word → Option Word} {d : SReg} {s s1 sa s2 s3 s4 : State} {g : Group}
  {k : Role} {vs : List Word} {bs : List Byte} {x : Word} (h1 : Acts s1 g k) (ha : Acts sa g k) (h2 : Acts s2 g k) (hs : x.toNat / 2 ^ 60 ≤ 1)
  (hal : x.toNat % 8 = 0) (hrel : o = .release ∨ o = .acqRel → s1.resultsPending s1.cur = false)
  (hacq : o = .acquire ∨ o = .acqRel → Runs (acquireRoot sc x.toNat) s1 () sa) (hno : o ≠ .acquire ∧ o ≠ .acqRel → sa = s1)
  (hr : Runs (memReadBytes (sa.self g) x.toNat 8 .atomic) sa bs s2) (hn : NoAlias s2 g [(x.toNat, x.toNat + 7)])
  (hg : Gives d (BitVec.ofNat 64 (leNat bs)) s3 s4)
include h1 ha h2 hs hal hrel hacq hno hr hn hg

/-- What an atomic does: the root of a pool region read afresh where it acquires, the old doubleword, the new one where there is one. -/
theorem atomic_retires {i : Instr} (hi : exec i s = atomic sc o srcs f d s) (ht : Taken srcs [d] s vs s1) (hx : arg vs 0 = x)
    (hst : ∀ v, f (BitVec.ofNat 64 (leNat bs)) vs = some v → Runs (memWriteBytes (s2.self g) x.toNat (leBytes 8 v.toNat) .atomic) s2 () s3)
    (hkeep : f (BitVec.ofNat 64 (leNat bs)) vs = none → s3 = s2) : Retires i s s4 := by
  subst hx
  refine access_retires hi ht rfl (BitVec.isLt _) h1 hs hal (noRows hs) ?_
  refine runs_stepIf (t := s1) (fun hc => runs_performed h1 (hrel hc)) (fun _ => rfl)
    (runs_stepIf hacq (fun hc => hno (not_or.mp hc)) (runs_bind (runs_whoami ha) (runs_bind (runs_bind hr (runs_pure _ s2)) ?_)))
  cases hf : f (BitVec.ofNat 64 (leNat bs)) vs with
  | none =>
    rw [hkeep hf] at hg
    exact hg
  | some v => exact runs_bind (runs_storeNat h2 (hst v hf) hn) hg

/-- An atomic of one operand stores its function of the old value and the operand. -/
theorem atom1_retires {i : Instr} {a b : SReg} {y v : Word} {f : Word → Word → Word} (hi : exec i s = atom1 f sc o d a b s)
    (ht : Taken [a, b] [d] s [x, y] s1) (hv : f (BitVec.ofNat 64 (leNat bs)) y = v)
    (hst : Runs (memWriteBytes (s2.self g) x.toNat (leBytes 8 v.toNat) .atomic) s2 () s3) : Retires i s s4 := by
  refine atomic_retires h1 ha h2 hs hal hrel hacq hno hr hn hg hi ht rfl (fun w hw => ?_) nofun
  rwa [← Option.some.inj hw, show f _ (arg [x, y] 1) = v from hv]

end

/-- Settles O6: the checks of the access, the order that the instruction adds, then its accesses. -/
theorem synchronizationResult : Obligations.SynchronizationResult := by
  unfold Obligations.SynchronizationResult
  refine ⟨fun sz sc kind d a b s s1 sa s2 s3 g k x v bs n hn h hs hal => ⟨fun ht hacq ha _ hr hg => ?_, fun ht hp hna hw => ?_,
    fun ht hp => ?_, fun hk => ?_, fun hk hp => ?_⟩,
    fun sc o d a b s s1 sa s2 s3 s4 g k x y c bs h1 ha _ h2 _ hs hal hrel hacq hno hr old hold hn hg => ⟨fun ht => ?_, fun ht => ?_⟩⟩
  · rw [← sizeBytes_eq_pow] at hn
    subst hn
    exact access_retires (exec_ldaq sz sc d a s) ht rfl x.isLt h hs hal (noRows hs)
      (runs_bind hacq (runs_load (f := BitVec.ofNat 64) ha hr hg))
  · rw [← sizeBytes_eq_pow] at hn
    subst hn
    exact access_retires (exec_strl sz sc a b s) ht rfl x.isLt h hs hal (noRows hs)
      (runs_bind (runs_performed h hp) (runs_storeNat h hw hna))
  · rw [← sizeBytes_eq_pow] at hn
    subst hn
    have hchecks := runs_scalarChecks x.isLt h hs hal (noRows hs)
    exact (exec_strl sz sc a b s).trans
      (instr_wait (runs_pure () s) ht (waits_bind (waits_bind_right hchecks (waits_bind (waits_performed h hp)))))
  · refine (exec_fence sc kind s1).trans (instr_seq (runs_pure () s1) (taken_nil h) ?_)
    split
    case isTrue => exact runs_pure () s1
    case isFalse hne => exact runs_performed h (hk.resolve_left hne)
  · refine (exec_fence sc kind s1).trans (instr_wait (runs_pure () s1) (taken_nil h) (waits_bind ?_))
    rw [if_neg hk]
    exact waits_performed h hp
  · subst hold
    intro Stores
    have stores {i : Instr} {f : Word → Word → Word} (hi : exec i s = atom1 f sc o d a b s) {v : Word}
        (hv : f (BitVec.ofNat 64 (leNat bs)) y = v) : Stores i v :=
      atom1_retires h1 ha h2 hs hal hrel hacq hno hr hn hg hi ht hv
    exact ⟨stores (exec_aadd ..) rfl, stores (exec_aand ..) rfl, stores (exec_aor ..) rfl, stores (exec_axor ..) rfl,
      stores (exec_amin ..) (minS_eq_ite ..), stores (exec_amax ..) (maxS_eq_ite ..), stores (exec_aminn ..) (minU_eq_ite ..),
      stores (exec_amaxn ..) (maxU_eq_ite ..), stores (exec_axchg ..) rfl⟩
  · subst hold
    have acas := atomic_retires h1 ha h2 hs hal hrel hacq hno hr hn hg (exec_acas sc o d a b s) ht rfl
    refine ⟨fun hc hw => acas (fun v hv => ?_) fun hv => ?_, fun hc hkeep => acas (fun v hv => ?_) fun _ => hkeep⟩
    · rwa [← Option.some.inj ((if_pos hc).symm.trans hv)]
    · exact absurd ((if_pos hc).symm.trans hv) nofun
    · exact absurd ((if_neg hc).symm.trans hv) nofun

end Sys2Proof.Machine
end

section
/-! PROOFS. Accesses of the host to registers, windows and memory (R121, R234, R255, R421, R440, O48). -/

namespace Sys2Proof.Machine

open Sys2Proof

/-! ### BAR0 (R234, R255, R440) -/

theorem registerWrite_misaligned {s : State} {off : Nat} {v : Word} (h : off % 8 ≠ 0) : exec (.registerWrite .host off v) s = .next s :=
  (exec_registerWrite ..).trans (if_pos (bne_iff_ne.mpr h))

section
variable {off : Nat} (h8 : off % 8 = 0)
include h8

/-- An aligned write of the host goes to the registers, to the launch windows, to the mailbox, or nowhere. -/
theorem registerWrite_aligned (v : Word) (s : State) : exec (.registerWrite .host off v) s =
    if off < 0x8000 then (if csrAssigned (0x1000 + off / 8) then sysWrite .host (0x1000 + off / 8) v s else .next s)
    else if 0x10000 ≤ off ∧ off < 0x20000 then launchWindowWrite (Fin.ofNat 16 ((off - 0x10000) / 4096)) (off % 4096) v s
    else if 0x20000 ≤ off ∧ off < 0x22000 then .next (s.mbWrite (off - 0x20000) v)
    else .next s :=
  (exec_registerWrite ..).trans (if_neg (by simpa using h8))

end

section
variable (x : CtxId) {f : Nat} (hf : f < 4096)
include hf

theorem windowOf_offset : (Fin.ofNat 16 ((0x10000 + f + 4096 * x.val - 0x10000) / 4096) : CtxId) = x := by
  apply Fin.ext
  simp only [Fin.val_ofNat]
  omega

/-- A write at a field of a context's launch window. -/
theorem registerWrite_window (h8 : f % 8 = 0) (v : Word) (s : State) :
    exec (.registerWrite .host (0x10000 + f + 4096 * x.val) v) s = launchWindowWrite x f v s := by
  rw [registerWrite_aligned (by omega), if_neg (by omega), if_pos (by omega), windowOf_offset x hf,
    show (0x10000 + f + 4096 * x.val) % 4096 = f by omega]

/-- A read at a field of a context's launch window. -/
theorem bar0Read_window (s : State) : s.bar0Read (0x10000 + f + 4096 * x.val) = s.launchWindow x f := by
  rw [State.bar0Read, if_neg (by omega), if_pos (by omega), windowOf_offset x hf,
    show (0x10000 + f + 4096 * x.val) % 4096 = f by omega]

end

/-! ### BAR2 (R421) -/

/-- The access that an operation of the host through BAR2 makes: of a store as many bytes as it holds. -/
abbrev bar2Access (x : CtxId) (o : Fin (2 ^ 30)) (len : Nat) (store : Option (List Byte)) : HostAccess :=
  ⟨x, o, store.elim len List.length, store⟩

section
variable {s : State} {x : CtxId} {o : Fin (2 ^ 30)} {len : Nat} {store : Option (List Byte)}

theorem bar2Access_outside (hok : hostAccessOk o.val (bar2Access x o len store).len = false) :
    exec (.hostBar2Access x o len store) s = .next s :=
  (exec_hostBar2Access ..).trans (if_pos (by simpa using hok))

variable (hok : hostAccessOk o.val (bar2Access x o len store).len = true)
include hok

theorem bar2Access_unassigned (hx : (s.ctx x).assigned = false) : exec (.hostBar2Access x o len store) s =
    .next (s.bar2End (bar2Access x o len store) (bar2Access x o len store).abort) :=
  (exec_hostBar2Access ..).trans ((if_neg (by simpa using hok)).trans (if_pos (by simpa using hx)))

/-- An access that is made: what it comes to decides the completion. -/
theorem bar2Access_made (hx : (s.ctx x).assigned = true) {r : Except Stop (List Byte × State)}
    (hr : (bar2Access x o len store).act ((s.ctx x).apBase.toNat + o.val) s = r) :
    (∀ bs t, r = .ok (bs, t) → exec (.hostBar2Access x o len store) s = .next (t.bar2End (bar2Access x o len store) ⟨false, bs⟩))
    ∧ ∀ t keep, r = .error (.trap t keep) → exec (.hostBar2Access x o len store) s = .next
        ((s.bar2End (bar2Access x o len store) (bar2Access x o len store).abort).deliverOther x 2 t.code t.va.toNat) := by
  have hexec := (exec_hostBar2Access x o len store s).trans ((if_neg (by simpa using hok)).trans (if_neg (by simpa using hx)))
  constructor
  · rintro bs t rfl
    refine hexec.trans ?_
    rw [show HostAccess.act _ _ s = _ from hr]
  · rintro t keep rfl
    refine hexec.trans ?_
    rw [show HostAccess.act _ _ s = _ from hr]

end

/-- Settles O48: where in BAR0 a write goes; through BAR2, the bounds, the context, and then the access. -/
theorem hostAccesses : Obligations.HostAccesses := by
  unfold Obligations.HostAccesses
  intro s s1 off len v x r o bs t keep
  refine ⟨fun h8 hlt hc => ?_, ?_, ?_, fun h8 hlt => ?_, registerWrite_misaligned, fun hp hlo hc => ?_, ?_, ?_, fun hx hok => ?_,
    fun hok => ?_, ?_, ?_, ?_⟩
  · rw [registerWrite_aligned h8, if_pos hlt, if_pos hc]
  · exact registerWrite_window x (f := 0) (by decide) rfl v s
  · exact registerWrite_window x (f := 16) (by decide) rfl v s
  · rw [registerWrite_aligned (by omega), if_neg (by omega), if_neg (by omega), if_pos (by omega), Nat.add_sub_cancel_left]
  · exact (exec_registerWrite ..).trans (if_pos (by simp [hp, hlo, hc]))
  · show Host.Outcome.next _ = _
    rw [Nat.mod_eq_of_lt v.isLt]
  · intro hx va rd wr
    refine ⟨fun hok => ⟨fun hr => ?_, fun hr => ?_⟩, fun hok => ⟨fun hr => ?_, fun hr => ?_⟩⟩
    · exact (bar2Access_made (store := none) hok hx hr).1 bs s1 rfl
    · exact (bar2Access_made (store := none) hok hx hr).2 t keep rfl
    · exact (bar2Access_made (len := len) (store := some bs) hok hx (runs_bind hr (runs_pure [] s1))).1 [] s1 rfl
    · exact (bar2Access_made (len := len) (store := some bs) hok hx (raises_bind hr)).2 t keep rfl
  · exact bar2Access_unassigned (store := none) hok hx
  · exact bar2Access_outside (store := none) hok
  · exact bar0Read_window x (f := 8) (by decide) s
  · exact bar0Read_window x (f := 16) (by decide) s
  · exact bar0Read_window x (f := 0) (by decide) s

end Sys2Proof.Machine
end

section
/-! PROOFS. FORK, MEET, PROG, END, PARK and YIELD (R116, R272 to R274, R277 to R279, R284, R289, O39). -/

namespace Sys2Proof.Machine

open Sys2Proof

/-! ### Checks that several of them make -/

/-- What follows a body that runs to its end. -/
theorem bind_of_runs {α β : Type} {x : X α} {s t : State} {a : α} (h : Runs x s a t) (f : α → X β) : (x >>= f) s = f a t :=
  (bind_apply x f s).trans (by rw [show x s = _ from h])

section
variable {s : State} {g : Group} {k : Role} (h : Acts s g k)
include h

theorem runs_computeOnly (hc : s.cur.role = .compute) : Runs computeOnly s () s :=
  runs_bind (runs_me h) (runs_faultIf_of (bne_eq_false_iff_eq.mpr hc) ..)

/-- Another role than compute may not issue them (R81). -/
theorem computeOnly_traps (hc : s.cur.role ≠ .compute) {i : Instr} {size : Nat} {srcs dsts : List SReg} {body : List Word → X Flow}
    (hi : exec i s = instr size srcs dsts computeOnly body s) : Traps i s s 0x01 0 :=
  hi.trans (instr_trap_pre (k := none) (raises_bind_right (runs_me h) (raises_faultIf_of (bne_iff_ne.mpr hc) ..)))

omit h in
/-- Where no command is covered none holds a fault (R337). -/
theorem runs_heldFault {c : CoreId} {covers : Cmd → Bool} (hq : ∀ x ∈ (s.core c).cmds, covers x = false) :
    Runs (heldFault c covers) s () s := by
  refine runs_bind (runs_get s) ?_
  dsimp only
  split
  case h_1 => exact runs_pure () s
  case h_2 hit hsome =>
    obtain ⟨x, hx, hfault⟩ := List.exists_of_findSome?_eq_some hsome
    rw [hq x hx] at hfault
    split at hfault <;> cases hfault

/-- A group without commands has none to wait for. -/
theorem runs_awaitCopies (hq : ∀ x ∈ (s.core s.cur.core).cmds, x.of s.cur.slot g = false) (which : Cmd → Bool) :
    Runs (awaitCopies which) s () s := by
  have hmine : ∀ x ∈ (s.core s.cur.core).cmds, (x.of s.cur.slot g && which x) = false := fun x hx => by rw [hq x hx]; rfl
  exact runs_bind (runs_me h) (runs_bind (runs_heldFault hmine) (runs_bind (runs_get s)
    (runs_waitIf_of (List.any_eq_false.mpr fun x hx => ne_true_of_eq_false (hmine x hx)) s)))

end

/-- An instruction after which its role or its group has left. -/
theorem instr_gone {size : Nat} {srcs dsts : List SReg} {pre : X Unit} {body : List Word → X Flow} {s s1 s2 : State} {vs : List Word}
    (hp : Runs pre s () s) (ht : Taken srcs dsts s vs s1) (hb : Runs (body vs) s1 .gone s2) : instr size srcs dsts pre body s = .next s2 :=
  instr_next hp ht hb

theorem runs_lowSpace {p : Nat} (hp : p < 2 ^ 64) (hs : p / 2 ^ 60 ≤ 1) (s : State) : Runs (lowSpace p) s () s :=
  runs_faultIf_of (by rw [ptrSpace_eq_div hp]; exact decide_eq_false (Nat.not_lt.mpr hs)) ..

theorem Role.isIdle_iff {k : Role} : k.isIdle = true ↔ k.status = .idle := beq_iff_eq

theorem Group.soleCompute_iff {g : Group} : g.soleCompute = true ↔ (g.role .fetch).status = .idle ∧ (g.role .drain).status = .idle := by
  rw [Group.soleCompute, Bool.and_eq_true, Role.isIdle_iff, Role.isIdle_iff]

/-- A group that no sequence of the part runs for, and whose fetch and drain are idle, may park and yield (R277, R284). -/
theorem Group.free_of_idle {g : Group} (hseq : g.inSequence = false) (hf : (g.role .fetch).status = .idle)
    (hd : (g.role .drain).status = .idle) : (g.inSequence || !g.soleCompute) = false := by
  simp [hseq, Group.soleCompute_iff.mpr ⟨hf, hd⟩]

/-! ### A role that is started (R272) -/

theorem vector_get_replicate {α : Type} {n : Nat} (x : α) (j : Fin n) : (Vector.replicate n x).get j = x := by
  rw [Vector.get_eq_getElem, Vector.getElem_replicate]

theorem vget_foldl_vset {α : Type} {n : Nat} (f : Fin n → α) (rs : List (Fin n)) (v : Vector α n) (j : Fin n) :
    vget (rs.foldl (fun v r => vset v r (f r)) v) j = if j ∈ rs then f j else vget v j := by
  induction rs generalizing v with
  | nil => rfl
  | cons r rs ih =>
    rw [List.foldl_cons, ih]
    by_cases hj : j = r
    · subst hj
      simp
    · simp [hj, vget_vset_other _ _ hj]

/-- The registers of a role that FORK starts. -/
theorem Role.regs_forked (old compute : Role) (pc : Nat) (j : Fin 64) :
    (old.forked compute pc).regs.get j = if 2 ≤ j.val ∧ j.val ≤ 7 then compute.regs.get j else 0 := by
  have hmem : j ∈ ([2, 3, 4, 5, 6, 7] : List SReg) ↔ 2 ≤ j.val ∧ j.val ≤ 7 := by
    simp [Fin.ext_iff]
    omega
  refine (vget_foldl_vset compute.reg _ _ j).trans (ite_congr (propext hmem) (fun hj => ?_) fun _ => vector_get_replicate _ j)
  exact if_neg (by rintro rfl; simp at hj)

/-- A role that is started stands at word 1 of its line. -/
theorem runs_startRole {s : State} {g : Group} {k : Role} (h : Acts s g k) (r : RoleKind) {delta : BitVec 20} {n : Nat} (hd : delta ≠ 0)
    (hn : (n : Int) = (k.pc.toNat / 64 * 64 : Nat) + 64 * delta.toInt + 4) (hlt : n < 2 ^ 55) :
    Runs (startRole r delta) s () (s.onGroup s.cur.core s.cur.slot fun z => z.onRole r fun _ => (g.role r).forked k n) := by
  refine runs_bind (runs_me h) ?_
  rw [if_neg hd, jumpTo_eq_goto (word := 1) hn hlt, State.onGroup_congr h (f' := fun z => z.onRole r fun x => x.forked k n) rfl]
  exact runs_modify _ s

/-! ### Leaving the slot (R116, R277, R395) -/

section
variable {s t : State} {g : Group} {k : Role} {last : X Unit} (h : Acts s g k) (hl : Runs last s () t)
include h hl

/-- No stream is left: the slot is free after what the group does last. -/
theorem runs_leaveWith (hs : (s.releaseStreams s.cur g).streamsOf s.cur g = []) :
    Runs (leaveWith last) s .gone ((t.vacate s.cur.core s.cur.slot).releaseStreams s.cur g) := by
  refine runs_bind (runs_me h) (runs_bind (runs_get s) (runs_bind hl (runs_bind (runs_modify _ t) (runs_bind (runs_get _) ?_))))
  rw [if_pos (List.isEmpty_iff.mpr hs)]
  exact runs_bind (runs_set _ _) (runs_pure _ _)

/-- While streams are left, only their release is asked for. -/
theorem runs_leaveWith_streams (hs : (s.releaseStreams s.cur g).streamsOf s.cur g ≠ []) :
    Runs (leaveWith last) s .gone (s.releaseStreams s.cur g) := by
  refine runs_bind (runs_me h) (runs_bind (runs_get s) (runs_bind hl (runs_bind (runs_modify _ t) (runs_bind (runs_get _) ?_))))
  rw [if_neg (mt List.isEmpty_iff.mp hs)]
  exact runs_bind (runs_set _ _) (runs_pure _ _)

end

/-! ### MEET (R274) -/

/-- The first index where a condition holds. -/
theorem find?_finRange {n : Nat} {p : Fin n → Bool} {q : Fin n} (hq : p q = true) (hmin : ∀ r < q, p r = false) :
    (List.finRange n).find? p = some q := by
  rw [List.find?_eq_some_iff_getElem]
  refine ⟨hq, q.val, by simp, by simp, fun j hj => ?_⟩
  rw [List.getElem_finRange, hmin _ hj]
  rfl

theorem meet_eq_arrive {s : State} (hc : s.cur.role ≠ .compute) : exec .meet s = meetArrive s := by
  refine (exec_meet s).trans ?_
  unfold execMeet
  split
  case h_1 hr => exact absurd hr hc
  all_goals rfl

theorem meet_eq_compute {s : State} (hc : s.cur.role = .compute) : exec .meet s = meetCompute s := by
  refine (exec_meet s).trans ?_
  unfold execMeet
  rw [hc]

section
variable {s : State} {g : Group} {k : Role} (h : Acts s g k)
include h

/-- Fetch and drain arrive, and leave their queues. -/
theorem meet_arrives (hc : s.cur.role ≠ .compute) (hr : s.resultsPending s.cur = false) :
    exec .meet s = .next ((s.leaveQueues g.ctx s.cycle.toNat k.ports.toList).onRole s.cur fun r =>
      { r with status := .arrived, regs := Vector.replicate 64 0, ports := Vector.replicate 4 .unbound, loops := [], blocked := []
               restAt := s.cycle.toNat }) :=
  (meet_eq_arrive hc).trans (instr_gone (runs_pure () s) (taken_nil h) (runs_bind (runs_me h)
    (runs_bind (runs_performed h hr) (runs_bind (runs_get s) (runs_bind (runs_modify _ s) (runs_pure _ _))))))

theorem meet_waits_results (hc : s.cur.role ≠ .compute) (hr : s.resultsPending s.cur = true) :
    exec .meet s = .next (s.noteWait [] []) :=
  (meet_eq_arrive hc).trans (instr_wait (runs_pure () s) (taken_nil h) (waits_bind_right (runs_me h) (waits_bind (waits_performed h hr))))

variable (hc : s.cur.role = .compute)
include hc

/-- Compute waits for the roles that run. -/
theorem meet_waits_roles (hr : (g.role .fetch).status = .running ∨ (g.role .drain).status = .running) :
    exec .meet s = .next (s.noteWait [] []) :=
  (meet_eq_compute hc).trans (instr_wait (runs_pure () s) (taken_nil h)
    (waits_bind (waits_bind_right (runs_me h) (waits_bind (waits_waitIf_of (by simpa using hr) s)))))

theorem meet_retires_idle (hf : (g.role .fetch).status = .idle) (hd : (g.role .drain).status = .idle) : Retires .meet s s := by
  refine (meet_eq_compute hc).trans (instr_seq (runs_pure () s) (taken_nil h) (runs_bind (runs_me h)
    (runs_bind (runs_waitIf_of (by simp [hf, hd]) s) ?_)))
  dsimp only
  rw [if_pos (show ((g.role .fetch).isIdle && (g.role .drain).isIdle) = true from Group.soleCompute_iff.mpr ⟨hf, hd⟩)]
  exact runs_pure () s

variable (hf : (g.role .fetch).status ≠ .running) (hd : (g.role .drain).status ≠ .running)
  (hi : ¬ ((g.role .fetch).status = .idle ∧ (g.role .drain).status = .idle))
include hf hd hi

/-- The roles have arrived, and a role queue is not empty. -/
theorem meet_traps {q : Fin 4} (hq : g.roleq.get q ≠ []) (hmin : ∀ p : Fin 4, p < q → g.roleq.get p = []) :
    Traps .meet s s 0x0D (60 + q.val) := by
  have hfind : ((List.finRange 4).find? fun q => !(vget g.roleq q).isEmpty) = some q :=
    find?_finRange (by simpa [vget] using hq) fun p hp => by simp [vget, hmin p hp]
  refine (meet_eq_compute hc).trans (instr_seq_trap (runs_pure () s) (taken_nil h) (raises_bind_right (runs_me h)
    (raises_bind_right (runs_waitIf_of (by simp [hf, hd]) s) ?_)))
  dsimp only
  rw [if_neg (show ¬ ((g.role .fetch).isIdle && (g.role .drain).isIdle) = true from mt Group.soleCompute_iff.mp hi), hfind]
  exact raises_fault ..

/-- The roles have arrived, and their queues are empty. -/
theorem meet_retires (hq : ∀ q : Fin 4, g.roleq.get q = []) : Retires .meet s (s.onGroup s.cur.core s.cur.slot fun z =>
    (z.onRole .fetch fun r => { r with status := .idle }).onRole .drain fun r => { r with status := .idle }) := by
  have hfind : ((List.finRange 4).find? fun q => !(vget g.roleq q).isEmpty) = none :=
    List.find?_eq_none.mpr fun q _ => by simp [vget, hq]
  refine (meet_eq_compute hc).trans (instr_seq (runs_pure () s) (taken_nil h) (runs_bind (runs_me h)
    (runs_bind (runs_waitIf_of (by simp [hf, hd]) s) ?_)))
  dsimp only
  rw [if_neg (show ¬ ((g.role .fetch).isIdle && (g.role .drain).isIdle) = true from mt Group.soleCompute_iff.mp hi), hfind]
  exact runs_modify _ s

end

/-! ### FORK (R273) -/

section
variable {s : State} {g : Group} {k : Role} {x y : BitVec 20} (h : Acts s g k) (hc : s.cur.role = .compute)
include h hc

theorem fork_traps
    (hbad : g.inSequence = true ∨ (x ≠ 0 ∧ (g.role .fetch).status ≠ .idle) ∨ (y ≠ 0 ∧ (g.role .drain).status ≠ .idle)) :
    Traps (.fork x y) s s 0x15 0 := by
  refine (exec_fork ..).trans (instr_seq_trap (runs_computeOnly h hc) (taken_nil h) (raises_bind_right (runs_me h) ?_))
  cases hseq : g.inSequence with
  | true => exact raises_bind (raises_faultIf_of rfl ..)
  | false =>
    refine raises_bind_right (runs_faultIf_of rfl ..) (raises_bind (raises_faultIf_of ?_ ..))
    simpa [hseq, ← Role.isIdle_iff] using hbad

variable (hseq : g.inSequence = false) (hx : x ≠ 0 → (g.role .fetch).status = .idle) (hy : y ≠ 0 → (g.role .drain).status = .idle)
include hseq hx hy

omit h hc hseq in
theorem runs_forkChecks : Runs (faultIf ((x != 0 && !(g.role .fetch).isIdle) || (y != 0 && !(g.role .drain).isIdle)) 0x15 0) s () s :=
  runs_faultIf_of (by simpa [← Role.isIdle_iff] using And.intro hx hy) ..

theorem fork_waits (hr : s.resultsPending s.cur = true) : exec (.fork x y) s = .next (s.noteWait [] []) :=
  (exec_fork ..).trans (instr_wait (runs_computeOnly h hc) (taken_nil h) (waits_bind (waits_bind_right (runs_me h)
    (waits_bind_right (runs_faultIf_of hseq ..) (waits_bind_right (runs_forkChecks hx hy) (waits_bind (waits_performed h hr)))))))

theorem fork_retires {s1 s2 : State} (hr : s.resultsPending s.cur = false) (h1 : Runs (startRole .fetch x) s () s1)
    (h2 : Runs (startRole .drain y) s1 () s2) : Retires2 (.fork x y) s s2 :=
  (exec_fork ..).trans (instr_seq (runs_computeOnly h hc) (taken_nil h) (runs_bind (runs_me h) (runs_bind (runs_faultIf_of hseq ..)
    (runs_bind (runs_forkChecks hx hy) (runs_bind (runs_performed h hr) (runs_bind h1 h2))))))

end

/-! ### END and PARK (R116, R277, R278) -/

/-- What END does last: its arrival at its parent, its count at its launch, what its mates see. -/
theorem runs_lastOfEnd {w : Who} {r : Record} {x : CtxId} {n : Nat} {s s1 : State} {g : Group}
    (hj : Runs (do joinParent w r; groupDone x n) s () s1) :
    Runs (do joinParent w r; groupDone x n; modify fun s => s.partMates g) s () (s1.partMates g) := by
  obtain ⟨_, u, hp, hd⟩ := runs_bind_inv hj
  exact runs_bind hp (runs_bind hd (runs_modify _ s1))

/-- What PARK does last: its record, its own arrival there, and the record's push where that arrival is the last. -/
theorem runs_lastOfPark {w : Who} {p j : Nat} {b c : List Byte} {s s1 s2 s3 s4 : State} (h1 : Runs (memWriteBytes w p b) s () s1)
    (h2 : Runs (memWriteBytes w (p + 20) c) s1 () s2) (h3 : Runs (joinArrive w p) s2 j s3) (hpush : j = 0 → Runs (pushFrom w p) s3 () s4)
    (hkeep : j ≠ 0 → s4 = s3) :
    Runs (do
      memWriteBytes w p b
      memWriteBytes w (p + 20) c
      let j ← joinArrive w p
      if j = 0 then pushFrom w p else pure ()) s () s4 := by
  refine runs_bind h1 (runs_bind h2 (runs_bind h3 ?_))
  split
  case isTrue hj => exact hpush hj
  case isFalse hj => rw [hkeep hj]; exact runs_pure () s3

section
variable {s : State} {g : Group} {k : Role} (h : Acts s g k) (hc : s.cur.role = .compute)
include h hc

theorem endGroup_traps (hbad : g.inSequence = true ∨ (g.role .fetch).status = .running ∨ (g.role .drain).status = .running) :
    Traps .endGroup s s 0x15 0 := by
  refine (exec_endGroup s).trans (instr_trap (k := none) (runs_computeOnly h hc) (taken_nil h) (raises_bind_right (runs_me h) ?_))
  cases hseq : g.inSequence with
  | true => exact raises_bind (raises_faultIf_of rfl ..)
  | false =>
    refine raises_bind_right (runs_faultIf_of rfl ..) (raises_bind (raises_faultIf_of ?_ ..))
    simpa [hseq] using hbad

variable (hseq : g.inSequence = false) (hq : ∀ x ∈ (s.core s.cur.core).cmds, x.of s.cur.slot g = false)
include hseq hq

/-- END, where the group may end: what it does last, and it leaves. -/
theorem endGroup_of_leaveWith {t : State} (hf : (g.role .fetch).status ≠ .running) (hd : (g.role .drain).status ≠ .running)
    (hl : Runs (leaveWith do
      joinParent (s.self g) g.record; groupDone g.ctx g.record.launch; modify fun s => s.partMates g) s .gone t) :
    exec .endGroup s = .next t := by
  refine (exec_endGroup s).trans (instr_gone (runs_computeOnly h hc) (taken_nil h) (runs_bind (runs_me h) (runs_bind (runs_faultIf_of hseq ..)
    (runs_bind (runs_faultIf_of ?_ ..) (runs_bind (runs_awaitCopies h hq _) (runs_bind (runs_whoami h) hl))))))
  simp [hf, hd]

/-- PARK, where the group may park: its record and its arrival there, and it leaves. -/
theorem park_of_leaveWith {a : SReg} {p q : Nat} {rcd : Record} {t : State} (ha : a.isPort = false) (hpa : p = (k.reg a).toNat)
    (hs : p / 2 ^ 60 ≤ 1) (hal : p % 32 = 0) (hf : (g.role .fetch).status = .idle) (hd : (g.role .drain).status = .idle)
    (hnext : nextPc k.line k.pc.toNat 1 = some q)
    (hr : rcd = ⟨q, (k.reg 3).toNat, 0, g.record.index, g.record.launch,
      recordFlags g.record.prio.val g.record.pj false g.record.clu⟩)
    (hl : Runs (leaveWith do
      memWriteBytes (s.self g) p (rcd.bytes.take 16)
      memWriteBytes (s.self g) (p + 20) (rcd.bytes.drop 20)
      let j ← joinArrive (s.self g) p
      if j = 0 then pushFrom (s.self g) p else pure ()) s .gone t) :
    exec (.park a) s = .next t := by
  subst hpa hr
  refine (exec_park ..).trans (instr_gone (runs_computeOnly h hc) (taken_plain h (by simpa using ha) (by simp)) (runs_bind (runs_me h)
    (runs_bind (runs_whoami h) (runs_bind (runs_faultIf_of (Group.free_of_idle hseq hf hd) ..) (runs_bind (runs_lowSpace (BitVec.isLt _) hs s)
      (runs_bind (runs_faultIf_of (bne_eq_false_iff_eq.mpr hal) ..) ?_))))))
  dsimp only
  rw [hnext]
  exact runs_bind (runs_awaitCopies h hq _) hl

end

/-! ### YIELD (R284, R289) -/

/-- What YIELD does behind its checks: it saves a group that is marked for a checkpoint. -/
def Group.yieldFlow (g : Group) (x y : BitVec 20) : X Flow :=
  match g.state with
  | .marked _ => yieldMarked x y
  | _ => pure .seq

theorem Group.yieldFlow_marked {g : Group} {t : Nat} (hm : g.state = .marked t) (x y : BitVec 20) : g.yieldFlow x y = yieldMarked x y := by
  rw [Group.yieldFlow, hm]

theorem Group.yieldFlow_unmarked {g : Group} (hm : ∀ t, g.state ≠ .marked t) (x y : BitVec 20) : g.yieldFlow x y = pure .seq := by
  unfold Group.yieldFlow
  split
  case h_1 t ht => exact absurd ht (hm t)
  case h_2 => rfl

section
variable {s : State} {g : Group} {k : Role} {x y : BitVec 20} (h : Acts s g k) (hc : s.cur.role = .compute) (hseq : g.inSequence = false)
  (hf : (g.role .fetch).status = .idle) (hd : (g.role .drain).status = .idle) (hs : (k.reg 3).toNat / 2 ^ 60 ≤ 1)
  (hal : (k.reg 3).toNat % 64 = 0)
include h hc hseq hf hd hs hal

theorem yield_next {f : Flow} {s2 : State} (hr : Runs (g.yieldFlow x y) s f s2) : exec (.yield x y) s = .next (s2.continue_ 2 f) := by
  exact (exec_yield ..).trans (instr_next (runs_computeOnly h hc) (taken_nil h) (runs_bind (runs_me h)
    (runs_bind (runs_faultIf_of (Group.free_of_idle hseq hf hd) ..) (runs_bind (runs_lowSpace (BitVec.isLt _) hs s)
      (runs_bind (runs_faultIf_of (bne_eq_false_iff_eq.mpr hal) ..) hr)))))

theorem yield_waits (hw : Waits (g.yieldFlow x y) s) : exec (.yield x y) s = .next (s.noteWait [] []) := by
  exact (exec_yield ..).trans (instr_wait (runs_computeOnly h hc) (taken_nil h) (waits_bind_right (runs_me h)
    (waits_bind_right (runs_faultIf_of (Group.free_of_idle hseq hf hd) ..) (waits_bind_right (runs_lowSpace (BitVec.isLt _) hs s)
      (waits_bind_right (runs_faultIf_of (bne_eq_false_iff_eq.mpr hal) ..) hw)))))

end

theorem State.cmds_onGroup (s : State) (c : CoreId) (i : SlotId) (f : Group → Group) (d : CoreId) :
    ((s.onGroup c i f).core d).cmds = (s.core d).cmds := by
  unfold State.onGroup
  split
  · rfl
  · unfold State.setGroup State.onCore State.core
    dsimp only
    by_cases hd : d = c
    · subst hd
      rw [vget_vset_same]
    · rw [vget_vset_other _ _ hd]

/-- A group without commands has none to squash. -/
theorem State.ownCopies_nil {s : State} {c : CoreId} {i : SlotId} {g : Group} (hq : ∀ x ∈ (s.core c).cmds, x.of i g = false) :
    s.ownCopies c i g = [] :=
  List.filter_eq_nil_iff.mpr fun x hx => by rw [hq x hx]; exact Bool.false_ne_true

section
variable {s : State} {g : Group} {k : Role} {x y : BitVec 20} {cont save restore : Nat} (h : Acts s g k)
  (hcont : nextPc k.line k.pc.toNat 2 = some cont) (hsave : lineAt k.pc x = some save) (hrest : lineAt k.pc y = some restore)
include h hcont hsave hrest

/-- The save waits for the group's matrix results. -/
theorem waits_yieldMarked (hr : s.groupResults s.cur.core s.cur.slot g = true) : Waits (yieldMarked x y) s := by
  refine waits_bind_right (runs_me h) ?_
  dsimp only
  rw [hcont, hsave, hrest]
  exact waits_bind_right (runs_get s) (waits_bind (waits_waitIf_of hr s))

/-- The first YIELD of a group without commands asks for its streams to park, and saves once they stand. -/
theorem yieldMarked_of_quiet {s1 : State} (hr : s.groupResults s.cur.core s.cur.slot g = false)
    (hq : ∀ x ∈ (s.core s.cur.core).cmds, x.of s.cur.slot g = false) (hdr : g.drainAt = none)
    (hs1 : s1 = (s.onGroup s.cur.core s.cur.slot fun z => { z with drainAt := some s.cycle.toNat }).askStreams
      (fun st => st.heldBy s.cur g) (fun st => { st with parkReq := true })) :
    yieldMarked x y s = (if s1.streamsMoving s.cur g then pure .gone else saveGroup (k.reg 3).toNat save restore cont : X Flow) s1 := by
  subst hs1
  have hq1 : ∀ c ∈ ((s.onGroup s.cur.core s.cur.slot fun z => { z with drainAt := some s.cycle.toNat }).core s.cur.core).cmds,
      c.of s.cur.slot g = false := by rwa [State.cmds_onGroup]
  refine (bind_of_runs (runs_me h) _).trans ?_
  dsimp only
  rw [hcont, hsave, hrest]
  refine (bind_of_runs (runs_get s) _).trans ((bind_of_runs (runs_waitIf_of hr s) _).trans
    ((bind_of_runs (runs_attempt (runs_heldFault hq)) _).trans ((bind_of_runs (runs_pure () s) _).trans ?_)))
  rw [hdr, Option.getD_none, if_neg, State.squashAll, State.ownCopies_nil hq1]
  · exact bind_of_runs (runs_set _ _) _
  · have hawaited : ((s.onGroup s.cur.core s.cur.slot fun z => { z with drainAt := some s.cycle.toNat }).core s.cur.core).cmds.any
        (fun c => c.of s.cur.slot g && c.awaited) = false :=
      List.any_eq_false.mpr fun c hc => by rw [hq1 c hc]; exact Bool.false_ne_true
    rw [State.ownCopies_nil hq1, hawaited]
    exact Bool.false_ne_true

end

/-! ### PROG (R279) -/

theorem prog_retires {s s1 : State} {g : Group} {k : Role} {a : SReg} {v : Word} (ht : Taken [a] [] s [v] s1) (h : Acts s1 g k) :
    Retires (.prog a) s (s1.onGroup s1.cur.core s1.cur.slot fun z =>
      { z with estimate := v.toNat % 2 ^ 32, estimateSet := s1.cycle.toNat }) :=
  (exec_prog ..).trans (instr_seq (runs_pure () s) ht (runs_bind (runs_me h) (runs_modify _ s1)))

/-! ### What the groups of cooperative operations see of an end (R167) -/

/-- A group once group g has ended: a mate of g in cooperative operations knows that it is gone. -/
def Group.afterEnd (g x : Group) : Group :=
  if x.ctx = g.ctx && x.clustered && x.record.launch == g.record.launch && x.record.index != g.record.index
    && x.record.index / 4 == g.record.index / 4 then { x with mateGone := true } else x

theorem State.group_partMates (s : State) (g : Group) (c : CoreId) (i : SlotId) :
    (s.partMates g).group c i = (s.group c i).map g.afterEnd := by
  simp only [State.partMates, State.group, State.core, vget, Vector.get_eq_getElem, Vector.getElem_map]
  rfl

theorem Group.afterEnd_mateGone (g x : Group) : g.afterEnd x = { x with mateGone := (g.afterEnd x).mateGone }
    ∧ ((g.afterEnd x).mateGone = true ↔ x.mateGone = true ∨ (x.ctx = g.ctx ∧ x.clustered = true ∧ x.record.launch = g.record.launch
      ∧ x.record.index ≠ g.record.index ∧ x.record.index / 4 = g.record.index / 4)) := by
  unfold Group.afterEnd
  simp only [Bool.and_eq_true, decide_eq_true_eq, beq_iff_eq, bne_iff_ne, and_assoc]
  split
  case isTrue hm => exact ⟨rfl, iff_of_true rfl (.inr hm)⟩
  case isFalse hm => exact ⟨rfl, (or_iff_left hm).symm⟩

/-- Settles O39: for each instruction its checks in their order, and then what it does. -/
theorem groupInstructions : Obligations.GroupInstructions := by
  unfold Obligations.GroupInstructions
  refine ⟨fun s s1 s2 g k x y a v h => ?_, fun s g k r delta n h hd hn hlt => ?_⟩
  · intro quiet idle
    refine ⟨fun hc => ⟨computeOnly_traps h hc (exec_fork ..), computeOnly_traps h hc (exec_endGroup s), computeOnly_traps h hc (exec_park ..),
      computeOnly_traps h hc (exec_yield ..), meet_waits_results h hc, fun hr => ?_⟩, fun hc => ?_,
      fun ht ⟨g1, k1, h1⟩ => prog_retires ht h1, fun c i u hu => ?_⟩
    · exact ⟨_, meet_arrives h hc hr, fun r => ⟨rfl, rfl, vector_get_replicate _, vector_get_replicate _, rfl⟩⟩
    · refine ⟨fork_traps h hc, fun hseq hx hy => ⟨fork_waits h hc hseq hx hy, fork_retires h hc hseq hx hy⟩, meet_waits_roles h hc,
        meet_retires_idle h hc, fun hf hd hi => ⟨fun q hq hmin => meet_traps h hc hf hd hi hq hmin, meet_retires h hc hf hd hi⟩,
        endGroup_traps h hc, ?_, ?_, ?_⟩
      · intro hseq hf hd hq hj
        have hlast := runs_lastOfEnd (g := g) hj
        exact ⟨fun hs => endGroup_of_leaveWith h hc hseq hq hf hd (runs_leaveWith h hlast hs),
          fun hs => endGroup_of_leaveWith h hc hseq hq hf hd (runs_leaveWith_streams h hlast hs)⟩
      · intro p q ha hp hs hal hseq hf hd hq hnext rcd j s3 s4 s5 hr h1 h2 h3 hpush hkeep hs5
        subst hs5
        have hlast := runs_lastOfPark h1 h2 h3 hpush hkeep
        exact ⟨fun hs5 => park_of_leaveWith h hc hseq hq ha hp hs hal hf hd hnext hr (runs_leaveWith h hlast hs5),
          fun hs5 => park_of_leaveWith h hc hseq hq ha hp hs hal hf hd hnext hr (runs_leaveWith_streams h hlast hs5)⟩
      · intro p hp hseq hf hd hs hal
        subst hp
        refine ⟨fun hm => yield_next h hc hseq hf hd hs hal (by rw [Group.yieldFlow_unmarked hm]; exact runs_pure _ s),
          fun t cont save restore f hm hcont hsave hrest => ⟨fun hr => yield_waits h hc hseq hf hd hs hal ?_, fun hr hq hdr hs1 => ?_⟩⟩
        · rw [Group.yieldFlow_marked hm]
          exact waits_yieldMarked h hcont hsave hrest hr
        · have hflow := (congrFun (Group.yieldFlow_marked hm x y) s).trans (yieldMarked_of_quiet h hcont hsave hrest hr hq hdr hs1)
          refine ⟨fun hmove => yield_next h hc hseq hf hd hs hal (f := .gone) (hflow.trans ?_),
            fun hmove hsg => yield_next h hc hseq hf hd hs hal (hflow.trans ?_)⟩
          · rw [if_pos hmove]
            exact runs_pure _ s1
          · rw [if_neg (ne_true_of_eq_false hmove)]
            exact hsg
    · obtain ⟨hkeep, hgone⟩ := g.afterEnd_mateGone u
      exact ⟨_, by rw [State.group_partMates, hu]; rfl, hkeep, hgone⟩
  · exact ⟨_, runs_startRole h r hd hn hlt, rfl, rfl, rfl, vector_get_replicate _,
      Role.regs_forked _ _ _, rfl, rfl, rfl⟩

end Sys2Proof.Machine
end

section
/-! PROOFS. The integer effects of the vector unit (R134, O19). -/

namespace Sys2Proof

/-! ### Integer types: ranges, values and encodings (R25, R34) -/

/-- The integer that a decoded integer stands for. -/
theorem sign_natAbs (i : Int) : (if decide (i < 0) then -(i.natAbs : Int) else i.natAbs) = i := by
  simp only [decide_eq_true_eq]
  split <;> omega

section
variable {t : ElemTy}

theorem ElemTy.laneBits_of_isInt (ht : t.isInt = true) : t.laneBits = t.valueBits := by
  revert ht
  cases t <;> decide

theorem ElemTy.valueBits_pos (t : ElemTy) : 1 ≤ t.valueBits := by
  cases t <;> decide

theorem ElemTy.intRange_of_isI (ht : t.isI = true) : t.intRange = (-(2 ^ (t.valueBits - 1)), 2 ^ (t.valueBits - 1) - 1) := by
  revert ht
  cases t <;> decide

theorem ElemTy.intRange_of_not_isI (ht : t.isInt = true) (hs : t.isI = false) : t.intRange = (0, 2 ^ t.valueBits - 1) := by
  revert ht hs
  cases t <;> decide

theorem ElemTy.int_of_isI (ht : t.isI = true) (x : Nat) : t.int x = signedOf t.valueBits x := by
  cases t with
  | i32 | i16 | i8 => exact sign_natAbs _
  | f32 | bf16 | f16 | e4m3 | e5m2 | e2m1 | n32 | n16 | n8 | e8m0 => cases ht

theorem ElemTy.int_of_not_isI (ht : t.isInt = true) (hs : t.isI = false) (x : Nat) : t.int x = (x : Int) % 2 ^ t.valueBits := by
  cases t with
  | n32 => exact sign_natAbs (x % 2 ^ 32)
  | n16 => exact sign_natAbs (x % 2 ^ 16)
  | n8 => exact sign_natAbs (x % 2 ^ 8)
  | i32 | i16 | i8 => cases hs
  | f32 | bf16 | f16 | e4m3 | e5m2 | e2m1 | e8m0 => cases ht

/-- The value of an encoding, as two's complement in a signed type. -/
theorem ElemTy.int_eq_ite (ht : t.isInt = true) {x : Nat} (hx : x < 2 ^ t.valueBits) :
    t.int x = if t.isI ∧ 2 ^ (t.valueBits - 1) ≤ x then (x : Int) - 2 ^ t.valueBits else x := by
  have hpow : 2 ^ t.valueBits = 2 * 2 ^ (t.valueBits - 1) := by rw [← Nat.pow_succ', Nat.succ_eq_add_one, Nat.sub_add_cancel t.valueBits_pos]
  have hcast : ((2 ^ t.valueBits : Nat) : Int) = 2 ^ t.valueBits := by norm_num
  cases hs : t.isI with
  | true =>
    rw [ElemTy.int_of_isI hs, signedOf, BitVec.toInt_eq_toNat_cond, BitVec.toNat_ofNat, Nat.mod_eq_of_lt hx, ← hcast]
    simp only [true_and]
    split <;> split <;> omega
  | false =>
    rw [ElemTy.int_of_not_isI ht hs, ← hcast, ← Int.natCast_mod, Nat.mod_eq_of_lt hx]
    simp

/-- An integer in the range of a type is the value of its encoding. -/
theorem ElemTy.int_encInt (ht : t.isInt = true) {i : Int} (hlo : t.intRange.1 ≤ i) (hhi : i ≤ t.intRange.2) : t.int (t.encInt i) = i := by
  rw [ElemTy.encInt, ElemTy.laneBits_of_isInt ht]
  cases hs : t.isI with
  | true =>
    rw [ElemTy.intRange_of_isI hs] at hlo hhi
    rw [ElemTy.int_of_isI hs, signedOf, BitVec.ofNat_toNat, BitVec.setWidth_eq, BitVec.toInt_ofInt_eq_self t.valueBits_pos hlo
      (Int.lt_of_le_sub_one hhi)]
  | false =>
    rw [ElemTy.intRange_of_not_isI ht hs] at hlo hhi
    have hcast : ((2 ^ t.valueBits : Nat) : Int) = 2 ^ t.valueBits := by norm_num
    have hlt : i < 2 ^ t.valueBits := Int.lt_of_le_sub_one hhi
    rw [ElemTy.int_of_not_isI ht hs, BitVec.toNat_ofInt, hcast, Int.emod_eq_of_lt hlo hlt, Int.toNat_of_nonneg hlo, Int.emod_eq_of_lt hlo hlt]

theorem ElemTy.encInt_lt (ht : t.isInt = true) (i : Int) : t.encInt i < 2 ^ t.valueBits := by
  rw [← ElemTy.laneBits_of_isInt ht]
  exact BitVec.isLt _

theorem ElemTy.intRange_le_int (ht : t.isInt = true) (x : Nat) : t.intRange.1 ≤ t.int x ∧ t.int x ≤ t.intRange.2 := by
  cases hs : t.isI with
  | true =>
    rw [ElemTy.intRange_of_isI hs, ElemTy.int_of_isI hs]
    exact ⟨BitVec.le_toInt _, Int.le_sub_one_of_lt (BitVec.toInt_lt ..)⟩
  | false =>
    rw [ElemTy.intRange_of_not_isI ht hs, ElemTy.int_of_not_isI ht hs]
    exact ⟨Int.emod_nonneg _ (by positivity), Int.le_sub_one_of_lt (Int.emod_lt_of_pos _ (by positivity))⟩

/-- A clamp is made once, and SAT tells that it changed the value (R34). -/
theorem satInt_eq (h : t.intRange.1 ≤ t.intRange.2) (i : Int) : satInt t i =
    (max t.intRange.1 (min t.intRange.2 i), if t.intRange.1 ≤ i ∧ i ≤ t.intRange.2 then 0 else Flags.sat) := by
  unfold satInt
  dsimp only
  split
  case isTrue hlo => rw [if_neg (by omega), min_eq_right (by omega), max_eq_left (by omega)]
  case isFalse hlo =>
    split
    case isTrue hhi => rw [if_neg (by omega), min_eq_left (by omega), max_eq_right (by omega)]
    case isFalse hhi => rw [if_pos (by omega), min_eq_right (by omega), max_eq_right (by omega)]

end

/-! ### The effects (R134) -/

/-- An effect answers an exact result, clamped into the type. -/
def ElemTy.Saturates (t : ElemTy) (r : Nat × Flags) (i : Int) : Prop :=
  r.1 < 2 ^ t.valueBits ∧ t.int r.1 = max t.intRange.1 (min t.intRange.2 i)
    ∧ r.2 = if t.intRange.1 ≤ i ∧ i ≤ t.intRange.2 then 0 else Flags.sat

/-- A result that the type can hold is not changed. -/
theorem ElemTy.Saturates.in_range {t : ElemTy} {r : Nat × Flags} {i : Int} (hr : t.Saturates r i) (hlo : t.intRange.1 ≤ i)
    (hhi : i ≤ t.intRange.2) : r.1 < 2 ^ t.valueBits ∧ t.int r.1 = i ∧ r.2 = 0 := by
  obtain ⟨hlt, hint, hflags⟩ := hr
  rw [min_eq_right hhi, max_eq_right hlo] at hint
  exact ⟨hlt, hint, hflags.trans (if_pos ⟨hlo, hhi⟩)⟩

theorem ElemTy.saturates_sat {t : ElemTy} (ht : t.isInt = true) (i : Int) : t.Saturates (t.sat i) i := by
  obtain ⟨hlo, hhi⟩ := ElemTy.intRange_le_int ht 0
  have hsat : t.sat i = (t.encInt (satInt t i).1, (satInt t i).2) := rfl
  rw [satInt_eq (hlo.trans hhi)] at hsat
  rw [hsat]
  exact ⟨ElemTy.encInt_lt ht _, ElemTy.int_encInt ht (by omega) (by omega), rfl⟩

/-- The bound of VCLAMP: the magnitude clamped by Sat of the lane's width, in every type. -/
theorem clampBound_eq {t : ElemTy} (ht : t.isInt = true) (b : Int) :
    clampBound t b = (min (2 ^ (t.valueBits - 1) - 1) |b|, if |b| ≤ 2 ^ (t.valueBits - 1) - 1 then 0 else Flags.sat) := by
  unfold clampBound
  rw [ElemTy.laneBits_of_isInt ht, Int.abs_eq_natAbs]
  dsimp only
  split
  case isTrue h => rw [min_eq_left h.le, if_neg (not_le.mpr h)]
  case isFalse h => rw [min_eq_right (not_lt.mp h), if_pos (not_lt.mp h)]

/-- Between the bounds of VCLAMP every integer is one of the type. -/
theorem int_clamp {t : ElemTy} (ht : t.isInt = true) (x y c : Nat) : let r := intOp .clamp t x y c
    let m := min (2 ^ (t.valueBits - 1) - 1) |t.int y|
    r.1 < 2 ^ t.valueBits ∧ t.int r.1 = min (max (t.int x) (if t.isI then -m else 0)) m
      ∧ r.2 = if |t.int y| ≤ 2 ^ (t.valueBits - 1) - 1 then 0 else Flags.sat := by
  intro r m
  have hr : r = (t.encInt (min (max (t.int x) (if t.intRange.1 = 0 then 0 else -(clampBound t (t.int y)).1)) (clampBound t (t.int y)).1),
    (clampBound t (t.int y)).2) := rfl
  have hpow : (2 : Int) ^ t.valueBits = 2 * 2 ^ (t.valueBits - 1) := by
    rw [← pow_succ', Nat.sub_add_cancel t.valueBits_pos]
  have hpos : (1 : Int) ≤ 2 ^ (t.valueBits - 1) := one_le_pow₀ (by norm_num)
  have hm : m = min (2 ^ (t.valueBits - 1) - 1) |t.int y| := rfl
  have habs := abs_nonneg (t.int y)
  rw [clampBound_eq ht, ← hm] at hr
  rw [hr]
  refine ⟨ElemTy.encInt_lt ht _, ?_, rfl⟩
  clear_value m
  cases hs : t.isI with
  | true =>
    have hrange := ElemTy.intRange_of_isI hs
    have hlow : t.intRange.1 ≠ 0 := by rw [hrange]; omega
    rw [if_neg hlow, if_pos rfl, ElemTy.int_encInt ht] <;> rw [hrange] <;> dsimp only <;> omega
  | false =>
    have hrange := ElemTy.intRange_of_not_isI ht hs
    rw [if_pos (by rw [hrange]), if_neg Bool.false_ne_true, ElemTy.int_encInt ht] <;> rw [hrange] <;> dsimp only <;> omega

/-- Settles O19: every effect but VCLAMP answers the exact result by one clamp, which leaves a result in the type's range as it is. -/
theorem integerSaturation : Obligations.IntegerSaturation := by
  unfold Obligations.IntegerSaturation
  intro t rm x y c k ht hx hy hc lo hi value a b d Clamps Exact
  have hvalue {z : Nat} (hz : z < 2 ^ t.valueBits) : value z = t.int z := (ElemTy.int_eq_ite ht hz).symm
  have hrange : t.intRange = (lo, hi) := by
    cases hs : t.isI with
    | true => simp only [ElemTy.intRange_of_isI hs, lo, hi, hs, if_true]
    | false => simp only [ElemTy.intRange_of_not_isI ht hs, lo, hi, hs, Bool.false_eq_true, if_false]
  have ha : a = t.int x := hvalue hx
  have hb : b = t.int y := hvalue hy
  have hd : d = t.int c := hvalue hc
  have clamps {f : VFn} {i : Int} (h : elemOp f t rm x y c k = t.sat i) : Clamps f i := by
    obtain ⟨hlt, hint, hflags⟩ := h ▸ ElemTy.saturates_sat ht i
    rw [hrange] at hint hflags
    exact ⟨hlt, (hvalue hlt).trans hint, hflags⟩
  have exactly {f : VFn} {i : Int} (h : elemOp f t rm x y c k = t.sat i) (hlo : t.intRange.1 ≤ i) (hhi : i ≤ t.intRange.2) : Exact f i := by
    obtain ⟨hlt, hint, hflags⟩ := h ▸ (ElemTy.saturates_sat ht i).in_range hlo hhi
    exact ⟨hlt, (hvalue hlt).trans hint, hflags⟩
  clear_value a b d
  subst ha hb hd
  obtain ⟨hxlo, hxhi⟩ := ElemTy.intRange_le_int ht x
  obtain ⟨hylo, hyhi⟩ := ElemTy.intRange_le_int ht y
  refine ⟨clamps (if_pos ht), clamps (if_pos ht), clamps (if_pos ht), clamps (if_pos ht), clamps (if_pos ht), ?_, ?_,
    fun _ => ?_, fun hs => ?_, clamps (if_pos ht), ?_⟩
  · rw [← max_def]
    exact exactly (if_pos ht) (le_max_of_le_left hxlo) (max_le hxhi hyhi)
  · rw [← min_def]
    exact exactly (if_pos ht) (le_min hxlo hylo) (min_le_of_left_le hxhi)
  · rw [Int.abs_eq_natAbs]
    exact clamps (if_pos ht)
  · have hpos : 0 ≤ t.int x := by rwa [ElemTy.intRange_of_not_isI ht hs] at hxlo
    exact exactly ((if_pos ht).trans (congrArg t.sat (Int.natAbs_of_nonneg hpos))) hxlo hxhi
  · intro top m r
    have hr : r = intOp .clamp t x y c := if_pos ht
    obtain ⟨hlt, hint, hflags⟩ := int_clamp ht x y c
    rw [hr]
    exact ⟨hlt, (hvalue hlt).trans hint, hflags⟩

end Sys2Proof
end

section
/-! PROOFS. Vector instructions on registers (R131 to R143, O15, O16). -/

namespace Sys2Proof.Machine

open Sys2Proof

/-! ### Register groups as operands (R64, R126, R145) -/

@[simp] theorem length_lanesOf (k n : Nat) (bs : List Byte) : (lanesOf k n bs).length = n := by
  induction n generalizing bs with
  | zero => rfl
  | succ n ih => simp [lanesOf, ih]

@[simp] theorem State.length_lanes (s : State) (g : Group) (v n : Nat) (t : ElemTy) : (s.lanes g v n t).length = n := length_lanesOf ..

theorem activeCount_le (g : Group) (p : KReg) (w n : Nat) : activeCount g p w n ≤ n := by
  unfold activeCount
  split
  · exact le_rfl
  · exact Nat.min_le_left ..

section
variable {s : State} {g : Group} {k : Role} {fields : List (Nat × Nat)} (h : Acts s g k)
include h

theorem runs_needRows (hf : RowsFit g fields) : Runs (needRows fields) s () s := by
  refine runs_bind (runs_me h) ?_
  dsimp only
  rw [List.filterMap_eq_nil_iff.mpr]
  · exact runs_pure () s
  · intro f hm
    have := hf f hm
    exact if_neg (by simp; omega)

theorem runs_rowsReady (hq : RowsQuiet s g fields) : Runs (rowsReady fields) s () s := by
  obtain ⟨hres, hboard⟩ := hq
  refine runs_bind (runs_me h) (runs_bind (runs_get s) (runs_waitIf_of ?_ s))
  rw [hres, Bool.false_or]
  exact List.any_eq_false.mpr fun f hm => ne_true_of_eq_false (hboard f hm)

theorem runs_readElems (v n : Nat) (t : ElemTy) : Runs (readElems v n t) s (s.lanes g v n t) s :=
  runs_bind (runs_me h) (runs_bind (runs_get s) (runs_pure ..))

/-- The registers fit, the operands are taken, and the body runs. -/
theorem vector_retires {i : Instr} {srcs : List SReg} {vs : List Word} {body : List Word → X Unit} {s1 s2 : State}
    (hi : exec i s = instr 2 srcs [] (needRows fields) (seqBody body) s) (hf : RowsFit g fields) (ht : Taken srcs [] s vs s1)
    (hb : Runs (body vs) s1 () s2) : Retires2 i s s2 :=
  hi.trans (instr_seq (runs_needRows h hf) ht hb)

/-- The body waits for its registers and reads a register group first. -/
theorem vector_retires_reading {i : Instr} {srcs : List SReg} {vs : List Word} {v n : Nat} {t : ElemTy}
    {rest : List Word → RoleId × Group × Role → List Nat → X Unit} {s1 s2 : State} {g1 : Group} {k1 : Role}
    (hi : exec i s = instr 2 srcs [] (needRows fields) (seqBody fun vs => do
      rowsReady fields
      let m ← me
      let xs ← readElems v n t
      rest vs m xs) s)
    (hf : RowsFit g fields) (ht : Taken srcs [] s vs s1) (h1 : Acts s1 g1 k1) (hq : RowsQuiet s1 g1 fields)
    (hb : Runs (rest vs (s1.cur, g1, k1) (s1.lanes g1 v n t)) s1 () s2) : Retires2 i s s2 :=
  vector_retires h hi hf ht (runs_bind (runs_rowsReady h1 hq) (runs_bind (runs_me h1) (runs_bind (runs_readElems h1 ..) hb)))

end

/-! ### Element-wise instructions (R131, R132) -/

/-- The effect on lists of operands, element by element. -/
theorem zipOp_eq_map (f : Nat → Nat → Nat → Int → Nat × Flags) {xs ys cs : List Nat} {ks : List Int} (hy : xs.length ≤ ys.length)
    (hc : xs.length ≤ cs.length) (hk : xs.length ≤ ks.length) : zipOp f xs ys cs ks =
      (List.range xs.length).map fun j => f (xs.getD j 0) (ys.getD j 0) (cs.getD j 0) (ks.getD j 0) := by
  induction xs generalizing ys cs ks with
  | nil => rfl
  | cons x xs ih =>
    obtain ⟨y, ys, rfl⟩ := List.exists_cons_of_length_pos (Nat.zero_lt_of_lt hy)
    obtain ⟨c, cs, rfl⟩ := List.exists_cons_of_length_pos (Nat.zero_lt_of_lt hc)
    obtain ⟨k, ks, rfl⟩ := List.exists_cons_of_length_pos (Nat.zero_lt_of_lt hk)
    simp only [List.length_cons, Nat.add_le_add_iff_right] at hy hc hk
    rw [zipOp, ih hy hc hk, List.length_cons, List.range_succ_eq_map, List.map_cons, List.map_map]
    rfl

theorem runs_vecBVals_reg {s : State} {g : Group} {k : Role} (h : Acts s g k) {o : VOp} {b : VReg} (hb : o.b = .reg b) (vs : List Word)
    (signed : Bool) : Runs (vecBVals o vs signed) s (s.lanes g b.val (vecLen o) o.ty, 0, (s.lanes g b.val (vecLen o) o.ty).map
      fun x => if signed then signedOf o.ty.laneBits x else (x : Int)) s := by
  unfold vecBVals
  rw [hb]
  exact runs_bind (runs_readElems h ..) (runs_pure ..)

/-- The b operand has a value for every element. -/
theorem length_vecBVals {s t : State} {g : Group} {k : Role} (h : Acts s g k) {o : VOp} {vs : List Word} {signed : Bool} {ys : List Nat}
    {fl : Flags} {ks : List Int} (hr : Runs (vecBVals o vs signed) s (ys, fl, ks) t) : ys.length = vecLen o ∧ ks.length = vecLen o := by
  cases hb : o.b with
  | reg b =>
    obtain ⟨hp, -⟩ := runs_det hr (runs_vecBVals_reg h hb ..)
    cases hp
    simp
  | scalar r =>
    unfold vecBVals at hr
    rw [hb] at hr
    cases hr
    simp
  | imm v =>
    unfold vecBVals at hr
    rw [hb] at hr
    cases hr
    simp

theorem elementwise_of_vecElem {i : Instr} {o : VOp} {f : VFn} {signed imm : Bool} (hi : ∀ s, exec i s = vecElem f signed imm o s) :
    Elementwise i o f signed imm := by
  intro s s1 s2 g g1 k k1 vs ys fl ks rs fields hfields h hf ht h1 hq hb hlen hrs hend
  subst hfields
  obtain ⟨hys, hks⟩ := length_vecBVals h1 hb
  have hact := activeCount_le g1 o.k o.ty.laneBits (vecLen o)
  have hzip : zipOp (elemOp f o.ty o.rm) ((s1.lanes g1 o.a.val (vecLen o) o.ty).take rs.length) ys (s1.lanes g1 o.d.val (vecLen o) o.ty) ks
      = rs := by
    have hlanes (v : Nat) := s1.length_lanes g1 v (vecLen o) o.ty
    have htake : ((s1.lanes g1 o.a.val (vecLen o) o.ty).take rs.length).length = rs.length := by
      rw [List.length_take, hlanes]
      omega
    refine (zipOp_eq_map _ (by omega) (by rw [hlanes]; omega) (by omega)).trans ?_
    rw [htake]
    refine List.ext_getElem? fun j => ?_
    by_cases hj : j < rs.length
    · rw [hrs j hj]
      simp [hj]
    · simp [hj]
  have hflags : (if imm && rs.length != 0 then fl else 0) = if imm = true ∧ rs.length ≠ 0 then fl else 0 := by simp
  refine vector_retires_reading h (hi s) hf ht h1 hq (runs_bind (runs_readElems h1 ..) (runs_bind hb ?_))
  dsimp only
  rw [← hlen, hzip, hflags]
  exact hend

theorem unaryElementwise_of_vecUnary {i : Instr} {o : VOp} {f : Nat → Nat × Flags} (hi : ∀ s, exec i s = vecUnary f o s) :
    UnaryElementwise i o f := by
  intro s s2 g k a h hf hq ha hend
  subst ha
  exact vector_retires_reading h (hi s) hf (taken_nil h) h hq hend

/-- Settles O15: the frame of each of the two kinds of instructions. -/
theorem vectorElementwise : Obligations.VectorElementwise := by
  unfold Obligations.VectorElementwise
  exact ⟨fun o => ⟨elementwise_of_vecElem (exec_vadd o), elementwise_of_vecElem (exec_vsub o), elementwise_of_vecElem (exec_vmul o),
    elementwise_of_vecElem (exec_vfma o), elementwise_of_vecElem (exec_vfms o), elementwise_of_vecElem (exec_vmax o),
    elementwise_of_vecElem (exec_vmin o), elementwise_of_vecElem (exec_vscl o), elementwise_of_vecElem (exec_vand o),
    elementwise_of_vecElem (exec_vor o), elementwise_of_vecElem (exec_vxor o), elementwise_of_vecElem (exec_vshl o),
    elementwise_of_vecElem (exec_vshr o), elementwise_of_vecElem (exec_vsar o), elementwise_of_vecElem (exec_vcmpeq o),
    elementwise_of_vecElem (exec_vcmplt o), elementwise_of_vecElem (exec_vcmple o), elementwise_of_vecElem (exec_vsel o),
    elementwise_of_vecElem (exec_vclamp o)⟩,
    fun o => ⟨unaryElementwise_of_vecUnary (exec_vabs o), unaryElementwise_of_vecUnary (exec_vneg o),
    unaryElementwise_of_vecUnary (exec_vmov o), unaryElementwise_of_vecUnary (exec_vexp2 o), unaryElementwise_of_vecUnary (exec_vlog2 o),
    unaryElementwise_of_vecUnary (exec_vrcp o), unaryElementwise_of_vecUnary (exec_vrsq o), unaryElementwise_of_vecUnary (exec_vsqrt o),
    unaryElementwise_of_vecUnary (exec_vtanh o), unaryElementwise_of_vecUnary (exec_vsigm o)⟩⟩

/-! ### Reductions and sequences (R139, R141) -/

section
variable {i : Instr} {o : VOp} {s s1 s2 : State} {g g1 : Group} {k k1 : Role} (h : Acts s g k) (h1 : Acts s1 g1 k1)
include h h1

theorem vecReduce_retires {f : List Nat → Nat × Flags} (hi : exec i s = vecReduce f o s) (ht : Taken [] [] s [] s1)
    (hf : RowsFit g [(o.d.val, 1), (o.a.val, o.len.val)]) (hq : RowsQuiet s1 g1 [(o.d.val, 1), (o.a.val, o.len.val)]) {r : Nat × Flags}
    (hr : r = f ((s1.lanes g1 o.a.val (vecLen o) o.ty).take (activeCount g1 o.k o.ty.laneBits (vecLen o))))
    (hend : Runs (do writeElems o.d.val 0 o.ty [r.1]; reportVector o.d.val o.ty o.ty.code o.ty.code 0 [r]) s1 () s2) : Retires2 i s s2 := by
  subst hr
  exact vector_retires_reading h hi hf ht h1 hq hend

theorem vecFill_retires {f : List Word → Nat → Nat × Flags} {vs : List Word} (hi : exec i s = vecFill o f s)
    (ht : Taken (vecScalars o) [] s vs s1) (hf : RowsFit g [(o.d.val, o.len.val)]) (hq : RowsQuiet s1 g1 [(o.d.val, o.len.val)])
    {rs : List (Nat × Flags)} (hrs : (List.range (activeCount g1 o.k o.ty.laneBits (vecLen o))).map (f vs) = rs)
    (hend : VecEnds o 0 rs s1 s2) : Retires2 i s s2 := by
  subst hrs
  exact vector_retires h hi hf ht (runs_bind (runs_rowsReady h1 hq) (runs_bind (runs_me h1) hend))

end

/-- Settles O16: each instruction's body, in the frame that all share. -/
theorem vectorRearranging : Obligations.VectorRearranging := by
  unfold Obligations.VectorRearranging
  intro o s s1 s2 g g1 k k1 vs a xs h h1 ha hxs Quiet both
  subst ha hxs
  refine ⟨fun ht => ⟨fun ⟨hf, hq⟩ r hend => ⟨fun hr => ?_, fun hr => ?_, fun hr => ?_⟩, fun ⟨hf, hq⟩ hend => ?_,
    fun n fields hn hfields ⟨hf, hq⟩ rs hrs hend => ?_⟩, fun ht => ⟨fun ⟨hf, hq⟩ => ⟨fun r hb hend => ?_, fun v hb hend => ?_,
    fun r hb hend => ?_, fun v hb hend => ?_⟩, fun ⟨hf, hq⟩ b hb hend => ?_, fun ⟨hf, hq⟩ j hjs hji hb hend => ?_⟩⟩
  · exact vecReduce_retires h h1 (exec_vredsum o s) ht hf hq hr hend
  · exact vecReduce_retires h h1 (exec_vredmax o s) ht hf hq hr hend
  · exact vecReduce_retires h h1 (exec_vredmin o s) ht hf hq hr hend
  · exact vector_retires_reading h (exec_vscan o s) hf ht h1 hq hend
  · subst hn hfields hrs
    exact vector_retires_reading h (exec_vcvt o s) hf ht h1 hq hend
  · exact vecFill_retires h h1 (exec_vsplat o s) ht hf hq (by simp only [hb, List.map_const', List.length_range]) hend
  · exact vecFill_retires h h1 (exec_vsplat o s) ht hf hq (by simp only [hb, List.map_const', List.length_range]) hend
  · exact vecFill_retires h h1 (exec_viota o s) ht hf hq (by simp only [hb, bind_pure_comp, List.map_eq_map, List.map_map]; rfl) hend
  · exact vecFill_retires h h1 (exec_viota o s) ht hf hq (by simp only [hb, bind_pure_comp, List.map_eq_map, List.map_map]; rfl) hend
  · exact vector_retires_reading h (exec_vperm o s) hf ht h1 hq (runs_bind (runs_vecBVals_reg h1 hb ..) hend)
  · refine vector_retires_reading h (exec_vbcast o s) hf ht h1 hq ?_
    cases hop : o.b with
    | reg b => exact absurd (congrArg BSrc.bs hop) hb
    | scalar r =>
      rw [hjs r hop] at hend
      exact hend
    | imm v =>
      rw [hji v hop] at hend
      exact hend

end Sys2Proof.Machine
end

section
/-! PROOFS. Vector memory: loads and stores through a generator, gather and scatter, bitmask and values (R147 to R152, O22). -/

namespace Sys2Proof.Machine

open Sys2Proof

/-! ### Bodies that differ in the faults they name -/

theorem runs_faultsAt {α : Type} {x : X α} {s t : State} {a : α} (va : Nat) (h : Runs x s a t) : Runs (faultsAt va x) s a t := by
  unfold Runs faultsAt
  rw [show x s = _ from h]

section
variable {α β : Type} {s t : State} {xs : List α}

/-- A list of bodies each of which comes to what another one does. -/
theorem runs_mapM_of {f f' : α → X β} (hf : ∀ x s b t, Runs (f x) s b t → Runs (f' x) s b t) {bs : List β}
    (h : Runs (xs.mapM f) s bs t) : Runs (xs.mapM f') s bs t := by
  induction xs generalizing s t bs with
  | nil => exact h
  | cons x xs ih =>
    rw [List.mapM_cons] at h ⊢
    obtain ⟨b, u, hx, h⟩ := runs_bind_inv h
    obtain ⟨cs, v, hxs, hp⟩ := runs_bind_inv h
    exact runs_bind (hf _ _ _ _ hx) (runs_bind (ih hxs) hp)

theorem runs_forM_of {f f' : α → X Unit} (hf : ∀ x s t, Runs (f x) s () t → Runs (f' x) s () t) (h : Runs (xs.forM f) s () t) :
    Runs (xs.forM f') s () t := by
  induction xs generalizing s with
  | nil => exact h
  | cons x xs ih =>
    obtain ⟨_, u, hx, hxs⟩ := runs_bind_inv h
    exact runs_bind (hf _ _ _ hx) (ih hxs)

/-- A check in front of a body that may raise the same fault. -/
theorem raises_faultIf_or {b : Bool} {code va : Nat} {rest : Unit → X α}
    (h : b = true ∨ Raises (rest ()) s { code := code, va := BitVec.ofNat 64 va } none) :
    Raises (faultIf b code va >>= rest) s { code := code, va := BitVec.ofNat 64 va } none := by
  cases b with
  | true => exact raises_bind (raises_faultIf ..)
  | false => exact raises_bind_right (runs_faultIf ..) (h.resolve_left Bool.false_ne_true)

end

/-! ### The checks of R147 -/

section
variable {s : State} {g : Group} {k : Role} {o : VMOp} (h : Acts s g k)
include h

theorem runs_vmGen {accept : Nat → Bool} {w : Gen} (hw : w = Walk4.ofBits (g.gens.get o.g)) (hv : w.valid = true)
    (ha : accept w.code = true) : Runs (vmGen o accept) s w s := by
  subst hw
  refine runs_bind (runs_me h) (runs_bind (runs_faultIf_of ?_ ..) (runs_pure _ s))
  change (!(Walk4.ofBits (g.gens.get o.g)).valid || !accept (Walk4.ofBits (g.gens.get o.g)).code) = false
  rw [hv, ha]
  rfl

theorem runs_gathElems (a : Word) (n : Nat) : Runs (gathElems o a n) s
    ((s.lanes g (o.imm.toNat % 2048) n .i32).map fun i => (a + (BitVec.ofNat 32 i).signExtend 64).toInt) s :=
  runs_bind (runs_readElems h ..) (runs_pure ..)

/-- As many lanes as there are element numbers. -/
theorem runs_readElems_of_length {es : List Int} {n : Nat} (hl : es.length = n) (v : Nat) (t : ElemTy) :
    Runs (readElems v es.length t) s (s.lanes g v n t) s := by
  rw [hl]
  exact runs_readElems h ..

/-- A write over nothing that a deferred node has still to read (R191). -/
theorem runs_storing {ws : List (Nat × Nat)} {write : X Unit} {t : State} (hn : NoAlias s g ws) (hw : Runs write s () t) :
    Runs (storing ws write) s () t := by
  refine runs_bind (runs_me h) ?_
  dsimp only
  rw [show g.tile.aliased s.cur.core ws = [] from hn]
  exact hw

end

theorem length_run (e0 : Int) (n : Nat) : (run e0 n).length = n := by simp [run]

theorem raises_checkElems {w : Gen} {es : List Int} (hbad : ∃ e ∈ es, e < 0 ∨ (w.count : Int) ≤ e) (s : State) :
    Raises (checkElems w es) s { code := 0x05, va := BitVec.ofNat 64 w.base } none :=
  raises_bind (raises_faultIf_of (by simpa using hbad) ..)

/-! ### Loads and stores of a run of elements (R148, R149) -/

section
variable {i : Instr} {o : VMOp} {s s1 s2 : State} {g g1 : Group} {k k1 : Role} {x : Word} {w : Gen} {accept : Nat → Bool}
  (h : Acts s g k) (hf : RowsFit g (vmRows o)) (ht : Taken [o.a] [] s [x] s1) (h1 : Acts s1 g1 k1) (hw : w = Walk4.ofBits (g1.gens.get o.g))
  (hv : w.valid = true) (ha : accept w.code = true)
include h hf ht h1 hw hv ha

/-- An element outside the walk raises the space fault. -/
theorem vmRun_traps {rest : List Word → Gen → RoleId × Group × Role → X Unit}
    (hi : exec i s = instr 2 [o.a] [] (needRows (vmRows o)) (seqBody fun vs => do
      let g ← vmGen o accept
      let m ← me
      checkElems g (run (firstElem o (arg vs 0)) (vmActive m.2.1 o))
      rest vs g m) s)
    (hbad : ∃ e ∈ run (firstElem o x) (vmActive g1 o), e < 0 ∨ (w.count : Int) ≤ e) : Traps i s s1 0x05 w.base :=
  hi.trans (instr_seq_trap (runs_needRows h hf) ht
    (raises_bind_right (runs_vmGen h1 hw hv ha) (raises_bind_right (runs_me h1) (raises_bind (raises_checkElems hbad s1)))))

/-- The checks pass, the registers are quiet, and the accesses run. -/
theorem vmRun_retires {misplaced : List Word → Gen → Bool} {rest : List Word → Gen → RoleId × Group × Role → Who → X Unit}
    (hi : exec i s = instr 2 [o.a] [] (needRows (vmRows o)) (seqBody fun vs => do
      let g ← vmGen o accept
      let m ← me
      checkElems g (run (firstElem o (arg vs 0)) (vmActive m.2.1 o))
      faultIf (misplaced vs g) 0x04 (g.addr (firstElem o (arg vs 0)).toNat).1
      rowsReady (vmRows o)
      let w ← whoami
      rest vs g m w) s)
    (hc : Runs (checkElems w (run (firstElem o x) (vmActive g1 o))) s1 () s1) (hq : RowsQuiet s1 g1 (vmRows o))
    (hm : misplaced [x] w = false) (hb : Runs (rest [x] w (s1.cur, g1, k1) (s1.self g1)) s1 () s2) : Retires2 i s s2 :=
  vector_retires h hi hf ht (runs_bind (runs_vmGen h1 hw hv ha) (runs_bind (runs_me h1) (runs_bind hc (runs_bind (runs_faultIf_of hm ..)
    (runs_bind (runs_rowsReady h1 hq) (runs_bind (runs_whoami h1) hb))))))

end

theorem plainFmt_iff {t : ElemTy} {c : Nat} : plainFmt t c = true ↔ c = t.code ∨ t = .i8 ∧ c = 13 ∨ t = .e2m1 ∧ c = 14 := by
  simp [plainFmt, or_assoc]

/-- A run of nibbles begins at a whole byte. -/
theorem nibble_placed {b : Nat} {e : Int} (h : b = 4 → e % 2 = 0) : (b == 4 && e % 2 != 0) = false := by simpa using h

theorem scaledFmt_of_code {c : Nat} (h : 16 ≤ c ∧ c ≤ 19) : (decide (16 ≤ c) && decide (c ≤ 19)) = true := by simpa using h

/-- A block-scaled format reads its elements under their scales. -/
theorem scaled_of_code {w : Gen} (hc : 16 ≤ w.code ∧ w.code ≤ 19) : w.scaled = true := by
  obtain ⟨hlo, hhi⟩ := hc
  obtain hc | hc | hc | hc : w.code = 16 ∨ w.code = 17 ∨ w.code = 18 ∨ w.code = 19 := by omega
  all_goals
    unfold Walk4.scaled Walk4.fmt
    rw [hc]
    rfl

theorem runs_valueOf {w : Gen} (hc : w.scaled = true) {who : Who} {e : Nat} {s t : State} {v : Sys2Proof.Num}
    (h : Runs (w.value who e) s v t) : Runs (w.valueOf who e) s v t := by
  obtain ⟨x, u, hx, h⟩ := runs_bind_inv h
  rw [if_pos hc] at h
  exact runs_bind (runs_faultsAt _ hx) h

/-! ### What a store reports (R46, R48) -/

theorem Group.noteNan_frame (g : Group) (c : CoreId) (pc : Word) (f : Flags) (n : NanSite) : (g.noteNan c pc f n).gens = g.gens
    ∧ (g.noteNan c pc f n).roles = g.roles ∧ (g.noteNan c pc f n).preds = g.preds ∧ (g.noteNan c pc f n).tile = g.tile := by
  unfold Group.noteNan
  split <;> exact ⟨rfl, rfl, rfl, rfl⟩

theorem runs_reportStored {s : State} {g : Group} {k : Role} (h : Acts s g k) (d : Nat) (t : ElemTy) (c : Nat) (rs : List (Nat × Flags)) :
    ∃ f : Group → Group, Runs (execVsts.reportStored d t c rs) s () (s.onGroup s.cur.core s.cur.slot f)
      ∧ ∀ y, (f y).gens = y.gens ∧ (f y).roles = y.roles ∧ (f y).preds = y.preds ∧ (f y).tile = y.tile := by
  refine ⟨_, runs_bind (runs_me h) (runs_modify _ s), fun y => ?_⟩
  dsimp only
  split
  · exact ⟨rfl, rfl, rfl, rfl⟩
  · exact Group.noteNan_frame (y.raise (allFlags rs)) ..

/-! ### Gather and scatter (R150) -/

theorem gather_retires {i : Instr} {o : VMOp} {s s1 s2 : State} {g g1 : Group} {k k1 : Role} {x : Word} {w : Gen} {es : List Int}
    {rest : Gen → List Int → Who → X Unit} (h : Acts s g k) (hf : RowsFit g (gathRows o)) (ht : Taken [o.a] [] s [x] s1) (h1 : Acts s1 g1 k1)
    (hw : w = Walk4.ofBits (g1.gens.get o.g)) (hv : w.valid = true) (hc : w.code = o.ty.code) (hq : RowsQuiet s1 g1 (gathRows o))
    (hi : exec i s = instr 2 [o.a] [] (needRows (gathRows o)) (seqBody fun vs => do
      let g ← vmGen o fun c => c == o.ty.code
      rowsReady (gathRows o)
      let m ← me
      let es ← gathElems o (arg vs 0) (vmActive m.2.1 o)
      checkElems g es
      let w ← whoami
      rest g es w) s)
    (hes : es = (s1.lanes g1 (o.imm.toNat % 2048) (vmActive g1 o) .i32).map fun i => (x + (BitVec.ofNat 32 i).signExtend 64).toInt)
    (hce : Runs (checkElems w es) s1 () s1) (hb : Runs (rest w es (s1.self g1)) s1 () s2) : Retires2 i s s2 := by
  subst hes
  exact vector_retires h hi hf ht (runs_bind (runs_vmGen h1 hw hv (beq_iff_eq.mpr hc)) (runs_bind (runs_rowsReady h1 hq)
    (runs_bind (runs_me h1) (runs_bind (runs_gathElems h1 ..) (runs_bind hce (runs_bind (runs_whoami h1) hb))))))

/-! ### Bitmask and values (R151, R152) -/

theorem runs_packAddr {s : State} {g : Group} {k : Role} {o : VMOp} {x : Word} {w : Gen} {p : Nat} (h : Acts s g k)
    (hw : w = Walk4.ofBits (g.gens.get o.g)) (hv : w.valid = true) (hp : p = (w.base + x.toNat) % 2 ^ 64) (hs : p / 2 ^ 60 ≤ 1)
    (ha : p % 8 = 0) : Runs (packAddr o x) s p s := by
  subst hw hp
  have hlt : ((Walk4.ofBits (g.gens.get o.g)).base + x.toNat) % 2 ^ 64 < 2 ^ 64 := Nat.mod_lt _ (Nat.two_pow_pos 64)
  exact runs_bind (runs_me h) (runs_bind (runs_faultIf_of (congrArg (!·) hv) ..) (runs_bind (runs_lowSpace hlt hs s)
    (runs_bind (runs_faultIf_of (bne_eq_false_iff_eq.mpr ha) ..) (runs_pure _ s))))

theorem packHead_sub (n : Nat) : packHead n - 8 = 8 * ((n + 63) / 64) := Nat.add_sub_cancel_left ..

section
variable {o : VMOp} {s s1 s2 s3 s4 : State} {g g1 g2 : Group} {k k1 k2 : Role} {x : Word} {w : Gen} {p : Nat} (h : Acts s g k)
  (hf : RowsFit g (vmRows o)) (ht : Taken [o.a] [] s [x] s1) (h1 : Acts s1 g1 k1) (hw : w = Walk4.ofBits (g1.gens.get o.g))
  (hv : w.valid = true) (hp : p = (w.base + x.toNat) % 2 ^ 64) (hs : p / 2 ^ 60 ≤ 1) (ha : p % 8 = 0)
include h hf ht h1 hw hv hp hs ha

section
variable {n total : Nat} {xs nz : List Nat} (hq : RowsQuiet s1 g1 (vmRows o)) (hn : n = vmActive g1 o)
include hq hn

theorem vpack_retires_nil (h0 : n = 0) : Retires2 (.vpack o) s s1 := by
  refine vector_retires h (exec_vpack o s) hf ht (runs_bind (runs_packAddr h1 hw hv hp hs ha) (runs_bind (runs_rowsReady h1 hq)
    (runs_bind (runs_me h1) ?_)))
  dsimp only
  rw [← hn, if_pos h0]
  exact runs_pure () s1

variable (h0 : 0 < n) (hxs : xs = (s1.lanes g1 o.d.val n o.ty).map o.ty.pattern) (hnz : nz = xs.filter (· != 0))
  (htotal : total = packHead n + nz.length * o.ty.laneBytes)
include h0 hxs hnz htotal

theorem vpack_traps (hlt : o.imm.toNat < total) : Traps (.vpack o) s s1 0x0A p := by
  subst hn hxs hnz htotal
  refine (exec_vpack o s).trans (instr_seq_trap (runs_needRows h hf) ht (raises_bind_right (runs_packAddr h1 hw hv hp hs ha)
    (raises_bind_right (runs_rowsReady h1 hq) (raises_bind_right (runs_me h1) ?_))))
  dsimp only
  rw [if_neg h0.ne']
  exact raises_bind_right (runs_readElems h1 ..) (raises_bind (raises_faultIf_of (decide_eq_true hlt) ..))

theorem vpack_retires (hle : total ≤ o.imm.toNat) (hna : NoAlias s1 g1 [(p, p + total - 1)])
    (hr : Runs (writeRun (s1.self g1) p (leBytes 2 n ++ leBytes 2 nz.length ++ leBytes 4 total ++ leBytes (packHead n - 8) (maskOf xs)
      ++ nz.flatMap (leBytes o.ty.laneBytes))) s1 () s2) : Retires2 (.vpack o) s s2 := by
  subst hn hxs hnz htotal
  refine vector_retires h (exec_vpack o s) hf ht (runs_bind (runs_packAddr h1 hw hv hp hs ha) (runs_bind (runs_rowsReady h1 hq)
    (runs_bind (runs_me h1) ?_)))
  dsimp only
  rw [if_neg h0.ne']
  exact runs_bind (runs_readElems h1 ..) (runs_bind (runs_faultIf_of (decide_eq_false hle.not_gt) ..)
    (runs_bind (runs_whoami h1) (runs_storing h1 hna hr)))

end

variable {hd body : List Byte} {m zc total mask : Nat} (hrd : Runs (readRun (s1.self g1) p 8) s1 hd s2) (hm : m = leNat (hd.take 2))
  (hzc : zc = leNat ((hd.drop 2).take 2)) (htotal : total = leNat (hd.drop 4))
include hrd hm hzc htotal

/-- A header that no form has, or whose form does not fit. -/
theorem vunpk_traps (hbad : m = 0 ∨ vmLen o < m ∨ total ≠ packHead m + zc * o.ty.laneBytes ∨ o.imm.toNat < total) :
    Traps (.vunpk o) s s1 0x0A p := by
  subst hm hzc htotal
  refine (exec_vunpk o s).trans (instr_seq_trap (runs_needRows h hf) ht (raises_bind_right (runs_packAddr h1 hw hv hp hs ha)
    (raises_bind_right (runs_whoami h1) (raises_bind_right hrd (raises_faultIf_or ?_)))))
  obtain hm | hm | htot | himm := hbad
  · exact .inl (Bool.or_eq_true_iff.mpr (.inl (beq_iff_eq.mpr hm)))
  · exact .inl (Bool.or_eq_true_iff.mpr (.inr (decide_eq_true hm)))
  · exact .inr (raises_faultIf_or (.inl (bne_iff_ne.mpr htot)))
  · exact .inr (raises_faultIf_or (.inr (raises_faultIf_or (.inl (decide_eq_true himm)))))

theorem vunpk_retires (h0 : 1 ≤ m) (hlen : m ≤ vmLen o) (htot : total = packHead m + zc * o.ty.laneBytes) (hle : total ≤ o.imm.toNat)
    (hrb : Runs (readRun (s1.self g1) (p + 8) (total - 8)) s2 body s3) (h3 : Acts s3 g2 k2) (hq : RowsQuiet s3 g2 (vmRows o))
    (hmask : mask = leNat (body.take (packHead m - 8))) (hones : onesOf m mask = zc) (hlt : mask < 2 ^ m)
    (hend : Runs (writeElems o.d.val 0 o.ty (((unpack m mask (lanesOf o.ty.laneBytes zc (body.drop (packHead m - 8)))
      ++ List.replicate (vmLen o - m) 0).take (vmActive g2 o)).map o.ty.pattern)) s3 () s4) : Retires2 (.vunpk o) s s4 := by
  have hcount : (m == 0 || decide (vmLen o < m)) = false := by simp; omega
  have hbits : (onesOf m mask != zc || mask / 2 ^ m != 0) = false := by simp [hones, hlt]
  subst hm hzc htotal hmask
  exact vector_retires h (exec_vunpk o s) hf ht (runs_bind (runs_packAddr h1 hw hv hp hs ha) (runs_bind (runs_whoami h1)
    (runs_bind hrd (runs_bind (runs_faultIf_of hcount ..) (runs_bind (runs_faultIf_of (bne_eq_false_iff_eq.mpr htot) ..)
      (runs_bind (runs_faultIf_of (decide_eq_false hle.not_gt) ..) (runs_bind hrb (runs_bind (runs_faultIf_of hbits ..)
        (runs_bind (runs_rowsReady h3 hq) (runs_bind (runs_me h3) hend))))))))))

end

/-- Settles O22: the checks in their order, and behind them the named accesses. -/
theorem vectorMemory : Obligations.VectorMemory := by
  unfold Obligations.VectorMemory
  refine ⟨fun o s s1 s2 s3 g g1 k k1 x w e0 n es xs h hf ht h1 hw hv he hn hes => ?_,
    fun o s s1 s2 s3 g g1 k k1 x w n es xs h ht h1 hw hv hn => ⟨fun hf hq hc hes hce => ⟨fun hr hend => ?_, fun hna hr => ?_⟩,
      fun p hf hp hs ha hq => ⟨fun h0 => ?_, fun nz total h0 hxs hnz htotal => ⟨fun hlt => ?_, fun hle hna hr => ?_⟩⟩,
      fun p hd body s4 g2 k2 hf hp hs ha hrd => ?_⟩⟩
  · intro plain scaled Ready
    obtain rfl : e0 = firstElem o x := he
    obtain rfl : es = run (firstElem o x) n := hes
    subst hn
    refine ⟨fun hp hbad => ⟨?_, ?_⟩, fun hp ⟨hce, hq⟩ h4 => ⟨fun hr hend => ?_, fun rs hrs hna hr hend => ?_⟩,
      fun hc ⟨hce, hq⟩ h8 => ⟨fun vs rs hr hrs hend => ?_, fun items hitems hna h2 hr => ?_⟩⟩
    · exact vmRun_traps h hf ht h1 hw hv (plainFmt_iff.mpr hp) (exec_vld o s) hbad
    · exact vmRun_traps h hf ht h1 hw hv (plainFmt_iff.mpr hp) (exec_vst o s) hbad
    · exact vmRun_retires h hf ht h1 hw hv (plainFmt_iff.mpr hp) (exec_vld o s) hce hq (nibble_placed h4)
        (runs_bind (runs_mapM_of (fun _ _ _ _ => runs_faultsAt _) hr) hend)
    · subst hrs
      exact vmRun_retires h hf ht h1 hw hv (plainFmt_iff.mpr hp) (exec_vst o s) hce hq (nibble_placed h4)
        (runs_bind (runs_readElems_of_length h1 (length_run ..) ..)
          (runs_bind (runs_storing h1 hna (runs_forM_of (fun _ _ _ => runs_faultsAt _) hr)) hend))
    · subst hrs
      exact vmRun_retires h hf ht h1 hw hv (scaledFmt_of_code hc) (exec_vlds o s) hce hq (bne_eq_false_iff_eq.mpr h8)
        (runs_bind (runs_mapM_of (fun _ _ _ _ => runs_valueOf (scaled_of_code hc)) hr) hend)
    · subst hitems
      obtain ⟨f, hreport, hkeep⟩ := runs_reportStored h2 o.d.val o.ty w.code _
      exact ⟨f, vmRun_retires h hf ht h1 hw hv (scaledFmt_of_code hc) (exec_vsts o s) hce hq (bne_eq_false_iff_eq.mpr h8)
        (runs_bind (runs_readElems_of_length h1 (length_run ..) ..) (runs_bind (runs_storing h1 hna hr) hreport)), hkeep⟩
  · subst hn
    exact gather_retires h hf ht h1 hw hv hc hq (exec_vgath o s) hes hce (runs_bind (runs_mapM_of (fun _ _ _ _ => runs_faultsAt _) hr) hend)
  · subst hn
    have hlen : es.length = vmActive g1 o := by simp [hes]
    exact gather_retires h hf ht h1 hw hv hc hq (exec_vscat o s) hes hce
      (runs_bind (runs_readElems_of_length h1 hlen ..) (runs_storing h1 hna (runs_forM_of (fun _ _ _ => runs_faultsAt _) hr)))
  · exact vpack_retires_nil h hf ht h1 hw hv hp hs ha hq hn h0
  · exact vpack_traps h hf ht h1 hw hv hp hs ha hq hn h0 hxs hnz htotal hlt
  · exact vpack_retires h hf ht h1 hw hv hp hs ha hq hn h0 hxs hnz htotal hle hna (by rwa [packHead_sub])
  · intro m zc total
    refine ⟨vunpk_traps h hf ht h1 hw hv hp hs ha hrd rfl rfl rfl, fun h0 hlen htot hle hrb h3 hq => ?_⟩
    intro mask hones hlt hend
    exact vunpk_retires h hf ht h1 hw hv hp hs ha hrd rfl rfl rfl h0 hlen htot hle hrb h3 hq (by rw [packHead_sub]) hones hlt
      (by rwa [packHead_sub])

end Sys2Proof.Machine
end

section
/-! PROOFS. Bodies over a list: reads, attempts and updates in a row, and the first part that waits. -/

namespace Sys2Proof.Machine

open Sys2Proof

section
variable {α β : Type} {s t : State} {xs : List α}

/-- Bodies that only read, each with its result. -/
theorem runs_mapM_reading {f : α → X β} {v : α → β} (h : ∀ x ∈ xs, Runs (f x) s (v x) s) :
    Runs (xs.mapM f) s (xs.map v) s := by
  induction xs with
  | nil => exact runs_pure [] s
  | cons x xs ih =>
    rw [List.mapM_cons]
    exact runs_bind (h x (List.mem_cons_self ..)) (runs_bind (ih fun y hy => h y (List.mem_cons_of_mem _ hy)) (runs_pure _ s))

/-- A list of bodies waits at the first one that does. -/
theorem waits_mapM_append {f : α → X β} {bs : List β} {x : α} {ys : List α} (h : Runs (xs.mapM f) s bs t) (hw : Waits (f x) t) :
    Waits ((xs ++ x :: ys).mapM f) s := by
  rw [List.mapM_append, List.mapM_cons]
  exact waits_bind_right h (waits_bind (waits_bind hw))

theorem waits_mapM_range {f : Nat → X β} {bs : List β} {q n : Nat} (hq : q < n) (h : Runs ((List.range q).mapM f) s bs t)
    (hw : Waits (f q) t) : Waits ((List.range n).mapM f) s := by
  obtain ⟨m, rfl⟩ : ∃ m, n = q + (m + 1) := ⟨n - q - 1, by omega⟩
  rw [List.range_add, List.range_succ_eq_map, List.map_cons]
  exact waits_mapM_append h hw

theorem runs_mapM_attempt {f : α → X β} {bs : List β} (h : Runs (xs.mapM f) s bs t) :
    Runs (xs.mapM fun x => attempt (f x)) s (bs.map .ok) t := by
  induction xs generalizing s bs with
  | nil =>
    cases h
    exact runs_pure [] t
  | cons x xs ih =>
    rw [List.mapM_cons] at h ⊢
    obtain ⟨b, u, hx, h⟩ := runs_bind_inv h
    obtain ⟨cs, v, hxs, hp⟩ := runs_bind_inv h
    cases hp
    exact runs_bind (runs_attempt hx) (runs_bind (ih hxs) (runs_pure _ t))

/-- Bodies that each update the state. -/
theorem runs_forM_foldl {f : α → X Unit} {u : State → α → State} (h : ∀ x s, Runs (f x) s () (u s x)) :
    Runs (xs.forM f) s () (xs.foldl u s) := by
  induction xs generalizing s with
  | nil => exact runs_pure () s
  | cons x xs ih => exact runs_bind (h x s) ih

end

end Sys2Proof.Machine
end

section
/-! PROOFS. Addresses of generator elements; GLD, GST, GSET and GADV (R155, R157 to R159, O21). -/

namespace Sys2Proof.Machine

open Sys2Proof

/-! ### Addresses of elements (R157) -/

/-- The last digit of a mixed-radix number, and the number of the digits before it. -/
theorem mixedRadix_digit {i n : Nat} (h : i < n) (q : Nat) : (i + n * q) % n = i ∧ (i + n * q) / n = q := by
  have hn : 0 < n := Nat.zero_lt_of_lt h
  exact ⟨by rw [Nat.add_mul_mod_self_left, Nat.mod_eq_of_lt h], by rw [Nat.add_mul_div_left _ _ hn, Nat.div_eq_of_lt h, Nat.zero_add]⟩

section
variable {w : Gen} {n0 n1 n2 n3 : Nat} {t0 t1 t2 t3 : Int} {i j k l : Nat} (hs : w.sizes = [n0, n1, n2, n3])
include hs

theorem Walk4.count_eq : w.count = n0 * n1 * n2 * n3 := by
  simp [Walk4.count, Walk4.size, hs]

theorem Walk4.coords_mixedRadix (hi : i < n0) (hj : j < n1) (hk : k < n2) :
    w.coords (i + n0 * (j + n1 * (k + n2 * l))) = [i, j, k, l] := by
  obtain ⟨hi1, hi2⟩ := mixedRadix_digit hi (j + n1 * (k + n2 * l))
  obtain ⟨hj1, hj2⟩ := mixedRadix_digit hj (k + n2 * l)
  obtain ⟨hk1, hk2⟩ := mixedRadix_digit hk l
  simp [Walk4.coords, Walk4.size, hs, ← Nat.div_div_eq_div_mul, hi1, hi2, hj1, hj2, hk1, hk2]

/-- The address of an element, from its offset in elements. -/
theorem Walk4.addr_mixedRadix (ht : w.strides = [t0, t1, t2, t3]) (hi : i < n0) (hj : j < n1) (hk : k < n2) :
    w.addr (i + n0 * (j + n1 * (k + n2 * l))) = (wrap64 (w.base + (i * t0 + j * t1 + k * t2 + l * t3) * w.wb / 8),
      ((i * t0 + j * t1 + k * t2 + l * t3) * w.wb % 8).toNat / 4) := by
  simp [Walk4.addr, Walk4.coords_mixedRadix hs hi hj hk, Walk4.stride, ht, List.range_succ,
    Int.fdiv_eq_ediv_of_nonneg, Int.fmod_eq_emod_of_nonneg]

end

/-- Elements of whole bytes. -/
theorem bitOffset_bytes {off : Int} {b : Nat} (hb : b % 8 = 0) : off * b / 8 = off * (b / 8 : Nat) ∧ (off * b % 8).toNat / 4 = 0 := by
  obtain ⟨c, rfl⟩ := Nat.dvd_of_mod_eq_zero hb
  have hmul : off * (8 * c : Nat) = off * c * 8 := by push_cast; ring
  rw [hmul, Nat.mul_div_cancel_left c (by decide)]
  exact ⟨Int.mul_ediv_cancel _ (by decide), by simp⟩

/-- Elements of nibbles. -/
theorem bitOffset_nibbles (off : Int) : off * 4 / 8 = off / 2 ∧ (off * 4 % 8).toNat / 4 = (off % 2).toNat := by
  omega

/-! ### Fields of a generator register (R155) -/

theorem gbits_eq_extract (g : BitVec 512) (lo n : Nat) : gbits g lo n = (g.extractLsb' lo n).toNat := by
  rw [gbits, BitVec.extractLsb'_toNat, Nat.shiftRight_eq_div_pow]

theorem testBit_replaceField (x v lo n j : Nat) : (x - x / 2 ^ lo % 2 ^ n * 2 ^ lo + v % 2 ^ n * 2 ^ lo).testBit j =
    if lo ≤ j ∧ j < lo + n then v.testBit (j - lo) else x.testBit j := by
  have hsplit : x = 2 ^ lo * (2 ^ n * (x / 2 ^ lo / 2 ^ n) + x / 2 ^ lo % 2 ^ n) + x % 2 ^ lo := by
    rw [Nat.div_add_mod, Nat.div_add_mod]
  have hnew : x - x / 2 ^ lo % 2 ^ n * 2 ^ lo + v % 2 ^ n * 2 ^ lo =
      2 ^ lo * (2 ^ n * (x / 2 ^ lo / 2 ^ n) + v % 2 ^ n) + x % 2 ^ lo := by
    rw [Nat.mul_add] at hsplit ⊢
    rw [Nat.mul_comm _ (2 ^ lo), Nat.mul_comm _ (2 ^ lo)]
    omega
  rw [hnew, Nat.testBit_two_pow_mul_add _ (Nat.mod_lt _ (Nat.two_pow_pos lo)),
    Nat.testBit_two_pow_mul_add _ (Nat.mod_lt _ (Nat.two_pow_pos n)), Nat.testBit_mod_two_pow, Nat.testBit_mod_two_pow,
    Nat.testBit_div_two_pow, Nat.testBit_div_two_pow]
  by_cases hlo : j < lo
  · simp [hlo, Nat.not_le.mpr hlo]
  · by_cases hn : j < lo + n
    · have hin : j - lo < n := by omega
      simp [hlo, hn, hin, Nat.not_lt.mp hlo]
    · have hout : ¬ j - lo < n := by omega
      have hback : j - lo - n + n + lo = j := by omega
      simp [hlo, hn, hout, hback]

section
variable {g : BitVec 512} {lo n : Nat} (v : Nat) (h : lo + n ≤ 512)
include h

/-- A field that is written holds its value, and every other bit is as before. -/
theorem getLsbD_putBits (j : Nat) : (putBits g lo n v).getLsbD j = if lo ≤ j ∧ j < lo + n then v.testBit (j - lo) else g.getLsbD j := by
  rw [putBits, BitVec.getLsbD_ofNat, gbits, testBit_replaceField]
  by_cases hj : j < 512
  · simp [hj, BitVec.getLsbD]
  · have hout : ¬ (lo ≤ j ∧ j < lo + n) := by omega
    rw [if_neg hout, if_neg hout, decide_eq_false hj, Bool.false_and, BitVec.getLsbD_of_ge _ _ (Nat.not_lt.mp hj)]

theorem gbits_putBits_same : gbits (putBits g lo n v) lo n = v % 2 ^ n := by
  rw [gbits_eq_extract]
  refine Nat.eq_of_testBit_eq fun j => ?_
  rw [BitVec.testBit_toNat, BitVec.getLsbD_extractLsb', getLsbD_putBits v h, Nat.testBit_mod_two_pow]
  by_cases hj : j < n <;> simp [hj]

theorem gbits_putBits_other {lo' n' : Nat} (hd : lo' + n' ≤ lo ∨ lo + n ≤ lo') :
    gbits (putBits g lo n v) lo' n' = gbits g lo' n' := by
  rw [gbits_eq_extract, gbits_eq_extract]
  refine Nat.eq_of_testBit_eq fun j => ?_
  rw [BitVec.testBit_toNat, BitVec.getLsbD_extractLsb', BitVec.testBit_toNat, BitVec.getLsbD_extractLsb', getLsbD_putBits v h]
  by_cases hj : j < n'
  · have hout : ¬ (lo ≤ lo' + j ∧ lo' + j < lo + n) := by omega
    rw [if_neg hout]
  · simp [hj]

end

/-- The reserved bits as a field. -/
theorem reserved_eq_gbits (g : BitVec 512) : g.toNat / 2 ^ 423 = gbits g 423 89 := by
  rw [gbits_eq_extract]
  refine Nat.eq_of_testBit_eq fun j => ?_
  rw [Nat.testBit_div_two_pow, BitVec.testBit_toNat, BitVec.testBit_toNat, BitVec.getLsbD_extractLsb', Nat.add_comm]
  by_cases hj : j < 89
  · rw [decide_eq_true hj, Bool.true_and]
  · rw [decide_eq_false hj, Bool.false_and, BitVec.getLsbD_of_ge _ _ (by omega)]

theorem Walk4.ofBits_putBase (g : BitVec 512) (v : Nat) : Walk4.ofBits (putBits g 0 64 v) = { Walk4.ofBits g with base := v % 2 ^ 64 } := by
  have h : 0 + 64 ≤ 512 := by decide
  have other (lo n : Nat) (hd : 0 + 64 ≤ lo) := gbits_putBits_other (g := g) v h (lo' := lo) (n' := n) (.inr hd)
  simp only [Walk4.ofBits, reserved_eq_gbits, gbits_putBits_same v h, other, Nat.reduceAdd, Nat.reduceLeDiff]

theorem Walk4.ofBits_putSoff (g : BitVec 512) (v : Nat) :
    Walk4.ofBits (putBits g 320 64 v) = { Walk4.ofBits g with soff := signedOf 64 (v % 2 ^ 64) } := by
  have h : 320 + 64 ≤ 512 := by decide
  have other (lo n : Nat) (hd : lo + n ≤ 320 ∨ 320 + 64 ≤ lo) := gbits_putBits_other (g := g) v h hd
  simp only [Walk4.ofBits, reserved_eq_gbits, gbits_putBits_same v h, other, Nat.reduceAdd, Nat.reduceLeDiff, true_or, or_true]

theorem wrap64_mod (i : Int) : wrap64 i % 2 ^ 64 = wrap64 i :=
  Nat.mod_eq_of_lt (by unfold wrap64; omega)

theorem signedOf_wrap64 (i : Int) : signedOf 64 (wrap64 i) = i.bmod (2 ^ 64) := by
  have hcast : ((wrap64 i : Nat) : Int) = i % 2 ^ 64 := Int.toNat_of_nonneg (Int.emod_nonneg i (by decide))
  rw [signedOf, BitVec.toInt_ofNat', hcast]
  exact Int.emod_bmod ..

/-! ### The field that GSET writes (R158) -/

/-- The place and the width of each field. -/
theorem gsetField_eq {f : Fin 12} {lo n : Nat} (h : f.val = 0 ∧ lo = 0 ∧ n = 64 ∨ 1 ≤ f.val ∧ f.val ≤ 8 ∧ lo = 32 + 32 * f.val ∧ n = 32
    ∨ f.val = 9 ∧ lo = 320 ∧ n = 64 ∨ f.val = 10 ∧ lo = 384 ∧ n = 32 ∨ f.val = 11 ∧ lo = 416 ∧ n = 96) : gsetField f = (lo, n) := by
  have middle : ∀ f : Fin 12, 1 ≤ f.val → f.val ≤ 8 → gsetField f = (32 + 32 * f.val, 32) := by decide
  obtain ⟨hf, rfl, rfl⟩ | ⟨hf, hf', rfl, rfl⟩ | ⟨hf, rfl, rfl⟩ | ⟨hf, rfl, rfl⟩ | ⟨hf, rfl, rfl⟩ := h
  · rw [show f = 0 from Fin.ext hf]
    rfl
  · exact middle f hf hf'
  · rw [show f = 9 from Fin.ext hf]
    rfl
  · rw [show f = 10 from Fin.ext hf]
    rfl
  · rw [show f = 11 from Fin.ext hf]
    rfl

theorem gsetField_fits (f : Fin 12) : (gsetField f).1 + (gsetField f).2 ≤ 512 := by
  revert f
  decide

/-! ### The generator that GADV leaves (R159) -/

theorem fmod_eight (n : Int) : n.fmod 8 = n % 8 := Int.fmod_eq_emod_of_nonneg n (by decide)

theorem fdiv_eight (n : Int) : n.fdiv 8 = n / 8 := Int.fdiv_eq_ediv_of_nonneg n (by decide)

/-- The generator with its base moved by a number of bits. -/
def movedBase (b : BitVec 512) (bits : Int) : BitVec 512 := putBits b 0 64 (wrap64 ((Walk4.ofBits b).base + bits.fdiv 8))

/-- The generator with its base moved, and the offset of its scales such that they move by sc bytes. -/
def movedScales (b : BitVec 512) (bits sc : Int) : BitVec 512 :=
  putBits (movedBase b bits) 320 64 (wrap64 ((Walk4.ofBits b).soff + sc - bits.fdiv 8))

theorem Walk4.ofBits_movedBase (b : BitVec 512) (bits : Int) : Walk4.ofBits (movedBase b bits) =
    { Walk4.ofBits b with base := (((Walk4.ofBits b).base + bits / 8) % 2 ^ 64).toNat } := by
  rw [movedBase, Walk4.ofBits_putBase, wrap64_mod, fdiv_eight]
  rfl

theorem Walk4.ofBits_movedScales (b : BitVec 512) (bits sc : Int) : Walk4.ofBits (movedScales b bits sc) =
    { Walk4.ofBits b with base := (((Walk4.ofBits b).base + bits / 8) % 2 ^ 64).toNat,
                          soff := ((Walk4.ofBits b).soff + sc - bits / 8).bmod (2 ^ 64) } := by
  rw [movedScales, Walk4.ofBits_putSoff, wrap64_mod, signedOf_wrap64, Walk4.ofBits_movedBase, fdiv_eight]

section
variable {w : Gen} {ax : Nat} {n : Int}

theorem gadvScale_block (hax : ax = w.baxis) (hn : n % 8 = 0) : gadvScale w ax n = some (n / 8) := by
  rw [gadvScale, if_pos hax, fmod_eight, if_neg (not_not.mpr hn), fdiv_eight]

theorem gadvScale_misplaced (hax : ax = w.baxis) (hn : n % 8 ≠ 0) : gadvScale w ax n = none := by
  rw [gadvScale, if_pos hax, fmod_eight, if_pos hn]

theorem gadvScale_other (hax : ax ≠ w.baxis) : gadvScale w ax n = some (n * sizesBelow w ax * w.sstride) := if_neg hax

end

/-- What GADV does where its first two checks have passed. -/
def gadvMove (r : GReg) (b : BitVec 512) (ax : Nat) (n bits : Int) : X Unit :=
  if !(Walk4.ofBits b).scaled then setGen r (movedBase b bits)
  else
    match gadvScale (Walk4.ofBits b) ax n with
    | none => fault 0x04 (Walk4.ofBits b).base
    | some sc => setGen r (movedScales b bits sc)

/-- GADV: its first two checks, then the move. -/
theorem exec_gadv_eq (r : GReg) (a : SReg) (ax : Fin 4) (s : State) : exec (.gadv r a ax) s = instr 1 [a] [] noPre (seqBody fun vs => do
    let m ← me
    let w := Walk4.ofBits (m.2.1.gens.get r)
    let bits := (arg vs 0).toInt * w.stride ax.val * w.wb
    faultIf (!w.valid) 0x01 0
    faultIf (bits.fmod 8 != 0) 0x04 w.base
    gadvMove r (m.2.1.gens.get r) ax.val (arg vs 0).toInt bits) s := rfl

section
variable {r : GReg} {b : BitVec 512} {ax : Nat} {n bits : Int}

theorem gadvMove_plain (hs : (Walk4.ofBits b).scaled = false) : gadvMove r b ax n bits = setGen r (movedBase b bits) := by
  rw [gadvMove, hs]
  rfl

theorem gadvMove_scaled (hs : (Walk4.ofBits b).scaled = true) {sc : Int} (hsc : gadvScale (Walk4.ofBits b) ax n = some sc) :
    gadvMove r b ax n bits = setGen r (movedScales b bits sc) := by
  rw [gadvMove, hs, hsc]
  rfl

theorem gadvMove_misplaced (hs : (Walk4.ofBits b).scaled = true) (hsc : gadvScale (Walk4.ofBits b) ax n = none) :
    gadvMove r b ax n bits = fault 0x04 (Walk4.ofBits b).base := by
  rw [gadvMove, hs, hsc]
  rfl

end

/-! ### GLD and GST (R158) -/

section
variable {p : Nat} (hlt : p < 2 ^ 64) (s : State)
include hlt

theorem raises_genAccess_space (hs : 2 ≤ p / 2 ^ 60) : Raises (genAccess p) s { code := 0x05, va := BitVec.ofNat 64 p } none :=
  raises_bind (raises_faultIf_of (by rw [ptrSpace_eq_div hlt]; exact decide_eq_true hs) ..)

theorem raises_genAccess_align (hs : p / 2 ^ 60 ≤ 1) (ha : p % 64 ≠ 0) :
    Raises (genAccess p) s { code := 0x04, va := BitVec.ofNat 64 p } none :=
  raises_bind_right (runs_lowSpace hlt hs s) (raises_faultIf_of (bne_iff_ne.mpr ha) ..)

theorem runs_genAccess (hs : p / 2 ^ 60 ≤ 1) (ha : p % 64 = 0) : Runs (genAccess p) s () s :=
  runs_bind (runs_lowSpace hlt hs s) (runs_faultIf_of (bne_eq_false_iff_eq.mpr ha) ..)

end

theorem runs_setGen {s : State} {g : Group} {k : Role} (h : Acts s g k) (r : GReg) (v : BitVec 512) : Runs (setGen r v) s ()
    (s.onGroup s.cur.core s.cur.slot fun y => { y with gens := y.gens.set r.val v r.isLt }) :=
  runs_bind (runs_me h) (runs_modify _ s)

section
variable {i : Instr} {s s1 s2 : State} {g : Group} {k : Role} {r : GReg} {a : SReg} {x : Word} (ht : Taken [a] [] s [x] s1)

section
variable {rest : List Word → X Unit} (hi : exec i s = instr 1 [a] [] noPre (seqBody fun vs => do
  genAccess (arg vs 0).toNat
  rest vs) s)
include hi ht

theorem genAccess_traps_space (hs : 2 ≤ x.toNat / 2 ^ 60) : Traps i s s1 0x05 x.toNat :=
  hi.trans (instr_seq_trap (runs_pure () s) ht (raises_bind (raises_genAccess_space x.isLt s1 hs)))

theorem genAccess_traps_align (hs : x.toNat / 2 ^ 60 ≤ 1) (ha : x.toNat % 64 ≠ 0) : Traps i s s1 0x04 x.toNat :=
  hi.trans (instr_seq_trap (runs_pure () s) ht (raises_bind (raises_genAccess_align x.isLt s1 hs ha)))

theorem genAccess_retires (hs : x.toNat / 2 ^ 60 ≤ 1) (ha : x.toNat % 64 = 0) (hrest : Runs (rest [x]) s1 () s2) : Retires i s s2 :=
  hi.trans (instr_seq (runs_pure () s) ht (runs_bind (runs_genAccess x.isLt s1 hs ha) hrest))

end

variable (h1 : Acts s1 g k)
include ht h1

theorem gld_retires (hs : x.toNat / 2 ^ 60 ≤ 1) (ha : x.toNat % 64 = 0) {bs : List Byte}
    (hr : Runs (memReadBytes (s1.self g) x.toNat 64) s1 bs s2) (h2 : Acts s2 g k) :
    Retires (.gld r a) s (s2.onGroup s2.cur.core s2.cur.slot fun y =>
      { y with gens := y.gens.set r.val (BitVec.ofNat 512 (leNat bs)) r.isLt }) :=
  genAccess_retires ht (exec_gld r a s) hs ha (runs_bind (runs_whoami h1) (runs_bind hr (runs_setGen h2 ..)))

theorem gst_retires (hs : x.toNat / 2 ^ 60 ≤ 1) (ha : x.toNat % 64 = 0) (hn : NoAlias s1 g [(x.toNat, x.toNat + 63)])
    (hw : Runs (memWriteBytes (s1.self g) x.toNat (leBytes 64 (g.gens.get r).toNat)) s1 () s2) : Retires (.gst r a) s s2 :=
  genAccess_retires ht (exec_gst r a s) hs ha (runs_bind (runs_me h1) (runs_bind (runs_whoami h1) (runs_storing h1 hn hw)))

/-! ### GSET (R158) -/

theorem gset_retires (f : Fin 12) : Retires (.gset r a f) s (s1.onGroup s1.cur.core s1.cur.slot fun y =>
    { y with gens := y.gens.set r.val (putBits (g.gens.get r) (gsetField f).1 (gsetField f).2 x.toNat) r.isLt }) :=
  (exec_gset r a f s).trans (instr_seq (runs_pure () s) ht (runs_bind (runs_me h1) (runs_setGen h1 ..)))

/-! ### GADV (R159) -/

section
variable {w : Gen} {bits : Int} {ax : Fin 4} (hw : w = Walk4.ofBits (g.gens.get r)) (hbits : bits = x.toInt * w.stride ax.val * w.wb)
include ht h1 hw

theorem gadv_traps_invalid (hv : w.valid = false) : Traps (.gadv r a ax) s s1 0x01 0 := by
  subst hw
  exact (exec_gadv_eq r a ax s).trans (instr_seq_trap (runs_pure () s) ht (raises_bind_right (runs_me h1)
    (raises_bind (raises_faultIf_of (congrArg (!·) hv) ..))))

variable (hv : w.valid = true)
include hbits hv

theorem gadv_traps_byte (hb : bits % 8 ≠ 0) : Traps (.gadv r a ax) s s1 0x04 w.base := by
  subst hw hbits
  rw [← fmod_eight] at hb
  exact (exec_gadv_eq r a ax s).trans (instr_seq_trap (runs_pure () s) ht (raises_bind_right (runs_me h1)
    (raises_bind_right (runs_faultIf_of (congrArg (!·) hv) ..) (raises_bind (raises_faultIf_of (bne_iff_ne.mpr hb) ..)))))

variable (hb : bits % 8 = 0)
include hb

theorem gadv_traps_block (hs : w.scaled = true) (hax : ax.val = w.baxis) (hn : x.toInt % 8 ≠ 0) :
    Traps (.gadv r a ax) s s1 0x04 w.base := by
  have hsc := gadvScale_misplaced hax hn
  subst hw
  have hmove : Raises (gadvMove r (g.gens.get r) ax.val x.toInt bits) s1 _ none := gadvMove_misplaced hs hsc ▸ raises_fault ..
  subst hbits
  rw [← fmod_eight] at hb
  exact (exec_gadv_eq r a ax s).trans (instr_seq_trap (runs_pure () s) ht (raises_bind_right (runs_me h1)
    (raises_bind_right (runs_faultIf_of (congrArg (!·) hv) ..) (raises_bind_right (runs_faultIf_of (bne_eq_false_iff_eq.mpr hb) ..) hmove))))

/-- The checks pass, and the generator is moved. -/
theorem gadv_retires {v : BitVec 512} (hmove : gadvMove r (g.gens.get r) ax.val x.toInt bits = setGen r v) :
    Retires (.gadv r a ax) s (s1.onGroup s1.cur.core s1.cur.slot fun y => { y with gens := y.gens.set r.val v r.isLt }) := by
  have hrun : Runs (gadvMove r (g.gens.get r) ax.val x.toInt bits) s1 () _ := hmove ▸ runs_setGen h1 r v
  subst hw hbits
  rw [← fmod_eight] at hb
  exact (exec_gadv_eq r a ax s).trans (instr_seq (runs_pure () s) ht (runs_bind (runs_me h1)
    (runs_bind (runs_faultIf_of (congrArg (!·) hv) ..) (runs_bind (runs_faultIf_of (bne_eq_false_iff_eq.mpr hb) ..) hrun))))

end

end

/-- Settles O21: the digits of an element number; the checks of each instruction in their order; the fields that a write leaves. -/
theorem generators : Obligations.Generators := by
  unfold Obligations.Generators
  refine ⟨fun w n0 n1 n2 n3 t0 t1 t2 t3 i j k l hs ht hi hj hk hl => ⟨Walk4.count_eq hs, fun hb => ?_, fun hb => ?_⟩,
    fun s s1 s2 g k r a x bs ht h1 => ⟨fun hs => ⟨?_, ?_⟩, fun hs ha => ⟨?_, ?_⟩, fun hs ha hr h2 hcur => ?_, fun hs ha hn hw => ?_,
      fun f => ⟨_, gset_retires ht h1 f, fun lo n hf j hj => ?_⟩⟩,
    fun s s1 g k r a ax x w bits ht h1 hw hbits => ⟨fun hv => ?_, fun hv hb => ?_, fun hv hb hs hax hn => ?_, fun hv hb hn => ?_⟩⟩
  · obtain ⟨hdiv, hmod⟩ := bitOffset_bytes (off := i * t0 + j * t1 + k * t2 + l * t3) hb
    rw [Walk4.addr_mixedRadix hs ht hi hj hk, hdiv, hmod]
    rfl
  · obtain ⟨hdiv, hmod⟩ := bitOffset_nibbles (i * t0 + j * t1 + k * t2 + l * t3)
    rw [Walk4.addr_mixedRadix hs ht hi hj hk, hb, Nat.cast_ofNat, hdiv, hmod]
    rfl
  · exact genAccess_traps_space ht (exec_gld r a s) hs
  · exact genAccess_traps_space ht (exec_gst r a s) hs
  · exact genAccess_traps_align ht (exec_gld r a s) hs ha
  · exact genAccess_traps_align ht (exec_gst r a s) hs ha
  · exact gld_retires ht h1 hs ha hr h2
  · exact gst_retires ht h1 hs ha hn hw
  · have hfit := gsetField_fits f
    rw [gsetField_eq hf] at hfit ⊢
    rw [getLsbD_putBits _ hfit, BitVec.testBit_toNat]
  · exact gadv_traps_invalid ht h1 hw hv
  · exact gadv_traps_byte ht h1 hw hbits hv hb
  · exact gadv_traps_block ht h1 hw hbits hv hb hs hax hn
  · have moved {v : BitVec 512} := gadv_retires ht h1 hw hbits hv hb (v := v)
    subst hw
    cases hs : (Walk4.ofBits (g.gens.get r)).scaled with
    | false =>
      refine ⟨_, moved (gadvMove_plain hs), ?_⟩
      rw [Walk4.ofBits_movedBase]
      exact ⟨rfl, rfl, rfl, fun _ => rfl, nofun, nofun⟩
    | true =>
      by_cases hax : ax.val = (Walk4.ofBits (g.gens.get r)).baxis
      · refine ⟨_, moved (gadvMove_scaled hs (gadvScale_block hax (hn hs hax))), ?_⟩
        rw [Walk4.ofBits_movedScales]
        exact ⟨rfl, rfl, rfl, nofun, fun _ _ => rfl, fun _ h => absurd hax h⟩
      · refine ⟨_, moved (gadvMove_scaled hs (gadvScale_other hax)), ?_⟩
        rw [Walk4.ofBits_movedScales]
        exact ⟨rfl, rfl, rfl, nofun, fun _ h => absurd h hax, fun _ _ => rfl⟩

end Sys2Proof.Machine
end

section
/-! PROOFS. MMA, MMAS and MMAC (R161, R164 to R167, O26). -/

namespace Sys2Proof.Machine

open Sys2Proof

/-! ### Operands of an array instruction (R164, R165) -/

theorem runs_ownSource {s : State} {g : Group} {k : Role} (h : Acts s g k) (o : XOp) : Runs (ownSource o) s
    ⟨s.cur.core, s.cur.slot, g.ctx, g.rows, g.gens.get o.ga, g.gens.get o.gb⟩ s :=
  runs_bind (runs_me h) (runs_pure _ s)

theorem runs_rowsWithin {rows first count : Nat} (h : first + count ≤ rows) (s : State) : Runs (rowsWithin rows first count) s () s :=
  runs_faultIf_of (by simp [Nat.not_lt.mpr h]) ..

/-- The operands that R161 and R164 refuse as an illegal instruction: the generator, the B descriptor, or the two together. -/
def MmaRefuses (w : Gen) (o : XOp) (desc maxM : Nat) : Prop :=
  w.valid = false ∨ matrixFmt w.code = false ∨ BOperand.ofWord desc o.mb = none
    ∨ ∃ b, BOperand.ofWord desc o.mb = some b ∧ (w.size 0 ≠ b.k ∨ maxM < w.size 1 ∨ w.size 2 ≠ 1 ∨ w.size 3 ≠ 1
        ∨ (w.scaled = true ∧ w.baxis ≠ 0) ∨ (o.i32acc = true ∧ (intInput w.fmt = false ∨ intInput b.fmt = false)))

theorem raises_mmaShape {a : ArrSource} {o : XOp} {desc maxM : Nat} (h : MmaRefuses (Walk4.ofBits a.ga) o desc maxM) (s : State) :
    Raises (mmaShape a o desc maxM) s { code := 0x01, va := 0 } none := by
  refine raises_faultIf_or (va := 0) ?_
  obtain hv | hf | hn | ⟨b, hb, h⟩ := h
  · exact .inl (by rw [hv]; rfl)
  · exact .inl (by rw [hf, Bool.not_false, Bool.or_true])
  · right
    rw [hn]
    exact raises_fault ..
  · right
    rw [hb]
    refine raises_faultIf_or (va := 0) ?_
    obtain h | h | h | h | ⟨hs, hax⟩ | ⟨hacc, hint⟩ := h
    · exact .inl (by simp [h])
    · exact .inl (by simp [h])
    · exact .inl (by simp [h])
    · exact .inl (by simp [h])
    · exact .inr (raises_faultIf_or (va := 0) (.inl (by simp [hs, hax])))
    · refine .inr (raises_faultIf_or (va := 0) (.inr (raises_faultIf_or (va := 0) (.inl ?_))))
      rw [hacc]
      obtain h | h := hint <;> simp [h]

/-- The checks of the operands change nothing. -/
theorem keeps_mmaShape {β : Type} {v : State → β} (a : ArrSource) (o : XOp) (desc maxM : Nat) (s : State) :
    Keeps v (mmaShape a o desc maxM) s := by
  refine keeps_bind (keeps_faultIf ..) fun _ _ => ?_
  split
  · exact keeps_fault ..
  · exact keeps_bind (keeps_faultIf ..) fun _ _ => keeps_bind (keeps_faultIf ..) fun _ _ => keeps_bind (keeps_faultIf ..) fun _ _ =>
      keeps_bind (keeps_faultIf ..) fun _ _ => keeps_pure _

theorem runs_arrayRoom {c : CoreId} {s : State} (h : (s.core c).array.length < 4) : Runs (arrayRoom c) s () s :=
  runs_bind (runs_get s) (runs_waitIf_of (decide_eq_false (Nat.not_le.mpr h)) s)

/-! ### MMA and MMAS (R164, R166) -/

section
variable {i : Instr} {fresh : Bool} {o : XOp} {s s1 s2 : State} {g : Group} {k : Role} {x : Word} {src : ArrSource} {sh : MmaShape}
  {outs : List OutVal × Bool} (hi : exec i s = mma fresh o s) (ht : Taken [o.s] [] s [x] s1) (h1 : Acts s1 g k)
include hi ht h1

theorem mma_traps (h : MmaRefuses (Walk4.ofBits (g.gens.get o.ga)) o x.toNat 128) : Traps i s s1 0x01 0 :=
  hi.trans (instr_seq_trap (runs_pure () s) ht (raises_bind_right (runs_me h1) (raises_bind_right (runs_ownSource h1 o)
    (raises_bind (raises_mmaShape h s1)))))

variable (hsrc : src = ⟨s1.cur.core, s1.cur.slot, g.ctx, g.rows, g.gens.get o.ga, g.gens.get o.gb⟩)
  (hsh : Runs (mmaShape src o x.toNat 128) s1 sh s1) (hrows : o.d.val + sh.m * tileStride sh.b.n ≤ g.rows)
  (houts : Runs (mmaOuts src sh o 0 sh.m) s1 outs s2)
include hsrc hsh hrows houts

theorem mma_waits (hfull : 4 ≤ (s2.core s1.cur.core).array.length) : exec i s = .next (s.noteWait [o.s] []) := by
  subst hsrc
  exact hi.trans (instr_wait (runs_pure () s) ht (waits_bind (waits_bind_right (runs_me h1) (waits_bind_right (runs_ownSource h1 o)
    (waits_bind_right hsh (waits_bind_right (runs_rowsWithin hrows s1) (waits_bind_right houts
      (waits_bind (waits_bind_right (runs_get s2) (waits_waitIf_of (decide_eq_true hfull) s2))))))))))

theorem mma_retires (hroom : (s2.core s1.cur.core).array.length < 4) : Retires2 i s (s2.onCore s1.cur.core fun c =>
    { c with array := c.array ++ [arrEntry s1.cur g k.pc o fresh sh sh.m outs] }) := by
  subst hsrc
  exact hi.trans (instr_seq (runs_pure () s) ht (runs_bind (runs_me h1) (runs_bind (runs_ownSource h1 o) (runs_bind hsh
    (runs_bind (runs_rowsWithin hrows s1) (runs_bind houts (runs_bind (runs_arrayRoom hroom) (runs_modify _ s2))))))))

end

/-! ### The parts of an MMAC (R167) -/

/-- The checks of a part change nothing. -/
theorem keeps_mmacSide {β : Type} {v : State → β} (o : XOp) (desc : Nat) (s : State) : Keeps v (mmacSide o desc) s :=
  keeps_bind keeps_me fun _ _ => keeps_bind (keeps_faultIf ..) fun _ _ => keeps_bind (keeps_bind keeps_me fun _ _ => keeps_pure _)
    fun _ _ => keeps_bind (keeps_mmaShape ..) fun _ _ => keeps_bind (keeps_faultIf ..) fun _ _ => keeps_pure _

/-- All parts take a fault in turn. -/
theorem runs_faultAll (sides : List MmacSide) (t : Trap) (s : State) : Runs (faultAll sides t) s .gone
    (sides.foldl (fun v y => v.takeFault y.id t (((v.role y.id).map Role.pc).getD 0) false) s) := by
  refine runs_bind (runs_forM_foldl fun y v => (runs_modify _ v).trans ?_) (runs_pure _ _)
  cases v.role y.id <;> rfl

/-- Parts that all have a result have no fault to share. -/
theorem sharedPoison_ok (outs : List (List OutVal × Bool)) : sharedPoison (outs.map .ok) = none := by
  simp [sharedPoison, List.filterMap_map]

theorem runs_mmacResults (self : RoleId) (ps : List (MmacSide × List OutVal × Bool)) (s : State) :
    Runs (mmacResults self (ps.map fun p => (p.1, .ok p.2))) s ps s := by
  refine runs_bind (runs_forM fun p hp => ?_) ?_
  · obtain ⟨p, -, rfl⟩ := List.mem_map.mp hp
    exact runs_pure () s
  · rw [List.mapM_map]
    have h := runs_mapM_reading (xs := ps) (v := id) fun p _ => runs_pure p s
    rw [List.map_id] at h
    exact h

/-! ### MMAC (R167) -/

/-- The part of core q: the own one, or a partner's. -/
def mmacPart (self : RoleId) (g : Group) (own : MmacSide) (q : Nat) : X MmacSide :=
  if q = self.core.val % 4 then pure own else mmacPartner self g q

section
variable {o : XOp} {s s1 s2 s3 s4 : State} {g : Group} {k : Role} {x : Word} {own : MmacSide} {sides : List MmacSide}
  (ht : Taken [o.s] [] s [x] s1) (hown : Runs (mmacSide o x.toNat) s1 own s2) (h2 : Acts s2 g k)
include ht hown h2

/-- A partner that has ended or been killed. -/
theorem mmac_traps_gone (hmate : g.mateGone = true) : Traps (.mmac o) s s2 0x15 0 := by
  obtain rfl : s2 = s1 := (keeps_mmacSide (v := id) o x.toNat s1).runs hown
  exact (exec_mmac o s).trans (instr_trap (k := none) (runs_pure () s) ht (raises_bind_right hown (raises_bind_right (runs_me h2)
    (raises_bind (raises_faultIf_of hmate ..)))))

variable (hmate : g.mateGone = false)
include hmate

/-- A partner that has left its slot otherwise. -/
theorem mmac_waits_left {q : Nat} {before : List MmacSide} (hq : q < 4) (hne : q ≠ s2.cur.core.val % 4)
    (hbefore : Runs ((List.range q).mapM (mmacPart s2.cur g own)) s2 before s3) (hleft : partner s3 s2.cur.core g q = none) :
    exec (.mmac o) s = .next (s.noteWait [o.s] []) := by
  have hpart : Waits (mmacPart s2.cur g own q) s3 := by
    rw [mmacPart, if_neg hne]
    refine waits_bind_right (runs_get s3) ?_
    rw [hleft]
    rfl
  exact (exec_mmac o s).trans (instr_wait (runs_pure () s) ht (waits_bind_right hown (waits_bind_right (runs_me h2)
    (waits_bind_right (runs_faultIf_of hmate ..) (waits_bind (waits_mapM_range hq hbefore hpart))))))

variable (hsides : Runs ((List.range 4).mapM (mmacPart s2.cur g own)) s2 sides s3)
  (hroom : ∀ y ∈ sides, (s3.core y.id.core).array.length < 4)
include hsides hroom

/-- All parts pass their checks, and every array has room: the rest of the operation. -/
theorem mmac_goes {rest : RoleId × Group × Role → List MmacSide → X Flow} {f : Flow}
    (hi : exec (.mmac o) s = instr 2 [o.s] [] noPre (fun vs => do
      let own ← mmacSide o (arg vs 0).toNat
      let m ← me
      mmacGone m.2.1
      let sides ← (List.range 4).mapM (mmacPart m.1 m.2.1 own)
      sides.forM fun x => arrayRoom x.id.core
      rest m sides) s)
    (hrest : Runs (rest (s2.cur, g, k) sides) s3 f s4) : exec (.mmac o) s = .next (s4.continue_ 2 f) :=
  hi.trans (instr_next (runs_pure () s) ht (runs_bind hown (runs_bind (runs_me h2) (runs_bind (runs_faultIf_of hmate ..)
    (runs_bind hsides (runs_bind (runs_forM fun y hy => runs_arrayRoom (hroom y hy)) hrest))))))

theorem mmac_disagrees (hagree : mmacAgree sides = false) : exec (.mmac o) s = .next (sides.foldl (fun v y =>
    v.takeFault y.id { code := 0x01, va := 0 } (((v.role y.id).map Role.pc).getD 0) false) s3) := by
  refine mmac_goes ht hown h2 hmate hsides hroom (f := .gone) (exec_mmac o s) ?_
  rw [hagree]
  exact runs_faultAll sides _ s3

variable (hagree : mmacAgree sides = true)
include hagree

theorem mmac_poisoned {rs : List (Except Trap (List OutVal × Bool))} {t : Trap} (hrs : Runs (sides.mapM fun y =>
    attempt (mmaOuts y.src y.shape y.op (128 * (y.id.core.val % 4 / 2)) y.rows)) s3 rs s4) (hp : sharedPoison rs = some t) :
    exec (.mmac o) s = .next (sides.foldl (fun v y =>
      v.takeFault y.id t (((v.role y.id).map Role.pc).getD 0) false) s4) := by
  refine mmac_goes ht hown h2 hmate hsides hroom (f := .gone) (exec_mmac o s) ?_
  rw [hagree]
  refine runs_bind hrs ?_
  rw [hp]
  exact runs_faultAll sides t s4

theorem mmac_retires {outs : List (List OutVal × Bool)} {s5 : State} (houts : Runs (sides.mapM fun y =>
    mmaOuts y.src y.shape y.op (128 * (y.id.core.val % 4 / 2)) y.rows) s3 outs s4)
    (hissue : Runs ((sides.zip outs).forM (mmacIssue s2.cur)) s4 () s5) : Retires2 (.mmac o) s s5 := by
  refine mmac_goes ht hown h2 hmate hsides hroom (f := .seq) (exec_mmac o s) ?_
  rw [hagree]
  refine runs_bind (runs_mapM_attempt houts) ?_
  rw [sharedPoison_ok, List.zip_map_right]
  exact runs_bind (runs_mmacResults s2.cur (sides.zip outs) s4) (runs_bind hissue (runs_pure _ s5))

end

/-- Settles O26: MMA and MMAS in one frame; MMAC's parts, and what they come to together. -/
theorem matrixInstructions : Obligations.MatrixInstructions := by
  unfold Obligations.MatrixInstructions
  refine ⟨fun s s1 s2 g k o x src sh outs ht h1 hsrc hsh hrows houts => ⟨fun hfull => ⟨?_, ?_⟩, fun hroom fresh => ?_⟩,
    fun s s1 g k o x w ht h1 hw hbad => ⟨?_, ?_⟩,
    fun s s1 s2 s3 s4 s5 g k o x own sides outs ht h1 hown h2 hcur => ?_⟩
  · exact mma_waits (exec_mma o s) ht h1 hsrc hsh hrows houts hfull
  · exact mma_waits (exec_mmas o s) ht h1 hsrc hsh hrows houts hfull
  · have hi : exec (if fresh then .mmas o else .mma o) s = mma fresh o s := by cases fresh <;> rfl
    exact mma_retires hi ht h1 hsrc hsh hrows houts hroom
  · exact mma_traps (exec_mma o s) ht h1 (hw ▸ hbad)
  · exact mma_traps (exec_mmas o s) ht h1 (hw ▸ hbad)
  · intro part all
    refine ⟨fun hmate => ?_, fun q hq before s3 hmate hne hbefore hleft => ?_, fun hmate hsides hroom =>
      ⟨fun hagree houts hissue => ?_, fun rs t hagree hrs hp => ?_, fun hagree => ?_⟩⟩
    · exact mmac_traps_gone ht hown h2 hmate
    · exact mmac_waits_left ht hown h2 hmate hq hne hbefore hleft
    · exact mmac_retires ht hown h2 hmate hsides hroom hagree houts hissue
    · exact mmac_poisoned ht hown h2 hmate hsides hroom hagree hrs hp
    · exact mmac_disagrees ht hown h2 hmate hsides hroom hagree

end Sys2Proof.Machine
end

section
/-! PROOFS. The result stage of the array (R163, R164, R166, R171, R172, O27). -/

namespace Sys2Proof.Machine

open Sys2Proof

/-! ### The oldest instruction of the array (R166, R172) -/

section
variable {s : State} {c : CoreId} {e : ArrEntry} {rest : List ArrEntry} (ha : (s.core c).array = e :: rest) (hc : e.copy = none)
include ha hc

/-- The results of a group that has left its slot are discarded. -/
theorem resultStage_discards (h : ∀ g, s.group c e.slot = some g → g.order ≠ e.order) :
    exec (.matrixResultStage c) s = .next (s.onCore c fun x => { x with array := rest }) := by
  rw [exec_matrixResultStage, execMatrixResultStage, ha]
  dsimp only
  rw [hc]
  cases hg : s.group c e.slot with
  | none => rfl
  | some g =>
    dsimp only
    rw [if_pos (bne_iff_ne.mpr (h g hg))]

theorem resultStage_writes {g : Group} (hg : s.group c e.slot = some g) (ho : g.order = e.order) :
    exec (.matrixResultStage c) s = .next (applyRows c e e.m 0 e.outs
      ((s.onCore c fun x => { x with array := rest }).onGroup c e.slot fun g => g.raise (if e.nx then Flags.nx else 0))) := by
  rw [exec_matrixResultStage, execMatrixResultStage, ha]
  dsimp only
  rw [hc, hg]
  dsimp only
  rw [if_neg (bne_eq_false_iff_eq.mpr ho ▸ Bool.false_ne_true)]
  rfl

end

/-! ### A row of a tile (R163, R164) -/

theorem length_resultRow (e : ArrEntry) (old : List Nat) (outs : List OutVal) :
    (resultRow e old outs).length = min old.length outs.length := by
  simp [resultRow]

/-- The first of the rows that are left: its results are stored, the group gets its flags and the first NaN, and the others follow. -/
theorem applyRows_succ {s : State} {c : CoreId} {e : ArrEntry} {g : Group} (hg : s.group c e.slot = some g) (f i : Nat)
    (outs : List OutVal) : ∃ report : Group → Group, applyRows c e (f + 1) i outs s = applyRows c e f (i + 1) (outs.drop e.n)
      ((s.chipWrite (rowKeyOf c g (e.d + i * tileStride e.n)) (((resultRow e (lanesOf 4 e.n
        (s.bytesAt (rowKeyOf c g (e.d + i * tileStride e.n)) (4 * e.n))) (outs.take e.n)).map Prod.fst).flatMap (leBytes 4))).onGroup
          c e.slot report) := by
  rw [applyRows, hg, List.flatMap_map]
  exact ⟨_, rfl⟩

theorem State.bytesAt_onGroup (s : State) (c : CoreId) (n : SlotId) (f : Group → Group) (k m : Nat) :
    (s.onGroup c n f).bytesAt k m = s.bytesAt k m := by
  simp [State.bytesAt_eq_map, State.byteAt]

/-- A number of a run of numbers that has been stored. -/
theorem leNat_bytesAt_stored {s : State} (hm : s.MemOk) (k : Nat) {n : Nat} {xs : List Nat} {j : Nat} (hj : j < xs.length) :
    leNat ((s.putBytes k (xs.flatMap (leBytes n))).bytesAt (k + j * n) n) = xs[j] % 2 ^ (8 * n) := by
  have hin : j * n + n ≤ (xs.flatMap (leBytes n)).length := by
    rw [length_flatMap_leBytes, ← Nat.succ_mul]
    exact Nat.mul_le_mul_right _ hj
  rw [← State.bytesAt_inside _ _ hin, State.bytesAt_putBytes_same _ _ hm, take_drop_flatMap (leBytes_length _) hj, leNat_leBytes]

/-- Each lane of a row is its old value updated by what its output position adds. -/
theorem applyRows_one_lane {s : State} {c : CoreId} {e : ArrEntry} {g : Group} {i : Nat} {outs : List OutVal} {key : Nat}
    (hg : s.group c e.slot = some g) (hm : s.MemOk) (hkey : key = rowKeyOf c g (e.d + i * tileStride e.n))
    (hp : ∀ q ∈ s.poison, q < key / 64 ∨ (key + 4 * e.n) / 64 < q) (hlen : e.n ≤ outs.length) {j : Nat} (hj : j < e.n) :
    leNat ((applyRows c e 1 i outs s).bytesAt (key + 4 * j) 4) = (accumulate e.i32 e.rm
      (if e.fresh then 0 else (lanesOf 4 e.n (s.bytesAt key (4 * e.n))).getD j 0) (outs.getD j .nanLine)).1 % 2 ^ 32 := by
  obtain ⟨report, hrow⟩ := applyRows_succ hg 0 i outs
  rw [← hkey] at hrow
  generalize hold : lanesOf 4 e.n (s.bytesAt key (4 * e.n)) = old at *
  have hn : old.length = e.n := by rw [← hold, length_lanesOf]
  have hrs : ((resultRow e old (outs.take e.n)).map Prod.fst).length = e.n := by
    rw [List.length_map, length_resultRow, List.length_take]
    omega
  have hclean := State.chipWrite_clean (s := s) (k := key) (bs := ((resultRow e old (outs.take e.n)).map Prod.fst).flatMap (leBytes 4))
    fun q hq => by
      have := hp q hq
      rw [length_flatMap_leBytes, hrs]
      omega
  rw [hrow, applyRows, State.bytesAt_onGroup, hclean, Nat.mul_comm 4 j, leNat_bytesAt_stored hm key (by omega)]
  have hjo : j < outs.length := by omega
  simp [resultRow, hn, hj, hjo]

/-- Settles O27: the result stage of the oldest instruction, and a row of a tile read back lane by lane. -/
theorem matrixResults : Obligations.MatrixResults := by
  unfold Obligations.MatrixResults
  refine ⟨fun s c e rest ha hc => ⟨fun h => ?_, fun g hg ho => ?_⟩, fun s c e g i f outs old hg hm hp hlen hf hold j hj => ?_⟩
  · exact resultStage_discards ha hc h
  · exact resultStage_writes ha hc hg ho
  · subst hf hold
    exact applyRows_one_lane hg hm rfl hp hlen hj

end Sys2Proof.Machine
end

section
/-! PROOFS. BLD, ZACC and ACVT (R168 to R170, O28). -/

namespace Sys2Proof.Machine

open Sys2Proof

/-! ### BLD (R168) -/

theorem runs_slabsReady {w : Who} {core : CoreId} {slab : Nat} {b : BOperand} {s : State}
    (h : ∀ j < b.n, s.boardHits w (columnPtr core slab j) b.cb = false) : Runs (slabsReady w core slab b) s () s := by
  refine runs_bind (runs_get s) (runs_waitIf_of (List.any_eq_false.mpr fun j hj => ?_) s)
  exact ne_true_of_eq_false (h j (List.mem_range.mp hj))

section
variable {s s1 s2 : State} {g g1 : Group} {k k1 : Role} {o : XOp} {x : Word} (h1 : Acts s1 g1 k1)

include h1 in
theorem bld_retires (ht : Taken [o.s] [] s [x] s1) {w : Gen} {b : BOperand}
    (hshape : Runs (bldShape s1.cur.core (g1.gens.get o.ga) o x.toNat) s1 (w, b) s1)
    (hboard : ∀ j < b.n, s1.boardHits (s1.self g1) (columnPtr s1.cur.core o.slab.val j) b.cb = false)
    (hna : NoAlias s1 g1 (bldRanges s1.cur.core o.slab.val b))
    (hr : Runs (bldRun (s1.self g1) s1.cur.core o.slab.val w b) s1 () s2) : Retires2 (.bld o) s s2 :=
  (exec_bld o s).trans (instr_seq (runs_pure () s) ht (runs_bind (runs_me h1) (runs_bind hshape (runs_bind (runs_whoami h1)
    (runs_bind (runs_slabsReady hboard) (runs_storing h1 hna hr))))))

/-! ### ZACC (R169) -/

include h1 in
theorem zacc_retires (h : Acts s g k) (ht : Taken [] [] s [] s1) (hde : o.d ≤ o.e) (he : o.e.val < g.rows)
    (hq : RowsQuiet s1 g1 [(o.d.val, o.e.val + 1 - o.d.val)]) :
    Retires2 (.zacc o) s (s1.chipWrite (rowKeyOf s1.cur.core g1 o.d.val) (List.replicate ((o.e.val + 1 - o.d.val) * 256) 0)) := by
  have hfit : RowsFit g [(o.d.val, o.e.val + 1 - o.d.val)] := fun f hf => by
    obtain rfl := List.mem_singleton.mp hf
    have hle : o.d.val ≤ o.e.val := hde
    right
    dsimp only
    omega
  exact (exec_zacc o s).trans (instr_seq
    (runs_bind (runs_faultIf_of (decide_eq_false (not_lt.mpr hde)) ..) (runs_needRows h hfit)) ht
    (runs_bind (runs_rowsReady h1 hq) (runs_bind (runs_me h1) (runs_modify _ s1))))

/-! ### ACVT (R170) -/

/-- The shapes of tiles that ACVT refuses: bits beyond the two sizes, no rows or columns, more of them than a tile has. -/
def AcvtRefuses (sh : Nat) : Prop :=
  2 ^ 16 ≤ sh ∨ sh % 2 ^ 8 = 0 ∨ 128 < sh % 2 ^ 8 ∨ sh / 2 ^ 8 % 2 ^ 8 = 0 ∨ 192 < sh / 2 ^ 8 % 2 ^ 8

/-- The check that ACVT makes of its shape. -/
theorem acvtCheck_iff {sh : Nat} : (sh / 2 ^ 16 != 0 || sh % 2 ^ 8 == 0 || decide (128 < sh % 2 ^ 8) || sh / 2 ^ 8 % 2 ^ 8 == 0
    || decide (192 < sh / 2 ^ 8 % 2 ^ 8)) = true ↔ AcvtRefuses sh := by
  simp [AcvtRefuses, or_assoc]

theorem acvt_traps (ht : Taken [o.s] [] s [x] s1) (hx : AcvtRefuses x.toNat) : Traps (.acvt o) s s1 0x01 0 :=
  (exec_acvt o s).trans (instr_seq_trap (runs_pure () s) ht (raises_bind (raises_faultIf_of (acvtCheck_iff.mpr hx) ..)))

theorem Group.noteNan_flags (g : Group) (c : CoreId) (pc : Word) (f : Flags) (n : NanSite) : (g.noteNan c pc f n).flags = g.flags := by
  unfold Group.noteNan
  split <;> rfl

include h1 in
/-- A shape that is accepted: all rows are read, then written, and then the flags and the first NaN are reported. -/
theorem acvt_retires (ht : Taken [o.s] [] s [x] s1) (hx : ¬ AcvtRefuses x.toNat) {m n r2 : Nat} {src : ElemTy}
    {rs : List (List (Nat × Flags))} (hm : m = x.toNat % 2 ^ 8) (hn : n = x.toNat / 2 ^ 8 % 2 ^ 8)
    (hr2 : r2 = (n * o.ty.laneBits + 2047) / 2048) (hsrc : src = if o.i32acc then .i32 else .f32)
    (hf : RowsFit g1 [(o.e.val, m * tileStride n), (o.d.val, m * r2)])
    (hq : RowsQuiet s1 g1 [(o.e.val, m * tileStride n), (o.d.val, m * r2)])
    (hrs : rs = (List.range m).map fun i => (s1.lanes g1 (o.e.val + i * tileStride n) n src).map (convertElem src o.ty o.rm))
    (hw : Runs (((List.range m).zip rs).forM fun p => writeElems (o.d.val + p.1 * r2) 0 o.ty (p.2.map Prod.fst)) s1 () s2)
    (hcur : s2.cur = s1.cur) : ∃ f : Group → Group, Retires2 (.acvt o) s (s2.onGroup s2.cur.core s2.cur.slot f)
      ∧ ∀ y, (f y).flags = y.flags ||| allFlags rs.flatten := by
  have hreads : Runs ((List.range m).mapM fun i => readElems (o.e.val + i * tileStride n) n src) s1
      ((List.range m).map fun i => s1.lanes g1 (o.e.val + i * tileStride n) n src) s1 :=
    runs_mapM_reading fun i _ => runs_readElems h1 ..
  obtain rfl : ((List.range m).map fun i => s1.lanes g1 (o.e.val + i * tileStride n) n src).map
      (fun row => row.map (convertElem src o.ty o.rm)) = rs := by
    rw [hrs, List.map_map]
    rfl
  subst hm hn hr2 hsrc
  rw [hcur]
  refine ⟨_, (exec_acvt o s).trans (instr_seq (runs_pure () s) ht
    (runs_bind (runs_faultIf_of (Bool.eq_false_iff.mpr (mt acvtCheck_iff.mp hx)) ..) (runs_bind (runs_needRows h1 hf)
    (runs_bind (runs_rowsReady h1 hq) (runs_bind (runs_me h1) (runs_bind hreads (runs_bind hw (runs_modify _ s2)))))))), fun y => ?_⟩
  dsimp only
  split
  · rfl
  · exact Group.noteNan_flags ..

end

/-- Settles O28: each instruction's checks in their order, then what it writes. -/
theorem tileRegisterInstructions : Obligations.TileRegisterInstructions := by
  unfold Obligations.TileRegisterInstructions
  intro s s1 s2 g g1 k k1 o x h h1
  refine ⟨fun ht w b hshape hboard hna hr => ?_, fun ht hde he hq => ?_, fun ht => ?_⟩
  · exact bld_retires h1 ht hshape hboard hna hr
  · exact zacc_retires h1 h ht hde he hq
  · intro m n
    refine ⟨fun hx => acvt_traps ht hx, fun hx hm0 hm1 hn0 hn1 r2 src rs hr2 hsrc hf hq hrs hw hcur => ?_⟩
    have haccept : ¬ AcvtRefuses x.toNat := by
      unfold AcvtRefuses
      omega
    exact acvt_retires h1 ht haccept rfl rfl hr2 hsrc hf hq hrs hw hcur

end Sys2Proof.Machine
end

section
/-! PROOFS. The node table of a group: its entries, its references, the node that an append enters (R174 to R176). -/

namespace Sys2Proof.Machine

open Sys2Proof

/-! ### Entries of a sparse map -/

section
variable {α : Type} {m : SMap α} {k : Nat}

theorem SMap.mem_of_get {v : α} (h : SMap.get m k = some v) : (k, v) ∈ m := by
  induction m with
  | nil => cases h
  | cons p m ih =>
    obtain ⟨a, x⟩ := p
    simp only [SMap.get] at h
    split at h
    · next ha =>
      subst ha
      cases h
      exact List.mem_cons_self ..
    · exact List.mem_cons_of_mem _ (ih h)

/-- Values replaced under their keys. -/
theorem SMap.get_map_values (m : SMap α) (f : Nat × α → α) (k : Nat) :
    SMap.get (m.map fun p => (p.1, f p)) k = (SMap.get m k).map fun v => f (k, v) := by
  induction m with
  | nil => rfl
  | cons p m ih =>
    obtain ⟨a, x⟩ := p
    simp only [List.map_cons, SMap.get]
    split
    · next ha => rw [ha]; rfl
    · exact ih

theorem SMap.length_set_le (m : SMap α) (k : Nat) (v : α) : (SMap.set m k v).length ≤ m.length + 1 := by
  induction m with
  | nil => exact le_rfl
  | cons p m ih =>
    obtain ⟨a, x⟩ := p
    simp only [SMap.set]
    split
    · exact le_rfl
    · split
      · exact Nat.le_succ _
      · exact Nat.succ_le_succ ih

theorem SMap.length_del {p : Nat × α} (h : p ∈ m) : (SMap.del m p.1).length + 1 = m.length := by
  induction m with
  | nil => cases h
  | cons q m ih =>
    obtain ⟨a, x⟩ := q
    simp only [SMap.del]
    split
    · rfl
    · next ha =>
      rcases List.mem_cons.mp h with rfl | h
      · exact absurd rfl ha
      · exact congrArg (· + 1) (ih h)

end

/-- What a fold keeps of two items at each step is an item of the list. -/
theorem foldl_pick_mem {α : Type} (c : α → α → Prop) [∀ a b, Decidable (c a b)] (p : α) (r : List α) :
    r.foldl (fun a b => if c a b then b else a) p ∈ p :: r := by
  induction r generalizing p with
  | nil => exact List.mem_singleton_self p
  | cons q r ih =>
    rw [List.foldl_cons]
    rcases List.mem_cons.mp (ih (if c p q then q else p)) with h | h
    · rw [h]
      split
      · exact List.mem_cons_of_mem _ (List.mem_cons_self ..)
      · exact List.mem_cons_self ..
    · exact List.mem_cons_of_mem _ (List.mem_cons_of_mem _ h)

/-! ### References and what is freed (R176) -/

theorem Tile.referenced_eq_false {t : Tile} {m : Nat} : t.referenced m = false ↔
    (∀ r : HReg, t.handles.get r ≠ some m) ∧ ∀ p ∈ t.nodes, p.2.srcs.contains (.node m) = false := by
  have hnamed : t.handles.toList.contains (some m) = false ↔ ∀ r : HReg, t.handles.get r ≠ some m := by
    simp [Vector.mem_iff_getElem, Vector.get_eq_getElem, Fin.forall_iff]
  rw [Tile.referenced, Bool.or_eq_false_iff, hnamed, List.any_eq_false]
  simp only [Bool.not_eq_true]

theorem Tile.referenced_of_handle {t : Tile} {r : HReg} {m : Nat} (h : t.handles.get r = some m) : t.referenced m = true := by
  by_contra hr
  exact (Tile.referenced_eq_false.mp (Bool.not_eq_true _ ▸ hr)).1 r h

/-- A round of freeing: nothing is unreferenced and all stays, or an unreferenced node goes. -/
theorem Tile.freeDead_succ (f : Nat) (t : Tile) :
    (∀ p ∈ t.nodes, t.referenced p.1 = true) ∧ Tile.freeDead (f + 1) t = t
    ∨ ∃ p ∈ t.nodes, t.referenced p.1 = false ∧ Tile.freeDead (f + 1) t = Tile.freeDead f { t with nodes := SMap.del t.nodes p.1 } := by
  rw [Tile.freeDead]
  split
  case h_1 hnone =>
    refine .inl ⟨fun p hp => ?_, rfl⟩
    simpa using List.filter_eq_nil_iff.mp hnone p hp
  case h_2 p r hdead =>
    have hmem : r.foldl (fun a b => if b.2.age < a.2.age then b else a) p ∈ t.nodes.filter fun p => !t.referenced p.1 := by
      rw [hdead]
      exact foldl_pick_mem (fun a b : Nat × Node => b.2.age < a.2.age) p r
    obtain ⟨hin, hfree⟩ := List.mem_filter.mp hmem
    exact .inr ⟨_, hin, by simpa using hfree, rfl⟩

/-- Freeing takes nodes away, and nothing else. -/
theorem Tile.freeDead_frame (f : Nat) (t : Tile) : ∃ ns, Tile.freeDead f t = { t with nodes := ns } := by
  induction f generalizing t with
  | zero => exact ⟨_, rfl⟩
  | succ f ih =>
    rcases t.freeDead_succ f with ⟨-, h⟩ | ⟨p, -, -, h⟩
    · exact ⟨_, h⟩
    · rw [h]
      exact ih _

/-- A node that a handle names stays. -/
theorem Tile.get_freeDead_of_handle (f : Nat) {t : Tile} {r : HReg} {m : Nat} (h : t.handles.get r = some m) :
    SMap.get (Tile.freeDead f t).nodes m = SMap.get t.nodes m := by
  induction f generalizing t with
  | zero => rfl
  | succ f ih =>
    rcases t.freeDead_succ f with ⟨-, he⟩ | ⟨p, -, hp, he⟩
    · rw [he]
    · have hne : m ≠ p.1 := fun hm => by
        rw [← hm, Tile.referenced_of_handle h] at hp
        cases hp
      rw [he, ih (t := { t with nodes := SMap.del t.nodes p.1 }) h]
      exact SMap.get_del_other _ hne

/-- A node that nothing refers to goes, where there are rounds enough for all nodes. -/
theorem Tile.get_freeDead_of_dead {f : Nat} {t : Tile} {m : Nat} (hlen : t.nodes.length ≤ f) (h : t.referenced m = false) :
    SMap.get (Tile.freeDead f t).nodes m = none := by
  induction f generalizing t with
  | zero =>
    rw [Tile.freeDead, List.length_eq_zero_iff.mp (Nat.le_zero.mp hlen)]
    rfl
  | succ f ih =>
    rcases t.freeDead_succ f with ⟨hall, he⟩ | ⟨p, hmem, -, he⟩
    · rw [he]
      refine Option.eq_none_iff_forall_not_mem.mpr fun d hd => ?_
      rw [hall _ (SMap.mem_of_get hd)] at h
      cases h
    · have hless := SMap.length_del hmem
      obtain ⟨hh, hs⟩ := Tile.referenced_eq_false.mp h
      rw [he]
      refine ih (t := { t with nodes := SMap.del t.nodes p.1 }) ?_ ?_
      · dsimp only
        omega
      · exact Tile.referenced_eq_false.mpr ⟨hh, fun q hq => hs q (mem_of_del hq)⟩

/-! ### Writing a handle register (R175, R176, R187) -/

/-- The end of a handle's pins touches the boxes of nodes only. -/
theorem Tile.get_unpin (t : Tile) (h : HReg) (m : Nat) :
    ∃ f : Node → Node, SMap.get (t.unpin h).nodes m = (SMap.get t.nodes m).map f ∧ ∀ d, d.boxes = [] → f d = d := by
  refine ⟨_, SMap.get_map_values t.nodes _ m, fun d hd => ?_⟩
  obtain ⟨⟩ := d
  subst hd
  rfl

theorem Tile.srcs_of_mem_unpin {t : Tile} {h : HReg} {p : Nat × Node} (hp : p ∈ (t.unpin h).nodes) :
    ∃ q ∈ t.nodes, p.2.srcs = q.2.srcs := by
  obtain ⟨q, hq, rfl⟩ := List.mem_map.mp hp
  exact ⟨q, hq, rfl⟩

theorem Tile.length_unpin (t : Tile) (h : HReg) : (t.unpin h).nodes.length = t.nodes.length := List.length_map _

/-- What a write of a handle register leaves beside the nodes. -/
theorem Tile.setHandle_frame (t : Tile) (h : HReg) (n : Option Nat) :
    ∃ ns, t.setHandle h n = { t with nodes := ns, handles := vset t.handles h n } :=
  Tile.freeDead_frame 513 { t.unpin h with handles := vset t.handles h n }

theorem Tile.get_setHandle_of_handle {t : Tile} {h r : HReg} {n : Option Nat} {m : Nat} (hr : (vset t.handles h n).get r = some m) :
    SMap.get (t.setHandle h n).nodes m = SMap.get (t.unpin h).nodes m :=
  Tile.get_freeDead_of_handle 513 (t := { t.unpin h with handles := vset t.handles h n }) hr

theorem Tile.get_setHandle_of_dead {t : Tile} {h : HReg} {n : Option Nat} {m : Nat} (hlen : t.nodes.length ≤ 513)
    (hh : ∀ r : HReg, (vset t.handles h n).get r ≠ some m) (hs : ∀ p ∈ t.nodes, p.2.srcs.contains (.node m) = false) :
    SMap.get (t.setHandle h n).nodes m = none := by
  refine Tile.get_freeDead_of_dead (t := { t.unpin h with handles := vset t.handles h n }) ((t.length_unpin h).trans_le hlen)
    (Tile.referenced_eq_false.mpr ⟨hh, fun p hp => ?_⟩)
  obtain ⟨q, hq, hpq⟩ := Tile.srcs_of_mem_unpin hp
  rw [hpq]
  exact hs q hq

/-! ### Entering a node (R174, R200) -/

/-- The table with a node entered under a number, with the next age. -/
def Tile.entered (t : Tile) (n : Nat) (d : Node) : Tile :=
  { t with nodes := SMap.set t.nodes n { d with age := t.appends }, appends := t.appends + 1 }

theorem Tile.renumber_of_room {t : Tile} (h : t.appends < 2 ^ 32 - 1) : t.renumber = t := if_pos h

section
variable {t : Tile} {n m : Nat} {hd : HReg} {d : Node}

/-- What entering a node and naming it leaves beside the nodes. -/
theorem Tile.enter_frame : ∃ ns, (t.entered n d).setHandle hd (some n)
    = { t with nodes := ns, handles := vset t.handles hd (some n), appends := t.appends + 1 } := by
  obtain ⟨ns, h⟩ := (t.entered n d).setHandle_frame hd (some n)
  exact ⟨ns, h⟩

/-- The node entered keeps its record: its handle names it, and it has no box that a pin could end. -/
theorem Tile.get_enter_same (hb : d.boxes = []) :
    SMap.get ((t.entered n d).setHandle hd (some n)).nodes n = some { d with age := t.appends } := by
  obtain ⟨f, hf, hsame⟩ := (t.entered n d).get_unpin hd n
  rw [Tile.get_setHandle_of_handle (vget_vset_same ..), hf]
  have hget : SMap.get (t.entered n d).nodes n = some { d with age := t.appends } := SMap.get_set_same ..
  rw [hget]
  exact congrArg some (hsame _ hb)

/-- A node that another handle names stays. -/
theorem Tile.get_enter_named (hm : m ≠ n) (hl : SMap.get t.nodes m ≠ none) {r : HReg} (hr : r ≠ hd) (hh : t.handles.get r = some m) :
    SMap.get ((t.entered n d).setHandle hd (some n)).nodes m ≠ none := by
  have hname : (vset (t.entered n d).handles hd (some n)).get r = some m := (vget_vset_other _ _ hr).trans hh
  obtain ⟨f, hf, -⟩ := (t.entered n d).get_unpin hd m
  have hget : SMap.get (t.entered n d).nodes m = SMap.get t.nodes m := SMap.get_set_other _ _ hm
  rw [Tile.get_setHandle_of_handle hname, hf, hget]
  exact mt Option.map_eq_none_iff.mp hl

/-- The node that the handle named before goes where nothing else refers to it. -/
theorem Tile.get_enter_released (hm : m ≠ n) (hlen : t.nodes.length ≤ 512) (hh : ∀ r, r ≠ hd → t.handles.get r ≠ some m)
    (hs : ∀ p ∈ t.nodes, p.2.srcs.contains (.node m) = false) (hd' : d.srcs.contains (.node m) = false) :
    SMap.get ((t.entered n d).setHandle hd (some n)).nodes m = none := by
  refine Tile.get_setHandle_of_dead ((SMap.length_set_le ..).trans (Nat.succ_le_succ hlen)) (fun r => ?_) fun p hp => ?_
  · by_cases hr : r = hd
    · rw [hr]
      exact fun h => hm (Option.some.inj ((vget_vset_same ..).symm.trans h)).symm
    · exact fun h => hh r hr ((vget_vset_other _ _ hr).symm.trans h)
  · rcases mem_set hp with rfl | hp
    · exact hd'
    · exact hs p hp

end

end Sys2Proof.Machine
end

section
/-! PROOFS. The appending instructions (R174 to R176, R199, R200, O29). -/

namespace Sys2Proof.Machine

open Sys2Proof

/-! ### The home of a demand, nodes and sources -/

/-- The group whose role acts, as the home of a demand. -/
def State.home (s : State) : Home := { core := s.cur.core, slot := s.cur.slot }

theorem runs_homeGroup {h : Home} {s : State} {g : Group} (hg : s.group h.core h.slot = some g) : Runs (homeGroup h) s g s := by
  refine runs_bind (runs_get s) ?_
  rw [hg]
  rfl

theorem runs_liveNode {h : Home} {s : State} {g : Group} {n : Nat} {d : Node} (hg : s.group h.core h.slot = some g)
    (hn : SMap.get g.tile.nodes n = some d) : Runs (liveNode h n) s d s := by
  refine runs_bind (runs_homeGroup hg) ?_
  rw [hn]
  rfl

theorem Group.handle_node_of_named {g : Group} {hd : HReg} {n : Nat} {d : Node} (h : g.named hd = some (n, d)) :
    g.tile.handles.get hd = some n ∧ SMap.get g.tile.nodes n = some d := by
  obtain ⟨m, hm, h⟩ := Option.bind_eq_some_iff.mp h
  obtain ⟨e, he, h⟩ := Option.map_eq_some_iff.mp h
  cases h
  exact ⟨hm, he⟩

theorem Group.source_of_named {g : Group} {x : TSrc} {hd : HReg} {n : Nat} {d : Node} (hx : x = .handle hd)
    (h : g.named hd = some (n, d)) : g.source x = some (.node n) := by
  rw [hx, Group.source, (Group.handle_node_of_named h).1]
  rfl

theorem Group.source_gen {g : Group} {x : TSrc} {r : GReg} (hx : x = .gen r) : g.source x = some (.gen (g.gens.get r)) := by
  rw [hx]
  rfl

theorem rmOk_of {t : ElemTy} {rm : RM} (h : t.isInt = true → rm = .rne) : rmOk t rm = true := by
  cases ht : t.isInt with
  | false => simp [rmOk, ht]
  | true => simp [rmOk, h ht]

section
variable {s : State} {g : Group} {k : Role} (h : Acts s g k)
include h

theorem runs_myHome : Runs myHome s s.home s := runs_bind (runs_me h) (runs_pure _ s)

theorem runs_tileSrc {x : TSrc} {y : NodeSrc} (hx : g.source x = some y) : Runs (tileSrc x) s y s := by
  refine runs_bind (runs_me h) ?_
  cases x with
  | gen r => cases hx; rfl
  | handle hd =>
    obtain ⟨n, hn, rfl⟩ := Option.map_eq_some_iff.mp hx
    have hv : vget g.tile.handles hd = some n := hn
    simp only [hv]
    exact runs_pure _ s

theorem raises_tileSrc {x : TSrc} {hd : HReg} (hx : x = .handle hd) (hn : g.tile.handles.get hd = none) :
    Raises (tileSrc x) s { code := 0x01, va := 0 } none := by
  subst hx
  refine raises_bind_right (runs_me h) ?_
  have hv : vget g.tile.handles hd = none := hn
  simp only [hv]
  exact raises_fault ..

theorem runs_nodeTy {hd : HReg} {n : Nat} {d : Node} (hn : g.named hd = some (n, d)) : Runs (nodeTy (.node n)) s d.ty s :=
  runs_bind (runs_myHome h) (runs_bind (runs_liveNode (h := s.home) h.1 (Group.handle_node_of_named hn).2) (runs_pure _ s))

end

/-! ### The frame of an appending instruction -/

section
variable {i : Instr} {o : TOp} {s s1 s2 : State} {vs : List Word}

theorem appending_retires {body : List Word → X Unit} (hi : exec i s = appending o body s)
    (ht : Taken (if o.s = 0 then [] else [o.s]) [] s vs s1) (hb : Runs (body vs) s1 () s2) : Retires2 i s s2 :=
  hi.trans (instr_seq (runs_pure () s) ht hb)

/-- The first thing that an appending instruction looks at is its source x. -/
theorem appending_traps {g : Group} {k : Role} {rest : List Word → NodeSrc → X Unit}
    (hi : exec i s = appending o (fun vs => tileSrc o.x >>= rest vs) s)
    (ht : Taken (if o.s = 0 then [] else [o.s]) [] s vs s1) (h : Acts s1 g k) {hd : HReg} (hx : o.x = .handle hd)
    (hn : g.tile.handles.get hd = none) : Traps i s s1 0x01 0 :=
  hi.trans (instr_seq_trap (runs_pure () s) ht (raises_bind (raises_tileSrc h hx hn)))

/-- Which default spec is given matters only in the state that the checks of the sources leave (R200 step 4). -/
theorem runs_appendNode_of_default {op fn : Nat} {ty : ElemTy} {rm : RM} {srcs : List NodeSrc} {gather : Bool} {dflt dflt' : X Spec}
    {more : Spec → X Unit} (hs : Runs (srcs.forM genSource) s () s) (hd : dflt' s = dflt s)
    (h : Runs (appendNode o op fn ty rm srcs gather vs dflt more) s () s1) :
    Runs (appendNode o op fn ty rm srcs gather vs dflt' more) s () s1 := by
  have hspec : specOf o.s vs dflt' s = specOf o.s vs dflt s := by
    unfold specOf
    split
    · exact hd
    · rfl
  obtain ⟨_, t, hs', hrest⟩ := runs_bind_inv h
  obtain ⟨-, rfl⟩ := runs_det hs' hs
  obtain ⟨sp, u, hsp, hmore⟩ := runs_bind_inv hrest
  exact runs_bind hs (runs_bind (hspec.trans hsp) hmore)

end

/-! ### The sources y and z of TEW (R183, R199) -/

/-- An elementwise operation takes no source from a field, or the node that the field's handle names, through the identity map, where its
type is not one that the operation refuses. -/
def TewOperand (g : Group) (used : Bool) (x : TSrc) (bad : ElemTy → Bool) (y : NodeSrc) (m : BitVec 512) : Prop :=
  used = false ∧ y = .none ∧ m = 0
  ∨ used = true ∧ m = idMap ∧ ∃ hx n d, x = .handle hx ∧ g.named hx = some (n, d) ∧ y = .node n ∧ bad d.ty = false

theorem tewRefuses_eq_false {fn : Nat} {t u : ElemTy} (h : if fn = 9 then t.isI = true else t = u) :
    (if fn = 9 then !t.isI else t != u) = false := by
  split at h
  · next hf => simp [hf, h]
  · next hf => simp [hf, h]

namespace TewOperand

variable {g : Group} {used : Bool} {x : TSrc} {bad : ElemTy → Bool} {y : NodeSrc} {m : BitVec 512}

theorem map_eq (hy : TewOperand g used x bad y m) : m = if used then idMap else 0 := by
  rcases hy with ⟨rfl, -, hm⟩ | ⟨rfl, hm, -⟩ <;> exact hm

theorem runs_source (hy : TewOperand g used x bad y m) {s : State} {k : Role} (h : Acts s g k) :
    Runs (if used then tileSrc x else pure .none) s y s := by
  rcases hy with ⟨rfl, rfl, -⟩ | ⟨rfl, -, hx, n, d, hox, hn, rfl, -⟩
  · exact runs_pure _ s
  · exact runs_tileSrc h (Group.source_of_named hox hn)

theorem runs_check (hy : TewOperand g used x bad y m) {s : State} {k : Role} (h : Acts s g k) :
    Runs (if used then do
      let t ← nodeTy y
      faultIf (bad t) 0x01 0
    else pure ()) s () s := by
  rcases hy with ⟨rfl, -⟩ | ⟨rfl, -, hx, n, d, -, hn, rfl, hbad⟩
  · exact runs_pure _ s
  · exact runs_bind (runs_nodeTy h hn) (runs_faultIf_of hbad ..)

end TewOperand

/-! ### Each instruction (R183, R184, R199) -/

section
variable {o : TOp} {s s1 s2 : State} {g : Group} {k : Role} {vs : List Word}
  (ht : Taken (if o.s = 0 then [] else [o.s]) [] s vs s1) (h : Acts s1 g k)
include ht h

theorem tload_retires {r : GReg} (hx : o.x = .gen r) (hc : copyFmt (Walk4.ofBits (g.gens.get r)).code = true) (hrm : rmOk o.ty o.rm = true)
    (ha : Runs (appendNode o 0 0 o.ty o.rm [.gen (g.gens.get r), .none, .none] false vs (sameSpec (.gen (g.gens.get r)) [idMap, 0, 0])
      fun _ => pure ()) s1 () s2) : Retires2 (.tload o) s s2 :=
  appending_retires (exec_tload o s) ht (runs_bind (runs_tileSrc h (Group.source_gen hx))
    (runs_bind (runs_faultIf_of (by rw [hrm]; rfl) ..) (runs_bind (runs_faultIf_of (by rw [hc]; rfl) ..) ha)))

theorem tmul_retires {x y : NodeSrc} {fx fy : MemFmt} (hx : g.source o.x = some x) (hy : g.source o.y = some y)
    (hmx : Runs (matSource x) s1 true s1) (hmy : Runs (matSource y) s1 true s1) (hfx : Runs (srcFmt s1.home x) s1 fx s1)
    (hfy : Runs (srcFmt s1.home y) s1 fy s1) (hrm : rmOk o.ty o.rm = true)
    (hty : o.ty = .f32 ∨ o.ty = .bf16 ∨ o.ty = .f16 ∨ o.ty = .i32 ∧ intInput fx = true ∧ intInput fy = true)
    (ha : Runs (appendNode o 1 0 o.ty o.rm [x, y, .none] false vs
      (do
        let sx ← srcExtents s1.home x
        let sy ← srcExtents s1.home y
        pure ⟨[co sy 1, co sx 1, co sx 0, co sx 3], [aMap, bMap, 0], 0⟩)
      (fun sp => do matRules sp x 0; matRules sp y 1)) s1 () s2) : Retires2 (.tmul o) s s2 := by
  have htyOk : (o.ty == .f32 || o.ty == .bf16 || o.ty == .f16 || (o.ty == .i32 && intInput fx && intInput fy)) = true := by
    simpa [or_assoc, and_assoc] using hty
  exact appending_retires (exec_tmul o s) ht (runs_bind (runs_tileSrc h hx) (runs_bind (runs_tileSrc h hy) (runs_bind (runs_myHome h)
    (runs_bind hmx (runs_bind hmy (runs_bind hfx (runs_bind hfy (runs_bind
      (runs_faultIf_of (by rw [htyOk, hrm]; rfl) ..) ha))))))))

/-- TEW, with the sources that its operation takes (R183). -/
theorem tew_retires {hx : HReg} {n : Nat} {d : Node} {y z : NodeSrc} {ym zm : BitVec 512} (hox : o.x = .handle hx)
    (hn : g.named hx = some (n, d)) (hd : d.ty = o.ty) (hty : tewTyOk o.fn.toNat o.ty = true) (hrm : rmOk o.ty o.rm = true)
    (hy : TewOperand g (tewBinary o.fn.toNat) o.y (fun t => if o.fn.toNat = 9 then !t.isI else t != o.ty) y ym)
    (hz : TewOperand g (tewTernary o.fn.toNat) o.z (fun t => t != o.ty) z zm)
    (ha : Runs (appendNode o 2 o.fn.toNat o.ty o.rm [.node n, y, z] false vs (sameSpec (.node n) [idMap, ym, zm]) fun _ => pure ())
      s1 () s2) : Retires2 (.tew o) s s2 := by
  rw [hy.map_eq, hz.map_eq] at ha
  exact appending_retires (exec_tew o s) ht (runs_bind (runs_tileSrc h (Group.source_of_named hox hn)) (runs_bind (hy.runs_source h)
    (runs_bind (hz.runs_source h) (runs_bind (runs_nodeTy h hn) (runs_bind (runs_faultIf_of (by simp [hd, hty, hrm]) ..)
    (runs_bind (hy.runs_check h) (runs_bind (hz.runs_check h) ha)))))))

theorem tred_retires {hx : HReg} {n : Nat} {d : Node} (hox : o.x = .handle hx) (hn : g.named hx = some (n, d)) (hd : d.ty = o.ty)
    (hty : o.ty.isFIU = true) (hrm : o.rm ≠ .rne → o.fn.toNat = 0x1F ∧ o.ty.isF = true)
    (ha : Runs (appendNode o 3 o.fn.toNat o.ty o.rm [.node n, .none, .none] false vs
      (do
        let sx ← srcExtents s1.home (.node n)
        pure ⟨[1, co sx 1, co sx 0, co sx 3], [aMap, 0, 0], 0⟩) fun _ => pure ()) s1 () s2) : Retires2 (.tred o) s s2 := by
  have hok : (d.ty != o.ty || !o.ty.isFIU || (o.rm != .rne && !(o.fn.toNat == 0x1F && o.ty.isF))) = false := by
    by_cases hr : o.rm = .rne
    · simp [hd, hty, hr]
    · obtain ⟨hf, hF⟩ := hrm hr
      simp [hd, hty, hf, hF]
  refine appending_retires (exec_tred o s) ht (runs_bind (runs_tileSrc h (Group.source_of_named hox hn)) (runs_bind (runs_nodeTy h hn)
    (runs_bind (runs_faultIf_of hok ..) (runs_appendNode_of_default (runs_pure () s1) ?_ ha))))
  exact (bind_apply ..).trans (by rw [show myHome s1 = _ from runs_myHome h])

theorem tcvt_retires {hx : HReg} {n : Nat} {d : Node} (hox : o.x = .handle hx) (hn : g.named hx = some (n, d)) (hrm : rmOk o.ty o.rm = true)
    (ha : Runs (appendNode o 4 0 o.ty o.rm [.node n, .none, .none] false vs (sameSpec (.node n) [idMap, 0, 0]) fun _ => pure ()) s1 () s2) :
    Retires2 (.tcvt o) s s2 :=
  appending_retires (exec_tcvt o s) ht (runs_bind (runs_tileSrc h (Group.source_of_named hox hn))
    (runs_bind (runs_faultIf_of (by rw [hrm]; rfl) ..) ha))

theorem tview_retires {hx : HReg} {n : Nat} {d : Node} (hox : o.x = .handle hx) (hn : g.named hx = some (n, d))
    (ha : Runs (appendNode o 0 0 d.ty .rne [.node n, .none, .none] false vs (sameSpec (.node n) [idMap, 0, 0]) fun _ => pure ()) s1 () s2) :
    Retires2 (.tview o) s s2 :=
  appending_retires (exec_tview o s) ht (runs_bind (runs_tileSrc h (Group.source_of_named hox hn)) (runs_bind (runs_nodeTy h hn) ha))

theorem tsel_retires {hx hy hz : HReg} {n m p : Nat} {d e f : Node} (hox : o.x = .handle hx) (hn : g.named hx = some (n, d))
    (hoy : o.y = .handle hy) (hm : g.named hy = some (m, e)) (hoz : o.z = .handle hz) (hp : g.named hz = some (p, f))
    (hd : d.ty = o.ty) (he : e.ty = o.ty)
    (ha : Runs (appendNode o 5 0 o.ty .rne [.node n, .node m, .node p] false vs (sameSpec (.node n) [idMap, idMap, idMap])
      fun _ => pure ()) s1 () s2) : Retires2 (.tsel o) s s2 :=
  appending_retires (exec_tsel o s) ht (runs_bind (runs_tileSrc h (Group.source_of_named hox hn))
    (runs_bind (runs_tileSrc h (Group.source_of_named hoy hm)) (runs_bind (runs_tileSrc h (Group.source_of_named hoz hp))
    (runs_bind (runs_nodeTy h hn) (runs_bind (runs_nodeTy h hm) (runs_bind (runs_faultIf_of (by simp [hd, he]) ..) ha))))))

theorem tgath_retires_node {hx : HReg} {n : Nat} {d : Node} {y : NodeSrc} (hox : o.x = .handle hx) (hn : g.named hx = some (n, d))
    (hy : g.source o.y = some y) (hiy : Runs (indexSource y) s1 true s1) (hd : d.ty = o.ty) (hrm : rmOk o.ty o.rm = true)
    (ha : Runs (appendNode o 0 0 o.ty o.rm [.node n, y, .none] true vs (fault 0x01 0) fun _ => pure ()) s1 () s2) :
    Retires2 (.tgath o) s s2 :=
  appending_retires (exec_tgath o s) ht (runs_bind (runs_tileSrc h (Group.source_of_named hox hn)) (runs_bind (runs_tileSrc h hy)
    (runs_bind hiy (runs_bind (runs_bind (runs_nodeTy h hn) (runs_pure _ s1)) (runs_bind (runs_faultIf_of (by simp [hd, hrm]) ..) ha)))))

theorem tgath_retires_gen {r : GReg} {y : NodeSrc} (hox : o.x = .gen r) (hy : g.source o.y = some y) (hiy : Runs (indexSource y) s1 true s1)
    (hc : copyFmt (Walk4.ofBits (g.gens.get r)).code = true) (hrm : rmOk o.ty o.rm = true)
    (ha : Runs (appendNode o 0 0 o.ty o.rm [.gen (g.gens.get r), y, .none] true vs (fault 0x01 0) fun _ => pure ()) s1 () s2) :
    Retires2 (.tgath o) s s2 :=
  appending_retires (exec_tgath o s) ht (runs_bind (runs_tileSrc h (Group.source_gen hox)) (runs_bind (runs_tileSrc h hy)
    (runs_bind hiy (runs_bind (runs_pure _ s1) (runs_bind (runs_faultIf_of (by simp [hc, hrm]) ..) ha)))))

end

/-! ### The free node, and its entry (R174, R190) -/

section
variable {s : State} {g : Group} {h : Home} (hg : s.group h.core h.slot = some g)
include hg

theorem runs_freeNode {n : Nat} (hn : n < 32 * g.nodeBlocks.length) (hfree : SMap.get g.tile.nodes n = none)
    (hlow : ∀ j < n, SMap.get g.tile.nodes j ≠ none) (f : Nat) : Runs (freeNode h (f + 1)) s n s := by
  have hfind : g.freeNode = some n := List.find?_range_eq_some.mpr
    ⟨by rw [hfree]; rfl, List.mem_range.mpr hn, fun j hj => by simpa using Option.isSome_iff_ne_none.mpr (hlow j hj)⟩
  refine runs_bind (runs_homeGroup hg) ?_
  rw [hfind]
  exact runs_pure n s

/-- Entering a node changes the tile state of the group. -/
theorem runs_enterNode (n : Nat) (hd : HReg) (d : Node) (hr : g.tile.appends < 2 ^ 32 - 1) :
    Runs (enterNode h n hd d) s ()
      (s.setGroup h.core h.slot (some { g with tile := (g.tile.entered n d).setHandle hd (some n) })) := by
  have henter : Runs (enterNode h n hd d) s () (s.onGroup h.core h.slot fun x =>
      { x with tile := (x.tile.renumber.entered n d).setHandle hd (some n) }) := runs_modify _ s
  rw [State.onGroup_of_group hg, Tile.renumber_of_room hr] at henter
  exact henter

end

/-- Settles O29: each instruction's checks in their order, and what entering a node leaves of the table. -/
theorem tileAppends : Obligations.TileAppends := by
  unfold Obligations.TileAppends
  refine ⟨fun o s s1 s2 g k vs ht h => ?_, fun s g k hd n d h hfree hbox hroom => ⟨fun hn hlow => ?_, ?_⟩⟩
  · intro home rmOk Adds plain
    refine ⟨?_, ?_, fun hx n d hox hn => ?_, ?_, ?_⟩
    · rintro r _ hox rfl hc hrm ha
      exact tload_retires ht h hox hc (rmOk_of hrm) ha
    · intro x y fx fy hx hy hmx hmy hfx hfy hrm hty ha
      exact tmul_retires ht h hx hy hmx hmy hfx hfy (rmOk_of hrm) hty ha
    · refine ⟨fun hd hty hrm => ⟨fun hb hT ha => ?_, fun hy m e hoy hm hb he => ?_⟩, fun hd hty hrm ha => ?_, fun hrm ha => ?_, fun ha => ?_,
        fun hy m e hz p f hoy hm hoz hp hd he ha => ?_, fun y hy hiy hd hrm ha => ?_⟩
      · exact tew_retires ht h hox hn hd hty (rmOk_of hrm) (.inl ⟨hb, rfl, rfl⟩) (.inl ⟨hT, rfl, rfl⟩) ha
      · have hyOk := tewRefuses_eq_false he
        refine ⟨fun hT ha => ?_, fun hz p f hoz hp hT hf ha => ?_⟩
        · exact tew_retires ht h hox hn hd hty (rmOk_of hrm) (.inr ⟨hb, rfl, hy, m, e, hoy, hm, rfl, hyOk⟩) (.inl ⟨hT, rfl, rfl⟩) ha
        · exact tew_retires ht h hox hn hd hty (rmOk_of hrm) (.inr ⟨hb, rfl, hy, m, e, hoy, hm, rfl, hyOk⟩)
            (.inr ⟨hT, rfl, hz, p, f, hoz, hp, rfl, by simp [hf]⟩) ha
      · exact tred_retires ht h hox hn hd hty hrm ha
      · exact tcvt_retires ht h hox hn (rmOk_of hrm) ha
      · exact tview_retires ht h hox hn ha
      · exact tsel_retires ht h hox hn hoy hm hoz hp hd he ha
      · exact tgath_retires_node ht h hox hn hy hiy hd (rmOk_of hrm) ha
    · rintro r y _ hox rfl hy hiy hc hrm ha
      exact tgath_retires_gen ht h hox hy hiy hc (rmOk_of hrm) ha
    · intro hx hox hn
      simp only [List.forall_mem_cons]
      exact ⟨appending_traps (exec_tmul o s) ht h hox hn, appending_traps (exec_tew o s) ht h hox hn,
        appending_traps (exec_tred o s) ht h hox hn, appending_traps (exec_tcvt o s) ht h hox hn,
        appending_traps (exec_tview o s) ht h hox hn, appending_traps (exec_tgath o s) ht h hox hn,
        appending_traps (exec_tsel o s) ht h hox hn, List.forall_mem_nil _⟩
  · exact runs_freeNode (h := s.home) h.1 hn hfree hlow 512
  · refine ⟨_, _, runs_enterNode (h := s.home) h.1 n hd d hroom, State.group_setGroup_same .., ?_⟩
    obtain ⟨ns, henter⟩ := Tile.enter_frame (t := g.tile) (n := n) (hd := hd) (d := d)
    refine ⟨by rw [henter]; rfl, Tile.get_enter_same hbox, by rw [henter], rfl, rfl, rfl, rfl, fun m hm hl => ?_, ?_⟩
    · rintro ⟨r, hr, hh⟩
      exact Tile.get_enter_named hm hl hr hh
    · intro m hm hlen _ hh hs hd'
      exact Tile.get_enter_released hm hlen hh hs hd'

end Sys2Proof.Machine
end

section
/-! PROOFS. What a demand gives, and what a node computes (R182 to R186). -/

namespace Sys2Proof.Machine

open Sys2Proof

/-! ### Bodies with a choice; reading the node table; late attribution (R194) -/

section
variable {α : Type} {c : Prop} [Decidable c] {x y : X α} {s t : State} {a : α}

theorem runs_ite_pos (hc : c) (h : Runs x s a t) : Runs (if c then x else y) s a t := by rwa [if_pos hc]

theorem runs_ite_neg (hc : ¬ c) (h : Runs y s a t) : Runs (if c then x else y) s a t := by rwa [if_neg hc]

end

theorem runs_homeGroup_inv {h : Home} {s t : State} {g : Group} (hr : Runs (homeGroup h) s g t) :
    s.group h.core h.slot = some g ∧ t = s := by
  obtain ⟨_, _, hs, hread⟩ := runs_bind_inv hr
  cases hs
  cases hg : s.group h.core h.slot with
  | none => rw [hg] at hread; cases hread
  | some g => rw [hg] at hread; cases hread; exact ⟨rfl, rfl⟩

theorem runs_liveNode_inv {h : Home} {s t : State} {n : Nat} {d : Node} (hr : Runs (liveNode h n) s d t) :
    t = s ∧ ∃ g, s.group h.core h.slot = some g := by
  obtain ⟨g, u, hg, hread⟩ := runs_bind_inv hr
  obtain ⟨hgroup, rfl⟩ := runs_homeGroup_inv hg
  split at hread
  · cases hread
  · cases hread
    exact ⟨rfl, g, hgroup⟩

theorem runs_homeWho {h : Home} {s : State} {g : Group} (hg : s.group h.core h.slot = some g) :
    Runs (homeWho h) s ⟨g.ctx, some h.core, some h.slot⟩ s :=
  runs_bind (runs_homeGroup hg) (runs_pure _ s)

theorem runs_late_iff {α : Type} {n : Nat} {d : Node} {i : Nat} {gath : Bool} {x : X α} {s t : State} {a : α} :
    Runs (late n d i gath x) s a t ↔ Runs x s a t := by
  unfold Runs late
  split
  · next h => simp [h]
  · rfl

/-! ### The box that a demand gives (R185, R186) -/

section
variable {h : Home} {n : Nat} {b : Span4} {used : List Nat} {x : Box} {s t : State}

theorem demand_gives (hr : Runs (demand h n b) s x t) : x.span = b ∧ ∃ d, Runs (liveNode h n) t d t ∧ x ∈ d.boxes := by
  obtain ⟨_, _, -, hmat⟩ := runs_bind_inv hr
  obtain ⟨_, _, -, hzero⟩ := runs_bind_inv hmat
  obtain ⟨_, _, -, hids⟩ := runs_bind_inv hzero
  obtain ⟨_, _, -, hend⟩ := runs_bind_inv hids
  obtain ⟨d, _, hlive, hbox⟩ := runs_bind_inv hend
  obtain ⟨rfl, -⟩ := runs_liveNode_inv hlive
  split at hbox
  · next y hfind =>
    cases hbox
    exact ⟨eq_of_beq (List.find?_some hfind :), d, hlive, List.mem_of_find?_eq_some hfind⟩
  · cases hbox

theorem newBox_span (hr : Runs (newBox h n b used) s x t) : x.span = b := by
  obtain ⟨_, _, -, hroom⟩ := runs_bind_inv hr
  obtain ⟨_, _, -, hlive⟩ := runs_bind_inv hroom
  obtain ⟨_, _, -, hplace⟩ := runs_bind_inv hlive
  obtain ⟨_, _, -, hgroup⟩ := runs_bind_inv hplace
  obtain ⟨_, _, -, hbox⟩ := runs_bind_inv hgroup
  cases hbox
  rfl

/-- A box that is computed: the elements of its points are made, and then written from its offset in the arena. -/
theorem computeBox_gives (hr : Runs (computeBox h n b used) s x t) :
    x.span = b ∧ ∃ (d : Node) (g : Group) (ms : List Made) (s1 s2 s3 : State),
      Runs ((List.range (volume b.ext)).mapM fun i => computeElem h n d (plus b.org (unflat b.ext i))) s1 ms s2
      ∧ s2.group h.core h.slot = some g
      ∧ Runs (writeRun ⟨g.ctx, some h.core, some h.slot⟩ (arenaPtr h g + x.off)
          (ms.flatMap fun m => leBytes d.ty.laneBytes m.bits)) s2 () s3 := by
  obtain ⟨_, _, -, hchecks⟩ := runs_bind_inv hr
  obtain ⟨_, _, -, hfits⟩ := runs_bind_inv hchecks
  obtain ⟨_, _, -, hnew⟩ := runs_bind_inv hfits
  obtain ⟨nb, _, hbox, hlive⟩ := runs_bind_inv hnew
  obtain ⟨d, _, -, hstage⟩ := runs_bind_inv hlive
  obtain ⟨_, s1, -, hmake⟩ := runs_bind_inv hstage
  obtain ⟨ms, s2, hmade, hhome⟩ := runs_bind_inv hmake
  obtain ⟨g, _, hg, hself⟩ := runs_bind_inv hhome
  obtain ⟨hgroup, rfl⟩ := runs_homeGroup_inv hg
  obtain ⟨_, _, hw, hstore⟩ := runs_bind_inv hself
  obtain ⟨rfl, rfl⟩ := runs_det hw (runs_homeWho hgroup)
  obtain ⟨_, s3, hwrite, hreport⟩ := runs_bind_inv hstore
  obtain ⟨_, _, -, hadd⟩ := runs_bind_inv hreport
  obtain ⟨_, _, -, hend⟩ := runs_bind_inv hadd
  cases hend
  exact ⟨newBox_span hbox, d, g, ms, s1, _, s3, hmade, hgroup, runs_late_iff.mp hwrite⟩

end

/-! ### Elements of sources (R180, R182, R183) -/

section
variable {h : Home} {n i : Nat} {d : Node} {c : List Nat} {s s1 s2 : State} {v : Nat} (hm : mapGathers (d.maps.getD i 0) = false)
include hm

/-- Without a gather a point of a source is the mapped one. -/
theorem runs_srcAt_of_raw {r : Nat × Option Nat}
    (hr : Runs (srcRaw h (d.op == 1 && i == 1) (d.src i) ((mapPoint (d.maps.getD i 0) c).map Int.toNat)) s r s1) :
    Runs (srcAt h n d i c) s r s1 := by
  have hpoint : Runs (srcPoint h n d i c) s ((mapPoint (d.maps.getD i 0) c).map Int.toNat) s :=
    runs_ite_pos (by rw [hm]; rfl) (runs_pure _ s)
  exact runs_bind hpoint (runs_late_iff.mpr hr)

theorem runs_srcAt_node {m : Nat} (hs : d.src i = .node m)
    (hr : Runs (nodeElem h m ((mapPoint (d.maps.getD i 0) c).map Int.toNat)) s v s1) : Runs (srcAt h n d i c) s (v, none) s1 := by
  obtain ⟨_, _, hlive, -⟩ := runs_bind_inv hr
  obtain ⟨-, g, hg⟩ := runs_liveNode_inv hlive
  refine runs_srcAt_of_raw hm ?_
  rw [hs]
  exact runs_bind (runs_homeWho hg) (runs_bind hr (runs_pure _ s1))

section
variable {g : BitVec 512} {u : Who} (hs : d.src i = .gen g) (hi : (d.op == 1 && i == 1) = false) (hu : Runs (homeWho h) s u s)
  (hv : Runs ((Walk4.ofBits g).read u (flat (Walk4.ofBits g).sizes ((mapPoint (d.maps.getD i 0) c).map Int.toNat))) s v s1)
include hs hi hu hv

theorem runs_srcAt_gen (hw : (Walk4.ofBits g).scaled = false) : Runs (srcAt h n d i c) s (v, none) s1 := by
  refine runs_srcAt_of_raw hm ?_
  rw [hs, hi]
  exact runs_bind hu (runs_ite_neg nofun (runs_bind hv (runs_ite_neg (ne_true_of_eq_false hw) (runs_pure _ s1))))

theorem runs_srcAt_gen_scaled (hw : (Walk4.ofBits g).scaled = true) {sc : Nat}
    (hsc : Runs ((Walk4.ofBits g).readScale u (flat (Walk4.ofBits g).sizes ((mapPoint (d.maps.getD i 0) c).map Int.toNat))) s1 sc s2) :
    Runs (srcAt h n d i c) s (v, some sc) s2 := by
  refine runs_srcAt_of_raw hm ?_
  rw [hs, hi]
  exact runs_bind hu (runs_ite_neg nofun (runs_bind hv (runs_ite_pos hw (runs_bind hsc (runs_pure _ s2)))))

end

end

/-! ### What a node computes at a point (R183) -/

/-- An output of a node is made: its encoding and its flags. -/
def Makes (h : Home) (n : Nat) (d : Node) (c : List Nat) (s : State) (r : Nat × Flags) (t : State) : Prop :=
  ∃ m, Runs (computeElem h n d c) s m t ∧ m.bits = r.1 ∧ m.flags = r.2

section
variable {h : Home} {n : Nat} {d : Node} {c : List Nat} {s s1 s2 s3 : State} {x y z : Nat × Option Nat} {f : MemFmt}

theorem makes_of_runs {r : Nat × Flags} (hr : Runs (computeElem h n d c) s (Made.of r) s1) : Makes h n d c s r s1 := ⟨_, hr, rfl, rfl⟩

section
variable (hx : Runs (srcAt h n d 0 c) s x s1)
include hx

theorem makes_copy_gen {g : BitVec 512} (hop : d.op = 0) (hs : d.src 0 = .gen g) :
    Makes h n d c s (d.ty.round d.rm (rawValue (Walk4.ofBits g).fmt x)) s1 := by
  refine makes_of_runs ?_
  unfold computeElem
  rw [hop, hs]
  exact runs_bind hx (runs_pure _ s1)

theorem makes_copy_node {m : Nat} (hop : d.op = 0) (hs : d.src 0 = .node m) : Makes h n d c s (x.1 % 2 ^ d.ty.valueBits, 0) s1 := by
  refine makes_of_runs ?_
  unfold computeElem
  rw [hop, hs]
  exact runs_bind hx (runs_pure _ s1)

theorem makes_convert (hop : d.op = 4) (hf : Runs (srcFmt h (d.src 0)) s1 f s1) : Makes h n d c s (d.ty.round d.rm (f.decode x.1)) s1 := by
  refine makes_of_runs ?_
  unfold computeElem
  rw [hop]
  exact runs_bind hx (runs_bind hf (runs_pure _ s1))

section
variable (hy : Runs (srcAt h n d 1 c) s1 y s2) (hz : Runs (srcAt h n d 2 c) s2 z s3)
include hy hz

theorem makes_elementwise (hop : d.op = 2) (hf : Runs (srcFmt h (d.src 1)) s3 f s3) :
    Makes h n d c s (elemOp (tewEffect d.fn) d.ty d.rm x.1 y.1 z.1 (BitVec.ofNat f.bits y.1).toInt) s3 := by
  refine makes_of_runs ?_
  unfold computeElem
  rw [hop]
  exact runs_bind hx (runs_bind hy (runs_bind hz (runs_bind hf (runs_pure _ s3))))

theorem makes_select (hop : d.op = 5) (hf : Runs (srcFmt h (d.src 2)) s3 f s3) :
    Makes h n d c s ((if f.pattern z.1 = 0 then y.1 else x.1) % 2 ^ d.ty.valueBits, 0) s3 := by
  have hsel : (if f.pattern z.1 != 0 then x.1 else y.1) = if f.pattern z.1 = 0 then y.1 else x.1 := by
    simp only [bne_iff_ne, ite_not]
  rw [← hsel]
  refine makes_of_runs ?_
  unfold computeElem
  rw [hop]
  exact runs_bind hx (runs_bind hy (runs_bind hz (runs_bind hf (runs_pure _ s3))))

end

end

theorem makes_reduce {xs : List Nat} (hop : d.op = 3) (hxs : Runs ((List.range (co d.ext 2)).mapM fun k => do
      let x ← srcAt h n d 0 [co c 0, co c 1, k, co c 3]
      pure x.1) s xs s1) :
    Makes h n d c s (if d.fn = 0x1F then sumOf d.ty d.rm xs else extremeOf (if d.fn = 0x20 then .max else .min) d.ty xs) s1 := by
  refine makes_of_runs ?_
  unfold computeElem
  rw [hop]
  exact runs_bind hxs (runs_pure _ s1)

/-! ### A matmul of one chunk (R184) -/

theorem kChunks_one {e : Nat} (h1 : 1 ≤ e) (h2 : e ≤ 4096) : kChunks e = [(0, e)] := by
  have hcount : (e + 4095) / 4096 = 1 := by omega
  rw [kChunks, hcount]
  simp [h2]

section
variable {a b : Line} (hop : d.op = 1) (h1 : 1 ≤ co d.ext 2) (h2 : co d.ext 2 ≤ 4096)
  (ha : Runs (matLine h n d 0 c 0 (co d.ext 2)) s a s1) (hb : Runs (matLine h n d 1 c 0 (co d.ext 2)) s1 b s2)
include hop h1 h2 ha hb

/-- The accumulator is the result, or is rounded to the type of the node. -/
theorem makes_matmul {v : Nat × Flags} {all : Flags} (hv : v = accumulate (d.ty == .i32) d.rm 0 (outputOf a b))
    (hall : all = v.2 ||| if a.nx = true ∨ b.nx = true then Flags.nx else 0) :
    (d.ty = .f32 ∨ d.ty = .i32 → Makes h n d c s (v.1, all) s2)
    ∧ (d.ty ≠ .f32 → d.ty ≠ .i32 →
        Makes h n d c s ((convertElem .f32 d.ty d.rm v.1).1, all ||| (convertElem .f32 d.ty d.rm v.1).2) s2) := by
  have hflags : (0 : Flags) ||| v.2 ||| Flags.when (a.nx || b.nx) Flags.nx = all := by
    simp [hall, Flags.when]
  have helem : computeElem h n d c = matmulElem h n d c := by
    unfold computeElem
    rw [hop]
    rfl
  subst hv
  unfold Makes
  rw [← hflags, helem, matmulElem, kChunks_one h1 h2]
  refine ⟨fun hty => ⟨_, runs_bind (runs_bind (runs_bind ha (runs_bind hb (runs_pure _ s2))) (runs_pure _ s2))
      (runs_ite_pos ?_ (runs_pure _ s2)), rfl, rfl⟩,
    fun hf hi => ⟨_, runs_bind (runs_bind (runs_bind ha (runs_bind hb (runs_pure _ s2))) (runs_pure _ s2))
      (runs_ite_neg ?_ (runs_pure _ s2)), rfl, rfl⟩⟩
  · simpa using hty
  · simp [hf, hi]

end

end

end Sys2Proof.Machine
end

section
/-! PROOFS. FORCE, TST, TDROP, TSTAT and TPOL (R201 to R205, O30). -/

namespace Sys2Proof.Machine

open Sys2Proof

/-- The conversions of a TST reported: their flags, and the first NaN (R46, R48). -/
def Group.storeReported (y : Group) (c : CoreId) (pc : Word) (ty : ElemTy) (code : Nat) (fs : List (Nat × Flags)) : Group :=
  let z := y.raise (fs.foldl (fun a r => a ||| r.2) 0)
  match fs.find? fun r => r.2.hasNan with
  | none => z
  | some r => z.noteNan c pc r.2 ⟨2, r.1, 0, ty.code, ty.code, code, false⟩

theorem Group.storeReported_frame (y : Group) (c : CoreId) (pc : Word) (ty : ElemTy) (code : Nat) (fs : List (Nat × Flags)) :
    (y.storeReported c pc ty code fs).roles = y.roles ∧ (y.storeReported c pc ty code fs).gens = y.gens
      ∧ (y.storeReported c pc ty code fs).tile = y.tile := by
  unfold Group.storeReported
  dsimp only
  split
  · exact ⟨rfl, rfl, rfl⟩
  · obtain ⟨hgens, hroles, -, htile⟩ := Group.noteNan_frame (y.raise (fs.foldl (fun a r => a ||| r.2) 0)) c pc _ _
    exact ⟨hroles, hgens, htile⟩

theorem runs_handleNode {s : State} {g : Group} {k : Role} (h : Acts s g k) {hd : HReg} {n : Nat} (hn : g.tile.handles.get hd = some n) :
    Runs (handleNode hd) s n s := by
  have hv : vget g.tile.handles hd = some n := hn
  refine runs_bind (runs_me h) ?_
  simp only [hv]
  exact runs_pure n s

/-! ### FORCE (R201) -/

section
variable {o : TOp} {s s1 s2 s3 s4 s5 s6 : State} {g : Group} {k : Role} {vs : List Word} {n : Nat} {d : Node} {b : Span4} {x : Box}
  (h : Acts s1 g k) (hn : g.named o.h = some (n, d)) (hb : Runs (boxOperand o vs d) s1 b s2)
include h hn hb

/-- The held box where it is the one asked for, else the box of a demand: it is pinned, and a full extent makes the node Full. -/
theorem force_retires (ht : Taken (if o.s = 0 then [] else [o.s]) [o.t] s vs s1)
    (hx : d.boxes.find? (fun x => x.held && x.span == b) = some x ∧ s3 = s2
      ∨ d.boxes.find? (fun x => x.held && x.span == b) = none ∧ Runs (demand s1.home n b) s2 x s3)
    (hpin : Runs (do
      onTile s1.home fun t => t.pin o.h n x.seq
      if b = d.full && d.state != .full then onTile s1.home fun t => t.makeFull n else pure ()) s3 () s4)
    {g4 : Group} (hg4 : s4.group s1.cur.core s1.cur.slot = some g4)
    (hgive : Gives o.t (BitVec.ofNat 64 (arenaPtr s1.home g4 + x.off)) s4 s5) : Retires2 (.force o) s s5 := by
  obtain ⟨hhandle, hnode⟩ := Group.handle_node_of_named hn
  obtain ⟨_, u, hpinned, hfull⟩ := runs_bind_inv hpin
  refine (exec_force o s).trans (instr_seq (runs_pure () s) ht (runs_bind (runs_handleNode h hhandle) (runs_bind (runs_myHome h)
    (runs_bind (runs_liveNode (h := s1.home) h.1 hnode) (runs_bind hb (runs_bind (a := x) (t := s3) ?_
    (runs_bind hpinned (runs_bind hfull (runs_bind (runs_homeGroup (h := s1.home) hg4) hgive)))))))))
  rcases hx with ⟨hfind, rfl⟩ | ⟨hfind, hdemand⟩
  · rw [hfind]
    exact runs_pure x _
  · rw [hfind]
    exact hdemand

/-! ### TST (R202) -/

theorem tst_retires (ht : Taken (if o.s = 0 then [] else [o.s]) [] s vs s1) (h2 : Acts s2 g k) (hcur2 : s2.cur = s1.cur)
    {r : GReg} {w : Gen} {xs : List Nat} (hox : o.x = .gen r) (hw : w = Walk4.ofBits (g.gens.get r)) (hvalid : w.valid = true)
    (hcode : copyFmt w.code = true) (hcount : w.count = volume b.ext) (hdemand : Runs (demand s1.home n b) s2 x s3) {dn : Node}
    (hlive : Runs (liveNode s1.home n) s3 dn s3)
    (hreads : Runs ((List.range (volume b.ext)).mapM fun i => boxRead s1.home dn x (plus b.org (unflat b.ext i))) s3 xs s4)
    {g4 : Group} {k4 : Role} (h4 : Acts s4 g4 k4) (hctx : g4.ctx = g.ctx) (hcur4 : s4.cur = s1.cur)
    (hturn : Runs (walkerTurn s1.home) s4 () s4) (halias : Runs (aliasCheck s1.home [w.range]) s4 () s5)
    (hboard : s5.boardHits (s1.self g) w.range.1 (w.range.2 + 1 - w.range.1) = false)
    (hwrites : Runs (do writesInOrder (tstSteps (s1.self g) w d.ty o.rm xs); takeIds s1.home) s5 () s6) :
    (w.code = d.ty.code → Retires2 (.tst o) s s6)
    ∧ (w.code ≠ d.ty.code → Retires2 (.tst o) s (s6.onGroup s1.cur.core s1.cur.slot fun y =>
        y.storeReported s1.cur.core k.pc d.ty w.code (convertFlags w o.rm (xs.zipIdx.map fun p => (p.2, d.ty.decode p.1))))) := by
  obtain ⟨hhandle, hnode⟩ := Group.handle_node_of_named hn
  obtain ⟨_, u, hwritten, hids⟩ := runs_bind_inv hwrites
  have hself : s4.self g4 = s1.self g := by rw [State.self, State.self, hctx, hcur4]
  have hwho : Runs whoami s4 (s1.self g) s4 := hself ▸ runs_whoami h4
  have hok : (!w.valid || !copyFmt w.code || w.count != volume b.ext) = false := by simp [hvalid, hcode, hcount]
  have hme : Runs me s2 (s1.cur, g, k) s2 := hcur2 ▸ runs_me h2
  subst hw
  have hbody {t : State} (hend : Runs (if (Walk4.ofBits (g.gens.get r)).code = d.ty.code then pure () else
      modify fun s => s.onGroup s1.cur.core s1.cur.slot fun y => y.storeReported s1.cur.core k.pc d.ty (Walk4.ofBits (g.gens.get r)).code
        (convertFlags (Walk4.ofBits (g.gens.get r)) o.rm (xs.zipIdx.map fun p => (p.2, d.ty.decode p.1)))) s6 () t) :
      Retires2 (.tst o) s t := by
    refine (exec_tst o s).trans (instr_seq (runs_pure () s) ht (runs_bind (runs_handleNode h hhandle) (runs_bind (runs_myHome h)
      (runs_bind (runs_liveNode (h := s1.home) h.1 hnode) (runs_bind hb (runs_bind hme ?_))))))
    rw [hox]
    exact runs_bind (runs_faultIf_of hok ..) (runs_bind hdemand (runs_bind hlive (runs_bind hreads (runs_bind hwho (runs_bind hturn
      (runs_bind halias (runs_bind (runs_get s5) (runs_bind (runs_waitIf_of hboard s5) (runs_bind hwritten (runs_bind hids hend))))))))))
  exact ⟨fun hc => hbody (runs_ite_pos hc (runs_pure () s6)), fun hc => hbody (runs_ite_neg hc (runs_modify _ s6))⟩

end

/-! ### TDROP (R203) -/

theorem tdrop_retires {o : TOp} {s s1 : State} {g : Group} {k : Role} (h : Acts s1 g k) (ht : Taken [] [] s [] s1) :
    Retires2 (.tdrop o) s (s1.onGroup s1.cur.core s1.cur.slot fun y => { y with tile := y.tile.setHandle o.h none }) :=
  (exec_tdrop o s).trans (instr_seq (runs_pure () s) ht (runs_bind (runs_myHome h) (runs_modify _ s1)))

/-! ### TSTAT (R204) -/

/-- The word that TSTAT gives for a number and a handle (R204). -/
def Group.statWord (g : Group) (h : HReg) (f : Nat) : Word :=
  match f with
  | 0 => BitVec.ofNat 64 (nodeWord g.tile h)
  | 1 => BitVec.ofNat 64 (g.nodeLimit - g.tile.nodes.length)
  | 2 => BitVec.ofNat 64 (freeArena g)
  | 3 => g.tile.tableForces
  | 4 => g.tile.aliasForces
  | 5 => g.tile.evictions
  | _ => g.tile.policy

/-- A word of TSTAT, under whatever form it is known. -/
theorem tstat_retires {o : TOp} {s s1 s2 : State} {g : Group} {k : Role} (h : Acts s1 g k) (ht : Taken [] [o.t] s [] s1) {f : Nat} {v : Word}
    (hv : g.statWord o.h f = v) (hf : o.fn.toNat = f) (hg : Gives o.t v s1 s2) : Retires2 (.tstat o) s s2 := by
  subst hv hf
  exact (exec_tstat o s).trans (instr_seq (runs_pure () s) ht (runs_bind (runs_me h) hg))

theorem nodeWord_of_empty {t : Tile} {h : HReg} (hh : t.handles.get h = none) : nodeWord t h = 0 := by
  have hv : vget t.handles h = none := hh
  unfold nodeWord
  split
  · rfl
  · next hn => rw [hv] at hn; cases hn

theorem nodeWord_of_named {g : Group} {h : HReg} {n : Nat} {d : Node} (hn : g.named h = some (n, d)) :
    nodeWord g.tile h = d.state.code + n * 2 ^ 2 + d.boxes.length * 2 ^ 11 + (if d.boxes.any fun b => !b.pins.isEmpty then 2 ^ 14 else 0)
      + (if d.boxes.any Box.held then 2 ^ 15 else 0) + d.age * 2 ^ 16 := by
  obtain ⟨hhandle, hnode⟩ := Group.handle_node_of_named hn
  have hv : vget g.tile.handles h = some n := hhandle
  unfold nodeWord
  split
  · next hnone => rw [hv] at hnone; cases hnone
  · next m hm =>
    cases hv.symm.trans hm
    split
    · next hnone => rw [hnode] at hnone; cases hnone
    · next e he =>
      cases hnode.symm.trans he
      rfl

/-! ### TPOL (R205) -/

/-- The policy words that TPOL refuses: a reserved bit is set, or the staging slabs go beyond the last one. -/
def PolicyRefuses (p : Nat) : Prop := 2 ^ 27 ≤ p ∨ p / 2 ^ 3 % 2 = 1 ∨ 16 < p / 2 ^ 4 % 16 + p / 2 ^ 8 % 32

/-- The check that TPOL makes of its word. -/
theorem policyCheck_iff {p : Nat} : (p / 2 ^ 27 != 0 || p / 2 ^ 3 % 2 == 1 || decide (16 < p / 2 ^ 4 % 16 + p / 2 ^ 8 % 32)) = true
    ↔ PolicyRefuses p := by
  simp [PolicyRefuses, or_assoc]

section
variable {o : TOp} {s s1 s2 s3 : State} {g : Group} {k : Role} {p : Word} (h : Acts s1 g k) (ht : Taken [o.s] [o.t] s [p] s1)
include h ht

theorem tpol_traps (hp : PolicyRefuses p.toNat) : Traps (.tpol o) s s1 0x01 0 :=
  (exec_tpol o s).trans (instr_seq_trap (runs_pure () s) ht (raises_bind_right (runs_me h)
    (raises_bind (raises_faultIf_of (policyCheck_iff.mpr hp) ..))))

variable {wb wn : Nat} (hwb : wb = p.toNat / 2 ^ 13 % 2 ^ 11) (hwn : wn = 64 * (p.toNat / 2 ^ 24 % 8 + 1)) (hp : ¬ PolicyRefuses p.toNat)
include hwb hwn hp

/-- Walker rows beyond the allocation. -/
theorem tpol_traps_rows (hr : g.rows < wb + wn) : Traps (.tpol o) s s1 0x16 (max wb g.rows) := by
  subst hwb hwn
  exact (exec_tpol o s).trans (instr_seq_trap (runs_pure () s) ht (raises_bind_right (runs_me h)
    (raises_bind_right (runs_faultIf_of (Bool.eq_false_iff.mpr (mt policyCheck_iff.mp hp)) ..)
    (raises_bind (raises_faultIf_of (decide_eq_true hr) ..)))))

theorem tpol_retires (hr : wb + wn ≤ g.rows) (ha : Runs (aliasCheck s1.home (policySlabs s1.cur.core p.toNat)) s1 () s2)
    (hg : Gives o.t g.tile.policy (s2.onGroup s1.cur.core s1.cur.slot fun y => { y with tile := { y.tile with policy := p } }) s3) :
    Retires2 (.tpol o) s s3 := by
  subst hwb hwn
  exact (exec_tpol o s).trans (instr_seq (runs_pure () s) ht (runs_bind (runs_me h)
    (runs_bind (runs_faultIf_of (Bool.eq_false_iff.mpr (mt policyCheck_iff.mp hp)) ..)
    (runs_bind (runs_faultIf_of (decide_eq_false (not_lt.mpr hr)) ..)
    (runs_bind (runs_myHome h) (runs_bind ha (runs_bind (runs_modify _ s2) hg)))))))

end

/-- Settles O30: the instructions' checks in their order; what a demand answers; and, for each operation, how a point is computed. -/
theorem tileDemandsAndStatus : Obligations.TileDemandsAndStatus := by
  unfold Obligations.TileDemandsAndStatus
  refine ⟨fun o s s1 s2 s3 s4 s5 s6 g k vs n d b x h => ?_, fun h n b x s t hr => demand_gives hr, fun h n b used x s t hr => ?_, ?_⟩
  · intro home
    refine ⟨fun ht hn hb hx hpin g4 hg4 hgive => force_retires h hn hb ht hx hpin hg4 hgive, ?_, fun ht => tdrop_retires h ht,
      fun ht => ?_, fun p ht => ?_⟩
    · intro ht hn hb h2 hcur2 r w xs hox hw hvalid hcode hcount hdemand dn hlive hreads hacts hcur4 hturn halias hboard hwrites
      obtain ⟨g4, k4, h4, hctx⟩ := hacts
      obtain ⟨hsame, hconverts⟩ := tst_retires h hn hb ht h2 hcur2 hox hw hvalid hcode hcount hdemand hlive hreads h4 hctx hcur4 hturn halias
        hboard hwrites
      exact ⟨hsame, fun hc => ⟨_, hconverts hc, fun y => y.storeReported_frame ..⟩⟩
    · intro Says
      refine ⟨fun hh => tstat_retires h ht (congrArg (BitVec.ofNat 64) (nodeWord_of_empty hh)),
        fun hn => tstat_retires h ht (congrArg (BitVec.ofNat 64) (nodeWord_of_named hn)),
        tstat_retires h ht rfl, tstat_retires h ht rfl, tstat_retires h ht rfl, tstat_retires h ht rfl, tstat_retires h ht rfl,
        tstat_retires h ht rfl⟩
    · intro wb wn
      refine ⟨fun hp => tpol_traps h ht hp, fun hhigh hbit hslabs => ?_⟩
      have hp : ¬ PolicyRefuses p.toNat := by
        unfold PolicyRefuses
        omega
      exact ⟨fun hr => tpol_traps_rows h ht rfl rfl hp hr, fun hr ha hg => tpol_retires h ht rfl rfl hp hr ha hg⟩
  · obtain ⟨hspan, d, g, ms, s1, s2, s3, hmade, hgroup, hwrite⟩ := computeBox_gives hr
    exact ⟨hspan, d, g, ms, _, s1, s2, s3, hmade, hgroup, rfl, hwrite⟩
  · intro h n d c s s1 s2 s3 x y z xs f w v sc p Mk
    refine ⟨?_, fun m hs hm hv => runs_srcAt_node hm hs hv, fun hx => ⟨fun g hop hs => makes_copy_gen hx hop hs,
      fun m hop hs => makes_copy_node hx hop hs, fun hop hf => makes_convert hx hop hf, fun hy hz =>
        ⟨fun hop hf => makes_elementwise hx hy hz hop hf, fun hop hf => makes_select hx hy hz hop hf⟩⟩,
      fun hop hxs => makes_reduce hop hxs, fun a b hop h1 h2 ha hb => makes_matmul hop h1 h2 ha hb rfl rfl⟩
    rintro g hs rfl hm ⟨u, hu, hv, hsc⟩
    have hi : (d.op == 1 && 0 == 1) = false := Bool.and_false _
    exact ⟨fun hw => runs_srcAt_gen hm hs hi hu hv hw, fun hw => runs_srcAt_gen_scaled hm hs hi hu hv hw (hsc hw)⟩

end Sys2Proof.Machine
end

section
/-! PROOFS. Every step keeps memory's canonical form (O60), I: what it is for a body, an answer, an update to keep it. -/

namespace Sys2Proof.Machine

open Sys2Proof

/-! ### Updates of the state -/

section
variable {α : Type} {s t : State}

/-- Memory is its bytes and its open ranges: what changes neither keeps the canonical form. -/
theorem State.MemOk.of_eq (h : s.MemOk) (hm : t.mem = s.mem) (ho : t.opened = s.opened) : t.MemOk := by
  unfold State.MemOk at *
  rw [hm, ho]
  exact h

theorem State.MemOk.ite {c : Prop} [Decidable c] (hs : s.MemOk) (ht : t.MemOk) : (if c then s else t).MemOk := by
  split
  · exact hs
  · exact ht

/-- An update that comes with a value. -/
theorem State.MemOk.sndIte {c : Prop} [Decidable c] {p q : α × State} (hp : p.2.MemOk) (hq : q.2.MemOk) : (if c then p else q).2.MemOk := by
  split
  · exact hp
  · exact hq

theorem State.MemOk.foldl {f : State → α → State} {xs : List α} (hs : s.MemOk) (hf : ∀ t a, t.MemOk → (f t a).MemOk) :
    (xs.foldl f s).MemOk := by
  induction xs generalizing s with
  | nil => exact hs
  | cons x xs ih => exact ih (hf s x hs)

theorem State.MemOk.getD {o : Option State} (ho : ∀ u ∈ o, u.MemOk) (hs : s.MemOk) : (o.getD s).MemOk := by
  cases o with
  | none => exact hs
  | some u => exact ho u rfl

end

/-! ### Bodies of steps -/

/-- What a body comes to has memory in canonical form: its end, the state that a fault keeps, and what the part does for the answer that
the body waits for. -/
def ResultOk {α : Type} : Except Stop (α × State) → Prop
  | .ok p => p.2.MemOk
  | .error (.trap _ keep) => ∀ t ∈ keep, t.MemOk
  | .error .wait => True
  | .error (.ask f) => ∀ s : State, s.MemOk → (f s).MemOk
  | .error (.halt _) => True

/-- A body keeps memory's canonical form. -/
structure KeepsMem {α : Type} (x : X α) : Prop where
  result : ∀ s : State, s.MemOk → ResultOk (x s)

section
variable {α β : Type} {x : X α} {s t : State}

theorem KeepsMem.runs (h : KeepsMem x) (hs : s.MemOk) {p : α × State} (hr : x s = .ok p) : p.2.MemOk := by
  have hx := h.result s hs
  rwa [hr] at hx

/-- The state in which a body ends. -/
theorem State.MemOk.runs {a : α} (h : x s = .ok (a, t)) (hx : KeepsMem x) (hs : s.MemOk) : t.MemOk := hx.runs hs h

theorem KeepsMem.kept (h : KeepsMem x) (hs : s.MemOk) {e : Trap} {keep : Option State} (hr : x s = .error (.trap e keep)) :
    ∀ u ∈ keep, u.MemOk := by
  have hx := h.result s hs
  rwa [hr] at hx

theorem KeepsMem.asked (h : KeepsMem x) (hs : s.MemOk) {f : State → State} (hr : x s = .error (.ask f)) (ht : t.MemOk) : (f t).MemOk := by
  have hx := h.result s hs
  rw [hr] at hx
  exact hx t ht

theorem State.MemOk.kept {e : Trap} {keep : Option State} (h : x s = .error (.trap e keep)) (hx : KeepsMem x) (hs : s.MemOk) :
    ∀ u ∈ keep, u.MemOk := hx.kept hs h

theorem State.MemOk.asked {f : State → State} (h : x s = .error (.ask f)) (hx : KeepsMem x) (hs : s.MemOk) (ht : t.MemOk) : (f t).MemOk :=
  hx.asked hs h ht

theorem State.MemOk.result (hx : KeepsMem x) (hs : s.MemOk) : ResultOk (x s) := hx.result s hs

/-- A body that stops as one before it stopped. -/
theorem State.MemOk.stops {e : Stop} (h : x s = .error e) (hx : KeepsMem x) (hs : s.MemOk) : ResultOk (.error e : Except Stop (β × State)) := by
  have hr := hx.result s hs
  rw [h] at hr
  cases e <;> exact hr

theorem ResultOk.trap {e : Trap} : ResultOk (.error (.trap e none) : Except Stop (α × State)) := fun _ h => by cases h

theorem ResultOk.trapKept {e : Trap} (ht : t.MemOk) : ResultOk (.error (.trap e (some t)) : Except Stop (α × State)) := fun _ h => by
  cases h
  exact ht

theorem KeepsMem.pure {a : α} : KeepsMem (pure a) := ⟨fun _ hs => hs⟩

theorem KeepsMem.bind {f : α → X β} (hx : KeepsMem x) (hf : ∀ a, KeepsMem (f a)) : KeepsMem (x >>= f) := by
  refine ⟨fun s hs => ?_⟩
  have hr := hx.result s hs
  rw [bind_apply]
  cases hxs : x s with
  | ok p =>
    rw [hxs] at hr
    exact (hf p.1).result p.2 hr
  | error e =>
    rw [hxs] at hr
    cases e <;> exact hr

/-- A body that goes on from the state it finds. -/
theorem KeepsMem.get {f : State → X β} (hf : ∀ s : State, s.MemOk → KeepsMem (f s)) : KeepsMem (get >>= f) :=
  ⟨fun s hs => (hf s hs).result s hs⟩

theorem KeepsMem.set (ht : t.MemOk) : KeepsMem (set t : X Unit) := ⟨fun _ _ => ht⟩

theorem KeepsMem.modify {f : State → State} (hf : ∀ s : State, s.MemOk → (f s).MemOk) : KeepsMem (modify f : X Unit) := ⟨hf⟩

theorem KeepsMem.wait : KeepsMem (throw .wait : X α) := ⟨fun _ _ => trivial⟩

theorem KeepsMem.halt {e : Fault} : KeepsMem (throw (.halt e) : X α) := ⟨fun _ _ => trivial⟩

theorem KeepsMem.ask {f : State → State} (hf : ∀ s : State, s.MemOk → (f s).MemOk) : KeepsMem (throw (.ask f) : X α) := ⟨fun _ _ => hf⟩

theorem KeepsMem.trap {e : Trap} : KeepsMem (throw (.trap e none) : X α) := ⟨fun _ _ _ h => by cases h⟩

/-- A fault that keeps a state. -/
theorem KeepsMem.trapKept {e : Trap} (ht : t.MemOk) : KeepsMem (throw (.trap e (some t)) : X α) := ⟨fun _ _ _ h => by
  cases h
  exact ht⟩

theorem KeepsMem.fault {code va} : KeepsMem (fault code va : X α) := .trap

theorem KeepsMem.ite {c : Prop} [Decidable c] {y : X α} (hx : KeepsMem x) (hy : KeepsMem y) : KeepsMem (if c then x else y) := by
  split
  · exact hx
  · exact hy

/-- A part of a body that is left out under a condition, and what follows either way. -/
theorem KeepsMem.iteThen {c : Prop} [Decidable c] {x : X Unit} {f : Unit → X β} (hx : KeepsMem x) (hf : ∀ u, KeepsMem (f u)) :
    KeepsMem (if c then x >>= f else f ()) := .ite (.bind hx hf) (hf ())

theorem KeepsMem.iteElse {c : Prop} [Decidable c] {x : X Unit} {f : Unit → X β} (hx : KeepsMem x) (hf : ∀ u, KeepsMem (f u)) :
    KeepsMem (if c then f () else x >>= f) := .ite (hf ()) (.bind hx hf)

/-- One of two parts of a body, and what follows either. -/
theorem KeepsMem.iteBind {c : Prop} [Decidable c] {y : X α} {f : α → X β} (hx : KeepsMem x) (hy : KeepsMem y) (hf : ∀ a, KeepsMem (f a)) :
    KeepsMem (if c then x >>= f else y >>= f) := .ite (.bind hx hf) (.bind hy hf)

theorem KeepsMem.faultIf {c code va} : KeepsMem (faultIf c code va) := .ite .fault .pure

theorem KeepsMem.waitIf {c} : KeepsMem (waitIf c) := .ite .wait .pure

theorem KeepsMem.forM {f : α → X Unit} {xs : List α} (hf : ∀ a, KeepsMem (f a)) : KeepsMem (xs.forM f) := by
  induction xs with
  | nil => exact .pure
  | cons a xs ih => exact .bind (hf a) fun _ => ih

theorem KeepsMem.foldlM {f : β → α → X β} {b : β} {xs : List α} (hf : ∀ b a, KeepsMem (f b a)) : KeepsMem (xs.foldlM f b) := by
  induction xs generalizing b with
  | nil => exact .pure
  | cons a xs ih => exact .bind (hf b a) fun _ => ih

theorem KeepsMem.mapM {f : α → X β} {xs : List α} (hf : ∀ a, KeepsMem (f a)) : KeepsMem (xs.mapM f) := by
  induction xs with
  | nil =>
    rw [List.mapM_nil]
    exact .pure
  | cons a xs ih =>
    rw [List.mapM_cons]
    exact .bind (hf a) fun _ => .bind ih fun _ => .pure

theorem KeepsMem.filterMapM {f : α → X (Option β)} {xs : List α} (hf : ∀ a, KeepsMem (f a)) : KeepsMem (xs.filterMapM f) := by
  suffices h : ∀ ys : List β, KeepsMem (List.filterMapM.loop f xs ys) from h []
  induction xs with
  | nil => exact fun _ => .pure
  | cons a xs ih =>
    refine fun ys => .bind (hf a) fun o => ?_
    cases o with
    | none => exact ih ys
    | some b => exact ih (b :: ys)

theorem KeepsMem.faultsAt {va} (hx : KeepsMem x) : KeepsMem (faultsAt va x) := by
  refine ⟨fun s hs => ?_⟩
  unfold Machine.faultsAt
  split
  next h => exact hx.kept hs h
  next => exact hx.result s hs

theorem KeepsMem.attempt (hx : KeepsMem x) : KeepsMem (attempt x) := by
  refine ⟨fun s hs => ?_⟩
  unfold Machine.attempt
  split
  next h => exact hx.runs hs h
  next h => exact State.MemOk.getD (hx.kept hs h) hs
  next => trivial
  next h => exact fun _ => hx.asked hs h
  next => trivial

end

/-! ### Answers of a step -/

/-- The next state that an answer gives has memory in canonical form. -/
def NextOk (o : Host.Outcome State Fault Refusal) : Prop := ∀ t, o = .next t → t.MemOk

section
variable {s t : State}

theorem NextOk.next (h : s.MemOk) : NextOk (.next s) := fun _ ht => by
  cases ht
  exact h

theorem State.MemOk.ofNext {o : Host.Outcome State Fault Refusal} (h : o = .next t) (ho : NextOk o) : t.MemOk := ho t h

theorem NextOk.fault {e : Fault} : NextOk (.fault e) := fun _ ht => by cases ht

theorem NextOk.refused {e : Refusal} : NextOk (.refused e) := fun _ ht => by cases ht

theorem NextOk.ite {c : Prop} [Decidable c] {o p : Host.Outcome State Fault Refusal} (ho : NextOk o) (hp : NextOk p) :
    NextOk (if c then o else p) := by
  split
  · exact ho
  · exact hp

end

end Sys2Proof.Machine
end

section
/-! PROOFS. Every step keeps memory's canonical form (O60), II: memory and translation. -/

namespace Sys2Proof.Machine

open Sys2Proof

/-! ### Parts of the state -/

theorem State.MemOk.onCore {s : State} {c} {f : Core → Core} (hs : s.MemOk) : (s.onCore c f).MemOk := hs

theorem State.MemOk.setGroup {s : State} {c g x} (hs : s.MemOk) : (s.setGroup c g x).MemOk := hs.onCore

theorem State.MemOk.onGroup {s : State} {c g} {f : Group → Group} (hs : s.MemOk) : (s.onGroup c g f).MemOk := by
  unfold State.onGroup
  split
  · exact hs
  · exact hs.setGroup

theorem State.MemOk.onRole {s : State} {r} {f : Role → Role} (hs : s.MemOk) : (s.onRole r f).MemOk := hs.onGroup

theorem State.MemOk.onCtx {s : State} {c} {f : Context → Context} (hs : s.MemOk) : (s.onCtx c f).MemOk := hs

/-! ### The way of a message (R412) -/

theorem State.MemOk.pump {i vc n} {s : State} (hs : s.MemOk) : (State.pump i vc n s).MemOk := by
  obtain ⟨_, _, _, h⟩ := State.pump_frame i vc n s
  rw [h]
  exact hs

theorem State.MemOk.transmit {s : State} {i o} (hs : s.MemOk) : (s.transmit i o).MemOk := .pump hs

theorem State.MemOk.takeMessage {s : State} {m} (hs : s.MemOk) : (s.takeMessage m).MemOk :=
  .ite hs (by
    split
    · exact hs
    · exact .ite hs (.ite hs (.transmit hs)))

theorem State.MemOk.post {s : State} {m} (hs : s.MemOk) : (s.post m).MemOk := .ite hs.takeMessage hs.transmit

/-! ### Bytes -/

theorem State.MemOk.putBytes {s : State} {k bs} (hs : s.MemOk) : (s.putBytes k bs).MemOk := State.putBytes_memOk k bs hs

theorem State.MemOk.openRange {s : State} {k n} (hs : s.MemOk) : (s.openRange k n).MemOk := State.openRange_memOk k n hs

theorem State.MemOk.clearRange {s : State} {k n} (hs : s.MemOk) : (s.clearRange k n).MemOk := State.clearRange_memOk k n hs

/-! ### Poison -/

theorem State.MemOk.addPoison {s : State} {g} (hs : s.MemOk) : (s.addPoison g).MemOk := .ite hs hs

theorem State.MemOk.dropPoison {s : State} {g} (hs : s.MemOk) : (s.dropPoison g).MemOk := hs

/-! ### Local HBM -/

theorem State.MemOk.meetErrors {s : State} {pa n} (hs : s.MemOk) : (s.meetErrors pa n).MemOk := .foldl hs fun _ _ ht => ht.addPoison

theorem State.MemOk.hbmWriteAtom {s : State} {key pa bs} (hs : s.MemOk) : (s.hbmWriteAtom key pa bs).MemOk :=
  .ite hs (.ite hs (.putBytes (.ite (.putBytes (.ite hs hs)) (.ite hs hs))))

/-! ### The pool -/

theorem State.MemOk.putMac {s : State} {key blk l line} (hs : s.MemOk) : (s.putMac key blk l line).MemOk := hs.putBytes

theorem State.MemOk.setCode {s : State} {blk c} (hs : s.MemOk) : (s.setCode blk c).MemOk := hs

theorem State.MemOk.setDeviceLine {s : State} {l} (hs : s.MemOk) : (s.setDeviceLine l).MemOk := State.setDeviceLine_memOk l hs

theorem State.MemOk.refused {s : State} {line} (hs : s.MemOk) : (s.refused line).MemOk := hs

theorem State.MemOk.sendRequest {s : State} {line store} (hs : s.MemOk) : (s.sendRequest line store).MemOk := .ite hs hs.transmit

theorem State.MemOk.writeBack {s : State} {l} (hs : s.MemOk) : (s.writeBack l).MemOk :=
  .ite hs (by
    dsimp only
    split
    · exact hs.sendRequest.setDeviceLine
    · exact hs.sendRequest.setDeviceLine.putMac)

theorem State.MemOk.setCache {s : State} {p c} (hs : s.MemOk) : (s.setCache p c).MemOk := hs

theorem State.MemOk.editLine {s : State} {line} {f : CacheLine → CacheLine} (hs : s.MemOk) : (s.editLine line f).MemOk := hs.setCache

theorem State.MemOk.clean {s : State} {l} (hs : s.MemOk) : (s.clean l).MemOk := hs.writeBack.editLine

theorem State.MemOk.uncache {s : State} {line} (hs : s.MemOk) : (s.uncache line).MemOk := hs.setCache

theorem State.MemOk.cachePut {s : State} {l} (hs : s.MemOk) : (s.cachePut l).MemOk :=
  .ite hs.setCache (by
    split
    · exact hs.setCache
    · exact .setCache (.ite hs.writeBack hs))

theorem State.MemOk.forwardSnoop {s : State} {line but forWrite} (hs : s.MemOk) : (s.forwardSnoop line but forWrite).MemOk :=
  hs.foldl fun _ _ ht => .ite ht ht.transmit

theorem KeepsMem.askHolders {line forWrite} : KeepsMem (askHolders line forWrite) :=
  .get fun _ _ => .ite .pure (.ask fun _ hs1 => .ite hs1.forwardSnoop hs1.forwardSnoop)

theorem KeepsMem.askDevice {va line} : KeepsMem (askDevice va line) := .get fun _ hs => .ite (.trapKept hs.refused) (.set hs.sendRequest)

theorem KeepsMem.poolLine {key va line} : KeepsMem (poolLine key va line) :=
  .get fun _ hs => by
    split
    · exact .fault
    · exact .ite .fault (by
        split
        · exact .bind (.set hs.cachePut) fun _ => .pure
        · exact .bind .askDevice fun _ => .bind .askHolders fun _ => .get fun _ hs1 => .bind (.set hs1.cachePut) fun _ => .pure)

theorem State.MemOk.countTree {s : State} {key i r pa} (hs : s.MemOk) : (s.countTree key i r pa).MemOk := hs.putBytes.putBytes

theorem KeepsMem.countWrite {key va pa} : KeepsMem (countWrite key va pa) :=
  .get fun _ _ => by
    split
    · exact .pure
    · exact .bind .faultIf fun _ => .bind (.modify fun _ hs1 => hs1.countTree) fun _ => .get fun _ hs1 =>
        .ite (.set hs1.putBytes.putMac) (.ite (.set (hs1.putBytes.putBytes.foldl fun _ _ ht => ht.putMac)) .fault)

theorem KeepsMem.poolWriteLine {key va pa bs} : KeepsMem (poolWriteLine key va pa bs) :=
  .get fun _ _ => .ite .fault (.bind .countWrite fun _ => .ite (.bind .poolLine fun _ => .bind .askHolders fun _ => .get fun _ hs1 =>
    .ite .fault (.set hs1.cachePut)) (.iteThen .askDevice fun _ => .bind .pure fun _ => .bind .askHolders fun _ => .get fun _ hs1 =>
      .ite .fault (.set hs1.cachePut)))

/-! ### Raw and compressed blocks -/

theorem KeepsMem.rawRead {key va pa n} : KeepsMem (rawRead key va pa n) :=
  .get fun _ hs => by
    split
    · exact .bind (.set hs.meetErrors) fun _ => .pure
    · exact .foldlM fun _ _ => .bind .poolLine fun _ => .pure
    · exact .halt

theorem KeepsMem.rawWrite {key va pa bs} : KeepsMem (rawWrite key va pa bs) :=
  .get fun _ hs => by
    split
    · exact .set (hs.foldl fun _ _ ht => ht.hbmWriteAtom)
    · exact .forM fun _ => .poolWriteLine
    · exact .halt

theorem State.MemOk.setSize {s : State} {blk c} (hs : s.MemOk) : (s.setSize blk c).MemOk := by
  unfold State.setSize
  split
  · split
    · exact hs.editLine
    · exact hs.setCode
  · exact hs.setCode
  · exact hs

theorem KeepsMem.poisonPa {key va pa} : KeepsMem (poisonPa key va pa) :=
  .get fun _ hs => by
    split
    · exact .set hs.addPoison
    · exact .bind (.attempt .poolLine) fun _ => by
        split
        · exact .modify fun _ hs1 => hs1.editLine
        · exact .pure
    · exact .halt

theorem KeepsMem.hardRead {key a b c} : KeepsMem (hardRead key a b c) := .bind .rawRead fun _ => .pure

theorem KeepsMem.softRaw {key a b c} : KeepsMem (softRaw key a b c) :=
  .get fun _ _ => .bind (.attempt .rawRead) fun _ => by
    split
    · exact .pure
    · exact .bind (.modify fun _ hs1 => hs1) fun _ => .ite .pure .trap

theorem KeepsMem.readAtoms {rd : Reader} {va base k} (hrd : ∀ u v w, KeepsMem (rd u v w)) : KeepsMem (readAtoms rd va base k) :=
  .foldlM fun _ _ => .bind (hrd _ _ _) fun _ => .pure

theorem KeepsMem.blockReadWith {rd : Reader} {va pa n} (hrd : ∀ u v w, KeepsMem (rd u v w)) : KeepsMem (blockReadWith rd va pa n) :=
  .get fun _ _ => .ite (.bind (.mapM fun _ => .bind (hrd _ _ _) fun _ => .pure) fun _ => .pure) (.bind (.readAtoms hrd) fun _ =>
    .bind (.readAtoms hrd) fun _ => .pure)

theorem KeepsMem.blockReadHalves {key va pa n} : KeepsMem (blockReadHalves key va pa n) :=
  .bind (.blockReadWith fun _ _ _ => .hardRead) fun _ => .pure

theorem KeepsMem.blockRead {key va pa n} : KeepsMem (blockRead key va pa n) := .bind .blockReadHalves fun _ => .pure

theorem KeepsMem.blockStore {key va base bs cmp} : KeepsMem (blockStore key va base bs cmp) :=
  .bind (.forM fun _ => .rawWrite) fun _ => .modify fun _ hs => hs.setSize

theorem KeepsMem.blockWrite {key va pa bs cmp} : KeepsMem (blockWrite key va pa bs cmp) :=
  .ite .blockStore (.get fun _ _ => .bind .blockReadHalves fun _ => .ite .blockStore (.ite (.forM fun _ =>
    .rawWrite) (.bind .blockStore fun _ => .forM fun _ => .poisonPa)))

theorem KeepsMem.losePhys {key c va pa} : KeepsMem (losePhys key c va pa) :=
  .get fun _ _ => .ite .poisonPa (.bind .blockReadHalves fun _ => .bind .blockStore fun _ => .forM fun _ => .poisonPa)

theorem KeepsMem.physRead {key c va pa n} : KeepsMem (physRead key c va pa n) :=
  .ite .rawRead (.foldlM fun _ _ => .bind .blockRead fun _ => .pure)

theorem KeepsMem.physWrite {key c va pa bs cmp} : KeepsMem (physWrite key c va pa bs cmp) := .ite .rawWrite (.forM fun _ => .blockWrite)

/-! ### Walks and TLBs -/

theorem State.MemOk.tlbFill {s : State} {core e} (hs : s.MemOk) : (s.tlbFill core e).MemOk := by
  unfold State.tlbFill
  split
  · exact hs
  · exact .onCore hs

theorem State.MemOk.tlbUse {s : State} {core e} (hs : s.MemOk) : (s.tlbUse core e).MemOk := by
  unfold State.tlbUse
  split
  · exact hs
  · exact .ite hs.onCore hs

theorem KeepsMem.tableRead {x va pa} : KeepsMem (tableRead x va pa) :=
  .get fun _ _ => .bind (.faultsAt .rawRead) fun _ => .ite .fault .pure

theorem KeepsMem.tableWrite {x pa v} : KeepsMem (tableWrite x pa v) := .get fun _ _ => .rawWrite

theorem KeepsMem.grow {x va leafAt f} : KeepsMem (grow x va leafAt f) :=
  .bind .faultIf fun _ => .get fun _ _ => by
    dsimp only
    split
    · exact .fault
    · exact .ite .fault (.ite .fault (.bind .tableRead fun _ => .bind (.modify fun _ hs1 => hs1.onCtx) fun _ => .bind .tableWrite fun _ =>
        .pure))

theorem KeepsMem.directory {x va pa} : KeepsMem (directory x va pa) := .bind .tableRead fun _ => .ite .fault (.ite .fault .pure)

theorem KeepsMem.leafAddress {x va} : KeepsMem (leafAddress x va) :=
  .get fun _ _ => .bind .directory fun _ => .bind .directory fun _ => .pure

theorem KeepsMem.leafOk {x va f} : KeepsMem (leafOk x va f) := .get fun _ _ => .bind .faultIf fun _ => .bind .faultIf fun _ => .faultIf

theorem KeepsMem.leafOf {w va a} : KeepsMem (leafOf w va a) :=
  .get fun _ hs => by
    split
    · exact .bind .faultIf fun _ => .bind .faultIf fun _ => .bind (.set hs.tlbUse) fun _ => .pure
    · exact .bind .leafAddress fun _ => .bind .tableRead fun _ => .ite .fault (.iteBind .grow .pure fun _ => .bind .leafOk fun _ =>
        .bind .faultIf fun _ => .bind (.modify fun _ hs1 => hs1.tlbFill) fun _ => .pure)

theorem KeepsMem.translateBy {w va a} {sideB : Buf → Bool} : KeepsMem (translateBy w va a sideB) :=
  .bind .leafOf fun _ => .get fun _ _ => .pure

theorem KeepsMem.translate {w va a hidden} : KeepsMem (translate w va a hidden) := .translateBy

end Sys2Proof.Machine
end

section
/-! PROOFS. Every step keeps memory's canonical form (O60), III: the frame of an instruction, its operands, and demands. -/

namespace Sys2Proof.Machine

open Sys2Proof

/-! ### MemRead and MemWrite -/

theorem State.MemOk.chipWriteGranule {s : State} {k bs} (hs : s.MemOk) : (s.chipWriteGranule k bs).MemOk := .ite hs hs.dropPoison.putBytes

theorem State.MemOk.chipWrite {s : State} {k bs} (hs : s.MemOk) : (s.chipWrite k bs).MemOk := hs.foldl fun _ _ ht => ht.chipWriteGranule

theorem KeepsMem.resolve {w p n a hidden} : KeepsMem (resolve w p n a hidden) :=
  .get fun _ _ => by
    split
    · exact .bind .faultIf fun _ => .bind .translate fun _ => .pure
    · exact .bind .faultIf fun _ => .bind .faultIf fun _ => .pure
    · exact .bind .faultIf fun _ => by
        split
        · exact .bind .faultIf fun _ => .bind .faultIf fun _ => .pure
        · exact .fault
        · exact .fault
    · exact .fault

theorem KeepsMem.readPlace {p n pl} : KeepsMem (readPlace p n pl) :=
  .get fun _ _ => by
    split
    · exact .bind .physRead fun _ => .pure
    · exact .pure

theorem KeepsMem.writePlace {p pl bs cmp} : KeepsMem (writePlace p pl bs cmp) :=
  .get fun _ hs => by
    split
    · exact .physWrite
    · exact .set hs.chipWrite

theorem KeepsMem.losePlace {p pl} : KeepsMem (losePlace p pl) :=
  .get fun _ hs => by
    split
    · exact .losePhys
    · exact .ite (.set hs.addPoison) .pure

theorem KeepsMem.memReadBytes {w p n a} : KeepsMem (memReadBytes w p n a) :=
  .get fun _ _ => .bind .resolve fun _ => .bind .waitIf fun _ => .bind .readPlace fun _ => .ite .fault .pure

theorem KeepsMem.memReadNat {w p n a} : KeepsMem (memReadNat w p n a) := .bind .memReadBytes fun _ => .pure

theorem KeepsMem.memWriteBytes {w p bs a} : KeepsMem (memWriteBytes w p bs a) :=
  .get fun _ _ => .bind .resolve fun _ => .bind .waitIf fun _ => .writePlace

theorem KeepsMem.memWriteNat {w p n v a} : KeepsMem (memWriteNat w p n v a) := .memWriteBytes

theorem KeepsMem.pointerOk {top p} : KeepsMem (pointerOk top p) := .bind .faultIf fun _ => .faultIf

/-! ### Taking a fault -/

theorem KeepsMem.pushFault {x rcd stillHeld} : KeepsMem (pushFault x rcd stillHeld) :=
  .get fun _ _ => .bind .faultIf fun _ => .bind .memReadBytes fun _ => .bind .faultIf fun _ => .ite .pure (.bind .memWriteBytes fun _ =>
    .bind .memWriteNat fun _ => .bind .memWriteNat fun _ => .pure)

theorem State.MemOk.flushHeld {x} {n : Nat} {s : State} (hs : s.MemOk) : (flushHeld x n s).MemOk := by
  induction n generalizing s with
  | zero => exact hs
  | succ n ih =>
    unfold Machine.flushHeld
    split
    · exact hs
    · split
      next h => exact ih (hs.runs h .pushFault).onCtx
      · exact hs
      · exact hs

theorem State.MemOk.deliver {s : State} {x rcd} (hs : s.MemOk) : (s.deliver x rcd).MemOk := .ite hs.onCtx.flushHeld hs.onCtx.flushHeld

theorem State.MemOk.nextSeq {s : State} {x} (hs : s.MemOk) : (s.nextSeq x).2.MemOk := hs.onCtx

theorem State.MemOk.deliverOther {s : State} {x origin code va} (hs : s.MemOk) : (s.deliverOther x origin code va).MemOk :=
  hs.onCtx.deliver

theorem State.MemOk.takeFault {s : State} {r t pc retired} (hs : s.MemOk) : (s.takeFault r t pc retired).MemOk := by
  unfold State.takeFault
  split
  · exact hs
  · exact hs.onRole.onCtx.deliver

theorem State.MemOk.resumeAt {s : State} {r pc} (hs : s.MemOk) : (s.resumeAt r pc).MemOk := hs.onRole

/-! ### Elements in memory -/

theorem KeepsMem.readRun {w p n a} : KeepsMem (readRun w p n a) := .foldlM fun _ _ => .bind .memReadBytes fun _ => .pure

theorem KeepsMem.writeRun {w p bs a} : KeepsMem (writeRun w p bs a) := .forM fun _ => .memWriteBytes

theorem KeepsMem.walk4Read {g w e a} : KeepsMem (Walk4.read g w e a) := .bind .readRun fun _ => .pure

theorem KeepsMem.walk4Write {g w e v a} : KeepsMem (Walk4.write g w e v a) :=
  .ite (.bind .resolve fun _ => .get fun _ _ => .bind .waitIf fun _ => .bind .readPlace fun _ => .writePlace) .writeRun

theorem KeepsMem.resolveDest {w p n} : KeepsMem (resolveDest w p n) := .ite (.bind .faultIf fun _ => .pure) .resolve

theorem KeepsMem.destRun {w p bs cmp} : KeepsMem (destRun w p bs cmp) := .forM fun _ => .bind .resolveDest fun _ => .writePlace

theorem KeepsMem.walk4Put {g w e v cmp} : KeepsMem (Walk4.put g w e v cmp) :=
  .ite (.bind .resolveDest fun _ => .bind .readPlace fun _ => .writePlace) .destRun

theorem KeepsMem.walk4ReadScale {g w e a} : KeepsMem (Walk4.readScale g w e a) := .memReadNat

theorem KeepsMem.walk4Value {g w e a} : KeepsMem (Walk4.value g w e a) :=
  .bind .walk4Read fun _ => .ite (.bind .walk4ReadScale fun _ => .pure) .pure

theorem KeepsMem.lowSpace {p} : KeepsMem (lowSpace p) := .faultIf

/-! ### Queues of a role -/

theorem KeepsMem.me : KeepsMem me :=
  .get fun _ _ => by
    split
    · exact .wait
    · exact .pure

theorem KeepsMem.whoami : KeepsMem whoami := .bind .me fun _ => .pure

/-! ### Queues behind the ports -/

theorem KeepsMem.queuePeek {w q} : KeepsMem (queuePeek w q) :=
  .get fun _ _ => by
    split
    · split
      · exact .wait
      · split
        · exact .wait
        · exact .pure
    · split
      · exact .wait
      · exact .ite .wait (.bind .memReadNat fun _ => .pure)

theorem State.MemOk.queueDrop {s : State} {q} (hs : s.MemOk) : (s.queueDrop q).MemOk := by
  unfold State.queueDrop
  split
  · exact hs.onGroup
  · exact hs.onCtx

theorem KeepsMem.queuePop {w q} : KeepsMem (queuePop w q) :=
  .bind .queuePeek fun _ => .bind (.modify fun _ hs => hs.queueDrop) fun _ => .pure

theorem KeepsMem.queuePush {w q v} : KeepsMem (queuePush w q v) :=
  .get fun _ hs => by
    split
    · exact .set hs.onGroup
    · split
      · exact .wait
      · exact .bind .memWriteNat fun _ => .modify fun _ hs1 => hs1.onCtx

/-! ### Register operands -/

theorem KeepsMem.checkMisuse {srcs dsts} : KeepsMem (checkMisuse srcs dsts) :=
  .bind .me fun _ => by
    split
    · exact .pure
    · exact .fault

theorem KeepsMem.performed : KeepsMem performed := .bind .me fun _ => .get fun _ _ => .waitIf

theorem KeepsMem.checkRoom {dsts} : KeepsMem (checkRoom dsts) := .bind .me fun _ => .get fun _ _ => .forM fun _ => .waitIf

theorem KeepsMem.readSrc {r} : KeepsMem (readSrc r) := .bind .me fun _ => .ite .queuePop .pure

theorem KeepsMem.readSrcs {rs : List SReg} : KeepsMem (readSrcs rs) := by
  induction rs with
  | nil => exact .pure
  | cons r rs ih => exact .bind .readSrc fun _ => .bind ih fun _ => .pure

theorem KeepsMem.writeDst {d v} : KeepsMem (writeDst d v) := .bind .me fun _ => .ite .queuePush (.modify fun _ hs => hs.onRole)

theorem State.MemOk.noteWait {s : State} {srcs dsts} (hs : s.MemOk) : (s.noteWait srcs dsts).MemOk := hs.onRole

theorem State.MemOk.leaveQueues {s : State} {x since bs} (hs : s.MemOk) : (s.leaveQueues x since bs).MemOk :=
  hs.foldl fun _ _ ht => by
    split
    · exact ht
    · exact ht.onCtx

/-! ### The frame of an instruction -/

theorem State.MemOk.continue_ {s : State} {size f} (hs : s.MemOk) : (s.continue_ size f).MemOk := by
  unfold State.continue_
  split
  · exact hs.onRole
  · exact hs.onRole
  · exact hs.onRole
  · split
    · exact hs
    · exact hs.onRole.takeFault
  · exact hs.onRole.takeFault
  · exact hs

theorem NextOk.finish {s s1 : State} {size srcs dsts} {r : Except Stop (Flow × State)} (hs : s.MemOk) (hs1 : s1.MemOk) (hr : ResultOk r) :
    NextOk (finish s s1 size srcs dsts r) := by
  unfold Machine.finish
  split
  · exact .next (State.MemOk.continue_ hr)
  · exact .next (State.MemOk.takeFault (.getD hr hs1))
  · exact .next hs.noteWait
  · exact .next (State.MemOk.noteWait (hr _ hs))
  · exact .fault

theorem NextOk.instr {size srcs dsts} {pre : X Unit} {body : List Word → X Flow} {s : State} (hpre : KeepsMem pre)
    (hbody : ∀ vs, KeepsMem (body vs)) (hs : s.MemOk) : NextOk (instr size srcs dsts pre body s) := by
  have hread : KeepsMem (do pre; Machine.checkMisuse srcs dsts; Machine.checkRoom dsts; Machine.readSrcs srcs) :=
    .bind hpre fun _ => .bind .checkMisuse fun _ => .bind .checkRoom fun _ => .readSrcs
  unfold Machine.instr
  split
  next h => exact .finish hs (hs.runs h hread) ((hs.runs h hread).result (hbody _))
  next h => exact .finish hs hs (hs.stops h hread)

theorem KeepsMem.seqBody {b : List Word → X Unit} {vs} (hb : ∀ u, KeepsMem (b u)) : KeepsMem (seqBody b vs) :=
  .bind (hb _) fun _ => .pure

theorem KeepsMem.noPre : KeepsMem noPre := .pure

theorem KeepsMem.computeOnly : KeepsMem computeOnly := .bind .me fun _ => .faultIf

theorem KeepsMem.needSys {va} : KeepsMem (needSys va) := .bind .me fun _ => .get fun _ _ => .faultIf

/-! ### Rows and elements -/

theorem KeepsMem.needRows {fields} : KeepsMem (needRows fields) :=
  .bind .me fun _ => by
    dsimp only
    split
    · exact .pure
    · exact .fault

theorem KeepsMem.rowsReady {fields} : KeepsMem (rowsReady fields) := .bind .me fun _ => .get fun _ _ => .waitIf

theorem KeepsMem.readElems {v n t} : KeepsMem (readElems v n t) := .bind .me fun _ => .get fun _ _ => .pure

theorem KeepsMem.writeElems {v i t xs} : KeepsMem (writeElems v i t xs) := .bind .me fun _ => .modify fun _ hs => hs.chipWrite

theorem State.MemOk.chipBits {s : State} {k n v} (hs : s.MemOk) : (s.chipBits k n v).MemOk := hs.chipWrite

/-! ### Flags and NaNs -/

theorem KeepsMem.reportVector {d t fmtA fmtB extra rs} : KeepsMem (reportVector d t fmtA fmtB extra rs) :=
  .bind .me fun _ => .modify fun _ hs => hs.onGroup

/-! ### Nodes of a group -/

theorem KeepsMem.homeGroup {h} : KeepsMem (homeGroup h) :=
  .get fun _ _ => by
    split
    · exact .wait
    · exact .pure

theorem KeepsMem.homeWho {h} : KeepsMem (homeWho h) := .bind .homeGroup fun _ => .pure

theorem KeepsMem.onTile {h} {f : Tile → Tile} : KeepsMem (onTile h f) := .modify fun _ hs => hs.onGroup

/-! ### The arena (R186, R187) -/

theorem KeepsMem.late {α : Type} {n d src gath} {x : X α} (hx : KeepsMem x) : KeepsMem (late n d src gath x) :=
  ⟨fun _ hs => by
    unfold Machine.late
    split
    next h => exact hs.kept h hx
    · exact hs.result hx⟩

theorem KeepsMem.allocate {h need inUse} {f : Nat} : KeepsMem (allocate h need inUse f) := by
  induction f with
  | zero => exact .fault
  | succ f ih =>
    refine .bind .homeGroup fun _ => ?_
    split
    · exact .pure
    · split
      · exact .fault
      · exact .bind .onTile fun _ => ih

theorem KeepsMem.liveNode {h n} : KeepsMem (liveNode h n) :=
  .bind .homeGroup fun _ => by
    split
    · exact .fault
    · exact .pure

theorem KeepsMem.newBox {h n b inUse} : KeepsMem (newBox h n b inUse) :=
  .bind .liveNode fun _ => .bind (.ite (by
    split
    · exact .late .fault
    · exact .onTile) .pure) fun _ => .bind .liveNode fun _ => .bind (.late .allocate) fun _ => .bind .homeGroup fun _ => .pure

theorem KeepsMem.addBox {h n b} : KeepsMem (addBox h n b) := .onTile

theorem KeepsMem.boxRead {h d b c} : KeepsMem (boxRead h d b c) :=
  .bind .homeWho fun _ => .bind .homeGroup fun _ => .bind .memReadNat fun _ => .pure

theorem KeepsMem.nodeElem {h n c} : KeepsMem (nodeElem h n c) :=
  .bind .liveNode fun _ => by
    split
    · exact .fault
    · exact .boxRead

/-! ### Sources -/

theorem KeepsMem.srcExtents {h x} : KeepsMem (srcExtents h x) := by
  unfold Machine.srcExtents
  split
  · exact .pure
  · exact .bind .liveNode fun _ => .pure
  · exact .pure

theorem KeepsMem.srcFmt {h x} : KeepsMem (srcFmt h x) := by
  unfold Machine.srcFmt
  split
  · exact .pure
  · exact .bind .liveNode fun _ => .pure
  · exact .pure

theorem KeepsMem.srcRaw {h slabs x c} : KeepsMem (srcRaw h slabs x c) :=
  .bind .homeWho fun _ => by
    split
    · exact .pure
    · exact .bind .nodeElem fun _ => .pure
    · exact .ite (.get fun _ _ => .bind .waitIf fun _ => .pure) (.bind .walk4Read fun _ => .ite (.bind .walk4ReadScale fun _ =>
        .pure) .pure)

theorem KeepsMem.gatherIndex {h n d c} : KeepsMem (gatherIndex h n d c) := .bind .srcFmt fun _ => .bind (.late .srcRaw) fun _ => .pure

theorem KeepsMem.srcPoint {h n d i c} : KeepsMem (srcPoint h n d i c) :=
  .ite .pure (.bind .gatherIndex fun _ => .bind .srcExtents fun _ => .ite .pure (.late .fault))

theorem KeepsMem.srcAt {h n d i c} : KeepsMem (srcAt h n d i c) := .bind .srcPoint fun _ => .late .srcRaw

/-! ### What a node computes (R183, R184) -/

theorem KeepsMem.matLine {h n d i o k0 len} : KeepsMem (matLine h n d i o k0 len) :=
  .bind .srcFmt fun _ => .bind (.mapM fun _ => .bind .srcAt fun _ => .pure) fun _ => .pure

theorem KeepsMem.matmulElem {h n d o} : KeepsMem (matmulElem h n d o) :=
  .bind (.foldlM fun _ _ => .bind .matLine fun _ => .bind .matLine fun _ => .pure) fun _ => .ite .pure .pure

theorem KeepsMem.computeElem {h n d o} : KeepsMem (computeElem h n d o) := by
  unfold Machine.computeElem
  split
  · exact .bind .srcAt fun _ => by
      split <;> exact .pure
  · exact .matmulElem
  · exact .bind .srcAt fun _ => .bind .srcAt fun _ => .bind .srcAt fun _ => .bind .srcFmt fun _ => .pure
  · exact .bind (.mapM fun _ => .bind .srcAt fun _ => .pure) fun _ => .pure
  · exact .bind .srcAt fun _ => .bind .srcFmt fun _ => .pure
  · exact .bind .srcAt fun _ => .bind .srcAt fun _ => .bind .srcAt fun _ => .bind .srcFmt fun _ => .pure

theorem KeepsMem.reportBox {h n d b ms} : KeepsMem (reportBox h n d b ms) :=
  .bind .srcFmt fun _ => .bind (by
    split
    · exact .pure
    · exact .srcFmt
    · exact .srcFmt) fun _ => .bind .homeGroup fun _ => .modify fun _ hs => hs.onGroup

theorem KeepsMem.stage {h n d b} : KeepsMem (stage h n d b) :=
  .bind .homeGroup fun _ => .bind .srcFmt fun _ => .bind .homeWho fun _ => .forM fun _ => .forM fun _ => .ite .pure (.forM fun _ =>
    .forM fun _ => .bind (.mapM fun _ => .srcAt) fun _ => .get fun _ _ => .bind .waitIf fun _ => .modify fun _ hs1 =>
      .ite hs1.chipBits hs1.chipBits.chipWrite)

theorem KeepsMem.stageFits {h d} : KeepsMem (stageFits h d) := .bind .homeGroup fun _ => .bind .srcFmt fun _ => .pure

/-! ### Checks ahead of a box (R454) -/

theorem KeepsMem.checkBox {h n d i gath b} : KeepsMem (checkBox h n d i gath b) := by
  unfold Machine.checkBox
  split
  · exact .pure
  · exact .pure
  · exact .ite .pure (.bind .homeWho fun _ => .forM fun _ => .late (.bind .memReadBytes fun _ => .pure))

theorem KeepsMem.gatherRange {h n d pts} : KeepsMem (gatherRange h n d pts) :=
  .bind .checkBox fun _ => .bind .srcExtents fun _ => .bind (.mapM fun _ => .gatherIndex) fun _ => .pure

theorem KeepsMem.checkSources {h n d b} : KeepsMem (checkSources h n d b) :=
  .forM fun _ => by
    split
    · exact .pure
    · exact .pure
    · exact .ite (.bind .gatherRange fun _ => .bind (.forM fun _ => .bind .srcPoint fun _ => .pure) fun _ => .checkBox) .checkBox

theorem KeepsMem.computeBox {h n b inUse} : KeepsMem (computeBox h n b inUse) :=
  .bind .liveNode fun _ => .bind .checkSources fun _ => .bind (.ite (.bind .stageFits fun _ => .late .faultIf) .pure) fun _ =>
    .bind .newBox fun _ => .bind .liveNode fun _ => .bind (.ite .stage .pure) fun _ => .bind (.mapM fun _ => .computeElem) fun _ =>
      .bind .homeGroup fun _ => .bind .homeWho fun _ => .bind (.late .writeRun) fun _ => .bind .reportBox fun _ => .bind .addBox fun _ =>
        .pure

theorem KeepsMem.copyBox {h n x b inUse} : KeepsMem (copyBox h n x b inUse) :=
  .bind .liveNode fun _ => .bind (.mapM fun _ => .late .boxRead) fun _ => .bind .newBox fun _ => .bind .homeGroup fun _ =>
    .bind .homeWho fun _ => .bind (.late .writeRun) fun _ => .bind .addBox fun _ => .pure

theorem KeepsMem.keepBefore {α : Type} {x : X α} (hx : KeepsMem x) : KeepsMem (keepBefore x) :=
  ⟨fun _ hs => by
    unfold Machine.keepBefore
    split
    · exact .trapKept hs
    · exact hs.result hx⟩

theorem KeepsMem.commandRoom {c timed} : KeepsMem (commandRoom c timed) := .get fun _ _ => .waitIf

theorem KeepsMem.walkerTurn {h} : KeepsMem (walkerTurn h) := .bind .commandRoom fun _ => .bind .homeGroup fun _ => .get fun _ _ => .waitIf

theorem KeepsMem.matNode {h need p n} : KeepsMem (matNode h need p n) :=
  .keepBefore (.bind .liveNode fun _ => by
    split
    · exact .pure
    · split
      · exact .pure
      · split
        · exact .bind .walkerTurn fun _ => .bind .copyBox fun _ => .pure
        · exact .bind (.ite .walkerTurn .pure) fun _ => .bind .computeBox fun _ => .pure)

theorem KeepsMem.matAll {h need p} : KeepsMem (matAll h need p) := .bind .homeGroup fun _ => .foldlM fun _ _ => .matNode

theorem KeepsMem.needs {h} {f : Nat} {a n} : KeepsMem (needs h f a n) := by
  induction f generalizing a n with
  | zero => exact .pure
  | succ f ih =>
    refine .bind .liveNode fun d => ?_
    split
    · exact .pure
    · extract_lets pts grow
      have hgrow (a : SMap Span4 × Progress) (s : Nat) (r : Span4) : KeepsMem (grow a s r) :=
        .bind .liveNode fun _ => .ite .pure (by
          split
          · exact ih
          · exact .ite .pure ih)
      clear_value grow
      refine .foldlM fun _ _ => .ite (.bind ?_ fun _ => ?_) ?_
      · split
        · exact .bind (hgrow ..) fun _ => .bind .matAll fun _ => .pure
        · exact .pure
        · exact .pure
      · split
        · exact .bind (.keepBefore .gatherRange) fun _ => hgrow ..
        · exact .pure
        · exact .pure
      · split
        · exact hgrow ..
        · exact .pure
        · exact .pure

theorem KeepsMem.zeroWalkerRows {h} : KeepsMem (zeroWalkerRows h) := .bind .homeGroup fun _ => .modify fun _ hs => hs.chipWrite

theorem KeepsMem.takeIds {h} : KeepsMem (takeIds h) := .bind .homeGroup fun _ => .modify fun _ hs => hs

theorem KeepsMem.demand {h n b} : KeepsMem (demand h n b) :=
  .bind .needs fun _ => .bind .matAll fun _ => .bind .zeroWalkerRows fun _ => .bind (.ite .takeIds .pure) fun _ => .bind .liveNode fun _ =>
    by
    split
    · exact .pure
    · exact .fault

theorem KeepsMem.forceFull {h n} : KeepsMem (forceFull h n) := .bind .liveNode fun _ => .bind .demand fun _ => .onTile

/-! ### Aliasing forces (R191, R192) -/

theorem KeepsMem.aliasCheck {h ws} : KeepsMem (aliasCheck h ws) :=
  .bind .homeGroup fun _ => .forM fun _ => .bind .homeGroup fun _ => by
    dsimp only
    split
    · exact .pure
    · exact .ite .pure (.bind .forceFull fun _ => .onTile)

theorem KeepsMem.storing {ws} {write : X Unit} (hw : KeepsMem write) : KeepsMem (storing ws write) :=
  .bind .me fun _ => by
    split
    · exact hw
    · refine .get fun s hs => ?_
      split
      · exact .trap
      · exact .wait
      next h => exact .ask fun _ => hs.asked h hw
      · exact .halt
      · exact .bind .aliasCheck fun _ => hw
      · exact .bind .aliasCheck fun _ => hw

end Sys2Proof.Machine
end

section
/-! PROOFS. Every step keeps memory's canonical form (O60), IV: scalar instructions, fetch, logs, queues and barriers. -/

namespace Sys2Proof.Machine

open Sys2Proof

/-! ### The frames of scalar instructions -/

theorem NextOk.alu2 {f : Word → Word → Word} {d a b} {s : State} (hs : s.MemOk) : NextOk (alu2 f d a b s) :=
  .instr .noPre (fun _ => .seqBody fun _ => .writeDst) hs

theorem NextOk.alu1 {f : Word → Word} {d a} {s : State} (hs : s.MemOk) : NextOk (alu1 f d a s) :=
  .instr .noPre (fun _ => .seqBody fun _ => .writeDst) hs

theorem NextOk.aluD {f : Word → Word → Word} {d a} {s : State} (hs : s.MemOk) : NextOk (aluD f d a s) :=
  .instr .noPre (fun _ => .seqBody fun _ => .writeDst) hs

/-! ### Pointers -/

theorem KeepsMem.makePtr {sp off c} : KeepsMem (makePtr sp off c) := by
  unfold Machine.makePtr
  split <;> exact .ite .fault .pure

/-! ### Scalar memory -/

theorem KeepsMem.scalarChecks {ea n maxSpace} : KeepsMem (scalarChecks ea n maxSpace) :=
  .bind .faultIf fun _ => .bind .faultIf fun _ => .bind .me fun _ => .get fun _ _ => .waitIf

theorem KeepsMem.storeNat {ea n v a} : KeepsMem (storeNat ea n v a) := .bind .whoami fun _ => .storing .memWriteNat

theorem KeepsMem.acquireRoot {scope ea} : KeepsMem (acquireRoot scope ea) :=
  .ite (.bind .whoami fun _ => .bind .translate fun _ => .modify fun _ hs => by
    split <;> exact hs) .pure

theorem NextOk.atomic {scope ord srcs} {f : Word → List Word → Option Word} {d} {s : State} (hs : s.MemOk) :
    NextOk (atomic scope ord srcs f d s) :=
  .instr .noPre (fun _ => .seqBody fun _ => .bind .scalarChecks fun _ => .iteThen .performed fun _ => .iteThen .acquireRoot fun _ =>
    .bind .whoami fun _ => .bind .memReadNat fun _ => by
    extract_lets rest
    have hrest (u) : KeepsMem (rest u) := .writeDst
    split
    · exact hrest ()
    · exact .bind .storeNat hrest) hs

theorem NextOk.atom1 {f : Word → Word → Word} {scope ord d a b} {s : State} (hs : s.MemOk) : NextOk (atom1 f scope ord d a b s) :=
  .atomic hs

/-! ### Control flow -/

theorem NextOk.branch {taken : Word → Word → Bool} {a b t} {s : State} (hs : s.MemOk) : NextOk (branch taken a b t s) :=
  .instr .noPre (fun _ => .pure) hs

/-! ### Lines and arrival -/

theorem State.MemOk.lineFill {s : State} {w va ws} (hs : s.MemOk) : (s.lineFill w va ws).MemOk := by
  unfold State.lineFill
  split
  · exact hs
  · exact hs.onCore

theorem KeepsMem.fetchLine {w va} : KeepsMem (fetchLine w va) :=
  .get fun _ hs => by
    split
    · exact .bind (.set hs.lineFill) fun _ => .pure
    · exact .bind .faultIf fun _ => .bind .translate fun _ => .get fun _ _ => .bind .physRead fun _ => .bind .faultIf fun _ =>
        .bind (.modify fun _ hs2 => hs2.lineFill) fun _ => .pure

theorem State.MemOk.prefetch {s : State} {w line va} (hs : s.MemOk) : (s.prefetch w line va).MemOk :=
  .ite hs (by
    split
    · exact hs
    · exact hs
    · exact .ite (by
        split
        next h2 => exact hs.runs h2 .fetchLine
        · exact hs) hs)

theorem KeepsMem.arrive : KeepsMem arrive :=
  .bind .me fun _ => .bind .faultIf fun _ => .iteBind .fetchLine .pure fun _ => .bind .faultIf fun _ => .bind .faultIf fun _ =>
    .bind .faultIf fun _ => .bind .faultIf fun _ => .bind (.modify fun _ hs => .ite hs.onRole.prefetch hs.onRole) fun _ => .pure

/-! ### LOOP -/

theorem KeepsMem.loopSkip {w k stop} : KeepsMem (loopSkip w k stop) :=
  .bind (.attempt (.bind .faultIf fun _ => .iteBind .pure .fetchLine fun _ => .bind .faultIf fun _ => .bind .faultIf fun _ =>
    .pure)) fun _ => by
    split <;> exact .pure

/-! ### SYS -/

theorem NextOk.trapWith {cause code} {s : State} (hs : s.MemOk) : NextOk (trapWith cause code s) := .instr .noPre (fun _ => .pure) hs

/-! ### Parking -/

theorem State.MemOk.onLat {s : State} {lat slot} {f : LatSlot → LatSlot} (hs : s.MemOk) : (s.onLat lat slot f).MemOk := hs

theorem State.MemOk.onStream {s : State} {lat slot} {f : Stream → Stream} (hs : s.MemOk) : (s.onStream lat slot f).MemOk := hs.onLat

theorem State.MemOk.atEdge {s : State} {lat slot} (hs : s.MemOk) : (s.atEdge lat slot).MemOk := hs.onLat

theorem State.MemOk.askStreams {s : State} {which : Stream → Bool} {f : Stream → Stream} (hs : s.MemOk) : (s.askStreams which f).MemOk :=
  hs.foldl fun _ _ ht => by
    split
    · exact ht
    · exact .ite ht.onStream.atEdge ht

theorem State.MemOk.parkStreams {s : State} {x} (hs : s.MemOk) : (s.parkStreams x).MemOk := hs.askStreams

/-! ### Logs -/

theorem State.MemOk.onGroupsOf {s : State} {x} {f : Group → Group} (hs : s.MemOk) : (s.onGroupsOf x f).MemOk := hs

theorem State.MemOk.suspendCtx {s : State} {x} (hs : s.MemOk) : (s.suspendCtx x).MemOk := hs.onGroupsOf.onCtx

theorem State.MemOk.diverge {s : State} {x} (hs : s.MemOk) : (s.diverge x).MemOk := .ite hs.onCtx.suspendCtx.parkStreams hs.onCtx

theorem KeepsMem.logAppend {x kind core id data} : KeepsMem (logAppend x kind core id data) :=
  .get fun _ _ => .bind .waitIf fun _ => .bind .rawWrite fun _ => .modify fun _ hs1 => hs1.onCtx

theorem State.MemOk.logTake {s : State} {x kind r} (hs : s.MemOk) : (s.logTake x kind r).MemOk := hs.onCtx

theorem KeepsMem.logEvent {x kind core id data} : KeepsMem (logEvent x kind core id data) :=
  .get fun _ hs => .ite .logAppend (by
    split
    · exact .set hs.diverge
    · exact .set (.ite hs.logTake hs.diverge))

/-! ### Queues -/

theorem KeepsMem.checkDesignator {q kind} : KeepsMem (checkDesignator q kind) := .faultIf

theorem KeepsMem.needPort {p push} : KeepsMem (needPort p push) := .bind .me fun _ => .faultIf

theorem KeepsMem.myQueue {p} : KeepsMem (myQueue p) := .bind .me fun _ => .pure

theorem KeepsMem.bindPort {p b} : KeepsMem (bindPort p b) := .bind .me fun _ => .modify fun _ hs => hs.leaveQueues.onRole

theorem NextOk.execQbind {d a p push unbind} {s : State} (hs : s.MemOk) : NextOk (execQbind d a p push unbind s) :=
  .instr .noPre (fun _ => .seqBody fun _ => .ite (.bind .bindPort fun _ => .writeDst) (.bind .me fun _ => .get fun _ _ =>
    .bind .checkDesignator fun _ => by
    split
    · exact .writeDst
    · exact .ite .writeDst (.bind .bindPort fun _ => .writeDst))) hs

theorem NextOk.execQtry {d a p} {s : State} (hs : s.MemOk) : NextOk (execQtry d a p s) :=
  .instr .needPort (fun _ => .seqBody fun _ => .bind .myQueue fun _ => .get fun _ _ => .ite .writeDst (.bind .whoami fun _ =>
    .bind .queuePop fun _ => .bind .writeDst fun _ => .writeDst)) hs

theorem NextOk.execQpusht {d a p} {s : State} (hs : s.MemOk) : NextOk (execQpusht d a p s) :=
  .instr .needPort (fun _ => .seqBody fun _ => .bind .myQueue fun _ => .get fun _ _ => .ite .writeDst (.bind .performed fun _ =>
    .bind .whoami fun _ => .bind .queuePush fun _ => .writeDst)) hs

theorem NextOk.execQcreate {d a} {s : State} (hs : s.MemOk) : NextOk (execQcreate d a s) :=
  .instr .noPre (fun _ => .seqBody fun _ => .bind .me fun _ => .bind .whoami fun _ => .bind .checkDesignator fun _ =>
    .bind .memReadBytes fun _ => .get fun _ _ => by
    dsimp only
    split
    · exact .writeDst
    · split
      · exact .writeDst
      · exact .ite .writeDst (.bind (.modify fun _ hs2 => hs2.onCtx) fun _ => .writeDst)) hs

theorem KeepsMem.bindqBack {w b} : KeepsMem (bindqBack w b) := .bind .memWriteNat fun _ => .memWriteNat

theorem NextOk.execQdel {d a} {s : State} (hs : s.MemOk) : NextOk (execQdel d a s) :=
  .instr .noPre (fun _ => .seqBody fun _ => .bind .me fun _ => .bind .whoami fun _ => .bind .checkDesignator fun _ =>
    .bind .memReadBytes fun _ => .get fun _ _ => by
    split
    · exact .writeDst
    · exact .ite .writeDst (.bind .bindqBack fun _ => .bind (.modify fun _ hs2 => hs2.onCtx) fun _ => .writeDst)) hs

/-! ### Notify queues -/

theorem KeepsMem.openNotify {w q r} : KeepsMem (openNotify w q r) :=
  .bind .checkDesignator fun _ => .bind .faultIf fun _ => .bind .faultIf fun _ => .bind .translate fun _ => .bind .faultIf fun _ =>
    .bind .memReadBytes fun _ => .bind .faultIf fun _ => .bind .translate fun _ => .bind .faultIf fun _ => .bind .faultIf fun _ => .pure

theorem KeepsMem.checkRing {w n i} : KeepsMem (checkRing w n i) :=
  .forM fun _ => .bind .faultIf fun _ => .bind .translate fun _ => .faultIf

theorem KeepsMem.lockedStep {α : Type} {w n} {x : X α} (hx : KeepsMem x) : KeepsMem (lockedStep w n x) :=
  .get fun _ _ => .bind .waitIf fun _ => .bind .memWriteNat fun _ => .bind hx fun _ => .bind .memWriteNat fun _ => .pure

theorem NextOk.execNqpost {d a b} {s : State} (hs : s.MemOk) : NextOk (execNqpost d a b s) :=
  .instr .noPre (fun _ => .seqBody fun _ => .bind .whoami fun _ => .bind .openNotify fun _ => .bind .checkRing fun _ =>
    .bind .memReadBytes fun _ => .bind .waitIf fun _ => .bind .performed fun _ => .get fun _ _ =>
      .bind (.lockedStep (.bind .memWriteBytes fun _ => .bind .memWriteNat fun _ => .memWriteNat)) fun _ => .writeDst) hs

theorem KeepsMem.putRecord {d r bytes res bad} : KeepsMem (putRecord d r bytes res bad) :=
  .bind .me fun _ => .bind .whoami fun _ => .get fun _ hs => .bind (.attempt (.storing (.bind .resolve fun _ => .bind .waitIf fun _ =>
    .bind .writePlace fun _ => .ite .losePlace .pure))) fun _ => by
    split
    · exact .trapKept hs.onRole
    · exact .bind (.modify fun _ hs1 => hs1.onRole) fun _ => .writeDst

theorem KeepsMem.takePosition {w q n} : KeepsMem (takePosition w q n) :=
  .get fun _ _ => .ite .pure (by
    split
    · exact .pure
    · exact .ite .pure (.bind .waitIf fun _ => .bind .checkRing fun _ => .bind .memReadNat fun _ => .ite .pure (.bind (.modify fun _ hs1 =>
        hs1.logTake) fun _ => .pure)))

theorem KeepsMem.takeRecord {w n i} : KeepsMem (takeRecord w n i) :=
  .bind .checkRing fun _ => .bind (.lockedStep (.bind .resolve fun _ => .bind .readPlace fun _ => .bind .memReadNat fun _ =>
    .bind .memWriteNat fun _ => .pure)) fun _ => .bind .acquireRoot fun _ => .pure

theorem NextOk.notifyTake {waits d a b} {s : State} (hs : s.MemOk) : NextOk (notifyTake waits d a b s) :=
  .instr .noPre (fun _ => .bind .me fun _ => .bind .whoami fun _ => by
    dsimp only
    split
    · exact .bind .putRecord fun _ => .pure
    · exact .bind .openNotify fun _ => .bind .takePosition fun _ => by
        split
        · exact .bind .waitIf fun _ => .bind .writeDst fun _ => .pure
        · exact .bind (.modify fun _ hs1 => hs1.diverge) fun _ => .pure
        · exact .bind .takeRecord fun _ => .get fun _ _ => .iteElse .logAppend fun _ => .bind .putRecord fun _ => .pure) hs

/-! ### Barriers -/

theorem State.MemOk.setBar {s : State} {c p b} (hs : s.MemOk) : (s.setBar c p b).MemOk := hs.onCore

theorem KeepsMem.checkBar {id} : KeepsMem (checkBar id) :=
  .bind .me fun _ => .get fun _ _ => .bind .faultIf fun _ => .bind .faultIf fun _ => .bind .faultIf fun _ => .bind .faultIf fun _ => .pure

theorem NextOk.execBinit {d a b} {s : State} (hs : s.MemOk) : NextOk (execBinit d a b s) :=
  .instr .noPre (fun _ => .seqBody fun _ => .bind .me fun _ => by
    dsimp only
    split
    · exact .fault
    · exact .bind .faultIf fun _ => .get fun _ hs1 => .bind (.set hs1.setBar) fun _ => .writeDst) hs

theorem NextOk.bsyncArrive {d a} {s : State} (hs : s.MemOk) : NextOk (bsyncArrive d a s) :=
  .instr .noPre (fun _ => .bind .me fun _ => .bind .checkBar fun _ => .bind .performed fun _ => .bind (.modify fun _ hs1 =>
    hs1.setBar) fun _ => .ite (.bind .writeDst fun _ => .pure) (.bind (.modify fun _ hs1 => hs1.onRole) fun _ => .pure)) hs

theorem NextOk.bsyncWait {t d a} {s : State} (hs : s.MemOk) : NextOk (bsyncWait t d a s) :=
  .instr .noPre (fun _ => .seqBody fun _ => .bind .me fun _ => .bind (.attempt .checkBar) fun _ => by
    split
    · exact .get fun _ hs1 => .trapKept hs1.onRole
    · exact .bind .waitIf fun _ => .bind (.modify fun _ hs1 => hs1.onRole) fun _ => .writeDst) hs

theorem NextOk.execBsync {d a} {s : State} (hs : s.MemOk) : NextOk (execBsync d a s) := by
  unfold Machine.execBsync
  split
  · exact .bsyncArrive hs
  · exact .bsyncWait hs

theorem State.MemOk.releaseBars {s : State} {c bars} (hs : s.MemOk) : (s.releaseBars c bars).MemOk := hs.foldl fun _ _ ht => ht.setBar

end Sys2Proof.Machine
end

section
/-! PROOFS. Every step keeps memory's canonical form (O60), V: the vector unit, the matrix array, calendars. -/

namespace Sys2Proof.Machine

open Sys2Proof

/-! ### Vector instructions -/

theorem KeepsMem.vecBVals {o vs signed} : KeepsMem (vecBVals o vs signed) := by
  unfold Machine.vecBVals
  dsimp only
  split
  · exact .bind .readElems fun _ => .pure
  · exact .pure
  · exact .pure

theorem KeepsMem.vecWriteBack {o rs} : KeepsMem (vecWriteBack o rs) := .bind .writeElems fun _ => .ite .writeElems .pure

theorem NextOk.vecElem {g signed immFlags o} {s : State} (hs : s.MemOk) : NextOk (vecElem g signed immFlags o s) :=
  .instr .needRows (fun _ => .seqBody fun _ => .bind .rowsReady fun _ => .bind .me fun _ => .bind .readElems fun _ =>
    .bind .readElems fun _ => .bind .vecBVals fun _ => .bind .vecWriteBack fun _ => .reportVector) hs

theorem NextOk.vecUnary {f : Nat → Nat × Flags} {o} {s : State} (hs : s.MemOk) : NextOk (vecUnary f o s) :=
  .instr .needRows (fun _ => .seqBody fun _ => .bind .rowsReady fun _ => .bind .me fun _ => .bind .readElems fun _ =>
    .bind .vecWriteBack fun _ => .reportVector) hs

theorem NextOk.execVcvt {o} {s : State} (hs : s.MemOk) : NextOk (execVcvt o s) :=
  .instr .needRows (fun _ => .seqBody fun _ => .bind .rowsReady fun _ => .bind .me fun _ => .bind .readElems fun _ =>
    .bind .writeElems fun _ => .iteThen .writeElems fun _ => .reportVector) hs

theorem NextOk.vecFill {o} {f : List Word → Nat → Nat × Flags} {s : State} (hs : s.MemOk) : NextOk (vecFill o f s) :=
  .instr .needRows (fun _ => .seqBody fun _ => .bind .rowsReady fun _ => .bind .me fun _ => .bind .vecWriteBack fun _ => .reportVector) hs

theorem NextOk.vecReduce {f : List Nat → Nat × Flags} {o} {s : State} (hs : s.MemOk) : NextOk (vecReduce f o s) :=
  .instr .needRows (fun _ => .seqBody fun _ => .bind .rowsReady fun _ => .bind .me fun _ => .bind .readElems fun _ =>
    .bind .writeElems fun _ => .reportVector) hs

/-! ### Generators in registers -/

theorem KeepsMem.setGenOnGroupOf {f : Group → Group} : KeepsMem (setGen.onGroupOf f) := .bind .me fun _ => .modify fun _ hs => hs.onGroup

theorem KeepsMem.setGen {i v} : KeepsMem (setGen i v) := .setGenOnGroupOf

theorem KeepsMem.genAccess {p} : KeepsMem (genAccess p) := .bind .lowSpace fun _ => .faultIf

theorem NextOk.execGadv {g a ax} {s : State} (hs : s.MemOk) : NextOk (execGadv g a ax s) :=
  .instr .noPre (fun _ => .seqBody fun _ => .bind .me fun _ => .bind .faultIf fun _ => .bind .faultIf fun _ => .ite .setGen (by
    split
    · exact .fault
    · exact .setGen)) hs

/-! ### The frame of R147 -/

theorem KeepsMem.checkElems {g es} : KeepsMem (checkElems g es) :=
  .bind .faultIf fun _ => .forM fun _ => .bind .lowSpace fun _ => .ite .lowSpace .pure

theorem KeepsMem.vmGen {o} {accept : Nat → Bool} : KeepsMem (vmGen o accept) := .bind .me fun _ => .bind .faultIf fun _ => .pure

theorem NextOk.execVld {o} {s : State} (hs : s.MemOk) : NextOk (execVld o s) :=
  .instr .needRows (fun _ => .seqBody fun _ => .bind .vmGen fun _ => .bind .me fun _ => .bind .checkElems fun _ => .bind .faultIf fun _ =>
    .bind .rowsReady fun _ => .bind .whoami fun _ => .bind (.mapM fun _ => .faultsAt .walk4Read) fun _ => .writeElems) hs

theorem NextOk.execVst {o} {s : State} (hs : s.MemOk) : NextOk (execVst o s) :=
  .instr .needRows (fun _ => .seqBody fun _ => .bind .vmGen fun _ => .bind .me fun _ => .bind .checkElems fun _ => .bind .faultIf fun _ =>
    .bind .rowsReady fun _ => .bind .whoami fun _ => .bind .readElems fun _ => .bind (.storing (.forM fun _ =>
      .faultsAt .walk4Write)) fun _ => .reportVector) hs

theorem KeepsMem.walk4ValueOf {g w e} : KeepsMem (Walk4.valueOf g w e) :=
  .bind (.faultsAt .walk4Read) fun _ => .bind .walk4ReadScale fun _ => .pure

theorem NextOk.execVlds {o} {s : State} (hs : s.MemOk) : NextOk (execVlds o s) :=
  .instr .needRows (fun _ => .seqBody fun _ => .bind .vmGen fun _ => .bind .me fun _ => .bind .checkElems fun _ => .bind .faultIf fun _ =>
    .bind .rowsReady fun _ => .bind .whoami fun _ => .bind (.mapM fun _ => .walk4ValueOf) fun _ => .bind .writeElems fun _ =>
      .reportVector) hs

theorem KeepsMem.writeBlocks {g w a xs} : KeepsMem (writeBlocks g w a xs) :=
  .forM fun _ => by
    split
    · exact .pure
    · exact .bind (.forM fun _ => .walk4Write) fun _ => .memWriteNat

theorem KeepsMem.storeScaled {g w a xs} : KeepsMem (storeScaled g w a xs) :=
  ⟨fun _ hs => by
    unfold Machine.storeScaled
    split
    next h =>
      exact hs.stops h (.forM fun _ => .bind (.faultsAt .walk4Write) fun _ => by
        split
        · exact .pure
        · exact .memWriteNat)
    · exact hs.result .writeBlocks⟩

theorem KeepsMem.execVstsReportStored {d t fmtD rs} : KeepsMem (execVsts.reportStored d t fmtD rs) :=
  .bind .me fun _ => .modify fun _ hs => hs.onGroup

theorem NextOk.execVsts {o} {s : State} (hs : s.MemOk) : NextOk (execVsts o s) :=
  .instr .needRows (fun _ => .seqBody fun _ => .bind .vmGen fun _ => .bind .me fun _ => .bind .checkElems fun _ => .bind .faultIf fun _ =>
    .bind .rowsReady fun _ => .bind .whoami fun _ => .bind .readElems fun _ => .bind (.storing .storeScaled) fun _ =>
      .execVstsReportStored) hs

/-! ### Gather and scatter -/

theorem KeepsMem.gathElems {o a n} : KeepsMem (gathElems o a n) := .bind .readElems fun _ => .pure

theorem NextOk.execVgath {o} {s : State} (hs : s.MemOk) : NextOk (execVgath o s) :=
  .instr .needRows (fun _ => .seqBody fun _ => .bind .vmGen fun _ => .bind .rowsReady fun _ => .bind .me fun _ => .bind .gathElems fun _ =>
    .bind .checkElems fun _ => .bind .whoami fun _ => .bind (.mapM fun _ => .faultsAt .walk4Read) fun _ => .writeElems) hs

theorem NextOk.execVscat {o} {s : State} (hs : s.MemOk) : NextOk (execVscat o s) :=
  .instr .needRows (fun _ => .seqBody fun _ => .bind .vmGen fun _ => .bind .rowsReady fun _ => .bind .me fun _ => .bind .gathElems fun _ =>
    .bind .checkElems fun _ => .bind .whoami fun _ => .bind .readElems fun _ => .storing (.forM fun _ => .faultsAt .walk4Write)) hs

/-! ### Bitmask and values -/

theorem KeepsMem.packAddr {o a} : KeepsMem (packAddr o a) :=
  .bind .me fun _ => .bind .faultIf fun _ => .bind .lowSpace fun _ => .bind .faultIf fun _ => .pure

theorem NextOk.execVpack {o} {s : State} (hs : s.MemOk) : NextOk (execVpack o s) :=
  .instr .needRows (fun _ => .seqBody fun _ => .bind .packAddr fun _ => .bind .rowsReady fun _ => .bind .me fun _ =>
    .ite .pure (.bind .readElems fun _ => .bind .faultIf fun _ => .bind .whoami fun _ => .storing .writeRun)) hs

theorem NextOk.execVunpk {o} {s : State} (hs : s.MemOk) : NextOk (execVunpk o s) :=
  .instr .needRows (fun _ => .seqBody fun _ => .bind .packAddr fun _ => .bind .whoami fun _ => .bind .readRun fun _ =>
    .bind .faultIf fun _ => .bind .faultIf fun _ => .bind .faultIf fun _ => .bind .readRun fun _ => .bind .faultIf fun _ =>
      .bind .rowsReady fun _ => .bind .me fun _ => .writeElems) hs

/-! ### Operands -/

theorem KeepsMem.rowsWithin {rows first count} : KeepsMem (rowsWithin rows first count) := .faultIf

theorem KeepsMem.mmaShape {a o desc maxM} : KeepsMem (mmaShape a o desc maxM) :=
  .bind .faultIf fun _ => by
    split
    · exact .fault
    · exact .bind .faultIf fun _ => .bind .faultIf fun _ => .bind .faultIf fun _ => .bind .faultIf fun _ => .pure

theorem KeepsMem.checkScratch {w xs} : KeepsMem (checkScratch w xs) :=
  .bind (.filterMapM fun _ => .bind (.attempt (.bind .faultIf fun _ => .readRun)) fun _ => by
    split <;> exact .pure) fun _ => by
    split
    · exact .pure
    · exact .fault

theorem KeepsMem.aLine {w sh o gbBase i} : KeepsMem (aLine w sh o gbBase i) :=
  .bind (.mapM fun _ => .walk4Value) fun _ => .ite (.bind .readRun fun _ => .pure) .pure

theorem KeepsMem.slabsReady {w core slab b} : KeepsMem (slabsReady w core slab b) := .get fun _ _ => .waitIf

theorem KeepsMem.mmaOuts {a sh o row0 rows} : KeepsMem (mmaOuts a sh o row0 rows) :=
  .bind .faultIf fun _ => .bind .checkScratch fun _ => .bind .slabsReady fun _ => .bind (.mapM fun _ => .aLine) fun _ => .get fun _ _ =>
    .pure

theorem KeepsMem.ownSource {o} : KeepsMem (ownSource o) := .bind .me fun _ => .pure

theorem KeepsMem.arrayRoom {c} : KeepsMem (arrayRoom c) := .get fun _ _ => .waitIf

theorem KeepsMem.arrayIssue {c e} : KeepsMem (arrayIssue c e) := .modify fun _ hs => hs.onCore

theorem NextOk.mma {fresh o} {s : State} (hs : s.MemOk) : NextOk (mma fresh o s) :=
  .instr .noPre (fun _ => .seqBody fun _ => .bind .me fun _ => .bind .ownSource fun _ => .bind .mmaShape fun _ =>
    .bind .rowsWithin fun _ => .bind .mmaOuts fun _ => .bind .arrayRoom fun _ => .arrayIssue) hs

/-! ### The result stage -/

theorem State.MemOk.applyRows {c e} {f i : Nat} {outs : List OutVal} {s : State} (hs : s.MemOk) : (applyRows c e f i outs s).MemOk := by
  induction f generalizing i outs s with
  | zero => exact hs
  | succ f ih =>
    unfold Machine.applyRows
    split
    · exact hs
    · exact ih hs.chipWrite.onGroup

theorem State.MemOk.onCmd {s : State} {c seq} {f : Cmd → Cmd} (hs : s.MemOk) : (s.onCmd c seq f).MemOk := hs.onCore

theorem State.MemOk.retireCmd {s : State} {c seq} (hs : s.MemOk) : (s.retireCmd c seq).MemOk := by
  unfold State.retireCmd
  split
  · exact hs
  · exact hs.onGroup.onCore

theorem NextOk.execMatrixResultStage {c} {s : State} (hs : s.MemOk) : NextOk (execMatrixResultStage c s) := by
  unfold Machine.execMatrixResultStage
  split
  · exact .next hs
  · extract_lets s1 s2
    have hs1 : s1.MemOk := hs.onCore
    have hs2 : s2.MemOk := by
      unfold s2
      split
      · exact hs1
      · exact .ite hs1 hs1.onGroup.applyRows
    refine .next ?_
    split
    · exact hs2
    · exact hs2.onCmd

/-! ### MMAC -/

theorem State.MemOk.partMates {s : State} {g} (hs : s.MemOk) : (s.partMates g).MemOk := hs

theorem KeepsMem.mmacSide {o desc} : KeepsMem (mmacSide o desc) :=
  .bind .me fun _ => .bind .faultIf fun _ => .bind .ownSource fun _ => .bind .mmaShape fun _ => .bind .rowsWithin fun _ => .pure

theorem KeepsMem.mmacGone {g} : KeepsMem (mmacGone g) := .faultIf

theorem KeepsMem.mmacPartner {me_ g q} : KeepsMem (mmacPartner me_ g q) :=
  .get fun _ _ => by
    split
    · exact .wait
    · split
      · exact .wait
      · exact ⟨fun _ hs1 => by
          split
          next h2 => exact .of_eq (.runs h2 (.bind .checkMisuse fun _ => .bind .readSrcs fun _ => .mmacSide) (.of_eq hs1 rfl rfl)) rfl rfl
          · exact trivial
          next h2 => exact (State.MemOk.of_eq hs1 rfl rfl).stops h2 (.bind .checkMisuse fun _ => .bind .readSrcs fun _ => .mmacSide)⟩

theorem KeepsMem.faultAll {xs t} : KeepsMem (faultAll xs t) := .bind (.forM fun _ => .modify fun _ hs => hs.takeFault) fun _ => .pure

theorem KeepsMem.mmacIssue {self p} : KeepsMem (mmacIssue self p) :=
  .get fun _ _ => by
    split
    · exact .pure
    · exact .bind .arrayIssue fun _ => .bind (.modify fun _ hs1 => hs1.onGroup) fun _ => .ite .pure (.modify fun _ hs1 => hs1.onRole)

theorem KeepsMem.mmacResults {self xs} : KeepsMem (mmacResults self xs) :=
  .bind (.forM fun _ => by
    split
    · exact .ite .trap .pure
    · exact .pure) fun _ => .mapM fun _ => by
    split
    · exact .wait
    · exact .pure

theorem NextOk.execMmac {o} {s : State} (hs : s.MemOk) : NextOk (execMmac o s) :=
  .instr .noPre (fun _ => .bind .mmacSide fun _ => .bind .me fun _ => .bind .mmacGone fun _ => .bind (.mapM fun _ =>
    .ite .pure .mmacPartner) fun _ => .bind (.forM fun _ => .arrayRoom) fun _ => .ite .faultAll (.bind (.mapM fun _ =>
      .attempt .mmaOuts) fun _ => by
    split
    · exact .faultAll
    · exact .bind .mmacResults fun _ => .bind (.forM fun _ => .mmacIssue) fun _ => .pure)) hs

/-! ### BLD -/

theorem KeepsMem.bldShape {core ga o desc} : KeepsMem (bldShape core ga o desc) :=
  .bind .faultIf fun _ => by
    split
    · exact .fault
    · exact .bind .faultIf fun _ => .bind .faultIf fun _ => .bind .faultIf fun _ => .pure

theorem KeepsMem.bldColumn {w g b j} : KeepsMem (bldColumn w g b j) :=
  .bind (.mapM fun _ => .bind .walk4Read fun _ => .pure) fun _ => .bind (.mapM fun _ => .walk4ReadScale) fun _ => .pure

theorem State.MemOk.putColumn {s : State} {core slab b j c} (hs : s.MemOk) : (s.putColumn core slab b j c).MemOk :=
  .ite hs.chipBits.chipWrite.chipBits hs.chipBits.chipWrite

theorem State.MemOk.mixColumn {old : State} {new : State} {core slab b j} (hold : old.MemOk) : (mixColumn old new core slab b j).MemOk :=
  hold.foldl fun _ _ ht => .ite ht.chipWrite ht

theorem KeepsMem.bldColumns {w core slab g b} : KeepsMem (bldColumns w core slab g b) :=
  .bind (.forM fun _ => .bind .lowSpace fun _ => .ite .lowSpace .pure) fun _ => .forM fun _ => .bind .bldColumn fun _ =>
    .modify fun _ hs => hs.putColumn

theorem KeepsMem.bldRun {w core slab g b} : KeepsMem (bldRun w core slab g b) :=
  ⟨fun _ hs => by
    unfold Machine.bldRun
    split
    · exact .trapKept (hs.foldl fun _ _ ht => ht.mixColumn)
    · exact hs.result .bldColumns⟩

/-! ### ZACC and ACVT -/

theorem NextOk.execAcvt {o} {s : State} (hs : s.MemOk) : NextOk (execAcvt o s) :=
  .instr .noPre (fun _ => .seqBody fun _ => .bind .faultIf fun _ => .bind .needRows fun _ => .bind .rowsReady fun _ => .bind .me fun _ =>
    .bind (.mapM fun _ => .readElems) fun _ => .bind (.forM fun _ => .writeElems) fun _ => .modify fun _ hs1 => hs1.onGroup) hs

/-! ### Ports (R375, R376) -/

theorem KeepsMem.streamRead {x b va n} : KeepsMem (streamRead x b va n) :=
  .get fun _ _ => .bind (.attempt .rawRead) fun _ => by
    split <;> exact .pure

/-! ### Binding a walk (R387, R391) -/

theorem KeepsMem.bindCheck {w lat bits out side} : KeepsMem (bindCheck w lat bits out side) :=
  .bind .faultIf fun _ => .bind .faultIf fun _ => .bind .faultIf fun _ => .bind .faultIf fun _ => .bind .faultIf fun _ =>
    .bind (.mapM fun _ => .bind .faultIf fun _ => .bind .translate fun _ => .bind .faultIf fun _ => .bind .faultIf fun _ => .pure) fun _ =>
      .pure

theorem KeepsMem.denseRow {x b row} : KeepsMem (denseRow x b row) :=
  .bind .streamRead fun _ => .bind (.mapM fun _ => .streamRead) fun _ => .pure

theorem KeepsMem.rawRow {x b row} : KeepsMem (rawRow x b row) := .bind .streamRead fun _ => .pure

theorem KeepsMem.formRow {x b row} : KeepsMem (formRow x b row) :=
  .bind .streamRead fun _ => .bind .streamRead fun _ => .ite .pure (.bind .streamRead fun _ => .pure)

theorem KeepsMem.portRow {img x p b row} : KeepsMem (portRow img x p b row) := .ite .rawRow (.ite .formRow .denseRow)

theorem KeepsMem.rowInputs {img x binds row beats} : KeepsMem (rowInputs img x binds row beats) :=
  .bind (.mapM fun _ => by
    split
    · exact .pure
    · exact .portRow) fun _ => .pure

/-! ### Ownership and widths -/

theorem State.MemOk.onPc {s : State} {p} {f : PcStat → PcStat} (hs : s.MemOk) : (s.onPc p f).MemOk := hs

theorem State.MemOk.setLwin {s : State} {x lat w} (hs : s.MemOk) : (s.setLwin x lat w).MemOk := hs

theorem State.MemOk.recheckWindows {s : State} {lat} (hs : s.MemOk) : (s.recheckWindows lat).MemOk := hs.foldl fun _ _ ht => .ite ht ht

/-! ### Atoms -/

theorem State.MemOk.issueAtom {s t : State} {c pc} (hs : s.MemOk) (h : s.issueAtom c pc = some t) : t.MemOk := by
  unfold State.issueAtom at h
  split at h
  · cases h
  · split at h
    · cases h
    · cases h
      exact hs

/-! ### Rotations -/

theorem State.MemOk.applyCalendar {s : State} {pc} (hs : s.MemOk) : (s.applyCalendar pc).MemOk := hs

theorem State.MemOk.onStreamsOf {s : State} {lat} {f : Stream → Stream} (hs : s.MemOk) : (s.onStreamsOf lat f).MemOk := hs

theorem State.MemOk.releaseHolds {s : State} {lat} (hs : s.MemOk) : (s.releaseHolds lat).MemOk := .ite hs hs.onStreamsOf

theorem NextOk.execCalApply {s : State} (hs : s.MemOk) : NextOk (execCalApply s) := .next (.of_eq hs rfl rfl)

theorem NextOk.execCalendarReset {s : State} (hs : s.MemOk) : NextOk (execCalendarReset s) := .next hs

/-! ### Slots -/

theorem State.MemOk.maintain {s : State} {pc} (hs : s.MemOk) : (s.maintain pc).MemOk := by
  unfold State.maintain
  extract_lets s0 s1
  have hs0 : s0.MemOk := by
    unfold s0
    split
    · exact hs
    · exact .ite hs hs
  have hs1 : s1.MemOk := hs0.foldl fun _ _ ht => ht.meetErrors
  split
  · exact hs1
  · exact .ite hs1 hs1

theorem State.MemOk.slotInBurst {s : State} {pc k lat slot} (hs : s.MemOk) : (s.slotInBurst pc k lat slot).MemOk := by
  unfold State.slotInBurst
  split
  · exact hs
  · exact .ite hs hs.onPc.onStreamsOf.onStream

theorem State.MemOk.slotIssue {s t : State} {pc k} (hs : s.MemOk) (h : s.slotIssue pc k = some t) : t.MemOk := by
  unfold State.slotIssue at h
  split at h
  · cases h
  · split at h
    next hi =>
      cases h
      exact hs.issueAtom hi
    · split at h
      · cases h
      · obtain ⟨d, _, hd⟩ := Option.bind_eq_some_iff.mp h
        exact hs.issueAtom hd

theorem NextOk.execCalendarSlot {pc slot} {s : State} (hs : s.MemOk) : NextOk (execCalendarSlot pc slot s) :=
  .ite (.next hs) (.ite (.next hs.onPc.maintain) (by
    split
    · exact .next (.ite hs.onPc.slotInBurst hs.onPc)
    · refine .next ?_
      split
      next h => exact hs.onPc.slotIssue h
      · exact hs.onPc.onPc))

end Sys2Proof.Machine
end

section
/-! PROOFS. Every step keeps memory's canonical form (O60), VI: the engines of copies, tiles and transfers. -/

namespace Sys2Proof.Machine

open Sys2Proof

/-! ### Commands -/

theorem KeepsMem.setCmd {c seq st} : KeepsMem (setCmd c seq st) := .modify fun _ hs => hs.onCmd

/-! ### Status (R331, R336) -/

theorem KeepsMem.cmdReport {k : Cmd} {c : CoreId} {fills : Nat} {errs : Nat} {cause : Nat} : KeepsMem (k.report c fills errs cause) :=
  .modify fun _ hs => hs.onGroup

/-! ### Places (R208 to R211, R228, R338) -/

theorem KeepsMem.srcPlace {k c p n} : KeepsMem (srcPlace k c p n) :=
  .ite (.bind .faultIf fun _ => .bind .translateBy fun _ => .pure) .resolve

theorem KeepsMem.destPlace {k c p n} : KeepsMem (destPlace k c p n) := by
  unfold Machine.destPlace
  split
  · exact .bind .translate fun _ => .get fun _ _ => .bind .faultIf fun _ => .pure
  all_goals exact .resolveDest

theorem KeepsMem.sidePlace {k c dst p n} : KeepsMem (sidePlace k c dst p n) := by
  unfold Machine.sidePlace
  split
  · exact .destPlace
  · exact .srcPlace

theorem KeepsMem.holdAll {k c dst xs hs} : KeepsMem (holdAll k c dst xs hs) :=
  .foldlM fun _ _ => .ite .pure (.bind .sidePlace fun _ => .get fun _ _ => .pure)

theorem KeepsMem.heldPlace {k c dst held p n} : KeepsMem (heldPlace k c dst held p n) := by
  unfold Machine.heldPlace
  split
  · exact .pure
  · exact .sidePlace

theorem State.MemOk.request {s : State} {c seq write atoms} (hs : s.MemOk) : (s.request c seq write atoms).MemOk := hs

/-! ### Source elements (R336) -/

theorem KeepsMem.softPlace {k p n pl} : KeepsMem (softPlace k p n pl) :=
  .get fun _ _ => by
    split
    · exact .pure
    · exact .ite .pure (.bind (.ite (.blockReadWith fun _ _ _ => .softRaw) (.bind .softRaw fun _ => .pure)) fun _ => .pure)

theorem KeepsMem.softRead {k c held p n} : KeepsMem (softRead k c held p n) :=
  .foldlM fun _ _ => .bind .heldPlace fun _ => .bind .softPlace fun _ => .pure

theorem KeepsMem.endRefusals {held xs} : KeepsMem (endRefusals held xs) := .modify fun _ hs => .ite hs hs

theorem KeepsMem.plainElem {rd : Nat → Nat → X (List Byte × List (Nat × Nat))} {g e} (hrd : ∀ u v, KeepsMem (rd u v)) :
    KeepsMem (plainElem rd g e) :=
  .bind (hrd _ _) fun _ => .ite (.bind (hrd _ _) fun _ => .pure) .pure

theorem KeepsMem.lsElem {k e} : KeepsMem (lsElem k e) :=
  .get fun _ _ => by
    dsimp only
    split <;> exact .pure

theorem KeepsMem.srcElem {k c held e} : KeepsMem (srcElem k c held e) := .ite .lsElem (.plainElem fun _ _ => .softRead)

/-! ### What a chunk writes -/

theorem KeepsMem.convertWith {k} {src : Nat → X SrcElem} {same e} (hsrc : ∀ u, KeepsMem (src u)) : KeepsMem (convertWith k src same e) :=
  .bind (hsrc _) fun _ => .ite (.iteBind (hsrc _) .pure fun _ => .pure) (.ite (.bind (.mapM hsrc) fun _ => .pure) .pure)

theorem KeepsMem.movedForm {k es} : KeepsMem (movedForm k es) := .bind .faultIf fun _ => .pure

theorem KeepsMem.chunkMoved {k c chunk held} : KeepsMem (chunkMoved k c chunk held) :=
  .get fun _ _ => .bind (.ite (.ite (.bind (.mapM fun _ => .srcElem) fun _ => .movedForm) .pure) (.bind (.mapM fun _ =>
    .convertWith fun _ => .srcElem) fun _ => .pure)) fun _ => .ite .pure (.bind .endRefusals fun _ => .pure)

/-! ### Writing a chunk -/

theorem KeepsMem.writeThrough {c pa n} {put : X Unit} (hput : KeepsMem put) : KeepsMem (writeThrough c pa n put) :=
  .bind hput fun _ => .modify fun _ hs => hs.foldl fun _ _ ht => by
    split
    · exact ht
    · exact .ite ht.clean ht

theorem KeepsMem.oldOrNew {p bs} {put : Nat → List Byte → X Unit} (hput : ∀ u v, KeepsMem (put u v)) : KeepsMem (oldOrNew p bs put) :=
  .forM fun _ => .get fun _ _ => .ite (.bind (.attempt (hput _ _)) fun _ => .pure) .pure

theorem KeepsMem.onReplicas {p pl} {act : Xlat → Nat → Nat → X Unit} (hact : ∀ u v w, KeepsMem (act u v w)) :
    KeepsMem (onReplicas p pl act) :=
  .get fun _ _ => by
    split
    · exact .fault
    · split
      · exact .fault
      · exact .forM fun _ => hact _ _ _

theorem KeepsMem.mcstWrite {k p bs pl} : KeepsMem (mcstWrite k p bs pl) :=
  .get fun _ _ => .onReplicas fun _ _ _ => .bind (.attempt (.ite (.bind (.oldOrNew fun _ _ => .writeThrough .physWrite) fun _ =>
    .fault) (.writeThrough .physWrite))) fun _ => by
    split
    · exact .pure
    · exact .iteThen (.oldOrNew fun _ _ => .writeThrough .physWrite) fun _ => .get fun _ hs1 => .trapKept hs1

theorem KeepsMem.putBytes {k c held p bs} : KeepsMem (putBytes k c held p bs) :=
  .forM fun _ => .bind .heldPlace fun _ => by
    split
    · exact .mcstWrite
    all_goals exact .ite (.bind (.oldOrNew fun _ _ => .writePlace) fun _ => .cmdReport) (.bind (.attempt .writePlace) fun _ => by
        split
        · exact .pure
        · exact .ite .cmdReport .trap)

theorem KeepsMem.putPiece {k c held x} : KeepsMem (putPiece k c held x) := by
  unfold Machine.putPiece
  split
  · exact .putBytes
  · exact .bind .heldPlace fun _ => .bind .readPlace fun _ => .putBytes

theorem KeepsMem.losePieces {k c held xs} : KeepsMem (losePieces k c held xs) :=
  .forM fun _ => .bind .heldPlace fun _ => by
    split
    · exact .get fun _ _ => .onReplicas fun _ _ _ => .writeThrough .losePhys
    all_goals exact .losePlace

theorem KeepsMem.applyMoved {k c held m} : KeepsMem (applyMoved k c held m) :=
  .bind (.forM fun _ => .putPiece) fun _ => .bind .losePieces fun _ => .bind (.ite .pure .cmdReport) fun _ => .modify fun _ hs => hs.onCmd

/-! ### The course of a command (R328, R329, R337, R338) -/

theorem KeepsMem.releaseLs {k c} : KeepsMem (releaseLs k c) := .modify fun _ hs => .ite hs hs.onLat

theorem KeepsMem.endCmd {k c st} : KeepsMem (endCmd k c st) := .bind .releaseLs fun _ => .setCmd

theorem KeepsMem.holding {k c chunk} {x : X Unit} (hx : KeepsMem x) : KeepsMem (holding k c chunk x) :=
  .bind (.attempt hx) fun _ => by
    split
    · exact .pure
    · exact .endCmd

theorem State.MemOk.afterWrites {s : State} {k c chunk held} (hs : s.MemOk) : (s.afterWrites k c chunk held).MemOk :=
  .ite hs (by
    split
    next h => exact hs.runs h (.bind .chunkMoved fun _ => .applyMoved)
    · exact hs)

theorem KeepsMem.startWrites {k c chunk held} : KeepsMem (startWrites k c chunk held) :=
  .get fun _ hs => .bind (.set hs.request.request) fun _ => .setCmd

theorem KeepsMem.landed {send : Cmd → CoreId → List Hold → X Unit} {k c chunk held} (hsend : ∀ u v w, KeepsMem (send u v w)) :
    KeepsMem (landed send k c chunk held) := by
  unfold Machine.landed
  split
  · exact .startWrites
  · exact .startWrites
  all_goals exact hsend _ _ _

theorem KeepsMem.lsRun {k c chunk} : KeepsMem (lsRun k c chunk) :=
  .get fun _ _ => by
    split
    · exact .fault
    · exact .bind .bindCheck fun _ => .modify fun _ hs1 => hs1.onLat

theorem KeepsMem.startChunk {send : Cmd → CoreId → List Hold → X Unit} {k0 c chunk} (hsend : ∀ u v w, KeepsMem (send u v w)) :
    KeepsMem (startChunk send k0 c chunk) :=
  .get fun _ _ => .bind (.modify fun _ hs1 => hs1.onCmd) fun _ => .holding (.bind .holdAll fun _ => .bind .holdAll fun _ =>
    .ite (.bind .lsRun fun _ => .get fun _ _ => .ite (.landed hsend) .setCmd) (.get fun _ hs1 =>
      .bind (.set hs1.request) fun _ => .ite (.landed hsend) .setCmd))

theorem KeepsMem.lsArrived {c seq} : KeepsMem (lsArrived c seq) :=
  .get fun _ _ => by
    split
    · exact .pure
    · split
      · exact .ite .startWrites .setCmd
      · exact .pure
      · exact .pure
      · exact .pure
      · exact .pure
      · exact .pure
      · exact .pure

/-! ### Squash (R283, R284, R338) -/

theorem KeepsMem.mixPiece {k c held x} : KeepsMem (mixPiece k c held x) := by
  unfold Machine.mixPiece
  split
  · exact .forM fun _ => .bind .heldPlace fun _ => .bind .readPlace fun _ => .get fun _ _ => .putBytes
  · exact .get fun _ _ => .ite .putPiece .pure

theorem KeepsMem.mixMoved {k c held m} : KeepsMem (mixMoved k c held m) :=
  .bind (.forM fun _ => .bind (.attempt .mixPiece) fun _ => .pure) fun _ => .get fun _ _ => .bind (.attempt .losePieces) fun _ => .pure

theorem State.MemOk.dropCmd {s : State} {c k} (hs : s.MemOk) : (s.dropCmd c k).MemOk :=
  .onCore (by
    split
    next h => exact hs.runs h .releaseLs
    · exact hs)

theorem State.MemOk.abandon {moved : Cmd → CoreId → Nat → List Hold → X Moved} {s : State} {c k}
    (hmoved : ∀ u v w y, KeepsMem (moved u v w y)) (hs : s.MemOk) : (State.abandon moved s c k).MemOk := by
  unfold State.abandon
  dsimp only
  split
  next h =>
    exact hs.runs h (by
      split
      · exact .bind (.attempt (.bind (hmoved _ _ _ _) fun _ => .mixMoved)) fun _ => by
          split <;> exact .releaseLs
      · exact .bind (.attempt (.bind (hmoved _ _ _ _) fun _ => .mixMoved)) fun _ => by
          split <;> exact .releaseLs
      all_goals exact .pure)
  · exact hs

/-! ### The follow-on subcommand (R334) -/

theorem KeepsMem.unboarded {α : Type} {c seq} {x : X α} (hx : KeepsMem x) : KeepsMem (unboarded c seq x) :=
  .get fun _ _ => .bind (.modify fun _ hs1 => hs1.onCore) fun _ => .bind hx fun _ => .bind (.modify fun _ hs1 => hs1.onCore) fun _ => .pure

theorem KeepsMem.issueFollow {k c f} : KeepsMem (issueFollow k c f) :=
  .get fun _ _ => by
    split
    · exact .setCmd
    · exact .unboarded (.ite (.bind .bldShape fun _ => .bind .bldRun fun _ => .setCmd) (.bind .mmaShape fun _ => .bind .mmaOuts fun _ =>
        .bind .arrayIssue fun _ => .setCmd))

theorem KeepsMem.finishCopy {k c} : KeepsMem (finishCopy k c) := by
  unfold Machine.finishCopy
  split
  · exact .endCmd
  · exact .bind .releaseLs fun _ => .get fun _ hs => .ite .setCmd (.bind (.attempt .issueFollow) fun _ => by
      split
      · exact .pure
      · exact .bind (.set hs) fun _ => .ite (.bind .cmdReport fun _ => .setCmd) .setCmd)

/-! ### What goes out -/

theorem KeepsMem.outgoing {k c held} : KeepsMem (outgoing k c held) :=
  .bind (.mapM fun _ => .plainElem fun _ _ => .softRead) fun _ => .bind .endRefusals fun _ => .pure

theorem State.MemOk.dropMessages {s : State} {ms} (hs : s.MemOk) : (s.dropMessages ms).MemOk := hs

theorem KeepsMem.sendOut {k c held} : KeepsMem (sendOut k c held) := by
  unfold Machine.sendOut
  extract_lets rest
  have hrest (u) : KeepsMem (rest u) := .setCmd
  split
  · exact .bind .outgoing fun _ => .bind (.forM fun _ => .modify fun _ hs => hs.post) hrest
  · exact .get fun _ _ => .iteBind .outgoing .pure fun _ => .bind (.modify fun _ hs1 => hs1.post) hrest
  all_goals exact hrest ()

theorem KeepsMem.announce {k} : KeepsMem (announce k) := by
  unfold Machine.announce
  split
  · exact .modify fun _ hs => hs.post
  all_goals exact .pure

theorem KeepsMem.readOwn {k c held} : KeepsMem (readOwn k c held) :=
  .get fun _ hs => .bind (.set hs.request) fun _ => .ite .sendOut .setCmd

theorem KeepsMem.startLink {k0 c sent} : KeepsMem (startLink k0 c sent) :=
  .get fun _ _ => .bind (.modify fun _ hs1 => hs1.onCmd) fun _ => .holding (.bind .holdAll fun _ => .bind .holdAll fun _ => by
    split
    · exact .ite .setCmd .readOwn
    · exact .setCmd
    · exact .setCmd
    · exact .pure
    · exact .pure)

theorem KeepsMem.startAt {k c chunk} : KeepsMem (startAt k c chunk) := by
  unfold Machine.startAt
  split
  · exact .ite .finishCopy (.startChunk fun _ _ _ => .sendOut)
  · exact .ite .endCmd (.startChunk fun _ _ _ => .sendOut)
  all_goals exact .startLink

/-! ### What comes in -/

theorem KeepsMem.refuse {k c op set tag num group ms} : KeepsMem (refuse k c op set tag num group ms) :=
  .bind (.forM fun _ => .modify fun _ hs => hs.post) fun _ => .bind (.forM fun _ => .modify fun _ hs => hs.post) fun _ =>
    .bind (.modify fun _ hs => hs) fun _ => .bind .cmdReport fun _ => .setCmd

theorem KeepsMem.gotElem {m e} : KeepsMem (gotElem m e) := .pure

theorem KeepsMem.linkMoved {k c} : KeepsMem (linkMoved k c) :=
  .get fun _ _ => by
    dsimp only
    split
    · exact .pure
    · exact .bind (.mapM fun _ => .convertWith fun _ => .gotElem) fun _ => .pure
    · exact .pure

theorem KeepsMem.movedOf {k c chunk held} : KeepsMem (movedOf k c chunk held) := by
  unfold Machine.movedOf
  split
  · exact .chunkMoved
  · exact .chunkMoved
  all_goals exact .linkMoved

theorem KeepsMem.reachOf {k c chunk held} : KeepsMem (reachOf k c chunk held) := by
  unfold Machine.reachOf
  split
  · exact .chunkMoved
  · exact .chunkMoved
  · exact .linkMoved
  · exact .pure

theorem State.MemOk.abandonCmd {s : State} {c k} (hs : s.MemOk) : (s.abandonCmd c k).MemOk := .abandon (fun _ _ _ _ => .reachOf) hs

theorem KeepsMem.acknowledge {k wrong} : KeepsMem (acknowledge k wrong) := by
  unfold Machine.acknowledge
  split
  · exact .modify fun _ hs => hs.post
  all_goals exact .pure

theorem KeepsMem.exchange {k c sent held} : KeepsMem (exchange k c sent held) :=
  .get fun _ _ => by
    split
    · exact .ite .refuse (.ite .startWrites .pure)
    · split
      · exact .pure
      · exact .ite .startWrites (.bind (.modify fun _ hs1 => hs1.dropMessages) fun _ => .bind .cmdReport fun _ =>
          .bind .acknowledge fun _ => .setCmd)
    · exact .ite (.ite .readOwn .pure) (by
        split
        · exact .pure
        · exact .bind (.modify fun _ hs1 => hs1.dropMessages) fun _ => .bind (.ite .cmdReport .pure) fun _ => .setCmd)
    · exact .pure
    · exact .pure

/-! ### Sources -/

theorem KeepsMem.myHome : KeepsMem myHome := .bind .me fun _ => .pure

/-! ### Sources and specs -/

theorem KeepsMem.tileSrc {x} : KeepsMem (tileSrc x) :=
  .bind .me fun _ => by
    split
    · exact .pure
    · split
      · exact .fault
      · exact .pure

theorem KeepsMem.genSource {x} : KeepsMem (genSource x) := by
  unfold Machine.genSource
  split
  · exact .pure
  · exact .pure
  · exact .bind .faultIf fun _ => .bind .myHome fun _ => .bind .homeGroup fun _ => .faultIf

theorem KeepsMem.readSpec {p} : KeepsMem (readSpec p) :=
  .bind .lowSpace fun _ => .bind .faultIf fun _ => .bind .whoami fun _ => .bind (.mapM fun _ => .memReadBytes) fun _ =>
    .bind .faultIf fun _ => .pure

theorem KeepsMem.specOf {s vs} {dflt : X Spec} (hdflt : KeepsMem dflt) : KeepsMem (specOf s vs dflt) := .ite hdflt .readSpec

theorem KeepsMem.specChecks {sp op srcs gather} : KeepsMem (specChecks sp op srcs gather) :=
  .bind .faultIf fun _ => .bind .faultIf fun _ => .bind (.forM fun _ => .faultIf) fun _ => .faultIf

theorem KeepsMem.boundsOk {h sp srcs} : KeepsMem (boundsOk h sp srcs) := .forM fun _ => .bind .srcExtents fun _ => .faultIf

/-! ### Appending -/

theorem KeepsMem.keepHere {α : Type} {x : X α} (hx : KeepsMem x) : KeepsMem (keepHere x) :=
  ⟨fun _ hs => by
    unfold Machine.keepHere
    split
    · exact .trapKept hs
    · exact hs.result hx⟩

theorem KeepsMem.freeNode {h} {f : Nat} : KeepsMem (freeNode h f) := by
  induction f with
  | zero => exact .fault
  | succ f ih =>
    refine .bind .homeGroup fun _ => ?_
    split
    · exact .pure
    · refine .ite .fault ?_
      split
      · exact .keepHere .fault
      · exact .bind (.keepHere .forceFull) fun _ => .bind .onTile fun _ => ih

theorem KeepsMem.enterNode {h n hd d} : KeepsMem (enterNode h n hd d) := .onTile

theorem KeepsMem.appendNode {o op fn ty rm srcs gather vs} {dflt : X Spec} {more : Spec → X Unit} (hdflt : KeepsMem dflt)
    (hmore : ∀ u, KeepsMem (more u)) : KeepsMem (appendNode o op fn ty rm srcs gather vs dflt more) :=
  .bind (.forM fun _ => .genSource) fun _ => .bind (.specOf hdflt) fun _ => .bind .specChecks fun _ => .bind (hmore _) fun _ =>
    .bind .myHome fun _ => .bind .boundsOk fun _ => .bind .me fun _ => .bind .freeNode fun _ => .enterNode

theorem NextOk.appending {o} {body : List Word → X Unit} {s : State} (hbody : ∀ u, KeepsMem (body u)) (hs : s.MemOk) :
    NextOk (appending o body s) :=
  .instr .noPre (fun _ => .seqBody hbody) hs

theorem KeepsMem.nodeTy {n} : KeepsMem (nodeTy n) := by
  unfold Machine.nodeTy
  split
  · exact .bind .myHome fun _ => .bind .liveNode fun _ => .pure
  · exact .fault
  · exact .fault

theorem KeepsMem.sameSpec {x maps} : KeepsMem (sameSpec x maps) := .bind .myHome fun _ => .bind .srcExtents fun _ => .pure

theorem NextOk.execTload {o} {s : State} (hs : s.MemOk) : NextOk (execTload o s) :=
  .appending (fun _ => .bind .tileSrc fun _ => .bind .faultIf fun _ => .bind (by
    split
    · exact .faultIf
    · exact .fault
    · exact .fault) fun _ => .appendNode .sameSpec fun _ => .pure) hs

theorem KeepsMem.matSource {x} : KeepsMem (matSource x) := by
  unfold Machine.matSource
  split
  · exact .bind .myHome fun _ => .bind .liveNode fun _ => .pure
  · exact .pure
  · exact .pure

theorem KeepsMem.matRules {sp x i} : KeepsMem (matRules sp x i) :=
  .bind .faultIf fun _ => by
    split
    · exact .pure
    · exact .pure
    · exact .bind .faultIf fun _ => .bind .faultIf fun _ => .ite (.bind .me fun _ => .bind .faultIf fun _ => .faultIf) .pure

theorem NextOk.execTmul {o} {s : State} (hs : s.MemOk) : NextOk (execTmul o s) :=
  .appending (fun _ => .bind .tileSrc fun _ => .bind .tileSrc fun _ => .bind .myHome fun _ => .bind .matSource fun _ =>
    .bind .matSource fun _ => .bind .srcFmt fun _ => .bind .srcFmt fun _ => .bind .faultIf fun _ => .appendNode (.bind .srcExtents fun _ =>
      .bind .srcExtents fun _ => .pure) fun _ => .bind .matRules fun _ => .matRules) hs

theorem NextOk.execTew {o} {s : State} (hs : s.MemOk) : NextOk (execTew o s) :=
  .appending (fun _ => .bind .tileSrc fun _ => .bind (.ite .tileSrc .pure) fun _ => .bind (.ite .tileSrc .pure) fun _ =>
    .bind .nodeTy fun _ => .bind .faultIf fun _ => .bind (.ite (.bind .nodeTy fun _ => .faultIf) .pure) fun _ =>
      .bind (.ite (.bind .nodeTy fun _ => .faultIf) .pure) fun _ => .appendNode .sameSpec fun _ => .pure) hs

theorem NextOk.execTred {o} {s : State} (hs : s.MemOk) : NextOk (execTred o s) :=
  .appending (fun _ => .bind .tileSrc fun _ => .bind .nodeTy fun _ => .bind .faultIf fun _ => .appendNode (.bind .myHome fun _ =>
    .bind .srcExtents fun _ => .pure) fun _ => .pure) hs

theorem KeepsMem.indexSource {x} : KeepsMem (indexSource x) := by
  unfold Machine.indexSource
  split
  · exact .bind .myHome fun _ => .bind .liveNode fun _ => .pure
  · exact .pure
  · exact .pure

theorem NextOk.execTgath {o} {s : State} (hs : s.MemOk) : NextOk (execTgath o s) :=
  .appending (fun _ => .bind .tileSrc fun _ => .bind .tileSrc fun _ => .bind .indexSource fun _ => .bind (by
    split
    · exact .bind .nodeTy fun _ => .pure
    · exact .pure
    · exact .pure) fun _ => .bind .faultIf fun _ => .appendNode .fault fun _ => .pure) hs

theorem NextOk.execTsel {o} {s : State} (hs : s.MemOk) : NextOk (execTsel o s) :=
  .appending (fun _ => .bind .tileSrc fun _ => .bind .tileSrc fun _ => .bind .tileSrc fun _ => .bind .nodeTy fun _ =>
    .bind .nodeTy fun _ => .bind .faultIf fun _ => .appendNode .sameSpec fun _ => .pure) hs

/-! ### Demands -/

theorem KeepsMem.handleNode {h} : KeepsMem (handleNode h) :=
  .bind .me fun _ => by
    split
    · exact .fault
    · exact .pure

theorem KeepsMem.boxOperand {o vs d} : KeepsMem (boxOperand o vs d) :=
  .ite .pure (.bind .lowSpace fun _ => .bind .faultIf fun _ => .bind .whoami fun _ => .bind .memReadBytes fun _ => .bind .faultIf fun _ =>
    .pure)

theorem NextOk.execForce {o} {s : State} (hs : s.MemOk) : NextOk (execForce o s) :=
  .instr .noPre (fun _ => .seqBody fun _ => .bind .handleNode fun _ => .bind .myHome fun _ => .bind .liveNode fun _ =>
    .bind .boxOperand fun _ => .bind (by
    split
    · exact .pure
    · exact .demand) fun _ => .bind .onTile fun _ => .bind (.ite .onTile .pure) fun _ => .bind .homeGroup fun _ => .writeDst) hs

theorem KeepsMem.writesInOrder {xs : List (X Unit)} (hxs : ∀ x ∈ xs, KeepsMem x) : KeepsMem (writesInOrder xs) := by
  induction xs with
  | nil => exact .pure
  | cons x xs ih =>
    have hx := hxs x List.mem_cons_self
    refine ⟨fun s hs => ?_⟩
    unfold Machine.writesInOrder
    split
    next h => exact (hs.runs h hx).result (ih fun y hy => hxs y (List.mem_cons_of_mem _ hy))
    · exact .trapKept hs
    next h => exact hs.stops h hx

theorem KeepsMem.tstSteps {w g ty rm xs} {x : X Unit} (hx : x ∈ tstSteps w g ty rm xs) : KeepsMem x := by
  unfold Machine.tstSteps at hx
  split at hx
  · simp only [List.mem_flatMap, List.mem_append, List.mem_map] at hx
    obtain ⟨b, _, ⟨_, _, rfl⟩ | hb⟩ := hx
    · exact .walk4Put
    · split at hb
      · cases hb
      · rw [List.mem_singleton.mp hb]
        exact .destRun
  · obtain ⟨_, _, rfl⟩ := List.mem_map.mp hx
    exact .walk4Put

theorem NextOk.execTst {o} {s : State} (hs : s.MemOk) : NextOk (execTst o s) :=
  .instr .noPre (fun _ => .seqBody fun _ => .bind .handleNode fun _ => .bind .myHome fun _ => .bind .liveNode fun _ =>
    .bind .boxOperand fun _ => .bind .me fun _ => by
      split
      · exact .fault
      · exact .bind .faultIf fun _ => .bind .demand fun _ => .bind .liveNode fun _ => .bind (.mapM fun _ => .boxRead) fun _ =>
          .bind .whoami fun _ => .bind .walkerTurn fun _ => .bind .aliasCheck fun _ => .get fun _ _ => .bind .waitIf fun _ =>
          .bind (.writesInOrder fun _ hx => .tstSteps hx) fun _ => .bind .takeIds fun _ => .ite .pure (.modify fun _ hs => hs.onGroup)) hs

/-! ### TDROP, TSTAT, TPOL -/

theorem NextOk.execTpol {o} {s : State} (hs : s.MemOk) : NextOk (execTpol o s) :=
  .instr .noPre (fun _ => .seqBody fun _ => .bind .me fun _ => .bind .faultIf fun _ => .bind .faultIf fun _ => .bind .myHome fun _ =>
    .bind .aliasCheck fun _ => .bind .onTile fun _ => .writeDst) hs

/-! ### LS copies (R387) -/

theorem KeepsMem.lsChecks {w lat slot src} : KeepsMem (lsChecks w lat slot src) :=
  .get fun _ _ => .bind .faultIf fun _ => by
    split
    · exact .fault
    · exact .bind .faultIf fun _ => .bind .bindCheck fun _ => .pure

/-! ### Enqueue (R327, R333, R334) -/

theorem KeepsMem.sideSpace {c maxSpace g} : KeepsMem (sideSpace c maxSpace g) :=
  .bind .faultIf fun _ => .bind .faultIf fun _ => .ite .faultIf (.bind .faultIf fun _ => .faultIf)

theorem KeepsMem.sideRows {rows g} : KeepsMem (sideRows rows g) := .ite .fault .pure

theorem KeepsMem.followOf {o} : KeepsMem (followOf o) :=
  .bind .me fun _ => .ite .pure (.ite (.bind .faultIf fun _ => .pure) (by
    extract_lets issue
    have hissue (sub : Nat) (x : XOp) : KeepsMem (issue sub x) := .bind .faultIf fun _ => .bind (.ite
      (.bind .bldShape fun _ => .bind (.forM fun _ => .bind .lowSpace fun _ => .ite .lowSpace .pure) fun _ => .pure)
      (.bind .mmaShape fun _ => .bind .rowsWithin fun _ => by
        dsimp only
        split
        · exact .pure
        · exact .fault)) fun _ => .pure
    split
    · exact hissue ..
    · exact hissue ..
    · exact hissue ..
    · exact .fault
    · exact .fault))

theorem KeepsMem.namedAt {α : Type} {at_} {x : X α} (hx : KeepsMem x) : KeepsMem (namedAt at_ x) :=
  ⟨fun _ hs => by
    unfold Machine.namedAt
    split
    next h => exact hs.kept h hx
    · exact hs.result hx⟩

theorem KeepsMem.copyChecks {o} : KeepsMem (copyChecks o) :=
  .bind .me fun _ => .bind (.namedAt .faultIf) fun _ => .bind .sideSpace fun _ => .bind .sideSpace fun _ => .bind .sideRows fun _ =>
    .bind .sideRows fun _ => .bind .faultIf fun _ => .bind .faultIf fun _ => .bind (.namedAt .followOf) fun _ =>
      .ite (.bind .whoami fun _ => .bind .lsChecks fun _ => .pure) .pure

theorem KeepsMem.accept {kind o f reads writes} : KeepsMem (accept kind o f reads writes) :=
  .bind .me fun _ => .get fun _ hs => .bind (.set hs.onCore) fun _ => .pure

theorem KeepsMem.enqueueCopy {o} : KeepsMem (enqueueCopy o) :=
  .bind .me fun _ => .bind .copyChecks fun _ => .bind .performed fun _ => .bind .commandRoom fun _ => .bind .aliasCheck fun _ => .accept

theorem KeepsMem.regCopy {o kind time w14 w15} : KeepsMem (regCopy o kind time w14 w15) := .bind .me fun _ => .pure

theorem NextOk.execEnq {o} {s : State} (hs : s.MemOk) : NextOk (execEnq o s) :=
  .instr .noPre (fun _ => .seqBody fun _ => .bind .lowSpace fun _ => .bind .faultIf fun _ => .bind .whoami fun _ =>
    .bind .memReadBytes fun _ => by
    split
    · exact .fault
    · exact .bind .enqueueCopy fun _ => .writeDst) hs

/-! ### Waiting for commands -/

theorem KeepsMem.heldFault {c} {covers : Cmd → Bool} : KeepsMem (heldFault c covers) :=
  .get fun _ _ => by
    dsimp only
    split
    · exact .pure
    · exact .fault

theorem KeepsMem.awaitCopies {which : Cmd → Bool} : KeepsMem (awaitCopies which) :=
  .bind .me fun _ => .bind .heldFault fun _ => .get fun _ _ => .waitIf

theorem NextOk.execWaitid {o} {s : State} (hs : s.MemOk) : NextOk (execWaitid o s) :=
  .instr .noPre (fun _ => .seqBody fun _ => .bind .me fun _ => .bind (.ite .awaitCopies (.bind .heldFault fun _ => .get fun _ _ =>
    .waitIf)) fun _ => .get fun _ _ => .writeDst) hs

theorem NextOk.execTidr {o} {s : State} (hs : s.MemOk) : NextOk (execTidr o s) :=
  .instr .noPre (fun _ => .seqBody fun _ => .bind .me fun _ => .get fun _ hs1 => by
    dsimp only
    split
    · exact .writeDst
    · exact .writeDst
    · exact .bind (.set hs1.onGroup) fun _ => .writeDst
    · exact .writeDst
    · exact .fault) hs

theorem State.MemOk.dropTlb {s : State} {x lo hi} (hs : s.MemOk) : (s.dropTlb x lo hi).MemOk := hs

theorem NextOk.execPublish {o} {s : State} (hs : s.MemOk) : NextOk (execPublish o s) :=
  .instr .faultIf (fun _ => .seqBody fun _ => .bind .me fun _ => .bind .faultIf fun _ => .get fun _ _ => by
    split
    · exact .fault
    · exact .bind .awaitCopies fun _ => .get fun _ _ => .bind .waitIf fun _ => .bind .performed fun _ => .modify fun _ hs3 =>
        hs3.onCtx.dropTlb) hs

/-! ### The steps of the engines -/

theorem NextOk.partStep {x : X Unit} {s : State} (hx : KeepsMem x) (hs : s.MemOk) : NextOk (partStep x s) := by
  unfold Machine.partStep
  split
  next h => exact .next (hs.runs h hx)
  next h => exact .next (.getD (hs.kept h hx) hs)
  · exact .next hs
  next h => exact .next (hs.asked h hx hs)
  · exact .fault

theorem KeepsMem.beginCmd {k c} : KeepsMem (beginCmd k c) :=
  .get fun _ _ => .bind (.ite (.modify fun _ hs1 => hs1.onGroup) .pure) fun _ => .startAt

theorem NextOk.execCopyStart {c ch} {s : State} (hs : s.MemOk) : NextOk (execCopyStart c ch s) := by
  unfold Machine.execCopyStart
  split
  · exact .next hs
  · exact .ite (.partStep .beginCmd hs) (.next hs)

theorem NextOk.execTimedCommandDue {c ch} {s : State} (hs : s.MemOk) : NextOk (execTimedCommandDue c ch s) := by
  unfold Machine.execTimedCommandDue
  dsimp only
  split
  · exact .next hs
  · exact .ite (.partStep .beginCmd hs.onCmd) (.next hs.onCmd.onCmd)

theorem KeepsMem.atomDone {r} : KeepsMem (atomDone r) :=
  .get fun _ _ => by
    split
    · exact .pure
    · split
      · exact .ite (.holding (.landed fun _ _ _ => .sendOut)) .setCmd
      · exact .setCmd
      · exact .pure
      · exact .pure
      · exact .pure
      · exact .pure
      · exact .pure

theorem NextOk.arriveAtom {write i} {s : State} (hs : s.MemOk) : NextOk (arriveAtom write i s) := by
  unfold Machine.arriveAtom
  split
  · exact .next hs
  · exact .ite (.next hs) (.partStep .atomDone hs)

theorem KeepsMem.afterChunkSet_ {s : State} (hs : s.MemOk) : KeepsMem (afterChunk.set_ s) := .set hs

theorem KeepsMem.afterChunk {k c chunk} : KeepsMem (afterChunk k c chunk) :=
  .get fun _ hs => by
    split
    · exact .startAt
    · exact .startAt
    · exact .bind (.afterChunkSet_ hs.dropMessages) fun _ => .setCmd
    · exact .setCmd
    · exact .bind (.afterChunkSet_ hs.dropMessages) fun _ => .bind .acknowledge fun _ => .setCmd

theorem KeepsMem.chunkDone {k c chunk held} : KeepsMem (chunkDone k c chunk held) :=
  .ite .startAt (.bind (.attempt (.bind .movedOf fun _ => .applyMoved)) fun _ => by
    split
    · exact .afterChunk
    · exact .ite (.bind .cmdReport fun _ => .setCmd) .setCmd
    · exact .endCmd
    · exact .setCmd)

theorem NextOk.execChunkRetire {c ch} {s : State} (hs : s.MemOk) : NextOk (execChunkRetire c ch s) := by
  unfold Machine.execChunkRetire
  split
  · exact .next hs
  · split
    · exact .ite (.partStep .chunkDone hs) (.next hs)
    · exact .partStep .exchange hs
    · exact .next hs
    · exact .next hs
    · exact .next hs
    · exact .next hs
    · exact .next hs

theorem NextOk.execCopyRetire {c ch} {s : State} (hs : s.MemOk) : NextOk (execCopyRetire c ch s) := by
  unfold Machine.execCopyRetire
  split
  · exact .next hs
  · exact .ite (.next hs.retireCmd) (.next hs)

theorem State.MemOk.squash {s : State} {c k} (hs : s.MemOk) : (s.squash c k).MemOk := hs.abandonCmd.onCmd

theorem NextOk.execCopyDrainTimeout {c ch} {s : State} (hs : s.MemOk) : NextOk (execCopyDrainTimeout c ch s) := by
  unfold Machine.execCopyDrainTimeout
  split
  · exact .next hs
  · exact .ite (.next hs.squash) (.next hs)

end Sys2Proof.Machine
end

section
/-! PROOFS. Every step keeps memory's canonical form (O60), VII: streams, pool devices and links. -/

namespace Sys2Proof.Machine

open Sys2Proof

/-! ### Streams -/

theorem KeepsMem.ownLat {o} : KeepsMem (ownLat o) := .bind .me fun _ => .get fun _ _ => .faultIf

theorem KeepsMem.myStream {o} : KeepsMem (myStream o) := .bind .me fun _ => .get fun _ _ => .pure

theorem KeepsMem.onMine {o} {f : Stream → Stream} : KeepsMem (onMine o f) := .modify fun _ hs => hs.onStream

theorem State.MemOk.releaseStreams {s : State} {id g} (hs : s.MemOk) : (s.releaseStreams id g).MemOk := hs.askStreams

/-! ### LFLOAD, LBIND -/

theorem NextOk.execLfload {o} {s : State} (hs : s.MemOk) : NextOk (execLfload o s) :=
  .instr .noPre (fun _ => .seqBody fun _ => .bind .ownLat fun _ => .bind .lowSpace fun _ => .bind .faultIf fun _ => .get fun _ _ =>
    .ite .writeDst (.bind .whoami fun _ => .bind .readRun fun _ => .bind .readRun fun _ => .bind .faultIf fun _ => by
    split
    · exact .fault
    · exact .bind (.modify fun _ hs2 => hs2.onLat) fun _ => .writeDst)) hs

theorem NextOk.execLbind {o} {s : State} (hs : s.MemOk) : NextOk (execLbind o s) :=
  .instr .noPre (fun _ => .seqBody fun _ => .bind .me fun _ => .bind .ownLat fun _ => .bind .faultIf fun _ => .ite (.modify fun _ hs1 =>
    hs1.onGroup) (.bind .whoami fun _ => .bind .bindCheck fun _ => .modify fun _ hs1 => hs1.onGroup)) hs

/-! ### LSTART -/

theorem KeepsMem.startPhase {o img bs old} : KeepsMem (startPhase o img bs old) :=
  .bind .me fun _ => .bind (.modify fun _ hs => hs.onLat) fun _ => .pure

theorem NextOk.execLstart {o} {s : State} (hs : s.MemOk) : NextOk (execLstart o s) :=
  .instr .noPre (fun _ => .seqBody fun _ => .bind .ownLat fun _ => .bind .me fun _ => .get fun _ _ => .bind .myStream fun _ =>
    .ite .writeDst (.bind .waitIf fun _ => .bind .performed fun _ => .ite (.bind .aliasCheck fun _ => .bind .onMine fun _ => .writeDst) (by
    split
    · exact .fault
    · exact .bind .faultIf fun _ => .ite .writeDst (.bind .aliasCheck fun _ => .bind .startPhase fun _ => .writeDst)))) hs

/-! ### LBAR, LSTAT, LSTOP -/

theorem NextOk.execLbar {o} {s : State} (hs : s.MemOk) : NextOk (execLbar o s) :=
  .instr .noPre (fun _ => .seqBody fun _ => .bind .ownLat fun _ => .bind .myStream fun _ => by
    split
    · exact .writeDst
    · exact .bind .waitIf fun _ => .writeDst) hs

theorem NextOk.execLstat {o} {s : State} (hs : s.MemOk) : NextOk (execLstat o s) :=
  .instr .noPre (fun _ => .seqBody fun _ => .bind .ownLat fun _ => .bind .myStream fun _ => by
    split <;> exact .writeDst) hs

theorem State.MemOk.askStop {s : State} {o} (hs : s.MemOk) : (s.askStop o).MemOk := by
  unfold State.askStop
  split
  next h => exact .ite hs (.atEdge (.onStream (hs.runs h (.bind .checkMisuse fun _ => .bind .ownLat fun _ => .myStream))))
  · exact hs
  · exact hs

theorem NextOk.execLstop {o} {s : State} (hs : s.MemOk) : NextOk (execLstop o s) :=
  .instr .noPre (fun _ => .bind .ownLat fun _ => .bind .myStream fun _ => by
    split
    · exact .bind .writeDst fun _ => .pure
    · exact .ite (.bind .writeDst fun _ => .bind (.ite .onMine .pure) fun _ => .bind (.ite (.modify fun _ hs1 =>
        hs1.atEdge) .pure) fun _ => .pure) .pure) hs.askStop

/-! ### The end of a phase (R383, R384) -/

theorem State.MemOk.streamFlags {s : State} {t} (hs : s.MemOk) : (s.streamFlags t).MemOk := hs.onGroup

theorem State.MemOk.endPhase {s : State} {lat slot err} (hs : s.MemOk) : (s.endPhase lat slot err).MemOk := by
  unfold State.endPhase
  split
  · exact hs
  · exact hs.streamFlags.onStream.atEdge

/-! ### Rows -/

theorem KeepsMem.streamWrite {x b bad q} : KeepsMem (streamWrite x b bad q) := .forM fun _ => .get fun _ _ => .ite .losePlace .rawWrite

theorem KeepsMem.computeRow {lat slot t img} : KeepsMem (computeRow lat slot t img) :=
  .get fun _ _ => .bind .rowInputs fun _ => .ite (.modify fun _ hs1 => .ite hs1.endPhase hs1) (.ite (.modify fun _ hs1 =>
    .ite hs1.endPhase hs1) (.modify fun _ hs1 => hs1))

theorem NextOk.execRowCompute {lat slot} {s : State} (hs : s.MemOk) : NextOk (execRowCompute lat slot s) :=
  .ite (.next hs) (by
    split
    · exact .partStep .computeRow hs
    · exact .next hs
    · exact .next hs)

theorem KeepsMem.completeRow {lat slot t r rest} : KeepsMem (completeRow lat slot t r rest) :=
  .bind (.modify fun _ hs => hs.onLat) fun _ => by
    split
    · exact .bind (.ite (.modify fun _ hs => hs.atEdge) .pure) fun _ => .lsArrived
    · exact .ite (.ite (.modify fun _ hs => hs.endPhase) .pure) (.ite (.modify fun _ hs => hs.atEdge) .pure)

theorem NextOk.execRowComplete {lat slot} {s : State} (hs : s.MemOk) : NextOk (execRowComplete lat slot s) := by
  unfold Machine.execRowComplete
  split
  · exact .next hs
  · split
    · exact .next hs
    · exact .ite (.partStep .completeRow hs) (.next hs)

/-! ### Bursts (R379 to R382) -/

theorem KeepsMem.formAccesses {x b row} : KeepsMem (formAccesses x b row) := .bind .streamRead fun _ => .pure

theorem KeepsMem.inputUnits {img x p b row} : KeepsMem (inputUnits img x p b row) := .ite (.bind .formAccesses fun _ => .pure) .pure

theorem KeepsMem.spoilRow {t row} : KeepsMem (spoilRow t row) :=
  .forM fun _ => .ite .pure (.forM fun _ => .forM fun _ => .bind (.attempt .streamWrite) fun _ => .pure)

theorem KeepsMem.putBurst {t lat slot port row unit b} : KeepsMem (putBurst t lat slot port row unit b) :=
  .bind (.attempt (.forM fun _ => .streamWrite)) fun _ => by
    split
    · exact .pure
    · exact .ite .pure (.bind (.modify fun _ hs => hs.onStream) fun _ => .bind .spoilRow fun _ => .pure)

theorem KeepsMem.landBurst {lat slot port row j} : KeepsMem (landBurst lat slot port row j) :=
  .get fun _ _ => by
    split
    · exact .pure
    · exact .ite .pure (.bind (by
        split
        · exact .pure
        · exact .ite .pure .putBurst) fun _ => .ite (.modify fun _ hs1 => hs1.endPhase) (.bind (.modify fun _ hs1 => hs1.onStream) fun _ =>
            .modify fun _ hs1 => .ite hs1.endPhase hs1))

theorem NextOk.execBurstStart {lat slot port} {s : State} (hs : s.MemOk) : NextOk (execBurstStart lat slot port s) := by
  unfold Machine.execBurstStart
  split
  · exact .next hs
  · exact .ite (by
      split
      · exact .next hs
      · exact .partStep .landBurst hs.onStream) (by
      dsimp only
      split
      · exact .next hs
      · exact .next hs.onStream.onPc)

theorem NextOk.execBurstEnd {pc} {s : State} (hs : s.MemOk) : NextOk (execBurstEnd pc s) := by
  unfold Machine.execBurstEnd
  dsimp only
  split
  · exact .next hs
  · refine .ite (.next hs) (.partStep .landBurst (State.MemOk.onPc (hs.foldl fun t c ht => ?_)))
    exact State.MemOk.getD (fun _ h => ht.issueAtom h) ht

/-! ### Holds, parking, release -/

theorem NextOk.execStreamResumeFromHold {lat slot} {s : State} (hs : s.MemOk) : NextOk (execStreamResumeFromHold lat slot s) := by
  unfold Machine.execStreamResumeFromHold
  split
  · exact .next hs
  · exact .ite (.next hs.onStream) (.next hs)

theorem NextOk.execStreamPark {lat slot} {s : State} (hs : s.MemOk) : NextOk (execStreamPark lat slot s) := by
  unfold Machine.execStreamPark
  split
  · exact .next hs
  · exact .ite (.next hs.atEdge) (.next hs)

theorem NextOk.execStreamUnpark {lat slot} {s : State} (hs : s.MemOk) : NextOk (execStreamUnpark lat slot s) := by
  unfold Machine.execStreamUnpark
  split
  · exact .next hs
  · exact .ite (.next hs) (by
      split
      · exact .next hs.endPhase
      · exact .next hs.onStream.atEdge)

theorem NextOk.execStreamRelease {lat slot} {s : State} (hs : s.MemOk) : NextOk (execStreamRelease lat slot s) := by
  unfold Machine.execStreamRelease
  split
  · exact .next hs
  · exact .ite (.next hs.atEdge) (.next hs)

/-! ### Assignment of image slots and windows (R369, R378) -/

theorem State.MemOk.changeOwner {s : State} {lat slot o} (hs : s.MemOk) : (s.changeOwner lat slot o).MemOk := hs.onLat

theorem NextOk.execLatownWrite {v} {s : State} (hs : s.MemOk) : NextOk (execLatownWrite v s) :=
  .ite (.next hs) (.ite (.next hs.onLat) (.ite (.next hs.onLat) (.next hs.changeOwner)))

theorem NextOk.execLatownChangeApply {lat slot} {s : State} (hs : s.MemOk) : NextOk (execLatownChangeApply lat slot s) := by
  unfold Machine.execLatownChangeApply
  dsimp only
  split
  · exact .next hs
  · exact .ite (.next hs) (.next hs.changeOwner)

theorem State.MemOk.onPriv {s : State} {a} {f : PrivRegs → PrivRegs} (hs : s.MemOk) : (s.onPriv a f).MemOk := by
  unfold State.onPriv
  split <;> exact hs

theorem NextOk.execLwinWrite {by_ v} {s : State} (hs : s.MemOk) : NextOk (execLwinWrite by_ v s) := .ite (.next hs) (.next hs.setLwin)

/-! ### Peer sets -/

theorem KeepsMem.readPeers {p} : KeepsMem (readPeers p) :=
  .bind .pointerOk fun _ => .bind .faultIf fun _ => .bind .me fun _ => .bind .whoami fun _ => .bind .memReadBytes fun _ => .get fun _ _ =>
    by
    split
    · exact .fault
    · exact .pure

theorem KeepsMem.matchNumber {set_ tag peer dir} : KeepsMem (matchNumber set_ tag peer dir) :=
  .bind .me fun _ => .get fun _ hs => .bind (.set hs) fun _ => .pure

theorem KeepsMem.genOf {g} : KeepsMem (genOf g) := .bind .me fun _ => .pure

theorem NextOk.execCred {o} {s : State} (hs : s.MemOk) : NextOk (execCred o s) :=
  .instr .faultIf (fun _ => .seqBody fun _ => .bind .me fun _ => .bind .readPeers fun _ => .bind .genOf fun _ => .bind .genOf fun _ =>
    .bind .faultIf fun _ => .bind .faultIf fun _ => .bind .faultIf fun _ => .bind .sideSpace fun _ => .bind .sideSpace fun _ =>
      .bind .faultIf fun _ => .bind .performed fun _ => .bind .commandRoom fun _ => .bind .aliasCheck fun _ => .bind .matchNumber fun _ =>
        .bind .accept fun _ => .writeDst) hs

theorem KeepsMem.pairChecks {g setAt peer maxSpace} : KeepsMem (pairChecks g setAt peer maxSpace) :=
  .bind .me fun _ => .bind .readPeers fun _ => .bind .faultIf fun _ => .bind .faultIf fun _ => .bind .sideSpace fun _ =>
    .bind .sideRows fun _ => .bind .performed fun _ => .bind .commandRoom fun _ => .pure

theorem NextOk.execCrecv {o} {s : State} (hs : s.MemOk) : NextOk (execCrecv o s) :=
  .instr .noPre (fun _ => .seqBody fun _ => .bind .me fun _ => .bind .genOf fun _ => .bind .pairChecks fun _ => .bind .aliasCheck fun _ =>
    .bind .matchNumber fun _ => .bind .accept fun _ => .get fun _ _ => .bind (by
    split
    · exact .pure
    · exact .announce) fun _ => .writeDst) hs

theorem KeepsMem.undeclared {w p} : KeepsMem (undeclared w p) :=
  .get fun _ _ => by
    split
    · exact .pure
    · exact .bind (.attempt (.bind .leafAddress fun _ => .tableRead)) fun _ => by
        split <;> exact .pure

theorem KeepsMem.replicatedRange {w r} : KeepsMem (replicatedRange w r) :=
  .bind (.mapM fun _ => .bind (.attempt .translate) fun _ => .get fun _ _ => by
    split
    · exact .bind .undeclared fun _ => .bind .faultIf fun _ => .pure
    · exact .bind .faultIf fun _ => .pure) fun _ => .pure

theorem NextOk.execMcst {o} {s : State} (hs : s.MemOk) : NextOk (execMcst o s) :=
  .instr .noPre (fun _ => .seqBody fun _ => .bind .me fun _ => .bind .genOf fun _ => .bind .genOf fun _ => .bind .copyChecks fun _ =>
    .bind .faultIf fun _ => .bind .whoami fun _ => .bind .replicatedRange fun _ => .get fun _ _ => .bind .faultIf fun _ =>
      .bind .faultIf fun _ => .bind .performed fun _ => .bind .commandRoom fun _ => .bind .aliasCheck fun _ => .bind .accept fun _ =>
        .writeDst) hs

/-! ### PFLUSH and PINV (R405) -/

theorem KeepsMem.flushedLines {w va n a} : KeepsMem (flushedLines w va n a) :=
  .bind (.mapM fun _ => .bind .faultIf fun _ => .bind .translate fun _ => .pure) fun _ => .pure

theorem KeepsMem.flushChecks {va n} : KeepsMem (flushChecks va n) := .bind .faultIf fun _ => .faultIf

theorem KeepsMem.flushLine {p} : KeepsMem (flushLine p) :=
  .get fun _ hs => by
    split
    · exact .pure
    · exact .ite .pure (.ite (.trapKept hs.refused) (.set hs.clean))

theorem NextOk.execPflush {a b} {s : State} (hs : s.MemOk) : NextOk (execPflush a b s) :=
  .instr .noPre (fun _ => .seqBody fun _ => .bind .flushChecks fun _ => .ite .pure (.bind .whoami fun _ => .bind .flushedLines fun _ =>
    .bind .performed fun _ => .forM fun _ => .flushLine)) hs

theorem NextOk.execPinv {a b} {s : State} (hs : s.MemOk) : NextOk (execPinv a b s) :=
  .instr .noPre (fun _ => .seqBody fun _ => .bind .flushChecks fun _ => .ite .pure (.bind .whoami fun _ => .bind .flushedLines fun _ =>
    .modify fun _ hs1 => hs1.foldl fun _ _ ht => ht.uncache)) hs

/-! ### Ports and pool devices -/

theorem State.MemOk.deviceGives {s : State} {l} (hs : s.MemOk) : (s.deviceGives l).MemOk :=
  .ite hs.setDeviceLine (.ite hs.setDeviceLine hs.setDeviceLine)

theorem State.MemOk.poolFill {s : State} {line d} (hs : s.MemOk) : (s.poolFill line d).MemOk :=
  .ite hs (.of_eq hs.deviceGives.cachePut rfl rfl)

theorem State.MemOk.snoop {s : State} {line forWrite} (hs : s.MemOk) : (s.snoop line forWrite).MemOk :=
  .ite hs (by
    split
    · exact hs
    · exact .ite (.uncache (.ite hs.writeBack hs)) (.editLine (.ite hs.writeBack hs)))

theorem State.MemOk.cutRequests {s : State} {p} (hs : s.MemOk) : (s.cutRequests p).MemOk := hs

theorem State.MemOk.markDown {s : State} {p} (hs : s.MemOk) : (s.markDown p).MemOk :=
  .foldl hs fun _ _ ht => .ite ht (.ite ht.writeBack.uncache ht.clean)

/-! ### Dynamic capacity (R407) -/

theorem State.MemOk.onExtent {s : State} {id} {f : Extent → Extent} (hs : s.MemOk) : (s.onExtent id f).MemOk := hs

theorem State.MemOk.zeroRange {s : State} {pa n} (hs : s.MemOk) : (s.zeroRange pa n).MemOk := hs.clearRange

theorem State.MemOk.freshMeta {s : State} {base size} (hs : s.MemOk) : (s.freshMeta base size).MemOk :=
  hs.foldl fun _ _ ht => by
    dsimp only
    split
    · exact ht
    · exact ht.zeroRange.foldl fun _ _ ht1 => ht1.putMac

theorem NextOk.execDcZeroingComplete {id} {s : State} (hs : s.MemOk) : NextOk (execDcZeroingComplete id s) := by
  unfold Machine.execDcZeroingComplete
  split
  · exact .next hs
  · exact .ite (.next hs) (.next hs.zeroRange.freshMeta.onExtent)

/-! ### Links (R411, R413) -/

theorem State.MemOk.onLink {s : State} {i} {f : Link → Link} (hs : s.MemOk) : (s.onLink i f).MemOk := hs

theorem State.MemOk.ownFill {s : State} {line} (hs : s.MemOk) : (s.ownFill line).MemOk := .ite hs hs.cachePut

theorem State.MemOk.proxyIssue {s : State} {w} (hs : s.MemOk) : (s.proxyIssue w).MemOk :=
  .ite hs.ownFill (by
    dsimp only
    split
    · exact .transmit hs.snoop
    · exact .transmit (.setDeviceLine hs.snoop))

theorem State.MemOk.proxyGo {line} {f : Nat} {s : State} (hs : s.MemOk) : (s.proxyGo line f).MemOk := by
  induction f generalizing s with
  | zero => exact hs
  | succ f ih =>
    refine .ite hs ?_
    split
    · exact hs
    next w _ =>
      have h1 : (({ s with proxyWait := s.proxyWait.erase w } : State).proxyIssue w).MemOk := .proxyIssue hs
      dsimp only
      split
      · exact h1
      · exact ih h1.forwardSnoop

theorem State.MemOk.snoopAnswered {s : State} {w data} (hs : s.MemOk) : (s.snoopAnswered w data).MemOk :=
  .proxyGo (by
    split
    · exact .ite hs (.setDeviceLine hs)
    · exact hs)

theorem NextOk.execFlitProxyResponse {link line data} {s : State} (hs : s.MemOk) : NextOk (execFlitProxyResponse link line data s) :=
  .ite (.next hs) (by
    dsimp only
    split
    · exact .next hs.onLink.snoopAnswered
    · exact .ite (.next hs.onLink) (by
        split
        · exact .next (.ite hs.onLink hs)
        · exact .next (.ite hs.onLink hs.onLink.poolFill)))

theorem State.MemOk.pumpAll {s : State} {i} (hs : s.MemOk) : (s.pumpAll i).MemOk := hs.foldl fun _ _ ht => ht.pump

theorem State.MemOk.beginTraining {s : State} {i} (hs : s.MemOk) : (s.beginTraining i).MemOk := .ite hs.onLink (.pumpAll hs)

theorem State.MemOk.endTraining {s : State} {i} (hs : s.MemOk) : (s.endTraining i).MemOk := hs.onLink.pumpAll

end Sys2Proof.Machine
end

section
/-! PROOFS. Every step keeps memory's canonical form (O60), VIII: levels, kernels, dispatch, and groups in their slots. -/

namespace Sys2Proof.Machine

open Sys2Proof

/-! ### The level table -/

theorem KeepsMem.putLevel {x i l} : KeepsMem (putLevel x i l) := .bind (.modify fun _ hs => hs.onCtx) fun _ => .get fun _ _ => .rawWrite

theorem KeepsMem.freeBelow {x} {f h : Nat} : KeepsMem (freeBelow x f h) := by
  induction f generalizing h with
  | zero => exact .pure
  | succ f ih => exact .get fun _ _ => .forM fun _ => .bind ih fun _ => .putLevel

theorem KeepsMem.settleWith {up : Nat → X Unit} {x i} (hup : ∀ u, KeepsMem (up u)) : KeepsMem (settleWith up x i) :=
  .get fun _ _ => by
    split
    · exact .pure
    · exact .ite (.bind .putLevel fun _ => .bind .freeBelow fun _ => .ite .pure (hup _)) .pure

theorem KeepsMem.childDone {x} {f h : Nat} : KeepsMem (childDone x f h) := by
  induction f generalizing h with
  | zero => exact .pure
  | succ f ih =>
    refine .get fun _ _ => ?_
    split
    · exact .pure
    · exact .ite .pure (.bind .putLevel fun _ => .settleWith fun _ => ih)

theorem KeepsMem.settle {x i} : KeepsMem (settle x i) := .settleWith fun _ => .childDone

theorem KeepsMem.groupDone {x launch} : KeepsMem (groupDone x launch) := .childDone

/-! ### Ready queues -/

theorem KeepsMem.ringWrite {x prio at_ it} : KeepsMem (ringWrite x prio at_ it) := by
  unfold Machine.ringWrite
  split
  · exact .pure
  · exact .get fun _ _ => .rawWrite

theorem State.MemOk.setReady {s : State} {x prio q} (hs : s.MemOk) : (s.setReady x prio q).MemOk := hs.onCtx

theorem KeepsMem.pushTail {x prio it} : KeepsMem (pushTail x prio it) :=
  .get fun _ _ => .bind .waitIf fun _ => .bind .ringWrite fun _ => .modify fun _ hs1 => hs1.setReady

theorem KeepsMem.pushHead {x prio it} : KeepsMem (pushHead x prio it) :=
  .get fun _ _ => .bind .waitIf fun _ => .bind .ringWrite fun _ => .modify fun _ hs1 => hs1.setReady

theorem KeepsMem.pushRecord {x r atHead} : KeepsMem (pushRecord x r atHead) := .get fun _ _ => .ite .pure (.ite .pushHead .pushTail)

theorem KeepsMem.keepReady {x} {keep : ReadyItem → Bool} : KeepsMem (keepReady x keep) :=
  .forM fun _ => .get fun _ _ => .ite .pure (.bind (.forM fun _ => .ringWrite) fun _ => .modify fun _ hs1 => hs1.setReady.onCtx)

/-! ### CANCEL -/

theorem State.MemOk.killLaunch {s : State} {x launch} (hs : s.MemOk) : (s.killLaunch x launch).MemOk := hs.onGroupsOf

theorem KeepsMem.cancelTree {x} {f i : Nat} : KeepsMem (cancelTree x f i) := by
  induction f generalizing i with
  | zero => exact .pure
  | succ f ih =>
    refine .get fun _ _ => ?_
    split
    · exact .pure
    · refine .ite .pure (.get fun _ _ => .bind (.forM fun _ => .ite .pure (.bind ih fun _ => .get fun _ _ => ?_)) fun _ => .get fun _ _ =>
      ?_)
      · split
        · exact .pure
        · exact .putLevel
      · extract_lets rest
        have hrest (u : Unit) : KeepsMem (rest u) := .ite (.bind .keepReady fun _ => .modify fun _ hs => hs.killLaunch) .pure
        split
        · exact hrest ()
        · exact .bind .putLevel hrest

theorem KeepsMem.cancelLevel {x h} : KeepsMem (cancelLevel x h) :=
  .get fun _ _ => by
    split
    · exact .pure
    · exact .ite (.bind .cancelTree fun _ => .ite .pure .childDone) (.ite (.bind .freeBelow fun _ => .putLevel) .pure)

theorem KeepsMem.cancelAll {x} : KeepsMem (cancelAll x) := .get fun _ _ => .forM fun _ => .cancelTree

/-! ### Descriptors and headers -/

theorem KeepsMem.launchHeader {w p d} : KeepsMem (launchHeader w p d) :=
  .bind .faultIf fun _ => .bind .faultIf fun _ => .bind .memReadBytes fun _ => by
    split
    · exact .fault
    · exact .bind .faultIf fun _ => .get fun _ _ => .bind .faultIf fun _ => .pure

theorem KeepsMem.addChild {x parent last} : KeepsMem (addChild x parent last) :=
  .ite .pure (.get fun _ _ => by
    split
    · exact .pure
    · exact .putLevel)

theorem State.MemOk.dropLines {s : State} {x} (hs : s.MemOk) : (s.dropLines x).MemOk := hs

theorem KeepsMem.enterLevel {x core d h} : KeepsMem (enterLevel x core d h) :=
  .get fun _ _ => .ite .pure (by
    split
    · exact .wait
    · exact .bind .putLevel fun _ => .bind .addChild fun _ => .bind (.ite (.bind .logEvent fun _ => .bind .pushTail fun _ =>
        .modify fun _ hs1 => hs1.dropLines) .pure) fun _ => .pure)

theorem KeepsMem.readDesc {w p} : KeepsMem (readDesc w p) :=
  .bind .lowSpace fun _ => .bind .faultIf fun _ => .bind .memReadBytes fun _ => by
    split
    · exact .fault
    · exact .pure

theorem KeepsMem.launchAt {w p} : KeepsMem (launchAt w p) :=
  .bind .readDesc fun _ => .iteBind (.bind .launchHeader fun _ => .pure) .pure fun _ => .bind .faultIf fun _ => .enterLevel

theorem NextOk.hostLaunchStep {s : State} {x} (hs : s.MemOk) : NextOk (s.hostLaunchStep x) := by
  unfold State.hostLaunchStep
  dsimp only
  split
  · exact .next hs
  · exact .ite (.next hs.onCtx) (by
      split
      next h1 => exact .next (.onCtx (hs.runs h1 .launchAt))
      next h1 => exact .next (.onCtx (.getD (hs.kept h1 .launchAt) hs))
      · exact .next hs
      next h1 => exact .next (hs.asked h1 .launchAt hs)
      · exact .fault)

theorem NextOk.execHostLaunch {x desc} {s : State} (hs : s.MemOk) : NextOk (execHostLaunch x desc s) := by
  unfold Machine.execHostLaunch
  split
  · exact .hostLaunchStep hs
  · exact .ite (.hostLaunchStep hs.onCtx) (.next hs.onCtx)

/-! ### CANCEL, WAITL, SPAWN -/

theorem KeepsMem.handleArg {v} : KeepsMem (handleArg v) := .bind .faultIf fun _ => .pure

theorem NextOk.execWaitl {d a b} {s : State} (hs : s.MemOk) : NextOk (execWaitl d a b s) :=
  .instr .noPre (fun _ => .seqBody fun _ => .bind .me fun _ => .bind .handleArg fun _ => .get fun _ _ => by
    split
    · exact .writeDst
    · exact .bind .waitIf fun _ => .writeDst) hs

theorem NextOk.execSpawn {d a} {s : State} (hs : s.MemOk) : NextOk (execSpawn d a s) :=
  .instr .noPre (fun _ => .seqBody fun _ => .bind .me fun _ => .bind .lowSpace fun _ => .bind .faultIf fun _ => .bind .whoami fun _ =>
    .bind .memReadBytes fun _ => .bind .faultIf fun _ => .get fun _ _ => .ite .writeDst (by
    split
    · exact .writeDst
    · exact .bind .performed fun _ => .bind .putLevel fun _ => .bind .pushTail fun _ => .writeDst)) hs

/-! ### Graphs -/

theorem KeepsMem.readNode {w p} : KeepsMem (readNode w p) :=
  .bind .faultIf fun _ => .bind .faultIf fun _ => .bind .memReadBytes fun _ => by
    split
    · exact .fault
    · exact .pure

theorem KeepsMem.readW {w n} : KeepsMem (readW w n) := .bind .pointerOk fun _ => .bind .faultIf fun _ => .bind .memReadNat fun _ => .pure

theorem KeepsMem.decideNodeDiverged {x} {s : State} (hs : s.MemOk) : KeepsMem (decideNode.diverged x s) :=
  .bind (.set hs.diverge) fun _ => .pure

theorem KeepsMem.decideNode {x node v} : KeepsMem (decideNode x node v) :=
  .get fun _ hs => .ite (.bind .logAppend fun _ => .pure) (by
    split
    · exact .ite (.bind (.set hs.logTake) fun _ => .pure) (.decideNodeDiverged hs)
    · exact .decideNodeDiverged hs)

theorem KeepsMem.graphGoto {x g node f} : KeepsMem (graphGoto x g node f) :=
  .get fun _ _ => by
    split
    · exact .pure
    · exact .putLevel

theorem KeepsMem.graphBranch {x g node r} {f : Nat → X Int} (hf : ∀ u, KeepsMem (f u)) : KeepsMem (graphBranch x g node r f) := by
  unfold Machine.graphBranch
  split
  · exact .pure
  · exact .bind (hf _) fun _ => .graphGoto

theorem KeepsMem.graphLaunch {w g l n} : KeepsMem (graphLaunch w g l n) :=
  .bind .readDesc fun _ => .bind .faultIf fun _ => .bind .launchHeader fun _ => .bind .enterLevel fun _ => .faultIf

theorem KeepsMem.graphAct {w g l node n} : KeepsMem (graphAct w g l node n) :=
  .bind .waitIf fun _ => by
    split
    · exact .bind .graphLaunch fun _ => .graphGoto
    · exact .bind .readW fun _ => .bind .decideNode fun _ => .graphBranch fun _ => .pure
    · exact .bind .readW fun _ => .bind .decideNode fun _ => .graphBranch fun _ => .ite (.bind .memWriteNat fun _ => .pure) .pure
    · exact .bind .readW fun _ => .bind .decideNode fun _ => .graphBranch fun _ => .bind .memReadNat fun _ => .pure
    · exact .get fun _ _ => by
        split
        · exact .pure
        · exact .bind .putLevel fun _ => .settle

theorem KeepsMem.graphFail {x g l node code} : KeepsMem (graphFail x g l node code) :=
  .bind .cancelLevel fun _ => .modify fun _ hs => hs.deliverOther

theorem NextOk.graphStep {type x g} {s : State} (hs : s.MemOk) : NextOk (graphStep type x g s) := by
  unfold Machine.graphStep
  split
  · exact .next hs
  · split
    · exact .next hs
    · exact .ite (.next hs) (.partStep (.bind (.attempt (.bind .readNode fun _ => .ite .graphAct .pure)) fun _ => by
        split
        · exact .pure
        · exact .bind (.set hs) fun _ => .graphFail) hs)

/-! ### Dispatch -/

theorem State.MemOk.zeroChip {s : State} {k n} (hs : s.MemOk) : (s.zeroChip k n).MemOk := hs.clearRange

theorem State.MemOk.placeGroup {s : State} {x r h clustered batch p} (hs : s.MemOk) : (s.placeGroup x r h clustered batch p).MemOk :=
  hs.zeroChip

theorem State.MemOk.dispatch {s : State} {x prio q ps} (hs : s.MemOk) : (s.dispatch x prio q ps).MemOk :=
  hs.foldl fun _ _ ht => ht.placeGroup

theorem State.MemOk.serve {c f n : Nat} {s : State} (hs : s.MemOk) : (serve c f n s).MemOk := by
  induction f generalizing n s with
  | zero => exact hs
  | succ f ih =>
    unfold Machine.serve
    extract_lets x
    split
    · exact ih hs
    next p _ =>
      refine .ite ?_ (ih hs.onCtx)
      generalize hu : State.dispatch _ _ _ _ _ = u
      have hd : u.MemOk := hu ▸ State.MemOk.dispatch hs.onCtx
      exact hd.of_eq rfl rfl

/-! ### Pre-emption (R281, R282) -/

theorem State.MemOk.treat {s : State} {c i t} (hs : s.MemOk) : (s.treat c i t).MemOk := hs.onGroup

theorem KeepsMem.replayTreatment {x g} : KeepsMem (replayTreatment x g) :=
  .get fun _ hs => by
    split
    · exact .wait
    · exact .bind .waitIf fun _ => .bind (.set hs.logTake) fun _ => .pure

theorem KeepsMem.decideTreatment {x core g t} : KeepsMem (decideTreatment x core g t) :=
  .get fun _ _ => .ite .replayTreatment (.bind .logAppend fun _ => .pure)

theorem KeepsMem.preempt {x it v} : KeepsMem (preempt x it v) :=
  .get fun _ _ => .bind .decideTreatment fun _ => .modify fun _ hs1 => hs1.treat.onCtx

theorem KeepsMem.replayCluster {x prio q cluster} {n : Nat} : KeepsMem (replayCluster x prio q cluster n) := by
  induction n with
  | zero => exact .pure
  | succ n ih =>
    refine .get fun _ _ => ?_
    split
    · exact .pure
    · exact .bind .preempt fun _ => ih

theorem KeepsMem.replayPreempt {x prio q} : KeepsMem (replayPreempt x prio q) :=
  .get fun _ hs => .ite (.set hs.diverge) (by
    split
    · exact .pure
    · exact .bind .preempt fun _ => .ite .replayCluster .pure)

theorem KeepsMem.preemptFor {x prio} : KeepsMem (preemptFor x prio) :=
  .get fun _ _ => .ite .pure (by
    split
    · exact .pure
    · exact .ite .pure (.ite .replayPreempt (.forM fun _ => .preempt)))

theorem State.MemOk.tryDo {s : State} {x : X Unit} (hs : s.MemOk) (hx : KeepsMem x) : (s.tryDo x).MemOk := by
  unfold State.tryDo
  split
  next h => exact hs.runs h hx
  · exact hs

theorem NextOk.execDispatchDecision {s : State} (hs : s.MemOk) : NextOk (execDispatchDecision s) :=
  .ite (.next hs) (.next (.foldl (by
    split
    · exact hs
    · exact hs.serve) fun _ _ ht => ht.foldl fun _ _ ht1 => ht1.tryDo .preemptFor))

/-! ### The start of a group (R269) -/

theorem NextOk.execGroupStart {c i} {s : State} (hs : s.MemOk) : NextOk (execGroupStart c i s) := by
  unfold Machine.execGroupStart
  split
  · exact .next hs
  · split
    · exact .ite (.next hs) (.next hs.setGroup)
    · exact .next hs

/-! ### Leaving a slot -/

theorem State.MemOk.vacate {s : State} {c i} (hs : s.MemOk) : (s.vacate c i).MemOk := by
  unfold State.vacate
  split
  · exact hs
  · exact .onCore (hs.releaseBars.foldl fun _ _ ht => ht.leaveQueues)

theorem KeepsMem.joinArrive {w p} : KeepsMem (joinArrive w p) := .bind .memReadNat fun _ => .bind .memWriteNat fun _ => .pure

theorem KeepsMem.pushFrom {w p} : KeepsMem (pushFrom w p) := .bind .memReadBytes fun _ => .bind .faultIf fun _ => .pushRecord

theorem KeepsMem.joinParent {w r} : KeepsMem (joinParent w r) :=
  .ite .pure (.bind .pointerOk fun _ => .bind .faultIf fun _ => .bind .memReadNat fun _ => .bind .pointerOk fun _ =>
    .bind .faultIf fun _ => .bind .joinArrive fun _ => .ite .pushFrom .pure)

theorem KeepsMem.leaveWith {last : X Unit} (hlast : KeepsMem last) : KeepsMem (leaveWith last) :=
  .bind .me fun _ => .get fun _ hs => .bind hlast fun _ => .bind (.modify fun _ hs1 => hs1.vacate) fun _ => .get fun _ hs1 =>
    .ite (.bind (.set hs1.releaseStreams) fun _ => .pure) (.bind (.set hs.releaseStreams) fun _ => .pure)

theorem NextOk.execEndGroup {s : State} (hs : s.MemOk) : NextOk (execEndGroup s) :=
  .instr .computeOnly (fun _ => .bind .me fun _ => .bind .faultIf fun _ => .bind .faultIf fun _ => .bind .awaitCopies fun _ =>
    .bind .whoami fun _ => .leaveWith (.bind .joinParent fun _ => .bind .groupDone fun _ => .modify fun _ hs1 => hs1.partMates)) hs

theorem NextOk.execPark {a} {s : State} (hs : s.MemOk) : NextOk (execPark a s) :=
  .instr .computeOnly (fun _ => .bind .me fun _ => .bind .whoami fun _ => .bind .faultIf fun _ => .bind .lowSpace fun _ =>
    .bind .faultIf fun _ => by
    split
    · exact .fault
    · exact .bind .awaitCopies fun _ => .leaveWith (.bind .memWriteBytes fun _ => .bind .memWriteBytes fun _ => .bind .joinArrive fun _ =>
        .ite .pushFrom .pure)) hs

/-! ### FORK and MEET -/

theorem KeepsMem.startRole {k delta} : KeepsMem (startRole k delta) :=
  .bind .me fun _ => .ite .pure (by
    split <;> exact .modify fun _ hs => hs.onGroup)

theorem NextOk.execFork {x y} {s : State} (hs : s.MemOk) : NextOk (execFork x y s) :=
  .instr .computeOnly (fun _ => .seqBody fun _ => .bind .me fun _ => .bind .faultIf fun _ => .bind .faultIf fun _ =>
    .bind .performed fun _ => .bind .startRole fun _ => .startRole) hs

theorem NextOk.meetArrive {s : State} (hs : s.MemOk) : NextOk (meetArrive s) :=
  .instr .noPre (fun _ => .bind .me fun _ => .bind .performed fun _ => .get fun _ _ => .bind (.modify fun _ hs2 =>
    hs2.leaveQueues.onRole) fun _ => .pure) hs

theorem NextOk.meetCompute {s : State} (hs : s.MemOk) : NextOk (meetCompute s) :=
  .instr .noPre (fun _ => .seqBody fun _ => .bind .me fun _ => .bind .waitIf fun _ => .ite .pure (by
    split
    · exact .fault
    · exact .modify fun _ hs1 => hs1.onGroup)) hs

theorem NextOk.execMeet {s : State} (hs : s.MemOk) : NextOk (execMeet s) := by
  unfold Machine.execMeet
  split
  · exact .meetCompute hs
  · exact .meetArrive hs
  · exact .meetArrive hs

/-! ### YIELD (R284) -/

theorem State.MemOk.squashAll {s : State} {c i g} (hs : s.MemOk) : (s.squashAll c i g).MemOk :=
  hs.foldl fun _ _ ht => .ite ht ht.squash.onGroup

theorem State.MemOk.leaveYield {s : State} {c i} (hs : s.MemOk) : (s.leaveYield c i).MemOk := by
  unfold State.leaveYield
  split
  · exact hs
  · exact hs.onGroup.askStreams

theorem KeepsMem.saveGroup {frame save restore cont} : KeepsMem (saveGroup frame save restore cont) :=
  .bind .me fun _ => .bind .whoami fun _ => .get fun _ hs => by
    split
    · exact .pure
    · exact .bind (.attempt .writeRun) fun _ => by
        split
        · exact .trapKept hs.onGroup
        · exact .bind (.modify fun _ hs1 => .onGroup (hs1.foldl fun _ _ ht => ht.dropCmd)) fun _ => .pure

theorem KeepsMem.yieldMarked {x y} : KeepsMem (yieldMarked x y) :=
  .bind .me fun _ => by
    dsimp only
    split
    · exact .get fun _ hs => .bind .waitIf fun _ => .bind (.attempt .heldFault) fun _ => .bind (by
        split
        · exact .trapKept hs.onGroup
        · exact .pure) fun _ => .ite (.bind (.set hs.onGroup) fun _ => .pure) (.bind (.set hs.onGroup.squashAll.askStreams) fun _ =>
            .ite .pure .saveGroup)
    · exact .fault

theorem NextOk.execYield {x y} {s : State} (hs : s.MemOk) : NextOk (execYield x y s) :=
  .instr .computeOnly (fun _ => .bind .me fun _ => .bind .faultIf fun _ => .bind .lowSpace fun _ => .bind .faultIf fun _ => by
    split
    · exact .yieldMarked
    · exact .pure) hs

theorem State.MemOk.onStreams {s : State} {f : Nat → Stream → Stream} (hs : s.MemOk) : (s.onStreams f).MemOk := hs

theorem State.MemOk.takeStreams {s : State} {id g} (hs : s.MemOk) : (s.takeStreams id g).MemOk := hs.onStreams

theorem NextOk.execSaveSequenceEnd {c i} {s : State} (hs : s.MemOk) : NextOk (execSaveSequenceEnd c i s) := by
  unfold Machine.execSaveSequenceEnd
  split
  · exact .next hs
  · split
    · exact .ite (.next hs) (.partStep (.bind .pushRecord fun _ => .modify fun _ hs1 => hs1.takeStreams.vacate) hs)
    · exact .next hs

/-! ### Restore (R287) -/

theorem KeepsMem.restoreState {c i g w} : KeepsMem (restoreState c i g w) :=
  .bind .pointerOk fun _ => .bind .faultIf fun _ => .bind .readRun fun _ => .bind .faultIf fun _ => .bind .readRun fun _ =>
    .bind .readRun fun _ => .bind .readRun fun _ => .bind .readRun fun _ => .bind (by
    split
    · exact .fault
    · exact .pure) fun _ => .bind .faultIf fun _ => .bind .faultIf fun _ => .get fun _ _ => .modify fun _ hs1 => hs1.onGroup

theorem KeepsMem.restoreCommand {w p k} : KeepsMem (restoreCommand w p k) :=
  .bind .readRun fun _ => by
    split
    · exact .fault
    · exact .bind .enqueueCopy fun _ => .pure

theorem State.MemOk.returnStreams {s : State} {c i g strm} (hs : s.MemOk) : (s.returnStreams c i g strm).MemOk := hs.onStreams

theorem KeepsMem.restoreRest {c i g w restore cont} : KeepsMem (restoreRest c i g w restore cont) :=
  .bind .readRun fun _ => .get fun _ hs => by
    split
    · exact .pure
    · exact .set hs.returnStreams.onGroup

theorem KeepsMem.restoreStep {c i g} : KeepsMem (restoreStep c i g) := by
  unfold Machine.restoreStep
  dsimp only
  split
  · exact .restoreState
  · exact .bind (.modify fun _ hs => hs) fun _ => .bind .readRun fun _ => .ite (.bind .restoreCommand fun _ => .modify fun _ hs =>
      hs.onGroup) (.bind .awaitCopies fun _ => .restoreRest)
  · exact .pure

theorem NextOk.execGroupRestore {c i} {s : State} (hs : s.MemOk) : NextOk (execGroupRestore c i s) := by
  unfold Machine.execGroupRestore
  split
  · exact .next hs
  · exact .ite (.next hs) (by
      split
      next h1 => exact .next (.of_eq (hs.runs h1 .restoreStep) rfl rfl)
      next h1 => exact .next (.takeFault (.of_eq (.getD (hs.kept h1 .restoreStep) hs) rfl rfl))
      · exact .next hs
      next h1 => exact .next (hs.asked h1 .restoreStep hs)
      · exact .fault)

theorem NextOk.execRestoreSequenceEnd {c i} {s : State} (hs : s.MemOk) : NextOk (execRestoreSequenceEnd c i s) := by
  unfold Machine.execRestoreSequenceEnd
  split
  · exact .next hs
  · split
    · exact .ite (.next hs) (.next hs.setGroup)
    · exact .next hs

/-! ### Kill (R283) -/

theorem State.MemOk.dropCopies {s : State} {c i g} {which : Cmd → Bool} (hs : s.MemOk) : (s.dropCopies c i g which).MemOk :=
  hs.foldl fun _ _ ht => ht.abandonCmd.dropCmd

theorem KeepsMem.killEnd {c i g requeue ended} : KeepsMem (killEnd c i g requeue ended) :=
  .iteThen .pushRecord fun _ => .iteThen .groupDone fun _ => .modify fun _ hs => hs.partMates.vacate

theorem NextOk.execGroupKill {c i} {s : State} (hs : s.MemOk) : NextOk (execGroupKill c i s) := by
  unfold Machine.execGroupKill
  split
  · exact .next hs
  · split
    · exact .ite (.next hs.onGroup.dropCopies) (.ite (.partStep .killEnd hs.onGroup.dropCopies.dropCopies.releaseStreams)
      (.next hs.onGroup.dropCopies.dropCopies.releaseStreams))
    · exact .next hs

theorem NextOk.execCheckpointTimeout {c i} {s : State} (hs : s.MemOk) : NextOk (execCheckpointTimeout c i s) := by
  unfold Machine.execCheckpointTimeout
  split
  · exact .next hs
  · split
    · exact .ite (.next hs) (.ite (.partStep (.bind .decideTreatment fun _ => .modify fun _ hs1 =>
        hs1.treat.leaveYield) hs) (.next hs.treat.leaveYield))
    · exact .next hs

end Sys2Proof.Machine
end

section
/-! PROOFS. Every step keeps memory's canonical form (O60), IX: contexts, pages and faults. -/

namespace Sys2Proof.Machine

open Sys2Proof

/-! ### Commands (R235, R236) -/

theorem State.MemOk.rejectCtx {s : State} {x err} (hs : s.MemOk) : (s.rejectCtx x err).MemOk := hs.onCtx

theorem NextOk.ctxCommand {by_} {act : CtxId → State → Host.Outcome State Fault Refusal} {s : State}
    (hact : ∀ u (t : State), t.MemOk → NextOk (act u t)) (hs : s.MemOk) : NextOk (ctxCommand by_ act s) :=
  .ite (.next hs) (.ite (.next hs.rejectCtx) (.ite (.next hs.rejectCtx) (hact _ _ hs)))

theorem NextOk.notNow {x} {s : State} (hs : s.MemOk) : NextOk (notNow x s) := .next hs.rejectCtx

/-! ### CREATE (R237, R238) -/

theorem NextOk.execCreate {by_} {s : State} (hs : s.MemOk) : NextOk (execCreate by_ s) :=
  .ctxCommand (fun _ _ ht => .ite (.notNow ht) (by
    dsimp only
    split
    next h =>
      split
      · exact .next (.rejectCtx (ht.runs h .rawRead))
      · exact .next (.onCtx (ht.runs h .rawRead))
    · exact .fault
    · exact .next ht.rejectCtx)) hs

/-! ### LOAD (R237, R238, R245, R356) -/

theorem KeepsMem.partRead {x pa n} : KeepsMem (partRead x pa n) := .ite .pure (.get fun _ _ => .bind .rawRead fun _ => .pure)

theorem KeepsMem.partWrite {x pa bs} : KeepsMem (partWrite x pa bs) := .get fun _ _ => .rawWrite

theorem KeepsMem.readFpqs {x} : KeepsMem (readFpqs x) := .get fun _ _ => .ite .pure (.bind .partRead fun _ => .pure)

theorem KeepsMem.loadNow {x} : KeepsMem (loadNow x) :=
  .get fun _ hs => .ite (.set hs.onCtx.rejectCtx) (.bind .partRead fun _ => by
    dsimp only
    split
    · exact .set hs.onCtx.rejectCtx
    · exact .ite (.set hs.onCtx.rejectCtx) (.bind .readFpqs fun _ => .modify fun _ hs1 => hs1.onCtx))

theorem NextOk.execLoad {by_} {s : State} (hs : s.MemOk) : NextOk (execLoad by_ s) :=
  .ctxCommand (fun _ _ ht => .ite (.notNow ht) (.ite (.next ht.onCtx) (.partStep .loadNow ht))) hs

/-! ### RUN, SUSPEND, RESUME, DRAIN (R236, R239) -/

theorem NextOk.execRun {by_} {s : State} (hs : s.MemOk) : NextOk (execRun by_ s) :=
  .ctxCommand (fun _ _ ht => .ite (.notNow ht) (.next ht.onCtx)) hs

theorem NextOk.execSuspend {by_} {s : State} (hs : s.MemOk) : NextOk (execSuspend by_ s) :=
  .ctxCommand (fun _ _ ht => .ite (.notNow ht) (.next ht.suspendCtx.parkStreams)) hs

theorem KeepsMem.drainCtx {x} : KeepsMem (drainCtx x) := .bind .keepReady fun _ => .modify fun _ hs => hs.onGroupsOf.onCtx

theorem NextOk.execResume {by_} {s : State} (hs : s.MemOk) : NextOk (execResume by_ s) :=
  .ctxCommand (fun _ _ ht => .ite (.notNow ht) (.ite (.partStep .drainCtx ht.askStreams) (.next ht.askStreams.onCtx))) hs

theorem NextOk.execDrain {by_} {s : State} (hs : s.MemOk) : NextOk (execDrain by_ s) :=
  .ctxCommand (fun _ _ ht => by
    split
    · exact .next ht.onCtx
    · exact .partStep .drainCtx ht
    · exact .partStep .drainCtx ht
    · exact .partStep .drainCtx ht
    all_goals exact .notNow ht) hs

/-! ### The end of SUSPEND and DRAIN -/

theorem State.MemOk.writeBackCtx {s : State} {x} (hs : s.MemOk) : (s.writeBackCtx x).MemOk :=
  .foldl (.foldl (hs.foldl fun _ _ ht => ht.tryDo .partWrite) fun _ _ ht => ht.tryDo .partWrite) fun _ _ ht => ht.tryDo .bindqBack

theorem NextOk.execDrainComplete {x} {s : State} (hs : s.MemOk) : NextOk (execDrainComplete x s) :=
  .ite (by
    split
    next h => exact .next (.onCtx (.writeBackCtx (hs.runs h .cancelAll)))
    · exact .fault
    · exact .next hs) (.next hs)

/-! ### Zeroing (R246) -/

theorem State.MemOk.zeroUnder {s : State} {key pa n} (hs : s.MemOk) : (s.zeroUnder key pa n).MemOk := hs.zeroRange

theorem State.MemOk.zeroCore {s : State} {x c} (hs : s.MemOk) : (s.zeroCore x c).MemOk :=
  .onCore (.zeroChip (.zeroChip (hs.foldl fun _ _ ht => .ite ht.zeroChip ht)))

theorem State.MemOk.scrub {s : State} {x} (hs : s.MemOk) : (s.scrub x).MemOk :=
  .onCtx (.foldl (hs.foldl fun _ _ ht => ht.zeroUnder) fun _ _ ht => ht.zeroCore)

theorem State.MemOk.resumeLoads {s : State} (hs : s.MemOk) : s.resumeLoads.MemOk := hs.foldl fun _ _ ht => .ite (ht.tryDo .loadNow) ht

/-! ### REKEY (R244) -/

theorem State.MemOk.rekeyAtom {src : State} {old new} {t : State} {a} (ht : t.MemOk) : (rekeyAtom src old new t a).MemOk := by
  unfold Machine.rekeyAtom
  split
  · exact ht
  · split
    · exact ht.putBytes
    · exact .ite ht ht
    · exact ht

theorem State.MemOk.rekeyMeta {s : State} {new page} (hs : s.MemOk) : (s.rekeyMeta new page).MemOk := by
  unfold State.rekeyMeta
  split
  · exact hs
  · exact .countTree (hs.zeroRange.foldl fun _ _ ht => ht.putMac)

theorem State.MemOk.rekeyRange {src : State} {old new} {t : State} {r} (ht : t.MemOk) : (src.rekeyRange old new t r).MemOk :=
  ht.foldl fun _ _ ht1 => by
    dsimp only
    split
    · exact .foldl (ht1.foldl fun _ _ ht2 => ht2.rekeyAtom) fun _ _ ht2 => ht2.rekeyMeta
    · exact ht1.foldl fun _ _ ht2 => ht2.rekeyAtom
    · exact ht1.foldl fun _ _ ht2 => ht2.rekeyAtom

theorem State.MemOk.rekey {s : State} {x n} (hs : s.MemOk) : (s.rekey x n).MemOk := by
  unfold State.rekey
  extract_lets c old ko mine ranges s1 s2 s3 s4
  have hs1 : s1.MemOk := hs.foldl fun _ _ ht => ht.tryDo .rawWrite
  have hs2 : s2.MemOk := hs1.foldl fun _ _ ht => .ite (ht.tryDo .rawWrite) ht
  have hs3 : s3.MemOk := hs2.foldl fun _ _ ht => ht.rekeyRange
  have hs4 : s4.MemOk := hs3.onCtx
  clear_value s4
  exact hs4.of_eq rfl rfl

theorem NextOk.execRekey {by_} {s : State} (hs : s.MemOk) : NextOk (execRekey by_ s) :=
  .ctxCommand (fun _ _ ht => .ite (.notNow ht) (.ite (.next ht.rejectCtx) (.next ht.rekey))) hs

/-! ### TLBI (R364) -/

theorem State.MemOk.invalidate {s : State} {d} (hs : s.MemOk) : (s.invalidate d).MemOk := hs

theorem KeepsMem.setDrain {d} : KeepsMem (setDrain d) := .bind .me fun _ => .modify fun _ hs => hs.onRole

theorem KeepsMem.tlbiWait {d} : KeepsMem (tlbiWait d) :=
  .get fun _ _ => .ite (.bind .setDrain fun _ => .pure) (.bind .setDrain fun _ => .pure)

theorem NextOk.execTlbi {a b} {s : State} (hs : s.MemOk) : NextOk (execTlbi a b s) :=
  .instr .needSys (fun _ => .bind .me fun _ => by
    split
    · exact .tlbiWait
    · exact .bind .faultIf fun _ => .bind .faultIf fun _ => .bind .performed fun _ => .get fun _ hs1 =>
        .bind (.set hs1.invalidate.askStreams) fun _ => .tlbiWait) hs

/-! ### Walks for lines that NEXT names (R354, R457) -/

theorem KeepsMem.walkStep {w} : KeepsMem (walkStep w) :=
  .ite (.bind .directory fun _ => .pure) (.bind .tableRead fun _ => .bind .faultIf fun _ => .iteBind .grow .pure fun _ =>
    .bind .leafOk fun _ => .bind .faultIf fun _ => .bind (.modify fun _ hs => hs.tlbFill) fun _ => .bind .fetchLine fun _ => .pure)

theorem NextOk.execPageWalk {i} {s : State} (hs : s.MemOk) : NextOk (execPageWalk i s) := by
  unfold Machine.execPageWalk
  split
  · exact .next hs
  · dsimp only
    split
    next h1 => exact .next (.runs h1 .walkStep (.of_eq hs rfl rfl))
    next h1 => exact .next (.of_eq (.runs h1 .walkStep (.of_eq hs rfl rfl)) rfl rfl)
    · exact .next (.of_eq hs rfl rfl)

/-! ### Free-page queues (R356, R357) -/

theorem State.MemOk.rejectFpq {s : State} {x err} (hs : s.MemOk) : (s.rejectFpq x err).MemOk := hs.onCtx

theorem NextOk.execFpqcmd {by_ v} {s : State} (hs : s.MemOk) : NextOk (execFpqcmd by_ v s) :=
  .ite (.next hs) (.next (.ite hs.onCtx.rejectFpq (.ite hs.onCtx.rejectFpq (.ite hs.onCtx.rejectFpq (.ite hs.onCtx.rejectFpq
    (.ite hs.onCtx.rejectFpq hs.onCtx.onCtx))))))

theorem KeepsMem.zeroPage {key pa} : KeepsMem (zeroPage key pa) :=
  .get fun _ hs => by
    split
    · exact .set hs.zeroUnder
    · exact .forM fun _ => .bind (.attempt .poolWriteLine) fun _ => .pure
    · exact .pure

theorem KeepsMem.appendPage {x q pa} : KeepsMem (appendPage x q pa) :=
  .get fun _ _ => .bind .tableWrite fun _ => .modify fun _ hs1 => hs1.onCtx

theorem NextOk.execFpqPageZeroed {x} {s : State} (hs : s.MemOk) : NextOk (execFpqPageZeroed x s) := by
  unfold Machine.execFpqPageZeroed
  split
  · exact .next hs
  · exact .partStep (.bind .zeroPage fun _ => .bind .appendPage fun _ => .modify fun _ hs1 => hs1.onCtx) hs

/-! ### PGMIG (R365) -/

theorem KeepsMem.moveAtom {key src dst} : KeepsMem (moveAtom key src dst) :=
  .bind (.attempt .rawRead) fun _ => .bind (.attempt .rawWrite) fun _ => .ite (.bind (.attempt .poisonPa) fun _ => .pure) .pure

theorem KeepsMem.movePage {key cmp src dst} : KeepsMem (movePage key cmp src dst) :=
  .forM fun _ => .get fun _ _ => .bind (.forM fun _ => .moveAtom) fun _ => .ite (.modify fun _ hs1 => hs1.setSize) .pure

theorem KeepsMem.leafNow {x va} : KeepsMem (leafNow x va) :=
  .bind (.attempt (.bind .leafAddress fun _ => .bind .tableRead fun _ => .pure)) fun _ => by
    split <;> exact .pure

theorem KeepsMem.migrate {x va at3 f q r d} : KeepsMem (migrate x va at3 f q r d) :=
  .get fun _ _ => .bind (.attempt .tableRead) fun _ => .bind (.modify fun _ hs1 => hs1.onCtx) fun _ => .bind .movePage fun _ =>
    .bind .tableWrite fun _ => .bind (.modify fun _ hs1 => hs1.invalidate) fun _ => .bind .zeroPage fun _ => .appendPage

theorem State.MemOk.squashHolders {s : State} {d} (hs : s.MemOk) : (s.squashHolders d).MemOk :=
  hs.foldl fun _ _ ht => ht.foldl fun _ _ ht1 => ht1.squash

theorem NextOk.execPgmig {d a b} {s : State} (hs : s.MemOk) : NextOk (execPgmig d a b s) :=
  .instr .noPre (fun _ => .bind .me fun _ => .bind .whoami fun _ => .bind .faultIf fun _ => .bind .faultIf fun _ => .bind .faultIf fun _ =>
    .bind .translate fun _ => .bind .leafNow fun _ => .get fun _ _ => by
    dsimp only
    split
    · exact .bind .setDrain fun _ => .bind .writeDst fun _ => .pure
    · split
      · exact .bind .setDrain fun _ => .bind .writeDst fun _ => .pure
      · exact .ite (.bind .setDrain fun _ => .pure) (.bind (.modify fun _ hs2 => hs2.squashHolders) fun _ => .bind .migrate fun _ =>
          .bind .setDrain fun _ => .bind .writeDst fun _ => .pure)) hs

/-! ### HBMSPLIT and ENCNUM (R344, R414) -/

theorem State.MemOk.forgetLocal {s : State} (hs : s.MemOk) : s.forgetLocal.MemOk := hs.openRange

theorem NextOk.execHbmsplitWrite {v} {s : State} (hs : s.MemOk) : NextOk (execHbmsplitWrite v s) :=
  .ite (.next hs) (.next (.forgetLocal hs))

theorem NextOk.execEncnumWrite {v} {s : State} (hs : s.MemOk) : NextOk (execEncnumWrite v s) := .ite (.next hs) (.next (.ite hs hs))

/-! ### ROLECMD (R430) -/

theorem State.MemOk.rejectRole {s : State} {a err} (hs : s.MemOk) : (s.rejectRole a err).MemOk := hs.onPriv

theorem NextOk.roleCommand {by_} {bad : RoleId → Group → Role → State → Bool}
    {act : RoleId → Group → Role → State → Host.Outcome State Fault Refusal} {s : State}
      (hact : ∀ u v w (t : State), t.MemOk → NextOk (act u v w t)) (hs : s.MemOk) : NextOk (roleCommand by_ bad act s) :=
  .ite (.next hs) (.ite (.next hs.rejectRole) (.ite (.next hs.rejectRole) (by
    split
    · exact .next hs.rejectRole
    · exact .ite (.next hs.rejectRole) (.ite (.next hs.rejectRole) (hact _ _ _ _ hs)))))

theorem State.MemOk.restartHeld {s : State} {id g k} (hs : s.MemOk) : (s.restartHeld id g k).MemOk :=
  .ite hs (hs.foldl fun _ _ ht => by
    split
    · exact .ite (ht.tryDo .startAt) ht
    all_goals exact ht)

theorem State.MemOk.passRestoreEnter {s : State} {c i g cont} (hs : s.MemOk) : (State.passRestore.enter s c i g cont).MemOk := hs.onGroup

theorem State.MemOk.passRestore {s : State} {c i} (hs : s.MemOk) : (s.passRestore c i).MemOk := by
  unfold State.passRestore
  split
  · exact hs
  · split
    · exact .ite hs.passRestoreEnter hs
    · exact hs.passRestoreEnter
    · exact hs
    · exact hs
    · exact hs
    · exact hs
    · exact hs
    · exact hs

theorem State.MemOk.passBy {s : State} {id} (hs : s.MemOk) : (s.passBy id).MemOk := .ite hs.onRole.leaveYield.passRestore hs.onRole

theorem NextOk.execRoleResume {by_} {s : State} (hs : s.MemOk) : NextOk (execRoleResume by_ s) :=
  .roleCommand (fun _ _ _ _ ht => .next ht.restartHeld.resumeAt) hs

theorem NextOk.execSkip {by_} {s : State} (hs : s.MemOk) : NextOk (execSkip by_ s) :=
  .roleCommand (fun _ _ _ _ ht => .ite (.next ht.resumeAt) (by
    split
    · exact .next ht
    · exact .next ht.passBy.onRole)) hs

theorem NextOk.execResumeat {by_} {s : State} (hs : s.MemOk) : NextOk (execResumeat by_ s) :=
  .roleCommand (fun _ _ _ _ ht => .next (.resumeAt (.ite ht ht.passBy))) hs

theorem NextOk.execAbort {by_} {s : State} (hs : s.MemOk) : NextOk (execAbort by_ s) :=
  .roleCommand (fun _ _ _ _ ht => .next ht.onGroup) hs

/-! ### Device-level faults (R433, R434) -/

theorem State.MemOk.losePageTagged {key pa} {s : State} (hs : s.MemOk) : (State.losePage.tagged key pa s).MemOk := by
  have h : (s.openRange pa (2 ^ 16)).MemOk := hs.openRange
  exact h.of_eq rfl rfl

theorem State.MemOk.losePage {s : State} {key pa} (hs : s.MemOk) : (s.losePage key pa).MemOk := by
  unfold State.losePage
  split
  · exact hs
  · exact hs.losePageTagged
  · exact hs.losePageTagged.foldl fun _ _ ht => ht.editLine

theorem State.MemOk.loseWork {s : State} {x} (hs : s.MemOk) : (s.loseWork x).MemOk :=
  .ite hs (.foldl (hs.foldl fun _ _ ht => ht.foldl fun _ _ ht1 => ht1.losePage) fun _ _ ht =>
    .openRange (.openRange (ht.foldl fun _ _ ht1 => .ite ht1.openRange ht1)))

/-- An update of what is in flight. -/
theorem State.MemOk.withWork {s : State} {cores lats pcs reqs inflight walks rx coll collOwed txWait} (hs : s.MemOk) :
    State.MemOk { s with cores, lats, pcs, reqs, inflight, walks, rx, coll, collOwed, txWait } :=
  hs.of_eq rfl rfl

theorem State.MemOk.stopAll {s : State} (hs : s.MemOk) : s.stopAll.MemOk :=
  .withWork (.foldl (.foldl hs fun _ _ ht => ht.loseWork) fun _ _ ht => ht.vacate)

theorem State.MemOk.deviceFaultCtxReport {x} {s : State} {drain} (hs : s.MemOk) : (State.deviceFaultCtx.report x s drain).MemOk :=
  hs.onCtx.deliverOther

theorem State.MemOk.deviceFaultCtx {s : State} {x} (hs : s.MemOk) : (s.deviceFaultCtx x).MemOk :=
  .ite hs (by
    extract_lets s1 s2
    have hs2 : s2.MemOk := .onCtx (.tryDo (hs.tryDo .keepReady) .cancelAll)
    split
    · exact hs2.deviceFaultCtxReport
    · exact hs2.deviceFaultCtxReport
    · exact hs2.deviceFaultCtxReport
    all_goals exact hs2)

theorem State.MemOk.setStage {s : State} {stage code} (hs : s.MemOk) : (s.setStage stage code).MemOk := hs

theorem State.MemOk.enterSafe {s : State} {code} (hs : s.MemOk) : (s.enterSafe code).MemOk := hs

/-- An update of what a device-level fault shows. -/
theorem State.MemOk.withDevice {s : State} {devDf devClass devUnit devCount lostStacks} (hs : s.MemOk) :
    State.MemOk { s with devDf, devClass, devUnit, devCount, lostStacks } :=
  hs.of_eq rfl rfl

theorem State.MemOk.deviceFault {s : State} {cls unit} (hs : s.MemOk) : (s.deviceFault cls unit).MemOk := by
  unfold State.deviceFault
  extract_lets s0 s1 s2 s3
  have hs0 : s0.MemOk := hs.stopAll
  have hs1 : s1.MemOk := hs0.withDevice
  have hs2 : s2.MemOk := hs1.foldl fun _ _ ht => ht.deviceFaultCtx
  have hs3 : s3.MemOk := hs2.withDevice
  split
  · exact hs3
  · exact .ite hs3 hs3.enterSafe

/-! ### No instruction, no line, no flow -/

theorem NextOk.raiseFetch {code} {s : State} (hs : s.MemOk) : NextOk (raiseFetch code s) := by
  unfold Machine.raiseFetch
  split
  · exact .next hs
  · exact .ite (.next hs) (by
      split
      next h1 => exact .next (.takeFault (hs.runs h1 .arrive))
      · exact .next hs.takeFault)

theorem State.MemOk.endOfChain {s : State} {pc} (hs : s.MemOk) : (s.endOfChain pc).MemOk := hs.takeFault

theorem NextOk.execIllegalFlow {s : State} (hs : s.MemOk) : NextOk (execIllegalFlow s) := by
  unfold Machine.execIllegalFlow
  split
  · exact .next hs
  · exact .ite (.next (.ite hs.endOfChain hs)) (.raiseFetch hs)

end Sys2Proof.Machine
end

section
/-! PROOFS. Every step keeps memory's canonical form (O60), X: registers and the platform. -/

namespace Sys2Proof.Machine

open Sys2Proof

/-! ### The system block -/

theorem State.MemOk.sysClear {s : State} {a n v} (hs : s.MemOk) : (s.sysClear a n v).MemOk := by
  unfold State.sysClear
  dsimp only
  split
  · exact hs.onCtx
  · exact hs.onCtx
  · exact hs.onPriv
  · exact hs
  · exact hs

theorem NextOk.ctxcmdWrite {a v} {s : State} (hs : s.MemOk) : NextOk (ctxcmdWrite a v s) := by
  unfold Machine.ctxcmdWrite
  split
  · exact .execCreate hs
  · exact .execLoad hs
  · exact .execRun hs
  · exact .execSuspend hs
  · exact .execResume hs
  · exact .execDrain hs
  · exact .execRekey hs
  · exact .next hs.rejectCtx

theorem NextOk.rolecmdWrite {a v} {s : State} (hs : s.MemOk) : NextOk (rolecmdWrite a v s) := by
  unfold Machine.rolecmdWrite
  split
  · exact .execRoleResume hs
  · exact .execSkip hs
  · exact .execResumeat hs
  · exact .execAbort hs
  · exact .next hs.rejectRole

theorem NextOk.calcmdWrite {v} {s : State} (hs : s.MemOk) : NextOk (calcmdWrite v s) := by
  unfold Machine.calcmdWrite
  split
  · exact .execCalApply hs
  · exact .execCalendarReset hs
  · exact .next hs

theorem NextOk.sysWrite {a n v} {s : State} (hs : s.MemOk) : NextOk (sysWrite a n v s) := by
  unfold Machine.sysWrite
  split
  · exact .next hs.onPriv
  · exact .next hs.onPriv
  · exact .ctxcmdWrite hs
  · exact .next hs.onCtx
  · exact .next hs
  · exact .next hs
  · exact .next hs
  · exact .calcmdWrite hs
  · exact .execHbmsplitWrite hs
  · exact .next hs.onCtx
  · exact .execFpqcmd hs
  · exact .next hs
  · exact .execLatownWrite hs
  · exact .execLwinWrite hs
  · exact .next hs.onPriv
  · exact .rolecmdWrite hs
  · exact .next hs.onPriv
  · exact .next hs.onPriv
  · dsimp only
    split
    · exact .next hs
    · exact .next (.ite hs hs.onRole)
  · exact .execEncnumWrite hs
  · exact .next hs.sysClear

/-! ### CSRs of the device, the group and the role (R120 to R124) -/

theorem KeepsMem.within {f : State → Host.Outcome State Fault Refusal} (hf : ∀ t : State, t.MemOk → NextOk (f t)) : KeepsMem (within f) :=
  ⟨fun _ hs => by
    unfold Machine.within
    split
    next h => exact .ofNext h (hf _ hs)
    · exact trivial
    · exact hs⟩

theorem KeepsMem.csrWrite {op n v} : KeepsMem (csrWrite op n v) :=
  .bind .me fun _ => .get fun _ _ => .ite (.modify fun _ hs1 => hs1.onGroup) (.ite (.modify fun _ hs1 =>
    hs1.onGroup) (.ite (.ite .pure (.modify fun _ hs1 => hs1.onGroup)) (.ite .pure (by
    split
    · exact .within fun _ ht1 => .sysWrite ht1
    · exact .ite (.within fun _ ht1 => .sysWrite ht1) (.ite (.within fun _ ht1 => .sysWrite ht1) .pure)
    · exact .ite (.within fun _ ht1 => .sysWrite ht1) .pure))))

theorem KeepsMem.csrPre {n} : KeepsMem (csrPre n) := .bind .faultIf fun _ => .ite .needSys .pure

theorem NextOk.csrInstr {op a n} {s : State} (hs : s.MemOk) : NextOk (csrInstr op a n s) :=
  .instr .csrPre (fun _ => .seqBody fun _ => .csrWrite) hs

/-! ### The host's port (R234, R255, R421, R440) -/

theorem State.MemOk.mbCommand {s : State} {v} (hs : s.MemOk) : (s.mbCommand v).MemOk := .ite hs hs

theorem State.MemOk.mbWrite {s : State} {off v} (hs : s.MemOk) : (s.mbWrite off v).MemOk :=
  .ite hs.mbCommand (.ite (.of_eq hs rfl rfl) (.ite (.of_eq hs rfl rfl) (.ite (.of_eq hs rfl rfl) hs)))

theorem NextOk.launchWindowWrite {x off v} {s : State} (hs : s.MemOk) : NextOk (launchWindowWrite x off v s) :=
  .ite (.execHostLaunch hs) (.ite (.next hs.onCtx) (.next hs))

theorem NextOk.execRegisterWrite {by_ off v} {s : State} (hs : s.MemOk) : NextOk (execRegisterWrite by_ off v s) := by
  unfold Machine.execRegisterWrite
  split
  · exact .ite (.sysWrite hs) (.next hs)
  · exact .ite (.next hs) (.ite (.ite (.sysWrite hs) (.next hs)) (.ite (.launchWindowWrite hs) (.ite (.next hs.mbWrite) (.next hs))))

theorem KeepsMem.hostAccessAct {a : HostAccess} {va : Nat} : KeepsMem (a.act va) := by
  unfold Machine.HostAccess.act
  split
  · exact .memReadBytes
  · exact .bind .memWriteBytes fun _ => .pure

theorem State.MemOk.bar2End {s : State} {a c} (hs : s.MemOk) : (s.bar2End a c).MemOk := hs

theorem State.MemOk.execHostBar2AccessWait {x off len store} {s : State} (hs : s.MemOk) :
    (execHostBar2Access.wait x off len store s).MemOk :=
  .ite hs hs

theorem NextOk.execHostBar2Access {x off len store} {s : State} (hs : s.MemOk) : NextOk (execHostBar2Access x off len store s) :=
  .ite (.next hs) (.ite (.next hs.bar2End) (by
    split
    next h => exact .next (.bar2End (hs.runs h .hostAccessAct))
    · exact .next hs.bar2End.deliverOther
    · exact .next hs.execHostBar2AccessWait
    next h => exact .next (.execHostBar2AccessWait (hs.asked h .hostAccessAct hs))
    · exact .fault))

/-! ### Bring-up and power (R438, R439, R443, R444) -/

theorem State.MemOk.cold {s : State} (hs : s.MemOk) : s.cold.MemOk := hs.openRange.openRange

theorem State.MemOk.beginBringUp {s : State} (hs : s.MemOk) : s.beginBringUp.MemOk := .setStage hs.cold

theorem State.MemOk.stageEnds {s : State} {fails} (hs : s.MemOk) : (s.stageEnds fails).MemOk :=
  .ite hs (.ite hs.enterSafe (.setStage (.ite hs hs)))

/-! ### The frame of a mailbox command (R440) -/

theorem State.MemOk.mbDone {s : State} {r} (hs : s.MemOk) : (s.mbDone r).MemOk := hs

theorem NextOk.mailbox {op} {act : State → Option (BitVec 8) × State} {s : State} (hact : ∀ t : State, t.MemOk → (act t).2.MemOk)
    (hs : s.MemOk) : NextOk (mailbox op act s) :=
  .ite (.next hs) (by
    dsimp only
    split
    · exact .next (hact _ hs)
    · exact .next (.mbDone (hact _ hs)))

theorem NextOk.mailboxNow {op} {act : State → BitVec 8 × State} {s : State} (hact : ∀ t : State, t.MemOk → (act t).2.MemOk) (hs : s.MemOk) :
    NextOk (mailboxNow op act s) :=
  .mailbox (fun _ ht => hact _ ht) hs

theorem NextOk.execMbCommandComplete {s : State} (hs : s.MemOk) : NextOk (execMbCommandComplete s) :=
  .ite (.next hs) (by
    split <;> exact .next hs)

/-! ### DIAG, RESET, keys -/

theorem NextOk.execKeyload {s : State} (hs : s.MemOk) : NextOk (execKeyload s) :=
  .mailboxNow (fun _ ht => .sndIte ht (.sndIte ht (.sndIte ht (by
    split <;> exact ht)))) hs

/-! ### Firmware (R442, R443) -/

theorem NextOk.execFwstage {s : State} (hs : s.MemOk) : NextOk (execFwstage s) :=
  .mailboxNow (fun _ ht => .sndIte ht (.sndIte (by
    split
    · exact ht
    · exact .sndIte ht ht) ht)) hs

/-! ### Debug lock and audit (R444) -/

theorem NextOk.execDbgunlock {s : State} (hs : s.MemOk) : NextOk (execDbgunlock s) :=
  .mailboxNow (fun _ ht => .sndIte ht (.sndIte ht (by
    split
    · exact ht
    · exact .sndIte ht (by
        split <;> exact ht)))) hs

theorem NextOk.execDbglog {s : State} (hs : s.MemOk) : NextOk (execDbglog s) :=
  .mailboxNow (fun _ ht => by
    split <;> exact ht) hs

/-! ### Tamper, power and cooling (R445, R447) -/

/-- An update of the controller. -/
theorem State.MemOk.withController {s : State} {ctl mb} (hs : s.MemOk) : State.MemOk { s with ctl, mb } := hs.of_eq rfl rfl

theorem NextOk.execFullThrottleTimeout {s : State} (hs : s.MemOk) : NextOk (execFullThrottleTimeout s) := by
  unfold Machine.execFullThrottleTimeout
  split
  · exact .next hs
  · exact .ite (.next hs) (.next (.deviceFault hs))

/-! ### Servicing (R448) -/

theorem State.MemOk.svcOut {s : State} {key k pa} (hs : s.MemOk) : (s.svcOut key k pa).MemOk :=
  .ite hs.hbmWriteAtom.addPoison hs.hbmWriteAtom

theorem State.MemOk.svcIn {s : State} {key k pa} (hs : s.MemOk) : (s.svcIn key k pa).MemOk :=
  .ite hs.chipWrite (.ite hs.chipWrite.addPoison hs.chipWrite.openRange)

theorem State.MemOk.svcMove {s : State} {c} {one : State → Nat → Nat → State} (hs : s.MemOk)
    (hone : ∀ (t : State) u v, t.MemOk → (one t u v).MemOk) : (s.svcMove c one).MemOk :=
  hs.foldl fun _ _ ht => ht.foldl fun _ _ ht1 => hone _ _ _ ht1

theorem State.MemOk.setServiced {s : State} {c b} (hs : s.MemOk) : (s.setServiced c b).MemOk := hs

theorem NextOk.execCoresvcOut {s : State} (hs : s.MemOk) : NextOk (execCoresvcOut s) :=
  .ite (.next hs) (.mailbox (fun _ ht => .sndIte ht (.sndIte ht (.sndIte ht.setServiced (by
    dsimp only
    split
    · exact ht.setServiced.svcMove fun _ _ _ ht1 => ht1.svcOut
    · exact .zeroCore (ht.setServiced.svcMove fun _ _ _ ht1 => ht1.svcOut))))) hs)

/-! ### Pool regions (R400, R402, R403) -/

theorem State.MemOk.setRegion {s : State} {i r} (hs : s.MemOk) : (s.setRegion i r).MemOk := hs

theorem NextOk.execRegdecl {s : State} (hs : s.MemOk) : NextOk (execRegdecl s) :=
  .mailboxNow (fun _ ht => .sndIte ht (.sndIte ht (by
    split
    · exact ht
    next h =>
      split
      · exact ht.runs h .rawRead
      · exact .setRegion (ht.runs h .rawRead)))) hs

theorem State.MemOk.flushRange {s : State} {base size} (hs : s.MemOk) : (s.flushRange base size).MemOk :=
  hs.foldl fun _ _ ht => ht.foldl fun _ _ ht1 => .ite (.uncache (.ite ht1.writeBack ht1)) ht1

theorem NextOk.execRegdrop {s : State} (hs : s.MemOk) : NextOk (execRegdrop s) :=
  .mailboxNow (fun _ ha => by
    split
    · exact ha
    · exact .sndIte ha (.setRegion (ha.foldl fun _ _ ht => ht.flushRange))) hs

theorem NextOk.execRegstate {s : State} (hs : s.MemOk) : NextOk (execRegstate s) :=
  .mailbox (fun _ ht => by
    split
    · exact ht
    · exact .sndIte ht (.sndIte ht (.sndIte ht ht.setRegion))) hs

/-! ### Dynamic capacity (R407, R247, R248) -/

theorem KeepsMem.logCapacity {base data} : KeepsMem (logCapacity base data) :=
  .forM fun _ => .get fun _ hs => .ite .pure (.ite (by
    dsimp only
    split
    · exact .set hs.logTake
    · exact .bind .waitIf fun _ => .set hs.diverge) .logAppend)

theorem State.MemOk.afterLog {s : State} {base data} {f : State → State} (hs : s.MemOk) (hf : ∀ s, s.MemOk → (f s).MemOk) :
    (s.afterLog base data f).2.MemOk := by
  unfold State.afterLog
  split
  next h => exact hf _ (hs.runs h .logCapacity)
  · exact hs

theorem NextOk.execDcaccept {s : State} (hs : s.MemOk) : NextOk (execDcaccept s) :=
  .mailbox (fun _ ht => by
    split
    · exact ht
    · exact .sndIte ht (ht.afterLog fun _ hs1 => hs1.onExtent)) hs

theorem NextOk.execDcrelease {s : State} (hs : s.MemOk) : NextOk (execDcrelease s) :=
  .mailbox (fun _ ht => by
    split
    · exact ht
    · exact .sndIte ht (ht.afterLog fun _ hs1 => hs1.flushRange)) hs

/-! ### Power-down -/

theorem KeepsMem.onMyGroup {f : Group → Group} : KeepsMem (onMyGroup f) := .bind .me fun _ => .modify fun _ hs => hs.onGroup

end Sys2Proof.Machine
end

section
/-! PROOFS. Every step keeps memory's canonical form (O60), XI: instructions, turns and steps; memory at reset (O59). -/

namespace Sys2Proof.Machine

open Sys2Proof

/-! ### Instructions -/

theorem NextOk.flowEnd {g pc} {s : State} (hs : s.MemOk) : NextOk (flowEnd g pc s) := by
  unfold Machine.flowEnd
  split
  · exact .execSaveSequenceEnd hs
  · exact .execRestoreSequenceEnd hs
  · exact .next hs.endOfChain

theorem State.MemOk.advance {s : State} (hs : s.MemOk) : s.advance.MemOk := hs

/-- The next state of every instruction and of every operation of the part. -/
theorem NextOk.exec {i} {s : State} (hs : s.MemOk) : NextOk (exec i s) := by
  cases i <;> unfold Machine.exec
  case nop => exact .instr .noPre (fun _ => .seqBody fun _ => .pure) hs
  case endGroup => exact .execEndGroup hs
  case tfence => exact .instr .noPre (fun _ => .seqBody fun _ => .bind .me fun _ => .bind .performed fun _ => .faultIf) hs
  case trap | brk => exact .trapWith hs
  case fence => exact .instr .noPre (fun _ => .seqBody fun _ => .ite .pure .performed) hs
  case cyc | sel | ldi | ldih => exact .instr .noPre (fun _ => .seqBody fun _ => .writeDst) hs
  case csrr => exact .instr .csrPre (fun _ => .seqBody fun _ => .bind .me fun _ => .get fun _ _ => .writeDst) hs
  case csrw | csrs | csrc => exact .csrInstr hs
  case add | sub | mul | mulh | mulhn | div | divn | rem | remn | and | or | xor | andn | shl | shr | sar | rol | min | max | minn |
    maxn | seq | sne | slt | sltn | sle | slen | addsh1 | addsh2 | addsh3 => exact .alu2 hs
  case clz | ctz | popc | addi | andi | ori | xori | slti | shli | shri | sari | bfx | ptrx => exact .alu1 hs
  case bfi => exact .aluD hs
  case mkptr => exact .instr .noPre (fun _ => .seqBody fun _ => .bind .makePtr fun _ => .writeDst) hs
  case kset | kmin => exact .instr .noPre (fun _ => .seqBody fun _ => .onMyGroup) hs
  case kcnt | kget | tstat => exact .instr .noPre (fun _ => .seqBody fun _ => .bind .me fun _ => .writeDst) hs
  case ld | ldz =>
    exact .instr .noPre (fun _ => .seqBody fun _ => .bind .scalarChecks fun _ => .bind .whoami fun _ => .bind .memReadNat fun _ =>
      .writeDst) hs
  case st => exact .instr .noPre (fun _ => .seqBody fun _ => .bind .scalarChecks fun _ => .storeNat) hs
  case ldaq =>
    exact .instr .noPre (fun _ => .seqBody fun _ => .bind .scalarChecks fun _ => .bind .acquireRoot fun _ => .bind .whoami fun _ =>
      .bind .memReadNat fun _ => .writeDst) hs
  case strl => exact .instr .noPre (fun _ => .seqBody fun _ => .bind .scalarChecks fun _ => .bind .performed fun _ => .storeNat) hs
  case aadd | aand | aor | axor | amin | amax | aminn | amaxn | axchg => exact .atom1 hs
  case acas => exact .atomic hs
  case beq | bne | blt | bge | bltn | bgen => exact .branch hs
  case bz | bnz => exact .instr .noPre (fun _ => .pure) hs
  case jl => exact .instr .noPre (fun _ => .bind .writeDst fun _ => .pure) hs
  case jr => exact .instr .noPre (fun _ => .bind .faultIf fun _ => .bind .faultIf fun _ => .bind .writeDst fun _ => .pure) hs
  case loop =>
    exact .instr .faultIf (fun _ => .bind .me fun _ => .ite (.bind .whoami fun _ => .loopSkip) (.bind (.modify fun _ hs1 =>
      hs1.onRole) fun _ => .pure)) hs
  case qbind => exact .execQbind hs
  case qlen => exact .instr .needPort (fun _ => .seqBody fun _ => .bind .myQueue fun _ => .get fun _ _ => .writeDst) hs
  case qpeek =>
    exact .instr .needPort (fun _ => .seqBody fun _ => .bind .whoami fun _ => .bind .myQueue fun _ => .bind .queuePeek fun _ =>
      .writeDst) hs
  case qtry => exact .execQtry hs
  case qpusht => exact .execQpusht hs
  case qcreate => exact .execQcreate hs
  case qdel => exact .execQdel hs
  case gld =>
    exact .instr .noPre (fun _ => .seqBody fun _ => .bind .genAccess fun _ => .bind .whoami fun _ => .bind .memReadBytes fun _ =>
      .setGen) hs
  case gst =>
    exact .instr .noPre (fun _ => .seqBody fun _ => .bind .genAccess fun _ => .bind .me fun _ => .bind .whoami fun _ =>
      .storing .memWriteBytes) hs
  case gadv => exact .execGadv hs
  case gset => exact .instr .noPre (fun _ => .seqBody fun _ => .bind .me fun _ => .setGen) hs
  case binit => exact .execBinit hs
  case barr =>
    exact .instr .noPre (fun _ => .seqBody fun _ => .bind .checkBar fun _ => .bind .performed fun _ => .bind (.modify fun _ hs1 =>
      hs1.setBar) fun _ => .writeDst) hs
  case bwait => exact .instr .noPre (fun _ => .seqBody fun _ => .bind .checkBar fun _ => .bind .waitIf fun _ => .writeDst) hs
  case bsync => exact .execBsync hs
  case btest => exact .instr .noPre (fun _ => .seqBody fun _ => .bind .checkBar fun _ => .writeDst) hs
  case spawn => exact .execSpawn hs
  case park => exact .execPark hs
  case cancel => exact .instr .noPre (fun _ => .seqBody fun _ => .bind .me fun _ => .bind .handleArg fun _ => .cancelLevel) hs
  case waitl => exact .execWaitl hs
  case prog => exact .instr .noPre (fun _ => .seqBody fun _ => .bind .me fun _ => .modify fun _ hs1 => hs1.onGroup) hs
  case meet => exact .execMeet hs
  case pflush => exact .execPflush hs
  case pinv => exact .execPinv hs
  case nqpost => exact .execNqpost hs
  case nqpop | nqwait => exact .notifyTake hs
  case tlbi => exact .execTlbi hs
  case pgmig => exact .execPgmig hs
  case vadd | vsub | vmul | vfma | vfms | vmax | vmin | vscl | vand | vor | vxor | vshl | vshr | vsar | vcmpeq | vcmplt | vcmple | vsel |
    vclamp => exact .vecElem hs
  case vabs | vneg | vmov | vexp2 | vlog2 | vrcp | vrsq | vsqrt | vtanh | vsigm => exact .vecUnary hs
  case vcvt => exact .execVcvt hs
  case vsplat | viota => exact .vecFill hs
  case vredsum | vredmax | vredmin => exact .vecReduce hs
  case vscan =>
    exact .instr .needRows (fun _ => .seqBody fun _ => .bind .rowsReady fun _ => .bind .me fun _ => .bind .readElems fun _ =>
      .bind .vecWriteBack fun _ => .reportVector) hs
  case vperm =>
    exact .instr .needRows (fun _ => .seqBody fun _ => .bind .rowsReady fun _ => .bind .me fun _ => .bind .readElems fun _ =>
      .bind .vecBVals fun _ => .vecWriteBack) hs
  case vbcast =>
    exact .instr .needRows (fun _ => .seqBody fun _ => .bind .rowsReady fun _ => .bind .me fun _ => .bind .readElems fun _ =>
      .vecWriteBack) hs
  case vld => exact .execVld hs
  case vst => exact .execVst hs
  case vlds => exact .execVlds hs
  case vsts => exact .execVsts hs
  case vgath => exact .execVgath hs
  case vscat => exact .execVscat hs
  case vpack => exact .execVpack hs
  case vunpk => exact .execVunpk hs
  case mma | mmas => exact .mma hs
  case mmac => exact .execMmac hs
  case bld =>
    exact .instr .noPre (fun _ => .seqBody fun _ => .bind .me fun _ => .bind .bldShape fun _ => .bind .whoami fun _ =>
      .bind .slabsReady fun _ => .storing .bldRun) hs
  case zacc =>
    exact .instr (.bind .faultIf fun _ => .needRows) (fun _ => .seqBody fun _ => .bind .rowsReady fun _ => .bind .me fun _ =>
      .modify fun _ hs1 => hs1.chipWrite) hs
  case acvt => exact .execAcvt hs
  case tload => exact .execTload hs
  case tmul => exact .execTmul hs
  case tew => exact .execTew hs
  case tred => exact .execTred hs
  case tcvt => exact .appending (fun _ => .bind .tileSrc fun _ => .bind .faultIf fun _ => .appendNode .sameSpec fun _ => .pure) hs
  case tview => exact .appending (fun _ => .bind .tileSrc fun _ => .bind .nodeTy fun _ => .appendNode .sameSpec fun _ => .pure) hs
  case tgath => exact .execTgath hs
  case tsel => exact .execTsel hs
  case force => exact .execForce hs
  case tst => exact .execTst hs
  case tdrop => exact .instr .noPre (fun _ => .seqBody fun _ => .bind .myHome fun _ => .onTile) hs
  case tpol => exact .execTpol hs
  case cpy | cpyt | cpym =>
    exact .instr .noPre (fun _ => .seqBody fun _ => .bind .regCopy fun _ => .bind .enqueueCopy fun _ => .writeDst) hs
  case enq => exact .execEnq hs
  case waitid => exact .execWaitid hs
  case tidr => exact .execTidr hs
  case publish => exact .execPublish hs
  case lfload => exact .execLfload hs
  case lbind => exact .execLbind hs
  case lstart => exact .execLstart hs
  case lbar => exact .execLbar hs
  case lstat => exact .execLstat hs
  case lstop => exact .execLstop hs
  case cred => exact .execCred hs
  case csend =>
    exact .instr .noPre (fun _ => .seqBody fun _ => .bind .genOf fun _ => .bind .pairChecks fun _ => .bind .matchNumber fun _ =>
      .bind .accept fun _ => .writeDst) hs
  case crecv => exact .execCrecv hs
  case mcst => exact .execMcst hs
  case fork => exact .execFork hs
  case yield => exact .execYield hs
  case launch => exact .instr .noPre (fun _ => .seqBody fun _ => .bind .whoami fun _ => .bind .launchAt fun _ => .writeDst) hs
  case matrixResultStage => exact .execMatrixResultStage hs
  case timedCommandDue => exact .execTimedCommandDue hs
  case copyStart => exact .execCopyStart hs
  case chunkRetire => exact .execChunkRetire hs
  case copyRetire => exact .execCopyRetire hs
  case copyDrainTimeout => exact .execCopyDrainTimeout hs
  case burstStart => exact .execBurstStart hs
  case burstEnd => exact .execBurstEnd hs
  case rowCompute => exact .execRowCompute hs
  case rowComplete => exact .execRowComplete hs
  case streamResumeFromHold => exact .execStreamResumeFromHold hs
  case streamPark => exact .execStreamPark hs
  case streamUnpark => exact .execStreamUnpark hs
  case streamRelease => exact .execStreamRelease hs
  case saveSequenceEnd => exact .execSaveSequenceEnd hs
  case restoreSequenceEnd => exact .execRestoreSequenceEnd hs
  case groupStart => exact .execGroupStart hs
  case groupRestore => exact .execGroupRestore hs
  case groupKill => exact .execGroupKill hs
  case checkpointTimeout => exact .execCheckpointTimeout hs
  case graphLaunchNode | graphConditionNode | graphLoopNode | graphSwitchNode | graphEndNode => exact .graphStep hs
  case hostLaunch => exact .execHostLaunch hs
  case hostBar2Access => exact .execHostBar2Access hs
  case suspendComplete => exact .ite (.next hs.writeBackCtx.onCtx) (.next hs)
  case drainComplete => exact .execDrainComplete hs
  case scrubComplete => exact .ite (.next hs.scrub.resumeLoads) (.next hs)
  case rotationBoundary => exact .ite (.next hs) (.next (.ite hs.releaseHolds.onPc.applyCalendar.recheckWindows hs.releaseHolds.onPc))
  case calendarSlot => exact .execCalendarSlot hs
  case atomLanding | writeAck => exact .arriveAtom hs
  case pageWalk => exact .execPageWalk hs
  case fpqPageZeroed => exact .execFpqPageZeroed hs
  case latownChangeApply => exact .execLatownChangeApply hs
  case faultQueueRetry => exact .next hs.flushHeld
  case queueStall => exact .ite (.next (hs.foldl fun _ _ ht => ht.takeFault)) (.next hs)
  case dcZeroingComplete => exact .execDcZeroingComplete hs
  case linkReplayRetrain => exact .ite (.next hs.endTraining) (.ite (.next hs.beginTraining) (.next hs))
  case dispatchDecision => exact .execDispatchDecision hs
  case create => exact .execCreate hs
  case load => exact .execLoad hs
  case run => exact .execRun hs
  case suspend => exact .execSuspend hs
  case resume => exact .execResume hs
  case drain => exact .execDrain hs
  case rekey => exact .execRekey hs
  case calApply => exact .execCalApply hs
  case calendarReset => exact .execCalendarReset hs
  case fpqcmd => exact .execFpqcmd hs
  case hbmsplitWrite => exact .execHbmsplitWrite hs
  case encnumWrite => exact .execEncnumWrite hs
  case latownWrite => exact .execLatownWrite hs
  case lwinWrite => exact .execLwinWrite hs
  case roleResume => exact .execRoleResume hs
  case skip => exact .execSkip hs
  case resumeat => exact .execResumeat hs
  case abort => exact .execAbort hs
  case registerWrite => exact .execRegisterWrite hs
  case deviceLevelFault => exact .ite (.next hs.deviceFault) (.next hs)
  case powerWindow => exact .next (.ite (.deviceFault hs) hs)
  case fullThrottleTimeout => exact .execFullThrottleTimeout hs
  case tamper => exact .next hs.stopAll.enterSafe.withController
  case bringUp => exact .next (.ite hs.beginBringUp (.ite hs.stageEnds hs))
  case diag => exact .mailboxNow (fun _ ht => .of_eq ht rfl rfl) hs
  case reset => exact .mailbox (fun _ ht => .sndIte ht (.sndIte ht ht.beginBringUp)) hs
  case keyload => exact .execKeyload hs
  case keyzero => exact .mailboxNow (fun _ ht => .sndIte ht (.sndIte ht ht)) hs
  case fwstage => exact .execFwstage hs
  case fwapply => exact .mailbox (fun _ ht => .sndIte ht (.sndIte ht ht)) hs
  case dbgunlock => exact .execDbgunlock hs
  case dbglock | pccal => exact .mailboxNow (fun _ ht => ht) hs
  case dbglog => exact .execDbglog hs
  case coresvcOut => exact .execCoresvcOut hs
  case coresvcIn =>
    exact .ite (.next hs) (.mailboxNow (fun _ ht => .sndIte ht (.sndIte ht (.setServiced (.zeroUnder (ht.svcMove fun _ _ _ ht1 =>
      ht1.svcIn))))) hs)
  case regdecl => exact .execRegdecl hs
  case regdrop => exact .execRegdrop hs
  case regstate => exact .execRegstate hs
  case dcaccept => exact .execDcaccept hs
  case dcrelease => exact .execDcrelease hs
  case headdown => exact .mailboxNow (fun _ ht => .sndIte ht ht.markDown) hs
  case headup => exact .mailboxNow (fun _ ha => .sndIte ha (ha.foldl fun _ _ ht => .ite ht.writeBack ht)) hs
  case proxy => exact .mailboxNow (fun _ ht => .sndIte ht ht) hs
  case linkrt => exact .mailbox (fun _ ht => .sndIte ht (.sndIte ht (.sndIte ht.beginTraining (.sndIte ht ht)))) hs
  case mbCommandComplete => exact .execMbCommandComplete hs
  case headRetrainFailure => exact .next (.ite hs.markDown hs)
  case poolResponse => exact .ite (.next hs) (.next hs.poolFill)
  case backInvalidationSnoop => exact .ite (.next hs.snoop.forwardSnoop) (.next hs)
  case dcOffer | flitReservedType => exact .ite (.next hs) (.next hs)
  case dcRevokeRequest => exact .next hs.onExtent
  case flitMessageData => exact .ite (.next hs) (.next hs.onLink.post)
  case flitCredit => exact .ite (.next hs) (.next hs.onLink.pump)
  case flitProxyRequest =>
    exact .ite (.next hs) (.ite (.next hs.onLink.transmit) (.next (.proxyGo (.ite hs.onLink hs.onLink.forwardSnoop))))
  case flitProxyResponse => exact .execFlitProxyResponse hs
  case flitSnoop => exact .ite (.next hs) (.next hs.onLink.snoop.transmit)
  case flitTime => exact .ite (.next hs) (.next (.ite hs hs.onLink))
  case timeFlitExchange => exact .ite (.next hs) (.next (.foldl hs fun _ _ ht => .ite ht.transmit ht))
  case illegalInstruction | illegalLine => exact .raiseFetch hs
  case illegalFlow => exact .execIllegalFlow hs
  case powerDown => exact .next hs.cold
  case flitCrcFailure => exact .next hs.onLink

/-! ### Turns -/

/-- What a role's turn comes to has memory in canonical form: the state after the fetch, or the answer of a turn that is over. -/
def FetchedOk : Fetched → Prop
  | .instr _ t => t.MemOk
  | .over_ o => NextOk o

theorem State.MemOk.fetchTurn {s : State} (hs : s.MemOk) : FetchedOk (fetchTurn s) := by
  unfold Machine.fetchTurn
  split
  · exact NextOk.next hs
  · extract_lets k
    split
    · exact NextOk.next hs
    · split
      · exact NextOk.flowEnd hs
      · split
        next h => exact NextOk.finish hs hs (hs.stops h .arrive)
        next h =>
          split
          · exact hs.runs h .arrive
          · exact NextOk.next (State.MemOk.takeFault (hs.runs h .arrive))

theorem NextOk.perform {t} {s : State} (hs : s.MemOk) : NextOk (perform t s) := by
  unfold Machine.perform
  split
  next r =>
    have hr : ({ s with cur := r } : State).MemOk := hs
    have hf := hr.fetchTurn
    split
    next h =>
      rw [h] at hf
      exact .exec hf
    next h =>
      rw [h] at hf
      exact hf
  · exact .ite (.exec hs) (.next hs)

theorem NextOk.coldTurn {t} {s : State} (hs : s.MemOk) : NextOk (coldTurn t s) := by
  unfold Machine.coldTurn
  split
  · exact .exec hs
  · exact .fault

theorem NextOk.after {f : State → State} {o} (hf : ∀ t : State, t.MemOk → (f t).MemOk) (ho : NextOk o) : NextOk (Outcome.after f o) := by
  cases o with
  | next t => exact .next (hf t (ho t rfl))
  | fault e => exact .fault
  | refused e => exact .refused

theorem NextOk.step {s : State} (hs : s.MemOk) : NextOk (step s) := by
  unfold Machine.step
  split
  · exact .after (fun _ ht => ht) (.ite (.perform hs) (.coldTurn hs))
  · refine .ite .fault ?_
    split
    · exact .next hs
    · exact .after (fun _ ht => ht) (.perform hs)

/-- Settles O60, instruction by instruction and step by step of the part: memory changes only through the updates that write bytes, open
a range, clear it or lose a page, and each of them leaves the canonical form. -/
theorem memoryCanonicalKept : Obligations.MemoryCanonicalKept := by
  unfold Obligations.MemoryCanonicalKept
  exact fun s t hs => NextOk.step hs t

/-- Settles O59: after reset no byte is listed and no range is open. -/
theorem memoryCanonicalAtReset : Obligations.MemoryCanonicalAtReset := by
  unfold Obligations.MemoryCanonicalAtReset
  rfl

end Sys2Proof.Machine
end

section
/-! PROOFS. The steps of a copy, from its start to its retirement (R322, R328 to R333, R338, O36). -/

namespace Sys2Proof.Machine

open Sys2Proof

/-! ### Updates of one core and one group -/

theorem State.core_onCore_same (s : State) (c : CoreId) (f : Core → Core) : (s.onCore c f).core c = f (s.core c) := vget_vset_same ..

theorem State.core_onCore_other (s : State) {c d : CoreId} (f : Core → Core) (h : d ≠ c) : (s.onCore c f).core d = s.core d :=
  vget_vset_other _ _ h

theorem State.core_onGroup_other (s : State) {c d : CoreId} (i : SlotId) (f : Group → Group) (h : d ≠ c) :
    (s.onGroup c i f).core d = s.core d := by
  unfold State.onGroup
  split
  · rfl
  · exact s.core_onCore_other _ h

theorem State.group_onGroup_same {s : State} {c : CoreId} {i : SlotId} {g : Group} (h : s.group c i = some g) (f : Group → Group) :
    (s.onGroup c i f).group c i = some (f g) := by
  rw [State.onGroup_of_group h]
  exact State.group_setGroup_same ..

/-- The groups of a core stand in its slots. -/
theorem State.group_of_slots {s t : State} {c : CoreId} (h : (t.core c).slots = (s.core c).slots) (i : SlotId) :
    t.group c i = s.group c i := by
  unfold State.group
  rw [h]

/-! ### The channel's next command -/

/-- Where no command is timed the candidate is the head of the channel's queue. -/
theorem State.candidate_of_untimed {s : State} {c : CoreId} {ch : ChId} (h : ∀ y ∈ (s.core c).cmds, y.timed = false) :
    s.candidate c ch = (s.core c).cmds.find? fun y => y.ch == ch && y.st == .queued && !s.keptBack c y := by
  unfold State.candidate
  extract_lets q head due
  have hq : ∀ y ∈ q, y.timed = false := fun y hy => h y (List.mem_of_mem_filter hy)
  have hhead : head = (s.core c).cmds.find? fun y => y.ch == ch && y.st == .queued && !s.keptBack c y := by
    unfold head q
    rw [List.find?_filter]
    refine List.find?_congr fun y hy => ?_
    simp only [h y hy, Bool.not_false, and_true, Bool.decide_eq_true]
  have hdue : due = none := by
    unfold due
    rw [List.filter_eq_nil_iff.mpr fun y hy => by simp [hq y hy]]
    rfl
  rw [hdue, hhead]
  cases (s.core c).cmds.find? fun y => y.ch == ch && y.st == .queued && !s.keptBack c y <;> rfl

theorem foldl_earliest {f : Option Cmd → Cmd → Option Cmd} (hnone : ∀ k, f none k = some k)
    (hsome : ∀ j k, f (some j) k = if k.time < j.time then some k else some j) {pre post : List Cmd} {j : Cmd}
    (hpre : ∀ y ∈ pre, j.time < y.time) (hpost : ∀ y ∈ post, j.time ≤ y.time) : (pre ++ j :: post).foldl f none = some j := by
  have hj : ∀ a : Option Cmd, (∀ y ∈ a, j.time < y.time) → f (pre.foldl f a) j = some j := by
    clear hpost
    induction pre with
    | nil =>
      intro a ha
      cases a with
      | none => exact hnone j
      | some y => exact (hsome y j).trans (if_pos (ha y rfl))
    | cons x pre ih =>
      intro a ha
      refine ih (fun y hy => hpre y (List.mem_cons_of_mem _ hy)) (f a x) fun y hy => ?_
      have hx := hpre x List.mem_cons_self
      cases a with
      | none =>
        rw [hnone] at hy
        cases hy
        exact hx
      | some z =>
        rw [hsome] at hy
        split at hy
        · cases hy
          exact hx
        · exact ha y hy
  have hstay : post.foldl f (some j) = some j := by
    clear hj
    induction post with
    | nil => rfl
    | cons x post ih =>
      rw [List.foldl_cons, hsome, if_neg (not_lt.mpr (hpost x List.mem_cons_self))]
      exact ih fun y hy => hpost y (List.mem_cons_of_mem _ hy)
  rw [List.foldl_append, List.foldl_cons, hj none (fun y hy => by cases hy), hstay]

/-! ### Bodies of the engines' steps -/

theorem partStep_runs {x : X Unit} {s t : State} (h : Runs x s () t) : partStep x s = .next t := by
  unfold partStep
  rw [show x s = _ from h]

theorem runs_setCmd (c : CoreId) (n : Nat) (st : CmdState) (s : State) :
    Runs (setCmd c n st) s () (s.onCmd c n fun k => { k with st := st }) := rfl

/-- Only an LS copy has a stream to release. -/
theorem runs_releaseLs {j : Cmd} (h : j.ls = false) (c : CoreId) (s : State) : Runs (releaseLs j c) s () s := by
  unfold releaseLs
  rw [h]
  exact runs_modify _ s

theorem runs_endCmd {j : Cmd} (h : j.ls = false) (c : CoreId) (st : CmdState) (s : State) :
    Runs (endCmd j c st) s () (s.onCmd c j.seq fun k => { k with st := st }) :=
  runs_bind (runs_releaseLs h c s) (runs_setCmd c j.seq st s)

theorem runs_holding {j : Cmd} {c : CoreId} {chunk : Nat} {x : X Unit} {s t : State} (h : Runs x s () t) : Runs (holding j c chunk x) s () t :=
  runs_bind (runs_attempt h) (runs_pure () t)

/-! ### Starts -/

section
variable {j : Cmd} {c : CoreId} {ch : ChId} {s t : State}

theorem runs_startAt_copy {n : Nat} (hk : j.kind = .copy) (hn : n < j.chunks) (h : Runs (startChunk sendOut j c n) s () t) :
    Runs (startAt j c n) s () t := by
  unfold startAt
  rw [hk]
  exact runs_ite_neg (not_le.mpr hn) h

theorem runs_startAt_end (hk : j.kind = .copy) (h : Runs (finishCopy j c) s () t) : Runs (startAt j c j.chunks) s () t := by
  unfold startAt
  rw [hk]
  exact runs_ite_pos le_rfl h

/-- A command that is not late counts nothing. -/
theorem runs_beginCmd (hl : j.late = false) (ht : j.timed = false ∨ j.due = true ∨ s.cycle.toNat ≤ j.time)
    (h : Runs (startAt j c j.first) s () t) : Runs (beginCmd j c) s () t := by
  have hlate : ¬ (j.late || (j.timed && !j.due && decide (j.time < s.cycle.toNat))) = true := by
    rcases ht with ht | ht | ht <;> simp [hl, ht]
  exact runs_bind (runs_get s) (runs_bind (runs_ite_neg hlate (runs_pure () s)) h)

theorem exec_copyStart_candidate (hc : s.candidate c ch = some j) (hm : s.mayStart c j = true) (h : Runs (beginCmd j c) s () t) :
    exec (.copyStart c ch) s = .next t := by
  rw [exec_copyStart, execCopyStart, hc]
  exact (if_pos hm).trans (partStep_runs h)

/-- The step of a due command: it starts where it may, and counts as late where not. -/
theorem exec_timedCommandDue_first {pre post : List Cmd}
    (hd : ((s.core c).cmds.filter fun y => y.ch == ch && y.timed && y.st == .queued && !y.due && decide (y.time ≤ s.cycle.toNat)) =
      pre ++ j :: post) (hpre : ∀ y ∈ pre, j.time < y.time) (hpost : ∀ y ∈ post, j.time ≤ y.time) :
    exec (.timedCommandDue c ch) s =
      if (s.onCmd c j.seq fun y => { y with due := true }).mayStart c j
          && ((s.onCmd c j.seq fun y => { y with due := true }).candidate c ch).map Cmd.seq == some j.seq then
        partStep (beginCmd j c) (s.onCmd c j.seq fun y => { y with due := true })
      else .next ((s.onCmd c j.seq fun y => { y with due := true }).onCmd c j.seq fun y => { y with late := true }) := by
  rw [exec_timedCommandDue, execTimedCommandDue, hd]
  rw [foldl_earliest (fun _ => rfl) (fun _ _ => rfl) hpre hpost]

end

/-! ### Atoms -/

section
variable {j : Cmd} {r : AtomReq} {i n chunk : Nat} {held : List Hold} {s s0 t : State}

theorem arriveAtom_runs (hi : s.inflight[i]? = some r) (hd : Runs (atomDone r) { s with inflight := s.inflight.eraseIdx i } () t) :
    arriveAtom r.write i s = .next t := by
  unfold arriveAtom
  rw [hi]
  exact (if_neg (by simp)).trans (partStep_runs hd)

variable (hj : s0.cmd r.core r.cmd = some j)
include hj

theorem runs_atomDone_reading (hst : j.st = .reading chunk n held)
    (h : Runs (if n ≤ 1 then holding j r.core chunk (landed sendOut j r.core chunk held)
      else setCmd r.core j.seq (.reading chunk (n - 1) held)) s0 () t) : Runs (atomDone r) s0 () t := by
  refine runs_bind (runs_get s0) ?_
  rw [hj]
  dsimp only
  rw [hst]
  exact h

theorem runs_atomDone_writing (hst : j.st = .writing chunk n held) :
    Runs (atomDone r) s0 () (s0.onCmd r.core j.seq fun y => { y with st := .writing chunk (n - 1) held }) := by
  refine runs_bind (runs_get s0) ?_
  rw [hj]
  dsimp only
  rw [hst]
  exact runs_setCmd ..

end

theorem runs_landed_copy {send : Cmd → CoreId → List Hold → X Unit} {j : Cmd} {c : CoreId} {chunk : Nat} {held : List Hold} {s t : State}
    (hk : j.kind = .copy) (h : Runs (startWrites j c chunk held) s () t) : Runs (landed send j c chunk held) s () t := by
  unfold landed
  rw [hk]
  exact h

/-! ### Chunks -/

section
variable {j : Cmd} {c : CoreId} {ch : ChId} {chunk : Nat} {held : List Hold} {s s1 t : State}

theorem runs_finishCopy_plain (hf : j.follow = none) (hl : j.ls = false) (s : State) :
    Runs (finishCopy j c) s () (s.onCmd c j.seq fun y => { y with st := .done }) := by
  unfold finishCopy
  rw [hf]
  exact runs_endCmd hl c .done s

theorem runs_afterChunk_copy (hk : j.kind = .copy) (h : Runs (startAt j c (chunk + 1)) s () t) : Runs (afterChunk j c chunk) s () t := by
  refine runs_bind (runs_get s) ?_
  rw [hk]
  exact h

/-- A chunk whose data has moved. -/
theorem runs_chunkDone (hk : j.kind = .copy) (hc : chunk < j.chunks)
    (hm : Runs (do applyMoved j c held (← movedOf j c chunk held)) s () s1) (h : Runs (startAt j c (chunk + 1)) s1 () t) :
    Runs (chunkDone j c chunk held) s () t :=
  runs_ite_neg (not_le.mpr hc) (runs_bind (runs_attempt hm) (runs_afterChunk_copy hk h))

/-- A chunk whose writes fail. -/
theorem runs_chunkDone_fault (hk : j.kind = .copy) (hc : chunk < j.chunks) (hl : j.ls = false) {e : Trap}
    (hm : Runs (attempt (do applyMoved j c held (← movedOf j c chunk held))) s (.error e) s1) :
    Runs (chunkDone j c chunk held) s () (s1.onCmd c j.seq fun y => { y with st := .faulted chunk e.code e.va.toNat }) := by
  refine runs_ite_neg (not_le.mpr hc) (runs_bind hm ?_)
  rw [hk]
  exact runs_endCmd hl c _ s1

variable (hj : s.started c ch = some j)
include hj

theorem exec_chunkRetire_written (hst : j.st = .writing chunk 0 held) (h : Runs (chunkDone j c chunk held) s () t) :
    exec (.chunkRetire c ch) s = .next t := by
  rw [exec_chunkRetire, execChunkRetire, hj]
  dsimp only
  rw [hst]
  exact (if_pos rfl).trans (partStep_runs h)

theorem exec_chunkRetire_exchanging {sent : Bool} (hst : j.st = .exchanging sent held) (h : Runs (exchange j c sent held) s () t) :
    exec (.chunkRetire c ch) s = .next t := by
  rw [exec_chunkRetire, execChunkRetire, hj]
  dsimp only
  rw [hst]
  exact partStep_runs h

theorem exec_copyRetire_done (hst : j.st = .done) : exec (.copyRetire c ch) s = .next (s.retireCmd c j.seq) := by
  rw [exec_copyRetire, execCopyRetire, hj]
  exact if_pos hst

theorem exec_copyDrainTimeout_late {q : RoleId × Group × Role} {d : Drain} (hq : q ∈ s.allRoles) (hd : q.2.2.drainAt = some d)
    (hb : d.heldBefore d.tick j = true) (hlate : d.since + 6000 ≤ s.cycle.toNat) :
    exec (.copyDrainTimeout c ch) s = .next (s.squash c j) := by
  rw [exec_copyDrainTimeout, execCopyDrainTimeout, hj]
  refine if_pos (List.any_eq_true.mpr ⟨q, hq, ?_⟩)
  rw [hd]
  exact Bool.and_eq_true_iff.mpr ⟨hb, decide_eq_true hlate⟩

end

/-! ### Retirement -/

/-- The group of a command that retires gets its flags and NaN record where it is still in its slot; the command and its scoreboard
entries go. -/
theorem State.retireCmd_spec {s : State} {c : CoreId} {j : Cmd} (h : s.cmd c j.seq = some j) :
    ∃ settle : Group → Group, s.retireCmd c j.seq = (s.onGroup c j.slot settle).onCore c (fun x =>
        { x with cmds := x.cmds.filter fun y => y.seq != j.seq, board := x.board.filter fun b => b.cmd != j.seq })
      ∧ (∀ g, g.order ≠ j.order → settle g = g)
      ∧ ∀ g, g.order = j.order → (settle g).flags = (g.flags ||| j.flags) ∧ (settle g).gens = g.gens ∧ (settle g).roles = g.roles := by
  unfold State.retireCmd
  rw [show (s.core c).cmds.find? _ = some j from h]
  refine ⟨_, rfl, fun g hg => if_pos (by simp [hg]), fun g hg => ?_⟩
  rw [if_neg (by simp [hg])]
  cases j.nan with
  | none => exact ⟨rfl, rfl, rfl⟩
  | some w =>
    dsimp only
    split <;> exact ⟨rfl, rfl, rfl⟩

theorem State.retireCmd_frame {s : State} {c : CoreId} {j : Cmd} (h : s.cmd c j.seq = some j) :
    (∀ y ∈ ((s.retireCmd c j.seq).core c).cmds, y.seq ≠ j.seq) ∧ (∀ y ∈ ((s.retireCmd c j.seq).core c).board, y.cmd ≠ j.seq)
    ∧ (∀ d, d ≠ c → (s.retireCmd c j.seq).core d = s.core d) ∧ (∀ a, (s.retireCmd c j.seq).byteAt a = s.byteAt a)
    ∧ ∀ g, s.group c j.slot = some g → ∃ h, (s.retireCmd c j.seq).group c j.slot = some h
        ∧ (g.order ≠ j.order → h = g) ∧ (g.order = j.order → h.flags = (g.flags ||| j.flags) ∧ h.gens = g.gens ∧ h.roles = g.roles) := by
  obtain ⟨settle, hr, hother, hown⟩ := State.retireCmd_spec h
  rw [hr]
  refine ⟨fun y hy => ?_, fun y hy => ?_, fun d hd => ?_, fun a => ?_, fun g hg => ⟨settle g, ?_, hother g, hown g⟩⟩
  · rw [State.core_onCore_same] at hy
    simpa using (List.mem_filter.mp hy).2
  · rw [State.core_onCore_same] at hy
    simpa using (List.mem_filter.mp hy).2
  · rw [State.core_onCore_other _ _ hd, State.core_onGroup_other _ _ _ hd]
  · simp [State.byteAt]
  · refine (State.group_of_slots ?_ j.slot).trans (State.group_onGroup_same hg settle)
    rw [State.core_onCore_same]

/-- Settles O36, step by step of a copy: its start, its atoms, its chunks, its end. -/
theorem copySteps : Obligations.CopySteps := by
  unfold Obligations.CopySteps
  refine ⟨fun s s1 s2 c ch j r i n chunk held => ⟨State.candidate_of_untimed, exec_copyStart_candidate, fun hl ht hk hn h =>
    runs_beginCmd hl ht (runs_startAt_copy hk hn h), fun pre post hd hpre hpost => ?_, ?_, ?_⟩,
    fun s c j h => State.retireCmd_frame h⟩
  · intro s0
    rw [exec_timedCommandDue_first hd hpre hpost]
    refine ⟨fun hm hc h => ?_, fun hn => if_neg fun hb => ?_⟩
    · exact (if_pos (by simp [s0, hm, hc])).trans (partStep_runs h)
    · rw [Bool.and_eq_true_iff, beq_iff_eq] at hb
      exact hn.elim (fun hm => absurd hb.1 (by simp [s0, hm])) fun hc => hc hb.2
  · intro hi s0 hj
    have hland {t : State} (hw : r.write = false) (h : Runs (atomDone r) s0 () t) : exec (.atomLanding i) s = .next t := by
      rw [exec_atomLanding, execAtomLanding, ← hw]
      exact arriveAtom_runs hi h
    refine ⟨fun hw hst hn => hland hw (runs_atomDone_reading hj hst (runs_ite_neg (by omega) (runs_setCmd ..))),
      fun hw hst hn hk h => hland hw (runs_atomDone_reading hj hst (runs_ite_pos hn (runs_holding (runs_landed_copy hk h)))),
      fun hw hst => ?_⟩
    rw [exec_writeAck, execWriteAck, ← hw]
    exact arriveAtom_runs hi (runs_atomDone_writing hj hst)
  · intro hj moving
    refine ⟨fun hst hc hk => ⟨fun hm => ⟨fun hn h => ?_, fun hn hf hl => ?_, fun hn f _ h => ?_⟩, fun e hl hm => ?_⟩,
      fun sent hst h => exec_chunkRetire_exchanging hj hst h, exec_copyRetire_done hj, fun q d hq hd hb hlate =>
      exec_copyDrainTimeout_late hj hq hd hb hlate⟩
    · exact exec_chunkRetire_written hj hst (runs_chunkDone hk hc hm (runs_startAt_copy hk hn h))
    · exact exec_chunkRetire_written hj hst (runs_chunkDone hk hc hm (hn ▸ runs_startAt_end hk (runs_finishCopy_plain hf hl s1)))
    · exact exec_chunkRetire_written hj hst (runs_chunkDone hk hc hm (hn ▸ runs_startAt_end hk h))
    · exact exec_chunkRetire_written hj hst (runs_chunkDone_fault hk hc hl hm)

end Sys2Proof.Machine
end

section
/-! PROOFS. What reset leaves (R235, R236, R310, R320, R324, R330, R344, R353, R361, R438, O58). -/

namespace Sys2Proof.Machine

open Sys2Proof

/-! ### What reset leaves, unit by unit -/

theorem State.ctx_reset (x : CtxId) : State.reset.ctx x = Context.fresh := by
  simp [State.ctx, State.reset, vget, Vector.get_eq_getElem]

theorem State.core_reset (c : CoreId) : State.reset.core c = Core.fresh := by
  simp [State.core, State.reset, vget, Vector.get_eq_getElem]

theorem State.group_reset (c : CoreId) (i : SlotId) : State.reset.group c i = none := by
  simp [State.group, State.core_reset, Core.fresh, vget, Vector.get_eq_getElem]

theorem State.bar_reset (c : CoreId) (j : Fin 16) : State.reset.bar c j = Barrier.fresh := by
  simp [State.bar, State.core_reset, Core.fresh, vget, Vector.get_eq_getElem]

/-- Settles O58: each unit is fresh, and a map without entries gives its default. -/
theorem resetValues : Obligations.ResetValues := by
  unfold Obligations.ResetValues
  refine ⟨fun x => ?_, State.group_reset, fun c => ?_, fun c ch => ?_, State.bar_reset, rfl, rfl, fun pc _ slot _ => ⟨rfl, rfl⟩,
    fun pc => ⟨rfl, rfl, rfl⟩, rfl, fun lat slot => ⟨rfl, rfl⟩, fun x lat => rfl, rfl, ?_⟩
  · rw [State.ctx_reset]
    exact ⟨rfl, rfl, rfl, rfl, rfl, rfl⟩
  · rw [State.core_reset]
    exact ⟨rfl, rfl, rfl, rfl, rfl⟩
  · rw [State.core_reset]
    simp [Core.fresh, Vector.get_eq_getElem]
  · refine ⟨rfl, rfl, fun k => ?_, fun p => ?_, rfl, rfl, rfl, rfl, rfl, rfl⟩
    · simp [State.reset, Vector.get_eq_getElem]
    · simp [State.reset, Vector.get_eq_getElem]

end Sys2Proof.Machine
end

section
/-! PROOFS. Zeroed ranges of memory, and what scrubbing a context leaves (R236, R246). -/

namespace Sys2Proof.Machine

open Sys2Proof

/-! ### Bytes of a zeroed range -/

/-- What is kept of a sparse map by key is what is read there. -/
theorem SMap.get_filter_keys {α : Type} (p : Nat → Bool) (m : SMap α) (k : Nat) :
    SMap.get (m.filter fun c => p c.1) k = if p k then SMap.get m k else none := by
  induction m with
  | nil => simp [SMap.get]
  | cons c m ih =>
    obtain ⟨a, v⟩ := c
    by_cases hk : a = k
    · subst hk
      cases hp : p a <;> simp [SMap.get, hp, ih]
    · cases hp : p a <;> simp [SMap.get, hp, ih, hk]

section
variable (s : State) {k n j : Nat}

theorem unlisted_clearRange_inside (h : k ≤ j ∧ j < k + n) : unlisted (s.clearRange k n).opened j = 0 := by
  simp only [State.clearRange]
  split
  · simp [unlisted, Opened.covers, h.1, h.2]
  · next hover =>
    have hnone : (s.opened.filter fun o => !o.inside k n).find? (·.covers j) = none := by
      refine List.find?_eq_none.mpr fun o ho hc => hover (List.any_eq_true.mpr ⟨o, ho, ?_⟩)
      simp only [Opened.covers, Bool.and_eq_true, decide_eq_true_eq] at hc ⊢
      omega
    simp [unlisted, hnone]

theorem State.byteAt_clearRange_inside (h : k ≤ j ∧ j < k + n) : (s.clearRange k n).byteAt j = 0 := by
  have hmem : SMap.get (s.clearRange k n).mem j = none :=
    (SMap.get_filter_keys (fun a => !(decide (k ≤ a) && decide (a < k + n))) s.mem j).trans (if_neg (by simp [h.1, h.2]))
  rw [State.byteAt, memGet, hmem]
  exact unlisted_clearRange_inside s h

theorem State.byteAt_clearRange_other (h : j < k ∨ k + n ≤ j) : (s.clearRange k n).byteAt j = s.byteAt j := by
  have hmem : SMap.get (s.clearRange k n).mem j = SMap.get s.mem j :=
    (SMap.get_filter_keys (fun a => !(decide (k ≤ a) && decide (a < k + n))) s.mem j).trans (if_pos (by simp; omega))
  have hun : unlisted (s.clearRange k n).opened j = unlisted s.opened j := by
    simp only [State.clearRange]
    split
    · rw [unlisted_cons_other h, unlisted_filter h]
    · rw [unlisted_filter h]
  rw [State.byteAt, memGet, hmem, hun]
  rfl

theorem State.byteAt_zeroChip_inside (h : k ≤ j ∧ j < k + n) : (s.zeroChip k n).byteAt j = 0 := s.byteAt_clearRange_inside h

variable {s}

/-- A byte that is zero stays so where ranges are zeroed. -/
theorem State.byteAt_zeroChip_zero (k n : Nat) (h : s.byteAt j = 0) : (s.zeroChip k n).byteAt j = 0 := by
  by_cases hj : k ≤ j ∧ j < k + n
  · exact s.byteAt_zeroChip_inside hj
  · exact (s.byteAt_clearRange_other (by omega)).trans h

end

/-! ### Updates in a row -/

/-- What one update of a row brings about under an invariant, and what every update keeps, holds at the end. -/
theorem foldl_brings {σ α : Type} {f : σ → α → σ} {I P : σ → Prop} {xs : List α} {c : α} (hI : ∀ t a, a ≠ c → I t → I (f t a))
    (hP : ∀ t a, P t → P (f t a)) (hc : c ∈ xs) (hset : ∀ t, I t → P (f t c)) {s : σ} (hs : I s) : P (xs.foldl f s) := by
  induction xs generalizing s with
  | nil => cases hc
  | cons x xs ih =>
    by_cases hx : x = c
    · subst hx
      exact List.foldlRecOn xs f (hset s hs) fun t ht a _ => hP t a ht
    · exact ih ((List.mem_cons.mp hc).resolve_left (Ne.symm hx)) (hI s x hx hs)

/-! ### The memory of a core (R246) -/

/-- Zeroing a context's units on a core, unit by unit. -/
def State.zeroUnits (s : State) (d : Desc) (c : CoreId) : State :=
  (List.range 48).foldl (fun t u => if d.units.getLsbD u then t.zeroChip (onChipKey 1 c (u * 2 ^ 16)) (2 ^ 16) else t) s

theorem State.zeroCore_eq (s : State) (x : CtxId) (c : CoreId) :
    s.zeroCore x c = (((s.zeroUnits (s.ctx x).desc c).zeroChip (onChipKey 2 c 0) (2 ^ 19)).zeroChip (onChipKey 3 c 0) (6 * 2 ^ 20)).onCore c
      fun k => { k with tlb := [], lines := [], array := [], board := [] } := rfl

/-- The contexts, the image slots and the keys, which zeroing memory leaves. -/
def workersOf (s : State) : Vector Context 16 × SMap LatSlot × Vector (BitVec 1024) 16 := (s.ctxs, s.lats, s.keySlots)

section
variable {s : State} {x : CtxId} {c : CoreId} {j : Nat}

theorem State.zeroUnits_frame (s : State) (d : Desc) (c : CoreId) :
    workersOf (s.zeroUnits d c) = workersOf s ∧ (s.zeroUnits d c).cores = s.cores :=
  Prod.mk.inj (view_foldl (v := fun t => (workersOf t, t.cores)) (fun t u => by split <;> rfl) _)

theorem State.byteAt_zeroUnits_zero (d : Desc) (h : s.byteAt j = 0) : (s.zeroUnits d c).byteAt j = 0 :=
  List.foldlRecOn (motive := fun t : State => t.byteAt j = 0) _ _ h fun t ht u _ => by
    split
    · exact State.byteAt_zeroChip_zero _ _ ht
    · exact ht

theorem State.byteAt_zeroUnits_unit (s : State) {d : Desc} {u b : Nat} (hu : u < 48) (hd : d.units.getLsbD u = true) (hb : b < 2 ^ 16) :
    (s.zeroUnits d c).byteAt (onChipKey 1 c (u * 2 ^ 16 + b)) = 0 := by
  refine foldl_brings (P := fun t : State => t.byteAt (onChipKey 1 c (u * 2 ^ 16 + b)) = 0) (I := fun _ => True) (fun _ _ _ _ => trivial)
    (fun t v ht => ?_) (List.mem_range.mpr hu) (fun t _ => ?_) trivial
  · split
    · exact State.byteAt_zeroChip_zero _ _ ht
    · exact ht
  · rw [if_pos hd]
    exact t.byteAt_zeroChip_inside (by simp only [onChipKey]; omega)

theorem workersOf_zeroChip (s : State) (k n : Nat) : workersOf (s.zeroChip k n) = workersOf s := rfl

theorem workersOf_onCore (s : State) (c : CoreId) (f : Core → Core) : workersOf (s.onCore c f) = workersOf s := rfl

theorem State.core_zeroChip (s : State) (k n : Nat) (c : CoreId) : (s.zeroChip k n).core c = s.core c := rfl

theorem State.core_zeroUnits (s : State) (d : Desc) (c e : CoreId) : (s.zeroUnits d c).core e = s.core e :=
  congrArg (fun v => vget v e) (s.zeroUnits_frame d c).2

theorem workersOf_zeroCore (s : State) (x : CtxId) (c : CoreId) : workersOf (s.zeroCore x c) = workersOf s := by
  rw [State.zeroCore_eq, workersOf_onCore, workersOf_zeroChip, workersOf_zeroChip, (s.zeroUnits_frame _ c).1]

theorem State.core_zeroCore_same (s : State) (x : CtxId) (c : CoreId) :
    (s.zeroCore x c).core c = { s.core c with tlb := [], lines := [], array := [], board := [] } := by
  rw [State.zeroCore_eq, State.core_onCore_same, State.core_zeroChip, State.core_zeroChip, State.core_zeroUnits]

theorem State.core_zeroCore_other (s : State) (x : CtxId) {c d : CoreId} (h : d ≠ c) : (s.zeroCore x c).core d = s.core d := by
  rw [State.zeroCore_eq, State.core_onCore_other _ _ h, State.core_zeroChip, State.core_zeroChip, State.core_zeroUnits]

theorem State.byteAt_onCore (s : State) (c : CoreId) (f : Core → Core) (j : Nat) : (s.onCore c f).byteAt j = s.byteAt j := rfl

theorem State.byteAt_zeroCore_zero (x : CtxId) (c : CoreId) (h : s.byteAt j = 0) : (s.zeroCore x c).byteAt j = 0 := by
  rw [State.zeroCore_eq, State.byteAt_onCore]
  exact State.byteAt_zeroChip_zero _ _ (State.byteAt_zeroChip_zero _ _ (State.byteAt_zeroUnits_zero _ h))

/-- Bytes of a core that scrubbing zeroes: of its context's units, of its rows, of its weight stack. -/
inductive ScrubbedByte (d : Desc) (c : CoreId) : Nat → Prop where
  | unit {u b : Nat} (hu : u < 48) (hd : d.units.getLsbD u = true) (hb : b < 2 ^ 16) : ScrubbedByte d c (onChipKey 1 c (u * 2 ^ 16 + b))
  | row {b : Nat} (hb : b < 2 ^ 19) : ScrubbedByte d c (onChipKey 2 c b)
  | weight {b : Nat} (hb : b < 6 * 2 ^ 20) : ScrubbedByte d c (onChipKey 3 c b)

theorem State.byteAt_zeroCore (h : ScrubbedByte (s.ctx x).desc c j) : (s.zeroCore x c).byteAt j = 0 := by
  rw [State.zeroCore_eq, State.byteAt_onCore]
  cases h with
  | unit hu hd hb => exact State.byteAt_zeroChip_zero _ _ (State.byteAt_zeroChip_zero _ _ (s.byteAt_zeroUnits_unit hu hd hb))
  | row hb => exact State.byteAt_zeroChip_zero _ _ (State.byteAt_zeroChip_inside _ (by simp only [onChipKey]; omega))
  | weight hb => exact State.byteAt_zeroChip_inside _ (by simp only [onChipKey]; omega)

/-! ### The scrub of a context (R246) -/

/-- The state with a context's local pages and the memories of its cores zeroed. -/
def State.zeroOwned (s : State) (x : CtxId) : State :=
  (s.ctx x).desc.coreList.foldl (fun t c => t.zeroCore x c)
    ((s.localPages x).foldl (fun t pa => t.zeroUnder (s.keyOf (s.ctx x).desc.key) pa (2 ^ 16)) s)

/-- The keys with those of a descriptor zeroized. -/
def Desc.zeroizedKeys (d : Desc) (v : Vector (BitVec 1024) 16) : Vector (BitVec 1024) 16 := d.keyList.foldl (fun v k => vset v k 0) v

/-- A free context that keeps of another what the end of a scrub leaves it. -/
def Context.released (c : Context) : Context :=
  { Context.fresh with rej := c.rej, err := c.err, diverge := c.diverge, logHead := c.logHead, logTail := c.logTail
                       fpqt := c.fpqt, fpqRej := c.fpqRej, fpqErr := c.fpqErr, fpqLast := c.fpqLast
                       hostResult := c.hostResult, apBase := c.apBase }

theorem State.scrub_eq (s : State) (x : CtxId) : s.scrub x = ({ s.zeroOwned x with
    keySlots := (s.ctx x).desc.zeroizedKeys (s.zeroOwned x).keySlots
    dieTlb := (s.zeroOwned x).dieTlb.map fun (t : List TlbEntry) => t.filter fun e => e.ctx != x
    walks := (s.zeroOwned x).walks.filter fun (w : Walk) => w.ctx != x
    coll := (s.zeroOwned x).coll.filter fun (p : CollKey × Nat) => p.1.ctx != x
    collOwed := (s.zeroOwned x).collOwed.filter fun (o : Owed) => o.ctx != x
    lats := (s.zeroOwned x).lats.map fun (p : Nat × LatSlot) => (p.1, p.2.without x) } : State).onCtx x Context.released := rfl

theorem workersOf_zeroUnder (s : State) (key : KeyRef) (pa n : Nat) : workersOf (s.zeroUnder key pa n) = workersOf s := rfl

theorem workersOf_zeroPages (s : State) (key : KeyRef) (ps : List Nat) :
    workersOf (ps.foldl (fun t pa => t.zeroUnder key pa (2 ^ 16)) s) = workersOf s :=
  view_foldl (fun t pa => workersOf_zeroUnder t key pa (2 ^ 16)) ps

theorem workersOf_zeroOwned (s : State) (x : CtxId) : workersOf (s.zeroOwned x) = workersOf s :=
  (view_foldl (fun t c => workersOf_zeroCore t x c) _).trans (workersOf_zeroPages s _ _)

theorem State.ctxs_zeroOwned (s : State) (x : CtxId) : (s.zeroOwned x).ctxs = s.ctxs := congrArg Prod.fst (workersOf_zeroOwned s x)

theorem State.ctx_scrub_same (s : State) (x : CtxId) : (s.scrub x).ctx x = (s.ctx x).released := by
  rw [State.scrub_eq, State.ctx_onCtx_same]
  exact congrArg (fun v => (vget v x).released) (s.ctxs_zeroOwned x)

theorem State.ctx_scrub_other (s : State) {x y : CtxId} (h : y ≠ x) : (s.scrub x).ctx y = s.ctx y := by
  rw [State.scrub_eq, State.ctx_onCtx_other _ _ h]
  exact congrArg (fun v => vget v y) (s.ctxs_zeroOwned x)

theorem State.core_scrub (s : State) (x : CtxId) (c : CoreId) : (s.scrub x).core c = (s.zeroOwned x).core c := rfl

theorem State.byteAt_scrub (s : State) (x : CtxId) (j : Nat) : (s.scrub x).byteAt j = (s.zeroOwned x).byteAt j := rfl

theorem Desc.mem_coreList {d : Desc} : c ∈ d.coreList ↔ d.cores.getLsbD c.val = true := by simp [Desc.coreList]

/-- What zeroing one of its cores brings about in a state with the context's descriptor, and what zeroing any core keeps. -/
theorem State.zeroOwned_brings {P : State → Prop} (hc : (s.ctx x).desc.cores.getLsbD c.val = true)
    (hP : ∀ t d, P t → P (t.zeroCore x d)) (hset : ∀ t : State, t.ctx x = s.ctx x → P (t.zeroCore x c)) : P (s.zeroOwned x) := by
  have hctx {t u : State} (h : workersOf u = workersOf t) : u.ctx x = t.ctx x :=
    congrArg (fun v : Vector Context 16 × SMap LatSlot × Vector (BitVec 1024) 16 => vget v.1 x) h
  refine foldl_brings (I := fun t => t.ctx x = s.ctx x) (fun t d _ ht => ?_) hP (Desc.mem_coreList.mpr hc) hset ?_
  · exact (hctx (workersOf_zeroCore t x d)).trans ht
  · exact hctx (workersOf_zeroPages s _ _)

/-- A core of the context: its TLB, its lines and its scoreboard are empty. -/
theorem State.core_scrub_owned (hc : (s.ctx x).desc.cores.getLsbD c.val = true) :
    ((s.scrub x).core c).tlb = [] ∧ ((s.scrub x).core c).lines = [] ∧ ((s.scrub x).core c).board = [] := by
  rw [State.core_scrub]
  refine State.zeroOwned_brings (P := fun t => (t.core c).tlb = [] ∧ (t.core c).lines = [] ∧ (t.core c).board = []) hc
    (fun t d ht => ?_) fun t _ => ?_
  · by_cases hd : c = d
    · subst hd
      rw [State.core_zeroCore_same]
      exact ⟨rfl, rfl, rfl⟩
    · rwa [State.core_zeroCore_other _ _ hd]
  · rw [State.core_zeroCore_same]
    exact ⟨rfl, rfl, rfl⟩

theorem State.byteAt_scrub_owned (hc : (s.ctx x).desc.cores.getLsbD c.val = true) (h : ScrubbedByte (s.ctx x).desc c j) :
    (s.scrub x).byteAt j = 0 := by
  rw [State.byteAt_scrub]
  exact State.zeroOwned_brings (P := fun t => t.byteAt j = 0) hc (fun t d ht => State.byteAt_zeroCore_zero x d ht)
    fun t ht => State.byteAt_zeroCore (ht ▸ h)

theorem State.keySlots_scrub {q : Fin 16} (hq : (s.ctx x).desc.keys.getLsbD q.val = true) : (s.scrub x).keySlots.get q = 0 := by
  refine foldl_brings (P := fun v : Vector (BitVec 1024) 16 => vget v q = 0) (I := fun _ => True) (fun _ _ _ _ => trivial) (fun v k hv => ?_)
    (c := q) (by simp [Desc.keyList, hq]) (fun v _ => vget_vset_same v q 0) trivial
  by_cases hk : q = k
  · subst hk
    exact vget_vset_same v q 0
  · exact (vget_vset_other v 0 hk).trans hv

theorem LatSlot.fresh_without (x : CtxId) : LatSlot.fresh.without x = LatSlot.fresh := rfl

theorem State.latSlot_scrub (s : State) (x : CtxId) (lat slot : Nat) : (s.scrub x).latSlot lat slot = (s.latSlot lat slot).without x := by
  have hlats : (s.scrub x).lats = s.lats.map fun p => (p.1, p.2.without x) :=
    congrArg (fun v => v.2.1.map fun p : Nat × LatSlot => (p.1, p.2.without x)) (workersOf_zeroOwned s x)
  simp only [State.latSlot, hlats]
  rw [SMap.get_map_values s.lats fun p => p.2.without x]
  cases SMap.get s.lats (lat * 4 + slot) with
  | none => exact (LatSlot.fresh_without x).symm
  | some p => rfl

theorem LatSlot.without_owned {p : LatSlot} (hv : p.valid = true) (ho : p.owner = x) :
    p.without x = { p with stream := none, acc := [], image := none } := if_pos (by simp [hv, ho])

theorem State.owns_scrub (s : State) (x : CtxId) (c : CoreId) : (s.scrub x).owns x c = false := by
  rw [State.owns, State.ctx_scrub_same]
  rfl

end

end Sys2Proof.Machine
end

section
/-! PROOFS. The commands on a context, and the steps that end them (R234 to R239, R244 to R246, O41). -/

namespace Sys2Proof.Machine

open Sys2Proof

/-! ### Which commands are taken (R235, R439, R443) -/

/-- The commands of CTXCMD that act on a context. -/
def IsContextCommand (a : Agent) (i : Instr) : Prop := i ∈ [.create a, .load a, .run a, .suspend a, .resume a, .drain a, .rekey a]

theorem exists_ctxCommand {a : Agent} {i : Instr} (h : IsContextCommand a i) : ∃ act, ∀ s, exec i s = ctxCommand a act s := by
  simp only [IsContextCommand, List.mem_cons, List.not_mem_nil, or_false] at h
  rcases h with rfl | rfl | rfl | rfl | rfl | rfl | rfl
  · exact ⟨_, exec_create a⟩
  · exact ⟨_, exec_load a⟩
  · exact ⟨_, exec_run a⟩
  · exact ⟨_, exec_suspend a⟩
  · exact ⟨_, exec_resume a⟩
  · exact ⟨_, exec_drain a⟩
  · exact ⟨_, exec_rekey a⟩

section
variable {a : Agent} {s : State} {i : Instr} (h : IsContextCommand a i)
include h

theorem contextCommand_unprivileged (hp : s.privileged a = false) : exec i s = .next s := by
  obtain ⟨act, hexec⟩ := exists_ctxCommand h
  rw [hexec, ctxCommand, hp]
  rfl

theorem contextCommand_inProgress (hp : s.privileged a = true) (hb : (s.ctx (s.priv a).ctxsel).busy = true ∨ s.ctl.applying = true) :
    exec i s = .next (s.rejectCtx (s.priv a).ctxsel 0x01) := by
  obtain ⟨act, hexec⟩ := exists_ctxCommand h
  rw [hexec]
  exact (if_neg (by simp [hp])).trans (if_pos (by simpa using hb))

theorem contextCommand_safe (hp : s.privileged a = true) (hb : (s.ctx (s.priv a).ctxsel).busy = false) (ha : s.ctl.applying = false)
    (hs : s.safe = true) : exec i s = .next (s.rejectCtx (s.priv a).ctxsel 0x02) := by
  obtain ⟨act, hexec⟩ := exists_ctxCommand h
  rw [hexec]
  exact (if_neg (by simp [hp])).trans ((if_neg (by simp [hb, ha])).trans (if_pos hs))

end

/-- A command of the agent on context x is taken: no check ahead of its own refuses it. -/
structure Takes (a : Agent) (s : State) (x : CtxId) : Prop where
  privileged : s.privileged a = true
  selected : (s.priv a).ctxsel = x
  idle : (s.ctx x).busy = false
  notApplying : s.ctl.applying = false
  operating : s.safe = false

theorem Takes.ctxCommand {a : Agent} {s : State} {x : CtxId} (h : Takes a s x) (act : CtxId → State → Host.Outcome State Fault Refusal) :
    ctxCommand a act s = act x s := by
  obtain ⟨hp, rfl, hb, ha, hs⟩ := h
  exact (if_neg (by simp [hp])).trans ((if_neg (by simp [hb, ha])).trans (if_neg (by simp [hs])))

/-! ### LOAD (R237, R245, R356) -/

theorem allSome_eq_some {α : Type} {xs : List (Option α)} {ys : List α} : allSome xs = some ys ↔ xs = ys.map some := by
  induction xs generalizing ys with
  | nil => cases ys <;> simp [allSome]
  | cons x xs ih =>
    cases x with
    | none => cases ys <;> simp [allSome]
    | some v =>
      cases ys with
      | nil => simp [allSome]
      | cons y ys => simp [allSome, ih, and_comm]

theorem allSome_eq_none {α : Type} {xs : List (Option α)} (h : none ∈ xs) : allSome xs = none := by
  cases hxs : allSome xs with
  | none => rfl
  | some ys =>
    rw [allSome_eq_some.mp hxs] at h
    simp at h

theorem State.heldBy_mono {s : State} {x : CtxId} {st st' : List CtxState} (hsub : st ⊆ st') (h : s.heldBy x st' = false) :
    s.heldBy x st = false := by
  rw [State.heldBy, List.any_eq_false] at h ⊢
  intro y hy hc
  refine h y hy ?_
  simp only [Bool.and_eq_true, List.contains_iff_mem] at hc ⊢
  exact ⟨⟨hc.1.1, hsub hc.1.2⟩, hc.2⟩

/-- A LOAD that ends without loading: BUSY falls, and the reason stands in ERR. -/
def State.loadFails (s : State) (x : CtxId) (e : BitVec 8) : State := (s.onCtx x fun c => { c with busy := false }).rejectCtx x e

/-- A context that LOAD has made loaded, with its buffers and free-page queues: nothing launched, logged or bound. -/
def Context.loadedWith (c : Context) (bs : List Buf) (qs : List Fpq) : Context :=
  { c with state := .loaded, busy := false, bufs := bs, fpqs := qs, counters := Vector.replicate 5 0, logHead := 0
           logTail := 0, replayAt := Vector.replicate 5 0, bindqs := [], ready := Vector.replicate 4 ⟨[], 0, 0⟩
           levels := [], faultHeld := [], faultUnheld := [], faultSeq := 0, zeroing := none, reserved := [], drainMark := false
           hostPending := [], fpqBase := c.fpqt.toNat }

section
variable {s s1 s2 : State} {x : CtxId} {bs : List Byte} {es : List Buf} {qs : List Fpq}

theorem runs_loadNow_claimed (h : s.heldBy x [.loaded, .running, .suspended, .draining] = true) :
    Runs (loadNow x) s () (s.loadFails x 0x06) := runs_bind (runs_get s) (runs_ite_pos h rfl)

/-- Entry i of a buffer map. -/
def State.mapEntry (s : State) (bs : List Byte) (i : Nat) : Option Buf := parseBuf s ((bs.drop (32 * i)).take 32)

/-- The entries of a buffer map. -/
def State.mapEntries (s : State) (bs : List Byte) (n : Nat) : List (Option Buf) := (List.range n).map (s.mapEntry bs)

/-- LOAD from state s with the entries of the buffer map; none where one is malformed. -/
def loadMapped (s : State) (x : CtxId) : Option (List Buf) → X Unit
  | none => set (s.loadFails x 0x05)
  | some es => if !bufsApart es then set (s.loadFails x 0x05) else do
      let qs ← readFpqs x
      modify fun s => s.onCtx x fun c => c.loadedWith es qs

theorem State.mapEntries_malformed {n i : Nat} (hi : i < n) (h : s.mapEntry bs i = none) : allSome (s.mapEntries bs n) = none :=
  allSome_eq_none (List.mem_map.mpr ⟨i, List.mem_range.mpr hi, h⟩)

theorem State.mapEntries_wellFormed {n : Nat} (hlen : es.length = n) (h : ∀ i < n, s.mapEntry bs i = es[i]?) :
    allSome (s.mapEntries bs n) = some es := by
  refine allSome_eq_some.mpr (List.ext_getElem (by simp [State.mapEntries, hlen]) fun i h1 h2 => ?_)
  have hi : i < es.length := by simpa using h2
  simp [State.mapEntries, h i (hlen ▸ hi), hi]

section
variable (hh : s.heldBy x [.loaded, .running, .suspended, .draining] = false)
  (hr : Runs (partRead x (s.ctx x).desc.bufmap (32 * (s.ctx x).desc.bufmapn)) s bs s1)
include hh hr

/-- LOAD past the claims of others: the buffer map decides. -/
theorem runs_loadNow_map (hm : Runs (loadMapped s x (allSome (s.mapEntries bs (s.ctx x).desc.bufmapn))) s1 () s2) :
    Runs (loadNow x) s () s2 :=
  runs_bind (runs_get s) (runs_ite_neg (by simp [hh]) (runs_bind hr hm))

theorem runs_loadNow_malformed (h : ∃ i < (s.ctx x).desc.bufmapn, s.mapEntry bs i = none) : Runs (loadNow x) s () (s.loadFails x 0x05) := by
  obtain ⟨i, hi, hn⟩ := h
  refine runs_loadNow_map hh hr ?_
  rw [State.mapEntries_malformed hi hn]
  exact runs_set ..

variable (hlen : es.length = (s.ctx x).desc.bufmapn) (he : ∀ i < (s.ctx x).desc.bufmapn, s.mapEntry bs i = es[i]?)
include hlen he

theorem runs_loadNow_overlapping (h : bufsApart es = false) : Runs (loadNow x) s () (s.loadFails x 0x05) := by
  refine runs_loadNow_map hh hr ?_
  rw [State.mapEntries_wellFormed hlen he]
  exact runs_ite_pos (by simp [h]) (runs_set ..)

theorem runs_loadNow_loaded (h : bufsApart es = true) (hq : Runs (readFpqs x) s1 qs s2) :
    Runs (loadNow x) s () (s2.onCtx x fun c => c.loadedWith es qs) := by
  refine runs_loadNow_map hh hr ?_
  rw [State.mapEntries_wellFormed hlen he]
  exact runs_ite_neg (by simp [h]) (runs_bind hq (runs_modify ..))

end
end

/-! ### Commands that are taken -/

section
variable {a : Agent} {s s1 : State} {x : CtxId} (h : Takes a s x)
include h

/-- A command in a state where it is not legal. -/
theorem contextCommand_illegal {i : Instr} (hi : (i = .create a ∧ ((s.ctx x).state ≠ .free ∨ s.ctl.debugOpen = true))
      ∨ (i = .load a ∧ (s.ctx x).state ≠ .created) ∨ (i = .run a ∧ (s.ctx x).state ≠ .loaded)
      ∨ (i = .suspend a ∧ (s.ctx x).state ≠ .running) ∨ ((i = .resume a ∨ i = .rekey a) ∧ (s.ctx x).state ≠ .suspended)
      ∨ (i = .drain a ∧ ((s.ctx x).state = .free ∨ (s.ctx x).state = .draining ∨ (s.ctx x).state = .scrubbing))) :
    exec i s = .next (s.rejectCtx x 0x02) := by
  rcases hi with ⟨rfl, hst⟩ | ⟨rfl, hst⟩ | ⟨rfl, hst⟩ | ⟨rfl, hst⟩ | ⟨rfl | rfl, hst⟩ | ⟨rfl, hst⟩
  · exact (exec_create ..).trans ((h.ctxCommand _).trans (if_pos (by simpa using hst)))
  · exact (exec_load ..).trans ((h.ctxCommand _).trans (if_pos (by simpa using hst)))
  · exact (exec_run ..).trans ((h.ctxCommand _).trans (if_pos (by simpa using hst)))
  · exact (exec_suspend ..).trans ((h.ctxCommand _).trans (if_pos (by simpa using hst)))
  · exact (exec_resume ..).trans ((h.ctxCommand _).trans (if_pos (by simpa using hst)))
  · exact (exec_rekey ..).trans ((h.ctxCommand _).trans (if_pos (by simpa using hst)))
  · refine (exec_drain ..).trans ((h.ctxCommand _).trans ?_)
    rcases hst with hst | hst | hst <;> rw [hst] <;> rfl

/-- CREATE reads the descriptor, and keeps it or gives the first failing check. -/
theorem create_free {b : List Byte × Bool} (hst : (s.ctx x).state = .free) (hd : s.ctl.debugOpen = false)
    (hr : Runs (rawRead none ((s.priv a).ctxdesc / 128 * 128) ((s.priv a).ctxdesc / 128 * 128) 128) s b s1) :
    (∀ e, parseContext b.1 = .error e → exec (.create a) s = .next (s1.rejectCtx x e))
    ∧ ∀ d, parseContext b.1 = .ok d → exec (.create a) s = .next (s1.onCtx x fun c => { c with state := .created, desc := d, apBase := 0 }) := by
  have hexec := (exec_create a s).trans ((h.ctxCommand _).trans (if_neg (by simp [hst, hd])))
  dsimp only at hexec
  rw [hexec, show rawRead none _ _ 128 s = _ from hr]
  refine ⟨fun e he => ?_, fun d he => ?_⟩
  · simp only [he]
  · simp only [he]

theorem load_created (hst : (s.ctx x).state = .created) : exec (.load a) s =
    if s.heldBy x [.scrubbing] then .next (s.onCtx x fun c => { c with busy := true }) else partStep (loadNow x) s :=
  (exec_load ..).trans ((h.ctxCommand _).trans (if_neg (by simp [hst])))

theorem load_runs (hst : (s.ctx x).state = .created) (hh : s.heldBy x [.scrubbing] = false) (hr : Runs (loadNow x) s () s1) :
    exec (.load a) s = .next s1 := (load_created h hst).trans ((if_neg (by simp [hh])).trans (partStep_runs hr))

theorem drain_created (hst : (s.ctx x).state = .created) : exec (.drain a) s = .next (s.onCtx x fun c => { c with state := .free }) := by
  refine (exec_drain ..).trans ((h.ctxCommand _).trans ?_)
  rw [hst]

theorem drain_assigned (hst : (s.ctx x).state = .running ∨ (s.ctx x).state = .suspended ∨ (s.ctx x).state = .loaded)
    (hr : Runs (drainCtx x) s () s1) : exec (.drain a) s = .next s1 := by
  refine (exec_drain ..).trans ((h.ctxCommand _).trans ?_)
  rcases hst with hst | hst | hst <;> rw [hst] <;> exact partStep_runs hr

theorem run_loaded (hst : (s.ctx x).state = .loaded) :
    exec (.run a) s = .next (s.onCtx x fun c => { c with state := .running, deficit := 0, visits := 0 }) :=
  (exec_run ..).trans ((h.ctxCommand _).trans (if_neg (by simp [hst])))

theorem suspend_running (hst : (s.ctx x).state = .running) : exec (.suspend a) s = .next ((s.suspendCtx x).parkStreams x) :=
  (exec_suspend ..).trans ((h.ctxCommand _).trans (if_neg (by simp [hst])))

/-- RESUME asks the streams that no checkpoint has taken to run on, and runs the context or drains it. -/
theorem resume_suspended (hst : (s.ctx x).state = .suspended) : exec (.resume a) s =
    if (s.ctx x).drainMark then
      partStep (drainCtx x) (s.askStreams (fun t => t.ctx == x && t.taken.isNone) fun t => { t with parkReq := false })
    else .next ((s.askStreams (fun t => t.ctx == x && t.taken.isNone) fun t => { t with parkReq := false }).onCtx x fun c =>
      { c with state := .running }) :=
  (exec_resume ..).trans ((h.ctxCommand _).trans (if_neg (by simp [hst])))

/-- REKEY takes a slot of KEYS that is not the primary one. -/
theorem rekey_suspended (hst : (s.ctx x).state = .suspended) {n : Fin 16} (hn : n.val = (s.priv a).ctxdesc % 16) : exec (.rekey a) s =
    if !(s.ctx x).desc.keys.getLsbD n.val || n == (s.ctx x).desc.key then .next (s.rejectCtx x 0x05) else .next (s.rekey x n) := by
  obtain rfl : n = Fin.ofNat 16 (s.priv a).ctxdesc := Fin.ext hn
  exact (exec_rekey ..).trans ((h.ctxCommand _).trans (if_neg (by simp [hst])))

end

/-! ### Agents without privilege (R234) -/

/-- The commands of ROLECMD. -/
def IsRoleCommand (a : Agent) (i : Instr) : Prop := i ∈ [.roleResume a, .skip a, .resumeat a, .abort a]

section
variable {a : Agent} {s : State} (h : s.privileged a = false)
include h

theorem roleCommand_unprivileged {i : Instr} (hi : IsRoleCommand a i) : exec i s = .next s := by
  have hrole (bad : RoleId → Group → Role → State → Bool) (act : RoleId → Group → Role → State → Host.Outcome State Fault Refusal) :
      roleCommand a bad act s = .next s := if_pos (by simp [h])
  simp only [IsRoleCommand, List.mem_cons, List.not_mem_nil, or_false] at hi
  rcases hi with rfl | rfl | rfl | rfl
  · exact (exec_roleResume ..).trans (hrole _ _)
  · exact (exec_skip ..).trans (hrole _ _)
  · exact (exec_resumeat ..).trans (hrole _ _)
  · exact (exec_abort ..).trans (hrole _ _)

theorem fpqcmd_unprivileged (v : Word) : exec (.fpqcmd a v) s = .next s := (exec_fpqcmd ..).trans (if_pos (by simp [h]))

theorem lwinWrite_unprivileged (v : Word) : exec (.lwinWrite a v) s = .next s := (exec_lwinWrite ..).trans (if_pos (by simp [h]))

end

theorem registerWrite_unprivileged {r : RoleId} {s : State} (h : s.privileged (.role r) = false) (off : Nat) (v : Word) :
    exec (.registerWrite (.role r) off v) s = .next s := (exec_registerWrite ..).trans (if_neg (by simp [h]))

/-! ### The ends of SUSPEND, DRAIN and the scrub (R236, R246) -/

section
variable {s s1 : State} {x : CtxId}

theorem suspendComplete_left (hst : (s.ctx x).state = .suspended) (hb : (s.ctx x).busy = true) (hg : s.groupsOf x = []) :
    exec (.suspendComplete x) s = .next ((s.writeBackCtx x).onCtx x fun c => { c with busy := false }) :=
  (exec_suspendComplete ..).trans (if_pos (by simp [hst, hb, hg]))

theorem drainComplete_left (hst : (s.ctx x).state = .draining) (hg : s.groupsOf x = []) (hc : s.hasCopies x = false)
    (hs : s.hasStreams x = false) (hr : Runs (cancelAll x) s () s1) :
    exec (.drainComplete x) s = .next ((s1.writeBackCtx x).onCtx x fun c => { c with state := .scrubbing }) := by
  refine (exec_drainComplete ..).trans ((if_pos (by simp [hst, hg, hc, hs])).trans ?_)
  rw [show cancelAll x s = _ from hr]

theorem scrubComplete_scrubbing (hst : (s.ctx x).state = .scrubbing) : exec (.scrubComplete x) s = .next (s.scrub x).resumeLoads :=
  (exec_scrubComplete ..).trans (if_pos (by simp [hst]))

end

/-- Settles O41: the refusals in their order; each command where it is legal; the ends, and what the scrub leaves. -/
theorem contextCommands : Obligations.ContextCommands := by
  unfold Obligations.ContextCommands
  refine ⟨?_, fun x s s1 => ⟨fun hst hb hg => suspendComplete_left hst hb hg, fun hst hg hc hs hr => drainComplete_left hst hg hc hs hr,
    scrubComplete_scrubbing, ?_, fun y => s.ctx_scrub_other, fun q => State.keySlots_scrub, ?_, s.owns_scrub x, fun lat slot => ?_,
    fun c hc => ?_, ?_, ?_⟩⟩
  · intro a s s1 x b i hp hx st all
    refine ⟨fun hi hb => hx ▸ contextCommand_inProgress hi hp (hx ▸ hb), fun hb ha => ⟨fun hi hs =>
      hx ▸ contextCommand_safe hi hp (hx ▸ hb) ha hs, fun hs => ?_⟩⟩
    have h : Takes a s x := ⟨hp, hx.symm, hb, ha, hs⟩
    refine ⟨contextCommand_illegal h, fun hst hd => create_free h hst hd, fun hst => ?_, run_loaded h, suspend_running h,
      drain_assigned h, fun hst => ?_⟩
    · refine ⟨fun hh => (load_created h hst).trans (if_pos hh), load_runs h hst, fun hh hc =>
        load_runs h hst hh (runs_loadNow_claimed hc), ?_, drain_created h hst⟩
      intro bs s2 qs hh d entry hr
      have hscrub : s.heldBy x [.scrubbing] = false := State.heldBy_mono (by simp) hh
      have hclaim : s.heldBy x [.loaded, .running, .suspended, .draining] = false := State.heldBy_mono (by simp) hh
      refine ⟨fun he => load_runs h hst hscrub (runs_loadNow_malformed hclaim hr he), fun es hlen he => ⟨fun hap =>
        load_runs h hst hscrub (runs_loadNow_overlapping hclaim hr hlen he hap), fun hap hq =>
        ⟨(s2.ctx x).loadedWith es qs, load_runs h hst hscrub (runs_loadNow_loaded hclaim hr hlen he hap hq),
          rfl, rfl, rfl, rfl, rfl, rfl, rfl, rfl, rfl, rfl, rfl, rfl, rfl, rfl, rfl⟩⟩⟩
    · intro ask
      refine ⟨fun hm => (resume_suspended h hst).trans (if_neg (by simp [hm])), fun hm hr =>
        (resume_suspended h hst).trans ((if_pos hm).trans (partStep_runs hr)), fun n hn => ⟨fun hk hne => ?_, fun hk => ?_⟩⟩
      · exact (rekey_suspended h hst hn).trans (if_neg (by simp [hk, hne]))
      · exact (rekey_suspended h hst hn).trans (if_pos (by simpa using hk))
  · rw [State.ctx_scrub_same]
    rfl
  · rw [State.ctx_scrub_same]
    rfl
  · refine ⟨s.latSlot_scrub x lat slot, fun hv ho => ?_⟩
    rw [State.latSlot_scrub, LatSlot.without_owned hv ho]
    exact ⟨rfl, rfl, rfl⟩
  · obtain ⟨htlb, hlines, hboard⟩ := State.core_scrub_owned hc
    exact ⟨htlb, hlines, hboard, fun u b hu hd hb => State.byteAt_scrub_owned hc (.unit hu hd hb), fun b hb =>
      State.byteAt_scrub_owned hc (.row hb), fun b hb => State.byteAt_scrub_owned hc (.weight hb)⟩
  · intro r hp i hi
    have hcases : IsContextCommand (.role r) i ∨ IsRoleCommand (.role r) i := by
      simpa only [IsContextCommand, IsRoleCommand, List.mem_cons, List.not_mem_nil, or_false, or_assoc] using hi
    exact hcases.elim (fun h => contextCommand_unprivileged h hp) (roleCommand_unprivileged hp)
  · exact fun r v off hp => ⟨fpqcmd_unprivileged hp v, lwinWrite_unprivileged hp v, registerWrite_unprivileged hp off v⟩

end Sys2Proof.Machine
end

section
/-! PROOFS. The steps of CXL ports: a device's answer, snoops, the proxy's head, dynamic capacity (R399, R404, R407 to R409). -/

namespace Sys2Proof.Machine

open Sys2Proof

/-! ### What an update of the pool leaves -/

section
variable (s : State)

/-- The lines whose MAC does not fit after a device's content of a line changes as `setDeviceLine` makes it. -/
def State.badMacAfter (l : CacheLine) : List Nat :=
  let bad := if s.bytesAt (l.line * 64) 64 = l.data then [] else s.spoiled l.line
  (s.badMac.filter fun x => x != l.line && !bad.contains x) ++ bad

theorem State.addPoison_frame (g : Nat) : ∃ ps, s.addPoison g = { s with poison := ps } := by
  unfold State.addPoison
  split
  · exact ⟨_, rfl⟩
  · exact ⟨_, rfl⟩

/-- A device's content of a line changes its bytes, their marks and the lines that their MAC does not fit. -/
theorem State.setDeviceLine_frame (l : CacheLine) : ∃ ps cs, s.setDeviceLine l =
    { s.putBytes (l.line * 64) l.data with badMac := s.badMacAfter l, poison := ps, sizeCode := cs } := by
  have hcode : ∃ cs, (if l.line % 4 = 0 then
        ({ s.putBytes (l.line * 64) l.data with badMac := s.badMacAfter l } : State).setCode (l.line / 4) l.code
      else { s.putBytes (l.line * 64) l.data with badMac := s.badMacAfter l }) =
      { s.putBytes (l.line * 64) l.data with badMac := s.badMacAfter l, sizeCode := cs } := by
    split
    · exact ⟨_, rfl⟩
    · exact ⟨_, rfl⟩
  obtain ⟨cs, hcs⟩ := hcode
  have hset : s.setDeviceLine l = if l.poisoned then
        ({ s.putBytes (l.line * 64) l.data with badMac := s.badMacAfter l, sizeCode := cs } : State).addPoison l.line
      else ({ s.putBytes (l.line * 64) l.data with badMac := s.badMacAfter l, sizeCode := cs } : State).dropPoison l.line := by
    rw [← hcs]
    rfl
  rw [hset]
  split
  · obtain ⟨ps, hps⟩ := State.addPoison_frame { s.putBytes (l.line * 64) l.data with badMac := s.badMacAfter l, sizeCode := cs } l.line
    exact ⟨ps, cs, hps⟩
  · exact ⟨_, cs, rfl⟩

/-- The lines that their MAC does not fit once a device gives a line's content (R242). -/
def State.badMacGiven (l : CacheLine) : List Nat :=
  if s.bytesAt (l.line * 64) 64 = l.data then s.badMac
  else if s.macFits l.line l.data then s.badMacAfter l
  else l.line :: s.badMacAfter l

theorem State.deviceGives_frame (l : CacheLine) : ∃ ps cs, s.deviceGives l =
    { s.putBytes (l.line * 64) l.data with badMac := s.badMacGiven l, poison := ps, sizeCode := cs } := by
  obtain ⟨ps, cs, h⟩ := s.setDeviceLine_frame l
  refine ⟨ps, cs, ?_⟩
  unfold State.deviceGives State.badMacGiven
  rw [h]
  dsimp only
  split
  · rfl
  · split <;> rfl

end

section
variable {s : State} (l : CacheLine)

theorem State.badMacGiven_same (h : s.bytesAt (l.line * 64) 64 = l.data) : s.badMacGiven l = s.badMac := if_pos h

theorem State.mem_badMacGiven_new (h : s.bytesAt (l.line * 64) 64 ≠ l.data) (hs : l.line ∉ s.spoiled l.line) :
    l.line ∈ s.badMacGiven l ↔ s.macFits l.line l.data = false := by
  have hafter : l.line ∉ s.badMacAfter l := by simp [State.badMacAfter, h, hs]
  rw [State.badMacGiven, if_neg h]
  cases hm : s.macFits l.line l.data with
  | true => simpa using hafter
  | false => simp

/-! ### Lines of a port cache -/

variable {l}

theorem State.cached_setCache (c : List CacheLine) (line : Nat) :
    (s.setCache (portOf line) c).cached line = c.find? fun y => y.line == line := by
  simp [State.cached, State.setCache]

theorem State.cached_uncache (s : State) (line : Nat) : (s.uncache line).cached line = none := by
  rw [State.uncache, State.cached_setCache, List.find?_eq_none]
  intro y hy
  simpa using (List.mem_filter.mp hy).2

/-- A line enters a port cache without Dirty lines: nothing is written back. -/
theorem State.cachePut_clean (h : ∀ y ∈ (vget s.heads (portOf l.line)).cache, y.dirty = false) :
    ∃ rest, s.cachePut l = s.setCache (portOf l.line) (l :: rest) := by
  unfold State.cachePut
  dsimp only
  split
  · exact ⟨_, rfl⟩
  · split
    · exact ⟨_, rfl⟩
    · next v hv =>
      have hmem := List.mem_of_mem_filter (List.mem_of_mem_filter (List.mem_of_getLast? hv))
      rw [if_neg (by simp [h v hmem])]
      exact ⟨_, rfl⟩

end

/-! ### A device's answer (R399, R242) -/

theorem map_range_getD {α : Type} (xs : List α) (d : α) : (List.range xs.length).map (fun i => xs.getD i d) = xs := by
  refine List.ext_getElem (by simp) fun i h1 h2 => ?_
  simp [h2]

section
variable {s : State} {line : Nat} {data : List Byte} {bad : Bool} {code : BitVec 2}

theorem poolResponse_outside (h : poolLineNo line = false ∨ s.granted (line * 64) = false) :
    exec (.poolResponse line data bad code) s = .next s := (exec_poolResponse ..).trans (if_pos (by simpa using h))

variable (hp : poolLineNo line = true) (hg : s.granted (line * 64) = true)
include hp hg

theorem poolResponse_granted : exec (.poolResponse line data bad code) s = .next (s.poolFill line ⟨data, bad, code⟩) :=
  (exec_poolResponse ..).trans (if_neg (by simp [hp, hg]))

theorem poolResponse_dirty {l : CacheLine} (hc : s.cached line = some l) (hd : l.dirty = true) :
    exec (.poolResponse line data bad code) s = .next s := by
  rw [poolResponse_granted hp hg, State.poolFill, hc]
  exact congrArg Host.Outcome.next (if_pos hd)

end

section
variable {s : State} {line : Nat} {data : List Byte} (hc : s.cached line = none) (hlen : data.length = 64) (bad : Bool) (code : BitVec 2)
include hc hlen

/-- An answer for a line that the port does not cache enters the cache as the device gives it. -/
theorem State.poolFill_enters {g : State} (hg : s.deviceGives ⟨line, data, false, bad, code⟩ = g) :
    ∃ n, s.poolFill line ⟨data, bad, code⟩ = { g.cachePut ⟨line, data, false, bad || g.badMac.contains line, code⟩ with macEvents := n } := by
  have hdata : (List.range 64).map (fun i => data.getD i 0) = data := hlen ▸ map_range_getD data 0
  subst hg
  rw [State.poolFill, hc]
  dsimp only [Option.elim]
  rw [hdata]
  exact ⟨_, rfl⟩

/-- What a device's answer leaves of a line that the port does not cache, where no line of the port cache is Dirty. -/
theorem State.poolFill_uncached (hm : s.MemOk) (hd : ∀ y ∈ (vget s.heads (portOf line)).cache, y.dirty = false) :
    let t := s.poolFill line ⟨data, bad, code⟩
    t.cached line = some ⟨line, data, false, bad || t.badMac.contains line, code⟩ ∧ t.bytesAt (line * 64) 64 = data
      ∧ t.badMac = s.badMacGiven ⟨line, data, false, bad, code⟩ := by
  obtain ⟨ps, cs, hgives⟩ := s.deviceGives_frame ⟨line, data, false, bad, code⟩
  obtain ⟨n, hfill⟩ := State.poolFill_enters hc hlen bad code hgives
  obtain ⟨rest, hput⟩ := State.cachePut_clean (s := { s.putBytes (line * 64) data with
      badMac := s.badMacGiven ⟨line, data, false, bad, code⟩, poison := ps, sizeCode := cs })
    (l := ⟨line, data, false, bad || (s.badMacGiven ⟨line, data, false, bad, code⟩).contains line, code⟩) hd
  dsimp only at hfill hput ⊢
  rw [hfill, hput]
  refine ⟨?_, ?_, rfl⟩
  · exact (State.cached_setCache _ line).trans (List.find?_cons_of_pos (beq_self_eq_true line))
  · exact hlen ▸ State.bytesAt_putBytes_same (line * 64) data hm

end

/-! ### Snoops (R404, R409) -/

section
variable {s : State} {line : Nat}

theorem State.unsnooped_of_region {i : Nat} {r : Region} (h : s.regionAt (line * 64) = some (i, r)) (hk : r.kind ≠ 3) :
    s.unsnooped line = false := by simp [State.unsnooped, h, hk]

theorem State.unsnooped_of_none_or_flushed
    (h : s.regionAt (line * 64) = none ∨ ∃ i r, s.regionAt (line * 64) = some (i, r) ∧ r.kind = 3) : s.unsnooped line = true := by
  rcases h with h | ⟨i, r, h, hk⟩
  · simp [State.unsnooped, h]
  · simp [State.unsnooped, h, hk]

theorem State.snoop_unsnooped (h : s.unsnooped line = true) (w : Bool) : s.snoop line w = s := if_pos h

theorem State.snoop_uncached (h : s.cached line = none) (w : Bool) : s.snoop line w = s := by
  unfold State.snoop
  rw [h]
  split <;> rfl

/-- A snoop for writing drops the copy; a Dirty one is written back before. -/
theorem State.snoop_cached {l : CacheLine} (hu : s.unsnooped line = false) (hc : s.cached line = some l) :
    s.snoop line true = (if l.dirty then s.writeBack l else s).uncache line := by
  unfold State.snoop
  rw [hu, hc]
  rfl

theorem State.cached_snoop (hu : s.unsnooped line = false) : (s.snoop line true).cached line = none := by
  cases hc : s.cached line with
  | none => rwa [State.snoop_uncached hc]
  | some l =>
    rw [State.snoop_cached hu hc]
    exact State.cached_uncache ..

theorem State.forwardSnoop_none {but : Nat} (h : s.holders line but = []) (w : Bool) : s.forwardSnoop line but w = s := by
  rw [State.forwardSnoop, h]
  rfl

theorem State.holders_unsnooped (h : s.unsnooped line = true) (but : Nat) : s.holders line but = [] := if_pos h

/-- One holder that is not asked yet is sent the snoop. -/
theorem State.forwardSnoop_one {but e : Nat} (h : s.holders line but = [e])
    (hw : (s.snoopWait.any fun v => v.1 == e && v.2.1 == line) = false) (w : Bool) : s.forwardSnoop line but w =
      { s.transmit (s.linkTo e 0) (.snoop line w) with snoopWait := s.snoopWait ++ [(e, line, w)] } := by
  rw [State.forwardSnoop, h]
  exact if_neg (by simp [hw])

theorem backInvalidationSnoop_pool (h : poolLineNo line = true) (w : Bool) :
    exec (.backInvalidationSnoop line w) s = .next ((s.snoop line w).forwardSnoop line 16 w) :=
  (exec_backInvalidationSnoop ..).trans (if_pos h)

end

/-! ### Heads and extents (R407, R408) -/

section
variable {s : State}

theorem headRetrainFailure_eq (p : PortId) (s : State) :
    exec (.headRetrainFailure p) s = .next (if (vget s.heads p).up then s.markDown p else s) := exec_headRetrainFailure p s

theorem dcOffer_new {id base size : Nat} (hn : s.extents.find? (fun e => e.id == id) = none) (hb : poolLineNo (base / 64) = true)
    (hs : size ≠ 0 → poolLineNo ((base + size - 1) / 64) = true) :
    exec (.dcOffer id base size) s = .next { s with extents := s.extents ++ [⟨id, base, size, .zeroing⟩] } := by
  have hlast : (size != 0 && !poolLineNo ((base + size - 1) / 64)) = false := by
    by_cases h0 : size = 0
    · simp [h0]
    · simp [hs h0]
  exact (exec_dcOffer ..).trans (if_neg (by simp [State.extent, hn, hb, hlast]))

theorem dcZeroingComplete_zeroing {id : Nat} {e : Extent} (hf : s.extents.find? (fun e => e.id == id) = some e) (hz : e.state = .zeroing) :
    exec (.dcZeroingComplete id) s = .next (((s.zeroRange e.base e.size).freshMeta e.base e.size).onExtent id fun e =>
      { e with state := .offered }) := by
  rw [exec_dcZeroingComplete, execDcZeroingComplete, show s.extent id = some e from hf]
  exact if_neg (by simp [hz])

end

end Sys2Proof.Machine
end

section
/-! PROOFS. What waits at a link and what goes out over it (R411, R412). -/

namespace Sys2Proof.Machine

open Sys2Proof

/-! ### Sending what waits -/

/-- A link after n flits have gone out on a virtual channel. -/
def Link.spend (l : Link) (vc : Fin 4) (n : Nat) : Link :=
  { l with credits := vset l.credits vc (vget l.credits vc - n), seqOut := l.seqOut + BitVec.ofNat 32 n }

/-- Part of the waiting item at a place has gone out. -/
def State.sendPart (s : State) (i : Fin 8) (vc : Fin 4) (at_ : Nat) (w : TxWait) (n : Nat) : State :=
  { s.onLink i (fun l => l.spend vc n) with txWait := s.txWait.set at_ { w with left := w.left - n } }

/-- The last of the waiting item at a place has gone out. -/
def State.sendRest (s : State) (i : Fin 8) (vc : Fin 4) (at_ : Nat) (w : TxWait) (n : Nat) : State :=
  { s.onLink i (fun l => l.spend vc n) with txWait := s.txWait.eraseIdx at_, tx := s.tx ++ [(i.val, s.stamped w.out)] }

theorem State.links_sendPart (s : State) (i : Fin 8) (vc : Fin 4) (at_ : Nat) (w : TxWait) (n : Nat) :
    (s.sendPart i vc at_ w n).links = (s.onLink i fun l => l.spend vc n).links := rfl

theorem State.links_sendRest (s : State) (i : Fin 8) (vc : Fin 4) (at_ : Nat) (w : TxWait) (n : Nat) :
    (s.sendRest i vc at_ w n).links = (s.onLink i fun l => l.spend vc n).links := rfl

section
variable {i : Fin 8} {vc : Fin 4}

theorem findIdx?_waiting_none {ws : List TxWait} (h : (ws.all fun y => y.link != i || y.vc != vc) = true) :
    (ws.findIdx? fun w => w.link == i && w.vc == vc) = none := by
  rw [List.findIdx?_eq_none_iff]
  intro y hy
  have hne := List.all_eq_true.mp h y hy
  simpa [or_iff_not_imp_left] using hne

theorem State.pump_idle {s : State} (h : (s.txWait.all fun y => y.link != i || y.vc != vc) = true) (n : Nat) :
    State.pump i vc n s = s := by
  cases n with
  | zero => rfl
  | succ n =>
    unfold State.pump
    dsimp only
    rw [findIdx?_waiting_none h]

/-- The oldest item that waits on a virtual channel goes out as far as the credits reach. -/
theorem State.pump_oldest {s : State} {pre more : List TxWait} {w : TxWait} (hw : s.txWait = pre ++ w :: more)
    (hpre : (pre.all fun y => y.link != i || y.vc != vc) = true) (hl : w.link = i) (hv : w.vc = vc) (hc : (vget s.links i).carries = true)
    (h1 : 1 ≤ vget (vget s.links i).credits vc) (n : Nat) : State.pump i vc (n + 1) s =
      if vget (vget s.links i).credits vc < w.left then s.sendPart i vc pre.length w (vget (vget s.links i).credits vc)
      else State.pump i vc n (s.sendRest i vc pre.length w w.left) := by
  have hfind : (s.txWait.findIdx? fun w => w.link == i && w.vc == vc) = some pre.length := by
    rw [hw, List.findIdx?_append, findIdx?_waiting_none hpre]
    simp [List.findIdx?_cons, hl, hv]
  have hat : s.txWait[pre.length]? = some w := by simp [hw]
  rw [State.pump]
  dsimp only
  rw [hfind]
  dsimp only
  rw [hat]
  dsimp only
  rw [if_neg (by simp [hc]; omega)]
  by_cases hlt : vget (vget s.links i).credits vc < w.left
  · rw [if_pos hlt, Nat.min_eq_right (Nat.le_of_lt hlt), if_pos hlt]
    rfl
  · rw [if_neg hlt, Nat.min_eq_left (by omega), if_neg (Nat.lt_irrefl _)]
    rfl

/-- Nothing goes out over a link that carries no traffic, or on a virtual channel without credits. -/
theorem State.pump_stuck {s : State} (h : (vget s.links i).carries = false ∨ vget (vget s.links i).credits vc = 0) (n : Nat) :
    State.pump i vc n s = s := by
  cases n with
  | zero => rfl
  | succ n =>
    unfold State.pump
    dsimp only
    split
    · rfl
    · split
      · rfl
      · exact if_pos (by simpa using h)

/-- What each sending on a link keeps is kept until nothing more goes out. -/
theorem State.pump_keeps {P : State → Prop} (hpart : ∀ t at_ w n, P t → w ∈ t.txWait → w.link = i → P (t.sendPart i vc at_ w n))
    (hrest : ∀ t at_ w n, P t → w ∈ t.txWait → w.link = i → P (t.sendRest i vc at_ w n)) (n : Nat) {s : State} (hs : P s) :
    P (State.pump i vc n s) := by
  induction n generalizing s with
  | zero => exact hs
  | succ n ih =>
    unfold State.pump
    dsimp only
    split
    · exact hs
    · next at_ hfind =>
      split
      · exact hs
      · next w hat =>
        have hmem : w ∈ s.txWait := List.mem_of_getElem? hat
        have hlink : w.link = i := by
          obtain ⟨hlt, hp, -⟩ := List.findIdx?_eq_some_iff_getElem.mp hfind
          have hw : s.txWait[at_] = w := by simpa [hlt] using hat
          simp only [hw, Bool.and_eq_true, beq_iff_eq] at hp
          exact hp.1
        split
        · exact hs
        · split
          · exact hpart s at_ w _ hs hmem hlink
          · exact ih (hrest s at_ w _ hs hmem hlink)

end

/-! ### What goes out over one link leaves another -/

section
variable {s : State} {i j : Fin 8} {vc : Fin 4}

theorem State.links_onLink_same (s : State) (i : Fin 8) (f : Link → Link) : vget (s.onLink i f).links i = f (vget s.links i) :=
  vget_vset_same ..

theorem State.links_onLink_other (s : State) (f : Link → Link) (h : j ≠ i) : vget (s.onLink i f).links j = vget s.links j :=
  vget_vset_other _ _ h

/-- No item waits at a link. -/
def State.NoneWaits (s : State) (j : Fin 8) : Prop := ∀ y ∈ s.txWait, y.link ≠ j

theorem State.pump_other (h : j ≠ i) (n : Nat) : vget (State.pump i vc n s).links j = vget s.links j :=
  State.pump_keeps (P := fun t => vget t.links j = vget s.links j)
    (fun t _ _ _ ht _ _ => by rw [t.links_sendPart, t.links_onLink_other _ h, ht])
    (fun t _ _ _ ht _ _ => by rw [t.links_sendRest, t.links_onLink_other _ h, ht]) n rfl

theorem State.pump_noneWaits (n : Nat) (hs : s.NoneWaits j) : (State.pump i vc n s).NoneWaits j := by
  refine State.pump_keeps (P := fun t => t.NoneWaits j) (fun t at_ w m ht hw _ y hy => ?_) (fun t at_ w m ht _ _ y hy => ?_) n hs
  · rcases List.mem_or_eq_of_mem_set hy with hy | rfl
    · exact ht y hy
    · exact ht w hw
  · exact ht y (List.mem_of_mem_eraseIdx hy)

theorem State.pump_tx (n : Nat) {p : Nat × Outgoing} (hp : p ∈ s.tx) : p ∈ (State.pump i vc n s).tx :=
  State.pump_keeps (P := fun t => p ∈ t.tx) (fun _ _ _ _ ht _ _ => ht) (fun _ _ _ _ ht _ _ => List.mem_append_left _ ht) n hp

/-- Sending changes a link's credits and sequence number, and not whether it carries traffic or how often it has replayed. -/
theorem State.pump_same (n : Nat) : (vget (State.pump i vc n s).links i).carries = (vget s.links i).carries
    ∧ (vget (State.pump i vc n s).links i).replays = (vget s.links i).replays := by
  have hspend (t : State) (m : Nat) : (vget (t.onLink i fun l => l.spend vc m).links i).carries = (vget t.links i).carries
      ∧ (vget (t.onLink i fun l => l.spend vc m).links i).replays = (vget t.links i).replays := by
    rw [State.links_onLink_same]
    exact ⟨rfl, rfl⟩
  refine State.pump_keeps (P := fun t => (vget t.links i).carries = (vget s.links i).carries ∧ (vget t.links i).replays = (vget s.links i).replays)
    (fun t _ _ m ht _ _ => ?_) (fun t _ _ m ht _ _ => ?_) n ⟨rfl, rfl⟩
  · exact ⟨(hspend t m).1.trans ht.1, (hspend t m).2.trans ht.2⟩
  · exact ⟨(hspend t m).1.trans ht.1, (hspend t m).2.trans ht.2⟩

theorem State.transmit_other (h : j ≠ i) (o : Outgoing) : vget (s.transmit i o).links j = vget s.links j := State.pump_other h _

theorem State.transmit_noneWaits (h : j ≠ i) (o : Outgoing) (hs : s.NoneWaits j) : (s.transmit i o).NoneWaits j := by
  refine State.pump_noneWaits _ fun y hy => ?_
  rcases List.mem_append.mp hy with hy | hy
  · exact hs y hy
  · rw [List.mem_singleton.mp hy]
    exact h.symm

theorem State.transmit_tx (o : Outgoing) {p : Nat × Outgoing} (hp : p ∈ s.tx) : p ∈ (s.transmit i o).tx := State.pump_tx _ hp

/-- What one flit holds goes out at once where nothing waits at the link and its channel has a credit. -/
theorem State.transmit_now {o : Outgoing} (hs : s.NoneWaits i) (hc : (vget s.links i).carries = true) (hf : o.flits = 1)
    (h1 : 1 ≤ vget (vget s.links i).credits o.vc) : (i.val, s.stamped o) ∈ (s.transmit i o).tx := by
  rw [State.transmit, State.pump_oldest (s := { s with txWait := s.txWait ++ [⟨i, o.vc, o.flits, o⟩] }) (pre := s.txWait) (more := []) rfl
    (List.all_eq_true.mpr fun y hy => by simp [hs y hy]) rfl rfl hc h1]
  rw [if_neg (by simp only [hf]; omega)]
  exact State.pump_tx _ (List.mem_append_right _ (List.mem_singleton.mpr rfl))

theorem Outgoing.flits_pos (o : Outgoing) : 1 ≤ o.flits := by
  cases o with
  | message m => exact Nat.le_add_left 1 _
  | _ => exact le_rfl

/-- What is handed to a link goes out whole where nothing waits before it and the credits suffice. -/
theorem State.transmit_whole {o : Outgoing} (hc : (vget s.links i).carries = true)
    (hw : (s.txWait.all fun y => y.link != i || y.vc != o.vc) = true) (hf : o.flits ≤ vget (vget s.links i).credits o.vc) :
    (s.transmit i o).tx = s.tx ++ [(i.val, s.stamped o)] ∧ (s.transmit i o).txWait = s.txWait := by
  have hwait : (s.txWait ++ [(⟨i, o.vc, o.flits, o⟩ : TxWait)]).eraseIdx s.txWait.length = s.txWait := by
    rw [List.eraseIdx_append_of_length_le le_rfl, Nat.sub_self, List.eraseIdx_cons_zero, List.append_nil]
  rw [State.transmit, State.pump_oldest (s := { s with txWait := s.txWait ++ [⟨i, o.vc, o.flits, o⟩] }) (pre := s.txWait) (more := []) rfl
    hw rfl rfl hc (o.flits_pos.trans hf), if_neg (Nat.not_lt.mpr hf), State.pump_idle]
  · exact ⟨rfl, hwait⟩
  · rw [State.sendRest, hwait]
    exact hw

/-- What is handed to a link waits there where the link carries no traffic or its channel has no credits. -/
theorem State.transmit_stuck {o : Outgoing} (h : (vget s.links i).carries = false ∨ vget (vget s.links i).credits o.vc = 0) :
    s.transmit i o = { s with txWait := s.txWait ++ [⟨i, o.vc, o.flits, o⟩] } :=
  State.pump_stuck (s := { s with txWait := s.txWait ++ [⟨i, o.vc, o.flits, o⟩] }) h _

end

/-! ### Messages (R415, R417) -/

section
variable {s : State} {m : Message}

theorem State.post_own (h : m.dstProc.val = s.encProc.toNat) : s.post m = s.takeMessage m := if_pos h

theorem State.post_other (h : m.dstProc.val ≠ s.encProc.toNat) : s.post m = s.transmit (s.linkTo m.dstProc.val m.num) (.message m) :=
  if_neg h

theorem State.takeMessage_refused (h : s.accepts m = false) : s.takeMessage m = { s with dropped := s.dropped + 1 } :=
  if_pos (by simp [h])

variable (h : s.accepts m = true)
include h

theorem State.takeMessage_accepted (ho : s.collOwed.find? (fun y => y.by_ m) = none) : s.takeMessage m = { s with rx := s.rx ++ [m] } := by
  refine (if_neg (by simp [h])).trans ?_
  rw [ho]

/-- A contribution to a collective that has ended with a mismatch is answered with one, unless it tells of one itself. -/
theorem State.takeMessage_owed {y : Owed} (ho : s.collOwed.find? (fun y => y.by_ m) = some y) {u : State}
    (hu : u = { s with collOwed := s.collOwed.erase y }) : s.takeMessage m =
      if m.fmt = mismatchFmt then u
      else if m.srcProc.val = s.encProc.toNat then { u with rx := u.rx ++ [s.refusalOf m] }
      else u.transmit (u.linkTo m.srcProc.val m.num) (.message (s.refusalOf m)) := by
  subst hu
  refine (if_neg (by simp [h])).trans ?_
  rw [ho]
  rfl

end

end Sys2Proof.Machine
end

section
/-! PROOFS. The steps of Ralkor links (R409, R411, R413, R415), and with those of CXL ports what the ports and links do (O45). -/

namespace Sys2Proof.Machine

open Sys2Proof

/-! ### Flits that a link takes -/

/-- The state in which a link has taken a flit. -/
abbrev State.tookFlit (s : State) (i : PortId) : State := s.onLink i Link.took

/-- A link that has taken a flit of n credits for a virtual channel. -/
def Link.credited (l : Link) (vc : Fin 4) (n : Nat) : Link := { l.took with credits := vset l.credits vc (vget l.credits vc + n) }

theorem sameTime_iff {a b : Word} : sameTime a b = true ↔ (a - b).toNat ≤ 2 ∨ (b - a).toNat ≤ 2 := by simp [sameTime]

theorem credits_sendCredited (s : State) (i : PortId) (vc : Fin 4) (n k : Nat) :
    vget (vget ((s.onLink i fun l => l.credited vc n).onLink i fun l => l.spend vc k).links i).credits vc =
      vget (vget s.links i).credits vc + n - k := by
  rw [State.links_onLink_same, State.links_onLink_same]
  simp [Link.spend, Link.credited]

section
variable {s : State} {i : PortId}

theorem flit_closed (h : (vget s.links i).carries = false) (m : Message) (vc : Fin 4) (n line : Nat) (src : Fin 16) (st ans : Option LineData)
    (w : Bool) (time : Word) : ∀ e ∈ [Instr.flitMessageData i m, .flitCredit i vc n, .flitProxyRequest i src line st,
      .flitProxyResponse i line ans, .flitSnoop i line w, .flitTime i time], exec e s = .next s := by
  intro e he
  simp only [List.mem_cons, List.not_mem_nil, or_false] at he
  rcases he with rfl | rfl | rfl | rfl | rfl | rfl
  · exact (exec_flitMessageData ..).trans (if_pos (by simp [h]))
  · exact (exec_flitCredit ..).trans (if_pos (by simp [h]))
  · exact (exec_flitProxyRequest ..).trans (if_pos (by simp [h]))
  · exact (exec_flitProxyResponse ..).trans (if_pos (by simp [h]))
  · exact (exec_flitSnoop ..).trans (if_pos (by simp [h]))
  · exact (exec_flitTime ..).trans (if_pos (by simp [h]))

variable (h : (vget s.links i).carries = true)
include h

theorem flitMessageData_taken (m : Message) : exec (.flitMessageData i m) s = .next ((s.tookFlit i).post m) :=
  (exec_flitMessageData ..).trans (if_neg (by simp [h]))

/-! ### Credits (R411) -/

theorem flitCredit_taken (vc : Fin 4) (n : Nat) : exec (.flitCredit i vc n) s =
    .next (State.pump i vc (s.txWait.length + 1) (s.onLink i fun l => l.credited vc n)) :=
  (exec_flitCredit ..).trans (if_neg (by simp [h]))

theorem flitCredit_idle {vc : Fin 4} (hw : (s.txWait.all fun y => y.link != i || y.vc != vc) = true) (n : Nat) :
    exec (.flitCredit i vc n) s = .next (s.onLink i fun l => l.credited vc n) := by
  rw [flitCredit_taken h, State.pump_idle (s := s.onLink i fun l => l.credited vc n) hw]

/-- The one item that waits on the virtual channel goes out, or the part of it for which the credits are there. -/
theorem flitCredit_waiting {vc : Fin 4} {x : TxWait} {more : List TxWait} (hw : s.txWait = x :: more) (hl : x.link = i) (hv : x.vc = vc)
    (hmore : (more.all fun y => y.link != i || y.vc != vc) = true) {n k : Nat} (hk : k = vget (vget s.links i).credits vc + n) (h1 : 1 ≤ k) :
    (k < x.left → exec (.flitCredit i vc n) s = .next ((s.onLink i fun l => l.credited vc n).sendPart i vc 0 x k))
    ∧ (x.left ≤ k → exec (.flitCredit i vc n) s = .next ((s.onLink i fun l => l.credited vc n).sendRest i vc 0 x x.left)) := by
  have hlink : vget (s.onLink i fun l => l.credited vc n).links i = (vget s.links i).credited vc n := s.links_onLink_same i _
  have hcred : vget (vget (s.onLink i fun l => l.credited vc n).links i).credits vc = k := by
    rw [hlink, hk]
    exact vget_vset_same ..
  have hpump := State.pump_oldest (s := s.onLink i fun l => l.credited vc n) (pre := []) hw rfl hl hv (by rw [hlink]; exact h)
    (by rw [hcred]; exact h1) s.txWait.length
  rw [hcred] at hpump
  rw [flitCredit_taken h, hpump]
  refine ⟨fun hlt => by rw [if_pos hlt]; rfl, fun hle => ?_⟩
  rw [if_neg (Nat.not_lt.mpr hle)]
  refine congrArg _ (State.pump_idle ?_ _)
  simpa [State.sendRest, State.onLink, hw] using hmore

/-- The item that waits leaves the list, or stays in it with what is left of it. -/
theorem flitCredit_waiting_answer {vc : Fin 4} {x : TxWait} {more : List TxWait} (hw : s.txWait = x :: more) (hl : x.link = i) (hv : x.vc = vc)
    (h0 : 1 ≤ x.left) (hmore : (more.all fun y => y.link != i || y.vc != vc) = true) {n k : Nat} (hk : vget (vget s.links i).credits vc + n = k) :
    ∃ t, exec (.flitCredit i vc n) s = .next t
      ∧ (x.left ≤ k → t.tx = s.tx ++ [(i.val, s.stamped x.out)] ∧ t.txWait = more ∧ vget (vget t.links i).credits vc = k - x.left)
      ∧ (k < x.left → 1 ≤ k → t.tx = s.tx ∧ vget (vget t.links i).credits vc = 0 ∧ t.txWait = { x with left := x.left - k } :: more) := by
  have hcred (m : Nat) : vget (vget ((s.onLink i fun l => l.credited vc n).onLink i fun l => l.spend vc m).links i).credits vc = k - m :=
    (credits_sendCredited s i vc n m).trans (congrArg (· - m) hk)
  rcases Nat.lt_or_ge k x.left with hlt | hle
  · by_cases h1 : 1 ≤ k
    · refine ⟨_, (flitCredit_waiting h hw hl hv hmore hk.symm h1).1 hlt, fun hle => absurd hlt (Nat.not_lt.mpr hle), fun _ _ => ⟨rfl, ?_, ?_⟩⟩
      · exact (hcred k).trans (Nat.sub_self k)
      · exact congrArg (fun ws : List TxWait => ws.set 0 { x with left := x.left - k }) hw
    · exact ⟨_, flitCredit_taken h vc n, fun hle => absurd hlt (Nat.not_lt.mpr hle), fun _ hk1 => absurd hk1 h1⟩
  · refine ⟨_, (flitCredit_waiting h hw hl hv hmore hk.symm (h0.trans hle)).2 hle, fun _ => ⟨rfl, ?_, hcred x.left⟩, fun hlt =>
      absurd hlt (Nat.not_lt.mpr hle)⟩
    exact congrArg (fun ws : List TxWait => ws.eraseIdx 0) hw

/-! ### Time flits (R413) -/

theorem flitTime_taken (time : Word) : exec (.flitTime i time) s =
    .next (if decide (linkPeer s.encSize.toNat s.encProc.toNat i.val < s.encProc.toNat) && !sameTime (s.etoffBy time) s.etoff
      then { s.tookFlit i with etoff := s.etoffBy time } else s.tookFlit i) :=
  (exec_flitTime ..).trans (if_neg (by simp [h]))

section
variable {time by_ : Word} (hby : s.etoffBy time = by_)
include hby

/-- The time of a neighbour with a lower number is taken where the two differ by more than 2. -/
theorem flitTime_adopted (hlower : linkPeer s.encSize.toNat s.encProc.toNat i.val < s.encProc.toNat)
    (hdiffer : ¬ ((by_ - s.etoff).toNat ≤ 2 ∨ (s.etoff - by_).toNat ≤ 2)) :
    exec (.flitTime i time) s = .next { s.tookFlit i with etoff := by_ } := by
  subst hby
  have hsame : sameTime (s.etoffBy time) s.etoff = false := Bool.eq_false_iff.mpr (mt sameTime_iff.mp hdiffer)
  exact (flitTime_taken h time).trans (congrArg _ (if_pos (by simp [hlower, hsame])))

theorem flitTime_kept (hor : ¬ linkPeer s.encSize.toNat s.encProc.toNat i.val < s.encProc.toNat
      ∨ (by_ - s.etoff).toNat ≤ 2 ∨ (s.etoff - by_).toNat ≤ 2) : exec (.flitTime i time) s = .next (s.tookFlit i) := by
  subst hby
  refine (flitTime_taken h time).trans (congrArg _ (if_neg fun hboth => ?_))
  rw [Bool.and_eq_true_iff, decide_eq_true_iff, Bool.not_eq_true'] at hboth
  exact hor.elim (fun hlower => hlower hboth.1) fun hagree => Bool.eq_false_iff.mp hboth.2 (sameTime_iff.mpr hagree)

end
end

/-! ### Proxied requests (R409) -/

theorem State.proxyWait_transmit (s : State) (i : Fin 8) (o : Outgoing) : (s.transmit i o).proxyWait = s.proxyWait := by
  obtain ⟨_, _, _, h⟩ := s.transmit_frame i o
  rw [h]

theorem State.proxyWait_writeBack (s : State) (l : CacheLine) : (s.writeBack l).proxyWait = s.proxyWait := by
  have hset (t : State) : (t.setDeviceLine l).proxyWait = t.proxyWait := by
    obtain ⟨_, _, hf⟩ := t.setDeviceLine_frame l
    rw [hf]
    rfl
  have hsend (store : Option LineData) : (s.sendRequest l.line store).proxyWait = s.proxyWait := by
    unfold State.sendRequest
    split
    · rfl
    · exact s.proxyWait_transmit ..
  unfold State.writeBack
  dsimp only
  split
  · rfl
  · split
    · exact (hset _).trans (hsend _)
    · exact (hset _).trans (hsend _)

theorem State.proxyWait_snoop (s : State) (line : Nat) (w : Bool) : (s.snoop line w).proxyWait = s.proxyWait := by
  unfold State.snoop
  split
  · rfl
  · split
    · rfl
    · next l _ =>
      dsimp only
      have hback : (if l.dirty = true then s.writeBack l else s).proxyWait = s.proxyWait := by
        split
        · exact s.proxyWait_writeBack l
        · rfl
      split
      · exact hback
      · exact hback

/-- A request of a neighbour leaves the port caches and what waits as its snoop left them, and records the holder. -/
theorem State.proxyIssue_frame {s : State} {w : ProxyWait} (h : w.proc ≠ s.encProc.toNat) :
    (s.proxyIssue w).heads = (s.snoop w.line w.store.isSome).heads ∧ (s.proxyIssue w).proxyWait = s.proxyWait
      ∧ (w.proc, w.line) ∈ (s.proxyIssue w).proxied := by
  rw [← s.proxyWait_snoop w.line w.store.isSome]
  unfold State.proxyIssue
  rw [if_neg h]
  cases w.store with
  | none =>
    dsimp only
    obtain ⟨_, _, _, ht⟩ := State.transmit_frame _ w.link _
    rw [ht]
    exact ⟨rfl, rfl, List.mem_cons_self ..⟩
  | some d =>
    dsimp only
    obtain ⟨_, _, _, ht⟩ := State.transmit_frame _ w.link _
    rw [ht]
    obtain ⟨_, _, hd⟩ := State.setDeviceLine_frame _ _
    rw [hd]
    exact ⟨rfl, rfl, List.mem_cons_self ..⟩

/-- No request about a line waits. -/
theorem State.proxyGo_none {s : State} {line : Nat} (h : (s.proxyWait.any fun y => y.line == line) = false) (f : Nat) : s.proxyGo line f = s := by
  cases f with
  | zero => rfl
  | succ f =>
    unfold State.proxyGo
    split
    · rfl
    · rw [List.find?_eq_none.mpr fun y hy => List.any_eq_false.mp h y hy]

theorem State.proxyGo_awaited {s : State} {line : Nat} (h : (s.snoopWait.any fun y => y.2.1 == line) = true) (f : Nat) : s.proxyGo line f = s := by
  cases f with
  | zero => rfl
  | succ f =>
    unfold State.proxyGo
    exact if_pos h

/-- A proxied request goes behind those that wait. -/
def State.queueProxy (s : State) (w : ProxyWait) : State := { s with proxyWait := s.proxyWait ++ [w] }

/-- The one request about a line that waits, at the end of the list, is issued; none of its line is left. -/
theorem State.proxyGo_last {s : State} {req : ProxyWait} (hw : (s.proxyWait.any fun y => y.line == req.line) = false)
    (hs : (s.snoopWait.any fun y => y.2.1 == req.line) = false) (hp : req.proc ≠ s.encProc.toNat) (f : Nat) :
    (s.queueProxy req).proxyGo req.line (f + 1) = s.proxyIssue req := by
  have hnone : s.proxyWait.find? (fun y => y.line == req.line) = none := List.find?_eq_none.mpr fun y hy => List.any_eq_false.mp hw y hy
  have hmem : req ∉ s.proxyWait := fun hm => List.any_eq_false.mp hw req hm (beq_self_eq_true _)
  have hfind : (s.queueProxy req).proxyWait.find? (fun y => y.line == req.line) = some req := by
    simp [State.queueProxy, List.find?_append, hnone]
  have herase : ({ s.queueProxy req with proxyWait := (s.queueProxy req).proxyWait.erase req } : State) = s := by
    show ({ s with proxyWait := (s.proxyWait ++ [req]).erase req } : State) = s
    rw [List.erase_append_right _ hmem, List.erase_cons_head, List.append_nil]
  unfold State.proxyGo
  refine (if_neg (Bool.eq_false_iff.mp hs)).trans ?_
  rw [hfind]
  dsimp only
  rw [herase, (State.proxyIssue_frame hp).2.1, hnone]

section
variable {s : State} {i : PortId} {line : Nat} (h : (vget s.links i).carries = true) (hp : poolLineNo line = true)
include h hp

theorem flitProxyRequest_refused (hu : (vget s.heads (portOf line)).up = false) (src : Fin 16) (st : Option LineData) :
    exec (.flitProxyRequest i src line st) s = .next ((s.tookFlit i).transmit i (.answer line none)) :=
  (exec_flitProxyRequest ..).trans ((if_neg (by simp [h, hp])).trans (if_pos (by simp [hu])))

section
variable {src : Fin 16} (st : Option LineData) (hu : (vget s.heads (portOf line)).up = true)
  (hw : (s.proxyWait.any fun y => y.line == line) = false)
include hu hw

/-- A request for a line about which nothing waits: its other holders are asked, and it goes behind what waits. -/
theorem flitProxyRequest_up {t : State} (ht : (s.tookFlit i).forwardSnoop line src.val st.isSome = t) :
    exec (.flitProxyRequest i src line st) s =
      .next ((t.queueProxy ⟨i, src.val, line, st⟩).proxyGo line (t.proxyWait.length + 1)) := by
  have hfwd : (if (s.tookFlit i).proxyWait.any fun y => y.line == line then s.tookFlit i
      else (s.tookFlit i).forwardSnoop line src.val st.isSome) = t := (if_neg (Bool.eq_false_iff.mp hw)).trans ht
  have hlen : (t.queueProxy ⟨i, src.val, line, st⟩).proxyWait.length = t.proxyWait.length + 1 := List.length_append
  rw [← hlen, ← hfwd]
  exact (exec_flitProxyRequest ..).trans ((if_neg (by simp [h, hp])).trans (if_neg (by simp [hu])))

variable (hs : (s.snoopWait.any fun y => y.2.1 == line) = false)
include hs

theorem flitProxyRequest_unheld (hsrc : src.val ≠ s.encProc.toNat) (hh : s.holders line src.val = []) :
    exec (.flitProxyRequest i src line st) s = .next ((s.tookFlit i).proxyIssue ⟨i, src.val, line, st⟩) := by
  rw [flitProxyRequest_up h hp st hu hw (State.forwardSnoop_none (s := s.tookFlit i) hh _)]
  exact congrArg _ (State.proxyGo_last (s := s.tookFlit i) (req := ⟨i, src.val, line, st⟩) hw hs hsrc _)

theorem flitProxyRequest_held {e : Nat} (hh : s.holders line src.val = [e]) : exec (.flitProxyRequest i src line st) s =
    .next { (s.tookFlit i).transmit ((s.tookFlit i).linkTo e 0) (.snoop line st.isSome) with
      snoopWait := s.snoopWait ++ [(e, line, st.isSome)], proxyWait := s.proxyWait ++ [⟨i, src.val, line, st⟩] } := by
  have hnone : ((s.tookFlit i).snoopWait.any fun v => v.1 == e && v.2.1 == line) = false :=
    List.any_eq_false.mpr fun y hy => by
      have := List.any_eq_false.mp hs y hy
      simp_all
  have hfwd := State.forwardSnoop_one (s := s.tookFlit i) hh hnone st.isSome
  rw [flitProxyRequest_up h hp st hu hw hfwd, State.proxyGo_awaited (by simp [State.queueProxy]), State.queueProxy]
  dsimp only
  rw [State.proxyWait_transmit]
  rfl

end

/-! ### Snoops and answers over links (R409) -/

theorem flitSnoop_clean (hc : s.unsnooped line = true ∨ s.cached line = none) (w : Bool) :
    exec (.flitSnoop i line w) s = .next ((s.tookFlit i).transmit i (.answer line (some ⟨[], false, 0⟩))) := by
  have hnewer : (if s.unsnooped line then none else (s.cached line).filter CacheLine.dirty) = none := by
    rcases hc with hc | hc
    · exact if_pos hc
    · simp [hc]
  have hsnoop : (s.tookFlit i).snoop line w = s.tookFlit i := by
    rcases hc with hc | hc
    · exact State.snoop_unsnooped (s := s.tookFlit i) hc w
    · exact State.snoop_uncached (s := s.tookFlit i) hc w
  refine (exec_flitSnoop ..).trans ((if_neg (by simp [h, hp])).trans ?_)
  rw [hnewer]
  exact congrArg (fun t : State => Host.Outcome.next (t.transmit i (.answer line (some ⟨[], false, 0⟩)))) hsnoop

theorem flitSnoop_cached {c : CacheLine} (hu : s.unsnooped line = false) (hc : s.cached line = some c) (w : Bool) :
    exec (.flitSnoop i line w) s = .next (((s.tookFlit i).snoop line w).transmit i
      (.answer line (some (if c.dirty = true then ⟨c.data, c.poisoned, c.code⟩ else ⟨[], false, 0⟩)))) := by
  refine (exec_flitSnoop ..).trans ((if_neg (by simp [h, hp])).trans ?_)
  rw [hu, hc]
  cases hd : c.dirty with
  | true => simp [Option.filter, hd, State.tookFlit]
  | false => simp [Option.filter, hd, State.tookFlit]

theorem flitProxyResponse_snooped {v : Nat × Nat × Bool} (ans : Option LineData)
    (hv : (s.snoopWait.find? fun y => y.2.1 == line && (s.linkTo y.1 0).val / 2 == i.val / 2) = some v) :
    exec (.flitProxyResponse i line ans) s = .next ((s.tookFlit i).snoopAnswered v ans) := by
  refine (exec_flitProxyResponse ..).trans ((if_neg (by simp [h, hp])).trans ?_)
  rw [hv]

section
variable (hv : (s.snoopWait.find? fun y => y.2.1 == line && (s.linkTo y.1 0).val / 2 == i.val / 2) = none)
include hv

/-- An answer that no snoop waits for is one to an own request over the proxy. -/
theorem flitProxyResponse_own (ans : Option LineData) : exec (.flitProxyResponse i line ans) s =
    if (vget s.heads (portOf line)).up then .next (s.tookFlit i)
    else match ans with
      | none => .next (if s.refusedLines.contains line then s.tookFlit i
          else { s.tookFlit i with refusedLines := line :: s.refusedLines })
      | some d => .next (if d.data.isEmpty || !s.granted (line * 64) then s.tookFlit i else (s.tookFlit i).poolFill line d) := by
  refine (exec_flitProxyResponse ..).trans ((if_neg (by simp [h, hp])).trans ?_)
  rw [hv]
  rfl

end
end

theorem State.snoopAnswered_none {s : State} {v : Nat × Nat × Bool} (h : (s.proxyWait.any fun y => y.line == v.2.1) = false) :
    s.snoopAnswered v none = { s with
      snoopWait := s.snoopWait.erase v, proxied := if v.2.2 = true then s.proxied.filter (fun p => p != (v.1, v.2.1)) else s.proxied } :=
  State.proxyGo_none (s := { s with
    snoopWait := s.snoopWait.erase v, proxied := if v.2.2 = true then s.proxied.filter (fun p => p != (v.1, v.2.1)) else s.proxied }) h _

/-! ### The exchange of time flits (R413) -/

/-- A link that carries traffic sends the enclosure time. -/
def State.sendTime (s : State) (i : Fin 8) : State := if (vget s.links i).carries then s.transmit i (.time (s.cycle + s.etoff)) else s

section
variable {s : State} {i j : Fin 8}

/-- The enclosure time and the number of exchanges. -/
def clocks (s : State) : Word × Word × Nat := (s.cycle, s.etoff, s.exchanges)

theorem clocks_sendTime (s : State) (i : Fin 8) : clocks (s.sendTime i) = clocks s := by
  unfold State.sendTime
  split
  · obtain ⟨_, _, _, h⟩ := s.transmit_frame i (.time (s.cycle + s.etoff))
    rw [h]
    rfl
  · rfl

theorem State.sendTime_other (h : j ≠ i) : vget (s.sendTime i).links j = vget s.links j := by
  unfold State.sendTime
  split
  · exact State.transmit_other h _
  · rfl

theorem State.sendTime_noneWaits (h : j ≠ i) (hs : s.NoneWaits j) : (s.sendTime i).NoneWaits j := by
  unfold State.sendTime
  split
  · exact State.transmit_noneWaits h _ hs
  · exact hs

theorem State.sendTime_tx {p : Nat × Outgoing} (hp : p ∈ s.tx) : p ∈ (s.sendTime i).tx := by
  unfold State.sendTime
  split
  · exact State.transmit_tx _ hp
  · exact hp

theorem State.sendTime_closed (h : (vget s.links i).carries = false) : s.sendTime i = s := if_neg (by simp [h])

/-- A link of which nothing waits, and that has a credit for it, sends the time at once. -/
theorem State.sendTime_now (hs : s.NoneWaits i) (hc : (vget s.links i).carries = true) (h1 : 1 ≤ vget (vget s.links i).credits 3) :
    (i.val, Outgoing.time (s.cycle + s.etoff)) ∈ (s.sendTime i).tx := by
  rw [State.sendTime, if_pos hc]
  exact State.transmit_now (o := .time (s.cycle + s.etoff)) hs hc rfl h1

/-- All links in turn. -/
def State.sendTimes (s : State) : State := (List.finRange 8).foldl State.sendTime s

theorem clocks_sendTimes (s : State) : clocks s.sendTimes = clocks s := view_foldl clocks_sendTime _

theorem State.sendTimes_closed (h : (vget s.links i).carries = false) : vget s.sendTimes.links i = vget s.links i := by
  refine List.foldlRecOn (motive := fun t : State => vget t.links i = vget s.links i) _ _ rfl fun t ht k _ => ?_
  by_cases hk : i = k
  · subst hk
    rw [State.sendTime_closed (ht ▸ h), ht]
  · rw [State.sendTime_other hk, ht]

theorem State.sendTimes_now (hs : s.txWait = []) (hc : (vget s.links i).carries = true) (h1 : 1 ≤ vget (vget s.links i).credits 3) :
    (i.val, Outgoing.time (s.cycle + s.etoff)) ∈ s.sendTimes.tx := by
  refine foldl_brings (P := fun t : State => (i.val, Outgoing.time (s.cycle + s.etoff)) ∈ t.tx)
    (I := fun t => vget t.links i = vget s.links i ∧ t.NoneWaits i ∧ clocks t = clocks s)
    (fun t k hk ⟨hl, hn, hv⟩ => ?_) (fun t k ht => State.sendTime_tx ht) (List.mem_finRange i) (fun t ⟨hl, hn, hv⟩ => ?_) ⟨rfl, ?_, rfl⟩
  · exact ⟨(State.sendTime_other hk.symm).trans hl, State.sendTime_noneWaits hk.symm hn, (clocks_sendTime t k).trans hv⟩
  · obtain ⟨hcycle, htime⟩ := Prod.mk.inj hv
    rw [← hcycle, ← (Prod.mk.inj htime).1]
    exact State.sendTime_now hn (hl ▸ hc) (hl ▸ h1)
  · intro y hy
    rw [hs] at hy
    cases hy

end

theorem timeFlitExchange_early {s : State} (h : s.cycle.toNat / 2 ^ 20 ≤ s.exchanges) : exec .timeFlitExchange s = .next s :=
  (exec_timeFlitExchange ..).trans (if_pos (by rw [show s.timeDue = false from decide_eq_false (Nat.not_lt.mpr h)]; rfl))

theorem timeFlitExchange_due {s : State} (h : s.exchanges < s.cycle.toNat / 2 ^ 20) :
    exec .timeFlitExchange s = .next ({ s with exchanges := s.cycle.toNat / 2 ^ 20 } : State).sendTimes :=
  (exec_timeFlitExchange ..).trans (if_neg (by rw [show s.timeDue = true from decide_eq_true h]; decide))

/-! ### Replays and training (R411) -/

section
variable {s : State} {i : PortId}

/-- A link that counts a replay at a time: the first of a new millisecond, or one more. -/
def Link.replayed (now : Nat) (l : Link) : Link :=
  if l.since + 1200000 ≤ now then { l with replays := 1, since := now } else { l with replays := l.replays + 1 }

theorem flitCrcFailure_eq (i : PortId) (s : State) :
    exec (.flitCrcFailure i) s = .next (s.onLink i (Link.replayed s.cycle.toNat)) := exec_flitCrcFailure i s

theorem Link.seqIn_replayed (now : Nat) (l : Link) : (l.replayed now).seqIn = l.seqIn := by
  unfold Link.replayed
  split <;> rfl

theorem Link.replayed_later {now : Nat} {l : Link} (h : l.since + 1200000 ≤ now) :
    l.replayed now = { l with replays := 1, since := now } := if_pos h

theorem Link.replayed_again {now : Nat} {l : Link} (h : now < l.since + 1200000) :
    l.replayed now = { l with replays := l.replays + 1 } := if_neg (Nat.not_le.mpr h)

theorem flitCrcFailure_counts (i : PortId) (s : State) : ∃ t, exec (.flitCrcFailure i) s = .next t
    ∧ (vget t.links i).seqIn = (vget s.links i).seqIn
    ∧ (s.cycle.toNat < (vget s.links i).since + 1200000 →
        (vget t.links i).replays = (vget s.links i).replays + 1 ∧ (vget t.links i).since = (vget s.links i).since)
    ∧ ((vget s.links i).since + 1200000 ≤ s.cycle.toNat → (vget t.links i).replays = 1 ∧ (vget t.links i).since = s.cycle.toNat) := by
  refine ⟨_, flitCrcFailure_eq i s, ?_⟩
  rw [State.links_onLink_same]
  refine ⟨Link.seqIn_replayed .., fun hlt => ?_, fun hle => ?_⟩
  · rw [Link.replayed_again hlt]
    exact ⟨rfl, rfl⟩
  · rw [Link.replayed_later hle]
    exact ⟨rfl, rfl⟩

theorem flitReservedType_reserved {ty : Byte} (h : 7 ≤ ty.toNat) :
    exec (.flitReservedType i ty) s = .next { s.tookFlit i with dropped := s.dropped + 1 } :=
  (exec_flitReservedType ..).trans (if_neg (Nat.not_lt.mpr h))

theorem linkReplayRetrain_training (h : (vget s.links i).training = true) : exec (.linkReplayRetrain i) s = .next (s.endTraining i) :=
  (exec_linkReplayRetrain ..).trans (if_pos h)

theorem linkReplayRetrain_idle (h : (vget s.links i).training = false) : exec (.linkReplayRetrain i) s =
    if 1024 < (vget s.links i).replays && decide (s.cycle.toNat < (vget s.links i).since + 1200000) then .next (s.beginTraining i)
    else .next s := (exec_linkReplayRetrain ..).trans (if_neg (by simp [h]))

theorem otherLink_ne (i : Fin 8) : otherLink i ≠ i := by
  revert i
  decide

theorem State.pumpAll_other {j : Fin 8} (h : j ≠ i) : vget (s.pumpAll i).links j = vget s.links j :=
  List.foldlRecOn (motive := fun t : State => vget t.links j = vget s.links j) _ _ rfl fun _ ht _ _ => (State.pump_other h _).trans ht

theorem State.pumpAll_noneWaits {j : Fin 8} (hs : s.NoneWaits j) : (s.pumpAll i).NoneWaits j :=
  List.foldlRecOn (motive := fun t : State => t.NoneWaits j) _ _ hs fun _ ht _ _ => State.pump_noneWaits _ ht

theorem State.pumpAll_same (s : State) (i : Fin 8) : (vget (s.pumpAll i).links i).carries = (vget s.links i).carries
    ∧ (vget (s.pumpAll i).links i).replays = (vget s.links i).replays := by
  refine List.foldlRecOn (motive := fun t : State => (vget t.links i).carries = (vget s.links i).carries
    ∧ (vget t.links i).replays = (vget s.links i).replays) _ _ ⟨rfl, rfl⟩ fun t ht vc _ => ?_
  obtain ⟨hc, hr⟩ := State.pump_same (s := t) (i := i) (vc := vc) (t.txWait.length + 1)
  exact ⟨hc.trans ht.1, hr.trans ht.2⟩

/-- A link whose training ends carries traffic again, and has no replays. -/
theorem State.endTraining_carries (s : State) (i : PortId) :
    (vget (s.endTraining i).links i).carries = true ∧ (vget (s.endTraining i).links i).replays = 0 := by
  obtain ⟨hc, hr⟩ := State.pumpAll_same (s.onLink i fun l => l.retrain s.cycle.toNat) i
  rw [State.links_onLink_same] at hc hr
  exact ⟨hc, hr⟩

/-- The link of a pair that is retrained gives what waits at it to the other, where that one carries traffic. -/
theorem State.beginTraining_moves (s : State) (i : PortId) : (vget (s.beginTraining i).links i).training = true
    ∧ ((vget s.links (otherLink i)).carries = true → (s.beginTraining i).NoneWaits i) := by
  have htraining : (vget (s.onLink i fun l => { l with training := true }).links i).training = true := by rw [State.links_onLink_same]
  have hother : vget (s.onLink i fun l => { l with training := true }).links (otherLink i) = vget s.links (otherLink i) :=
    s.links_onLink_other _ (otherLink_ne i)
  unfold State.beginTraining
  dsimp only
  rw [hother]
  cases hc : (vget s.links (otherLink i)).carries with
  | false => exact ⟨htraining, fun h => by cases h⟩
  | true =>
    refine ⟨?_, fun _ => State.pumpAll_noneWaits fun y hy => ?_⟩
    · rw [if_neg (by simp), State.pumpAll_other (otherLink_ne i).symm]
      exact htraining
    · obtain ⟨w, -, rfl⟩ := List.mem_map.mp hy
      split
      · exact otherLink_ne i
      · next hw => exact hw

end

/-- Settles O45: port by port what its steps leave; link by link what is taken, what goes out, and how requests of neighbours go on. -/
theorem portsAndLinks : Obligations.PortsAndLinks := by
  unfold Obligations.PortsAndLinks
  refine ⟨fun s line id base size data bad w code p e => ⟨poolResponse_outside, fun hp hg hc hlen hm hd => ?_, fun hp hg l hc hd =>
    poolResponse_dirty hp hg hc hd, fun hp => backInvalidationSnoop_pool hp w, fun i r hr hk => ?_, fun hr => ?_, fun hu => ?_, fun hu => ?_,
    dcOffer_new, fun e => dcZeroingComplete_zeroing, exec_dcRevokeRequest id s⟩, ?_⟩
  · obtain ⟨hcached, hbytes, hbad⟩ := State.poolFill_uncached hc hlen bad code hm hd
    refine ⟨_, poolResponse_granted hp hg, hcached, hbytes, fun hsame => ?_, fun hnew hsp => ?_⟩
    · rw [hbad, State.badMacGiven_same ⟨line, data, false, bad, code⟩ hsame]
    · rw [hbad]
      exact State.mem_badMacGiven_new ⟨line, data, false, bad, code⟩ hnew hsp
  · have hu := State.unsnooped_of_region hr hk
    refine ⟨State.cached_snoop hu, fun l hc hd => ?_, fun l hc hd => ?_, fun hc => State.snoop_uncached hc w, fun hh =>
      State.forwardSnoop_none hh w, fun hh hw => State.forwardSnoop_one hh hw w⟩
    · rw [State.snoop_cached hu hc, if_neg (by simp [hd])]
    · rw [State.snoop_cached hu hc, if_pos hd]
  · have hu := State.unsnooped_of_none_or_flushed hr
    exact ⟨State.snoop_unsnooped hu w, State.forwardSnoop_none (State.holders_unsnooped hu 16) w⟩
  · exact (headRetrainFailure_eq p s).trans (congrArg _ (if_pos hu))
  · exact (headRetrainFailure_eq p s).trans (congrArg _ (if_neg (Bool.eq_false_iff.mp hu)))
  · intro s i m vc n line e src st ans d w time ty o x more v
    dsimp only
    refine ⟨fun hc => flit_closed hc m vc n line src st ans w time, fun hc => ⟨flitMessageData_taken hc m, fun hw => ?_,
        fun hw hl hv h1 hmore => flitCredit_waiting_answer hc hw hl hv h1 hmore rfl,
        fun hp => ⟨fun h => flitSnoop_clean hc hp h w, fun hu c h => flitSnoop_cached hc hp hu h w, fun hu => flitProxyRequest_refused hc hp hu src st,
          fun hu hw hs => ⟨fun hsrc hh => ?_, fun hh => ?_⟩, flitProxyResponse_snooped hc hp ans, fun hv => ?_⟩,
        flitTime_adopted hc rfl, flitTime_kept hc rfl⟩,
      State.snoopAnswered_none, timeFlitExchange_early, fun hdue => ?_, flitCrcFailure_counts i s, fun ht => ⟨fun hr hlt => ?_, fun hr => ?_⟩, fun ht => ?_,
      flitReservedType_reserved, State.post_own, State.post_other, ?_, fun hc hw hf => State.transmit_whole hc hw hf, rfl, rfl, fun h => ?_,
      State.takeMessage_accepted, fun y ha ho => ⟨fun hm => ?_, fun hm hs => ?_, fun hm hs => ?_, rfl, rfl, rfl⟩, State.takeMessage_refused⟩
    · refine ⟨_, flitCredit_idle hc hw n, ?_, ?_, rfl⟩
      · exact (congrArg (fun l : Link => vget l.credits vc) (s.links_onLink_same i _)).trans (vget_vset_same ..)
      · exact congrArg Link.seqIn (s.links_onLink_same i _)
    · obtain ⟨hheads, -, hproxied⟩ := State.proxyIssue_frame (s := s.tookFlit i) (w := ⟨i, src.val, line, st⟩) hsrc
      refine ⟨flitProxyRequest_unheld hc hp st hu hw hs hsrc hh, hproxied, fun hn => hheads.trans ?_⟩
      rw [State.snoop_uncached (s := s.tookFlit i) hn]
      rfl
    · exact flitProxyRequest_held hc hp st hu hw hs hh
    · have hown := flitProxyResponse_own hc hp hv
      refine ⟨fun hu => (hown ans).trans (if_pos hu), fun hu hd hg => ?_, fun hu hr => ?_⟩
      · refine (hown (some d)).trans ((if_neg (Bool.eq_false_iff.mp hu)).trans (congrArg _ (if_neg ?_)))
        simp [hd, hg]
      · exact (hown none).trans ((if_neg (Bool.eq_false_iff.mp hu)).trans (congrArg _ (if_neg (Bool.eq_false_iff.mp hr))))
    · refine ⟨_, timeFlitExchange_due hdue, ?_, fun hw hc h1 => ?_, fun hc => ?_⟩
      · exact (Prod.mk.inj (Prod.mk.inj (clocks_sendTimes _)).2).2
      · exact State.sendTimes_now (s := { s with exchanges := s.cycle.toNat / 2 ^ 20 }) hw hc h1
      · exact State.sendTimes_closed (s := { s with exchanges := s.cycle.toNat / 2 ^ 20 }) hc
    · refine ⟨_, (linkReplayRetrain_idle ht).trans (if_pos ?_), State.beginTraining_moves s i⟩
      exact Bool.and_eq_true_iff.mpr ⟨decide_eq_true hr, decide_eq_true hlt⟩
    · refine (linkReplayRetrain_idle ht).trans (if_neg fun hboth => ?_)
      rw [Bool.and_eq_true_iff, decide_eq_true_iff, decide_eq_true_iff] at hboth
      exact hr.elim (Nat.not_le.mpr hboth.1) (Nat.not_le.mpr hboth.2)
    · exact ⟨_, linkReplayRetrain_training ht, s.endTraining_carries i⟩
    · obtain ⟨_, _, _, ht⟩ := s.transmit_frame i o
      rw [ht]
      exact ⟨rfl, rfl, rfl, rfl⟩
    · rw [State.transmit_stuck h]
      exact ⟨rfl, rfl⟩
    · exact (State.takeMessage_owed ha ho rfl).trans (if_pos hm)
    · exact (State.takeMessage_owed ha ho rfl).trans ((if_neg hm).trans (if_pos hs))
    · exact (State.takeMessage_owed ha ho rfl).trans ((if_neg hm).trans (if_neg hs))

end Sys2Proof.Machine
end

section
/-! PROOFS. LAUNCH, CANCEL, WAITL and SPAWN, and entering a level (R250, R253 to R258, R276, O37). -/

namespace Sys2Proof.Machine

open Sys2Proof

/-! ### Descriptors and handles (R253, R257) -/

theorem raises_lowSpace {p : Nat} (hp : p < 2 ^ 64) (hs : 2 ≤ p / 2 ^ 60) (s : State) :
    Raises (lowSpace p) s { code := 0x05, va := BitVec.ofNat 64 p } none :=
  raises_faultIf_of (by rw [ptrSpace_eq_div hp]; exact decide_eq_true hs) ..

section
variable {w : Who} {p : Nat} (hp : p < 2 ^ 64) (s : State)
include hp

theorem raises_readDesc_space (hs : 2 ≤ p / 2 ^ 60) : Raises (readDesc w p) s { code := 0x05, va := BitVec.ofNat 64 p } none :=
  raises_bind (raises_lowSpace hp hs s)

theorem raises_readDesc_align (hs : p / 2 ^ 60 ≤ 1) (ha : p % 64 ≠ 0) :
    Raises (readDesc w p) s { code := 0x04, va := BitVec.ofNat 64 p } none :=
  raises_bind_right (runs_lowSpace hp hs s) (raises_bind (raises_faultIf_of (bne_iff_ne.mpr ha) ..))

variable {s} {s1 : State} {bs : List Byte} (hs : p / 2 ^ 60 ≤ 1) (ha : p % 64 = 0) (hr : Runs (memReadBytes w p 64) s bs s1)
include hs ha hr

theorem raises_readDesc_malformed (hd : parseDesc bs = none) :
    Raises (readDesc w p) s { code := 0x01, va := BitVec.ofNat 64 p } none := by
  refine raises_bind_right (runs_lowSpace hp hs s) (raises_bind_right (runs_faultIf_of (bne_eq_false_iff_eq.mpr ha) ..)
    (raises_bind_right hr ?_))
  rw [hd]
  exact raises_fault ..

theorem runs_readDesc {e : LaunchDesc} (hd : parseDesc bs = some e) : Runs (readDesc w p) s e s1 := by
  refine runs_bind (runs_lowSpace hp hs s) (runs_bind (runs_faultIf_of (bne_eq_false_iff_eq.mpr ha) ..) (runs_bind hr ?_))
  rw [hd]
  exact runs_pure e s1

end

theorem raises_handleArg {v : Word} (hv : 2 ^ 32 ≤ v.toNat) (s : State) : Raises (handleArg v) s { code := 0x01, va := 0 } none :=
  raises_bind (raises_faultIf_of (decide_eq_true hv) ..)

theorem runs_handleArg {v : Word} (hv : v.toNat < 2 ^ 32) (s : State) : Runs (handleArg v) s v.toNat s :=
  runs_bind (runs_faultIf_of (decide_eq_false (Nat.not_le.mpr hv)) ..) (runs_pure _ s)

/-! ### LAUNCH (R254) -/

section
variable {w : Who} {p : Nat} {s s1 : State} {e : LaunchDesc} (hd : Runs (readDesc w p) s e s1)
include hd

/-- The launch of a kernel reads and checks its header before the level is entered. -/
theorem runs_launchAt_kernel (hk : e.kind = 0) {hdr : Header} {n : Nat} {s2 s3 : State} (hh : Runs (launchHeader w p e) s1 hdr s2)
    (he : Runs (enterLevel w.ctx w.core e (some hdr)) s2 n s3) : Runs (launchAt w p) s n s3 := by
  refine runs_bind hd ?_
  rw [if_pos hk]
  exact runs_bind (runs_bind hh (runs_pure _ s2)) (runs_bind (runs_faultIf_of (by rw [hk]; rfl) ..) he)

/-- A graph starts at a node of the virtual space. -/
theorem raises_launchAt_target (hk : e.kind = 1) (hbad : ptrSpace e.target ≠ 0 ∨ e.target % 32 ≠ 0) :
    Raises (launchAt w p) s { code := 0x05, va := BitVec.ofNat 64 e.target } none := by
  refine raises_bind_right hd ?_
  rw [if_neg (by rw [hk]; decide)]
  exact raises_bind_right (runs_pure none s1) (raises_bind (raises_faultIf_of (by simpa [hk] using hbad) ..))

theorem runs_launchAt_level (hk : e.kind ≠ 0) (ht : e.kind = 1 → ptrSpace e.target = 0 ∧ e.target % 32 = 0) {n : Nat} {s2 : State}
    (he : Runs (enterLevel w.ctx w.core e none) s1 n s2) : Runs (launchAt w p) s n s2 := by
  refine runs_bind hd ?_
  rw [if_neg hk]
  exact runs_bind (runs_pure none s1) (runs_bind (runs_faultIf_of (by simpa using ht) ..) he)

end

section
variable {s s1 : State} {g : Group} {k : Role} {d a : SReg} {x : Word} (h : Acts s1 g k) (ht : Taken [a] [d] s [x] s1)
include h ht

theorem launch_traps {code va : Nat} (hr : Raises (launchAt (s1.self g) x.toNat) s1 { code := code, va := BitVec.ofNat 64 va } none) :
    Traps (.launch d a) s s1 code va :=
  (exec_launch ..).trans (instr_seq_trap (runs_pure () s) ht (raises_bind_right (runs_whoami h) (raises_bind hr)))

theorem launch_retires {n : Nat} {s2 s3 : State} (hr : Runs (launchAt (s1.self g) x.toNat) s1 n s2) (hg : Gives d (BitVec.ofNat 64 n) s2 s3) :
    Retires2 (.launch d a) s s3 :=
  (exec_launch ..).trans (instr_seq (runs_pure () s) ht (runs_bind (runs_whoami h) (runs_bind hr hg)))

end

/-! ### SPAWN (R276) -/

/-- What SPAWN does with the record that it has read at a pointer. -/
def spawnRecord (d : SReg) (x : CtxId) (p : Nat) (r : Record) : X Unit := do
  faultIf (r.flags / 32 != 0 || r.ckpt) 0x01 p
  let c := (← get).ctx x
  if c.state == .draining then writeDst d 0
  else
    match c.activeLaunch r.launch with
    | none => writeDst d 0
    | some l =>
      performed
      putLevel x (r.launch % 4096) { l with out := l.out + 1 }
      pushTail x r.prio (.record r)
      writeDst d 1

/-- The body of SPAWN, for a pointer. -/
def spawnBody (d : SReg) (v : Word) : X Unit := do
  let m ← me
  lowSpace v.toNat
  faultIf (v.toNat % 32 != 0) 0x04 v.toNat
  let b ← memReadBytes (← whoami) v.toNat 32
  spawnRecord d m.2.1.ctx v.toNat (Record.ofBytes b)

theorem exec_spawn_eq (d a : SReg) (s : State) :
    exec (.spawn d a) s = instr 1 [a] [d] noPre (seqBody fun vs => spawnBody d (arg vs 0)) s := rfl

section
variable {d : SReg} {x : CtxId} {p : Nat} {r : Record} {s : State}

theorem raises_spawnRecord (hbad : 32 ≤ r.flags ∨ r.ckpt = true) :
    Raises (spawnRecord d x p r) s { code := 0x01, va := BitVec.ofNat 64 p } none := by
  refine raises_bind (raises_faultIf_of ?_ ..)
  simpa using hbad

variable (hf : r.flags < 32) (hc : r.ckpt = false)
include hf hc

theorem runs_spawnChecks : Runs (faultIf (r.flags / 32 != 0 || r.ckpt) 0x01 p) s () s :=
  runs_faultIf_of (by simp [hc, Nat.div_eq_of_lt hf]) ..

/-- Where the context drains or the launch is over nothing is pushed. -/
theorem runs_spawnRecord_over {t : State} (ho : (s.ctx x).state = .draining ∨ (s.ctx x).activeLaunch r.launch = none) (hg : Gives d 0 s t) :
    Runs (spawnRecord d x p r) s () t := by
  refine runs_bind (runs_spawnChecks hf hc) (runs_bind (runs_get s) ?_)
  dsimp only
  split
  case isTrue => exact hg
  case isFalse hn => rw [ho.resolve_left (mt beq_iff_eq.mpr hn)]; exact hg

variable {l : Level} (hst : (s.ctx x).state ≠ .draining) (hl : (s.ctx x).activeLaunch r.launch = some l)
include hst hl

theorem spawnRecord_active : spawnRecord d x p r s = (do
    performed
    putLevel x (r.launch % 4096) { l with out := l.out + 1 }
    pushTail x r.prio (.record r)
    writeDst d 1 : X Unit) s := by
  refine (bind_of_runs (runs_spawnChecks hf hc) _).trans ((bind_of_runs (runs_get s) _).trans ?_)
  rw [if_neg (mt beq_iff_eq.mp hst), hl]

end

section
variable {s s1 s2 : State} {g : Group} {k : Role} {d a : SReg} {x : Word} {bs : List Byte} (h : Acts s1 g k)
  (ht : Taken [a] [d] s [x] s1)
include h ht

theorem spawn_traps_space (hs : 2 ≤ x.toNat / 2 ^ 60) : Traps (.spawn d a) s s1 0x05 x.toNat :=
  (exec_spawn_eq ..).trans (instr_seq_trap (runs_pure () s) ht (raises_bind_right (runs_me h) (raises_bind (raises_lowSpace x.isLt hs s1))))

theorem spawn_traps_align (hs : x.toNat / 2 ^ 60 ≤ 1) (ha : x.toNat % 32 ≠ 0) : Traps (.spawn d a) s s1 0x04 x.toNat :=
  (exec_spawn_eq ..).trans (instr_seq_trap (runs_pure () s) ht (raises_bind_right (runs_me h)
    (raises_bind_right (runs_lowSpace x.isLt hs s1) (raises_bind (raises_faultIf_of (bne_iff_ne.mpr ha) ..)))))

omit ht in
/-- Behind its checks and its read SPAWN acts on the record. -/
theorem spawnBody_of_read (hs : x.toNat / 2 ^ 60 ≤ 1) (ha : x.toNat % 32 = 0) (hr : Runs (memReadBytes (s1.self g) x.toNat 32) s1 bs s2) :
    spawnBody d x s1 = spawnRecord d g.ctx x.toNat (Record.ofBytes bs) s2 :=
  (bind_of_runs (runs_me h) _).trans ((bind_of_runs (runs_lowSpace x.isLt hs s1) _).trans
    ((bind_of_runs (runs_faultIf_of (bne_eq_false_iff_eq.mpr ha) ..) _).trans ((bind_of_runs (runs_whoami h) _).trans (bind_of_runs hr _))))

variable (hs : x.toNat / 2 ^ 60 ≤ 1) (ha : x.toNat % 32 = 0) (hr : Runs (memReadBytes (s1.self g) x.toNat 32) s1 bs s2)
include hs ha hr

theorem spawn_traps_record (hbad : 32 ≤ (Record.ofBytes bs).flags ∨ (Record.ofBytes bs).ckpt = true) :
    Traps (.spawn d a) s s1 0x01 x.toNat :=
  (exec_spawn_eq ..).trans (instr_seq_trap (runs_pure () s) ht ((spawnBody_of_read h hs ha hr).trans (raises_spawnRecord hbad)))

theorem spawn_retires {s3 : State} (hrest : Runs (spawnRecord d g.ctx x.toNat (Record.ofBytes bs)) s2 () s3) : Retires (.spawn d a) s s3 :=
  (exec_spawn_eq ..).trans (instr_seq (runs_pure () s) ht ((spawnBody_of_read h hs ha hr).trans hrest))

theorem spawn_waits (hrest : Waits (spawnRecord d g.ctx x.toNat (Record.ofBytes bs)) s2) :
    exec (.spawn d a) s = .next (s.noteWait [a] [d]) :=
  (exec_spawn_eq ..).trans (instr_wait (runs_pure () s) ht (waits_bind ((spawnBody_of_read h hs ha hr).trans hrest)))

end

/-! ### CANCEL and WAITL (R257, R258) -/

section
variable {s s1 s2 : State} {g : Group} {k : Role} {d a b : SReg} {x y : Word} (h : Acts s1 g k)
include h

theorem cancel_traps (ht : Taken [a] [] s [x] s1) (hx : 2 ^ 32 ≤ x.toNat) : Traps (.cancel a) s s1 0x01 0 :=
  (exec_cancel ..).trans (instr_seq_trap (runs_pure () s) ht (raises_bind_right (runs_me h) (raises_bind (raises_handleArg hx s1))))

theorem cancel_retires (ht : Taken [a] [] s [x] s1) (hx : x.toNat < 2 ^ 32) (hc : Runs (cancelLevel g.ctx x.toNat) s1 () s2) :
    Retires (.cancel a) s s2 :=
  (exec_cancel ..).trans (instr_seq (runs_pure () s) ht (runs_bind (runs_me h) (runs_bind (runs_handleArg hx s1) hc)))

variable (ht : Taken [a, b] [d] s [x, y] s1)
include ht

theorem waitl_traps (hx : 2 ^ 32 ≤ x.toNat) : Traps (.waitl d a b) s s1 0x01 0 :=
  (exec_waitl ..).trans (instr_seq_trap (runs_pure () s) ht (raises_bind_right (runs_me h) (raises_bind (raises_handleArg hx s1))))

variable (hx : x.toNat < 2 ^ 32)
include hx

/-- A handle that names no level. -/
theorem waitl_retires_none (hl : (s1.ctx g.ctx).level x.toNat = none) (hg : Gives d (BitVec.ofNat 64 (2 ^ 63)) s1 s2) :
    Retires (.waitl d a b) s s2 := by
  refine (exec_waitl ..).trans (instr_seq (runs_pure () s) ht (runs_bind (runs_me h) (runs_bind (runs_handleArg hx s1)
    (runs_bind (runs_get s1) ?_))))
  dsimp only
  rw [hl]
  exact hg

variable {l : Level} (hl : (s1.ctx g.ctx).level x.toNat = some l)
include hl

theorem waitl_waits (hst : l.state = .active) (hb : b = 0 ∨ l.done < y.toNat) :
    exec (.waitl d a b) s = .next (s.noteWait [a, b] [d]) := by
  refine (exec_waitl ..).trans (instr_wait (runs_pure () s) ht (waits_bind (waits_bind_right (runs_me h)
    (waits_bind_right (runs_handleArg hx s1) (waits_bind_right (runs_get s1) ?_)))))
  dsimp only
  rw [hl]
  refine waits_bind (waits_waitIf_of ?_ s1)
  simpa [hst, arg] using hb

theorem waitl_retires (hend : l.state ≠ .active ∨ (b ≠ 0 ∧ y.toNat ≤ l.done))
    (hg : Gives d (BitVec.ofNat 64 (l.state.code * 2 ^ 62 + l.done % 2 ^ 62)) s1 s2) : Retires (.waitl d a b) s s2 := by
  refine (exec_waitl ..).trans (instr_seq (runs_pure () s) ht (runs_bind (runs_me h) (runs_bind (runs_handleArg hx s1)
    (runs_bind (runs_get s1) ?_))))
  dsimp only
  rw [hl]
  refine runs_bind (runs_waitIf_of ?_ s1) hg
  simpa [arg, ← imp_iff_not_or] using hend

end

/-! ### Entering a level (R250, R254, R256) -/

/-- The entry that a descriptor's level gets. -/
def LaunchDesc.entered (d : LaunchDesc) (gen : BitVec 20) (h : Option Header) : Level :=
  { kind := d.kind + 1, state := .active, isOpen := d.kind != 0, gen := gen, parent := d.parent, count := d.count
    done := 0, out := if d.kind = 0 then d.count else 0, desc := some d, header := h
    node := if d.kind = 1 then some (BitVec.ofNat 64 d.target) else none }

/-- Entering a level at an entry that is free. -/
def enterAt (x : CtxId) (core : Option CoreId) (d : LaunchDesc) (i : Nat) (l : Level) : X Nat := do
  putLevel x i l
  addChild x d.parent d.last
  (if d.kind = 0 then do
    logEvent x 0 core (levelHandle i l) d.count
    pushTail x (Fin.ofNat 4 d.prio) (.cursor (levelHandle i l) 0)
    modify fun s => s.dropLines x
  else pure ())
  pure (levelHandle i l)

section
variable {s : State} {x : CtxId} {core : Option CoreId} {d : LaunchDesc} {h : Option Header}

theorem runs_enterLevel_refused (hr : (s.ctx x).refuses = true ∨ (s.ctx x).parentOk d.parent (d.kind + 1) = false) :
    Runs (enterLevel x core d h) s 0 s := by
  refine runs_bind (runs_get s) ?_
  rw [if_pos (by simpa using hr)]
  exact runs_pure 0 s

variable (hr : (s.ctx x).refuses = false) (hp : (s.ctx x).parentOk d.parent (d.kind + 1) = true)
include hr hp

theorem waits_enterLevel_full (hf : (s.ctx x).freeEntry = none) : Waits (enterLevel x core d h) s := by
  refine waits_bind_right (runs_get s) ?_
  rw [if_neg (by simp [hr, hp]), hf]
  rfl

theorem enterLevel_of_free {i : Nat} {gen : BitVec 20} (hf : (s.ctx x).freeEntry = some (i, gen)) :
    enterLevel x core d h s = enterAt x core d i (d.entered gen h) s := by
  refine (bind_of_runs (runs_get s) _).trans ?_
  rw [if_neg (by simp [hr, hp]), hf]
  rfl

end

section
variable {s s1 s2 : State} {x : CtxId} {core : Option CoreId} {d : LaunchDesc} {i : Nat} {l : Level} (h1 : Runs (putLevel x i l) s () s1)
  (h2 : Runs (addChild x d.parent d.last) s1 () s2)
include h1 h2

theorem runs_enterAt_level (hk : d.kind ≠ 0) : Runs (enterAt x core d i l) s (levelHandle i l) s2 := by
  refine runs_bind h1 (runs_bind h2 (runs_bind (a := ()) ?_ (runs_pure _ s2)))
  rw [if_neg hk]
  exact runs_pure () s2

theorem runs_enterAt_kernel (hk : d.kind = 0) {s3 s4 : State} (h3 : Runs (logEvent x 0 core (levelHandle i l) d.count) s2 () s3)
    (h4 : Runs (pushTail x (Fin.ofNat 4 d.prio) (.cursor (levelHandle i l) 0)) s3 () s4) :
    Runs (enterAt x core d i l) s (levelHandle i l) (s4.dropLines x) := by
  refine runs_bind h1 (runs_bind h2 (runs_bind (a := ()) ?_ (runs_pure _ _)))
  rw [if_pos hk]
  exact runs_bind h3 (runs_bind h4 (runs_modify _ s4))

end

/-- No line of the context is left in a core's line buffer, and every other line is. -/
theorem State.mem_lines_dropLines {s : State} {x : CtxId} {c : CoreId} {e : LineEntry} (he : e ∈ (s.core c).lines) :
    e ∈ ((s.dropLines x).core c).lines ↔ e.ctx ≠ x := by
  have hlines : ((s.dropLines x).core c).lines = (s.core c).lines.filter fun e => e.ctx != x := by
    simp [State.dropLines, State.core, vget, Vector.get_eq_getElem]
  simp [hlines, he]

/-- Settles O37: each instruction's checks in their order, then what it does; a level is entered at the first free entry. -/
theorem launches : Obligations.Launches := by
  unfold Obligations.Launches
  refine ⟨fun d a b s s1 s2 s3 s4 s5 g k x y bs h => ⟨fun ht => ⟨fun hs => ⟨launch_traps h ht (raises_bind (raises_readDesc_space x.isLt s1 hs)),
      spawn_traps_space h ht hs⟩, fun hs ha => launch_traps h ht (raises_bind (raises_readDesc_align x.isLt s1 hs ha)), fun hs ha hr => ?_,
      spawn_traps_align h ht, fun hs ha hr => ?_⟩,
    fun ht => ⟨cancel_traps h ht, cancel_retires h ht⟩, fun ht => ⟨waitl_traps h ht, fun hx => ⟨waitl_retires_none h ht hx,
      fun l hl => ⟨waitl_waits h ht hx hl, waitl_retires h ht hx hl⟩⟩⟩⟩, fun s s1 s2 s3 s4 x core d h => ?_⟩
  · refine ⟨fun hd => launch_traps h ht (raises_bind (raises_readDesc_malformed x.isLt hs ha hr hd)), fun e n hd => ?_⟩
    have hdesc := runs_readDesc x.isLt hs ha hr hd
    exact ⟨fun hdr hk hh he hg => launch_retires h ht (runs_launchAt_kernel hdesc hk hh he) hg,
      fun hk hbad => launch_traps h ht (raises_launchAt_target hdesc hk hbad),
      fun hk hok he hg => launch_retires h ht (runs_launchAt_level hdesc hk hok he) hg⟩
  · intro r
    refine ⟨spawn_traps_record h ht hs ha hr, fun hf hc => ⟨fun ho hg => spawn_retires h ht hs ha hr (runs_spawnRecord_over hf hc ho hg),
      fun hst l hl ⟨g2, k2, h2⟩ => ⟨fun hp => spawn_waits h ht hs ha hr ?_, fun hp h3 h4 h5 => spawn_retires h ht hs ha hr ?_⟩⟩⟩
    · exact (spawnRecord_active hf hc hst hl).trans (waits_bind (waits_performed h2 hp))
    · exact (spawnRecord_active hf hc hst hl).trans (runs_bind (runs_performed h2 hp) (runs_bind h3 (runs_bind h4 h5)))
  · refine ⟨runs_enterLevel_refused, fun hr hp => ⟨waits_enterLevel_full hr hp, fun i gen hf hk => ?_⟩, fun i gen hr hp hf hk => ?_⟩
    · refine ⟨d.entered gen h, rfl, rfl, bne_iff_ne.mpr hk, rfl, rfl, rfl, if_neg hk, fun h1 h2 => ?_⟩
      exact (enterLevel_of_free hr hp hf).trans (runs_enterAt_level h1 h2 hk)
    · refine ⟨d.entered gen h, congrArg (· + 1) hk, rfl, bne_eq_false_iff_eq.mpr hk, rfl, rfl, rfl, if_pos hk, rfl, fun h1 h2 h3 h4 =>
        ⟨s4.dropLines x, (enterLevel_of_free hr (hk ▸ hp) hf).trans (runs_enterAt_kernel h1 h2 hk h3 h4), rfl, rfl, fun c e he => ?_⟩⟩
      exact State.mem_lines_dropLines he

end Sys2Proof.Machine
end

section
/-! PROOFS. Launches by the host, and the graph evaluator (R255, R259 to R261, O38). -/

namespace Sys2Proof.Machine

open Sys2Proof

/-! ### The launch window (R255) -/

/-- The launch in progress ends with an outcome in the window. -/
def State.answerLaunch (s : State) (x : CtxId) (v : Word) : State :=
  s.onCtx x fun c => { c with hostResult := v, hostPending := c.hostPending.drop 1 }

/-- What the launch unit's answer to the launch in progress comes to. -/
def State.launchOutcome (s : State) (x : CtxId) : Except Stop (Nat × State) → Host.Outcome State Fault Refusal
  | .ok (h, t) => .next (t.answerLaunch x (BitVec.ofNat 64 h))
  | .error (.trap t keep) => .next ((keep.getD s).answerLaunch x (BitVec.ofNat 64 (2 ^ 63 + t.code)))
  | .error .wait => .next s
  | .error (.ask f) => .next (f s)
  | .error (.halt f) => .fault f

section
variable {s : State} {x : CtxId} {v : Word}

theorem hostLaunch_behind (hp : (s.ctx x).hostPending ≠ []) :
    exec (.hostLaunch x (some v)) s = .next (s.onCtx x fun c => { c with hostPending := c.hostPending ++ [v] }) :=
  (exec_hostLaunch ..).trans (if_neg (mt List.isEmpty_iff.mp hp))

theorem hostLaunch_first (hp : (s.ctx x).hostPending = []) :
    exec (.hostLaunch x (some v)) s = exec (.hostLaunch x none) (s.onCtx x fun c => { c with hostPending := c.hostPending ++ [v] }) :=
  (exec_hostLaunch ..).trans (if_pos (List.isEmpty_iff.mpr hp))

theorem hostLaunch_idle (hp : (s.ctx x).hostPending = []) : exec (.hostLaunch x none) s = .next s := by
  refine (exec_hostLaunch ..).trans ?_
  rw [execHostLaunch, State.hostLaunchStep, hp]

variable {rest : List Word} (hp : (s.ctx x).hostPending = v :: rest)
include hp

theorem hostLaunch_unloaded (hst : (s.ctx x).state = .free ∨ (s.ctx x).state = .created) :
    exec (.hostLaunch x none) s = .next (s.answerLaunch x 0) := by
  refine (exec_hostLaunch ..).trans ?_
  rw [execHostLaunch, State.hostLaunchStep, hp]
  exact if_pos (by simpa using hst)

variable (hf : (s.ctx x).state ≠ .free) (hc : (s.ctx x).state ≠ .created)
include hf hc

theorem hostLaunch_tried {r : Except Stop (Nat × State)} (hr : launchAt ⟨x, none, none⟩ v.toNat s = r) :
    exec (.hostLaunch x none) s = s.launchOutcome x r := by
  subst hr
  refine (exec_hostLaunch ..).trans ?_
  rw [execHostLaunch, State.hostLaunchStep, hp]
  exact if_neg (by simp [hf, hc])

end

/-! ### The next node of a graph (R259 to R261) -/

/-- A fault is told apart from a result, in the state that it keeps. -/
theorem runs_attempt_raises {α : Type} {x : X α} {s : State} {t : Trap} {keep : Option State} (h : Raises x s t keep) :
    Runs (attempt x) s (.error t) (keep.getD s) := by
  unfold Runs attempt
  rw [show x s = _ from h]

/-- Reading the next node of a graph, and its action where its type is the one that the step is for. -/
def nodeTurn (type : Nat) (x : CtxId) (g : Nat) (l : Level) (node : Word) : X Unit := do
  let n ← readNode ⟨x, none, none⟩ node.toNat
  if n.type = type then graphAct ⟨x, none, none⟩ g l node n else pure ()

theorem runs_nodeTurn {x : CtxId} {g : Nat} {l : Level} {node : Word} {n : GNode} {s s1 s2 : State}
    (hn : Runs (readNode ⟨x, none, none⟩ node.toNat) s n s1) (ha : Runs (graphAct ⟨x, none, none⟩ g l node n) s1 () s2) :
    Runs (nodeTurn n.type x g l node) s () s2 :=
  runs_bind hn ((congrFun (if_pos rfl) s1).trans ha)

theorem raises_nodeTurn {x : CtxId} {g : Nat} {l : Level} {node : Word} {n : GNode} {s s1 : State} {t : Trap} {keep : Option State}
    (hn : Runs (readNode ⟨x, none, none⟩ node.toNat) s n s1) (ha : Raises (graphAct ⟨x, none, none⟩ g l node n) s1 t keep) :
    Raises (nodeTurn n.type x g l node) s t keep :=
  raises_bind_right hn ((congrFun (if_pos rfl) s1).trans ha)

section
variable {s s2 : State} {x : CtxId} {g : Fin 4096} {l : Level} {node : Word} (hl : SMap.get (s.ctx x).levels g.val = some l)
  (hn : l.node = some node) (hst : l.state = .active) (he : (s.ctx x).evaluates = true) {type : Nat}
include hl hn hst he

theorem graphStep_active : graphStep type x g s = partStep (do
    let r ← attempt (nodeTurn type x g.val l node)
    match r with
    | .ok _ => pure ()
    | .error t =>
      set s
      graphFail x g.val l node t.code) s := by
  rw [graphStep, hl]
  dsimp only
  rw [hn]
  exact if_neg (by simp [hst, he])

theorem graphStep_acts (h : Runs (nodeTurn type x g.val l node) s () s2) : graphStep type x g s = .next s2 :=
  (graphStep_active hl hn hst he).trans (partStep_runs (runs_bind (runs_attempt h) (runs_pure () s2)))

/-- A node that fails has no effect of its own; its graph is cancelled. -/
theorem graphStep_fails {t : Trap} {keep : Option State} (h : Raises (nodeTurn type x g.val l node) s t keep)
    (hf : Runs (graphFail x g.val l node t.code) s () s2) : graphStep type x g s = .next s2 :=
  (graphStep_active hl hn hst he).trans (partStep_runs (runs_bind (runs_attempt_raises h) (runs_bind (runs_set _ s) hf)))

end

/-- Each of the evaluator's steps is for one type of node. -/
theorem exec_graphNode {x : CtxId} {g : Fin 4096} {type : Nat} {i : Instr}
    (h : (type, i) ∈ [(1, Instr.graphLaunchNode x g), (2, .graphConditionNode x g), (3, .graphLoopNode x g), (4, .graphSwitchNode x g),
      (5, .graphEndNode x g)]) (s : State) : exec i s = graphStep type x g s := by
  simp only [List.mem_cons, Prod.mk.injEq, List.not_mem_nil, or_false] at h
  obtain ⟨rfl, rfl⟩ | ⟨rfl, rfl⟩ | ⟨rfl, rfl⟩ | ⟨rfl, rfl⟩ | ⟨rfl, rfl⟩ := h
  · exact exec_graphLaunchNode ..
  · exact exec_graphConditionNode ..
  · exact exec_graphLoopNode ..
  · exact exec_graphSwitchNode ..
  · exact exec_graphEndNode ..

/-! ### Conditions and loops (R259, R260) -/

section
variable {w : Who} {g : Nat} {l : Level} {node v : Word} {n : GNode} {r : Nat} {s s1 s2 s3 : State} (hout : l.out = 0)
  (hw : Runs (readW w n) s v s1)
include hout hw

theorem runs_graphAct_condition (ht : n.type = 2)
    (hd : Runs (decideNode w.ctx node (if nodeTest n.cmp v (BitVec.ofNat 64 n.b) then 1 else 0)) s1 (some r) s2)
    (hg : Runs (graphGoto w.ctx g node (if r = 1 then n.next else n.alt)) s2 () s3) : Runs (graphAct w g l node n) s () s3 := by
  refine runs_bind (runs_waitIf_of (by simp [hout]) s) ?_
  rw [ht]
  exact runs_bind hw (runs_bind hd (runs_bind (runs_pure _ s2) hg))

variable (ht : n.type = 3) (hd : Runs (decideNode w.ctx node (if v = 0 then 0 else 1)) s1 (some r) s2)
include ht hd

/-- A loop node whose word is not zero counts it down and goes on. -/
theorem runs_graphAct_loop (hr : r = 1) {s4 : State} (hm : Runs (memWriteNat w n.a 8 (v - 1).toNat .atomic) s2 () s3)
    (hg : Runs (graphGoto w.ctx g node n.next) s3 () s4) : Runs (graphAct w g l node n) s () s4 := by
  refine runs_bind (runs_waitIf_of (by simp [hout]) s) ?_
  rw [ht]
  exact runs_bind hw (runs_bind hd (runs_bind ((congrFun (if_pos hr) s2).trans (runs_bind hm (runs_pure _ s3))) hg))

theorem runs_graphAct_loopEnd (hr : r ≠ 1) (hg : Runs (graphGoto w.ctx g node n.alt) s2 () s3) : Runs (graphAct w g l node n) s () s3 := by
  refine runs_bind (runs_waitIf_of (by simp [hout]) s) ?_
  rw [ht]
  exact runs_bind hw (runs_bind hd (runs_bind ((congrFun (if_neg hr) s2).trans (runs_pure _ s2)) hg))

end

/-- The six comparisons of a condition node. -/
theorem nodeTest_spec (a b : Word) : nodeTest 0 a b = decide (a = b) ∧ nodeTest 1 a b = decide (a ≠ b)
    ∧ nodeTest 2 a b = decide (a.toInt < b.toInt) ∧ nodeTest 3 a b = decide (b.toInt ≤ a.toInt)
    ∧ nodeTest 4 a b = decide (a.toNat < b.toNat) ∧ nodeTest 5 a b = decide (b.toNat ≤ a.toNat) := by
  refine ⟨beq_eq_decide a b, ?_, BitVec.slt_eq_decide, ?_, BitVec.ult_eq_decide, ?_⟩
  · simp [nodeTest, bne, beq_eq_decide]
  · simp [nodeTest, BitVec.slt_eq_decide, ← decide_not]
  · simp [nodeTest, BitVec.ult_eq_decide, ← decide_not]

/-- Settles O38: what stands in the launch window, and what the evaluator's step on the next node comes to. -/
theorem hostLaunchesAndGraphs : Obligations.HostLaunchesAndGraphs := by
  unfold Obligations.HostLaunchesAndGraphs
  refine ⟨fun x v s s1 h t keep => ⟨hostLaunch_behind, fun hp => ⟨hostLaunch_first hp, hostLaunch_idle hp⟩,
    fun rest hp => ⟨hostLaunch_unloaded hp, fun hf hc => ⟨hostLaunch_tried hp hf hc, hostLaunch_tried hp hf hc, hostLaunch_tried hp hf hc⟩⟩⟩,
    fun x gr s s1 s2 s3 s4 l node n i t keep v r => ⟨fun hi hl hn hst he => ?_, fun ht hout hw => runs_graphAct_condition hout hw ht,
      fun ht hout hw hd => ⟨fun hr hm => runs_graphAct_loop hout hw ht hd hr hm, runs_graphAct_loopEnd hout hw ht hd⟩, nodeTest_spec⟩⟩
  rw [exec_graphNode hi]
  exact ⟨fun hr ha => graphStep_acts hl hn hst he (runs_nodeTurn hr ha), fun hr hf => graphStep_fails hl hn hst he (raises_bind hr) hf,
    fun hr ha hf => graphStep_fails hl hn hst he (raises_nodeTurn hr ha) hf⟩

end Sys2Proof.Machine
end

section
/-! PROOFS. The dispatch of a head, and which head is served (R266 to R268, R270, R281, O40). -/

namespace Sys2Proof.Machine

open Sys2Proof

/-! ### A single context with a head that fits (R267) -/

/-- The pre-emptions that the heads of all contexts start (R281). -/
def State.preemptAll (s : State) : State :=
  (List.finRange 16).foldl (fun t x => prios.foldl (fun u p => u.tryDo (preemptFor x p)) t) s

section
variable {s : State} {x : CtxId} {p : Fin 4} {q : QHead} {ps : List Placement} (hx : s.fitting x = some (p, q, ps))
  (hne : ∀ y, y ≠ x → s.fitting y = none)
include hx hne

theorem State.largestTokens_single : s.largestTokens = some (s.ctx x).desc.tokens := by
  refine foldl_brings (c := x) (I := (· = none)) (P := (· = some (s.ctx x).desc.tokens)) (fun t y hy ht => ?_) (fun t y ht => ?_)
    (List.mem_finRange x) (fun t ht => ?_) rfl
  · rw [hne y hy]
    exact ht
  · by_cases hy : y = x
    · rw [hy, hx, ht]
      exact congrArg some (max_self _)
    · rw [hne y hy]
      exact ht
  · rw [hx, ht]
    exact congrArg some (Nat.zero_max _)

/-- The others are passed over; at its first visit the context's deficit reaches its own tokens. -/
theorem serve_single (f n k : Nat) (hk : k < f) (hn : (Fin.ofNat 16 (n + k) : CtxId) = x) :
    serve (s.ctx x).desc.tokens f n s =
      { (s.onCtx x fun c => { c with visits := 0 }).dispatch x p q ps with lastCtx := x } := by
  induction f generalizing n k with
  | zero => exact absurd hk (Nat.not_lt_zero k)
  | succ f ih =>
    by_cases hnx : (Fin.ofNat 16 n : CtxId) = x
    · rw [serve, hnx, hx]
      dsimp only
      rw [if_pos (by simp)]
      rw [State.onCtx_congr (f' := fun c => { c with visits := 0 }) (by simp)]
    · obtain ⟨m, rfl⟩ := Nat.exists_eq_succ_of_ne_zero fun h : k = 0 => hnx (by rw [← hn, h, Nat.add_zero])
      rw [serve, hne _ hnx]
      exact ih (n + 1) m (Nat.lt_of_succ_lt_succ hk) (by rw [← hn]; congr 1; omega)

theorem dispatchDecision_single (hs : s.safe = false) : exec .dispatchDecision s =
    .next ({ (s.onCtx x fun c => { c with visits := 0 }).dispatch x p q ps with lastCtx := x } : State).preemptAll := by
  refine (exec_dispatchDecision s).trans ?_
  rw [execDispatchDecision, if_neg (ne_true_of_eq_false hs), State.largestTokens_single hx hne]
  dsimp only
  rw [serve_single hx hne 272 (s.lastCtx.val + 1) ((x.val + 31 - s.lastCtx.val) % 16) (by omega)
    (Fin.ext (show _ % 16 = x.val by omega))]
  rfl

end

/-! ### The groups of a dispatch (R266, R268, R270) -/

/-- The record of the n-th group that a head gives. -/
def QHead.recordOf (q : QHead) (n : Nat) : Record :=
  match q.item with
  | .cursor l i => cursorRecord q.level l (i + n)
  | .record r => r

/-- Putting groups into their slots, one after another. -/
def State.placeGroups (s : State) (x : CtxId) (h : Header) (clustered : Bool) (batch : Nat) (rs : List (Placement × Record)) : State :=
  rs.foldl (fun t p => t.placeGroup x p.2 h clustered batch p.1) s

section
variable (s : State) (x : CtxId) (h : Header) (clustered : Bool) (batch : Nat)

theorem State.placeGroup_frame (r : Record) (p : Placement) : (s.placeGroup x r h clustered batch p).dispatchSeq = s.dispatchSeq + 1
    ∧ (s.placeGroup x r h clustered batch p).cycle = s.cycle := ⟨rfl, rfl⟩

theorem State.group_placeGroup_same (r : Record) (p : Placement) : (s.placeGroup x r h clustered batch p).group p.core p.slot =
    some (Group.fresh x r h p clustered s.dispatchSeq batch s.cycle.toNat) :=
  State.group_setGroup_same ..

theorem State.group_placeGroup_other (r : Record) {p : Placement} {c : CoreId} {i : SlotId} (hp : ¬ (p.core = c ∧ p.slot = i)) :
    (s.placeGroup x r h clustered batch p).group c i = s.group c i :=
  State.group_setGroup_other _ _ fun ⟨hc, hi⟩ => hp ⟨hc.symm, hi.symm⟩

theorem State.placeGroups_cons (r : Placement × Record) (rs : List (Placement × Record)) : s.placeGroups x h clustered batch (r :: rs) =
    (s.placeGroup x r.2 h clustered batch r.1).placeGroups x h clustered batch rs := rfl

theorem State.dispatchSeq_placeGroups (rs : List (Placement × Record)) :
    (s.placeGroups x h clustered batch rs).dispatchSeq = s.dispatchSeq + rs.length := by
  induction rs generalizing s with
  | nil => rfl
  | cons r rs ih =>
    rw [State.placeGroups_cons, ih, (s.placeGroup_frame x h clustered batch r.2 r.1).1, List.length_cons]
    omega

theorem State.group_placeGroups_other {rs : List (Placement × Record)} {c : CoreId} {i : SlotId}
    (hrs : ∀ r ∈ rs, ¬ (r.1.core = c ∧ r.1.slot = i)) : (s.placeGroups x h clustered batch rs).group c i = s.group c i := by
  induction rs generalizing s with
  | nil => rfl
  | cons r rs ih =>
    obtain ⟨hr, hrest⟩ := List.forall_mem_cons.mp hrs
    exact (ih (s.placeGroup x r.2 h clustered batch r.1) hrest).trans (s.group_placeGroup_other x h clustered batch r.2 hr)

/-- Groups put into different slots stand there as they were put, numbered in order. -/
theorem State.group_placeGroups {rs : List (Placement × Record)} (hd : (rs.map fun r => (r.1.core, r.1.slot)).Nodup) {n : Nat}
    {a : Placement} {r : Record} (hn : rs[n]? = some (a, r)) : (s.placeGroups x h clustered batch rs).group a.core a.slot =
      some (Group.fresh x r h a clustered (s.dispatchSeq + n) batch s.cycle.toNat) := by
  induction rs generalizing s n with
  | nil => cases hn
  | cons r0 rs ih =>
    obtain ⟨hnot, hrest⟩ := List.nodup_cons.mp hd
    cases n with
    | zero =>
      obtain rfl := Option.some.inj hn
      have hkeep : ∀ b ∈ rs, ¬ (b.1.core = a.core ∧ b.1.slot = a.slot) := fun b hb hsame =>
        hnot (List.mem_map.mpr ⟨b, hb, Prod.ext hsame.1 hsame.2⟩)
      rw [State.placeGroups_cons, State.group_placeGroups_other _ x h clustered batch hkeep]
      exact s.group_placeGroup_same x h clustered batch r a
    | succ n =>
      obtain ⟨hseq, hcycle⟩ := s.placeGroup_frame x h clustered batch r0.2 r0.1
      rw [State.placeGroups_cons, ih (s.placeGroup x r0.2 h clustered batch r0.1) hrest hn, hseq, hcycle, Nat.add_assoc, Nat.add_comm 1 n]

end

theorem State.readyQ_setReady_same (s : State) (x : CtxId) (p : Fin 4) (q : ReadyQueue) : (s.setReady x p q).readyQ x p = q := by
  simp [State.setReady, State.readyQ]

theorem State.readyQ_onCtx_of_ready (s : State) {x : CtxId} (p : Fin 4) {f : Context → Context} (hf : (f (s.ctx x)).ready = (s.ctx x).ready) :
    (s.onCtx x f).readyQ x p = s.readyQ x p := by
  rw [State.readyQ, State.ctx_onCtx_same, hf]
  rfl

section
variable (s : State) (x : CtxId) (p : Fin 4) (q : QHead) (ps : List Placement)

/-- The placements of a dispatch with their records. -/
def QHead.placed (q : QHead) (ps : List Placement) : List (Placement × Record) := ps.zipIdx.map fun a => (a.1, q.recordOf a.2)

/-- The state in which the groups of a dispatch stand in their slots. -/
def State.placeHead : State := s.placeGroups x q.header q.cluster s.dispatchSeq (q.placed ps)

theorem State.dispatch_eq : s.dispatch x p q ps =
    { ((s.placeHead x q ps).setReady x p ((s.readyQ x p).take ps.length q.level.count)).onCtx x fun c =>
        { c with reserved := c.reserved.filter fun r => r.item != q.item }
      with rrPtr := Fin.ofNat 128 (((ps.getLast?.map Placement.core).getD s.rrPtr).val + 1) } := rfl

theorem QHead.length_placed : (q.placed ps).length = ps.length := by simp [QHead.placed]

theorem QHead.placed_slots : (q.placed ps).map (fun r => (r.1.core, r.1.slot)) = ps.map fun a => (a.core, a.slot) := by
  conv_rhs => rw [← List.zipIdx_map_fst 0 ps]
  rw [QHead.placed, List.map_map, List.map_map]
  rfl

variable {ps}

theorem QHead.getElem?_placed {n : Nat} {a : Placement} (hn : ps[n]? = some a) : (q.placed ps)[n]? = some (a, q.recordOf n) := by
  simp [QHead.placed, List.getElem?_zipIdx, hn]

theorem QHead.mem_of_mem_placed {r : Placement × Record} (hr : r ∈ q.placed ps) : r.1 ∈ ps := by
  obtain ⟨a, ha, rfl⟩ := List.mem_map.mp hr
  exact List.fst_mem_of_mem_zipIdx ha

theorem State.group_dispatch (hd : (ps.map fun a => (a.core, a.slot)).Nodup) {n : Nat} {a : Placement} (hn : ps[n]? = some a) :
    (s.dispatch x p q ps).group a.core a.slot =
      some (Group.fresh x (q.recordOf n) q.header a q.cluster (s.dispatchSeq + n) s.dispatchSeq s.cycle.toNat) :=
  s.group_placeGroups x q.header q.cluster s.dispatchSeq ((q.placed_slots ps).symm ▸ hd) (q.getElem?_placed hn)

theorem State.group_dispatch_other {c : CoreId} {i : SlotId} (h : ∀ a ∈ ps, ¬ (a.core = c ∧ a.slot = i)) :
    (s.dispatch x p q ps).group c i = s.group c i :=
  s.group_placeGroups_other x q.header q.cluster s.dispatchSeq fun r hr => h r.1 (q.mem_of_mem_placed hr)

theorem State.dispatchSeq_dispatch : (s.dispatch x p q ps).dispatchSeq = s.dispatchSeq + ps.length :=
  (s.dispatchSeq_placeGroups x q.header q.cluster s.dispatchSeq (q.placed ps)).trans (congrArg _ (q.length_placed ps))

theorem State.rrPtr_dispatch {a : Placement} (ha : ps.getLast? = some a) : (s.dispatch x p q ps).rrPtr.val = (a.core.val + 1) % 128 := by
  rw [State.dispatch_eq, ha]
  rfl

theorem State.readyQ_dispatch : (s.dispatch x p q ps).readyQ x p = (s.readyQ x p).take ps.length q.level.count := by
  rw [State.dispatch_eq]
  refine Eq.trans ?_ ((s.placeHead x q ps).readyQ_setReady_same x p _)
  exact State.readyQ_onCtx_of_ready _ _ (f := fun c => { c with reserved := c.reserved.filter fun r => r.item != q.item }) rfl

end

/-- A cursor moves on, or leaves its queue with the last group of its launch. -/
theorem ReadyQueue.items_take_cursor {q : ReadyQueue} {l i : Nat} {rest : List ReadyItem} (hq : q.items = .cursor l i :: rest) (n count : Nat) :
    (q.take n count).items = if i + n < count then .cursor l (i + n) :: rest else rest := by
  rw [ReadyQueue.take, hq]
  exact apply_ite ReadyQueue.items ..

theorem ReadyQueue.items_take_record {q : ReadyQueue} {r : Record} {rest : List ReadyItem} (hq : q.items = .record r :: rest) (n count : Nat) :
    (q.take n count).items = rest := by
  rw [ReadyQueue.take, hq]

/-! ### Where a head fits (R268, R270) -/

section
variable {s : State} {x : CtxId} {it : ReadyItem} {h : Header} {q : QHead} {ps : List Placement}

theorem State.core_of_fitOn {c : CoreId} {without : Option SlotId} {a : Placement} (hf : s.fitOn x it h c without = some a) : a.core = c := by
  unfold State.fitOn at hf
  split at hf
  · cases hf
  · dsimp only at hf
    split at hf
    · obtain rfl := Option.some.inj hf
      rfl
    · cases hf

theorem State.fitHead_single (hc : q.cluster = false) (hf : s.fitHead x q = some ps) :
    ∃ a, ps = [a] ∧ s.fitOn x q.item q.header a.core none = some a := by
  rw [State.fitHead, hc, if_neg Bool.false_ne_true] at hf
  obtain ⟨a, ha, rfl⟩ := Option.map_eq_some_iff.mp hf
  obtain ⟨c, -, hfit⟩ := List.exists_of_findSome?_eq_some ha
  exact ⟨a, rfl, (State.core_of_fitOn hfit).symm ▸ hfit⟩

/-- The cores of a cluster stand in order. -/
theorem getElem?_clusterCores {k n : Nat} (hk : k < 32) {c : CoreId} (h : (clusterCores k)[n]? = some c) : c.val = 4 * k + n := by
  obtain ⟨m, hm, rfl⟩ : ∃ m, (List.range 4)[n]? = some m ∧ Fin.ofNat 128 (4 * k + m) = c := by
    simpa [clusterCores] using h
  obtain ⟨hn, rfl⟩ := List.getElem?_eq_some_iff.mp hm
  rw [List.length_range] at hn
  rw [List.getElem_range]
  exact Nat.mod_eq_of_lt (by omega)

theorem State.fitHead_cluster (hc : q.cluster = true) (hf : s.fitHead x q = some ps) : ps.length = 4 ∧ ∃ k < 32, ∀ n a, ps[n]? = some a →
    a.core.val = 4 * k + n ∧ s.fitOn x q.item q.header a.core none = some a := by
  rw [State.fitHead, hc, if_pos rfl] at hf
  obtain ⟨k, hk, hfit⟩ := List.exists_of_findSome?_eq_some hf
  have hk32 : k < 32 := by
    obtain ⟨i, -, rfl⟩ := List.mem_map.mp hk
    exact Nat.mod_lt _ (by decide)
  rw [allSome_eq_some] at hfit
  refine ⟨by simpa [clusterCores] using (congrArg List.length hfit).symm, k, hk32, fun n a hn => ?_⟩
  obtain ⟨c, hcn, hca⟩ : ∃ c, (clusterCores k)[n]? = some c ∧ s.fitOn x q.item q.header c none = some a := by
    have := congrArg (·[n]?) hfit
    simpa [hn] using this
  have hcore := State.core_of_fitOn hca
  exact ⟨by rw [hcore]; exact getElem?_clusterCores hk32 hcn, hcore.symm ▸ hca⟩

end

end Sys2Proof.Machine
end

section
/-! PROOFS. The scheduler's steps on a slot, and with dispatch what the scheduler does (R249, R269, R271, R283, R285 to R288, O40). -/

namespace Sys2Proof.Machine

open Sys2Proof

/-! ### The start of a group (R249, R269) -/

/-- A group whose compute role has started at an address. -/
def Group.started (g : Group) (s : State) (c : CoreId) (i : SlotId) (d : LaunchDesc) (h : Header) (pc : Nat) : Group :=
  { g.onRole .compute fun k => { k with status := .running, pc := BitVec.ofNat 64 pc, regs := startRegs s c i g d.args }
    with state := .running, estimate := h.estimate, estimateSet := s.cycle.toNat }

theorem Group.role_started (g : Group) (s : State) (c : CoreId) (i : SlotId) (d : LaunchDesc) (h : Header) (pc : Nat) :
    (g.started s c i d h pc).role .compute =
      { g.role .compute with status := .running, pc := BitVec.ofNat 64 pc, regs := startRegs s c i g d.args } := vget_vset_same ..

section
variable (s : State) (c : CoreId) (i : SlotId) (g : Group) (args : Nat)

/-- What R269 gives each register of the compute role. -/
def startReg (j : Fin 64) : Nat :=
  match j.val with
  | 2 => g.record.index
  | 3 => g.record.frame
  | 4 => args
  | 5 => (s.placeWord c i g.ctx).toNat
  | 6 => 2 ^ 60 + c.val * 2 ^ 53 + g.unitBase * 2 ^ 16
  | 7 => 2 ^ 60 + c.val * 2 ^ 53 + g.unitBase * 2 ^ 16 + g.units * 2 ^ 16
  | _ => 0

theorem startReg_zero {j : Fin 64} (h : j ∉ ([2, 3, 4, 5, 6, 7] : List (Fin 64))) : startReg s c i g args j = 0 := by
  simp [Fin.ext_iff] at h
  unfold startReg
  split <;> omega

theorem startRegs_eq : startRegs s c i g args =
    ([2, 3, 4, 5, 6, 7] : List (Fin 64)).foldl (fun v r => vset v r (BitVec.ofNat 64 (startReg s c i g args r))) (Vector.replicate 64 0) := by
  simp [startRegs, startReg, arenaStart]

theorem startRegs_get (j : Fin 64) : (startRegs s c i g args).get j = BitVec.ofNat 64 (startReg s c i g args j) := by
  rw [startRegs_eq]
  refine (vget_foldl_vset (fun r => BitVec.ofNat 64 (startReg s c i g args r)) [2, 3, 4, 5, 6, 7] (Vector.replicate 64 0) j).trans ?_
  split
  case isTrue => rfl
  case isFalse h =>
    rw [startReg_zero s c i g args h]
    exact vector_get_replicate 0 j

end

/-! ### Groups that are restored, killed or marked (R283, R287, R288) -/

/-- A group whose restore sequence has ended, with the mark that pre-emption has given it meanwhile. -/
def Group.restored (g : Group) (cont : Word) (mark : Mark) : Group :=
  ({ g.onRole .compute fun k => { k.goto cont.toNat with line := [] } with state := .running } : Group).mark mark

theorem Group.role_restored (g : Group) (cont : Word) (mark : Mark) :
    (g.restored cont mark).role .compute = { (g.role .compute).goto cont.toNat with line := [] } := vget_vset_same ..

theorem Group.state_restored (g : Group) (cont : Word) (mark : Mark) : (g.restored cont mark).state = (match mark with
    | .none => .running
    | .drain => .draining
    | .checkpoint since => .marked since) := by
  cases mark <;> rfl

/-- A group that is to be killed, from then on: when that began stands in it, and nothing is kept for replay. -/
def State.killBegun (s : State) (c : CoreId) (i : SlotId) (g : Group) : State :=
  s.onGroup c i fun z => { z with drainAt := some (g.drainAt.getD s.cycle.toNat), squashed := [] }

theorem State.dropCopies_none {s : State} {c : CoreId} {i : SlotId} {g : Group} (hq : ∀ j ∈ (s.core c).cmds, j.of i g = false)
    (which : Cmd → Bool) : s.dropCopies c i g which = s := by
  rw [State.dropCopies, List.filter_eq_nil_iff.mpr fun j hj => by simp [hq j hj]]
  rfl

theorem Group.markedSince_of {g : Group} {since : Nat} (hm : g.state = .marked since ∨ ∃ cont, g.state = .restoring cont (.checkpoint since)) :
    g.markedSince = some since := by
  obtain hm | ⟨cont, hm⟩ := hm <;> rw [Group.markedSince, hm]

/-! ### The steps on a slot (R269, R283, R286, R287) -/

section
variable {s s1 : State} {c : CoreId} {i : SlotId} {g : Group} (hg : s.group c i = some g)
include hg

theorem groupStart_starts {d : LaunchDesc} {h : Header} (hst : g.state = .starting) (hck : g.record.ckpt = false)
    (hd : s.descOf g = some d) (hh : s.headerOf g = some h) (hctx : (s.ctx g.ctx).state ≠ .draining) :
    exec (.groupStart c i) s = .next (s.setGroup c i
      (some (g.started s c i d h (if g.record.code = 0 then entryPc d h else g.record.code)))) := by
  refine (exec_groupStart ..).trans ?_
  rw [execGroupStart, hg]
  dsimp only
  rw [hd, hh]
  dsimp only
  rw [if_neg (by simp [hst, hck]), if_neg (by simp [hctx])]
  rfl

/-- What a part of the restore comes to. -/
def State.restoreOutcome (s : State) (c : CoreId) (i : SlotId) (g : Group) : Except Stop (Unit × State) → Host.Outcome State Fault Refusal
  | .ok (_, t) => .next { t with cur := s.cur }
  | .error (.trap t keep) => .next (({ keep.getD s with cur := s.cur } : State).takeFault ⟨c, i, .compute⟩ t (restorePc s c i g) false)
  | .error .wait => .next s
  | .error (.ask f) => .next (f s)
  | .error (.halt f) => .fault f

theorem groupRestore_due (hdue : g.state = .starting ∧ g.record.ckpt = true ∨ ∃ n r w, g.state = .replaying n r w)
    (hs : (g.role .compute).stalled = false) {r : Except Stop (Unit × State)} (hr : restoreStep c i g s = r) :
    exec (.groupRestore c i) s = s.restoreOutcome c i g r := by
  subst hr
  refine (exec_groupRestore ..).trans ?_
  rw [execGroupRestore, hg]
  dsimp only
  obtain ⟨hst, hck⟩ | ⟨n, r, w, hst⟩ := hdue
  · rw [hst]
    exact if_neg (by simp [hck, hs])
  · rw [hst]
    exact if_neg (by simp [hs])

theorem restoreSequenceEnd_running {cont : Word} {mark : Mark} (hst : g.state = .restoring cont mark) (he : (g.role .compute).ended = true)
    (hs : (g.role .compute).stalled = false) (hctx : (s.ctx g.ctx).state = .running) :
    exec (.restoreSequenceEnd c i) s = .next (s.setGroup c i (some (g.restored cont mark))) := by
  refine (exec_restoreSequenceEnd ..).trans ?_
  rw [execRestoreSequenceEnd, hg]
  dsimp only
  rw [hst]
  dsimp only
  rw [if_neg (by simp [he, hs]), hctx]
  rfl

theorem saveSequenceEnd_pushes {cont frame : Word} (hst : g.state = .saving cont frame) (he : (g.role .compute).ended = true)
    (hs : (g.role .compute).stalled = false) (hp : Runs (pushRecord g.ctx ⟨cont.toNat, frame.toNat, g.record.join, g.record.index,
      g.record.launch, recordFlags g.record.prio.val g.record.pj true g.record.clu⟩ true) s () s1) :
    exec (.saveSequenceEnd c i) s = .next ((s1.takeStreams ⟨c, i, .compute⟩ g).vacate c i) := by
  refine (exec_saveSequenceEnd ..).trans ?_
  rw [execSaveSequenceEnd, hg]
  dsimp only
  rw [hst]
  dsimp only
  rw [if_neg (by simp [he, hs])]
  exact partStep_runs (runs_bind hp (runs_modify _ s1))

/-- Once nothing of the group is under way its streams are released, and then it leaves. -/
theorem groupKill_quiet {again ended retire : Bool} (hst : g.state = .dying again ended retire) (hr : s.groupResults c i g = false)
    (hq : ∀ j ∈ (s.core c).cmds, j.of i g = false) : exec (.groupKill c i) s =
      let s2 := (s.killBegun c i g).releaseStreams ⟨c, i, .compute⟩ g
      if (s2.streamsOf ⟨c, i, .compute⟩ g).isEmpty then partStep (killEnd c i g again ended) s2 else .next s2 := by
  have hq1 : ∀ j ∈ ((s.killBegun c i g).core c).cmds, j.of i g = false := by rwa [State.killBegun, State.cmds_onGroup]
  have hwait (since : Nat) : (s.killBegun c i g).killWaits c i g since retire = false :=
    List.any_eq_false.mpr fun j hj => by simp [hq1 j hj]
  refine (exec_groupKill ..).trans ?_
  rw [execGroupKill, hg]
  dsimp only
  rw [hst]
  dsimp only
  rw [show (s.onGroup c i fun z => { z with drainAt := some (g.drainAt.getD s.cycle.toNat), squashed := [] }) = s.killBegun c i g from rfl,
    State.dropCopies_none hq1, State.dropCopies_none hq1, hr, hwait]
  rfl

/-- A group that has made no checkpoint in time gets the treatment of R283: in a running context by a decision, which is logged. -/
theorem checkpointTimeout_late {since : Nat} {h : Header}
    (hm : g.state = .marked since ∨ ∃ cont, g.state = .restoring cont (.checkpoint since)) (hh : s.headerOf g = some h)
    (hlate : since + h.yieldmax ≤ s.cycle.toNat) (hdr : g.drainAt = none) : exec (.checkpointTimeout c i) s =
      let late := if h.restartable then 2 else 0
      if (s.ctx g.ctx).state == .running then
        partStep (do
          let t ← decideTreatment g.ctx c g late
          modify fun s => (s.treat c i t).leaveYield c i) s
      else .next ((s.treat c i late).leaveYield c i) := by
  refine (exec_checkpointTimeout ..).trans ?_
  rw [execCheckpointTimeout, hg]
  dsimp only
  rw [Group.markedSince_of hm, hh]
  exact if_neg (by simp [hdr, hlate])

end

/-- Settles O40: the head that is served and what its dispatch leaves; then each step on a slot. -/
theorem dispatchAndSlots : Obligations.DispatchAndSlots := by
  unfold Obligations.DispatchAndSlots
  refine ⟨fun s x p q ps hs hx hne => ⟨State.preemptAll, dispatchDecision_single hx hne hs, fun _ => rfl⟩, fun s x p q ps => ?_,
    fun c i s s1 g d h t keep hg => ⟨?_, ?_, ?_, ?_, ?_, ?_, ?_⟩⟩
  · intro d
    refine ⟨fun hd => ⟨fun n a hn => ?_, fun c i hne => s.group_dispatch_other x p q hne⟩, s.dispatchSeq_dispatch x p q,
      fun a ha => s.rrPtr_dispatch x p q ha, fun l i rest hq => ?_, fun r rest hq => ?_,
      fun hf => ⟨fun hc => State.fitHead_single hc hf, fun hc => State.fitHead_cluster hc hf⟩⟩
    · refine ⟨Group.fresh x (q.recordOf n) q.header a q.cluster (s.dispatchSeq + n) s.dispatchSeq s.cycle.toNat, s.group_dispatch x p q hd hn, ?_⟩
      exact ⟨rfl, rfl, rfl, rfl, rfl, rfl, rfl, rfl, rfl, rfl, rfl, rfl, rfl, fun r =>
        congrArg Role.status (vector_get_replicate Role.fresh (roleIx r))⟩
    · rw [s.readyQ_dispatch x p q]
      exact ReadyQueue.items_take_cursor hq ..
    · rw [s.readyQ_dispatch x p q]
      exact ReadyQueue.items_take_record hq ..
  · intro hst hck hd hh hctx
    exact ⟨_, _, groupStart_starts hg hst hck hd hh hctx, Group.role_started .., rfl, rfl, rfl, rfl, rfl, rfl, startRegs_get s c i g d.args⟩
  · intro hst hck hs
    exact ⟨groupRestore_due hg (.inl ⟨hst, hck⟩) hs, groupRestore_due hg (.inl ⟨hst, hck⟩) hs⟩
  · exact fun n r w hst hs => groupRestore_due hg (.inr ⟨n, r, w, hst⟩) hs
  · intro cont mark hst he hs hctx
    refine ⟨_, restoreSequenceEnd_running hg hst he hs hctx, g.state_restored cont mark, ?_⟩
    rw [g.role_restored cont mark]
    exact ⟨rfl, rfl⟩
  · exact fun cont frame hst he hs hp => saveSequenceEnd_pushes hg hst he hs hp
  · intro again ended retire s2 hst hr hq hs2
    have hkill := groupKill_quiet hg hst hr hq
    rw [State.killBegun, ← hs2] at hkill
    exact ⟨fun hl => hkill.trans (if_neg (mt List.isEmpty_iff.mp hl)),
      fun hl hk => hkill.trans ((if_pos (List.isEmpty_iff.mpr hl)).trans (partStep_runs hk))⟩
  · intro since hm hh hlate hdr late
    have hto := checkpointTimeout_late hg hm hh hlate hdr
    exact ⟨fun hn => hto.trans (if_neg (mt beq_iff_eq.mp hn)),
      fun hn m hd => hto.trans ((if_pos (beq_iff_eq.mpr hn)).trans (partStep_runs (runs_bind hd (runs_modify _ s1))))⟩

end Sys2Proof.Machine
end
